-- ==== Sys2Proof/Word.lean ====
section
/-! DEFINITION. The word types of the Ramain T64 and their plainest arithmetic. -/

namespace Sys2Proof

/-- A byte of any memory (R8). -/
abbrev Byte := BitVec 8
/-- A 16-bit field. -/
abbrev W16 := BitVec 16
/-- A 32-bit field, register or FP32 code. -/
abbrev W32 := BitVec 32
/-- A 64-bit field or register. -/
abbrev W64 := BitVec 64
/-- A set of comb lines λ0-λ33, bit k for λk (R231). -/
abbrev LambdaSet := BitVec 34
/-- Module coordinates, [5:0] x, [11:6] y, [17:12] z (R236, R274). -/
abbrev Coord := BitVec 18

end Sys2Proof
end

