-- ==== Sys2Proof/Syntax.lean ====
section
/-! DEFINITION. The commands of the T64: one constructor of `Instr` for every row of the table of operations and events,
with the operands the outside world gives each. -/

namespace Sys2Proof

/-- What the outside world supplies while a step runs: host bytes that became visible (port, address, byte), whether the
step's reads of host memory fail or return poison (R428, R351), the 32-byte groups whose reads find an uncorrectable error
(R346), bytes that other modules' memories return (peer key, address, byte; R37, R110), and the status with which an access
that reaches an address at a peer ends (R110). A peer's key is its coordinates for a DA, and 2^18 more for an address of its context. -/
structure Env where
  host : List (Nat × Nat × Byte) := []
  hostFail : Bool := false
  hostPoison : Bool := false
  ue : List Nat := []
  ce : List Nat := []
  lineUe : List Nat := []
  lineCe : List Nat := []
  remote : List (Nat × Nat × Byte) := []
  remotePoison : List (Nat × Nat) := []
  remoteFail : List (Nat × Nat × Nat) := []
  deriving DecidableEq, Repr

/-- The environment that adds nothing. -/
def Env.none : Env := {}

/-- The shape a channel or collective message declares: ELEM, SCALE_FMT and sizes (R287, R313). -/
structure Shape where
  elem : Nat
  scaleFmt : Nat
  sizes : List Nat
  deriving DecidableEq, Repr

/-- One message of a collective's die slice: a partial or a result (R288-R294, R316). `first` and `units` name the channel
groups of the slice that it concerns, 32 values each; results carry one more value, the scale, for each group. -/
structure CollMsg where
  collId : W16
  step : W32
  opcode : Nat
  op : Nat
  tree : Bool
  destSizes : List Nat
  die : Nat
  axis : Nat
  first : Nat
  units : Nat
  values : List W64
  poisoned : List Bool
  mask : Nat
  count : Nat
  sumSq : W32
  nonFinite : Bool
  asTwin : Bool
  deriving DecidableEq, Repr

/-- A transfer of one block of an owned tensor, or of a twin's tensor, at its owner (R109, R110, R379). -/
structure BlockReq where
  job : W32
  peer : Coord
  die : Nat
  write : Bool
  addr : W64
  bytes : List Byte
  count : Nat
  poisoned : List Nat
  twinStep : Option W32
  deriving DecidableEq, Repr

/-- A memory access of KIND 2 from another module (R37, R236). -/
inductive MemAccess where
  | read (da : W64) (count : Nat)
  | write (da : W64) (bytes : List Byte) (poisoned : List Nat)
  | add (da : W64) (op elem : Nat) (grad : Bool) (bytes : List Byte) (poisoned : List Nat)
  deriving DecidableEq, Repr

/-- The content of a message between modules. The manual names these contents and gives no encoding of them (log 15). -/
inductive Msg where
  | signal (index : Nat) (set : Bool) (value : W64)
  | channel (chan : Nat) (seq : Nat) (shape : Shape) (bytes : List Byte) (poisoned : List Nat)
  | grant (chan peerChan slots slotBytes : Nat)
  | credit (chan count : Nat)
  | delivered (chan seq : Nat)
  | accepted (chan : Nat)
  | collPartial (m : CollMsg)
  | collResult (m : CollMsg)
  | collCredit (collId : W16) (step : W32) (die : Nat) (asTwin : Bool) (count : Nat)
  | agree (collId : W16) (step : W32) (asTwin : Bool) (bit : Bool) (final : Bool)
  | block (r : BlockReq)
  | blockReply (addr : W64) (bytes : List Byte) (ok : Bool) (poisoned : List Nat)
  | access (a : MemAccess)
  | accessReply (da : W64) (bytes : List Byte) (poisoned : List Nat)
  | applied (msgId : W16) (ok : Bool)
  deriving DecidableEq, Repr

/-- A frame's payload: bytes, or the piece of a message that starts `off` bytes into it (log 15). -/
inductive Payload where
  | raw (bytes : List Byte)
  | piece (m : Msg) (off : Nat) (len : Nat)
  deriving DecidableEq, Repr

/-- A data frame with its header (R236); `poison` names the words of its payload that are sent as poison blocks (R346). -/
structure Frame where
  kind : Nat
  version : Byte
  seq : W16
  ack : W16
  cls : Nat
  first : Bool
  last : Bool
  bound : Bool
  lset : Nat
  src : W32
  dst : W32
  binding : W32
  srcCtx : Nat
  srcEpoch : Byte
  msgId : W16
  frameIdx : W16
  payload : Payload
  poison : List Nat := []
  crc : W32
  deriving DecidableEq, Repr

/-- A control frame: its version, sequence, acknowledgements, ends, arguments and CRC (R236, R241, R242). -/
structure Ctrl where
  version : Byte := 0x01
  op : Nat
  src : W32
  dst : W32
  seq : W16
  cack : W16
  ack : W16
  arg0 : W32
  arg1 : W64
  arg2 : W64
  arg3 : W64
  crc : W32 := 0
  deriving DecidableEq, Repr

/-- The header of a mortar packet (R22, R24, R31, R346): its class (0 SYNC, 1 REQ, 2 RSP, 3 COLL), source and destination dies, the port of
the destination die through which it leaves, its number in its class at the sending port, its 32-byte groups of data, and the poisoned
ones. The manual names these contents and gives no layout of them (log 36). -/
structure PacketHead where
  cls : Nat
  src : Nat
  dst : Nat
  exit : Option Nat
  order : Nat
  words : Nat
  poison : List Nat
  deriving DecidableEq, Repr

/-- A flit's 28 bytes of payload: bytes, or a packet's header. -/
inductive FlitBody where
  | raw (bytes : List Byte)
  | head (p : PacketHead)
  deriving DecidableEq, Repr

/-- A mortar flit (R22). -/
structure Flit where
  payload : FlitBody
  kind : Nat
  seq : Nat
  ack : Nat
  crc : W16
  deriving DecidableEq, Repr

/-- One engine with a watchdog (R357). -/
inductive EngineId where
  | copy (die n : Nat)
  | gather (die n : Nat)
  | prefetch (die : Nat)
  | reduction (die : Nat)
  | array (die tile : Nat)
  | vector (die tile : Nat)
  | hbm (die : Nat)
  | ringLogic (port : Nat)
  deriving DecidableEq, Repr

/-- One clock island (R406). -/
inductive Island where
  | tile (die tile : Nat)
  | fabric (die : Nat)
  | mortar (die port : Nat)
  | opticalIface (engine : Nat)
  | hbm (die : Nat)
  | bridge (port : Nat)
  | keystone (n : Nat)
  | optical (engine : Nat)
  /-- The mortar port ends of an optical engine, a host bridge and a keystone: one for each link. -/
  | engineMortar (engine : Nat)
  | bridgeMortar (port link : Nat)
  | keystoneMortar (n link : Nat)
  deriving DecidableEq, Repr

/-- What a start-up step found (R388, R392, R26, R208, R228). -/
inductive StepReport where
  | clean
  | lanes (die port lg wire0 wire1 count : Nat)
  | stackLost (stack : Nat)
  | unrepairable (die tile row : Nat)
  | dieFailed (die : Nat)
  | footingFault
  | combDark (group : Nat)
  deriving DecidableEq, Repr

/-- A requester of an HBM controller: one engine of one die, or the optics of one optical engine (R217). -/
inductive HbmRequester where
  | operandPort (die tile : Nat)
  | copyEngine (die n : Nat)
  | gatherEngine (die n : Nat)
  | prefetchUnit (die : Nat)
  | reductionEngine (die : Nat)
  | pageWalker (die : Nat)
  | optics (engine : Nat)
  deriving DecidableEq, Repr

/-- The class of an HBM request (R216). -/
inductive HbmClass where
  | crit
  | bulk
  | prefetch
  deriving DecidableEq, Repr

/-- The commands, in the order of the table. `ring` and `index` name a command of a work ring by its ring and its ring
index; `port` is a host port; `fport` and `link` name a link of a fibre port. -/
inductive Instr where
  -- rings (02)
  | workDoorbellPoll (ring : Nat) (env : Env)
  | cplDoorbellPoll (evt : Bool) (ring : Nat) (env : Env)
  | descriptorFetch (ring : Nat) (env : Env)
  | commandStart (ring : Nat) (env : Env)
  | headerWaitTimeout (ring : Nat)
  | commandComplete (ring : Nat) (index : W32)
  | cplRecordWrite (ring : Nat)
  | irqDelayExpiry (evt : Bool) (ring : Nat)
  | ringStart (port ring : Nat) (env : Env)
  | ringStop (port ring : Nat)
  | ringDrain (port ring : Nat) (env : Env)
  | drainPoll (ring : Nat) (env : Env)
  | ringResume (port ring : Nat)
  | ringEnSet (evt : Bool) (ring : Nat) (value : W32)
  | ringEnClear (evt : Bool) (ring : Nat) (value : W32)
  | registerWrite (port offset width : Nat) (value : W64)
  -- ring commands (02, 03, 12)
  | nop (ring : Nat) (index : W32)
  | fence (ring : Nat) (index : W32)
  | signal (ring : Nat) (index : W32)
  | wait (ring : Nat) (index : W32)
  | syncOperation (n : Nat) (ue : Bool)
  | commandTimeout (ring : Nat) (index : W32)
  | waitPrefetch (ring : Nat) (index : W32) (entry groups : Nat) (env : Env)
  -- data movement (04)
  | copy (ring : Nat) (index : W32) (env : Env)
  | gather (ring : Nat) (index : W32) (env : Env)
  | scatter (ring : Nat) (index : W32) (env : Env)
  | fill (ring : Nat) (index : W32) (env : Env)
  | engineAcquire (ring : Nat) (index : W32)
  | ownerBlockTransfer (req : BlockReq × Env)
  -- matrix and vector (05, 07)
  | matmul (ring : Nat) (index : W32) (env : Env)
  | stripTake (die tile : Nat)
  | outputTileDrain (die tile : Nat) (env : Env)
  | elementProgram (ring : Nat) (index : W32) (env : Env)
  | elementReduceRow (ring : Nat) (index : W32) (env : Env)
  | elementReduceCol (ring : Nat) (index : W32) (env : Env)
  | elementTopk (ring : Nat) (index : W32) (env : Env)
  | unitTake (die tile : Nat) (env : Env)
  | loadProgram (ring : Nat) (index : W32)
  | programLoadTile (die tile : Nat)
  | trgScrub (die tile : Nat)
  | slotScrub (die tile : Nat)
  | scrubPerform (die tile : Nat)
  -- collectives (11)
  | reduce (ring : Nat) (index : W32) (env : Env)
  | allgather (ring : Nat) (index : W32) (env : Env)
  | reduceScatter (ring : Nat) (index : W32) (env : Env)
  | collSliceStart (ring : Nat) (index : W32) (die : Nat) (env : Env)
  | collPartialReceive (ctx : Nat) (m : CollMsg) (src : Coord) (msgId : W16)
  | collResultReceive (ctx : Nat) (m : CollMsg) (src : Coord) (env : Env)
  | treeDeadlineExpiry (ring : Nat) (index : W32) (die : Nat)
  | collectiveTimeout (ring : Nat) (index : W32)
  -- channels (12)
  | send (ring : Nat) (index : W32) (env : Env)
  | recv (ring : Nat) (index : W32) (env : Env)
  | channelGrant (ctx : Nat) (peer : Coord) (chan peerChan slots slotBytes : Nat)
  | grantResend (ctx chan : Nat)
  | channelMessageArrive (ctx chan seq : Nat) (shape : Shape) (bytes : List Byte) (poisoned : List Nat) (env : Env)
  | channelCreditReturn (ctx chan count : Nat)
  -- training (12)
  | update (ring : Nat) (index : W32) (env : Env)
  | lossScaleWrite (ring : Nat) (index : W32)
  | lossScaleAgree (ring : Nat) (index : W32)
  | lossScaleSet (ring : Nat) (index : W32)
  | statsRead (ring : Nat) (index : W32)
  -- sequences (13)
  | seqSetStart (ring : Nat) (index : W32)
  | seqSetParams (ring : Nat) (index : W32)
  | seqSetAdvance (ring : Nat) (index : W32)
  | seqSetFinish (ring : Nat) (index : W32)
  | seqRetire (ring : Nat) (index : W32)
  -- capture, fencing, λ, twin (15, 09)
  | capture (ring : Nat) (index : W32)
  | peerFenceFence (ring : Nat) (index : W32) (env : Env)
  | peerFenceUnfence (ring : Nat) (index : W32) (env : Env)
  | lambdaSet (ring : Nat) (index : W32)
  | twinSyncMirror (ring : Nat) (index : W32) (env : Env)
  | twinSyncPull (ring : Nat) (index : W32) (env : Env)
  | twinSyncTakeover (ring : Nat) (index : W32)
  | twinSyncAsTwin (ring : Nat) (index : W32) (env : Env)
  | twinSyncHandback (ring : Nat) (index : W32)
  | reinstate (ring : Nat) (index : W32) (env : Env)
  -- contexts and binding (03)
  | contextClose (ring : Nat) (index : W32)
  | contextOpen (port ctx : Nat)
  | planReadDone (ctx : Nat) (env : Env)
  | contextCloseDrain (port ctx : Nat)
  | contextCloseFlush (port ctx : Nat)
  | quiesceExpiry (ctx : Nat)
  | teardownComplete (ctx : Nat)
  | numberHoldExpiry (ctx : Nat)
  | bindRequestReceive (fport link : Nat) (src : Coord) (job : W32) (msgId : W16)
  | bindRetry (n : Nat)
  | contextMessageReceive (fport link : Nat) (src : Coord) (msgId : W16) (ctx : Nat) (epoch : Byte) (step : Option W32) (m : Msg)
  | memoryAccessReceive (src : Coord) (a : MemAccess) (env : Env)
  -- memory (08)
  | xlatInv (port ctx : Nat)
  | xlatInvDone (ctx : Nat)
  | hbmRateSet (rate : Nat)
  | hbmRetrainDone (micros : Nat) (failed : Option Nat)
  | hbmLocalSet (gib : Nat)
  | hbmRequest (stack : Nat) (requester : HbmRequester) (bank ahead group : Nat) (data : Option (List Byte))
  | hbmRequestComplete (stack n : Nat) (ue corrected : Bool)
  | hbmRequestAgeing (stack n : Nat)
  | hbmBankSlow (stack bank : Nat)
  | memorySideAdd (die : Nat) (da : W64) (op elem : Nat) (grad : Bool) (bytes : List Byte) (poisoned : List Nat) (cmd : (Nat × W32) × Env)
  -- place: 0 scratchpad of the tile, 1 staging, 2 remote cache; 3 program slots of the tile, 4 translations (log 35)
  | sramScrub (die : Nat) (place tile : Nat) (row : Nat) (corrected uncorrectable : List Nat)
  | stackLoss (stack cause : Nat)
  -- mortar (01)
  | flitReceive (die port lg : Nat) (f : Flit)
  | mortarNack (die port lg : Nat) (seq : Nat)
  | laneRetrain (die port lg : Nat)
  | lgRetrain (die port : Nat)
  | laneRetrainDone (die port lg : Nat) (failedWire : Option Nat)
  -- optical links (09)
  | portEnable (fport : Nat)
  | portDisable (fport : Nat)
  | portRetrain (fport : Nat)
  | carrierDetect (fport link : Nat) (present : LambdaSet)
  | trainingComplete (fport link : Nat) (present : LambdaSet) (ids : List (Nat × W64 × Nat))
  | carrierLoss (fport link lambda : Nat)
  | linkDeadExpiry (fport link : Nat)
  | pauseExpiry (fport link : Nat)
  | hello (fport link : Nat) (c : Ctrl)
  | helloResend (fport link : Nat)
  | helloAck (fport link : Nat) (c : Ctrl)
  | resync (fport link : Nat) (c : Ctrl)
  | dataFrameReceive (fport link : Nat) (f : Frame × Env) (blocks : List Nat) (wrong : List (List Nat))
  | frameTransmit (fport link : Nat)
  | ack (fport link : Nat) (c : Ctrl)
  | nackCrc (fport link : Nat) (c : Ctrl)
  | controlResend (fport link n : Nat)
  | pause (fport link : Nat) (c : Ctrl)
  | pauseAck (fport link : Nat) (c : Ctrl)
  | pauseAckTimeout (fport link : Nat)
  | resume (fport link : Nat) (c : Ctrl)
  | lambdaAdd (fport link : Nat) (c : Ctrl) (acquired : Bool)
  | lambdaAddAck (fport link : Nat) (c : Ctrl)
  | lambdaDrop (fport link : Nat) (c : Ctrl)
  | lambdaDropAck (fport link : Nat) (c : Ctrl)
  | lambdaRefuse (fport link : Nat) (c : Ctrl)
  | lambdaChangeTimeout (fport link : Nat)
  | lambdaBorrow (fport link : Nat)
  | lambdaWithdraw (fport link : Nat)
  | msgNack (fport link : Nat) (c : Ctrl)
  | bindAnswer (fport link : Nat) (c : Ctrl)
  | credit (fport link : Nat) (c : Ctrl)
  | reassemblyExpiry (fport link n : Nat)
  | transitForward (n : Nat)
  -- combs (10)
  | combEvaluation (power : List (List (List Int)))
  | spareReady
  | combForce (group : Nat)
  | switchoverSwitch
  | combSwitchDone (micros : Nat) (power : List (List (List Int)))
  | sourceRetest (power : List Int)
  -- recovery (15)
  | watchdogTest (e : EngineId) (ms : Nat)
  | engineReset (port index : Nat)
  | tileReset (port index : Nat)
  | portReset (port index : Nat)
  | opticalEngineReset (port index : Nat)
  | dieReset (port index : Nat)
  | contextReset (port index : Nat)
  | moduleRingReset (port index : Nat)
  | moduleReset (port index : Nat)
  | resetDone (micros : Nat) (found : List StepReport)
  | tileRetire (die tile : Nat)
  | keystoneHeartbeatCheck (seen : Bool)
  -- start-up, firmware and security (16)
  | powerGood
  | startupStepComplete (found : List StepReport) (ms : Nat)
  | ks1LeadsStartup
  | counterCalibration (clock0 clock1 : Bool)
  -- reg is a byte offset in configuration space
  | configRequest (port reg : Nat) (write : Option W32)
  | stage (port : Nat) (env : Env)
  | activate (port : Nat)
  | confirm (port : Nat)
  | commitSvn (port : Nat)
  | firmwareCommandDone
  | debugUnlock (port : Nat) (env : Env)
  | keyInstall (port : Nat) (env : Env)
  | keyInstallDone
  | getVersion (port : Nat)
  | getCapabilities (port : Nat)
  | negotiateAlgorithms (port : Nat)
  | getDigests (port : Nat)
  | getCertificate (port slot offset length : Nat)
  | challenge (port slot : Nat) (nonce : List Byte)
  | getMeasurements (port index : Nat) (signed : Bool) (nonce : List Byte)
  | keyExchange (port : Nat) (exchange : List Byte)
  | finish (port : Nat) (verified : Bool)
  | keyUpdate (port : Nat)
  | heartbeat (port : Nat)
  | endSession (port : Nat)
  | doeAbort (port : Nat)
  | ideFail (port stream : Nat)
  -- clocks, power and heat (17)
  | clockSet (die : Nat) (value : W32)
  | highClkSet (value : Bool)
  | supplyLow (lowest : Nat)
  | supplyHigh (highest : Nat)
  | supplyLost (reading : Nat)
  | droopDetect (i : Island × Nat)
  | droopStep (i : Island)
  | droopStepRaise (i : Island)
  | thermalReading (i : Island) (tenths : Nat)
  | thermalLevelFall (i : Island)
  | thermalRecovery (i : Island)
  | coolantHot (tenths : Nat)
  -- host links (18, 21)
  | perstAssert (port : Nat)
  | perstDeassert (port : Nat)
  | dlDown (port : Nat)
  | dlUp (port : Nat) (speed width : Nat) (flit busMaster : Bool)
  | hostLossTest (port : Nat) (downMs : Nat)
  | bar2Read (port offset count : Nat) (env : Env)
  | bar2Write (port offset : Nat) (bytes : List Byte) (poisoned : Bool) (env : Env)
  | apertureWrite (port : Nat) (value : W64)
  | aliasWrite (port offset width : Nat) (value : W64)
  | aliasRead (port offset width : Nat)
  | bar0InvalidAccess (port offset length : Nat)
  | msixUnmask (port entry : Nat)
  -- SMBus (19)
  | fruRead (offset count : Nat)
  | inputV
  | inputI
  | inlet
  | outlet
  | hot
  | state
  | ideKm (port stream : Nat) (keys : List Byte)
  | doeDiscovery (port index : Nat)
  | ueSuppressed (die : Nat)
  deriving DecidableEq, Repr

end Sys2Proof
end

