-- ==== Sys2Proof/Decode.lean ====
section
/-! DEFINITION. Decoding. The rows of the table of operations and events carry no bits, so no word spells a command. -/

namespace Sys2Proof

/-- The command a word spells by the table's bits: none, since every row of the table has an empty list of fields. -/
def decodeTableWord (_nbits _w : Nat) : Option Instr := none

end Sys2Proof
end

