-- ==== Sys2Proof/Config.lean ====
section
/-! DEFINITION. What the manual leaves open: free values and functions that outside standards define.
Every constant here has no body, so nothing can be proved of its values (log 3, log 14). -/

namespace Sys2Proof.Config

/-- The n-th draw of the keystone's random source (R72, R243, R373, R402). -/
opaque random : Nat → BitVec 64
/-- The n-th value the manual leaves undefined (log 3). -/
opaque freeValue : Nat → BitVec 64
/-- Where an island's local counter stands within what its accuracy allows, by its source and the true time since 50 V good (R7, R410). -/
opaque localClock : Nat → Nat → Nat
/-- SHA-384 of a byte string, 48 bytes (R374, R395, R403). -/
opaque sha384 : List (BitVec 8) → List (BitVec 8)
/-- ECDSA P-384 verification: public key X then Y, digest, r then s (R374, R395, R402). -/
opaque ecdsaVerify : List (BitVec 8) → List (BitVec 8) → List (BitVec 8) → Bool
/-- The 96-byte firmware-key and debug-authority hashes of the fuses (R393). -/
opaque fusedKeyHash : Nat → List (BitVec 8)
/-- The debug authority's public key, fetched from firmware (R402). -/
opaque debugKey : List (BitVec 8)
/-- The unique device secret of the fuses, 48 bytes (R393). -/
opaque uds : List (BitVec 8)
/-- The P-384 public key of a private scalar: X then Y, big-endian (R398). -/
opaque p384Public : Nat → List (BitVec 8)
/-- The ECDSA P-384 signature under a private scalar of a digest: r then s, big-endian (R398, R400). -/
opaque ecdsaSign : Nat → List (BitVec 8) → List (BitVec 8)
/-- Milip's private scalars: 0 of the root CA, 1 of the Ramain device CA (R399). -/
opaque milipScalar : Nat → Nat
/-- The DER bytes to be signed of a certificate of the mason's mark: its number in the chain, its subject's public key, and what else it
carries (R399). -/
opaque certBody : Nat → List (BitVec 8) → List (BitVec 8) → List (BitVec 8)
/-- The DER bytes of a certificate: the signed bytes, then the signature's encoding (R399). -/
opaque certDer : List (BitVec 8) → List (BitVec 8) → List (BitVec 8)
/-- The board's manufacturing date in its three bytes, its serial number, and Milip's manufacturer number (R451). -/
opaque fruDate : List (BitVec 8)
opaque fruSerial : List (BitVec 8)
opaque fruMaker : List (BitVec 8)
/-- The bytes of the FRU target behind its last record, by offset (R451). -/
opaque fruRest : Nat → BitVec 8
/-- SLOT_ID, which the board straps (R443, R444). -/
opaque slotId : BitVec 3
/-- The header and the body of the firmware image as shipped (R394; log 7). -/
opaque shippedHeader : List (BitVec 8)
opaque shippedBody : List (BitVec 8)
/-- The bytes of a message's payload, whose encoding the manual does not give (log 15). -/
opaque payloadByte : Msg → Nat → BitVec 8
/-- The bytes of a mortar packet's header, whose layout the manual does not give (log 36). -/
opaque headerByte : List Nat → Nat → BitVec 8
/-- SHA-384 of the keystone boot ROM (R401). -/
opaque bootRomDigest : List (BitVec 8)

/-- The SRAM row that holds a byte, by its DA (R208 gives rows and no map; log 14). -/
opaque sramRow : Nat → Nat
/-- The row of a remote cache that holds a line (R208 gives rows and no map; log 14). -/
opaque cacheRow : Nat → Nat
/-- The rows of a set of 64 that the repair fuses of an SRAM array map out: die, array, set (R208; log 14). -/
opaque fuseRows : Nat → Nat → Nat → Nat

/-- The quotient of two coarse scales where R141 states none: a zero divisor, or two infinities (log 3). -/
opaque coarseQuotient : BitVec 32 → BitVec 32 → BitVec 32

/-- What a sensor of the power input and the coolant reads at a nominal time: 0 voltage, 1 current, 2 energy, 3 inlet, 4 outlet
(R411, R416, R422, log 42). -/
opaque sensor : Nat → Nat → BitVec 64

/-- The offset in configuration space of the Resizable BAR control register of BAR2, which the manual leaves open (R424, log 14). -/
opaque resizableBar : Nat
/-- The offset in configuration space of the Device Serial Number's lower dword (R424, log 14). -/
opaque serialNumber : Nat
/-- The offsets in configuration space of the PCI Express, Power Management, MSI-X, AER, DOE and IDE capabilities, and of the register blocks
of the four selective IDE streams (R424, log 14). -/
opaque pcieCap : Nat
opaque powerCap : Nat
opaque msixCap : Nat
opaque aerCap : Nat
opaque doeCap : Nat
opaque ideCap : Nat
opaque ideStream : Nat → Nat
/-- A dword of the header that AER logs: port, time and dword (R424; log 14). -/
opaque tlpHeader : Nat → Nat → Nat → BitVec 32
/-- Milip's Vendor ID, which the manual does not give (R424, log 14). -/
opaque vendorId : BitVec 16
/-- The other dwords of configuration space before they are written, by port and offset (R424, log 14). -/
opaque configDword : Nat → Nat → BitVec 32

/-- A byte of a captured record whose layout or content R369 leaves open: a draw, the section and the offset (log 3). -/
opaque captureByte : Nat → Nat → Nat → BitVec 8

end Sys2Proof.Config
end

