-- ==== Sys2Proof/Machine/State.lean ====
section
/-! DEFINITION. The state of the T64: every register, queue, table, memory and mode the manual gives it, as plain data,
and the queue of waiting commands. Field comments name the rule of spec/ that gives the field. -/

namespace Sys2Proof.Machine

/-- Why the block stops. Safe: a stop proves nothing false. -/
inductive Fault where
  /-- The input rose above the absolute maximum of 60 V, where R411 only says that the module may be damaged. Raised by
  SUPPLY_HIGH; SUPPLY_LOST disconnects, as the rule says. Safe. -/
  | absoluteMaximum
  deriving DecidableEq, Repr

/-- Why the model declines a command. -/
inductive Refusal where
  /-- The command of this mnemonic has no meaning yet. Safe. -/
  | notModelled (mnemonic : String)
  deriving DecidableEq, Repr

/-! ## Structures the host writes and the T64 copies -/

/-- A tensor descriptor (R98). -/
structure TD where
  elem : Nat := 0
  scaleFmt : Nat := 0
  rank : Nat := 1
  owned : Bool := false
  coarseEn : Bool := false
  coarse : W32 := 0
  base : W64 := 0
  scaleBase : W64 := 0
  strides : List Nat := []
  pad : W16 := 0
  sizes : List Nat := []
  deriving DecidableEq, Repr

/-- The header of an owner table (R108). -/
structure OwnerHdr where
  rank : Nat := 1
  entryCount : Nat := 0
  blocks : List Nat := []
  deriving DecidableEq, Repr

/-- A program image (R181). -/
structure Image where
  stats : Bool := false
  intResult : Bool := false
  fill : W32 := 0
  rngId : W32 := 0
  statsTd : W64 := 0
  consts : List W32 := []
  instrs : List W32 := []
  deriving DecidableEq, Repr

/-- An export of a plan (R78). -/
structure Export where
  window : Nat
  sync : Bool
  writable : Bool
  base : Nat
  length : Nat
  deriving DecidableEq, Repr

/-- An import of a plan, matched to its export (R78, R79). -/
structure Import where
  window : Nat
  exporter : Nat
  exporterEpoch : Byte
  writable : Bool
  sync : Bool
  localBase : Nat
  base : Nat
  length : Nat
  revoked : Bool := false
  deriving DecidableEq, Repr

/-- One entry of a λ plan (R251). -/
structure LambdaEntry where
  port : Nat
  legacy : Bool
  min : Nat
  max : Nat
  peer : Option Coord
  mask : LambdaSet
  deriving DecidableEq, Repr

/-- One channel of a plan (R310). -/
structure ChanEntry where
  chan : Nat
  recv : Bool
  slots : Nat
  peerChan : Nat
  peer : Coord
  slotBytes : Nat
  bufCva : W64
  deriving DecidableEq, Repr

/-- A topology, bytes 0x00-0x47 of the TOPOLOGY section (R275). -/
structure Topology where
  self : Coord := 0
  lens : Nat × Nat × Nat := (1, 1, 1)
  twinSet : Bool := false
  twistX : Nat := 0
  twistY : Nat := 0
  twin : Coord := 0
  portDir : List Nat := List.replicate 48 15
  board : List (Option Coord) := List.replicate 8 none
  bytes : List Byte := []
  deriving DecidableEq, Repr

/-- The job plan as copied into the module (R76). -/
structure Plan where
  expert : Bool := false
  twinEn : Bool := false
  jobId : W32 := 0
  jobSeed : W64 := 0
  ptRoot : W64 := 0
  retainMib : Nat := 0
  waitTimeoutMs : Nat := 5000
  syncBase : Nat := 0
  syncCount : Nat := 0
  seqBase : Nat := 0
  seqCount : Nat := 0
  quiesceMs : Nat := 5000
  spReserve : Nat := 0
  carryCva : W64 := 0
  carryBytes : Nat := 0
  lambda : List LambdaEntry := []
  lsInit : Int := 16
  lsFloor : Int := -24
  lsCeil : Int := 24
  lsFixed : Bool := false
  lsInterval : Nat := 1000
  channels : List ChanEntry := []
  paramCva : W64 := 0
  exports : List Export := []
  imports : List Import := []
  deriving DecidableEq, Repr

/-! ## Commands of the rings -/

/-- How far a command of a ring has come (R50, R51). -/
inductive Phase where
  | fetched
  | turn        -- its turn is reached and its header wait runs
  | started
  | blocked     -- started, and waiting inside its own meaning
  | done        -- its outputs are final and its status is fixed
  deriving DecidableEq, Repr

/-- One slice of a collective on one die (R286, R288-R293, R316): the partial in force, 32 values for each group; messages
that wait for a later axis; pieces finished on an axis; the children's partials of the present tree; the pieces whose results
have come, with their lengths. -/
structure Slice where
  die : Nat := 0
  started : Bool := false
  stage : Nat := 0
  parts : List W64 := []
  marks : List Bool := []
  waiting : List (CollMsg × Coord × W16) := []
  pieces : List (Nat × Nat) := []
  kids : List (Nat × CollMsg) := []
  forwarded : Bool := false
  covered : List (Nat × Nat) := []
  late : Bool := false
  count : Nat := 1
  norm : W32 := 0                      -- the squared norm of its own partial (R315)
  sumSq : W32 := 0                     -- that of all contributors, with their count (R316)
  sumCount : Nat := 0
  written : List (Nat × List W64) := []  -- the groups written, with their codes and scale (R316)
  fates : Nat := 0                     -- how many of its partials the parent has consumed (R293)
  nonFinite : Bool := false
  ended : Bool := false
  deriving DecidableEq, Repr

/-- What a multi-step command still holds. -/
inductive Work where
  | idle
  /-- MATMUL: executing die, strips taken, output tiles drained, pages of the paged operand at the start (R140, R143). -/
  | matmul (die : Nat) (taken drained : List Nat) (pages : Nat)
  /-- ELEMENT or UPDATE: executing dies, units taken (R196). -/
  | element (dies : List Nat) (taken : List Nat)
  /-- LOAD_PROGRAM: the (die, tile) pairs still to load (R202). -/
  | load (left : List (Nat × Nat))
  /-- A collective: its slices (R286). -/
  | coll (slices : List Slice)
  /-- WAIT_PREFETCH: groups delivered and status so far, for each entry of its list (R302, R304). -/
  | prefetch (prog : List (Nat × Nat))
  /-- LOSS_SCALE WRITE: EXP at its start (R323). -/
  | exp (e : Int)
  /-- SEQ_SET or SEQ_RETIRE: the slots that it changed at its start, whose records its row writes (R331, R333). -/
  | seq (slots : List Nat)
  /-- LAMBDA_SET: the λ that could not be placed (R256). -/
  | lambda (failed : LambdaSet)
  /-- A command waiting for a message, credit, handshake or context. -/
  | waiting
  deriving DecidableEq, Repr

/-- A command fetched from a work ring (R48-R54). -/
structure Cmd where
  index : W32 := 0
  jf1 : Bool := false
  bytes : List Byte := []
  fail : Option (Nat × Nat) := none
  tds : List (Nat × TD) := []
  owners : List (Nat × OwnerHdr) := []
  image : Option Image := none
  extra : List Byte := []                        -- prefetch list, update block or nested descriptor
  extraTds : List (Nat × TD) := []
  phase : Phase := .fetched
  satisfied : Bool := false
  status : Nat := 0
  detail : Nat := 0
  sat : Nat := 0
  range : Nat := 0
  nan : Nat := 0
  poison : List (Nat × Nat) := []        -- the poisoned 32-byte groups it has written: place and number (R349; log 54)
  order : Nat := 0
  engine : Option EngineId := none
  wantsEngine : Bool := false
  held : Bool := false                  -- its access waits for a link toward another module (R283)
  stalled : Bool := false               -- its work waits for a link, an HBM controller or another engine (R357)
  signalled : Bool := false             -- its header signal is made, and its writes await their acknowledgements (R51)
  spoiled : List (Nat × Nat) := []      -- dies and tiles on which its program slot met a parity error (R350)
  arrived : List (Nat × Nat × List Byte × Nat) := []  -- WAIT_PREFETCH: entry, group, bytes and scale of what arrives for RETAIN (R308)
  work : Work := .idle
  deriving DecidableEq, Repr

/-- A record that waits for room in its ring, or for the writes of its command (R59, R62). -/
structure Rec where
  bytes : List Byte
  order : Nat := 0
  deriving DecidableEq, Repr

/-- State of a work ring (R68). -/
inductive RingState where
  | stopped
  | running
  | halted
  | draining
  deriving DecidableEq, Repr

/-- A work ring (R71). -/
structure WorkRing where
  base : W64 := 0
  dbAddr : W64 := 0
  log2 : Nat := 0
  jf1 : Bool := false
  overlap : Bool := false
  skip : Bool := false
  ctx : Nat := 0
  module : Bool := false
  cpl : Nat := 0
  poll : Nat := 0
  state : RingState := .stopped
  startErr : Bool := false
  cmdErr : Bool := false
  startCause : Nat := 0
  lastStatus : Nat := 0
  head : W32 := 0
  tailSeen : W32 := 0
  seqSeen : Option W32 := none
  misses : Nat := 0
  told : Bool := false             -- its half was written after fetching in this polling interval (R45)
  due : Bool := false              -- a fetch since then is not yet shown there
  port : Nat := 0
  limit : Option W32 := none       -- DRAINING: commands below it may start; none under STOP
  drainWait : Bool := false        -- DRAINING under DRAIN: no consistent record read yet
  fetched : List Cmd := []
  running : List Cmd := []
  records : List Rec := []
  deriving DecidableEq, Repr

/-- A completion or event ring (R71). -/
structure OutRing where
  base : W64 := 0
  dbAddr : W64 := 0
  en : Bool := false
  ctx : Nat := 0
  log2 : Nat := 0                  -- the size code s: 2^(s+6) entries
  irqEn : Bool := false
  vector : Nat := 0
  irqCount : Nat := 0
  irqDelay : Nat := 0
  headErr : Bool := false
  writeTail : W32 := 0
  headSeen : W32 := 0
  seqSeen : Option W32 := none
  badSeq : Option W32 := none   -- SEQ of the update whose HEAD was ignored last
  misses : Nat := 0
  lost : W32 := 0
  unIrq : Nat := 0
  irqTimer : Bool := false
  everEn : Bool := false
  held : List (List Byte) := []    -- events before the first EN, oldest first
  deriving DecidableEq, Repr

/-! ## Contexts -/

/-- State of a context (R74). -/
inductive CtxState where
  | free
  | opened
  | active
  | quiescing
  | closing
  | faulted
  deriving DecidableEq, Repr

/-- A retention-table entry (R307). -/
structure Retained where
  layer : W32
  gen : W32
  shape : Shape
  granules : List Nat
  pin : Bool
  bytes : Nat
  deriving DecidableEq, Repr

/-- A pipeline channel (R311, R314, R329). -/
structure Channel where
  valid : Bool := false
  recv : Bool := false
  granted : Bool := false
  accepted : Bool := false          -- RECV: the peer has accepted the grant
  credits : Nat := 0
  highWater : Nat := 0
  stallUs : W32 := 0
  msgs : W32 := 0
  sendSeq : Nat := 0
  recvSeq : Nat := 0
  peerSlots : Nat := 0
  peerSlotBytes : Nat := 0
  landed : List (Nat × Shape × List Nat) := []   -- messages complete in their slots, with poisoned groups
  deriving DecidableEq, Repr

/-- A bank of gradient statistics (R317, R318). -/
structure Bank where
  valid : Bool := false
  step : W32 := 0
  colls : Nat := 0
  contrib : Nat := 0
  mixed : Bool := false
  nonFinite : Bool := false
  localSq : W32 := 0
  recvSq : W32 := 0
  elems : Nat := 0
  deriving DecidableEq, Repr

/-- A carried partial (R293). -/
structure Carry where
  collId : W16
  die : Nat
  kind : Nat
  asTwin : Bool
  values : List W64
  poisoned : List Bool
  deriving DecidableEq, Repr

/-- Message credits of a collective that a peer has granted (R291). -/
structure CollCredit where
  collId : W16
  step : W32
  die : Nat
  peer : Coord
  asTwin : Bool
  count : Nat
  deriving DecidableEq, Repr

/-- A bit of LOSS_SCALE AGREE that has come to rank 0 (R323). -/
structure Agreement where
  collId : W16
  step : W32
  peer : Coord
  asTwin : Bool
  bit : Bool
  deriving DecidableEq, Repr

/-- The loss scale of a context (R319). -/
structure Loss where
  exp : Int := 0
  stepExp : Int := 0
  skipVerdict : Bool := false
  pend : Bool := false
  clean : Nat := 0
  decided : Nat := 0
  pendStep : Nat := 0
  deriving DecidableEq, Repr

/-- A context (R90 and the registers of R230, R329, R386). -/
structure Ctx where
  planAddr : W64 := 0
  state : CtxState := .free
  busy : Option (Nat × Nat) := none   -- the port through which the plan is being read, and its address
  cmdErr : Bool := false
  owner : Nat := 0
  epoch : Byte := 0
  openStatus : Nat := 0
  openDetail : Nat := 0
  discarded : W32 := 0
  flushed : W32 := 0
  plan : Plan := {}
  hold : Bool := false
  flush : Bool := false
  expired : Bool := false
  cause : Nat := 0
  orphan : Bool := false              -- faulted while ownership could not move (R435)
  closers : List (Nat × W32) := []    -- module-ring CONTEXT_CLOSE commands that wait for FREE
  xlatBusy : Bool := false
  spBase : Nat := 0
  loss : Loss := {}
  poolBase : Nat := 0
  poolBytes : Nat := 0
  retained : List Retained := []
  retHits : W32 := 0
  retMisses : W32 := 0
  retEvict : W32 := 0
  retFail : W32 := 0
  chans : List Channel := List.replicate 8 {}
  banks : List (Bank × Bank) := List.replicate 64 ({}, {})
  carries : List Carry := []
  collCredits : List CollCredit := []
  agrees : List Agreement := []
  standin : Bool := false
  stoodIn : Bool := false             -- it has stood in for its twin, whose frames it may still send (R92, R380)
  twinStep : W32 := 0
  nextMsg : W16 := 0
  deriving DecidableEq, Repr

/-- Where an access of a command ends: at another module's memory, in a peer's context, or at a host port that is down. -/
inductive Home where
  | module (dst : Coord)
  | context (dst : Coord)
  | host (port : Nat)
  deriving DecidableEq, Repr

/-- An access that is not yet acknowledged at its home (R37, R59, R87, R92): its address, and the work ring and the start number of
its command; 128 and 0 where no command made it. -/
structure Access where
  home : Home
  addr : Nat
  write : Bool
  ring : Nat
  order : Nat
  ctx : Nat
  entry : Nat := 0                    -- 1 + the list entry of a WAIT_PREFETCH that reads (R305)
  via : Option (Nat × Nat) := none    -- the link that its request went over (R247)
  deriving DecidableEq, Repr

/-- An access that waits for the HBM controllers: of another module, of a peer's command to a context's block, of a host through BAR2, or
of a channel message or a message of a collective that has come (R213, R216). -/
inductive Held where
  | access (src : Coord) (a : MemAccess)
  | block (ctx : Nat) (q : BlockReq)
  | bar2Read (port base offset count : Nat)
  | bar2Write (port base offset : Nat) (bytes : List Byte) (poisoned : Bool)
  | landing (ctx chan seq : Nat) (shape : Shape) (bytes : List Byte) (poisoned : List Nat) (done : Nat)
  | collPartial (ctx : Nat) (m : CollMsg) (src : Coord) (msgId : W16)
  | collResult (ctx : Nat) (m : CollMsg) (src : Coord)
  deriving DecidableEq, Repr

/-- A held access with what its row gave of the errors that it may meet. -/
structure HeldAccess where
  what : Held
  env : Env := {}
  deriving DecidableEq, Repr

/-- Whether a held access is a context's: it goes with the context. -/
def Held.ofCtx (n : Nat) : Held → Bool
  | .block k _ => k == n
  | .landing k _ _ _ _ _ _ => k == n
  | .collPartial k _ _ _ => k == n
  | .collResult k _ _ => k == n
  | _ => false

/-- State of a sequence slot (R330). -/
inductive SeqState where
  | free
  | active
  | done
  deriving DecidableEq, Repr

/-- A sequence slot (R330). -/
structure SeqSlot where
  state : SeqState := .free
  length : Nat := 0
  limit : Nat := 0
  pageList : W64 := 0
  temperature : W32 := 0
  topK : Nat := 0
  seed : W32 := 0
  holds : List (Nat × W32) := []
  deriving DecidableEq, Repr

/-- An operation on its way to an object's home (R84). -/
structure SyncOp where
  obj : Nat
  set : Bool
  value : W64
  source : Nat                        -- work ring, or 128 + die for arrivals
  waiter : Option (Nat × W32) := none -- the SIGNAL that completes when it is applied
  reply : Option (Coord × Nat × W16) := none  -- the remote SIGNAL's module, context and message that await the answer
  after : Nat := 0                    -- the start number of the command whose writes a header release awaits; 0: none (R51, R87)
  deriving DecidableEq, Repr

/-! ## Compute dies -/

/-- A packet of mortar: its header and data (R22). -/
structure Packet where
  head : PacketHead
  data : List Byte
  deriving DecidableEq, Repr

/-- A mortar lane group in one direction pair (R20-R28). -/
structure LaneGroup where
  spares : Nat := 0
  substDone : Bool := false
  disabled : Bool := false
  wire0 : Nat := 255
  wire1 : Nat := 255
  expect : Nat := 0                   -- SEQ expected next
  discarding : Bool := false          -- a flit is awaited after a mismatch
  nextSeq : Nat := 0
  window : List Flit := []            -- sent and not acknowledged, oldest first
  replays : List Nat := []            -- times of replays within the last 1 ms
  times : List (Nat × Nat) := []      -- SEQ of a flit of the window, and how often in succession it was replayed
  retraining : Bool := false
  queue : List (Nat × FlitBody) := [] -- KIND and payload of flits for which the window has no room yet
  packets : List Packet := []         -- packets of which a flit is not acknowledged, oldest first
  acked : Nat := 0                    -- flits of the oldest of them that are
  rx : Option Packet := none          -- the packet that is arriving
  deriving DecidableEq, Repr

/-- A mortar port (R32). -/
structure MortPort where
  failed : Bool := false
  substEn : Bool := true
  replayLimit : Nat := 16
  lgsel : Nat := 0
  crcErr : W32 := 0
  retrains : Nat := 0
  disabledInsvc : Nat := 0
  lanes : List LaneGroup := []
  waiting : List Packet := []              -- packets for which no lane group is free, by class
  sent : List Nat := [0, 0, 0, 0]          -- number of the next packet of each class to send
  got : List Nat := [0, 0, 0, 0]           -- number of the next packet of each class to deliver
  early : List Packet := []                -- packets that arrived before an earlier one of their class
  turn : Nat := 3                          -- the class of REQ, RSP and COLL served last
  deriving DecidableEq, Repr

/-- A request in an HBM controller (R216). -/
structure HbmSlot where
  requester : HbmRequester
  bank : Nat
  cls : HbmClass
  group : Nat
  data : Option (List Byte)
  gone : Bool := false                -- its engine was reset: its data is discarded on return (R362)
  num : Nat := 0                      -- its place among the requests of the module, in the order of their issue (R218)
  deriving DecidableEq, Repr

/-- The HBM controller and stack of a die (R216-R218, R230). -/
structure Hbm where
  ok : Bool := true
  training : Bool := false
  lost : Bool := false
  slots : List HbmSlot := []
  waiting : List HbmSlot := []        -- requests whose requester waits, in issue order
  slow : W32 := 0
  ce : W32 := 0
  ue : W32 := 0
  slowAt : List (Nat × Nat) := []     -- bank, time of its last event
  deriving DecidableEq, Repr

/-- A program slot of a tile (R202). A broken one is empty, but for the commands that already ran from it (R350). -/
structure Slot where
  ctx : Nat
  epoch : Byte
  image : Image
  broken : Bool := false
  deriving DecidableEq, Repr

/-- A tile register: its tag and its non-zero positions (R179). -/
structure Trg where
  tag : Option (Nat × Byte) := none
  cells : List (Nat × W32) := []
  deriving DecidableEq, Repr

/-- A channel group as read: its codes, its scale code, and which of its elements are poisoned (R348). -/
structure Grp where
  bytes : List Byte
  scale : Nat
  marks : List Bool := []
  deriving DecidableEq, Repr

/-- An accumulator: its code, whether a step clamped, and whether ±Inf arose from finite terms (R129, R134). -/
structure Acc where
  code : W32 := 0
  sat : Bool := false
  inf : Bool := false
  deriving DecidableEq, Repr

/-- An accumulator bank that holds a finished output tile: its rows, each with the poison of its row operand, and the poison of
each column operand (R130, R348). -/
structure AccBank where
  rows : List (List Acc × Bool)
  cols : List Bool
  deriving DecidableEq, Repr

/-- A set of row statistics: RM, RMO and RS of 128 rows (R190). -/
structure RowRegs where
  rm : List W32 := List.replicate 128 0
  rmo : List W32 := List.replicate 128 0
  rs : List W32 := List.replicate 128 0
  deriving DecidableEq, Repr

/-- The strip that a tile's array holds, and the row operand that its row panel buffer keeps (R128, R143). -/
structure Strip where
  ring : Nat
  index : W32
  number : Nat
  pos : Nat                           -- output tiles of the strip that the array has accumulated
  panel : List (List Grp) := []
  deriving DecidableEq, Repr

/-- A finished output tile that the vector engine drains: output tile `pos` of a strip (R130). -/
structure OutTile where
  ring : Nat
  index : W32
  number : Nat
  pos : Nat
  bank : AccBank
  deriving DecidableEq, Repr

/-- A tile (R148, R203, R422). -/
structure Tile where
  mxSat : Bool := false
  mxNan : Bool := false
  mxInf : Bool := false
  strips : Nat := 0
  mxBusyCyc : W64 := 0
  mxMacCyc : W64 := 0
  veRange : Bool := false
  veNan : Bool := false
  blocks : Nat := 0
  veBusyCyc : W64 := 0
  veIssueCyc : W64 := 0
  trgs : List Trg := List.replicate 8 {}
  slots : List (Nat × Slot) := []
  strip : Option Strip := none
  banks : List OutTile := []          -- the finished output tiles in the two accumulator banks, oldest first
  unit : Option (Nat × W32 × Nat) := none   -- the ELEMENT or UPDATE command and the unit of it that the vector engine holds (R203)
  drainRegs : RowRegs := {}           -- the vector engine's two sets of row statistics
  elemRegs : RowRegs := {}
  scrubTrg : Bool := false
  scrubSlot : Bool := false
  level : Nat := 0
  droop : Bool := false
  tempC : Nat := 0
  deriving DecidableEq, Repr

/-- A cached translation (R225). -/
structure XEntry where
  ctx : Nat
  epoch : Byte
  page : Nat                          -- CVA >> 21
  entry : W64
  giant : Bool                        -- a 1 GiB page
  deriving DecidableEq, Repr

/-- A line of a remote cache, tagged by its context: its number (DA / 128), bytes and poisoned groups (R209, R340). -/
structure RcLine where
  ctx : Nat
  epoch : Byte
  line : Nat
  bytes : List Byte
  poison : List Nat
  deriving DecidableEq, Repr

/-- A compute die (R32, R230, R299, R354, R386, R422). -/
structure Die where
  mort : List MortPort := []
  hbm : Hbm := {}
  sramCe : W32 := 0
  sramUe : W32 := 0
  rcHits : W64 := 0
  rcMisses : W64 := 0
  rcInvals : W64 := 0
  rcLines : List RcLine := []             -- most recent first
  xlat : List XEntry := []
  slice : List (Nat × W32) := []          -- the collective slice the reduction engine holds, and its AS_TWIN counterpart
  lateSent : W32 := 0
  lateRcvd : W32 := 0
  carryDrop : W32 := 0
  transitDrop : W32 := 0
  copyPin : Nat := 3
  gatherPin : Nat := 15
  ceLimit : Nat := 1000
  crcLimit : Nat := 100
  poisonRd : W32 := 0
  poisonWr : W32 := 0
  ctrlCe : W32 := 0
  ueSuppressed : W32 := 0
  retiredEngines : Nat := 0
  spareUsed : Bool := false
  retiredTiles : Nat := 0
  retireSel : Nat := 0
  deriving DecidableEq, Repr

/-- The clocks, engines and per-second counts of a die (R111, R352, R353, R415, R417, R422). -/
structure DieAux where
  tileSet : Nat := 16
  fabSet : Nat := 16
  fabLevel : Nat := 0
  fabDroop : Bool := false
  temps : List (Island × Nat) := []          -- the last reading of each island, in 0.1 °C
  thermalSteps : W32 := 0
  droops : W32 := 0
  holders : List (Nat × (Nat × W32)) := []   -- engine number of RESET.INDEX, the command that holds it
  hangs : List (Nat × Nat) := []             -- engine number, or 16 + tile; time of the last recovery from a hang
  ueTimes : List Nat := []                   -- times of UE_FOUND events of the present second
  ueHeld : Nat := 0                          -- UE_FOUND events held back in the present second
  ces : List (Nat × Nat) := []               -- place, time of corrected errors
  crcs : List (Nat × Nat) := []              -- port, time of CRC failures
  ceAt : List (Nat × Nat) := []              -- place (or 64 + port), time of its last rate event
  stepAt : List (Nat × Nat) := []            -- island number, time of its last THERMAL_STEP event
  droopTimes : List (Nat × Nat) := []        -- time and number of the stretches and droop steps of the last second
  droopAt : Option Nat := none
  hung : List (Nat × List Byte) := []        -- engines that hang, each with its record at the hang, until its reset is done (R369)
  evLog : List (List Byte) := []             -- the last event records from the die's sources, newest first (R369)
  deriving DecidableEq, Repr

/-! ## Optical engines and links -/

/-- State of a link (R245). -/
inductive LinkState where
  | off
  | dark
  | training
  | hello
  | up
  | lost
  | paused
  deriving DecidableEq, Repr

/-- A λ change whose acknowledgement is awaited (R254). -/
structure Change where
  add : Bool
  lambda : Nat
  lset : Nat
  switchSeq : W16
  cmd : Option (Nat × W32) := none     -- the LAMBDA_SET that made it
  lend : Option (Nat × Nat) := none    -- a drop whose λ goes on to this link of the engine (R253)
  deriving DecidableEq, Repr

/-- An incomplete message at a receiver (R248). -/
structure Reasm where
  src : W32
  ctx : Nat
  msgId : W16
  frames : Nat
  bytes : Nat := 0                     -- its bytes so far
  done : Nat := 0                      -- how many of them are written (R248)
  turned : List Nat := []              -- its words whose blocks turned to poison, or back (R346)
  deriving DecidableEq, Repr

/-- The six counters of a link (R259). -/
structure LinkCounts where
  crcErr : W32 := 0
  replays : W32 := 0
  carrierLoss : W32 := 0
  reasmDiscard : W32 := 0
  lendFail : W32 := 0
  corrected : W32 := 0
  deriving DecidableEq, Repr

/-- A link (R232, R235-R256, R259). -/
structure Link where
  valid : Bool := false
  state : LinkState := .off
  kept : Bool := false                 -- link state is kept across training
  fromPause : Bool := false            -- TRAINING was entered from PAUSED
  lset : Nat := 0
  oldSet : Option (W16 × Nat × LambdaSet) := none -- frames before this SEQ are striped on this set, with this LSET (R254)
  ctrl : Nat := 0
  legacy : Bool := false
  named : Option Coord := none         -- the peer of its λ plan entry
  peer : Option Coord := none          -- the peer of its HELLO
  uid : W64 := 0
  noCarrier : Bool := false            -- PAUSED: the carrier is lost
  tx : LambdaSet := 0
  rx : LambdaSet := 0
  rxCtrl : Nat := 0                    -- the peer's control λ
  rxLset : Nat := 0                    -- the LSET of `rx`
  rxNext : Option (Nat × LambdaSet) := none -- frames with this LSET are striped on this set (R254)
  peerPort : Nat := 0                  -- the peer's port, of its HELLO
  mask : LambdaSet := 0
  min : Nat := 16
  max : Nat := 16
  incarnation : W16 := 0
  peerIncarnation : W16 := 0
  nextSeq : W16 := 0
  expect : W16 := 0
  discarding : Bool := false
  replay : List Frame := []
  queue : List Frame := []
  ctrlSeq : W16 := 0
  ctrlSeen : Option W16 := none
  ctrlOut : List Ctrl := []
  deadTimer : Bool := false
  pauseFor : Option Nat := none        -- PAUSED: duration in µs while it runs
  pausing : Option Nat := none         -- this side's PAUSE awaits PAUSE_ACK: PAUSEs sent (R269)
  pauseAcked : Bool := false
  darken : Option Nat := none          -- the λ that goes dark once PAUSE is answered (R265)
  lostLines : LambdaSet := 0           -- its λ that the comb monitor disabled (R265, R266)
  resynced : Bool := false             -- this side has sent RESYNC and awaits the peer's
  turn : Nat := 3                      -- the class among REQ, RSP and COLL that was served last (R24, R237)
  change : Option Change := none
  unacked : Option Change := none      -- a drop past its 2 ms: its λ has left, and frames wait for LAMBDA_DROP_ACK (R254)
  dropping : LambdaSet := 0            -- its λ that must leave by the handshake (R255, R265)
  heldResync : Option Ctrl := none     -- a RESYNC that came before training was complete (R245)
  credits : Nat := 0                   -- reassembly credits held toward the peer
  reasm : List Reasm := []
  reasmAt : Option Nat := none
  reasmHeld : Nat := 0
  nacks : List (Nat × Nat) := []       -- λ named in NACK_CRC frames, with times
  mismatchTold : Bool := false
  miswireTold : Bool := false
  counts : LinkCounts := {}
  deriving DecidableEq, Repr

/-- A fibre port (R231, R259). -/
structure FPort where
  en : Bool := true
  links : List Link := []
  deriving DecidableEq, Repr

/-- The comb side of an optical engine: the deviations of its lines, the sums of ten samples in 0.01 dB, so in 0.001 dB, and the disabled
lines (R263, R273). -/
structure OptEngine where
  dev : List Int := List.replicate 34 0
  disabled : LambdaSet := 0
  cap : Nat := 32
  deriving DecidableEq, Repr

/-- A switchover in progress (R266). -/
structure Switch where
  group : Nat
  source : Nat
  spare : Nat
  dark : Bool := false                 -- step 4 is done
  deriving DecidableEq, Repr

/-- The comb sources (R260-R273). -/
structure Comb where
  groupSrc : List Nat := [0, 1, 2]
  spare : Option Nat := some 3
  spareLit : Bool := false
  spareReady : Bool := false
  switching : Option Switch := none
  ctlGroup : Nat := 0
  failed : List Nat := []
  retest : Option Nat := none
  watch : List Bool := [false, false, false]
  watchClear : List (Option Nat) := [none, none, none]   -- since when every line is above −0.7 dB
  wantSwitch : List Bool := [false, false, false]        -- a switchover waits for READY
  noSpareAt : List (Option Nat) := [none, none, none]
  groupLost : List LambdaSet := [0, 0, 0]                -- lines disabled group-wide
  deriving DecidableEq, Repr

/-- A frame in transit, with the engine that received it (R281). -/
structure Transit where
  fport : Nat
  frame : Frame
  deriving DecidableEq, Repr

/-- A message toward another module that waits for a link or an answer (R81, R283). -/
structure OutMsg where
  dst : Coord
  src : Coord
  cls : Nat
  srcCtx : Nat
  job : W32
  msgId : W16
  bound : Option (Nat × Byte)
  notFound : Bool := false
  cmd : Option (Nat × W32) := none
  sent : Bool := false                 -- its frames are all in a link's queue
  queued : Nat := 0                    -- how many of its frames are
  needCredit : Bool := false           -- it waits for a message credit of a collective (R291)
  via : Option (Nat × Nat) := none     -- the link that its frames went over (R247)
  msg : Msg
  deriving DecidableEq, Repr

/-- A binding-cache entry (R81). -/
structure Binding where
  ctx : Nat
  peer : Coord
  peerCtx : Nat
  epoch : Byte
  deriving DecidableEq, Repr

/-- A fence-table entry (R376). -/
structure Fence where
  uid : W64
  coord : Coord
  epoch : W32
  fenced : Bool
  redirect : Option Coord
  deriving DecidableEq, Repr

/-! ## Keystones, flash and fuses -/

/-- State of start-up (R405). -/
inductive BootState where
  | starting
  | ready
  | outOfService
  | recovery
  deriving DecidableEq, Repr

/-- The manager key set (R403). -/
structure KeySet where
  n : Nat := 0
  m : Nat := 0
  epoch : W32 := 0
  keys : List (List Byte) := []
  deriving DecidableEq, Repr

/-- A firmware image in a slot (R394): its header and body, and what R395 finds of them. -/
structure FwImage where
  present : Bool := false
  svn : Nat := 0
  digest : List Byte := []
  valid : Bool := false
  header : List Byte := []
  body : List Byte := []
  deriving DecidableEq, Repr

/-- The two copies in which flash keeps a record: the sequence number of each, and whether its CRC-32C holds. The content of the record is
that of the valid copy with the higher number (R393). -/
structure RecordCopies where
  seq0 : Nat := 1
  seq1 : Nat := 0
  ok0 : Bool := true
  ok1 : Bool := true
  deriving DecidableEq, Repr

/-- Module flash and the keystones' fuses (R393). The comb map and roles of the health record are those of `Comb`, which every reset reads back
from flash; the DeviceID and device CA certificates of the identity record are those of `Hw.chain`, and the UDS is `Config.uds`. -/
structure Flash where
  copies : List RecordCopies := List.replicate 5 {}   -- boot record, identity, commissioning, health, keys
  slotA : FwImage := {}
  slotB : FwImage := {}
  pref : Nat := 0
  trial : Bool := false
  trialBooted : Bool := false
  rollback : Nat := 0
  revoked : List Nat := []
  keys : KeySet := {}
  oos : Bool := false
  oosCause : Nat := 0
  oosCount : Nat := 0
  oosNonce : List W32 := List.replicate 8 0
  rows : List (Nat × Nat × Nat) := []          -- die, place, row of the SRAM row list (R208)
  commissioning : List (List (List (List Int))) := List.replicate 4 (List.replicate 3 (List.replicate 8 (List.replicate 34 0)))
    -- the tapped power of R262 in 0.01 dBm, by source, group, engine of the group and line
  monitorPower : List (List Int) := List.replicate 4 (List.replicate 34 0)   -- the same at the monitor port, by source and line
  retiredEngines : List (Nat × Nat) := []
  retiredTiles : List (Nat × Nat) := []
  noStandby : Bool := false                    -- a keystone failed its self-test or was taken over (R386)
  deriving DecidableEq, Repr

/-- A firmware command that takes time (R397). -/
inductive FwBusy where
  | stage (img : FwImage) (cause : Nat)
  | activate
  | confirm
  | commit
  deriving DecidableEq, Repr

/-- A reset domain (R362, R386). -/
inductive Domain where
  | engine (die n : Nat)
  | tile (die tile : Nat)
  | port (p : Nat)
  | optical (k : Nat)
  | die (d : Nat)
  | dies (a b : Nat)
  | dieAndEngine (d k : Nat)
  | context (n : Nat)
  | ring (p : Nat)
  | module
  deriving DecidableEq, Repr

/-- A recovery in progress (R362). -/
structure Recovery where
  domain : Domain
  cause : Nat
  counted : Bool
  oosCause : Nat := 0                          -- not 0: enter OUT_OF_SERVICE in place of returning
  waitCool : Bool := false                     -- wait for R419
  deriving DecidableEq, Repr

/-- The configuration registers whose writes the rules limit to legal values (R38, R213, R215, R259, R386). -/
structure Limits where
  slot : Nat := 0
  slotValid : Bool := false
  present : Nat := 0
  rate : Nat := 0
  localGib : Nat := 0
  linkDeadMs : Nat := 50
  reasmMs : Nat := 100
  hangMs : Nat := 100
  windowS : Nat := 1800
  deriving DecidableEq, Repr

/-- The keystone registers (R405, R386, R422, R466). -/
structure Keystone where
  step : Nat := 12
  boot : BootState := .ready
  leader : Nat := 0
  slot : Nat := 0
  readyMs : Nat := 2900
  reverted : Bool := false
  unconfirmed : Bool := false                  -- the running slot is on trial: it has not been confirmed (R396, R397)
  fwBusy : Option FwBusy := none
  fwErr : Bool := false
  fwCause : Nat := 0
  fwAddr : W64 := 0
  dbgAddr : W64 := 0
  keyAddr : W64 := 0
  keyToken : W64 := 0
  dbgLevel : Nat := 0
  dbgPending : Nat := 0
  dbgErr : Bool := false
  dbgNonce : List W32 := List.replicate 8 0
  keyBusy : Option KeySet := none
  keyErr : Bool := false
  resetDomain : Nat := 0
  resetIndex : Nat := 0
  resetErr : Bool := false
  recovery : List Recovery := []
  history : List Nat := []                     -- times of the last recoveries, newest first
  deriving DecidableEq, Repr

/-- More keystone registers: capture, power, coolant, standby (R365, R386, R422). -/
structure Keystone2 where
  capAddr : Nat := 0
  capValid : Bool := false
  capAuto : Bool := true
  capAutoK1 : Bool := false
  capK1 : Nat := 0
  highClk : Bool := false
  volt : Nat := 0
  current : Nat := 0
  energy : W64 := 0
  inletT : Nat := 0
  outletT : Nat := 0
  hot : Bool := false
  hotAt : Option Nat := none
  missed : Nat := 0
  calibrated : Bool := true
  powered : Bool := true
  stopped : List Island := []                  -- islands stopped at 125 °C (R419)
  temps : List (Island × Nat) := []            -- last readings of islands outside the compute dies, in 0.1 °C
  smbusAt : Nat := 0                           -- when the SMBus targets begin to answer (R450)
  goodAt : Nat := 0                            -- when 50 V became good: every local counter starts then (R410)
  bootRate : Nat := 0                          -- the HBM rate and the spare tiles in use at the last start-up or module reset (R401)
  bootSpares : Nat := 0
  deriving DecidableEq, Repr

/-! ## Host bridges -/

/-- State of an IDE stream (R431). -/
structure IdeStream where
  secure : Bool := false
  failed : Bool := false               -- its integrity check has failed: Insecure until it has keys again
  keys : List Byte := []
  deriving DecidableEq, Repr

/-- The SPDM state of a port's DOE mailbox (R400, R430). -/
structure Spdm where
  version : Bool := false
  caps : Bool := false
  algs : Bool := false
  exchanging : Bool := false
  session : Bool := false
  updates : Nat := 0
  refused : Bool := false              -- the mailbox's error bit (R430)
  deriving DecidableEq, Repr

/-- The error state of a function: its uncorrectable error status, and the header log of 4 DW (R424). -/
structure Aer where
  status : W32 := 0
  header : List W32 := [0, 0, 0, 0]
  deriving DecidableEq, Repr

/-- A host bridge and its port (R423-R441). -/
structure HostPort where
  clock : Bool := true                 -- its reference clock is present (R391, R446)
  d3 : Bool := false                   -- the function is in D3hot (R424)
  aer : Aer := {}
  msixOn : Bool := true                -- MSI-X Enable and Function Mask of the capability (R472)
  msixMask : Bool := false
  roDis : Bool := false
  failover : Bool := true
  lossMs : Nat := 100
  up : Bool := true
  speed : Nat := 6
  width : Nat := 8
  flit : Bool := true
  busMaster : Bool := true
  perst : Bool := false
  lost : Bool := false
  configured : Bool := true
  configFrom : Nat := 0                 -- the later of step 6 and the deassertion of PERST# (R390)
  apertureBase : Nat := 0
  bar2Log : Nat := 6
  agreeValid : Bool := false
  agree : Bool := false
  members : Nat := 0
  firstDiff : Nat := 0
  poisonRx : W32 := 0
  poisonTx : W32 := 0
  msix : List (Nat × W32) := []         -- dword index of the table, where it differs from reset
  pba : List Nat := []                  -- entries pending, ascending
  ide : List IdeStream := List.replicate 4 {}
  spdm : Spdm := {}
  config : List (Nat × W32) := []       -- configuration registers written
  mem : List Host.Cell := []            -- the host's memory as the module has seen or written it
  waiting : List (Nat × List Byte) := []  -- writes that wait while the port is down, oldest first (R432)
  deriving DecidableEq, Repr

/-- The group masks (R470). -/
structure Bcast where
  die : List Nat := List.replicate 8 0
  port : List Nat := List.replicate 8 0
  tile : List (List Nat) := List.replicate 8 (List.replicate 8 0)
  deriving DecidableEq, Repr

/-! ## What leaves the block -/

/-- An answer of the DOE mailbox (R400, R401, R430). -/
inductive DoeReply where
  | discovery (index : Nat) (types : List Nat)
  | versions (vs : List Nat)
  | capabilities
  | algorithms (names : List String)
  | digests (d : List Byte)
  | certificate (bytes : List Byte)
  | challenge (signature : List Byte)
  | measurements (blocks : List (Nat × List Byte)) (signature : Option (List Byte))
  | keyExchange (signature : List Byte)
  | finished
  | keyUpdated
  | alive
  | ended
  | keySet
  | error
  deriving DecidableEq, Repr

/-- Something that has left the block. -/
inductive Out where
  | msix (port vector : Nat)
  | flit (die port lg : Nat) (f : Flit)
  | frame (fport link : Nat) (f : Frame)
  | ctrl (fport link : Nat) (c : Ctrl)
  | configReply (port : Nat) (value : Option W32)      -- none: retry status
  | bar2 (port : Nat) (bytes : List Byte) (poisoned : Bool)
  | aliasData (port : Nat) (value : W64)
  | poisonedWrite (port addr n : Nat)                 -- a write to host memory that carries the poisoned-data indication (R351)
  | unsupported (port : Nat)
  | doe (port : Nat) (r : DoeReply)
  | smbusBytes (target : Nat) (bytes : List Byte) (pec : Byte)   -- an answer of the target at an address, with its PEC (R450)
  | smbusWord (target : Nat) (value : W16) (pec : Byte)
  | smbusNak
  | packet (die : Nat) (p : Packet)                   -- a mortar packet has reached its destination
  | hbmData (die : Nat) (requester : HbmRequester) (group : Nat) (bytes : List Byte) (poisoned : Bool)
  | accessReply (dst : Coord) (da : W64) (bytes : List Byte) (poisoned : List Nat)
  | accessRefused (dst : Coord) (da : W64)
  | blockReply (dst : Coord) (addr : W64) (bytes : List Byte) (ok : Bool) (poisoned : List Nat)
  deriving DecidableEq, Repr

/-! ## The whole machine -/

/-- The hardware. -/
structure Hw where
  now : Nat := 0
  freeCtr : Nat := 0
  startSeq : Nat := 1
  logSeq : W32 := 0
  out : List Out := []
  lim : Limits := {}
  ks : Keystone := {}
  ks2 : Keystone2 := {}
  flash : Flash := {}
  rings : List WorkRing := List.replicate 128 {}
  cpls : List OutRing := List.replicate 16 {}
  evts : List OutRing := List.replicate 2 {}
  ctxs : List Ctx := []
  objs : List (Nat × W64) := []         -- synchronisation objects that are not 0, ascending
  syncFlight : List SyncOp := []
  seqs : List SeqSlot := List.replicate 256 {}
  dies : List Die := []
  aux : List DieAux := List.replicate 16 {}
  tiles : List Tile := List.replicate 256 {}
  ports : List FPort := []
  oes : List OptEngine := List.replicate 24 {}
  comb : Comb := {}
  transit : List Transit := []
  outMsgs : List OutMsg := []
  loose : List OutMsg := []             -- messages sent that nothing awaits, the newest first: an answer may still name one
  accesses : List Access := []
  requests : Nat := 0                   -- HBM requests issued so far
  reorder : List (HbmRequester × Nat × Nat × List Byte × Bool) := []
    -- what the gather engines' reorder buffers hold: engine, number of the request, group, data, poison (R221)
  heldAccesses : List HeldAccess := []  -- in the order in which they came
  binds : List Binding := []
  fences : List Fence := []
  topo : Option Topology := none
  hosts : List HostPort := List.replicate 2 {}
  bcast : Bcast := {}
  mem : List Host.Cell := []
  poison : List Nat := []
  spared : List (Nat × Nat × Nat) := []   -- the rows that received a spare at start-up: die, array, row (R208)
  deriving DecidableEq, Repr

/-- The T64 and the queue of commands that wait, first in, first out. -/
structure State where
  hw : Hw := {}
  pending : List Instr := []
  deriving DecidableEq, Repr

/-! ## Reset: the READY state of R404 -/

/-- The number of lane groups of mortar port p of die n (R15, R16, R21): 0 where the port does not exist. -/
def Reset.lanesOf (die p : Nat) : Nat :=
  let perimeter := ![0, 1, 2, 3, 7, 11, 15, 14, 13, 12, 8, 4]
  let onEdge := (List.finRange 12).any fun j => perimeter j == die
  if p = 0 then (if die / 4 = 0 then 0 else 256)
  else if p = 1 then (if die % 4 = 3 then 0 else 256)
  else if p = 2 then (if die / 4 = 3 then 0 else 256)
  else if p = 3 then (if die % 4 = 0 then 0 else 256)
  else if p = 4 ∨ p = 5 then (if onEdge then 64 else 0)
  else if p = 6 then (if die = 0 ∨ die = 4 ∨ die = 11 ∨ die = 15 then 4 else 0)
  else if p = 7 then (if die = 0 ∨ die = 12 ∨ die = 3 ∨ die = 15 then 1 else 0)
  else 0

/-- A die after training that found no failed wire (log 8). -/
def Reset.die (n : Nat) : Die :=
  { mort := (List.range 8).map fun p => { lanes := List.replicate (Reset.lanesOf n p) {} } }

/-- A fibre port under the default λ plan of R251: one link, DARK, to whatever peer answers; INCARNATION is drawn when the
link's state is created (R243). -/
def Reset.port (p : Nat) : FPort :=
  let mask : LambdaSet := if p % 2 = 0 then 0x30000FFFF#34 else 0x3FFFF0000#34
  { links := { valid := true, state := .dark, mask := mask,
               tx := if p % 2 = 0 then 0xFFFF#34 else 0xFFFF0000#34,
               ctrl := if p % 2 = 0 then 0 else 16,
               incarnation := (Config.random (32 + p)).setWidth 16 } ::
             List.replicate 3 {} }

/-- Flash and fuses as shipped: slot A holds the running image, no key set, in service (log 7). -/
def Reset.flash : Flash :=
  { slotA := { present := true, svn := 0, digest := Config.sha384 Config.shippedBody, valid := true
               header := Config.shippedHeader, body := Config.shippedBody } }

/-- The machine at READY (R404, R468). -/
def State.reset : State where
  hw :=
    { ctxs := (List.range 16).map fun n => { epoch := (Config.random n).setWidth 8 }
      dies := (List.range 16).map Reset.die
      ports := (List.range 48).map Reset.port
      flash := Reset.flash
      freeCtr := 128
      ks := { dbgNonce := (List.range 8).map fun i => (Config.random (16 + i)).setWidth 32 } }
  pending := []

end Sys2Proof.Machine
end

