-- ==== Sys2Proof/Machine/Ops.lean ====
section
/-! DEFINITION. Shared operations: bit fields, byte order, the sparse memories, and one accessor and one update for each
numbered part of the machine. -/

namespace Sys2Proof.Machine

/-- A meaning that changes the hardware by `f`, with or without 50 V, and leaves the queue alone. -/
def actPin (f : Hw → Hw) (s : State) : Host.Outcome State Fault Refusal := .next { s with hw := f s.hw }

/-- A meaning that changes the hardware by `f`; while 50 V is absent every island is stopped and nothing changes (R387). -/
def act (f : Hw → Hw) (s : State) : Host.Outcome State Fault Refusal := actPin (fun h => if h.ks2.powered then f h else h) s

/-- The telemetry registers take what their sensors read (R422; log 42). -/
def Keystone2.sample (k : Keystone2) (t : Nat) : Keystone2 :=
  { k with
    volt := (Config.sensor 0 t).toNat % 65536, current := (Config.sensor 1 t).toNat % 65536, energy := Config.sensor 2 t
    inletT := (Config.sensor 3 t).toNat % 4096, outletT := (Config.sensor 4 t).toNat % 4096 }

/-- One nominal nanosecond passes, and telemetry is sampled while 50 V is present (log 2, log 42). -/
def tick (s : State) : State :=
  let t := s.hw.now + 1
  { s with hw := { s.hw with now := t, ks2 := if s.hw.ks2.powered then s.hw.ks2.sample t else s.hw.ks2 } }

/-! ## Bits and bytes (R8) -/

/-- The field [hi:lo]. -/
def bits (x hi lo : Nat) : Nat := (x >>> lo) % 2 ^ (hi + 1 - lo)

/-- A flag as a number. -/
def b2n (b : Bool) : Nat := if b then 1 else 0

/-- The number that little-endian bytes spell. -/
def leNat : List Byte → Nat
  | [] => 0
  | b :: r => b.toNat + 256 * leNat r

/-- The n low bytes of x, little-endian. -/
def toLe : Nat → Nat → List Byte
  | 0, _ => []
  | n + 1, x => BitVec.ofNat 8 x :: toLe n (x / 256)

/-- The n-byte field at an offset. -/
def fld (bs : List Byte) (off n : Nat) : Nat := leNat ((bs.drop off).take n)

/-- `n` bytes of zeros. -/
def zeros (n : Nat) : List Byte := List.replicate n 0

/-- The lowest offset in `[off, off + n)` at which the bytes are not zero. -/
def firstNonZero (bs : List Byte) (off n : Nat) : Option Nat :=
  ((List.range n).find? fun i => (bs.getD (off + i) 0) != 0).map (off + ·)

/-- A 32-bit counter that saturates. -/
def satAdd (c : W32) (n : Nat) : W32 := BitVec.ofNat 32 (min (c.toNat + n) 0xFFFFFFFF)

/-- The first element of a list that passes a test, with its place. -/
def findIdxD {α : Type} (l : List α) (p : α → Bool) : Option (Nat × α) :=
  (l.zipIdx.find? fun x => p x.1).map fun x => (x.2, x.1)

/-- The least element, or `d` of an empty list. -/
def minD (l : List Nat) (d : Nat) : Nat := l.foldl min d

/-- Fold over the numbers below `n`. -/
def forN {α : Type} (n : Nat) (a : α) (f : α → Nat → α) : α := (List.range n).foldl f a

/-! ## Sparse memories: address and byte pairs, addresses rising, no zero byte listed (R404; log 12) -/

/-- The canonical form: addresses strictly rising from `lo`, no byte zero. -/
def cellsFrom : Nat → List Host.Cell → Bool
  | _, [] => true
  | lo, (a, b) :: r => decide (lo ≤ a) && b != 0 && cellsFrom (a + 1) r

/-- The canonical form of a memory. -/
def Memory.wf (m : List Host.Cell) : Bool := cellsFrom 0 m

/-- One byte. -/
def cellGet : List Host.Cell → Nat → Byte
  | [], _ => 0
  | (a, b) :: r, k => if a = k then b else cellGet r k

/-- Write one byte, keeping the canonical form. -/
def cellSet : List Host.Cell → Nat → Byte → List Host.Cell
  | [], k, v => if v = 0 then [] else [(k, v)]
  | (a, b) :: r, k, v =>
    if k < a then (if v = 0 then (a, b) :: r else (k, v) :: (a, b) :: r)
    else if k = a then (if v = 0 then r else (a, v) :: r)
    else (a, b) :: cellSet r k v

/-- Write bytes at rising addresses. -/
def cellWrite : List Host.Cell → Nat → List Byte → List Host.Cell
  | m, _, [] => m
  | m, a, b :: r => cellWrite (cellSet m a b) (a + 1) r

/-- Read n bytes. -/
def cellRead (m : List Host.Cell) (a : Nat) : Nat → List Byte
  | 0 => []
  | n + 1 => cellGet m a :: cellRead m (a + 1) n

/-! ## Ascending sets of numbers -/

/-- Put a number into an ascending list without repeats. -/
def setIns : List Nat → Nat → List Nat
  | [], k => [k]
  | a :: r, k => if k < a then k :: a :: r else if k = a then a :: r else a :: setIns r k

/-- Take a number out. -/
def setDel (l : List Nat) (k : Nat) : List Nat := l.filter (· != k)

/-! ## Parts of the machine -/

def Hw.ring (h : Hw) (r : Nat) : WorkRing := h.rings.getD r {}
def Hw.setRing (h : Hw) (r : Nat) (f : WorkRing → WorkRing) : Hw := { h with rings := h.rings.modify r f }
def Hw.outRing (h : Hw) (evt : Bool) (n : Nat) : OutRing := if evt then h.evts.getD n {} else h.cpls.getD n {}
def Hw.setOutRing (h : Hw) (evt : Bool) (n : Nat) (f : OutRing → OutRing) : Hw :=
  if evt then { h with evts := h.evts.modify n f } else { h with cpls := h.cpls.modify n f }
def Hw.ctx (h : Hw) (n : Nat) : Ctx := h.ctxs.getD n {}
def Hw.setCtx (h : Hw) (n : Nat) (f : Ctx → Ctx) : Hw := { h with ctxs := h.ctxs.modify n f }
def Hw.die (h : Hw) (n : Nat) : Die := h.dies.getD n {}
def Hw.setDie (h : Hw) (n : Nat) (f : Die → Die) : Hw := { h with dies := h.dies.modify n f }
def Hw.dieAux (h : Hw) (n : Nat) : DieAux := h.aux.getD n {}
def Hw.setAux (h : Hw) (n : Nat) (f : DieAux → DieAux) : Hw := { h with aux := h.aux.modify n f }
def Hw.tile (h : Hw) (die t : Nat) : Tile := h.tiles.getD (16 * die + t) {}
def Hw.setTile (h : Hw) (die t : Nat) (f : Tile → Tile) : Hw := { h with tiles := h.tiles.modify (16 * die + t) f }
def Hw.seq (h : Hw) (n : Nat) : SeqSlot := h.seqs.getD n {}
def Hw.setSeq (h : Hw) (n : Nat) (f : SeqSlot → SeqSlot) : Hw := { h with seqs := h.seqs.modify n f }
def Hw.host (h : Hw) (p : Nat) : HostPort := h.hosts.getD p {}
def Hw.setHost (h : Hw) (p : Nat) (f : HostPort → HostPort) : Hw := { h with hosts := h.hosts.modify p f }
def Hw.port (h : Hw) (p : Nat) : FPort := h.ports.getD p {}
def Hw.setPort (h : Hw) (p : Nat) (f : FPort → FPort) : Hw := { h with ports := h.ports.modify p f }
def Hw.link (h : Hw) (p l : Nat) : Link := (h.port p).links.getD l {}
def Hw.setLink (h : Hw) (p l : Nat) (f : Link → Link) : Hw :=
  h.setPort p fun q => { q with links := q.links.modify l f }
def Hw.oe (h : Hw) (k : Nat) : OptEngine := h.oes.getD k {}
def Hw.setOe (h : Hw) (k : Nat) (f : OptEngine → OptEngine) : Hw := { h with oes := h.oes.modify k f }
def Hw.emit (h : Hw) (o : Out) : Hw := { h with out := o :: h.out }

/-- The ring that a command number names: the command in `running`. -/
def Hw.cmd (h : Hw) (r : Nat) (i : W32) : Option Cmd := (h.ring r).running.find? (·.index == i)
/-- Update a running command. -/
def Hw.setCmd (h : Hw) (r : Nat) (i : W32) (f : Cmd → Cmd) : Hw :=
  h.setRing r fun w => { w with running := w.running.map fun c => if c.index == i then f c else c }

/-- Whether a part of a die holds no work now: its domain is under recovery, or one of these islands has stopped (R362, R407, R419). -/
def Hw.stands (h : Hw) (die : Nat) (islands : List Island) : Bool :=
  (h.ks2.stopped.any islands.contains) || h.ks.recovery.any fun (r : Recovery) => match r.domain with
    | .die d => d == die
    | .dies a b => a == die || b == die
    | .dieAndEngine d _ => d == die
    | .module => true
    | _ => false

/-- Whether a tile's island, or the fabric that feeds it, stands. -/
def Hw.tileStands (h : Hw) (die tile : Nat) : Bool :=
  h.stands die [.fabric die, .tile die tile] || h.ks.recovery.any fun (r : Recovery) => r.domain == .tile die tile

/-- Take a free value (log 3). -/
def Hw.free (h : Hw) : Nat × Hw := (h.freeCtr, { h with freeCtr := h.freeCtr + 1 })

/-- A synchronisation object's value (R83). -/
def Hw.obj (h : Hw) (n : Nat) : W64 := match h.objs.find? (·.1 == n) with | some x => x.2 | none => 0
/-- Set an object; objects that are 0 are not listed. -/
def Hw.setObj (h : Hw) (n : Nat) (v : W64) : Hw :=
  let rest := h.objs.filter (·.1 != n)
  { h with objs := if v = 0 then rest
                   else rest.takeWhile (fun x => decide (x.1 < n)) ++ (n, v) :: rest.dropWhile (fun x => decide (x.1 < n)) }

/-- Codes of the states of R68 and R74, as registers and records show them. -/
def RingState.code : RingState → Nat
  | .stopped => 0
  | .running => 1
  | .halted => 2
  | .draining => 3
def CtxState.code : CtxState → Nat
  | .free => 0
  | .opened => 1
  | .active => 2
  | .quiescing => 3
  | .closing => 4
  | .faulted => 5

/-- The host port that reaches a work ring (R41). -/
def Hw.ringPort (h : Hw) (w : WorkRing) : Nat := if w.module then w.port else (h.ctx w.ctx).owner
/-- The host port that reaches a completion or event ring (R41). -/
def Hw.outPort (h : Hw) (evt : Bool) (n : Nat) : Nat := if evt then n else (h.ctx (h.outRing false n).ctx).owner

/-- Whether every context is FREE with BUSY 0 (R39, R213, R215, R409). -/
def Hw.allFree (h : Hw) : Bool := h.ctxs.all fun c => c.state == .free
/-- Whether no context is being opened. -/
def Hw.noneBusy (h : Hw) : Bool := h.ctxs.all fun c => c.busy.isNone

/-! ## Records of flash (R393) -/

/-- A record is written: the older copy takes the next sequence number. -/
def RecordCopies.write (c : RecordCopies) : RecordCopies :=
  let old0 := !c.ok0 || (c.ok1 && decide (c.seq0 < c.seq1))
  if old0 then { c with seq0 := max c.seq0 c.seq1 + 1, ok0 := true } else { c with seq1 := max c.seq0 c.seq1 + 1, ok1 := true }

/-- A write that 50 V did not outlast: the older copy is spoilt, and the record before it stays in force. -/
def RecordCopies.spoil (c : RecordCopies) : RecordCopies :=
  if !c.ok0 || (c.ok1 && decide (c.seq0 < c.seq1)) then { c with ok0 := false } else { c with ok1 := false }

/-- The records outside the slots, by their place in `Flash.copies`. -/
def recBoot : Nat := 0
def recHealth : Nat := 3
def recKeys : Nat := 4

/-- A record takes a new content. -/
def Flash.record (f : Flash) (r : Nat) : Flash := { f with copies := f.copies.modify r RecordCopies.write }
def Flash.spoil (f : Flash) (r : Nat) : Flash := { f with copies := f.copies.modify r RecordCopies.spoil }

/-- Write a record of flash. -/
def Hw.flashWrite (h : Hw) (r : Nat) (f : Flash → Flash) : Hw := { h with flash := (f h.flash).record r }

/-! ## Blocks that do not answer (R390, R464, R469) -/

/-- Whether a block reads as zero and ignores writes: before READY, all but the registers R390 names; while its domain is being reset;
or because its part is absent. -/
def Hw.dark (h : Hw) (o : Nat) : Bool :=
  let die := (o - 0x100000) / 0x10000
  let inDie (d : Nat) : Bool := decide (0x100000 ≤ o) && decide (o < 0x200000) && die == d
  let inOe (k : Nat) : Bool := decide (0x40000 ≤ o) && decide (o < 0x58000) && (o - 0x40000) / 0x1000 == k
  let inTile (d t : Nat) : Bool := inDie d && decide (0x2000 ≤ o % 0x10000) && decide (o % 0x10000 < 0x3000) && (o % 0x10000 - 0x2000) / 0x100 == t
  let inPort (p : Nat) : Bool := inOe (p / 2) && (o % 0x1000) / 0x200 == p % 2
  let keystone := decide (o < 0x10000)
  let early := decide (o < 0x78) || (decide (0x100 ≤ o) && decide (o < 0x10C)) || (decide (0x12400 ≤ o) && decide (o < 0x12480))
  let booting := match h.ks.boot with
    | .starting => !early
    | .recovery => !(decide (o < 0x78) || o == 0x204)
    | _ => false
  let hides (d : Domain) : Bool := match d with
    | .module => !(keystone || decide (0x380000 ≤ o) || (decide (0x20000 ≤ o) && decide (o < 0x22000) && decide (o % 0x1000 < 0x100)))
    | .die d => inDie d
    | .dies a b => inDie a || inDie b
    | .dieAndEngine d k => inDie d || inOe k
    | .tile d t => inTile d t
    | .optical k => inOe k
    | .port p => inPort p
    | _ => false
  booting || h.ks.recovery.any fun (r : Recovery) => hides r.domain

/-- Whether the compute dies and the optical engines have power: not before step 9 of start-up is complete, and not in RECOVERY (R388, R392). -/
def Hw.diesOn (h : Hw) : Bool :=
  match h.ks.boot with
  | .starting => decide (9 ≤ h.ks.step)
  | .recovery => false
  | _ => true

/-- A meaning of a compute die or an optical engine: nothing happens while it has no power. -/
def actDie (f : Hw → Hw) (s : State) : Host.Outcome State Fault Refusal := act (fun h => if h.diesOn then f h else h) s

/-- Whether a memory request of a host reaches a function: its port is up, and the function is not in D3hot (R424). -/
def Hw.reaches (h : Hw) (p : Nat) : Bool := (h.host p).up && !(h.host p).d3

/-- A host write of the register at an offset of BAR0: no effect where the block ignores writes. -/
def actReg (o : Nat) (f : Hw → Hw) (s : State) : Host.Outcome State Fault Refusal := act (fun h => if h.dark o then h else f h) s

/-- The same through a port: no request comes while it is down, and D3hot blocks it (R424, R432). -/
def actFrom (p o : Nat) (f : Hw → Hw) (s : State) : Host.Outcome State Fault Refusal := actReg o (fun h => if h.reaches p then f h else h) s

/-! ## Configuration space and IDE (R424, R431; log 14) -/

/-- A dword that the host wrote in a port's configuration space; 0 where it wrote none. -/
def HostPort.reg (q : HostPort) (o : Nat) : W32 := match q.config.find? (·.1 == o) with | some x => x.2 | none => 0

/-- Whether an IDE stream is Insecure though it is in use: it is enabled, or its integrity check failed, and it has no keys in force. -/
def HostPort.insecure (q : HostPort) (s : Nat) : Bool :=
  let x := q.ide.getD s {}
  !x.secure && (x.failed || (q.reg (Config.ideStream s + 4)).getLsbD 0)

/-- Whether an address lies in an address range of a stream, or the stream takes every request: its Default bit (PRESUMED, PCI Express;
log 14). -/
def HostPort.onStream (q : HostPort) (s a : Nat) : Bool :=
  (q.reg (Config.ideStream s + 4)).getLsbD 22 ||
  (List.range 2).any fun i =>
    let r := Config.ideStream s + 0x14 + 12 * i
    let x := (q.reg r).toNat
    x % 2 == 1 && decide (2 ^ 32 * (q.reg (r + 8)).toNat + bits x 19 8 * 2 ^ 20 ≤ a) && decide (a < 2 ^ 32 * (q.reg (r + 4)).toNat + bits x 31 20 * 2 ^ 20 + 2 ^ 20)

/-- Whether a request of a port to host memory would go on an Insecure stream: it is not sent (R431). -/
def HostPort.barred (q : HostPort) (a n : Nat) : Bool :=
  (List.range 4).any fun s => q.insecure s && (List.range ((a + n - 1) / 2 ^ 20 - a / 2 ^ 20 + 1)).any fun i => q.onStream s (a + 2 ^ 20 * i)

/-- What a read of host memory meets: one that is not sent fails (R428, R431). -/
def Hw.readEnv (h : Hw) (p a n : Nat) (e : Env) : Env := if (h.host p).barred a n then { e with hostFail := true, hostPoison := false } else e

/-! ## Host memory (log 12) -/

/-- Bytes of host memory that became visible. -/
def Hw.applyEnv (h : Hw) (e : Env) : Hw :=
  e.host.foldl (fun h x => h.setHost x.1 fun p => { p with mem := cellSet p.mem x.2.1 x.2.2 }) h

/-- Read host memory through a port. -/
def Hw.hostRead (h : Hw) (p a n : Nat) : List Byte := cellRead (h.host p).mem a n

/-- Write host memory through a port; while the port is down the write waits (R432), and on an Insecure stream it is not sent (R431). -/
def Hw.hostWrite (h : Hw) (p a : Nat) (bs : List Byte) : Hw :=
  h.setHost p fun q => if q.barred a bs.length then q else if q.up then { q with mem := cellWrite q.mem a bs } else { q with waiting := q.waiting ++ [(a, bs)] }

/-! ## Module memory (R35, R346, R347): keys are DA[51:0] -/

/-- A command's writes to module memory: bytes by key, and the keys of the 32-byte groups marked poisoned. -/
structure Writes where
  bytes : List (Nat × Byte) := []
  marks : List Nat := []
  deriving DecidableEq, Repr

/-- Add bytes at rising keys. -/
def Writes.add (w : Writes) (k : Nat) (bs : List Byte) : Writes :=
  { w with bytes := w.bytes ++ bs.zipIdx.map fun x => (k + x.2, x.1) }

/-- Whether a command's writes cover a 32-byte group whole. -/
def Writes.whole (w : Writes) (g : Nat) : Bool := (List.range 32).all fun i => w.bytes.any fun x => x.1 == 32 * g + i

/-- The groups that a command's writes reach. -/
def Writes.groups (w : Writes) : List Nat := (w.bytes.map fun x => x.1 / 32).eraseDups

/-- Carry out a command's writes: a group written whole with clean data loses its poison, and a marked one gains it. -/
def Hw.applyWrites (h : Hw) (w : Writes) : Hw :=
  let m := w.bytes.foldl (fun m x => cellSet m x.1 x.2) h.mem
  let p := h.poison.filter fun g => !w.whole g || w.marks.any (· / 32 == g)
  { h with mem := m, poison := w.marks.foldl (fun p k => setIns p (k / 32)) p }

/-- The 32-byte groups of `[a, a + n)`. -/
def groupsOf (a n : Nat) : List Nat :=
  if n = 0 then [] else (List.range ((a + n - 1) / 32 - a / 32 + 1)).map (a / 32 + ·)

/-- Whether an SRAM row of the flash list still lacks its spare: it keeps poisoning what it returns (R208). -/
def Hw.weakRow (h : Hw) (die array row : Nat) : Bool := h.flash.rows.contains (die, array, row) && !h.spared.contains (die, array, row)

/-- Whether a group lies in such a row. -/
def Hw.weakGroup (h : Hw) (g : Nat) : Bool :=
  !h.flash.rows.isEmpty && bits g 46 45 == 1 && h.weakRow (bits g 44 41) (bits g 40 36) (Config.sramRow (32 * g) % 65536)

/-- Whether a group of module memory reads as poisoned. -/
def Hw.poisonedGroup (h : Hw) (g : Nat) : Bool := h.poison.contains g || h.weakGroup g

/-- Whether any group of `[k, k + n)` reads as poisoned. -/
def Hw.poisonedAt (h : Hw) (k n : Nat) : Bool := (groupsOf k n).any h.poisonedGroup

/-- The groups of `[k, k + n)` that read as poisoned, numbered from the first. -/
def Hw.poisonOf (h : Hw) (k n : Nat) : List Nat := ((groupsOf k n).filter h.poisonedGroup).map (· - k / 32)

/-- The marks of n bytes at a key whose groups with these numbers are poisoned. -/
def marksOf (k n : Nat) (po : List Nat) : List Nat := ((groupsOf k n).filter fun g => po.contains (g - k / 32)).map (32 * ·)

/-- Read module memory. -/
def Hw.memRead (h : Hw) (k n : Nat) : List Byte := cellRead h.mem k n

/-- Offsets of the register blocks (R464). -/
def ringOff (r : Nat) : Nat := 0x10000 + 0x40 * r
def outOff (evt : Bool) (n : Nat) : Nat := (if evt then 0x12400 else 0x12000) + 0x40 * n
def ctxOff (n : Nat) : Nat := 0x1C000 + 0x100 * n
def portOff (p : Nat) : Nat := 0x40000 + 0x1000 * (p / 2) + 0x200 * (p % 2)
def dieOff (d : Nat) : Nat := 0x100000 + 0x10000 * d
def tileOff (d t : Nat) : Nat := 0x102000 + 0x10000 * d + 0x100 * t

end Sys2Proof.Machine
end

