-- ==== Sys2Proof/Machine/Identity.lean ====
section
/-! DEFINITION. The module's keys and what they sign: HKDF-SHA-384, the DeviceID and Alias keys, MODULE_UID and the mason's mark (16 R393, R398,
R399, R402; log 14, log 55). -/

namespace Sys2Proof.Machine

/-! ## Byte strings -/

/-- The number that big-endian bytes spell. -/
def beNat (b : List Byte) : Nat := leNat b.reverse
/-- The n low bytes of x, big-endian. -/
def toBe (n x : Nat) : List Byte := (toLe n x).reverse
/-- The ASCII codes of a text. -/
def ascii (t : String) : List Byte := t.toList.map fun c => BitVec.ofNat 8 c.toNat

/-! ## HKDF-SHA-384 (R398: RFC 5869) -/

/-- HMAC-SHA-384: blocks of 128 bytes. -/
def hmac (key text : List Byte) : List Byte :=
  let k := (if 128 < key.length then Config.sha384 key else key)
  let k := k ++ zeros (128 - k.length)
  Config.sha384 ((k.map (· ^^^ 0x5C)) ++ Config.sha384 ((k.map (· ^^^ 0x36)) ++ text))

/-- HKDF: 72 bytes of output, which are two blocks of 48, from input key material and an info. R398 names no salt: it is HKDF's own
default, zeros (log 55). -/
def hkdf72 (ikm info : List Byte) : List Byte :=
  let prk := hmac (zeros 48) ikm
  let t1 := hmac prk (info ++ [1])
  let t2 := hmac prk (t1 ++ info ++ [2])
  (t1 ++ t2).take 72

/-- The order of the group of P-384. -/
def p384Order : Nat := 0xFFFFFFFFFFFFFFFFFFFFFFFFFFFFFFFFFFFFFFFFFFFFFFFFC7634D81F4372DDF581A0DB248B0A77AECEC196ACCC52973

/-- A private scalar: the output mod (n - 1), plus 1. The bytes are read big-endian, as the keys are written (DESIGN CHOICE; log 55). -/
def scalarOf (ikm info : List Byte) : Nat := beNat (hkdf72 ikm info) % (p384Order - 1) + 1

/-! ## The keys (R398, R402) -/

/-- The DeviceID key: from the UDS alone. -/
def deviceScalar : Nat := scalarOf Config.uds (ascii "RAMAIN-DEVICEID")

/-- The input key material of the Alias key: the DeviceID scalar, and while debug is unlocked the scalar of the UDS with RAMAIN-DEBUG in its
place (log 55). -/
def aliasIkm (level : Nat) : List Byte :=
  toBe 48 (if level = 0 then deviceScalar else scalarOf Config.uds (ascii "RAMAIN-DEBUG"))

/-- The Alias key under an image's digest, its SVN and the debug level in force. -/
def aliasScalar (digest : List Byte) (svn level : Nat) : Nat := scalarOf (aliasIkm level) (ascii "RAMAIN-ALIAS" ++ digest ++ toLe 1 svn ++ toLe 1 level)

/-- The key that signs the Alias certificate: DeviceID, or under debug one that no Milip certificate certifies. -/
def aliasSigner (level : Nat) : Nat := if level = 0 then deviceScalar else scalarOf Config.uds (ascii "RAMAIN-DEBUG-SIGN")

/-- A signature over the SHA-384 of a text. -/
def signText (scalar : Nat) (text : List Byte) : List Byte := Config.ecdsaSign scalar (Config.sha384 text)

/-! ## The mason's mark (R399) -/

/-- A certificate of the chain: its number, its subject's scalar, what else it carries, and its signer's scalar. -/
def certificate (i subject : Nat) (extra : List Byte) (signer : Nat) : List Byte :=
  let body := Config.certBody i (Config.p384Public subject) extra
  Config.certDer body (signText signer body)

/-- The part number. -/
def partNumber : List Byte := ascii "MLP-RT64-C1"

end Sys2Proof.Machine

namespace Sys2Proof.Config

/-- MODULE_UID of this module: bytes 0-7 of the SHA-384 of the DeviceID public key, little-endian (R398). -/
def moduleUid : BitVec 64 := BitVec.ofNat 64 (Machine.leNat ((Config.sha384 (Config.p384Public Machine.deviceScalar)).take 8))

end Sys2Proof.Config

namespace Sys2Proof.Machine

/-- The four certificates: the root, the device CA, DeviceID, and Alias under a digest, an SVN and a debug level. -/
def masonsMark (digest : List Byte) (svn level : Nat) : List (List Byte) :=
  [certificate 0 (Config.milipScalar 0) [] (Config.milipScalar 0),
   certificate 1 (Config.milipScalar 1) [] (Config.milipScalar 0),
   certificate 2 deviceScalar (partNumber ++ toLe 8 Config.moduleUid.toNat) (Config.milipScalar 1),
   certificate 3 (aliasScalar digest svn level) [] (aliasSigner level)]

end Sys2Proof.Machine
end

