-- ==== Sys2Proof/Machine/Events.lean ====
section
/-! DEFINITION. Records, events and interrupts (02 R42-R45, R57, R58, R65-R67, R71; 18 R429, R432). -/

namespace Sys2Proof.Machine

/-! ## Sources of events (R65) -/

def srcModule : Nat := 0
def srcDie (n : Nat) : Nat := 0x1000 + n
def srcTile (d t : Nat) : Nat := 0x2000 + 16 * d + t
def srcPort (p : Nat) : Nat := 0x3000 + p
def srcEngine (k : Nat) : Nat := 0x4000 + k
def srcComb (n : Nat) : Nat := 0x5000 + n
def srcBridge (p : Nat) : Nat := 0x6000 + p
def srcKeystone (n : Nat) : Nat := 0x7000 + n
def srcRing (r : Nat) : Nat := 0x8000 + r
def srcCpl (n : Nat) : Nat := 0x9000 + n

/-! ## MSI-X (R429, R472; log 11) -/

/-- A dword of a port's MSI-X table; at reset only the mask bit of the fourth dword of an entry is set. -/
def HostPort.msixDword (p : HostPort) (i : Nat) : W32 :=
  match p.msix.find? (·.1 == i) with
  | some x => x.2
  | none => if i % 4 = 3 then 1 else 0

/-- Whether a port's message of an entry is held: the port is down, MSI-X is off, or the function or the entry is masked. -/
def HostPort.msixHeld (q : HostPort) (v : Nat) : Bool := !q.up || !q.msixOn || q.msixMask || (q.msixDword (4 * v + 3)).getLsbD 0

/-- The address of an entry's message. -/
def HostPort.msixAddr (q : HostPort) (v : Nat) : Nat := (q.msixDword (4 * v)).toNat + 2 ^ 32 * (q.msixDword (4 * v + 1)).toNat

/-- The message of an entry leaves; on an Insecure stream it is not sent (R431). -/
def Hw.msixEmit (h : Hw) (p v : Nat) : Hw := if (h.host p).barred ((h.host p).msixAddr v) 4 then h else h.emit (.msix p v)

/-- Send an MSI-X message, or set its pending bit while it is held. -/
def Hw.msixSend (h : Hw) (p v : Nat) : Hw :=
  if (h.host p).msixHeld v then h.setHost p fun q => { q with pba := setIns q.pba v } else h.msixEmit p v

/-- Messages that were pending and are held no longer leave. -/
def Hw.msixFlush (h : Hw) (p : Nat) : Hw :=
  let go := (h.host p).pba.filter fun v => !(h.host p).msixHeld v
  go.foldl (fun h v => h.msixEmit p v) (h.setHost p fun q => { q with pba := q.pba.filter fun v => q.msixHeld v })

/-! ## AER (R424, R425, R429, R431; log 14) -/

/-- The bits of the errors that the manual has the T64 report: poison received, an unsupported request, and a failed IDE check
(PRESUMED, PCI Express; log 14). -/
def aerPoison : Nat := 12
def aerUnsupported : Nat := 20
def aerIde : Nat := 28

/-- An error is reported through AER: its status bit, the header of the first error, and entry 0; a masked one sets its status alone. -/
def Hw.reportAer (h : Hw) (p bit : Nat) : Hw :=
  let masked := ((h.host p).reg (Config.aerCap + 8)).getLsbD bit
  let h := h.setHost p fun q =>
    { q with aer := { status := q.aer.status ||| (1 <<< bit)
                      header := if masked || q.aer.status != 0 then q.aer.header else (List.range 4).map (Config.tlpHeader p h.now) } }
  if masked then h else h.msixSend p 0

/-! ## Completion and event rings -/

def OutRing.size (o : OutRing) : Nat := 2 ^ (o.log2 + 6)
/-- Slots written and not known to be consumed. -/
def OutRing.used (o : OutRing) : Nat := (o.writeTail - o.headSeen).toNat
def OutRing.full (o : OutRing) : Bool := decide (o.size ≤ o.used)
/-- PHASE of the next record: 1 on the first pass, then alternating (R58). -/
def OutRing.phase (o : OutRing) : Nat := if o.writeTail.toNat / o.size % 2 = 0 then 1 else 0

/-- Whether a record can be written now: the ring is enabled, has a free slot, and its port is up (R62, R67, R432). -/
def Hw.canRecord (h : Hw) (evt : Bool) (n : Nat) : Bool :=
  let o := h.outRing evt n
  o.en && !o.full && (h.host (h.outPort evt n)).up

/-- One more record to announce: raise the vector when IRQ_MOD says so, or leave its delay running (R71). -/
def Hw.noteRecord (h : Hw) (evt : Bool) (n : Nat) : Hw :=
  let o := h.outRing evt n
  if !o.irqEn then h
  else if decide (o.unIrq + 1 < o.irqCount) then
    h.setOutRing evt n fun o => { o with unIrq := o.unIrq + 1, irqTimer := true }
  else (h.setOutRing evt n fun o => { o with unIrq := 0, irqTimer := false }).msixSend (h.outPort evt n) o.vector

/-- Write a 32-byte record whose byte 0x07 lacks PHASE into the next slot, and count it for the interrupt (R58, R71). -/
def Hw.putRecord (h : Hw) (evt : Bool) (n : Nat) (rb : List Byte) : Hw :=
  let o := h.outRing evt n
  let rb := rb.set 7 (rb.getD 7 0 ||| BitVec.ofNat 8 o.phase)
  let h := h.hostWrite (h.outPort evt n) (o.base.toNat + 32 * (o.writeTail.toNat % o.size)) rb
  (h.setOutRing evt n fun o => { o with writeTail := o.writeTail + 1 }).noteRecord evt n

/-- Write the T64's half of a completion or event ring's doorbell record (R43, R45). While no update counts as accepted R43 gives
DEV_SEQ no value, and it is written as 0 (DESIGN CHOICE; log 45). -/
def Hw.devOut (h : Hw) (evt : Bool) (n : Nat) : Hw :=
  let o := h.outRing evt n
  let q := toLe 4 (o.seqSeen.getD 0).toNat
  h.hostWrite (h.outPort evt n) (o.dbAddr.toNat + 0x20)
    (q ++ toLe 4 o.writeTail.toNat ++ toLe 4 (b2n o.en) ++ zeros 16 ++ q)

/-- Write the T64's half of a work ring's doorbell record (R43, R45); DEV_SEQ is 0 while no update counts as accepted (DESIGN CHOICE;
log 45). -/
def Hw.devRing (h : Hw) (r : Nat) : Hw :=
  let w := h.ring r
  let q := toLe 4 (w.seqSeen.getD 0).toNat
  h.hostWrite (h.ringPort w) (w.dbAddr.toNat + 0x20)
    (q ++ toLe 4 w.head.toNat ++ toLe 4 w.state.code ++ zeros 16 ++ q)

/-! ## Events -/

/-- The reading of the local counter of the island that a source names: the time since 50 V good within ±2,200 ppm, or before calibration a
reading of no stated accuracy (R7, R391, R410). -/
def Hw.localNs (h : Hw) (src : Nat) : W64 :=
  let t := h.now - h.ks2.goodAt
  let x := Config.localClock src t
  BitVec.ofNat 64 (if h.ks2.calibrated then t - 22 * t / 10000 + x % (2 * (22 * t / 10000) + 1) else x)

/-- The 32 bytes of an event record, without PHASE (R65). -/
def eventBytes (code src ctx : Nat) (epoch : Byte) (seq : W32) (ns : W64) (d0 d1 : Nat) : List Byte :=
  toLe 2 code ++ toLe 2 src ++ toLe 1 ctx ++ [epoch, 0, 2] ++ toLe 4 seq.toNat ++ toLe 4 ns.toNat ++ toLe 8 d0 ++ toLe 8 d1

/-- Deliver an event to a port's event ring: written, held before the first EN, counted as lost, or discarded (R67). -/
def Hw.deliver (h : Hw) (p : Nat) (rb : List Byte) : Hw :=
  let o := h.outRing true p
  if o.en then
    if o.full || o.lost != 0 then h.setOutRing true p fun o => { o with lost := satAdd o.lost 1 }
    else h.putRecord true p rb
  else if o.everEn then h
  else if o.held.length < 256 then h.setOutRing true p fun o => { o with held := o.held ++ [rb] }
  else h.setOutRing true p fun o => { o with lost := satAdd o.lost 1 }

/-- The record of an event whose source is a die or one of its tiles is among the die's last 8,192 (R369). -/
def Hw.keepEvent (h : Hw) (src : Nat) (rb : List Byte) : Hw :=
  if src / 0x1000 = 1 ∨ src / 0x1000 = 2 then
    h.setAux (if src / 0x1000 = 1 then src % 0x1000 else src % 0x1000 / 16) fun a => { a with evLog := (rb :: a.evLog).take 8192 }
  else h

/-- One event for each port of `ps`, under one LOG_SEQ. -/
def Hw.event (h : Hw) (ps : List Nat) (code src ctx : Nat) (epoch : Byte) (d0 d1 : Nat) : Hw :=
  let rb := eventBytes code src ctx epoch h.logSeq (h.localNs src) d0 d1
  let h := h.keepEvent src rb
  ps.foldl (fun h p => h.deliver p rb) { h with logSeq := h.logSeq + 1 }

/-- A module-wide event (R66). -/
def Hw.evMod (h : Hw) (code src d0 d1 : Nat) : Hw := h.event [0, 1] code src 0 0 d0 d1
/-- An event of one port. -/
def Hw.evPort (h : Hw) (p code src d0 d1 : Nat) : Hw := h.event [p] code src 0 0 d0 d1
/-- An event about a context, to its owner's ring (R66, R94). -/
def Hw.evCtx (h : Hw) (n code src d0 d1 : Nat) : Hw :=
  h.event [(h.ctx n).owner] code src n (h.ctx n).epoch d0 d1
/-- An event about a work ring (R66). -/
def Hw.evRing (h : Hw) (r code d0 d1 : Nat) : Hw :=
  let w := h.ring r
  if w.module then h.evPort w.port code (srcRing r) d0 d1 else h.evCtx w.ctx code (srcRing r) d0 d1

/-- EVENTS_LOST is written first when space appears, and the counter cleared (R67). -/
def Hw.flushLost (h : Hw) (p : Nat) : Hw :=
  let o := h.outRing true p
  if o.en && !o.full && o.lost != 0 then
    let rb := eventBytes 0x0005 (srcBridge p) 0 0 h.logSeq (h.localNs (srcBridge p)) o.lost.toNat 0
    ({ h with logSeq := h.logSeq + 1 }.setOutRing true p fun o => { o with lost := 0 }).putRecord true p rb
  else h

end Sys2Proof.Machine
end

