-- ==== Sys2Proof/Machine/Topo.lean ====
section
/-! DEFINITION. Coordinates, directions and routing in the torus (11 R274-R284; 15 R376, R377). -/

namespace Sys2Proof.Machine

def Coord.x (c : Coord) : Nat := bits c.toNat 5 0
def Coord.y (c : Coord) : Nat := bits c.toNat 11 6
def Coord.z (c : Coord) : Nat := bits c.toNat 17 12
def mkCoord (x y z : Nat) : Coord := BitVec.ofNat 18 (x + 64 * y + 4096 * z)

/-- The topology in force, if any. -/
def Hw.topology (h : Hw) : Topology := h.topo.getD {}
/-- The module's own coordinates: (0, 0, 0) under the single-module topology. -/
def Hw.self (h : Hw) : Coord := h.topology.self

/-- The neighbour of a module in direction d: 1 X+, 2 X−, 3 Y+, 4 Y−, 5 Z+, 6 Z− (R274). -/
def neighbour (t : Topology) (c : Coord) (d : Nat) : Coord :=
  let x := Coord.x c
  let y := Coord.y c
  let z := Coord.z c
  let lx := t.lens.1
  let ly := t.lens.2.1
  let lz := t.lens.2.2
  if d = 1 then mkCoord ((x + 1) % lx) (if x + 1 = lx then (y + t.twistX) % ly else y) z
  else if d = 2 then mkCoord ((x + lx - 1) % lx) (if x = 0 then (y + ly - t.twistX) % ly else y) z
  else if d = 3 then mkCoord x ((y + 1) % ly) (if y + 1 = ly then (z + t.twistY) % lz else z)
  else if d = 4 then mkCoord x ((y + ly - 1) % ly) (if y = 0 then (z + lz - t.twistY) % lz else z)
  else if d = 5 then mkCoord x y ((z + 1) % lz)
  else if d = 6 then mkCoord x y ((z + lz - 1) % lz)
  else c

/-- The length of the axis of a direction. -/
def axisLen (t : Topology) (d : Nat) : Nat :=
  if d = 1 ∨ d = 2 then t.lens.1 else if d = 3 ∨ d = 4 then t.lens.2.1 else t.lens.2.2

/-- The direction of a port: its nibble, or its default on an axis longer than 1 (R275, R277). 0 is none. -/
def portDir (t : Topology) (p : Nat) : Nat :=
  let n := t.portDir.getD p 15
  if n = 15 then
    let d := [5, 4, 1, 3, 6, 2].getD (p / 8) 0
    if axisLen t d = 1 then 0 else d
  else n

/-- All links as (port, link). -/
def allLinks : List (Nat × Nat) := (List.range 48).flatMap fun p => (List.range 4).map fun l => (p, l)

/-- The peer of a link: that of its HELLO, or the one its λ plan entry names. -/
def Link.toward (k : Link) : Option Coord := k.peer.or k.named

/-- The links whose peer is a module, ordered by port and link (R280). -/
def Hw.linksTo (h : Hw) (c : Coord) : List (Nat × Nat) :=
  allLinks.filter fun x => (h.link x.1 x.2).toward == some c

/-- Whether a link is a direction link: the peer's coordinates in its HELLO are those of the neighbour (R278). -/
def Hw.isDirLink (h : Hw) (p l : Nat) : Bool :=
  match h.topo with
  | none => false
  | some t => portDir t p != 0 && (h.link p l).peer == some (neighbour t t.self (portDir t p))

/-- The direction that dimension-ordered routing takes toward a destination (R279): 0 when it is this module. -/
def routeDir (t : Topology) (c dst : Coord) : Nat :=
  let go (a b len plus : Nat) : Nat := if 2 * ((b + len - a) % len) ≤ len then plus else plus + 1
  if Coord.x c ≠ Coord.x dst then go (Coord.x c) (Coord.x dst) t.lens.1 1
  else if Coord.y c ≠ Coord.y dst then go (Coord.y c) (Coord.y dst) t.lens.2.1 3
  else if Coord.z c ≠ Coord.z dst then go (Coord.z c) (Coord.z dst) t.lens.2.2 5
  else 0

/-- The links toward the next hop of a destination (R279): links to the destination itself when one is UP, otherwise the
direction links of the route. -/
def Hw.hopLinks (h : Hw) (dst : Coord) : List (Nat × Nat) :=
  let direct := h.linksTo dst
  if direct.any (fun x => (h.link x.1 x.2).state == .up) then direct
  else match h.topo with
  | none => direct
  | some t =>
    let d := routeDir t t.self dst
    if d = 0 then direct
    else
      let n := neighbour t t.self d
      (allLinks.filter fun x => portDir t x.1 == d && (h.link x.1 x.2).peer == some n)

/-- Whether traffic toward a module can go now. -/
inductive Reach where
  | self
  | up
  | waits
  | gone
  | fenced
  deriving DecidableEq, Repr

/-- The fence entry that fences a module, by its coordinates (R376). -/
def Hw.fenceOf (h : Hw) (c : Coord) : Option Fence := h.fences.find? fun f => f.fenced && f.coord == c

/-- Where frames for a module go: to the stand-in of a fenced module with a redirect (R377). -/
def Hw.redirect (h : Hw) (c : Coord) : Coord :=
  match h.fenceOf c with
  | some f => f.redirect.getD c
  | none => c

/-- Whether the links of a next hop carry frames now, wait, or are dead (R283). -/
def Hw.hopReach (h : Hw) (dst : Coord) : Reach :=
  let ls := h.hopLinks dst
  let st (x : Nat × Nat) := (h.link x.1 x.2).state
  if ls.any (fun x => st x == .up) then .up
  else if ls.any (fun x => st x == .lost || st x == .training || st x == .paused || st x == .hello) then .waits
  else .gone

/-- Reaching a module with context messages (`memory` false) or memory accesses (R283, R377). -/
def Hw.reach (h : Hw) (memory : Bool) (dst : Coord) : Reach :=
  match h.fenceOf dst with
  | some f =>
    match f.redirect with
    | none => .fenced
    | some r => if memory then .fenced else if r = h.self then .self else h.hopReach r
  | none => if dst = h.self then .self else h.hopReach dst

/-- The number h of R280 for a frame, by its source die, class, destination and M. -/
def flowKey (die cls : Nat) (dst : Coord) (m : Nat) : Nat :=
  17 * die + 5 * cls + Coord.x dst + 3 * Coord.y dst + 9 * Coord.z dst + m

/-- The link a frame takes toward a hop: link h mod n of the UP links toward the next hop (R280); a legacy link carries no COLL frames
(R257). -/
def Hw.chooseHop (h : Hw) (die cls : Nat) (hop dst : Coord) (m : Nat) : Option (Nat × Nat) :=
  let ls := (h.hopLinks hop).filter fun x => (h.link x.1 x.2).state == .up && !(cls == 3 && (h.link x.1 x.2).legacy)
  ls[flowKey die cls dst m % ls.length]?

/-- The same for a context message, or an answer to one, which goes to the stand-in of a redirected module (R377). -/
def Hw.chooseLink (h : Hw) (die cls : Nat) (dst : Coord) (m : Nat) : Option (Nat × Nat) := h.chooseHop die cls (h.redirect dst) dst m

/-- The module's twin (R284). -/
def Hw.twin (h : Hw) : Option Coord :=
  match h.topo with
  | none => none
  | some t =>
    if t.twinSet then some t.twin
    else
      let z := Coord.z t.self
      if t.lens.2.2 = 1 ∨ (z % 2 = 0 ∧ z + 1 = t.lens.2.2) then none
      else some (mkCoord (Coord.x t.self) (Coord.y t.self) (if z % 2 = 0 then z + 1 else z - 1))

/-- The number of a module, as DETAIL gives it and as operands key it. -/
def coordNat (c : Coord) : Nat := c.toNat

end Sys2Proof.Machine
end

