-- ==== Sys2Proof/Machine/Integrity.lean ====
section
/-! DEFINITION. The rates of corrected errors and of CRC failures, and the errors held back (14 R352, R353). -/

namespace Sys2Proof.Machine

/-- One second, one minute and the like in nominal ns. -/
def second : Nat := 1000000000

/-- Whether the last event of a place or port lies less than a minute back. -/
def DieAux.told (a : DieAux) (key now : Nat) : Bool := a.ceAt.any fun x => x.1 == key && decide (now < x.2 + 60 * second)

def DieAux.tell (a : DieAux) (key now : Nat) : DieAux := { a with ceAt := (a.ceAt.filter fun x => x.1 != key) ++ [(key, now)] }

/-- n corrected errors of a place of a die: CE_RATE when those of the last second exceed CE_LIMIT. -/
def Hw.noteCe (h : Hw) (die place n : Nat) : Hw :=
  if n = 0 then h
  else
    let a := h.dieAux die
    let l := List.replicate n (place, h.now) ++ a.ces.filter fun x => decide (h.now < x.2 + second)
    let count := (l.filter fun x => x.1 == place).length
    let h1 := h.setAux die fun a => { a with ces := l }
    if (h.die die).ceLimit < count ∧ a.told place h.now = false then
      (h1.setAux die fun a => a.tell place h.now).evMod 0x0502 (srcDie die) (die + 16 * place) count
    else h1

/-- A CRC failure of a port of a die, kind 0 mortar and 1 optical: LINK_CRC_RATE when those of the last second exceed CRC_LIMIT. -/
def Hw.noteCrc (h : Hw) (die kind port : Nat) : Hw :=
  let a := h.dieAux die
  let key := 64 * (kind + 1) + port
  let l := (key, h.now) :: a.crcs.filter fun x => decide (h.now < x.2 + second)
  let count := (l.filter fun x => x.1 == key).length
  let h1 := h.setAux die fun a => { a with crcs := l }
  if (h.die die).crcLimit < count ∧ a.told key h.now = false then
    (h1.setAux die fun a => a.tell key h.now).evMod 0x0503 (srcDie die) (die + 16 * kind + 256 * port) count
  else h1

/-- UE_SUPPRESSED (R352): the errors held back in the last second of a die. -/
def execUeSuppressed (die : Nat) (s : State) : Host.Outcome State Fault Refusal :=
  act (fun h =>
    let n := (h.dieAux die).ueHeld
    if n = 0 then h else (h.setAux die fun a => { a with ueHeld := 0 }).evMod 0x0505 (srcDie die) die n) s

end Sys2Proof.Machine
end

