-- ==== Sys2Proof/Machine/Num.lean ====
section
/-! DEFINITION. Number formats, rounding, conversions, quantisation, HAD32, trees and the random bits of the T64
(06 R150-R171; 07 R185, R191). Values are exact fractions, so every rounding is the one the manual names. -/

namespace Sys2Proof.Machine

/-- A value: a signed fraction (a zero keeps its sign), an infinity or NaN. -/
inductive Val where
  | fin (neg : Bool) (n d : Nat)
  | inf (neg : Bool)
  | nan
  deriving DecidableEq, Repr

/-- A float format: mantissa bits, bias, width and the code of the largest finite magnitude (R150-R153). -/
structure Fmt where
  mb : Nat
  bias : Nat
  width : Nat
  maxCode : Nat
  canon : Nat
  deriving DecidableEq, Repr

/-- The float formats by ELEM (R100); anything else reads as FP32. -/
def fmtOf (e : Nat) : Fmt :=
  if e = 1 then ⟨7, 127, 16, 0x7F7F, 0x7FC0⟩
  else if e = 2 then ⟨10, 15, 16, 0x7BFF, 0x7E00⟩
  else if e = 3 then ⟨3, 7, 8, 0x7E, 0x7F⟩
  else if e = 4 then ⟨2, 15, 8, 0x7B, 0x7E⟩
  else if e = 5 then ⟨1, 1, 4, 7, 0⟩
  else ⟨23, 127, 32, 0x7F7FFFFF, 0x7FC00000⟩

/-- Whether ELEM is a float format. -/
def isFloat (e : Nat) : Bool := decide (e ≤ 5)

/-- Bits per element (R100). -/
def elemBits (e : Nat) : Nat :=
  if e = 0 ∨ e = 6 then 32
  else if e = 1 ∨ e = 2 then 16
  else if e = 3 ∨ e = 4 ∨ e = 7 then 8
  else if e = 5 ∨ e = 8 then 4
  else if e = 9 ∨ e = 10 then 2
  else 64

/-- The group size B (R100). -/
def groupBytes (e : Nat) : Nat := 4 * elemBits e

/-- m × 2^e as a fraction. -/
def scaled (m : Nat) (e : Int) : Nat × Nat := (m * 2 ^ e.toNat, 2 ^ (-e).toNat)

def Val.ofInt (i : Int) : Val := .fin (decide (i < 0)) i.natAbs 1
def Val.isNan (v : Val) : Bool := v == .nan
def Val.neg : Val → Val
  | .fin s n d => .fin (!s) n d
  | .inf s => .inf (!s)
  | .nan => .nan
def Val.abs : Val → Val
  | .fin _ n d => .fin false n d
  | .inf _ => .inf false
  | .nan => .nan
def Val.isZero : Val → Bool
  | .fin _ n _ => n == 0
  | _ => false
def Val.finite : Val → Bool
  | .fin _ _ _ => true
  | _ => false

/-- Exact product; 0 × Inf is NaN (R133, R185). -/
def Val.mul : Val → Val → Val
  | .nan, _ => .nan
  | _, .nan => .nan
  | .fin s n d, .fin t m e => .fin (xor s t) (n * m) (d * e)
  | .inf s, .inf t => .inf (xor s t)
  | .inf s, .fin t m _ => if m = 0 then .nan else .inf (xor s t)
  | .fin s n _, .inf t => if n = 0 then .nan else .inf (xor s t)

/-- Exact sum; +Inf + −Inf is NaN, and a sum that is exactly zero is +0 (R132, R133; log 20). -/
def Val.add : Val → Val → Val
  | .nan, _ => .nan
  | _, .nan => .nan
  | .inf s, .inf t => if s = t then .inf s else .nan
  | .inf s, .fin _ _ _ => .inf s
  | .fin _ _ _, .inf t => .inf t
  | .fin s n d, .fin t m e =>
    let a : Int := if s then -(n * e : Nat) else (n * e : Nat)
    let b : Int := if t then -(m * d : Nat) else (m * d : Nat)
    let c := a + b
    .fin (decide (c < 0)) c.natAbs (d * e)

def Val.sub (a b : Val) : Val := a.add b.neg

/-- Exact quotient of a finite value by a non-zero finite one. -/
def Val.div : Val → Val → Val
  | .fin s n d, .fin t m e => if m = 0 then .nan else .fin (xor s t) (n * e) (d * m)
  | .inf s, .fin t _ _ => .inf (xor s t)
  | .fin s _ _, .inf t => .fin (xor s t) 0 1
  | _, _ => .nan

/-- a < b for values other than NaN; +0 and −0 are equal. -/
def Val.lt : Val → Val → Bool
  | .nan, _ => false
  | _, .nan => false
  | .inf s, .inf t => s && !t
  | .inf s, .fin _ _ _ => s
  | .fin _ _ _, .inf t => !t
  | .fin s n d, .fin t m e =>
    let a : Int := if s then -(n * e : Nat) else (n * e : Nat)
    let b : Int := if t then -(m * d : Nat) else (m * d : Nat)
    decide (a < b)

/-- a = b, where NaN equals nothing. -/
def Val.eqv (a b : Val) : Bool := !a.isNan && !b.isNan && !a.lt b && !b.lt a

/-! ## Codes to values (R150-R159) -/

/-- The value of a float code. -/
def floatVal (e code : Nat) : Val :=
  let f := fmtOf e
  let s := code.testBit (f.width - 1)
  let mag := code % 2 ^ (f.width - 1)
  if mag > f.maxCode then (if e = 3 then .nan else if mag = f.maxCode + 1 then .inf s else .nan)
  else
    let x := mag / 2 ^ f.mb
    let m := mag % 2 ^ f.mb
    let y := if x = 0 then scaled m (1 - f.bias - f.mb) else scaled (2 ^ f.mb + m) ((x : Int) - f.bias - f.mb)
    .fin s y.1 y.2

/-- Two's complement. -/
def signed (w code : Nat) : Int := if code % 2 ^ w < 2 ^ (w - 1) then (code % 2 ^ w : Nat) else (code % 2 ^ w : Nat) - (2 ^ w : Nat)

/-- An element's own value, and how many reserved codes were read (R151-R156). `operand` is a matrix operand. -/
def elemVal (operand : Bool) (e code : Nat) : Val × Nat :=
  if isFloat e then
    if e = 3 ∧ operand = true ∧ code % 128 = 127 then (.fin false 0 1, 1) else (floatVal e code, 0)
  else if e = 10 then
    if code = 2 then (.fin false 0 1, 1) else (.ofInt (if code = 1 then 1 else if code = 3 then -1 else 0), 0)
  else (.ofInt (signed (elemBits e) code), 0)

/-- A block scale's value, and whether it was the reserved code (R156-R158). -/
def scaleVal (sf code : Nat) : Val × Nat :=
  if sf = 1 then
    if code = 255 then (.nan, 0) else let y := scaled 1 ((code : Int) - 127); (.fin false y.1 y.2, 0)
  else if sf = 2 then
    let c := if code = 255 then 254 else code
    let y := if c / 8 = 0 then scaled (c % 8) (-17) else scaled (8 + c % 8) ((c / 8 : Int) - 18)
    (.fin false y.1 y.2, b2n (code == 255))
  else (.fin false 1 1, 0)

/-- The scale code of 1.0 (R118, R166). -/
def scaleOne (sf : Nat) : Nat := if sf = 1 then 0x7F else 0x78

/-! ## Rounding (R160, R169) -/

/-- How a fraction a/b of a value of a sign becomes an integer. -/
abbrev Rounder := Bool → Nat → Nat → Nat

/-- Round to nearest, ties to even. -/
def rne : Rounder := fun _ a b =>
  let q := a / b
  let r := a % b
  if 2 * r > b ∨ (2 * r = b ∧ q % 2 = 1) then q + 1 else q

/-- Stochastic rounding with the 32 random bits r (R169). -/
def stochastic (r : Nat) : Rounder := fun neg a b =>
  let q := a / b
  let m := a % b
  if m = 0 then q
  else if neg then (if r * b < (b - m) * 2 ^ 32 then q else q + 1)
  else (if r * b < m * 2 ^ 32 then q + 1 else q)

/-- The exponent of the highest bit of n/d, for n and d not 0. -/
def flog2 (n d : Nat) : Int :=
  let l : Int := (n.log2 : Int) - d.log2
  if n * 2 ^ (-l).toNat < d * 2 ^ l.toNat then l - 1 else l

/-- The code of the rounded magnitude, its exponent unbounded above. -/
def magCode (rd : Rounder) (f : Fmt) (neg : Bool) (n d : Nat) : Nat :=
  if n = 0 then 0
  else
    let emin : Int := 1 - f.bias - f.mb
    let e := max emin (flog2 n d - f.mb)
    (e - emin).toNat * 2 ^ f.mb + rd neg (n * 2 ^ (-e).toNat) (d * 2 ^ e.toNat)

/-- A conversion's result and what it counts. -/
structure Res where
  code : Nat
  sat : Bool := false
  nan : Bool := false
  deriving DecidableEq, Repr

def withSign (f : Fmt) (neg : Bool) (mag : Nat) : Nat := (if neg then 2 ^ (f.width - 1) else 0) + mag

/-- Conversion to a float format (R162, R163). -/
def toFloat (rd : Rounder) (e : Nat) (grad : Bool) (v : Val) : Res :=
  let f := fmtOf e
  let ovf (s finite : Bool) : Res :=
    if e = 3 then (if grad then { code := f.canon, nan := true } else { code := withSign f s f.maxCode, sat := true })
    else if finite && !grad then { code := withSign f s f.maxCode, sat := true }
    else { code := withSign f s (f.maxCode + 1) }
  match v with
  | .nan => { code := f.canon, nan := true }
  | .inf s => ovf s false
  | .fin s n d =>
    let m := magCode rd f s n d
    if m > f.maxCode then ovf s true else { code := withSign f s m }

/-- Conversion to a two's complement format of w bits (R162). -/
def toInt (rd : Rounder) (w : Nat) (v : Val) : Res :=
  match v with
  | .nan => { code := 0, sat := true }
  | .inf s => { code := if s then 2 ^ (w - 1) else 2 ^ (w - 1) - 1, sat := true }
  | .fin s n d =>
    let k := rd s n d
    if s then (if k > 2 ^ (w - 1) then { code := 2 ^ (w - 1), sat := true } else { code := (2 ^ w - k) % 2 ^ w })
    else (if k ≥ 2 ^ (w - 1) then { code := 2 ^ (w - 1) - 1, sat := true } else { code := k })

/-- Conversion to an unscaled element format. -/
def convert (rd : Rounder) (e : Nat) (grad : Bool) (v : Val) : Res :=
  if isFloat e then toFloat rd e grad v else toInt rd (elemBits e) v

/-- Rounding to FP32 in a mode. -/
def r32 (grad : Bool) (v : Val) : Res := toFloat rne 0 grad v

/-- The value of an FP32 code. -/
def v32 (c : W32) : Val := floatVal 0 c.toNat
def i32 (c : W32) : Int := c.toInt

/-! ## Quantisation (R165-R167, R169) -/

/-- The scaling limit Q (R165). -/
def scaleLimit (e : Nat) : Nat :=
  if e = 3 then 448 else if e = 4 then 57344 else if e = 5 then 6 else if e = 8 then 7 else 1

/-- A quantised group. -/
structure Quant where
  scale : Nat
  codes : List Nat
  limited : List Bool
  nans : Nat := 0
  deriving DecidableEq, Repr

/-- The largest finite magnitude of a group's valid values. -/
def amax (xs : List (Option Val)) : Val :=
  xs.foldl (fun a x => match x with
    | some v => if v.finite && a.lt v.abs then v.abs else a
    | none => a) (.fin false 0 1)

/-- The derived scale code (R166). -/
def deriveScale (e sf : Nat) (a : Val) : Nat :=
  let q := Val.ofInt (scaleLimit e)
  match a with
  | .fin _ n d =>
    if n = 0 then scaleOne sf
    else if sf = 1 then
      let k := flog2 n (d * scaleLimit e)
      let y := scaled 1 k
      let k := if ((Val.fin false y.1 y.2).mul q).lt a then k + 1 else k
      (max (-127) (min 127 k) + 127).toNat
    else ((List.range 254).find? fun c => !(((scaleVal 2 (c + 1)).1.mul q).lt a)).elim 254 (· + 1)
  | _ => scaleOne sf

/-- One quantised element: its code and whether it was limited. -/
def quantElem (rd : Rounder) (e : Nat) (q : Val) : Nat × Bool :=
  match q with
  | .fin s n d =>
    if isFloat e then
      let f := fmtOf e
      let m := magCode rd f s n d
      if m > f.maxCode then (withSign f s f.maxCode, true) else (withSign f s m, false)
    else
      let k := rd s n d
      let lim := scaleLimit e
      let k' := min k lim
      let c : Nat := if s then (2 ^ elemBits e - k') % 2 ^ elemBits e else k'
      (c, decide (k > lim))
  | .inf s =>
    let lim := scaleLimit e
    if isFloat e then (withSign (fmtOf e) s (fmtOf e).maxCode, true)
    else ((if s then 2 ^ elemBits e - lim else lim), true)
  | .nan => (0, true)

/-- Quantise a channel group; `none` is a padding position, and every position has its own rounder (R166, R167, R169). -/
def quantise (rds : List Rounder) (e sf : Nat) (xs : List (Option Val)) : Quant :=
  let bad := xs.any fun x => match x with | some v => !v.finite | none => false
  if bad && sf == 1 then
    { scale := 255, codes := xs.map fun _ => 0, limited := xs.map fun _ => false, nans := (xs.filter (·.isSome)).length }
  else
    let sc := deriveScale e sf (amax xs)
    let s := (scaleVal sf sc).1
    let ys := xs.zipIdx.map fun x => match x.1 with
      | some v => quantElem (rds.getD x.2 rne) e (v.div s)
      | none => (0, false)
    { scale := sc, codes := ys.map (·.1), limited := ys.map (·.2) }

/-! ## FP32 lane operations (R185) -/

/-- The larger of two values; NaN wins, and +0 ranks above −0. -/
def Val.max (a b : Val) : Val :=
  if a.isNan || b.isNan then .nan
  else if a.lt b then b else if b.lt a then a
  else match a with | .fin true _ _ => b | _ => a

/-- The smaller of two values. -/
def Val.min (a b : Val) : Val :=
  if a.isNan || b.isNan then .nan
  else if a.lt b then a else if b.lt a then b
  else match a with | .fin true _ _ => a | _ => b

/-- Clamp an exact integer to INT32, and whether it was outside. -/
def clamp32 (i : Int) : W32 × Bool :=
  if i > 2 ^ 31 - 1 then (0x7FFFFFFF, true) else if i < -2 ^ 31 then (0x80000000, true) else (BitVec.ofInt 32 i, false)

/-! ### Transcendentals: exact results rounded once, from 320-bit fixed point (log 21) -/

/-- Integer square root by bits, highest first. -/
def isqrtGo : Nat → Nat → Nat → Nat
  | 0, _, r => r
  | k + 1, n, r => let t := r + 2 ^ k; if t * t ≤ n then isqrtGo k n t else isqrtGo k n r

def isqrt (n : Nat) : Nat := isqrtGo (n.log2 / 2 + 1) n 0

/-- 2^f in 320-bit fixed point, for a fraction f given by its bits below the point, highest first; `c` is 2^(2^-i). -/
def exp2Go : List Bool → Nat → Nat → Nat
  | [], _, acc => acc
  | b :: r, c, acc => let c' := isqrt (c * 2 ^ 320); exp2Go r c' (if b then acc * c' / 2 ^ 320 else acc)

/-- 2^a. -/
def exp2Val : Val → Val
  | .nan => .nan
  | .inf s => if s then .fin false 0 1 else .inf false
  | .fin s n d =>
    let a : Int := if s then -(n : Int) else n
    let w := a / d
    let r := (a % d).toNat
    if w > 200 then .fin false (2 ^ 200) 1
    else if w < -400 then .fin false 1 (2 ^ 400)
    else
      let fr := r * 2 ^ 200 / d
      let bs := (List.range 200).map fun i => fr.testBit (199 - i)
      let m := if r = 0 then 2 ^ 320 else exp2Go bs (2 ^ 321) (2 ^ 320)
      let y := scaled m (w - 320)
      .fin false y.1 y.2

/-- The bits of log2 m below the point, for m in [1, 2) in 320-bit fixed point, as one number of k bits. -/
def log2Go : Nat → Nat → Nat → Nat
  | 0, _, acc => acc
  | k + 1, m, acc =>
    let q := m * m / 2 ^ 320
    if q ≥ 2 ^ 321 then log2Go k (q / 2) (2 * acc + 1) else log2Go k q (2 * acc)

/-- log2 a. -/
def log2Val : Val → Val
  | .nan => .nan
  | .inf s => if s then .nan else .inf false
  | .fin s n d =>
    if n = 0 then .inf true
    else if s then .nan
    else
      let k := flog2 n d
      let m := n * 2 ^ (320 + (-k).toNat) / (d * 2 ^ k.toNat)
      let f := log2Go 128 m 0
      let t : Int := k * 2 ^ 128 + f
      .fin (decide (t < 0)) t.natAbs (2 ^ 128)

/-- 1/a. -/
def rcpVal : Val → Val
  | .nan => .nan
  | .inf s => .fin s 0 1
  | .fin s n d => if n = 0 then .inf s else .fin s d n

/-- 1/√a: exact where the root is, and otherwise strictly between two fine steps. -/
def rsqVal : Val → Val
  | .nan => .nan
  | .inf s => if s then .nan else .fin false 0 1
  | .fin s n d =>
    if n = 0 then .inf s
    else if s then .nan
    else
      let x := d * n * 2 ^ 640
      let r := isqrt x
      if r * r = x then .fin false r (n * 2 ^ 320) else .fin false (2 * r + 1) (n * 2 ^ 321)

/-! ## HAD32 and trees (R168, R191) -/

/-- One FP32 operation with its saturation. -/
def lane32 (grad : Bool) (v : Val) : W32 × Bool := let r := r32 grad v; (BitVec.ofNat 32 r.code, r.sat)

/-- One butterfly stage of HAD32. -/
def hadStage (grad : Bool) (s : Nat) (x : List W32 × Bool) : List W32 × Bool :=
  let ys := (List.range 32).map fun j =>
    if j.testBit s then lane32 grad ((v32 (x.1.getD (j - 2 ^ s) 0)).sub (v32 (x.1.getD j 0)))
    else lane32 grad ((v32 (x.1.getD j 0)).add (v32 (x.1.getD (j + 2 ^ s) 0)))
  (ys.map (·.1), x.2 || ys.any (·.2))

/-- HAD32 of one channel group, and whether any step saturated. -/
def had32 (grad : Bool) (xs : List W32) : List W32 × Bool :=
  let y := (List.range 5).foldl (fun x s => hadStage grad s x) (xs, false)
  let zs := y.1.map fun a => lane32 grad ((v32 a).mul (v32 0x3E3504F3#32))
  (zs.map (·.1), y.2 || zs.any (·.2))

/-- Combine neighbours, counting the operations that saturate. -/
def pairUp (op : W32 → W32 → W32 × Bool) : List W32 → List W32 × Nat
  | a :: b :: r => let x := op a b; let y := pairUp op r; (x.1 :: y.1, y.2 + b2n x.2)
  | l => (l, 0)

/-- The tree over 128 values, with its saturations (R191). -/
def tree128 (op : W32 → W32 → W32 × Bool) (xs : List W32) : W32 × Nat :=
  let y := (List.range 7).foldl (fun (l : List W32 × Nat) _ => let z := pairUp op l.1; (z.1, l.2 + z.2)) (xs, 0)
  (y.1.headD 0, y.2)

/-! ## Random bits (R170) -/

def mix64 (z : W64) : W64 :=
  let z := z + 0x9E3779B97F4A7C15#64
  let z := (z ^^^ (z >>> 30)) * 0xBF58476D1CE4E5B9#64
  let z := (z ^^^ (z >>> 27)) * 0x94D049BB133111EB#64
  z ^^^ (z >>> 31)

/-- The 32 random bits of an element. -/
def randBits (seed step tensor index : W64) : W32 :=
  (mix64 (mix64 (mix64 (mix64 seed ^^^ step) ^^^ tensor) ^^^ index) >>> 32).setWidth 32

/-! ## Fill and pad patterns (R101) -/

/-- The code of a 16-bit fill pattern in an element format; none where it is not exactly representable. -/
def fillCode (e sf pat : Nat) : Option Nat :=
  if isFloat e then
    if sf ≠ 0 then (if pat % 2 ^ 15 = 0 then some (withSign (fmtOf e) (pat != 0) 0) else none)
    else if e = 1 then some pat
    else if e = 0 then some (pat * 65536)
    else
      let f := fmtOf e
      match floatVal 1 pat with
      | .nan => if e = 5 then none else some f.canon
      | .inf s => if e = 3 ∨ e = 5 then none else some (withSign f s (f.maxCode + 1))
      | .fin s n d =>
        let m := magCode rne f s n d
        if m ≤ f.maxCode && (floatVal e m).eqv (.fin false n d) then some (withSign f s m) else none
  else
    let i := signed 16 pat
    if sf ≠ 0 then (if pat = 0 then some 0 else none)
    else
      let w := elemBits e
      if -(2 ^ (w - 1) : Int) ≤ i ∧ i < 2 ^ (w - 1) then some (i % 2 ^ w).toNat else none

end Sys2Proof.Machine
end

