-- ==== Sys2Proof/Machine/Frames.lean ====
section
/-! DEFINITION. Frames as bytes, the block code of the links, and the striping of blocks over λ (09 R235, R236, R241; 14 R346; log 15,
log 53). -/

namespace Sys2Proof.Machine

/-! ## CRC-32C and the bytes of a frame (R236, R241) -/

/-- One step of CRC-32C, reflected, on one bit. -/
def crcBit (c : Nat) : Nat := if c % 2 = 1 then (c / 2) ^^^ 0x82F63B78 else c / 2
def crcByte (c : Nat) (b : Byte) : Nat := (List.range 8).foldl (fun c _ => crcBit c) (c ^^^ b.toNat)
/-- CRC-32C (Castagnoli). -/
def crc32c (bs : List Byte) : W32 := BitVec.ofNat 32 ((bs.foldl crcByte 0xFFFFFFFF) ^^^ 0xFFFFFFFF)

def payloadLen : Payload → Nat
  | .raw b => b.length
  | .piece _ _ n => n

/-- The bytes of a payload; the encoding of a message is not given, so they are free (log 15). -/
def payloadBytes : Payload → List Byte
  | .raw b => b
  | .piece m off n => (List.range n).map fun i => Config.payloadByte m (off + i)

/-- Header bytes 0x00-0x1B. -/
def frameHeader (f : Frame) : List Byte :=
  toLe 1 f.kind ++ [f.version] ++ toLe 2 f.seq.toNat ++ toLe 2 f.ack.toNat ++ toLe 1 f.cls ++
  toLe 1 (b2n f.first + 2 * b2n f.last + 4 * b2n f.bound + 8 * (f.lset % 4)) ++ toLe 4 f.src.toNat ++ toLe 4 f.dst.toNat ++
  toLe 4 f.binding.toNat ++ toLe 1 f.srcCtx ++ [f.srcEpoch] ++ toLe 2 f.msgId.toNat ++ toLe 2 (payloadLen f.payload) ++ toLe 2 f.frameIdx.toNat

def frameCrc (f : Frame) : W32 := crc32c (frameHeader f ++ payloadBytes f.payload)

/-- A frame with its CRC. -/
def sealFrame (f : Frame) : Frame := { f with crc := frameCrc f }

/-- Whether a frame's CRC is right. -/
def frameCrcOk (f : Frame) : Bool := frameCrc f == f.crc

/-- A control frame's header bytes 0x00-0x1B: KIND 3, CLASS 4, LEN 32; its FLAGS and the fields of a message are 0 (log 53). -/
def ctrlHeader (c : Ctrl) : List Byte :=
  [3, c.version] ++ toLe 2 c.seq.toNat ++ toLe 2 c.ack.toNat ++ [4, 0] ++ toLe 4 c.src.toNat ++ toLe 4 c.dst.toNat ++ zeros 8 ++ toLe 2 32 ++ zeros 2

/-- A control frame's payload of 32 bytes (R241). -/
def ctrlPayload (c : Ctrl) : List Byte :=
  toLe 1 c.op ++ [0] ++ toLe 2 c.cack.toNat ++ toLe 4 c.arg0.toNat ++ toLe 8 c.arg1.toNat ++ toLe 8 c.arg2.toNat ++ toLe 8 c.arg3.toNat

def ctrlCrc (c : Ctrl) : W32 := crc32c (ctrlHeader c ++ ctrlPayload c)

/-- A control frame with its CRC. -/
def sealCtrl (c : Ctrl) : Ctrl := { c with crc := ctrlCrc c }

/-- Whether a data frame's header names a kind, a class and a length that the manual gives (R235, R236). -/
def frameShape (maxLen : Nat) (f : Frame) : Bool :=
  let n := payloadLen f.payload
  (f.kind == 1 || f.kind == 2) && decide (f.cls < 4) && decide (32 ≤ n) && decide (n ≤ maxLen) && n % 32 == 0 && (f.kind != 2 || (f.first && f.last))

/-! ## The block code (R235). The bits of a block: 0-17 its check bits, 18-24 the CRC, 25-280 the data, 281 the parity (log 53) -/

/-- The 7-bit CRC of 256 data bits, polynomial 0x09, initial value 0. -/
def crc7 (d : Nat) : Nat :=
  (List.range 256).foldl (fun c i => (2 * c) % 128 ^^^ (if c.testBit 6 != d.testBit (255 - i) then 0x09 else 0)) 0

/-- Twice an element of GF(2^9), by the primitive polynomial x^9 + x^4 + 1. -/
def gfTwice (a : Nat) : Nat := if a.testBit 8 then (2 * a) % 512 ^^^ 0x11 else 2 * a

/-- The powers of α from α^0 on. -/
def gfPowers : Nat → Nat → List Nat
  | 0, _ => []
  | n + 1, a => a :: gfPowers n (gfTwice a)

def gfTable : List Nat := gfPowers 511 1
def gfPow (i : Nat) : Nat := gfTable.getD (i % 511) 0

/-- The generator of the code of designed distance 5: the product of the minimal polynomials of α and α^3. -/
def blockGenerator : Nat :=
  let m1 := 0x211
  let m3 := 0x259
  (List.range 10).foldl (fun g i => if m1.testBit i then g ^^^ (m3 <<< i) else g) 0

/-- The 18 check bits over the CRC and data bits. -/
def blockCheck (m : Nat) : Nat :=
  (List.range 263).foldl (fun r i => let r := 2 * r + b2n (m.testBit (262 - i)); if r.testBit 18 then r ^^^ blockGenerator else r) 0 |> fun r =>
    (List.range 18).foldl (fun r _ => let r := 2 * r; if r.testBit 18 then r ^^^ blockGenerator else r) r

/-- The number of ones of a number below 2^281. -/
def ones (x : Nat) : Nat := ((List.range 281).filter fun i => x.testBit i).length

/-- The 282-bit block of a word; a poison block carries the complement of the CRC (R346). -/
def blockOf (poison : Bool) (d : Nat) : Nat :=
  let m := d * 128 + (if poison then 127 - crc7 d else crc7 d)
  let c := m * 2 ^ 18 + blockCheck m
  c + 2 ^ 281 * (ones c % 2)

/-- What the receiver's decoder makes of a block. -/
inductive BlockRead where
  | failed                                        -- it cannot be decoded
  | read (fixed turned wrong : Bool)              -- errors were corrected; poison and valid were exchanged; its data are wrong
  deriving DecidableEq, Repr

/-- The error pattern of at most two bits with the syndromes of a pattern: powers, cubes of powers, and parity. -/
def blockGuess (s1 s3 : Nat) (odd : Bool) : Option (List Nat) :=
  let one := (List.range 281).find? fun i => gfPow i == s1 && gfPow (3 * i) == s3
  if s1 = 0 ∧ s3 = 0 then some (if odd then [281] else [])
  else match one with
  | some i => some (if odd then [i] else [i, 281])
  | none =>
    if odd then none
    else ((List.range 281).findSome? fun i =>
      match gfTable.idxOf? (s1 ^^^ gfPow i) with
      | some j => if i < j ∧ j < 281 ∧ gfPow (3 * i) ^^^ gfPow (3 * j) = s3 then some [i, j] else none
      | none => none)

/-- Decode a block that arrived with errors in the given bits. The code and its CRC are linear, so only the errors matter. -/
def readBlock (errs : List Nat) : BlockRead :=
  let es := errs.eraseDups.filter fun i => decide (i < 282)
  let code := es.filter fun i => decide (i < 281)
  let s1 := code.foldl (fun s i => s ^^^ gfPow i) 0
  let s3 := code.foldl (fun s i => s ^^^ gfPow (3 * i)) 0
  match blockGuess s1 s3 (es.length % 2 == 1) with
  | none => .failed
  | some l =>
    let left := (es.filter fun i => !l.contains i) ++ l.filter fun i => !es.contains i
    let x := left.foldl (fun x i => x ^^^ 2 ^ i) 0
    let d := x / 2 ^ 25 % 2 ^ 256
    let c := x / 2 ^ 18 % 128
    if c = crc7 d then .read (!l.isEmpty) false (d != 0)
    else if c = 127 - crc7 d then .read (!l.isEmpty) true (d != 0)
    else .failed

/-! ## Striping (R235, R254) -/

/-- The λ that carries a block of a frame: the header, block 0, the control λ, and the payload's words in order the other λ in ascending
order and then all of them in turn (DEDUCED; log 53). -/
def stripeLambda (set : List Nat) (ctrl j : Nat) : Nat :=
  let rest := set.filter (· != ctrl)
  if j = 0 then ctrl
  else if j - 1 < rest.length then rest.getD (j - 1) 0
  else set.getD ((j - 1 - rest.length) % set.length) 0

end Sys2Proof.Machine
end

