-- ==== Sys2Proof/Machine/Memory.lean ====
section
/-! DEFINITION. Device addresses, translation, remote caches, poison, and a command's access to memory
(01 R34-R37; 08 R206-R215, R224, R225; 14 R346-R348, R352). -/

namespace Sys2Proof.Machine

/-! ## Status codes (R64) -/

def stOk : Nat := 0x00
def stOkCounted : Nat := 0x01
def stPartial : Nat := 0x02
def stSkipped : Nat := 0x03
def stBadOpcode : Nat := 0x08
def stBadReserved : Nat := 0x09
def stBadVersion : Nat := 0x0A
def stBadDescriptor : Nat := 0x0B
def stStateConflict : Nat := 0x0C
def stOverlap : Nat := 0x0D
def stTranslation : Nat := 0x0E
def stPoison : Nat := 0x10
def stTimeout : Nat := 0x11
def stPeerGone : Nat := 0x12
def stContextGone : Nat := 0x13
def stLate : Nat := 0x14
def stQuorumFail : Nat := 0x15
def stFenced : Nat := 0x16
def stAborted : Nat := 0x1F

/-! ## Homes (R35, R214, R215) -/

def gib : Nat := 2 ^ 30
def mib : Nat := 2 ^ 20

/-- The stack of an interleaved module byte address (R214). -/
def interleave (a : Nat) : Nat :=
  (bits a 15 12) ^^^ (bits a 19 16) ^^^ (bits a 23 20) ^^^ (bits a 27 24) ^^^ (bits a 31 28) ^^^ (bits a 35 32) ^^^ (bits a 39 36)

/-- The stack of a module byte address under LOCAL_GIB = `l` (R215). -/
def stackOf (l a : Nat) : Nat :=
  let b := 16 * (64 - l) * gib
  if a < b then interleave a else (a - b) / (l * gib)

/-- The offset in its stack of a module byte address (R214, R215). -/
def stackOffset (l a : Nat) : Nat :=
  let b := 16 * (64 - l) * gib
  if a < b then a / 65536 * 4096 + a % 4096
  else (64 - l) * gib + (a - b - (a - b) / (l * gib) * (l * gib))

/-- SPACE of a key DA[51:0]. -/
def keySpace (k : Nat) : Nat := bits k 51 50

/-- The home die of a key (R35, R214). -/
def Hw.homeDie (h : Hw) (k : Nat) : Nat :=
  if keySpace k = 0 then stackOf h.lim.localGib (bits k 39 0) else bits k 49 46

/-- The key of a scratchpad (tile 0-15) or staging (16) byte. -/
def sramKey (die tile off : Nat) : Nat := 2 ^ 50 + die * 2 ^ 46 + tile * 2 ^ 41 + off

/-- Whether a DA passes the checks of R36. -/
def Hw.daOk (h : Hw) (da : Nat) : Bool :=
  let sp := bits da 51 50
  let slot := bits da 56 52
  let okSpace :=
    if sp = 0 then bits da 49 40 == 0
    else if sp = 1 then
      bits da 40 25 == 0 && decide (bits da 45 41 ≤ 16) &&
      decide (bits da 24 0 < (if bits da 45 41 = 16 then 0x2000000 else 0x1400000))
    else false
  decide (da < 2 ^ 57) && okSpace && decide (slot < 8) && h.lim.present.testBit slot

/-! ## Translation (R224, R225, R79) -/

/-- Where a context virtual address leads. -/
inductive Place where
  | own (key : Nat) (nc : Bool)
  | host (port addr : Nat)
  | remote (slot : Nat) (da : Nat) (nc : Bool)
  deriving DecidableEq, Repr

/-- TRANSLATION and its DETAIL (R64). -/
def badXlat (cva : Nat) : Nat × Nat := (stTranslation, cva / 2 ^ 21 % 2 ^ 32)

/-- A table must lie in HBM of the module's own slot, aligned to 4 KiB (R224). -/
def Hw.tableOk (h : Hw) (da : Nat) : Bool :=
  h.daOk da && bits da 51 50 == 0 && bits da 56 52 == h.lim.slot && da % 4096 == 0

/-- One entry of a table: none where the table cannot be read, and the poison state of its group. -/
def Hw.entry (h : Hw) (table i : Nat) : Option (Nat × Bool) :=
  if h.tableOk table then
    let k := table % 2 ^ 52 + 8 * i
    some (leNat (h.memRead k 8), h.poisonedAt k 8)
  else none

/-- The reserved bits of an entry that must be zero (R224). -/
def entryReserved (e : Nat) : Bool := bits e 11 5 != 0 || bits e 63 57 != 0
def entryAddr (e : Nat) : Nat := bits e 56 12 * 4096

/-- The walk of R224: the leaf entry and whether it maps 1 GiB, or the failing status. -/
def Hw.walk (h : Hw) (root cva bad : Nat) : Except (Nat × Nat) (Nat × Bool) :=
  match h.entry root (bits cva 47 39) with
  | none => .error (badXlat bad)
  | some (e2, p2) =>
    if p2 then .error (stPoison, 0)
    else if !e2.testBit 0 || entryReserved e2 || e2.testBit 1 || e2.testBit 4 then .error (badXlat bad)
    else match h.entry (entryAddr e2) (bits cva 38 30) with
    | none => .error (badXlat bad)
    | some (e1, p1) =>
      if p1 then .error (stPoison, 0)
      else if !e1.testBit 0 || entryReserved e1 then .error (badXlat bad)
      else if e1.testBit 1 then
        if bits e1 29 12 != 0 then .error (badXlat bad) else .ok (e1, true)
      else if e1.testBit 4 then .error (badXlat bad)
      else match h.entry (entryAddr e1) (bits cva 29 21) with
      | none => .error (badXlat bad)
      | some (e0, p0) =>
        if p0 then .error (stPoison, 0)
        else if !e0.testBit 0 || entryReserved e0 || !e0.testBit 1 || bits e0 20 12 != 0 then .error (badXlat bad)
        else .ok (e0, false)

/-- Whether a key of the module's own scratchpads lies in the range of the context whose tables translate (R206). -/
def Hw.spOk (h : Hw) (n k : Nat) : Bool :=
  let c := h.ctx n
  keySpace k != 1 || bits k 45 41 == 16 ||
  (decide (c.spBase * 65536 ≤ bits k 24 0) && decide (bits k 24 0 < (c.spBase + c.plan.spReserve) * 65536))

/-- Whether a DA of the module's own slot lies in a non-FREE context's retention pool or in the capture area, which no
translation reaches (R307, R367). -/
def Hw.hidden (h : Hw) (k : Nat) : Bool :=
  keySpace k == 0 &&
  ((h.ctxs.any fun c => c.state != .free && decide (c.poolBase ≤ k) && decide (k < c.poolBase + c.poolBytes)) ||
   (h.ks2.capValid && decide (h.ks2.capAddr * 2 ^ 21 ≤ k) && decide (k < h.ks2.capAddr * 2 ^ 21 + 80 * mib)))

/-- What a leaf entry maps an address to, with the checks R225 makes at every access. -/
def Hw.leaf (h : Hw) (n e : Nat) (giant : Bool) (cva bad : Nat) (wr : Bool) : Except (Nat × Nat) Place :=
  if wr && !e.testBit 2 then .error (badXlat bad)
  else
    let a := entryAddr e + cva % (if giant then gib else 2 ^ 21)
    if e.testBit 4 then .ok (.host (h.ctx n).owner a)
    else if !h.daOk a then .error (badXlat bad)
    else if bits a 56 52 = h.lim.slot then
      if h.spOk n (a % 2 ^ 52) && !h.hidden (a % 2 ^ 52) then .ok (.own (a % 2 ^ 52) (e.testBit 3)) else .error (badXlat bad)
    else .ok (.remote (bits a 56 52) a (e.testBit 3))

/-- The import of a context that holds an address (R79). -/
def Plan.importAt (p : Plan) (cva : Nat) : Option Import :=
  p.imports.find? fun i => !i.sync && decide (i.localBase ≤ cva) && decide (cva < i.localBase + i.length)

/-- The cached translation of a page (R225). -/
def Die.xlatOf (d : Die) (n : Nat) (ep : Byte) (cva : Nat) : Option XEntry :=
  d.xlat.find? fun x => x.ctx == n && x.epoch == ep &&
    (if x.giant then x.page / 512 == cva / gib else x.page == cva / 2 ^ 21)

/-- Translate a context virtual address for a die: the place, and the translation to cache where a walk made it. -/
def Hw.translate (h : Hw) (die n cva : Nat) (wr : Bool) : Except (Nat × Nat) (Place × Option XEntry) :=
  if cva ≥ 2 ^ 48 then .error (badXlat cva)
  else
    let imp := (h.ctx n).plan.importAt cva
    match imp with
    | some i =>
      if i.revoked then .error (stContextGone, coordNat h.self)
      else if wr && !i.writable then .error (badXlat cva)
      else go i.exporter (i.base + (cva - i.localBase)) cva
    | none => go n cva cva
where
  go (m a bad : Nat) : Except (Nat × Nat) (Place × Option XEntry) :=
    if a ≥ 2 ^ 48 then .error (badXlat bad)
    else
      let c := h.ctx m
      match (h.die die).xlatOf m c.epoch a with
      | some x => (h.leaf m x.entry.toNat x.giant a bad wr).map fun p => (p, none)
      | none =>
        match h.walk c.plan.ptRoot.toNat a bad with
        | .error e => .error e
        | .ok (e, g) =>
          (h.leaf m e g a bad wr).map fun p =>
            (p, some { ctx := m, epoch := c.epoch, page := a / 2 ^ 21, entry := BitVec.ofNat 64 e, giant := g })

/-! ## Uncorrectable errors found by reads (R207, R208, R346, R352) -/

/-- Write UE_FOUND, at most 256 a second on a die, or count it as suppressed (R352). -/
def Hw.ueFound (h : Hw) (die place tile : Nat) (da : Nat) : Hw :=
  let recent := (h.dieAux die).ueTimes.filter fun t => decide (h.now < t + second)
  if recent.length < 256 then
    (h.setAux die fun a => { a with ueTimes := h.now :: recent }).evMod 0x0501 (srcDie die)
      (die + 16 * place + 256 * tile) da
  else
    (h.setAux die fun a => { a with ueTimes := recent, ueHeld := a.ueHeld + 1 }).setDie die
      fun d => { d with ueSuppressed := satAdd d.ueSuppressed 1 }

/-- Add an SRAM row to the list in flash (R208). SRAM_ROW_RECORDED is written at each error of the row, also when the list holds it already,
which R208 leaves open (DESIGN CHOICE; log 35). -/
def Hw.recordRow (h : Hw) (die place row : Nat) : Hw :=
  let h := if h.flash.rows.contains (die, place, row) then h
           else h.flashWrite recHealth fun f => { f with rows := f.rows ++ [(die, place, row)] }
  h.evMod 0x0203 (srcDie die) (die + 16 * place + 65536 * row) 0

/-- A read of a 32-byte group of HBM or addressed SRAM finds an uncorrectable error. -/
def Hw.foundUe (h : Hw) (g : Nat) : Hw :=
  let k := 32 * g
  let die := h.homeDie k
  let da := h.lim.slot * 2 ^ 52 + k
  let h := { h with poison := setIns h.poison g }
  if keySpace k = 0 then
    (h.setDie die fun d => { d with hbm := { d.hbm with ue := satAdd d.hbm.ue 1 } }).ueFound die 3 0 da
  else
    let t := bits k 45 41
    ((h.setDie die fun d => { d with sramUe := satAdd d.sramUe 1 }).ueFound die (if t = 16 then 1 else 0) (t % 16) da
      ).recordRow die t (Config.sramRow k % 65536)

/-- A read of a group of HBM or addressed SRAM corrects a single-bit error (R207, R212). -/
def Hw.foundCe (h : Hw) (g : Nat) : Hw :=
  let die := h.homeDie (32 * g)
  if keySpace (32 * g) = 0 then (h.setDie die fun d => { d with hbm := { d.hbm with ce := satAdd d.hbm.ce 1 } }).noteCe die 3 1
  else (h.setDie die fun d => { d with sramCe := satAdd d.sramCe 1 }).noteCe die (if bits (32 * g) 45 41 = 16 then 1 else 0) 1

/-- The errors that a read of groups finds among those the environment names (R347; log 12): an error in a group that nothing reads stays
unfound. -/
def Hw.readErrors (h : Hw) (e : Env) (gs : List Nat) : Hw :=
  if e.ue.isEmpty && e.ce.isEmpty then h
  else
    let h := (gs.filter fun g => e.ue.contains g && !h.poison.contains g).foldl Hw.foundUe h
    (gs.filter e.ce.contains).foldl Hw.foundCe h

/-- A read of a cached line finds an uncorrectable error in a word of one of its groups, by the number of its DA: the group is marked, counted
and told, and the row is recorded (R207, R208). -/
def Hw.lineUe (h : Hw) (die row g : Nat) : Hw :=
  let h := h.setDie die fun d =>
    { d with
      sramUe := satAdd d.sramUe 1
      rcLines := d.rcLines.map fun l => if l.line = g / 4 ∧ l.poison.contains g = false then { l with poison := l.poison ++ [g] } else l }
  (h.ueFound die 2 0 (32 * g)).recordRow die 17 row

/-- The errors that a read of groups of cached lines, numbered by DA, finds among those the environment names. -/
def Hw.lineErrors (h : Hw) (die : Nat) (e : Env) (gs : List Nat) : Hw :=
  if e.lineUe.isEmpty && e.lineCe.isEmpty then h
  else
    let ues := gs.filter fun g => e.lineUe.contains g && (h.die die).rcLines.any fun l => l.line == g / 4 && !l.poison.contains g
    let h := ues.foldl (fun h g => h.lineUe die (Config.cacheRow (g / 4) % 65536) g) h
    let n := (gs.filter e.lineCe.contains).length
    (h.setDie die fun d => { d with sramCe := satAdd d.sramCe n }).noteCe die 2 n

/-- The errors that writes find: a group written in part is read and merged, and one written whole is not read (R207, R347). -/
def Hw.writeErrors (h : Hw) (e : Env) (w : Writes) : Hw :=
  if e.ue.isEmpty && e.ce.isEmpty then h else h.readErrors e (w.groups.filter fun g => !w.whole g)

/-- The groups of the page tables' entries that the walk of an address reads, as far as it comes (R224). -/
def Hw.walkGroups (h : Hw) (root cva : Nat) : List Nat :=
  let at_ (t i : Nat) : List Nat := if h.tableOk t then [(t % 2 ^ 52 + 8 * i) / 32] else []
  let next (t i : Nat) : Option Nat :=
    match h.entry t i with
    | some (e, _) => if e.testBit 0 && !e.testBit 1 then some (entryAddr e) else none
    | none => none
  let g2 := at_ root (bits cva 47 39)
  match next root (bits cva 47 39) with
  | none => g2
  | some t1 =>
    let g1 := g2 ++ at_ t1 (bits cva 38 30)
    match next t1 (bits cva 38 30) with
    | none => g1
    | some t0 => g1 ++ at_ t0 (bits cva 29 21)

/-! ## A command's access to memory -/

/-- A running command's view of memory and what it has gathered. -/
structure Run where
  h : Hw
  env : Env := {}
  die : Nat := 16
  ctx : Nat := 0
  look : Bool := false
  alloc : Bool := false
  fail : Option (Nat × Nat) := none
  waits : Bool := false
  w : Writes := {}
  hostW : List (Nat × Nat × List Byte × Bool) := []
  remoteW : List (Nat × Nat × List Byte × Bool) := []
  remoteR : List (Nat × Nat × Nat) := []
  peerW : List (Coord × Nat × Nat × List Byte × Bool) := []
  peerR : List (Coord × Nat × Nat × Nat) := []
  pages : List XEntry := []
  lines : List Nat := []
  sat : Nat := 0
  range : Nat := 0
  nan : Nat := 0
  poisonIn : List (Nat × Nat) := []   -- poisoned groups read: place and number
  counted : List (Nat × Nat) := []    -- poisoned groups already in place: those of earlier writes of this run
  seen : List (Nat × Nat) := []       -- those of the command's earlier runs
  forced : Bool := false
  spoilt : Bool := false
  ring : Nat := 128          -- the work ring and start number of the command that reads and writes
  order : Nat := 0
  entry : Nat := 0           -- 1 + the entry of a WAIT_PREFETCH that it advances
  supply : Bool := false     -- it draws operands, which a gather engine of the die delivers (R127, R221)
  paged : Bool := false      -- they are paged: a gather engine delivers them wherever they lie (R127, R140)
  far : Bool := false        -- it waits for a link toward another module
  cls : HbmClass := .bulk    -- the class of its requests to the HBM controllers (R216)
  deriving DecidableEq, Repr

/-- Start a command's access, with what became visible and the errors its reads find. -/
def Run.start (h : Hw) (die ctx : Nat) (look alloc : Bool) (e : Env) : Run :=
  { h := h.applyEnv e, env := e, die := die, ctx := ctx, look := look, alloc := alloc }

def Run.ok (r : Run) : Bool := r.fail.isNone && !r.waits

/-- Whether a line is that of a context and a number. -/
def RcLine.is (x : RcLine) (tag : Nat × Byte) (l : Nat) : Bool := x.ctx == tag.1 && x.epoch == tag.2 && x.line == l

/-- A context's cached line of a DA. -/
def Die.line (d : Die) (tag : Nat × Byte) (da : Nat) : Option RcLine := d.rcLines.find? fun x => x.is tag (da / 128)

/-- The tag of a run's lines: its context and epoch (R340). -/
def Run.tag (r : Run) : Nat × Byte := (r.ctx, (r.h.ctx r.ctx).epoch)

/-- The full DA of an own key, which names lines of the remote caches. -/
def Hw.ownDa (h : Hw) (k : Nat) : Nat := h.lim.slot * 2 ^ 52 + k

/-- Whether a die keeps copies of an own key (R209). -/
def Run.cached (r : Run) (k : Nat) (nc : Bool) : Bool := r.look && !nc && r.h.homeDie k != r.die

/-- A byte through the remote cache. -/
def lineByte (d : Die) (tag : Nat × Byte) (da : Nat) (home : Byte) : Byte :=
  match d.line tag da with
  | some l => l.bytes.getD (da % 128) 0
  | none => home

/-- Whether a group of a cached line reads as poisoned: it is marked, or its row of the cache keeps poisoning (R208). -/
def Hw.linePoisoned (h : Hw) (die : Nat) (x : RcLine) (g : Nat) : Bool :=
  x.poison.contains g || (!h.flash.rows.isEmpty && h.weakRow die 17 (Config.cacheRow x.line % 65536))

/-- Bytes of other modules' memories, as the environment gives them (log 12). -/
def remoteByte (e : Env) (peer a : Nat) : Byte :=
  match e.remote.find? fun x => x.1 == peer && x.2.1 == a with
  | some x => x.2.2
  | none => 0

/-- The coordinates of a board slot (R275, R283). -/
def Hw.slotCoord (h : Hw) (slot : Nat) : Option Coord := (h.topology.board.getD slot none)

/-- The key under which the environment gives a board slot's memory. -/
def Hw.slotKey (h : Hw) (slot : Nat) : Nat := match h.slotCoord slot with | some c => coordNat c | none => 0

/-- Note how traffic toward a board slot ends, if it does not go (R37, R283, R377). -/
def Run.toSlot (r : Run) (slot : Nat) : Run :=
  match r.h.slotCoord slot with
  | none => { r with fail := some (stPeerGone, 0) }
  | some c =>
    match r.h.reach true c with
    | .gone => { r with fail := some (stPeerGone, coordNat c) }
    | .fenced => { r with fail := some (stFenced, coordNat c) }
    | .waits => if r.forced then r else { r with waits := true, far := true }
    | _ => r

/-- Whether the stacks are training: every HBM access waits (R213). -/
def Hw.training (h : Hw) : Bool := h.dies.any fun (d : Die) => d.hbm.training

/-- A pin mask; 0 is read as all (R354). -/
def pinMask (x full : Nat) : Nat := if x = 0 then full else x

/-- The lowest free engine of a kind on a die: not held, not retired, pinned in, and with its clock running (R111, R354, R364, R407). -/
def Hw.freeEngine (h : Hw) (copy : Bool) (die : Nat) : Option EngineId :=
  let d := h.die die
  let held (k : Nat) := (h.dieAux die).holders.any (·.1 == k) || d.retiredEngines.testBit k || h.stands die [.fabric die]
  if copy then ((List.range 2).find? fun n => !held n && (pinMask d.copyPin 3).testBit n).map fun n => .copy die n
  else ((List.range 4).find? fun n => !held (2 + n) && (pinMask d.gatherPin 15).testBit n).map fun n => .gather die n

/-- Whether a delivery of operands from a place waits for a gather engine: the executing die's own SRAM is read directly (R127, R221).
An engine turns from stream to stream, so no tile holds one between its steps. -/
def Run.unsupplied (r : Run) (p : Place) : Bool :=
  let direct := match p with
    | .own k _ => keySpace k != 0 && r.h.homeDie k == r.die
    | _ => false
  r.supply && (r.paged || !direct) && (r.h.freeEngine false r.die).isNone

/-- The errors that a run's reads of groups find, each once (R207, R347). -/
def Run.meets (r : Run) (gs : List Nat) : Run :=
  if r.env.ue.isEmpty && r.env.ce.isEmpty then r
  else { r with h := r.h.readErrors r.env gs, env := { r.env with ce := r.env.ce.filter fun g => !gs.contains g } }

/-- The errors that a run's reads of cached lines find, each once. -/
def Run.meetsLines (r : Run) (gs : List Nat) : Run :=
  if r.env.lineUe.isEmpty && r.env.lineCe.isEmpty then r
  else { r with h := r.h.lineErrors r.die r.env gs, env := { r.env with lineCe := r.env.lineCe.filter fun g => !gs.contains g } }

/-- The groups of HBM that the walk of an address reads; none where its translation is cached. -/
def Run.walkOf (r : Run) (cva : Nat) : List Nat :=
  let i := (r.h.ctx r.ctx).plan.importAt cva
  let m := match i with | some i => i.exporter | none => r.ctx
  let a := match i with | some i => i.base + (cva - i.localBase) | none => cva
  let c := r.h.ctx m
  if ((r.h.die r.die).xlatOf m c.epoch a).isSome then [] else r.h.walkGroups c.plan.ptRoot.toNat a

/-- The errors that the walk of an address finds. -/
def Run.meetsWalk (r : Run) (cva : Nat) : Run :=
  if r.env.ue.isEmpty && r.env.ce.isEmpty then r else r.meets (r.walkOf cva)

/-- The slots that a class holds. -/
def Hbm.held (b : Hbm) (c : HbmClass) : Nat := (b.slots.filter fun (s : HbmSlot) => s.cls == c).length

/-- Whether the slots of a controller that a class may use are full (R216). -/
def Hbm.classFull (b : Hbm) (c : HbmClass) : Bool :=
  let crit := b.held .crit
  let shared := b.held .bulk + b.held .prefetch + (crit - 64)
  match c with
  | .crit => decide (64 ≤ crit) && decide (448 ≤ shared)
  | .bulk => decide (448 ≤ shared)
  | .prefetch => decide (448 ≤ shared) || decide (128 ≤ b.held .prefetch)

/-- Whether requests of a class to a stack wait: it trains, or no slot is free (R213, R216). -/
def Hw.hbmBusy (h : Hw) (c : HbmClass) (k : Nat) : Bool :=
  keySpace k == 0 && (h.training || (let b := (h.die (h.homeDie k)).hbm; !b.slots.isEmpty && b.classFull c))

/-- Whether what a message writes at its arrival waits: the stacks train, or a controller has no slot for class BULK (R213, R216). -/
def Hw.writesWait (h : Hw) : Bool := h.training || h.dies.any fun (d : Die) => !d.hbm.slots.isEmpty && d.hbm.classFull .bulk

/-- Whether a walk waits for a slot of class CRIT, or for training (R213, R216). -/
def Run.walkBusy (r : Run) (cva : Nat) : Bool :=
  (r.h.training || r.h.dies.any fun (d : Die) => !d.hbm.slots.isEmpty && d.hbm.classFull .crit) &&
  (r.walkOf cva).any fun g => r.h.hbmBusy .crit (32 * g)

/-- Translate for a run: the place, with the walk's errors and its translation noted; none where the access waits or fails. A walk reads
HBM, and its requests are of class CRIT. -/
def Run.locate (r : Run) (cva : Nat) (wr : Bool) : Option Place × Run :=
  if r.walkBusy cva then (none, { r with waits := true }) else
  let r := r.meetsWalk cva
  match r.h.translate r.die r.ctx cva wr with
  | .error e => (none, { r with fail := some e })
  | .ok (p, x) =>
    let busy := (match p with | .own k _ => r.h.hbmBusy (if wr then .bulk else r.cls) k | _ => false)
    if busy then (none, { r with waits := true })
    else (some p, { r with pages := match x with | some e => e :: r.pages | none => r.pages })

/-- Where poisoned groups are counted: module memory, a host's, a board slot's, or a peer context's (log 54). -/
def placeHost (p : Nat) : Nat := 1 + p
def placeSlot (s : Nat) : Nat := 8 + s
def placePeer (c : Coord) : Nat := 2 ^ 20 + coordNat c

/-- Note poisoned groups that a run reads. -/
def Run.readPoison (r : Run) (place : Nat) (gs : List Nat) : Run :=
  if gs.isEmpty then r else { r with poisonIn := gs.map (fun g => (place, g)) ++ r.poisonIn }

/-- Read bytes that lie within one page, with the numbers of their poisoned 32-byte groups, counted from the first. -/
def Run.readIn (r : Run) (cva n : Nat) : (List Byte × List Nat) × Run :=
  if !r.ok then ((zeros n, []), r)
  else match r.locate cva false with
  | (none, r) => ((zeros n, []), r)
  | (some p, r) =>
    if r.unsupplied p then ((zeros n, []), { r with waits := true })
    else match p with
    | .own k nc =>
      if r.cached k nc then
        let tag := r.tag
        let d := r.h.die r.die
        let da := r.h.ownDa k
        let all := (List.range ((da + n - 1) / 128 - da / 128 + 1)).map (da / 128 + ·)
        let miss := all.filter fun l => (d.line tag (128 * l)).isNone
        let r := r.meets (if r.alloc then miss.flatMap fun l => groupsOf (128 * l % 2 ^ 52) 128 else (groupsOf k n).filter fun g => miss.contains ((r.h.ownDa (32 * g)) / 128))
        let r := r.meetsLines ((groupsOf da n).filter fun g => !miss.contains (g / 4))
        let d := r.h.die r.die
        let bs := (r.h.memRead k n).zipIdx.map fun b => lineByte d tag (da + b.2) b.1
        let po := (groupsOf da n).filter fun g =>
          match d.line tag (32 * g) with
          | some l => r.h.linePoisoned r.die l g
          | none => r.h.poisonedGroup (g % 2 ^ 47)
        ((bs, po.map (· - da / 32)),
         { r with lines := r.lines ++ all.filter fun l => !r.lines.contains l }.readPoison 0 (po.map (· % 2 ^ 47)))
      else
        let r := r.meets (groupsOf k n)
        let po := (groupsOf k n).filter r.h.poisonedGroup
        ((r.h.memRead k n, po.map (· - k / 32)), r.readPoison 0 po)
    | .host port a =>
      if r.env.hostFail || (r.h.host port).barred a n then ((zeros n, []), { r with fail := some (badXlat cva) })
      else if !(r.h.host port).up then ((zeros n, []), { r with waits := true })
      else if r.env.hostPoison then
        let h := ((r.h.setHost port fun q => { q with poisonRx := satAdd q.poisonRx 1 }).evMod 0x0504 (srcBridge port) 0 a).reportAer port aerPoison
        ((h.hostRead port a n, (groupsOf a n).map (· - a / 32)), { r with h := h }.readPoison (placeHost port) (groupsOf a n))
      else ((r.h.hostRead port a n, []), r)
    | .remote slot da nc =>
      let d := r.h.die r.die
      let look := r.look && !nc
      let all := (List.range ((da + n - 1) / 128 - da / 128 + 1)).map (da / 128 + ·)
      let gone := r.toSlot slot
      let tag := r.tag
      let r := if look && all.all fun l => (d.line tag (128 * l)).isSome then r
               else if gone.ok then { gone with remoteR := (slot, da, n) :: r.remoteR } else gone
      if !r.ok then ((zeros n, []), r)
      else
        let r := if look then r.meetsLines ((groupsOf da n).filter fun g => (d.line tag (32 * g)).isSome) else r
        let d := r.h.die r.die
        let key := r.h.slotKey slot
        let bs := (List.range n).map fun i =>
          let b := remoteByte r.env key (da + i)
          if look then lineByte d tag (da + i) b else b
        let po := (groupsOf da n).filter fun g =>
          match (if look then d.line tag (32 * g) else none) with
          | some l => r.h.linePoisoned r.die l g
          | none => r.env.remotePoison.contains (key, g)
        ((bs, po.map (· - da / 32)),
         { r with lines := if look then r.lines ++ all.filter (fun l => !r.lines.contains l) else r.lines }.readPoison (placeSlot slot) po)

/-- Read n bytes at a context virtual address, page by page. -/
def Run.readN : Nat → Run → Nat → Nat → (List Byte × List Nat) × Run
  | 0, r, _, n => ((zeros n, []), r)
  | f + 1, r, cva, n =>
    let m := 2 ^ 21 - cva % 2 ^ 21
    if n ≤ m then r.readIn cva n
    else
      let (a, r) := r.readIn cva m
      let (b, r) := Run.readN f r (cva + m) (n - m)
      ((a.1 ++ b.1, a.2 ++ b.2.map (· + ((cva + m) / 32 - cva / 32))), r)

/-- Read n bytes with the numbers of their poisoned 32-byte groups, counted from the first. -/
def Run.readGroups (r : Run) (cva n : Nat) : (List Byte × List Nat) × Run := Run.readN (n / 2 ^ 21 + 2) r cva n

/-- Read n bytes, and whether any of their groups is poisoned. -/
def Run.read (r : Run) (cva n : Nat) : (List Byte × Bool) × Run :=
  let x := r.readGroups cva n
  ((x.1.1, !x.1.2.isEmpty), x.2)

/-- Write bytes that lie within one page; with `po` their groups become poisoned. -/
def Run.write (r : Run) (cva : Nat) (bs : List Byte) (po : Bool) : Run :=
  if !r.ok || bs.isEmpty then r
  else match r.locate cva true with
  | (none, r) => r
  | (some p, r) =>
    match p with
    | .own k _ =>
      let w := r.w.add k bs
      { r with w := if po then { w with marks := (groupsOf k bs.length).foldl (fun m g => if m.contains (32 * g) then m else m ++ [32 * g]) w.marks } else w }
    | .host port a => { r with hostW := r.hostW ++ [(port, a, bs, po)] }
    | .remote slot da _ =>
      let r := r.toSlot slot
      if r.ok then { r with remoteW := r.remoteW ++ [(slot, da, bs, po)] } else r

/-- Whether a message is a reply to another module's memory access, which belongs to no context (R80). -/
def msgIsReply : Msg → Bool
  | .accessReply _ _ _ => true
  | _ => false

/-- Whether a message waits in the outbound queue of a context. -/
def OutMsg.ofCtx (o : OutMsg) (n : Nat) : Bool := o.srcCtx == n && !msgIsReply o.msg

/-- Write bytes whose poisoned 32-byte groups are numbered from the first. -/
def Run.writeGroups (r : Run) (a : Nat) (bs : List Byte) (po : List Nat) : Run :=
  if po.isEmpty && decide (a % 2 ^ 21 + bs.length ≤ 2 ^ 21) then r.write a bs false
  else (groupsOf a bs.length).zipIdx.foldl (fun r g =>
    let lo := max a (32 * g.1)
    r.write lo ((bs.drop (lo - a)).take (min (a + bs.length) (32 * g.1 + 32) - lo)) (po.contains g.2)) r

/-- Queue a message toward another module (R81, R283). -/
def Hw.post (h : Hw) (m : OutMsg) : Hw := { h with outMsgs := h.outMsgs ++ [m] }

/-- A fresh message number of a context (R236). -/
def Hw.msgId (h : Hw) (n : Nat) : W16 × Hw :=
  ((h.ctx n).nextMsg, h.setCtx n fun c => { c with nextMsg := c.nextMsg + 1 })

/-- The binding of a context to a peer module (R81). -/
def Hw.binding (h : Hw) (n : Nat) (peer : Coord) : Option Binding := h.binds.find? fun b => b.ctx == n && b.peer == peer

/-- Send a context message to the peer context with the same JOB_ID: bound where the cache holds a binding, whose entry becomes
the most recently used, and carrying the JOB_ID otherwise (R81). -/
def Hw.sendAs (h : Hw) (src : Coord) (n : Nat) (dst : Coord) (cls : Nat) (cmd : Option (Nat × W32)) (m : Msg) : Hw :=
  let x := h.msgId n
  let h := x.2
  let b := h.binding n dst
  let h := match b with | some b => { h with binds := h.binds.filter (· != b) ++ [b] } | none => h
  h.post { dst := dst, src := src, cls := cls, srcCtx := n, job := (h.ctx n).plan.jobId, msgId := x.1,
           bound := if h.redirect dst = h.self then some (n, (h.ctx n).epoch) else b.map fun b => (b.peerCtx, b.epoch)
           cmd := cmd, msg := m }

def Hw.sendCtx (h : Hw) (n : Nat) (dst : Coord) (cls : Nat) (cmd : Option (Nat × W32)) (m : Msg) : Hw :=
  h.sendAs h.self n dst cls cmd m

/-- What a line of the remote cache is filled with: the bytes at its home, and its poisoned groups. -/
def Hw.lineFill (h : Hw) (e : Env) (l : Nat) : List Byte × List Nat :=
  let slot := bits (128 * l) 56 52
  if slot = h.lim.slot then
    (h.memRead (128 * l % 2 ^ 52) 128, (groupsOf (128 * l) 128).filter fun g => h.poisonedGroup (g % 2 ^ 47))
  else
    let key := h.slotKey slot
    ((List.range 128).map fun i => remoteByte e key (128 * l + i), (groupsOf (128 * l) 128).filter fun g => e.remotePoison.contains (key, g))

/-- Lines of the remote caches after a command of a die read them (R209, R210; log 16): 16,384 sets of 16 lines. -/
def Hw.fillLine (h : Hw) (die : Nat) (tag : Nat × Byte) (alloc : Bool) (e : Env) (l : Nat) : Hw :=
  h.setDie die fun d =>
    match d.rcLines.find? fun x => x.is tag l with
    | some x => { d with rcHits := d.rcHits + 1, rcLines := x :: d.rcLines.filter (· != x) }
    | none =>
      let d := { d with rcMisses := d.rcMisses + 1 }
      if !alloc then d
      else
        let set := d.rcLines.filter fun x => x.line % 16384 == l % 16384
        let victim := if 16 ≤ set.length then set.getLast? else none
        let f := h.lineFill e l
        { d with rcLines := { ctx := tag.1, epoch := tag.2, line := l, bytes := f.1, poison := f.2 } :: d.rcLines.filter fun x => some x != victim }

/-- A write by a die updates the bytes of its present lines (R209): a group written whole takes the poison of the write, one written in
part keeps its own, and the line's other groups stand. -/
def Hw.touchLines (h : Hw) (die : Nat) (w : Writes) : Hw :=
  h.setDie die fun d =>
    { d with rcLines := d.rcLines.map fun l =>
        let mine := w.bytes.filter fun x => h.ownDa x.1 / 128 == l.line
        let marked (g : Nat) : Bool := w.marks.any fun k => k / 32 == g % 2 ^ 47
        if mine.isEmpty then l
        else
          { l with
            bytes := mine.foldl (fun bs x => bs.set (x.1 % 128) x.2) l.bytes
            poison := (groupsOf (128 * l.line) 128).filter fun g => marked g || (l.poison.contains g && !w.whole (g % 2 ^ 47)) } }

/-- The same for a write to another module of the board: a group written whole takes the poison of the write. -/
def Hw.touchRemote (h : Hw) (die : Nat) (x : Nat × Nat × List Byte × Bool) : Hw :=
  let da := x.2.1
  let bs := x.2.2.1
  h.setDie die fun d =>
    { d with rcLines := d.rcLines.map fun l =>
        let new := l.bytes.zipIdx.map fun b =>
          let a := 128 * l.line + b.2
          if da ≤ a ∧ a < da + bs.length then bs.getD (a - da) 0 else b.1
        let whole (g : Nat) : Bool := decide (da ≤ 32 * g) && decide (32 * g + 32 ≤ da + bs.length)
        let hit := (groupsOf da bs.length).filter fun g => g / 4 == l.line
        { l with bytes := new, poison := if x.2.2.2 then l.poison.filter (fun g => !hit.contains g) ++ hit else l.poison.filter fun g => !whole g } }

/-- The poisoned 32-byte groups that a run has written, each once (R349). -/
def Run.poisonNew (r : Run) : List (Nat × Nat) :=
  let of (place : Nat) (a n : Nat) : List (Nat × Nat) := (groupsOf a n).map fun g => (place, g)
  (r.counted ++ r.w.marks.map (fun k => (0, k / 32)) ++
   r.hostW.flatMap (fun (x : Nat × Nat × List Byte × Bool) => if x.2.2.2 then of (placeHost x.1) x.2.1 x.2.2.1.length else []) ++
   r.remoteW.flatMap (fun (x : Nat × Nat × List Byte × Bool) => if x.2.2.2 then of (placeSlot x.1) x.2.1 x.2.2.1.length else []) ++
   r.peerW.flatMap fun (x : Coord × Nat × Nat × List Byte × Bool) => if x.2.2.2.2 then of (placePeer x.1) x.2.2.1 x.2.2.2.1.length else []).eraseDups

/-- Those that its command has written, each once (R349). -/
def Run.poisonOut (r : Run) : List (Nat × Nat) := (r.seen ++ r.poisonNew).eraseDups

/-- Note an access of a run that awaits its acknowledgement (R59). -/
def Run.note (r : Run) (h : Hw) (home : Home) (addr : Nat) (write : Bool) : Hw :=
  { h with accesses := h.accesses ++ [{ home := home, addr := addr, write := write, ring := r.ring, order := r.order, ctx := r.ctx, entry := if write then 0 else r.entry }] }

/-- Write host memory for a run; a write that waits for its port is not yet visible (R59, R432). Each poisoned group is one write with the
poisoned-data indication (R351): how a write is cut into PCIe requests no rule says (DESIGN CHOICE; log 54). -/
def Run.toHost (r : Run) (h : Hw) (x : Nat × Nat × List Byte × Bool) : Hw :=
  let h := h.hostWrite x.1 x.2.1 x.2.2.1
  let h := if (h.host x.1).up then h else r.note h (.host x.1) x.2.1 true
  if x.2.2.2 then
    (groupsOf x.2.1 x.2.2.1.length).foldl (fun h g =>
      ((h.setHost x.1 fun q => { q with poisonTx := satAdd q.poisonTx 1 }).evMod 0x0504 (srcBridge x.1) 1 (max x.2.1 (32 * g))).emit
        (.poisonedWrite x.1 (max x.2.1 (32 * g)) (min (x.2.1 + x.2.2.1.length) (32 * g + 32) - max x.2.1 (32 * g)))) h
  else h

/-- The most data of a memory access between modules: with its 32 bytes of header it fits one frame of either link mode (R236, R257; log 15). -/
def accessMax : Nat := 960

/-- The cuts of n bytes into memory accesses of one frame each: offset and length; one where n is 0. -/
def accessCuts (n : Nat) : List (Nat × Nat) :=
  (List.range (max 1 ((n + accessMax - 1) / accessMax))).map fun i => (accessMax * i, min accessMax (n - accessMax * i))

/-- Send an access of a run to another module of the board. -/
def Run.toModule (r : Run) (h : Hw) (slot da : Nat) (write : Bool) (a : MemAccess) : Hw :=
  match h.slotCoord slot with
  | none => h
  | some c =>
    (r.note h (.module c) da write).post
      { dst := c, src := h.self, cls := 1, srcCtx := r.ctx, job := 0, msgId := 0, bound := none, msg := .access a }

/-- Send a transfer of a run to the context of a peer (R110). -/
def Run.toContext (r : Run) (h : Hw) (c : Coord) (die a : Nat) (write po : Bool) (bs : List Byte) (n : Nat) : Hw :=
  (r.note h (.context c) a write).sendCtx r.ctx c 1 none
    (.block { job := (h.ctx r.ctx).plan.jobId, peer := h.self, die := die, write := write, addr := BitVec.ofNat 64 a, bytes := bs
              count := n, poisoned := if po then List.range (groupsOf a bs.length).length else [], twinStep := none })

/-- A write of a run to another module, in accesses of one frame each (R236). -/
def Run.writeModule (r : Run) (h : Hw) (x : Nat × Nat × List Byte × Bool) : Hw :=
  (accessCuts x.2.2.1.length).foldl (fun h y =>
    let a := x.2.1 + y.1
    r.toModule h x.1 a true (.write (BitVec.ofNat 64 a) ((x.2.2.1.drop y.1).take y.2) (if x.2.2.2 then List.range (groupsOf a y.2).length else []))) h

/-- A read of a run at another module, in the same way. -/
def Run.readModule (r : Run) (h : Hw) (x : Nat × Nat × Nat) : Hw :=
  (accessCuts x.2.2).foldl (fun h y => r.toModule h x.1 (x.2.1 + y.1) false (.read (BitVec.ofNat 64 (x.2.1 + y.1)) y.2)) h

/-- Carry out what a run has written: module memory with its poison, host memory, other slots of the board; and keep the
translations and lines it used (R209, R225, R346, R351). What goes to other modules awaits its acknowledgement (R59). Beyond 4,096
translations a die drops those kept longest, of which R225 says nothing (DESIGN CHOICE; log 16). -/
def Run.finish (r : Run) : Hw :=
  let h := ((r.h.writeErrors r.env r.w).applyWrites r.w).touchLines r.die r.w
  let h := r.remoteW.foldl (fun h x => h.touchRemote r.die x) h
  let h := r.hostW.foldl r.toHost h
  let h := r.remoteW.foldl r.writeModule h
  let h := r.remoteR.reverse.foldl r.readModule h
  let h := r.peerR.foldl (fun h x => r.toContext h x.1 x.2.1 x.2.2.1 false false [] x.2.2.2) h
  let h := r.peerW.foldl (fun h x => r.toContext h x.1 x.2.1 x.2.2.1 true x.2.2.2.2 x.2.2.2.1 x.2.2.2.1.length) h
  let h := r.lines.foldl (fun h l => h.fillLine r.die r.tag r.alloc r.env l) h
  let fresh := r.pages.foldl (fun l x => if l.contains x then l else l ++ [x]) []
  let h := h.setDie r.die fun d => { d with xlat := (fresh ++ d.xlat.filter fun x => !fresh.contains x).take 4096 }
  h.setDie r.die fun d =>
    { d with poisonRd := satAdd d.poisonRd (r.poisonIn.eraseDups.length), poisonWr := satAdd d.poisonWr r.poisonNew.length }

end Sys2Proof.Machine
end

