-- ==== Sys2Proof/Machine/Control.lean ====
section
/-! DEFINITION. Sending control frames, and the answers that travel in them (09 R241, R242; log 19). -/

namespace Sys2Proof.Machine

/-- Whether a control operation is resent until it is acknowledged: all but HELLO, HELLO_ACK and ACK, which are sent anew as
R238 and R243 say (log 19). -/
def ctrlQueued (op : Nat) : Bool := !(op == 0x01 || op == 0x02 || op == 0x04)

/-- Whether a link's control λ carries frames. -/
def Link.carries (k : Link) : Bool := k.state == .training || k.state == .hello || k.state == .up || k.state == .paused

/-- Whether a port's transmitter is dark while its group moves to the spare (R266). -/
def Hw.txDark (h : Hw) (p : Nat) : Bool := match h.comb.switching with | some w => w.dark && w.group == p / 16 | none => false

/-- The VERSION of a link's frames (R236, R257). -/
def Link.version (k : Link) : Byte := if k.legacy then 0x81 else 0x01

/-- Send a control frame on a link: at most 8 are outstanding, and the rest wait (R241); none leaves a dark transmitter (R267). -/
def Hw.sendCtrlTo (h : Hw) (p l : Nat) (dst : W32) (op a0 a1 a2 a3 : Nat) : Hw :=
  let k := h.link p l
  let c : Ctrl := sealCtrl
    { version := k.version, op := op, src := h.self.setWidth 32, dst := dst, seq := k.ctrlSeq, cack := k.ctrlSeen.getD 0xFFFF, ack := k.expect - 1
      arg0 := BitVec.ofNat 32 a0, arg1 := BitVec.ofNat 64 a1, arg2 := BitVec.ofNat 64 a2, arg3 := BitVec.ofNat 64 a3 }
  let h := if ctrlQueued op then h.setLink p l fun k => { k with ctrlSeq := k.ctrlSeq + 1, ctrlOut := k.ctrlOut ++ [c] } else h
  if k.carries && !h.txDark p && (!ctrlQueued op || decide (k.ctrlOut.length < 8)) then h.emit (.ctrl p l c) else h

/-- The coordinates of a link's peer, as DST gives them. -/
def Link.peerWord (k : Link) : W32 := match k.peer with | some c => c.setWidth 32 | none => 0xFFFFFFFF

/-- Send a control frame to a link's peer. -/
def Hw.sendCtrl (h : Hw) (p l op a0 a1 a2 a3 : Nat) : Hw := h.sendCtrlTo p l (h.link p l).peerWord op a0 a1 a2 a3

/-- Send a control frame toward a module; it is dropped where no link goes there (R281). -/
def Hw.answer (h : Hw) (dst : Coord) (op a0 a1 a2 : Nat) : Hw :=
  match h.chooseLink 0 4 dst 0 with
  | some x => h.sendCtrlTo x.1 x.2 (dst.setWidth 32) op a0 a1 a2 0
  | none => h

/-- MSG_NACK (R242): reason 1 NOT_FOUND, 2 CONTEXT_GONE, 3 LATE, 4 FENCED. -/
def Hw.nack (h : Hw) (dst : Coord) (reason : Nat) (msgId : W16) (step : Nat) : Hw :=
  h.answer dst 0x10 (reason + 65536 * msgId.toNat) step (coordNat h.self)

end Sys2Proof.Machine
end

