-- ==== Sys2Proof/Machine/RingCore.lean ====
section
/-! DEFINITION. Commands as they complete, records, ring states and the context life cycle they drive
(02 R49-R51, R57-R64, R68-R70; 03 R74, R80, R91, R92). -/

namespace Sys2Proof.Machine

/-! ## Header fields (R48, R49); a JF1 command is kept as the JF2 descriptor of R53 -/

def Cmd.opcode (c : Cmd) : Nat := fld c.bytes 0 1
def Cmd.flags (c : Cmd) : Nat := fld c.bytes 2 2
def Cmd.tag (c : Cmd) : Nat := fld c.bytes 4 4
def Cmd.waitEn (c : Cmd) : Bool := c.flags.testBit 0
def Cmd.waitAcq (c : Cmd) : Bool := c.flags.testBit 1
def Cmd.sigEn (c : Cmd) : Bool := c.flags.testBit 2
def Cmd.sigRel (c : Cmd) : Bool := c.flags.testBit 3
def Cmd.sigSet (c : Cmd) : Bool := c.flags.testBit 4
def Cmd.sigAlways (c : Cmd) : Bool := c.flags.testBit 5
def Cmd.barrier (c : Cmd) : Bool := c.flags.testBit 6
def Cmd.cplMode (c : Cmd) : Nat := bits c.flags 8 7
def Cmd.threshold (c : Cmd) : Nat := fld c.bytes 0x08 8
def Cmd.sigValue (c : Cmd) : Nat := fld c.bytes 0x10 4
def Cmd.waitObj (c : Cmd) : Nat := bits (fld c.bytes 0x14 2) 12 0
def Cmd.sigObj (c : Cmd) : Nat := bits (fld c.bytes 0x16 2) 12 0
/-- A body field. -/
def Cmd.f (c : Cmd) (off n : Nat) : Nat := fld c.bytes off n

/-! ## Objects a context may name (R78, R79, R83) -/

/-- Whether an object lies in a context's own range. -/
def Plan.ownsObj (p : Plan) (n : Nat) : Bool := decide (p.syncBase ≤ n) && decide (n < p.syncBase + p.syncCount)

/-- The imported synchronisation window that holds an object; of several, the first of the IMPORTS section (DESIGN CHOICE; log 51). -/
def Plan.importObj (p : Plan) (n : Nat) : Option Import :=
  p.imports.find? fun i => i.sync && decide (i.base ≤ n) && decide (n < i.base + i.length)

/-! ## Completion records (R57, R59, R62, R63) -/

/-- The ring a work ring's records go to. -/
def WorkRing.recordRing (w : WorkRing) : Bool × Nat := if w.module then (true, w.port) else (false, w.cpl)

/-- A completion record without PHASE. In the record of a module ring, which has no context, EPOCH is 0 like CONTEXT (DESIGN CHOICE;
log 45). -/
def Hw.recordOf (h : Hw) (r : Nat) (c : Cmd) : List Byte :=
  let w := h.ring r
  toLe 4 c.tag ++ toLe 1 c.status ++ toLe 1 c.opcode ++ toLe 1 r ++ [0] ++ toLe 4 (min c.sat 0xFFFFFFFF) ++
  toLe 4 (min c.range 0xFFFFFFFF) ++ toLe 4 (min c.nan 0xFFFFFFFF) ++ toLe 4 c.detail ++ toLe 4 c.index.toNat ++
  (if w.module then [0, 0] else toLe 1 w.ctx ++ [(h.ctx w.ctx).epoch]) ++ [0, 0]

/-- Whether a command's accesses still await their acknowledgements (R51, R59). -/
def Hw.awaits (h : Hw) (order : Nat) : Bool := h.accesses.any fun (a : Access) => a.order == order && order != 0

/-- Write a command's record, or leave it waiting in its work ring, for room or for the command's writes (R59, R62). -/
def Hw.giveRecord (h : Hw) (r : Nat) (c : Cmd) : Hw :=
  let w := h.ring r
  if c.cplMode = 1 ∧ c.status = stOk then h
  else
    let rb := h.recordOf r c
    let o := w.recordRing
    if w.records.isEmpty && h.canRecord o.1 o.2 && !h.awaits c.order then h.putRecord o.1 o.2 rb
    else h.setRing r fun w => { w with records := w.records ++ [({ bytes := rb, order := c.order } : Rec)] }

/-! ## Releasing what a command holds -/

/-- Free the engines, strips, loads, sequence slots and collective slices that a command holds. -/
def Hw.release (h : Hw) (r : Nat) (i : W32) : Hw :=
  { h with
    seqs := h.seqs.map fun (q : SeqSlot) => { q with holds := q.holds.filter (· != (r, i)) }
    aux := h.aux.map fun (a : DieAux) => { a with holders := a.holders.filter fun x => x.2 != (r, i) }
    dies := h.dies.map fun (d : Die) => { d with slice := d.slice.filter (· != (r, i)) }
    tiles := h.tiles.map fun (t : Tile) =>
      { t with
        strip := t.strip.filter fun (s : Strip) => !(s.ring == r && s.index == i)
        banks := t.banks.filter fun (b : OutTile) => !(b.ring == r && b.index == i)
        unit := t.unit.filter fun (u : Nat × W32 × Nat) => !(u.1 == r && u.2.1 == i) }
    outMsgs := h.outMsgs.map fun (m : OutMsg) => if m.cmd == some (r, i) then ({ m with cmd := none } : OutMsg) else m }

/-! ## Completion (R51, R64, R69, R70) -/

/-- The statuses that R64 marks Halts. -/
def haltsOn (s : Nat) : Bool :=
  (decide (0x08 ≤ s) && decide (s ≤ 0x0E)) || (decide (0x10 ≤ s) && decide (s ≤ 0x13)) || s == 0x15 || s == 0x16

/-- The statuses after which the header signal is made without SIG_ALWAYS (R51). -/
def signalsOn (s : Nat) : Bool := s == stOk || s == stOkCounted || s == stPartial || s == stSkipped || s == stLate

/-- Whether a command was refused at steps 1 to 4, so that it never signals (R51). -/
def Cmd.refused (c : Cmd) : Bool := c.fail.isSome

/-- Put an operation on its way to its object's home (R84). -/
def Hw.sendSync (h : Hw) (o : SyncOp) : Hw := { h with syncFlight := h.syncFlight ++ [o] }

/-- The header signal of a completing command, unless it is already made, and the command with the status R51 leaves it. With SIG_REL it
reaches its object only after the command's writes are acknowledged. -/
def Hw.headerSignal (h : Hw) (r : Nat) (c : Cmd) : Cmd × Hw :=
  let w := h.ring r
  let plan := (h.ctx w.ctx).plan
  let op : SyncOp := { obj := c.sigObj, set := c.sigSet, value := BitVec.ofNat 64 c.sigValue, source := r, after := if c.sigRel then c.order else 0 }
  if w.module || !c.sigEn || c.refused || c.signalled || !(signalsOn c.status || c.sigAlways) then (c, h)
  else if plan.ownsObj c.sigObj then (c, h.sendSync op)
  else
    match plan.importObj c.sigObj with
    | some i =>
      if i.revoked then
        let c : Cmd := if signalsOn c.status then { c with status := stContextGone, detail := coordNat h.self } else c
        (c, h)
      else if i.writable then (c, h.sendSync op)
      else (c, h)
    | none => (c, h)

/-- Whether policy SKIP lets a ring go on after a status (R69, R70). -/
def Hw.skips (h : Hw) (r s : Nat) : Bool :=
  let w := h.ring r
  w.skip && !w.module && (h.ctx w.ctx).plan.expert && decide (0x08 ≤ s) && decide (s ≤ 0x0D)

/-- A work ring's state changes, and its doorbell half shows it (R45). -/
def Hw.setRingState (h : Hw) (r : Nat) (st : RingState) : Hw :=
  (h.setRing r fun w => { w with state := st }).devRing r

/-- Halt a ring on a status: HEAD after the failing index, nothing later started (R69). -/
def Hw.haltOn (h : Hw) (r : Nat) (c : Cmd) : Hw :=
  let w := h.ring r
  if w.state == .running || w.state == .draining then
    let h := h.setRing r fun w => { w with head := c.index + 1, fetched := [], limit := none, drainWait := false }
    (h.setRingState r .halted).evRing r 0x0001 (r + 256 * c.status + 2 ^ 32 * c.index.toNat) 0
  else h

/-- The numbers of the work rings of a context that are not STOPPED. -/
def Hw.ctxRings (h : Hw) (n : Nat) : List Nat :=
  (List.range 128).filter fun r => let w := h.ring r; !w.module && w.ctx == n && w.state != .stopped

/-- Give a command its final status, unless it is already fixed. -/
def Cmd.finish (c : Cmd) (status detail : Nat) : Cmd :=
  if c.phase == .done then c else { c with phase := .done, status := status, detail := detail }

/-! ## Accesses and their acknowledgements (R37, R59, R247, R283) -/

/-- An access is acknowledged at its home. -/
def Hw.ackAccess (h : Hw) (p : Access → Bool) : Hw := { h with accesses := h.accesses.eraseP p }

/-- A command loses an access: it ends with this status, unless it has already failed. -/
def Cmd.lose (c : Cmd) (status detail : Nat) : Cmd :=
  if c.phase == .done && !signalsOn c.status then c else { c with phase := .done, status := status, detail := detail }

/-- An entry of a WAIT_PREFETCH loses a read: it is not DONE, it has ERR, and RANGE_COUNT counts it (R305). -/
def Cmd.loseEntry (c : Cmd) (e : Nat) : Cmd :=
  match c.work with
  | .prefetch l =>
    let s := l.getD e (0, 0)
    if s.2.testBit 4 then c else { c with work := .prefetch (l.set e (s.1, (s.2 ||| 17) - 1)), range := c.range + 1, status := if c.phase == .done && c.status == stOk then stOkCounted else c.status }
  | _ => c

/-- An access ends without an acknowledgement: its command ends with it, or the entry of a WAIT_PREFETCH that reads. -/
def Hw.loseAccess (h : Hw) (a : Access) (status detail : Nat) : Hw :=
  { h with
    accesses := h.accesses.erase a
    rings := h.rings.modify a.ring fun (w : WorkRing) =>
      { w with running := w.running.map fun (c : Cmd) =>
          if c.order != a.order then c else if a.entry = 0 then c.lose status detail else c.loseEntry (a.entry - 1) } }

/-! ## Revocation (R80) -/

/-- End each wait on a revoked object: a blocked WAIT or WAIT_PREFETCH, and a header wait (R80). One that is satisfied and whose command still
runs no longer counts as a wait, of which R80 says nothing (DESIGN CHOICE; log 45). -/
def Hw.endRevokedWaits (h : Hw) (n : Nat) (i : Import) : Hw :=
  let hit (o : Nat) : Bool := i.sync && decide (i.base ≤ o) && decide (o < i.base + i.length)
  { h with rings := h.rings.map fun w =>
      if w.module || w.ctx != n then w
      else
        let running := w.running.map fun c =>
          if (c.opcode == 0x03 || c.opcode == 0x04) && c.phase == .blocked && !c.satisfied && hit (bits (c.f 0x1A 2) 12 0)
          then c.finish stContextGone (coordNat h.self) else c
        match w.fetched with
        | c :: rest =>
          if c.phase == .turn && c.waitEn && hit c.waitObj && !c.satisfied then
            { w with running := running ++ [c.finish stContextGone (coordNat h.self)], fetched := rest }
          else { w with running := running }
        | [] => { w with running := running } }

/-- Revoke the windows of an exporter on every importer, with a WINDOW_REVOKED event for each (R80). -/
def Hw.revoke (h : Hw) (ex : Nat) : Hw :=
  (List.range 16).foldl (fun h m =>
    if (h.ctx m).state == .free then h
    else (h.ctx m).plan.imports.foldl (fun h i =>
      if i.exporter = ex ∧ i.exporterEpoch = (h.ctx ex).epoch ∧ i.revoked = false then
        let h := h.setCtx m fun c =>
          { c with plan := { c.plan with imports := c.plan.imports.map fun j => if j = i then { j with revoked := true } else j } }
        (h.evCtx m 0x0107 srcModule (ex + 65536 * i.window) 0).endRevokedWaits m i
      else h) h) h

/-! ## Context life cycle (R74, R92) -/

/-- QUIESCING or FAULTED to CLOSING: the windows are revoked and teardown begins; CONTEXT_CLOSING tells of the first alone. -/
def Hw.enterClosing (h : Hw) (n : Nat) : Hw :=
  let quiesced := (h.ctx n).state == .quiescing
  let h := h.setCtx n fun c => { c with state := .closing }
  let c := h.ctx n
  (if quiesced then h.evCtx n 0x0104 srcModule (b2n c.flush + 2 * b2n c.expired) 0 else h).revoke n

/-- Once every work ring of a QUIESCING context is STOPPED, it enters CLOSING. -/
def Hw.closeIfStopped (h : Hw) (n : Nat) : Hw :=
  if (h.ctx n).state == .quiescing && (h.ctxRings n).isEmpty then h.enterClosing n else h

/-- A DRAINING ring whose limit is reached and whose records are written enters STOPPED (R69). -/
def Hw.stopIfDrained (h : Hw) (r : Nat) : Hw :=
  let w := h.ring r
  let reached := match w.limit with
    | none => true
    | some l => w.fetched.isEmpty && w.head == l
  if w.state == .draining && !w.drainWait && w.running.isEmpty && w.records.isEmpty && reached then
    let h := (h.setRingState r .stopped).evRing r 0x0002 r 0
    if w.module then h else h.closeIfStopped w.ctx
  else h

/-- DELIVERED and STATUS of every entry of a WAIT_PREFETCH, as they stand (R305). -/
def Run.writeEntries (r : Run) (c : Cmd) (l : List (Nat × Nat)) : Run :=
  l.zipIdx.foldl (fun (r : Run) s =>
    (r.write (c.f 0x28 8 + 32 * s.2 + 0x18) (toLe 4 s.1.1) false).write (c.f 0x28 8 + 32 * s.2 + 0x1E) (toLe 1 s.1.2) false) r

/-- The entries of a WAIT_PREFETCH whose end has not written them are written before its record (R305). -/
def Hw.writeBack (h : Hw) (r : Nat) (c : Cmd) : Hw :=
  match c.work with
  | .prefetch l =>
    let x : Run := { Run.start h 16 (h.ring r).ctx true false {} with forced := true, ring := r, order := c.order }
    (x.writeEntries c l).finish
  | _ => h

/-- Complete a command whose status is fixed: header signal, record, halt policy, and what follows from them (R51). -/
def Hw.complete (h : Hw) (r : Nat) (c : Cmd) : Hw :=
  let h := h.writeBack r c
  let h := h.setRing r fun w => { w with running := w.running.filter (·.index != c.index) }
  let h := h.release r c.index
  let (c, h) := h.headerSignal r c
  let h := h.setRing r fun w => { w with lastStatus := c.status }
  let h := h.giveRecord r c
  let h := if haltsOn c.status && !h.skips r c.status then h.haltOn r c else h
  h.stopIfDrained r

/-- Whether an output tile of a command is being drained. -/
def Hw.drains (h : Hw) (r : Nat) (i : W32) : Bool :=
  h.tiles.any fun (t : Tile) => t.banks.any fun (b : OutTile) => b.ring == r && b.index == i

/-- Complete every running command of a ring, those not finished with ABORTED. -/
def Hw.abortRunning (h : Hw) (r : Nat) (keep : W32 → Bool) : Hw :=
  (h.ring r).running.foldl (fun h c => if keep c.index then h else h.complete r (c.finish stAborted 0)) h

/-- A flushing teardown reaches a ring: its commands end ABORTED. A MATMUL loses the output tiles being accumulated and goes on until
those being drained have finished (R146). -/
def Hw.flushRunning (h : Hw) (r : Nat) (self : Option (Nat × W32)) : Hw :=
  let h := h.abortRunning r fun i => self == some (r, i) || h.drains r i
  { h with tiles := h.tiles.map fun (t : Tile) => { t with strip := t.strip.filter fun (s : Strip) => s.ring != r } }

/-- A ring stops at once: commands in flight end ABORTED, and nothing else of it starts (R69). -/
def Hw.abortRing (h : Hw) (r : Nat) : Hw :=
  let h := h.setRing r fun w => { w with fetched := [], limit := none, drainWait := false, state := .stopped }
  (h.abortRunning r fun _ => false).devRing r

/-- Put a ring in DRAINING with the commands already started as its limit (R69). Fetched commands that have not started are dropped,
and HEAD stays the next index to fetch (log 45). -/
def Hw.drainStarted (h : Hw) (r : Nat) : Hw :=
  let h := h.setRing r fun w => { w with fetched := [], limit := none, drainWait := false }
  (h.setRingState r .draining).stopIfDrained r

/-- Fault a context with a cause of R366: rings STOPPED, commands ABORTED, windows revoked (R74). -/
def Hw.faultCtx (h : Hw) (n cause : Nat) : Hw :=
  let st := (h.ctx n).state
  if st == .opened || st == .active || st == .quiescing then
    let h := h.setCtx n fun c => { c with state := .faulted, cause := cause }
    let h := (h.ctxRings n).foldl Hw.abortRing h
    (h.evCtx n 0x0106 srcModule cause 0).revoke n
  else if st == .closing then h.setCtx n fun c => { c with flush := true }
  else h

/-- Close a context (CONTEXT_CLOSE, CMD CLOSE, CLOSE_FLUSH): QUIESCING from OPEN or ACTIVE, CLOSING from FAULTED (R74, R92).
`self` is the CONTEXT_CLOSE command of a context ring, which completes with OK. -/
def Hw.closeCtx (h : Hw) (n : Nat) (flush : Bool) (self : Option (Nat × W32)) : Hw :=
  let st := (h.ctx n).state
  if st == .opened || st == .active then
    let h := h.setCtx n fun c => { c with state := .quiescing, flush := flush, expired := false }
    let h := h.evCtx n 0x0103 srcModule (b2n flush) 0
    let rs := h.ctxRings n
    let h := rs.foldl (fun h r =>
      h.setRing r fun w => { w with fetched := [], limit := none, drainWait := false }) h
    let h := rs.foldl (fun h r => h.setRingState r .draining) h
    let h := if flush then rs.foldl (fun h r => h.flushRunning r self) h else h
    let h := rs.foldl Hw.stopIfDrained h
    h.closeIfStopped n
  else if st == .faulted then
    (h.setCtx n fun c => { c with flush := true }).enterClosing n
  else h

end Sys2Proof.Machine
end

