-- ==== Sys2Proof/Machine/Operands.lean ====
section
/-! DEFINITION. The operand forms of a descriptor: tensor descriptors, owner tables, program images, and steps 1 to 4 of
R54 for every opcode (02 R48-R54, R56; 04 R96-R120; 05 R135-R138; 07 R181-R201; 09 R256; 11 R285-R287; 12 R302-R325;
13 R334, R335; 15 R367-R380; log 22). -/

namespace Sys2Proof.Machine

/-! ## Tensor descriptors (R98, R99) -/

/-- Read a TD from its 64 bytes. -/
def parseTd (bs : List Byte) : TD :=
  let fmt := fld bs 1 1
  let fl := fld bs 3 1
  { elem := fmt % 16, scaleFmt := fmt / 16, rank := fld bs 2 1 % 8, owned := fl.testBit 0, coarseEn := fl.testBit 1,
    coarse := BitVec.ofNat 32 (fld bs 4 4), base := BitVec.ofNat 64 (fld bs 8 8), scaleBase := BitVec.ofNat 64 (fld bs 16 8),
    strides := (List.range 5).map fun d => fld bs (0x18 + 4 * d) 4, pad := BitVec.ofNat 16 (fld bs 0x2C 2),
    sizes := (List.range 6).map fun d => fld bs (0x2E + 3 * d) 3 }

/-- SIZEd. -/
def TD.size (t : TD) (d : Nat) : Nat := t.sizes.getD d 0
/-- STRIDEd, d from 1. -/
def TD.stride (t : TD) (d : Nat) : Nat := t.strides.getD (d - 1) 0
/-- The sizes of the dimensions in use. -/
def TD.dims (t : TD) : List Nat := t.sizes.take t.rank
/-- Channel groups of one row. -/
def TD.cg (t : TD) : Nat := (t.size 0 + 31) / 32
/-- The group size B. -/
def TD.b (t : TD) : Nat := groupBytes t.elem
/-- The number of rows: outer indices, dimension 1 fastest. -/
def TD.rows (t : TD) : Nat := (t.dims.drop 1).foldl (· * ·) 1

/-- Masked bytes that must be zero, in ascending order; the first that is not. -/
def firstMasked (bs : List Byte) (ms : List (Nat × Nat)) : Option Nat :=
  (ms.find? fun m => (bs.getD m.1 0).toNat &&& m.2 != 0).map (·.1)

/-- Whole bytes from a to b. -/
def span (a b : Nat) : List (Nat × Nat) := (List.range (b + 1 - a)).map fun i => (a + i, 255)

/-- Keep masks only under a condition. -/
def onlyIf (c : Bool) (ms : List (Nat × Nat)) : List (Nat × Nat) := if c then ms else []

/-- The first failing check of a list. -/
def firstBad (cs : List (Bool × Nat)) : Option Nat := (cs.find? (·.1)).map (·.2)

/-- The least offset of the checks that fail (R64). -/
def leastBad (cs : List (Bool × Nat)) : Option Nat := ((cs.filter (·.1)).map (·.2)).min?

/-- The reserved bits of a TD (R98). -/
def tdMasks (t : TD) : List (Nat × Nat) :=
  [(2, 0x08), (3, 0xFC)] ++ onlyIf (!t.coarseEn) (span 4 7) ++ onlyIf (t.scaleFmt == 0 || t.owned) (span 0x10 0x17)

/-- Whether ELEM and SCALE_FMT form a permitted pair (R100). -/
def pairOk (e s : Nat) : Bool :=
  if e = 3 ∨ e = 4 then decide (s ≤ 2)
  else if e = 5 ∨ e = 8 ∨ e = 9 ∨ e = 10 then s == 1 || s == 2
  else decide (e ≤ 11) && s == 0

/-- R99, and R105 for a destination; offsets ascending. `base` is false where the TD's bases are not used (R140). -/
def tdBad (t : TD) (layout : Nat) (dest base : Bool) : List (Bool × Nat) :=
  [(!pairOk t.elem t.scaleFmt, 1), (t.rank == 0 || t.rank == 7 || layout != 0, 2),
   (base && t.base.toNat % (if t.owned then 64 else groupBytes t.elem) != 0, 8)] ++
  ((List.range 5).map fun i => (decide (t.rank ≤ i + 1) && t.stride (i + 1) != 0 ||
     dest && decide (i + 1 < t.rank) && decide (1 < t.size (i + 1)) && t.stride (i + 1) == 0, 0x18 + 4 * i)) ++
  [((fillCode t.elem t.scaleFmt t.pad.toNat).isNone, 0x2C)] ++
  ((List.range 6).map fun d => (if d < t.rank then t.size d == 0 else t.size d != 0, 0x2E + 3 * d))

/-! ## Owner tables (R108) -/

def parseOwner (bs : List Byte) : OwnerHdr :=
  { rank := fld bs 1 1, entryCount := fld bs 4 4, blocks := (List.range 6).map fun d => fld bs (8 + 3 * d) 3 }

def OwnerHdr.block (o : OwnerHdr) (d : Nat) : Nat := o.blocks.getD d 0
/-- Grid sizes, dimension 0 first. -/
def OwnerHdr.grid (o : OwnerHdr) (t : TD) : List Nat :=
  (List.range t.rank).map fun d => (t.size d + o.block d - 1) / o.block d

def ownerBad (o : OwnerHdr) (t : TD) : List (Bool × Nat) :=
  [(o.rank != t.rank, 1)] ++
  ((List.range 6).map fun d =>
    (if d < t.rank then o.block d == 0 || (d == 0 && o.block 0 % 32 != 0) else o.block d != 0, 8 + 3 * d)) ++
  [(o.entryCount != (o.grid t).foldl (· * ·) 1 || decide (65536 < o.entryCount), 4)]

/-! ## Program images (R181-R184, R201) -/

/-- What an operation uses: DST, a, b, c, and the MOD bits. -/
def opUses (op : Nat) : Option (Bool × Bool × Bool × Bool × Nat) :=
  if op = 0x01 then some (true, true, false, false, 0)
  else if 0x02 ≤ op ∧ op ≤ 0x04 ∨ op = 0x06 ∨ op = 0x07 then some (true, true, true, false, 8)
  else if op = 0x05 then some (true, true, true, true, 0)
  else if op = 0x08 ∨ op = 0x09 then some (true, true, false, false, 8)
  else if op = 0x0A then some (true, true, true, false, 15)
  else if op = 0x0B then some (true, true, true, true, 0)
  else if op = 0x0C ∨ op = 0x0D then some (true, true, false, false, 15)
  else if 0x10 ≤ op ∧ op ≤ 0x13 then some (true, true, false, false, 0)
  else if op = 0x18 then some (true, true, true, false, 15)
  else if op = 0x19 then some (true, true, false, false, 0)
  else if op = 0x1A then some (true, true, true, false, 0)
  else if op = 0x1B then some (true, false, false, false, 15)
  else if op = 0x1C then some (true, true, false, false, 0)
  else if op = 0x1D then some (false, true, false, false, 0)
  else if op = 0x1E then some (false, true, false, false, 7)
  else none

/-- The bits of an instruction word that its operation does not use. -/
def instrReserved (w : Nat) : Nat :=
  match opUses (bits w 31 26) with
  | none => 0
  | some (d, a, b, c, m) =>
    w &&& ((if d then 0 else 0x03C00000) + (if a then 0 else 0x003F0000) + (if b then 0 else 0x0000FC00) +
           (if c then 0 else 0x000003F0) + (15 - m))

/-- The byte of the lowest set bit. -/
def lowByte (x : Nat) : Nat :=
  if x % 2 ^ 8 ≠ 0 then 0 else if x % 2 ^ 16 ≠ 0 then 1 else if x % 2 ^ 24 ≠ 0 then 2 else 3

/-- Whether an operand selector is defined (R183). -/
def selOk (stats : Bool) (s : Nat) : Bool :=
  decide (s ≤ 0x17) || (stats && decide (0x18 ≤ s) && decide (s ≤ 0x1A)) ||
  (decide (0x1B ≤ s) && decide (s ≤ 0x1D)) || (decide (0x20 ≤ s) && decide (s ≤ 0x29))

/-- The checks of one instruction, bytes ascending. -/
def instrBad (stats : Bool) (w : Nat) : List (Bool × Nat) :=
  let op := bits w 31 26
  match opUses op with
  | none => [(true, 3)]
  | some (_, a, b, c, _) =>
    let m := bits w 3 0
    let conv := op == 0x0C || op == 0x0D
    let target := (conv && !(decide (m ≤ 4) || m == 6 || m == 7)) ||
      (op == 0x18 && !(m == 3 || m == 4 || m == 5 || m == 8 || m == 9 || m == 10)) || (op == 0x0A && decide (5 < m % 8))
    [(target || (c && !selOk stats (bits w 9 4)), 0),
     (b && (if op = 0x18 then !(bits w 15 10 == 1 || bits w 15 10 == 2) else !selOk stats (bits w 15 10)), 1),
     (a && !selOk stats (bits w 21 16), 2), (op == 0x1D && !stats, 3)]

def parseImage (bs : List Byte) : Image :=
  let fl := fld bs 2 1
  { stats := fl.testBit 0, intResult := fl.testBit 1, fill := BitVec.ofNat 32 (fld bs 4 4),
    rngId := BitVec.ofNat 32 (fld bs 8 4), statsTd := BitVec.ofNat 64 (fld bs 0x10 8),
    consts := (List.range 8).map fun i => BitVec.ofNat 32 (fld bs (0x20 + 4 * i) 4),
    instrs := (List.range (fld bs 1 1)).map fun i => BitVec.ofNat 32 (fld bs (0x40 + 4 * i) 4) }

def imageReserved (bs : List Byte) : Option Nat :=
  let im := parseImage bs
  match firstMasked bs ([(2, 0xFC), (3, 0xFF)] ++ span 0xC 0xF ++ onlyIf (!im.stats) (span 0x10 0x17) ++ span 0x18 0x1F) with
  | some o => some o
  | none =>
    (findIdxD im.instrs fun w => instrReserved w.toNat != 0).map fun x => 0x40 + 4 * x.1 + lowByte (instrReserved x.2.toNat)

def imageBad (bs : List Byte) : List (Bool × Nat) :=
  let im := parseImage bs
  (decide (fld bs 1 1 = 0) || decide (32 < fld bs 1 1), 1) ::
  im.instrs.zipIdx.flatMap fun x => (instrBad im.stats x.1.toNat).map fun c => (c.1, 0x40 + 4 * x.2 + c.2)

/-- Whether a program contains LDX. -/
def Image.ldx (im : Image) : Bool := im.instrs.any fun w => bits w.toNat 31 26 == 0x1C

/-! ## Descriptors -/

/-- Opcodes by ring kind (R56). -/
def opOnContext (op : Nat) : Bool :=
  [0x00, 0x01, 0x02, 0x03, 0x04, 0x08, 0x09, 0x0A, 0x0B, 0x10, 0x11, 0x12, 0x18, 0x19, 0x1A, 0x1B, 0x1C, 0x20, 0x21, 0x22,
   0x28, 0x29, 0x30, 0x32, 0x33, 0x35].contains op
def opOnModule (op : Nat) : Bool := [0x00, 0x01, 0x30, 0x31, 0x34, 0x35].contains op
def opDirect (op : Nat) : Bool := [0x00, 0x01, 0x02, 0x03, 0x08, 0x0B].contains op
def opIndirect (op : Nat) : Bool := [0x10, 0x11, 0x12, 0x18, 0x19].contains op

/-- The JF2 descriptor of a JF1 one (R53). -/
def jf2of (raw ext : List Byte) : List Byte :=
  let fl := fld raw 2 1
  let w := b2n (fl.testBit 0)
  let s := b2n (fl.testBit 1)
  raw.take 2 ++ toLe 2 (w + 2 * w + 4 * s + 8 * s + 64 * b2n (fl.testBit 2)) ++ toLe 4 (fld raw 4 2) ++
  toLe 8 (fld raw 0xC 4) ++ toLe 4 s ++ (raw.drop 6).take 4 ++
  (if opIndirect (fld raw 0 1) then ext else (raw.drop 0x10).take 16 ++ zeros 24)

/-- The DETAIL of a body offset (R64, R106). -/
def bodyDetail (jf1 : Bool) (op off : Nat) : Nat :=
  if !jf1 then off else if opIndirect op then 0x100 + off - 0x18 else off - 8

/-- Reserved header bits of a JF2 descriptor (R48, R49). -/
def headerMasks (module : Bool) (bs : List Byte) : List (Nat × Nat) :=
  let fl := fld bs 2 2
  let w := !module && fl.testBit 0
  let s := !module && fl.testBit 2
  [(2, (if module then 0x3F else 0) ||| (if w then 0 else 0x02) ||| (if s then 0 else 0x38)), (3, 0xFE)] ++
  onlyIf (!w) (span 8 0xF) ++ onlyIf (!s) (span 0x10 0x13) ++
  (if w then [(0x15, 0xE0)] else span 0x14 0x15) ++ (if s then [(0x17, 0xE0)] else span 0x16 0x17)

/-- Reserved header bits of a JF1 descriptor (R49, R52, R53). -/
def jf1Masks (module : Bool) (bs : List Byte) : List (Nat × Nat) :=
  let fl := fld bs 2 1
  let w := !module && fl.testBit 0
  let s := !module && fl.testBit 1
  [(2, if module then 0xFB else 0xF8), (3, 0xFF)] ++ (if w then [(7, 0xE0)] else span 6 7) ++
  (if s then [(9, 0xE0)] else span 8 9) ++ span 0xA 0xB ++ onlyIf (!w) (span 0xC 0xF) ++
  onlyIf (opIndirect (fld bs 0 1)) (span 0x18 0x1F)

/-- Reserved bytes of a body (the chapters' tables). -/
def bodyMasks (module : Bool) (bs : List Byte) : List (Nat × Nat) :=
  let op := fld bs 0 1
  let b (o : Nat) := fld bs o 1
  if op = 0x00 ∨ op = 0x01 then span 0x18 0x3F
  else if op = 0x02 then
    [(0x19, 0xFC), (0x1B, 0xE0)] ++ (if (b 0x19).testBit 1 then [(0x1E, 0xFC), (0x1F, 0xFF)] else span 0x1C 0x1F) ++ span 0x28 0x3F
  else if op = 0x03 then [(0x18, 0xFE), (0x19, 0xFF), (0x1B, 0xE0)] ++ span 0x28 0x3F
  else if op = 0x04 then [(0x18, 0xFC), (0x1B, 0xE0)] ++ span 0x30 0x3F
  else if op = 0x08 then
    (if (b 0x2C).testBit 1 then [(0x2A, 0xFC), (0x2B, 0xFF)] else span 0x28 0x2B) ++ [(0x2C, 0xFC)] ++ span 0x2E 0x3F
  else if op = 0x09 then [(0x31, 0xFE)] ++ span 0x35 0x3F
  else if op = 0x0A then [(0x31, 0xFC), (0x33, 0xFF)] ++ span 0x35 0x3F
  else if op = 0x0B then span 0x22 0x27 ++ [(0x28, 0xFE)] ++ span 0x2A 0x3F
  else if op = 0x10 then
    let paged := (b 0x3C).testBit 4
    [(0x3C, if paged then 0 else 0x60), (0x3D, 0xF0)] ++ onlyIf (!paged) (span 0x3E 0x3E) ++ span 0x3F 0x3F
  else if op = 0x11 then
    let m := b 0x34
    onlyIf ((b 0x36).testBit 2) (span 0x18 0x1F) ++ onlyIf ((b 0x36).testBit 3) (span 0x20 0x27) ++
    onlyIf (m != 0 && m != 3) (span 0x28 0x2F) ++ onlyIf (m != 0) (span 0x30 0x33) ++ [(0x36, 0xF0), (0x37, 0x88)] ++ span 0x3B 0x3F
  else if op = 0x12 then span 0x24 0x3F
  else if op = 0x18 ∨ op = 0x19 ∨ op = 0x1A then
    let tree := (b 0x2B).testBit 1
    let gather := op == 0x19
    onlyIf gather (span 0x2A 0x2A) ++ [(0x2B, if tree then 0xE0 else 0xE4), (0x30, 0xF8)] ++ onlyIf gather (span 0x31 0x31) ++
    onlyIf (!(b 0x2B).testBit 3) (span 0x32 0x32) ++ onlyIf (!tree) (span 0x33 0x37) ++ span 0x3A 0x3F
  else if op = 0x1B then [(0x21, 0xFF), (0x23, 0xFF)] ++ span 0x28 0x3F
  else if op = 0x1C then [(0x21, 0xFE), (0x23, 0xFF)] ++ span 0x28 0x3F
  else if op = 0x20 then [(0x31, 0xFE)] ++ span 0x35 0x3F
  else if op = 0x21 then
    let o := b 0x18
    (if o = 1 then [(0x19, 0xF8)] else span 0x19 0x1F) ++ onlyIf (o != 0) (span 0x20 0x27) ++ onlyIf (o != 2) (span 0x28 0x28) ++
    span 0x29 0x29 ++ onlyIf (o != 1) (span 0x2A 0x2B) ++ span 0x2C 0x3F
  else if op = 0x22 then span 0x23 0x3F
  else if op = 0x28 then
    let o := b 0x18
    onlyIf (o == 0 || o == 1) (span 0x1A 0x1B) ++ onlyIf (o == 1 || o == 3) (span 0x1C 0x1F) ++ onlyIf (o != 0) (span 0x20 0x2B) ++
    onlyIf (o == 2 || o == 3) (span 0x2C 0x30) ++ span 0x31 0x33 ++ onlyIf (o == 2 || o == 3) (span 0x34 0x37) ++ span 0x38 0x3F
  else if op = 0x29 then span 0x18 0x18 ++ span 0x1C 0x3F
  else if op = 0x30 then
    [(0x18, 0xFC), (0x19, 0xFF)] ++ onlyIf (!(b 0x18).testBit 1) (span 0x1C 0x1F) ++ onlyIf module (span 0x20 0x27) ++ span 0x28 0x3F
  else if op = 0x31 then
    span 0x21 0x23 ++ [(0x26, 0xFC), (0x27, 0xFF)] ++ (if b 0x20 = 1 then span 0x28 0x2B else [(0x2A, 0xFC), (0x2B, 0x7F)]) ++
    span 0x2C 0x3F
  else if op = 0x32 then
    span 0x19 0x1B ++ [(0x1E, 0xFC), (0x1F, 0xFF), (0x24, 0xFC)] ++ span 0x25 0x27 ++ span 0x2C 0x3F
  else if op = 0x33 then
    let o := b 0x18
    span 0x19 0x1B ++ onlyIf (decide (2 ≤ o)) (span 0x1C 0x1F) ++ onlyIf (o == 2 || o == 4) (span 0x20 0x27) ++
    onlyIf (decide (2 ≤ o)) (span 0x28 0x2F) ++ span 0x34 0x3F
  else if op = 0x34 then span 0x20 0x3F
  else
    (if module then [(0x18, 0xF0)] else [(0x18, 0xFF)]) ++ [(0x19, 0xFE)] ++ onlyIf (!module) (span 0x1A 0x1A) ++
    span 0x1B 0x1B ++ span 0x20 0x3F

/-- Whether a FP32 code is 0 or lies from 2^−64 to 2^64 (R334). -/
def temperatureOk (c : Nat) : Bool :=
  c % 2 ^ 31 == 0 || (decide (0x1F800000 ≤ c) && decide (c ≤ 0x5F800000))

/-- Body fields out of range, offsets ascending (step 4). -/
def bodyBad (p : Plan) (module : Bool) (bs : List Byte) : List (Bool × Nat) :=
  let op := fld bs 0 1
  let b (o : Nat) := fld bs o 1
  let f (o n : Nat) := fld bs o n
  let exec (o : Nat) : Bool × Nat := (decide (16 < b o), o)
  if op = 0x02 then [(decide (1 < b 0x18), 0x18)]
  else if op = 0x04 then [(b 0x19 == 0 || decide (8 < b 0x19), 0x19), (f 0x28 8 % 64 != 0, 0x28)]
  else if op = 0x08 then [exec 0x2D]
  else if op = 0x09 then [(b 0x30 == 0, 0x30), exec 0x34]
  else if op = 0x0A then [(b 0x30 == 0, 0x30), (decide (3 < b 0x32), 0x32), exec 0x34]
  else if op = 0x0B then [exec 0x29]
  else if op = 0x10 then
    [(f 0x30 8 != 0 && b 0x3B == 0xFF, 0x30), (f 0x38 2 == 0, 0x38), exec 0x3A, (decide (64 ≤ b 0x3B) && b 0x3B != 0xFF, 0x3B), (bits (b 0x3C) 2 1 == 3, 0x3C)]
  else if op = 0x11 then
    let m := b 0x34
    let a := b 0x35
    let trg := (b 0x36).testBit 2 || (b 0x36).testBit 3
    [(decide (3 < m), 0x34), ((m == 0 && decide (63 < a)) || ((m == 1 || m == 2) && decide (2 < a)) || (m == 3 && (a == 0 || decide (64 < a))), 0x35),
     (trg && (b 0x3A == 0 || decide (1 < ((List.range 16).filter fun t => (f 0x38 2).testBit t).length)), 0x36),
     (f 0x38 2 == 0, 0x38), exec 0x3A]
  else if op = 0x12 then [(f 0x18 8 % 64 != 0, 0x18), (decide (63 < b 0x20), 0x20), exec 0x21, (f 0x22 2 == 0, 0x22)]
  else if op = 0x18 ∨ op = 0x19 ∨ op = 0x1A then
    let tree := (b 0x2B).testBit 1
    [(op != 0x19 && decide (3 < b 0x2A), 0x2A), (tree && b 0x30 == 0, 0x2B), (op != 0x19 && (b 0x31 == 0 || decide (16 < b 0x31)), 0x31),
     ((b 0x2B).testBit 3 && decide (63 < b 0x32), 0x32), (tree && (decide (b 0x33 < 2) || decide (8 < b 0x33)), 0x33)]
  else if op = 0x1B ∨ op = 0x1C then [exec 0x22]
  else if op = 0x20 then [(f 0x20 4 == 0, 0x20), (decide (63 < b 0x30), 0x30), (f 0x32 2 == 0, 0x32), exec 0x34]
  else if op = 0x21 then
    let e := signed 8 (b 0x28)
    [(decide (2 < b 0x18), 0x18), (b 0x18 == 0 && f 0x20 8 % 64 != 0, 0x20), (b 0x18 == 2 && (decide (e < p.lsFloor) || decide (p.lsCeil < e)), 0x28)]
  else if op = 0x22 then
    [(f 0x18 8 % 64 != 0, 0x18), (decide (63 < b 0x20) || decide (64 < b 0x20 + b 0x21) && decide (1 ≤ b 0x21) && decide (b 0x21 ≤ 64), 0x20),
     (b 0x21 == 0 || decide (64 < b 0x21), 0x21), (decide (1 < b 0x22), 0x22)]
  else if op = 0x28 then
    let o := b 0x18
    let n := f 0x1A 2
    let a := f 0x1C 4
    let range := o == 2 || o == 3
    let start := o == 0
    [(decide (3 < o), 0x18), (range && decide (1 ≤ n) && decide (n ≤ 256) && decide (256 < b 0x19 + n), 0x19), (range && (n == 0 || decide (256 < n)), 0x1A),
     ((o == 0 || o == 2) && (a == 0 || decide (1048576 < a)), 0x1C), (start && f 0x20 8 % 64 != 0, 0x20),
     (start && decide (a < f 0x28 4), 0x28), (decide (o ≤ 1) && !temperatureOk (f 0x2C 4), 0x2C),
     (decide (o ≤ 1) && (b 0x30 == 0 || decide (64 < b 0x30)), 0x30)]
  else if op = 0x29 then
    let n := f 0x1A 2
    [(decide (1 ≤ n) && decide (n ≤ 256) && decide (256 < b 0x19 + n), 0x19), (n == 0 || decide (256 < n), 0x1A)]
  else if op = 0x30 then
    [(b 0x18 % 4 == 0, 0x18), ((b 0x18).testBit 1 && (f 0x1C 4 % 65536 != 0 || decide (0x13F0000 < f 0x1C 4)), 0x1C),
     (!module && f 0x20 8 % 2 ^ 21 != 0, 0x20)]
  else if op = 0x31 then [(f 0x18 8 % 64 != 0, 0x18), (decide (1 < b 0x20), 0x20)]
  else if op = 0x32 then
    let e := p.lambda.find? fun l => l.port == b 0x18 && l.peer == some (BitVec.ofNat 18 (f 0x1C 4))
    let m := BitVec.ofNat 34 (f 0x20 8)
    (decide (47 < b 0x18), 0x18) ::
    (match e with
     | none => [(true, 0x1C)]
     | some l =>
       let n := ((List.range 32).filter fun k => m.getLsbD k).length
       [(m &&& ~~~l.mask != 0 || decide (n < l.min) || decide (l.max < n), 0x20)])
  else if op = 0x33 then [(decide (4 < b 0x18), 0x18)]
  else if op = 0x34 then [(f 0x18 8 % 64 != 0, 0x18)]
  else []

/-! ## Reading the structures a command names (R54 step 2, R106) -/

/-- The checks of a descriptor while they are made. TDs are keyed by slot; 16 + 2e and 17 + 2e are entry e of a prefetch list. -/
structure Chk where
  r : Run
  stop : Option (Nat × Nat) := none
  mis : List Nat := []
  tds : List (Nat × TD × List Byte) := []
  owners : List (Nat × OwnerHdr × List Byte) := []
  image : Option (List Byte) := none
  block : List Byte := []
  deriving DecidableEq, Repr

/-- The DETAIL of byte 0 of a TD (R107, R304). -/
def tdDetail (k : Nat) : Nat := if k < 16 then 0x200 + 0x40 * k else 0x1000 + 0x40 * (k - 16)

/-- Read n bytes of a structure. -/
def Chk.get (c : Chk) (cva n : Nat) : List Byte × Chk :=
  if c.stop.isSome || c.r.waits then (zeros n, c)
  else
    let x := c.r.read cva n
    match x.2.fail with
    | some f => (zeros n, { c with r := x.2, stop := some f })
    | none =>
      if x.2.waits then (zeros n, { c with r := x.2 })
      else if x.1.2 then (x.1.1, { c with r := x.2, stop := some (stPoison, 0) })
      else (x.1.1, { c with r := x.2 })

/-- Whether reading goes on. -/
def Chk.goes (c : Chk) : Bool := c.stop.isNone && !c.r.waits

/-- A structure's VERSION must be 0x01. -/
def Chk.version (c : Chk) (bs : List Byte) : Chk :=
  if c.goes && fld bs 0 1 != 1 then { c with stop := some (stBadVersion, fld bs 0 1) } else c

/-- Read the TD at a CVA into slot k; a misaligned CVA is noted under its field's DETAIL. -/
def Chk.td (c : Chk) (k cva detail : Nat) : Chk :=
  if cva % 64 ≠ 0 then { c with mis := c.mis ++ [detail] }
  else
    let x := c.get cva 64
    let c := x.2.version x.1
    if c.goes then { c with tds := c.tds ++ [(k, parseTd x.1, x.1)] } else c

/-- Read the owner-table headers of the TDs read so far, in slot order. -/
def Chk.ownerHdrs (c : Chk) : Chk :=
  c.tds.foldl (fun c t =>
    if t.2.1.owned && t.2.1.base.toNat % 64 == 0 then
      let x := c.get t.2.1.base.toNat 64
      let c := x.2.version x.1
      if c.goes then { c with owners := c.owners ++ [(t.1, parseOwner x.1, x.1)] } else c
    else c) c

/-- The TD fields of a body: slot and offset, ascending slots (R107). -/
def tdFields (bs : List Byte) : List (Nat × Nat) :=
  let op := fld bs 0 1
  let b (o : Nat) := fld bs o 1
  if op = 0x08 then [(0, 0x18), (1, 0x20)]
  else if op = 0x09 ∨ op = 0x0A then [(0, 0x18), (1, 0x20), (2, 0x28)]
  else if op = 0x0B ∨ op = 0x1C then [(1, 0x18)]
  else if op = 0x1B then [(0, 0x18)]
  else if op = 0x18 ∨ op = 0x19 ∨ op = 0x1A then [(0, 0x18), (1, 0x20)]
  else if op = 0x10 then [(0, 0x18), (1, 0x28), (4, 0x20)] ++ (if fld bs 0x30 8 = 0 then [] else [(5, 0x30)])
  else if op = 0x11 then
    (if (b 0x36).testBit 2 then [] else [(0, 0x18)]) ++ (if (b 0x36).testBit 3 then [] else [(1, 0x20)]) ++
    (if b 0x34 = 3 then [(2, 0x28)] else []) ++ (if b 0x34 = 0 ∧ fld bs 0x28 8 ≠ 0 then [(5, 0x28)] else [])
  else if op = 0x33 then (if b 0x18 = 0 then [(0, 0x20)] else if b 0x18 = 1 then [(1, 0x28)] else [])
  else []

/-- The TD fields of an update block. -/
def blockFields (bs : List Byte) : List (Nat × Nat) :=
  [(0, 8)] ++ (if fld bs 0x18 8 = 0 then [] else [(1, 0x18)]) ++ [(4, 0)] ++ (if fld bs 0x10 8 = 0 then [] else [(5, 0x10)])

/-- Read everything that a descriptor names. -/
def Chk.structures (c : Chk) (jf1 : Bool) (bs : List Byte) : Chk :=
  let op := fld bs 0 1
  if op = 0x12 then
    let a := fld bs 0x18 8
    if a % 64 ≠ 0 then c
    else
      let x := c.get a 64
      let c := x.2.version x.1
      let n := fld x.1 1 1
      if !c.goes || n = 0 || 32 < n then { c with image := if c.goes then some x.1 else none }
      else
        let y := c.get (a + 64) (4 * n)
        { y.2 with image := some (x.1 ++ y.1) }
  else if op = 0x20 then
    let x := c.get (fld bs 0x18 8) 64
    let c := { x.2 with block := x.1 }
    if !c.goes then c
    else ((blockFields x.1).foldl (fun c f => c.td f.1 (fld x.1 f.2 8) (0x1C00 + f.2)) c).ownerHdrs
  else if op = 0x04 then
    let n := fld bs 0x19 1
    let a := fld bs 0x28 8
    if n = 0 ∨ 8 < n ∨ a % 64 ≠ 0 then c
    else
      let x := c.get a (32 * n)
      let c := { x.2 with block := x.1 }
      if !c.goes then c
      else
        ((List.range n).foldl (fun c e =>
          let c := c.td (16 + 2 * e) (fld x.1 (32 * e) 8) (0x800 + 32 * e)
          if fld x.1 (32 * e + 8) 8 = 0 then c else c.td (17 + 2 * e) (fld x.1 (32 * e + 8) 8) (0x808 + 32 * e)) c).ownerHdrs
  else if op = 0x33 ∧ fld bs 0x18 1 = 3 then
    let x := c.get (fld bs 0x20 8) 64
    let c := (if x.2.goes && fld x.1 1 1 != 1 then { x.2 with stop := some (stBadVersion, fld x.1 1 1) } else x.2)
    let c := { c with block := x.1 }
    let o := fld x.1 0 1
    if !c.goes then c
    else if !([0x02, 0x18, 0x19, 0x1A, 0x21].contains o) then { c with stop := some (stBadOpcode, o) }
    else if o = 0x18 ∨ o = 0x19 ∨ o = 0x1A then
      ((tdFields x.1).foldl (fun c f => c.td f.1 (fld x.1 f.2 8) (0x1800 + f.2)) c).ownerHdrs
    else c
  else ((tdFields bs).foldl (fun c f => c.td f.1 (fld bs f.2 8) (bodyDetail jf1 op f.2)) c).ownerHdrs

/-! ## Relations between tensors (step 4) -/

/-- The TD of a slot. -/
def slotTd (l : List (Nat × TD)) (k : Nat) : Option TD := (l.find? (·.1 == k)).map (·.2)

/-- Dimension by dimension, sizes that differ from what is wanted; RANK first. -/
def sizesBad (k : Nat) (t : TD) (want : List Nat) : List (Bool × Nat) :=
  (t.rank != want.length, tdDetail k + 2) :: want.zipIdx.map fun x => (t.size x.2 != x.1, tdDetail k + 0x2E + 3 * x.2)

def formatBad (k : Nat) (t u : TD) : List (Bool × Nat) := [(t.elem != u.elem || t.scaleFmt != u.scaleFmt, tdDetail k + 1)]

def noOwner (l : List (Nat × TD)) : List (Bool × Nat) := l.map fun x => (x.2.owned, tdDetail x.1 + 3)

/-- The fields of PERM. -/
def permOf (p : Nat) : List Nat := (List.range 6).map fun d => bits p (3 * d + 2) (3 * d)

/-- The source dimension that each destination dimension of a COPY carries. -/
def copyPerm (bs : List Byte) (r : Nat) : List Nat :=
  if (fld bs 0x2C 1).testBit 1 then (permOf (fld bs 0x28 4)).take r else List.range r

/-- K per cycle of a pair of matrix operands; 0 where the pair is not permitted (R125, R126). -/
def kc (a b : Nat) : Nat :=
  let four (x : Nat) := x == 5 || x == 8
  let eight (x : Nat) := x == 3 || x == 4 || x == 7
  let half (x : Nat) := x == 1 || x == 2
  if four a && four b then 8
  else if (four a || eight a) && (four b || eight b) then 4
  else if half a && half b then 2
  else if four a && (b == 9 || b == 10) then 16
  else 0

/-- Whether a format can be a row operand at all. -/
def rowFormat (a : Nat) : Bool := [1, 2, 3, 4, 5, 7, 8].contains a

/-- The TD a tile register stands for (R195). -/
def trgTd (sizes : List Nat) : TD := { elem := 0, rank := 2, sizes := sizes ++ zeros', strides := [4, 0, 0, 0, 0] }
where zeros' : List Nat := [0, 0, 0, 0]

/-- The destination sizes an ELEMENT mode derives from its source (R195). -/
def elementDst (mode arg : Nat) (s : List Nat) : List Nat :=
  if mode = 1 then s.set 0 1 else if mode = 2 then s.set 1 1 else if mode = 3 then s.set 0 arg else s

/-- The source sizes of a register source (R195). -/
def elementSrc (mode : Nat) (d : List Nat) : List Nat :=
  if mode = 1 ∨ mode = 3 then [128, d.getD 1 0] else if mode = 2 then [d.getD 0 0, 128] else d

/-- Source and destination of an ELEMENT, tile registers standing for tensors. -/
def elementTds (bs : List Byte) (l : List (Nat × TD)) : TD × TD :=
  let m := fld bs 0x34 1
  let a := fld bs 0x35 1
  let fl := fld bs 0x36 1
  let s := if fl.testBit 2 then
      (if fl.testBit 3 then trgTd [128, 128] else trgTd (elementSrc m (((slotTd l 1).getD {}).dims)))
    else (slotTd l 0).getD {}
  let d := if fl.testBit 3 then (if fl.testBit 2 then trgTd [128, 128] else trgTd (elementDst m a s.dims)) else (slotTd l 1).getD {}
  (s, d)

/-- A memory tensor beside a tile register: RANK 2, sizes of at most 128 (R195). -/
def besideTrg (k : Nat) (t : TD) : List (Bool × Nat) :=
  (t.rank != 2, tdDetail k + 2) :: (List.range 2).map fun d => (decide (128 < t.size d), tdDetail k + 0x2E + 3 * d)

/-- The participants P of a collective (R286). -/
def collSize (t : Topology) (axes : Nat) : Nat :=
  (if axes.testBit 0 then t.lens.1 else 1) * (if axes.testBit 1 then t.lens.2.1 else 1) * (if axes.testBit 2 then t.lens.2.2 else 1)

def collectiveBad (topo : Topology) (bs : List Byte) (l : List (Nat × TD)) (fieldDetail : Nat → Nat) : List (Bool × Nat) :=
  let s := (slotTd l 0).getD {}
  let d := (slotTd l 1).getD {}
  let op := fld bs 0 1
  let o := if op = 0x19 then 0 else fld bs 0x2A 1
  let p := collSize topo (fld bs 0x30 1)
  let n := fld bs 0x31 1
  noOwner l ++ [(s.elem == 8 || s.elem == 9 || s.elem == 10, tdDetail 0 + 1),
    ((o == 1 && !isFloat s.elem) || (decide (2 ≤ o) && !([0, 1, 2, 6].contains s.elem)), fieldDetail 0x2A)] ++
  (if op = 0x19 then formatBad 1 d s ++ [(decide (5 < s.rank), tdDetail 0 + 2)] ++ sizesBad 1 d (s.dims ++ [p])
   else
     let want := d.dims
     let want := if op = 0x1A then want.set (want.length - 1) (want.getLastD 0 * p) else want
     sizesBad 0 s (if n > 1 then want ++ [n] else want))

/-- The relations of a command's tensors, in reporting order. -/
def relationsBad (topo : Topology) (jf1 : Bool) (bs : List Byte) (l : List (Nat × TD)) : List (Bool × Nat) :=
  let op := fld bs 0 1
  let fd := bodyDetail jf1 op
  let t (k : Nat) := (slotTd l k).getD {}
  if op = 0x08 then
    let s := t 0
    let d := t 1
    let pf := permOf (fld bs 0x28 4)
    let perm := copyPerm bs s.rank
    let en := (fld bs 0x2C 1).testBit 1
    let ok := (List.range s.rank).all fun k => perm.contains k
    [(en && (!ok || (pf.drop s.rank).any (· != 0)), fd 0x28), (s.scaleFmt != 0 && perm.headD 0 != 0, fd 0x28),
     ((s.owned || d.owned) && perm != List.range s.rank, fd 0x28)] ++ formatBad 1 d s ++
    sizesBad 1 d (perm.map s.size)
  else if op = 0x09 ∨ op = 0x0A then
    let s := t 0
    let d := t 1
    let i := t 2
    let dim := fld bs 0x30 1
    let n := i.size 0
    let o := fld bs 0x32 1
    [(decide (s.rank ≤ dim), 0x30)] ++
    (if op = 0x09 then [((fillCode s.elem 0 (fld bs 0x32 2)).isNone || (s.scaleFmt != 0 && fld bs 0x32 2 % 2 ^ 15 != 0), 0x32)]
     else [(!(o == 0 || (o == 1 && [0, 1, 6, 11].contains s.elem) || (decide (2 ≤ o) && [0, 6].contains s.elem)), 0x32)]) ++
    noOwner (l.take 2) ++ [(i.elem != 6, tdDetail 2 + 1), (i.rank != 1, tdDetail 2 + 2), (i.owned, tdDetail 2 + 3)] ++
    [(decide (s.rank < 2), tdDetail 0 + 2)] ++
    (if op = 0x0A then [(s.size dim != n, tdDetail 0 + 0x2E + 3 * dim)] else []) ++ formatBad 1 d s ++
    [(d.rank != s.rank, tdDetail 1 + 2)] ++
    ((List.range s.rank).map fun k =>
      (if k = dim then op == 0x09 && d.size k != n else d.size k != s.size k, tdDetail 1 + 0x2E + 3 * k))
  else if op = 0x0B then
    [((fillCode (t 1).elem (t 1).scaleFmt (fld bs 0x20 2)).isNone, fd 0x20)]
  else if op = 0x10 then
    let a := t 0
    let o := t 1
    let b := t 4
    let ints := a.elem == 7 && b.elem == 7
    let paged := (fld bs 0x3C 1).testBit 4
    let pop := if (fld bs 0x3C 1).testBit 5 then 4 else 0
    let pt := t pop
    [(kc a.elem b.elem == 0, tdDetail (if rowFormat a.elem then 4 else 0) + 1), (a.rank == 1, tdDetail 0 + 2),
     (o.rank != a.rank, tdDetail 1 + 2), (b.rank != a.rank, tdDetail 4 + 2), (b.size 0 != a.size 0, tdDetail 4 + 0x2E),
     (o.size 0 != b.size 1, tdDetail 1 + 0x2E), (o.size 1 != a.size 1, tdDetail 1 + 0x31)] ++
    ((List.range (a.rank - 2)).flatMap fun d =>
      [(b.size (d + 2) != a.size (d + 2), tdDetail 4 + 0x34 + 3 * d), (o.size (d + 2) != a.size (d + 2), tdDetail 1 + 0x34 + 3 * d)]) ++
    noOwner l ++ [(decide (8 < o.elem), tdDetail 1 + 1), (!ints && o.elem == 6, tdDetail 1 + 1)] ++
    [(paged && (fld bs 0x3C 1).testBit 6 && pt.scaleFmt != 0, tdDetail pop + 1),
     (paged && (fld bs 0x3C 1).testBit 6 && pt.size 0 % 16 != 0, tdDetail pop + 0x2E)] ++
    (match slotTd l 5 with
     | none => []
     | some x => (x.rank != o.rank, tdDetail 5 + 2) ::
       (List.range (o.rank - 1)).map fun d => (x.size (d + 1) != o.size (d + 1), tdDetail 5 + 0x31 + 3 * d))
  else if op = 0x11 then
    let m := fld bs 0x34 1
    let fl := fld bs 0x36 1
    let sd := elementTds bs l
    let s := sd.1
    let d := sd.2
    noOwner l ++
    (if fl.testBit 2 && !fl.testBit 3 then besideTrg 1 (t 1) else if fl.testBit 3 && !fl.testBit 2 then besideTrg 0 (t 0) else []) ++
    [(m == 2 && decide (s.rank < 2), tdDetail 0 + 2), (m == 3 && !isFloat s.elem, tdDetail 0 + 1), (m == 3 && d.elem != 0, tdDetail 1 + 1),
     (m == 3 && (t 2).elem != 6, tdDetail 2 + 1)] ++ sizesBad 1 d (elementDst m (fld bs 0x35 1) s.dims) ++
    (if m = 3 then sizesBad 2 (t 2) (elementDst m (fld bs 0x35 1) s.dims) else []) ++
    (match slotTd l 5 with
     | none => []
     | some x => (x.rank != d.rank, tdDetail 5 + 2) ::
       (List.range (d.rank - 1)).map fun k => (x.size (k + 1) != d.size (k + 1), tdDetail 5 + 0x31 + 3 * k))
  else if op = 0x18 ∨ op = 0x19 ∨ op = 0x1A then collectiveBad topo bs l fd
  else if op = 0x1B ∨ op = 0x1C then noOwner l
  else if op = 0x20 then
    let m := t 4
    let g := t 0
    [(m.elem != 0, tdDetail 4 + 1), (!isFloat g.elem, tdDetail 0 + 1)] ++ sizesBad 0 g m.dims ++
    (match slotTd l 5 with
     | none => []
     | some s => [(s.elem != 0, tdDetail 5 + 1), (s.rank != m.rank + 1, tdDetail 5 + 2),
         (!(s.size m.rank == 1 || s.size m.rank == 2), tdDetail 5 + 0x2E + 3 * m.rank)] ++ sizesBad 5 s (m.dims ++ [s.size m.rank])) ++
    (match slotTd l 1 with
     | none => []
     | some o => (o.elem == 6 || o.elem == 7 || o.elem == 11, tdDetail 1 + 1) :: sizesBad 1 o m.dims) ++ noOwner l
  else []

/-- The pairs of a prefetch list (R304). -/
def prefetchBad (block : List Byte) (n : Nat) (l : List (Nat × TD)) : List (Bool × Nat) :=
  ((List.range n).flatMap fun e =>
    let o := 32 * e
    let fl := fld block (o + 0x1C) 1
    [(fl % 8 != 0 && (fld block (o + 0x10) 4 == 0 || fld block (o + 8) 8 == 0), 0x81C + o), (decide (16 < fld block (o + 0x1D) 1), 0x81D + o)]) ++
  ((List.range n).flatMap fun e =>
    match slotTd l (16 + 2 * e), slotTd l (17 + 2 * e) with
    | some s, some d => (d.owned, tdDetail (17 + 2 * e) + 3) :: formatBad (17 + 2 * e) d s ++ sizesBad (17 + 2 * e) d s.dims
    | _, _ => [])

/-- Whether a slot names a destination (R105). -/
def isDest (op k : Nat) : Bool :=
  if op = 0x20 then k == 1 || k == 4 || k == 5 else k == 1 || (op == 0x11 && k == 2) || (decide (16 ≤ k) && k % 2 == 1)

/-- Whether a slot's bases are in use: not those of a paged operand (R140). -/
def basesUsed (bs : List Byte) (k : Nat) : Bool :=
  !(fld bs 0 1 == 0x10 && (fld bs 0x3C 1).testBit 4 && k == (if (fld bs 0x3C 1).testBit 5 then 4 else 0))

/-! ## Steps 1 to 4 of R54 -/

/-- The earliest DETAIL of step 3. -/
def Chk.reserved (c : Chk) (jf1 module : Bool) (raw bs : List Byte) : Option Nat :=
  let op := fld bs 0 1
  let own : Option Nat :=
    if jf1 then
      match firstMasked raw (jf1Masks module raw) with
      | some o => some o
      | none => (firstMasked bs (bodyMasks module bs)).map (bodyDetail jf1 op)
    else firstMasked bs (headerMasks module bs ++ bodyMasks module bs)
  -- the bases of a paged operand are ignored, SCALE_BASE also where SCALE_FMT is 0 (R140)
  let tds := c.tds.findSome? fun t =>
    (firstMasked t.2.2 ((tdMasks t.2.1).filter fun m => basesUsed bs t.1 || m.1 < 0x10 || 0x18 ≤ m.1)).map (tdDetail t.1 + ·)
  let hdrs := c.owners.findSome? fun o => (firstMasked o.2.2 (span 2 3 ++ span 0x1A 0x3F)).map (0x400 + 0x40 * (o.1 % 16) + ·)
  let im := match c.image with | some b => (imageReserved b).map (0x600 + ·) | none => none
  let blk : Option Nat :=
    if op = 0x20 then (firstMasked c.block (span 0x28 0x3F)).map (0x1C00 + ·)
    else if op = 0x04 then
      (firstMasked c.block ((List.range (c.block.length / 32)).flatMap fun e => [(32 * e + 0x1C, 0xF8), (32 * e + 0x1F, 0xFF)])).map (0x800 + ·)
    else if op = 0x33 ∧ fld bs 0x18 1 = 3 then
      (firstMasked c.block (headerMasks false c.block ++ bodyMasks false c.block)).map (0x1800 + ·)
    else none
  own.or (blk.or (tds.or (hdrs.or im)))

/-- The DETAIL of step 4: the least of those that fail. Relations between tensors are judged where the tensors themselves are sound. -/
def Chk.bad (c : Chk) (topo : Topology) (p : Plan) (jf1 module : Bool) (raw bs : List Byte) : Option Nat :=
  let op := fld bs 0 1
  let fd := bodyDetail jf1 op
  let l := c.tds.map fun t => (t.1, t.2.1)
  let nested := op == 0x33 && fld bs 0x18 1 == 3
  let nb := c.block
  let nop := fld nb 0 1
  let own : List (Bool × Nat) :=
    [(!jf1 && decide (2 ≤ bits (fld bs 2 2) 8 7), 2), (jf1 && opIndirect op && fld raw 0x10 8 % 8 != 0, 0x10)] ++
    (match c.mis with | [] => [] | m :: r => [(true, minD r m)]) ++
    (bodyBad p module bs).map (fun x => (x.1, fd x.2)) ++
    (if op = 0x32 then
       -- MASK omits the link's control λ (R256)
       let ks := (c.r.h.port (fld bs 0x18 1)).links.filter fun k => k.valid && k.toward == some (BitVec.ofNat 18 (fld bs 0x1C 4))
       ks.map fun k => (!(BitVec.ofNat 34 (fld bs 0x20 8)).getLsbD k.ctrl, 0x20)
     else []) ++
    (if nested then
       [((fld nb 2 2).testBit 0 || (fld nb 2 2).testBit 2 || decide (2 ≤ bits (fld nb 2 2) 8 7), 0x1802),
        (nop == 2 && !(fld nb 0x19 1).testBit 1, 0x1819), (nop == 0x21 && fld nb 0x18 1 != 1, 0x1818)] ++
       (bodyBad p false nb).map fun x => (x.1, 0x1800 + x.2)
     else [])
  let parts : List (Bool × Nat) :=
    (c.tds.flatMap fun t =>
      (tdBad t.2.1 (fld t.2.2 2 1 / 16) (isDest (if nested then nop else op) t.1) (basesUsed bs t.1)).map fun x => (x.1, tdDetail t.1 + x.2)) ++
    (c.owners.flatMap fun o =>
      (ownerBad o.2.1 ((slotTd l o.1).getD {})).map fun x => (x.1, 0x400 + 0x40 * (o.1 % 16) + x.2)) ++
    (match c.image with | some b => (imageBad b).map fun x => (x.1, 0x600 + x.2) | none => [])
  let relations : List (Bool × Nat) :=
    if op = 0x04 then prefetchBad c.block (fld bs 0x19 1) l
    else if nested then (if nop = 0x18 ∨ nop = 0x19 ∨ nop = 0x1A then collectiveBad topo nb l (0x1800 + ·) else [])
    else relationsBad topo jf1 bs l
  leastBad (own ++ parts ++ (if parts.any (·.1) then [] else relations))

/-- Check a descriptor: the command, with the failure of steps 1 to 4 if there is one. None where a read must wait. -/
def Hw.checkDescriptor (h : Hw) (ring : Nat) (index : W32) (raw : List Byte) (poisoned : Bool) (e : Env) : Option (Cmd × Hw) :=
  let w := h.ring ring
  let p := (h.ctx w.ctx).plan
  let op := fld raw 0 1
  let bs0 := if w.jf1 then jf2of raw (zeros 40) else raw
  let cmd : Cmd := { index := index, jf1 := w.jf1, bytes := bs0 }
  let want := if w.jf1 then 0x81 else 1
  if poisoned then some ({ cmd with fail := some (stPoison, 0) }, h)
  else if fld raw 1 1 ≠ want then some ({ cmd with fail := some (stBadVersion, fld raw 1 1) }, h)
  else if (if w.module then !opOnModule op else !opOnContext op) || (w.jf1 && !opDirect op && !opIndirect op) then
    some ({ cmd with fail := some (stBadOpcode, op) }, h)
  else
    let c : Chk := { r := { h := h, env := e, ctx := w.ctx } }
    let ext := w.jf1 && opIndirect op
    let a := fld raw 0x10 8
    let x := if ext && a % 8 == 0 then c.get a 40 else (zeros 40, c)
    let bs := if w.jf1 then jf2of raw x.1 else raw
    let c := if w.module || (ext && a % 8 != 0) then x.2 else x.2.structures w.jf1 bs
    if c.r.waits then none
    else
      let cmd := { cmd with bytes := bs }
      let h := { c.r with fail := none }.finish
      match c.stop with
      | some f => some ({ cmd with fail := some f }, h)
      | none =>
        match c.reserved w.jf1 w.module raw bs with
        | some d => some ({ cmd with fail := some (stBadReserved, d) }, h)
        | none =>
          match c.bad h.topology p w.jf1 w.module raw bs with
          | some d => some ({ cmd with fail := some (stBadDescriptor, d) }, h)
          | none =>
            let l := c.tds.map fun t => (t.1, t.2.1)
            some ({ cmd with tds := l.filter (·.1 < 16), extraTds := l.filter (16 ≤ ·.1), extra := c.block,
                             owners := c.owners.map fun o => (o.1, o.2.1), image := c.image.map parseImage }, h)

end Sys2Proof.Machine
end

