-- ==== Sys2Proof/Machine/Rings.lean ====
section
/-! DEFINITION. Doorbells, ring states, ring enables, record writes and completions (02 R43-R46, R50, R51, R62, R67-R71). -/

namespace Sys2Proof.Machine

/-! ## Doorbells (R43, R44, R350) -/

/-- A read of host memory that returned poison counts and is reported (R351). -/
def Hw.hostPoisonRead (h : Hw) (p a : Nat) (e : Env) : Hw :=
  if e.hostPoison then
    ((h.setHost p fun q => { q with poisonRx := satAdd q.poisonRx 1 }).evMod 0x0504 (srcBridge p) 0 a).reportAer p aerPoison
  else h

/-- SEQ and INDEX of a doorbell record that reads consistent; a failed, poisoned or partly written read gives none. -/
def Hw.readDoorbell (h : Hw) (p a : Nat) (e : Env) : Option (W32 × W32) :=
  let bs := h.hostRead p a 32
  if e.hostFail || e.hostPoison then none
  else if fld bs 0 4 = fld bs 0x1C 4 then some (BitVec.ofNat 32 (fld bs 0 4), BitVec.ofNat 32 (fld bs 4 4))
  else none

def WorkRing.size (w : WorkRing) : Nat := 2 ^ w.log2

/-- Take a consistent work-ring record: no update, a new TAIL, or an invalid TAIL that halts the ring (R44). -/
def Hw.takeTail (h : Hw) (r : Nat) (db : W32 × W32) : Hw :=
  let w := h.ring r
  if w.seqSeen = some db.1 then h.setRing r fun w => { w with misses := w.misses + 1 }
  else if (db.2 - w.head).toNat ≤ w.size then
    (h.setRing r fun w => { w with seqSeen := some db.1, tailSeen := db.2, misses := 0 }).devRing r
  else
    ((h.setRing r fun w => { w with drainWait := false }).setRingState r .halted).evRing r 0x0003
      (r + 2 ^ 32 * db.2.toNat) w.head.toNat

/-- A new polling interval begins: what was fetched since the half was last written after fetching is shown now (R45). -/
def Hw.pollTells (h : Hw) (r : Nat) : Hw :=
  let due := (h.ring r).due
  let h := h.setRing r fun w => { w with told := due, due := false }
  if due then h.devRing r else h

/-- Read a work ring's doorbell record and take what it holds. -/
def Hw.pollWork (h : Hw) (r : Nat) (e : Env) : Hw :=
  let w := h.ring r
  let e := h.readEnv (h.ringPort w) w.dbAddr.toNat 32 e
  let h := ((h.pollTells r).applyEnv e).hostPoisonRead (h.ringPort w) w.dbAddr.toNat e
  match h.readDoorbell (h.ringPort w) w.dbAddr.toNat e with
  | none => h.setRing r fun w => { w with misses := w.misses + 1 }
  | some db => h.takeTail r db

/-- WORK_DOORBELL_POLL (R46): polls pause while the port is down (R432) and while a DRAIN reads the record. -/
def execWorkDoorbellPoll (ring : Nat) (env : Env) (s : State) : Host.Outcome State Fault Refusal :=
  act (fun h =>
    let w := h.ring ring
    if w.state == .running && !w.drainWait && (h.host (h.ringPort w)).up then h.pollWork ring env else h) s

/-- Take a consistent completion- or event-ring record: a valid HEAD frees slots; an invalid one sets HEAD_ERR and writes one event
per update (R44, log 44). R65 names no source class of event rings: the event of one comes from its host bridge, class 6 (DESIGN
CHOICE; log 44). -/
def Hw.takeHead (h : Hw) (evt : Bool) (n : Nat) (db : W32 × W32) : Hw :=
  let o := h.outRing evt n
  if o.seqSeen = some db.1 ∨ o.badSeq = some db.1 then h.setOutRing evt n fun o => { o with misses := o.misses + 1 }
  else if (o.writeTail - db.2).toNat ≤ o.size ∧ (db.2 - o.headSeen).toNat ≤ o.size then
    let h := (h.setOutRing evt n fun o => { o with seqSeen := some db.1, badSeq := none, headSeen := db.2, misses := 0 }).devOut evt n
    if evt then h.flushLost n else h
  else
    let h := h.setOutRing evt n fun o => { o with headErr := true, badSeq := some db.1, misses := o.misses + 1 }
    if evt then h.evPort n 0x0004 (srcBridge n) (0x80 + n + 2 ^ 32 * db.2.toNat) o.writeTail.toNat
    else h.evCtx o.ctx 0x0004 (srcCpl n) (n + 2 ^ 32 * db.2.toNat) o.writeTail.toNat

/-- CPL_DOORBELL_POLL (R46): only while SIZE/4 or fewer slots are known to be free. -/
def execCplDoorbellPoll (evt : Bool) (ring : Nat) (env : Env) (s : State) : Host.Outcome State Fault Refusal :=
  act (fun h =>
    let o := h.outRing evt ring
    let p := h.outPort evt ring
    if o.en && decide (4 * (o.size - o.used) ≤ o.size) && (h.host p).up then
      let env := h.readEnv p o.dbAddr.toNat 32 env
      let h := (h.applyEnv env).hostPoisonRead p o.dbAddr.toNat env
      match h.readDoorbell p o.dbAddr.toNat env with
      | none => h
      | some db => h.takeHead evt ring db
    else h) s

/-! ## Completions -/

/-- HEADER_WAIT_TIMEOUT (R51, R86): the command ends TIMEOUT without having started. -/
def execHeaderWaitTimeout (ring : Nat) (s : State) : Host.Outcome State Fault Refusal :=
  act (fun h =>
    match (h.ring ring).fetched with
    | c :: rest =>
      if c.phase == .turn && c.waitEn && !c.satisfied then
        (h.setRing ring fun w => { w with fetched := rest }).complete ring (c.finish stTimeout 0)
      else h
    | [] => h) s

/-- Whether a command's status may still change: one of its accesses may yet end at a peer otherwise than acknowledged (R37, R247). -/
def Hw.mayLose (h : Hw) (order : Nat) : Bool :=
  h.accesses.any fun (a : Access) => a.order == order && (match a.home with | .host _ => false | _ => true)

/-- A finished command whose status is fixed and whose writes are not all acknowledged makes its header signal, unless SIG_REL holds it
back (R51). -/
def Hw.signalEarly (h : Hw) (r : Nat) (c : Cmd) : Hw :=
  if c.sigRel || c.signalled || h.mayLose c.order then h
  else
    let x := h.headerSignal r c
    x.2.setCmd r c.index fun _ => { x.1 with signalled := true }

/-- CPL_RECORD_WRITE (R59, R62): the oldest waiting record of a work ring is written once its ring has room and its command's writes
are acknowledged. -/
def execCplRecordWrite (ring : Nat) (s : State) : Host.Outcome State Fault Refusal :=
  act (fun h =>
    let w := h.ring ring
    let o := w.recordRing
    match w.records with
    | rb :: rest =>
      if h.canRecord o.1 o.2 && !h.awaits rb.order then
        ((h.setRing ring fun w => { w with records := rest }).putRecord o.1 o.2 rb.bytes).stopIfDrained ring
      else h
    | [] => h) s

/-- IRQ_DELAY_EXPIRY (R71): the delay since the first record not yet interrupted ends. -/
def execIrqDelayExpiry (evt : Bool) (ring : Nat) (s : State) : Host.Outcome State Fault Refusal :=
  act (fun h =>
    let o := h.outRing evt ring
    if o.irqTimer then
      (h.setOutRing evt ring fun o => { o with unIrq := 0, irqTimer := false }).msixSend (h.outPort evt ring) o.vector
    else h) s

/-! ## Ring commands of CTL.CMD (R69, R71) -/

def Hw.ringCmdErr (h : Hw) (r : Nat) : Hw := h.setRing r fun w => { w with cmdErr := true }

/-- START_CAUSE, its checks in ascending order; 0 when START is accepted (R71). A ring counts among the 8 of its context while it is not
STOPPED, which R40 leaves open (DESIGN CHOICE; log 45). -/
def Hw.startCause (h : Hw) (port r : Nat) : Nat :=
  let w := h.ring r
  let c := h.ctx w.ctx
  let o := h.outRing false w.cpl
  let mates := (h.ctxRings w.ctx).filter (· != r)
  if w.log2 < 6 ∨ 16 < w.log2 then 1
  else if w.base.toNat ≥ 2 ^ 57 ∨ w.dbAddr.toNat ≥ 2 ^ 57 then 2
  else if w.module then
    if (List.range 128).any fun k => let v := h.ring k; k != r && v.module && v.state != .stopped && v.port == port then 7 else 0
  else if !(c.state == .opened || c.state == .active) then 3
  else if w.overlap && !c.plan.expert then 4
  else if !o.en || o.ctx != w.ctx || mates.any fun k => (h.ring k).cpl != w.cpl then 5
  else if 8 ≤ mates.length then 6
  else 0

/-- RING_START (R69): RUNNING with fetching from HEAD and the doorbell read at once, or START_ERR. -/
def execRingStart (port ring : Nat) (env : Env) (s : State) : Host.Outcome State Fault Refusal :=
  actFrom port (ringOff ring) (fun h =>
    let w := h.ring ring
    if w.state != .stopped then h.ringCmdErr ring
    else
      let cause := h.startCause port ring
      if cause ≠ 0 then h.setRing ring fun w => { w with startErr := true, startCause := cause }
      else
        let h := h.setRing ring fun w =>
          { w with startCause := 0, tailSeen := w.head, seqSeen := none, misses := 0, port := port, limit := none,
                   drainWait := false, fetched := [] }
        let h := h.setRingState ring .running
        let h := if !w.module && (h.ctx w.ctx).state == .opened then h.setCtx w.ctx fun c => { c with state := .active } else h
        if (h.host (h.ringPort (h.ring ring))).up then h.pollWork ring env else h.applyEnv env) s

/-- RING_STOP (R69). -/
def execRingStop (port ring : Nat) (s : State) : Host.Outcome State Fault Refusal :=
  actFrom port (ringOff ring) (fun h =>
    let st := (h.ring ring).state
    if st == .running || st == .halted then h.drainStarted ring else h.ringCmdErr ring) s

/-- The doorbell read of a DRAIN: DRAINING with the accepted TAIL as limit, HALTED on an invalid TAIL, or read again. -/
def Hw.drainRead (h : Hw) (r : Nat) (e : Env) : Hw :=
  let w := h.ring r
  let e := h.readEnv (h.ringPort w) w.dbAddr.toNat 32 e
  let h := (h.applyEnv e).hostPoisonRead (h.ringPort w) w.dbAddr.toNat e
  match h.readDoorbell (h.ringPort w) w.dbAddr.toNat e with
  | none => h.setRing r fun w => { w with drainWait := true }
  | some db =>
    let h := h.takeTail r db
    if (h.ring r).state == .running then
      let h := h.setRing r fun w => { w with drainWait := false, limit := some w.tailSeen }
      (h.setRingState r .draining).stopIfDrained r
    else h

/-- RING_DRAIN (R69). -/
def execRingDrain (port ring : Nat) (env : Env) (s : State) : Host.Outcome State Fault Refusal :=
  actFrom port (ringOff ring) (fun h =>
    let w := h.ring ring
    if w.state != .running then h.ringCmdErr ring
    else if (h.host (h.ringPort w)).up then h.drainRead ring env
    else h.setRing ring fun w => { w with drainWait := true }) s

/-- DRAIN_POLL (R69): every 500 ns until a consistent record is read. -/
def execDrainPoll (ring : Nat) (env : Env) (s : State) : Host.Outcome State Fault Refusal :=
  act (fun h =>
    let w := h.ring ring
    if w.state == .running && w.drainWait && (h.host (h.ringPort w)).up then h.drainRead ring env else h) s

/-- RING_RESUME (R69). -/
def execRingResume (port ring : Nat) (s : State) : Host.Outcome State Fault Refusal :=
  actFrom port (ringOff ring) (fun h =>
    if (h.ring ring).state == .halted then
      (h.setRing ring fun w => { w with misses := 0 }).setRingState ring .running
    else h.ringCmdErr ring) s

/-! ## Enabling completion and event rings (R71, R67) -/

/-- The fields of a CFG write (R71). CONTEXT is reserved in an event ring. -/
def OutRing.withCfg (o : OutRing) (evt : Bool) (v : Nat) : OutRing :=
  { o with ctx := if evt then 0 else bits v 11 8, log2 := bits v 15 12, irqEn := v.testBit 16, vector := bits v 27 17 }

/-- Whether a write that sets EN is accepted. -/
def Hw.enOk (h : Hw) (evt : Bool) (n v : Nat) : Bool :=
  let o := h.outRing evt n
  let code := bits v 15 12
  decide (o.base.toNat < 2 ^ 57) && decide (o.dbAddr.toNat < 2 ^ 57) && decide (code ≤ 10) && (!evt || decide (2 ≤ code)) &&
  (evt || !((List.range 16).any fun k => let p := h.outRing false k; k != n && p.en && p.ctx == bits v 11 8))

/-- Set EN: the ring restarts, and an event ring releases the events held before its first EN (R67, R71). -/
def Hw.enableOut (h : Hw) (evt : Bool) (n v : Nat) : Hw :=
  if !h.enOk evt n v then h
  else
    let held := (h.outRing evt n).held
    let h := h.setOutRing evt n fun o =>
      { o.withCfg evt v with en := true, everEn := true, writeTail := 0, headSeen := 0, seqSeen := none, badSeq := none,
                             misses := 0, unIrq := 0, irqTimer := false, held := [] }
    let h := h.devOut evt n
    if evt then (held.foldl (fun h rb => h.putRecord true n rb) h).flushLost n else h

/-- RING_EN_SET (R71): no effect while EN is 1 already. -/
def execRingEnSet (evt : Bool) (ring : Nat) (value : W32) (s : State) : Host.Outcome State Fault Refusal :=
  actReg (outOff evt ring) (fun h =>
    if !value.getLsbD 0 || (h.outRing evt ring).en then h else h.enableOut evt ring value.toNat) s

/-- A CFG write with EN 0: clears EN alone while EN is 1, and writes the other fields while it is 0 (R71). Records not yet interrupted
get no interrupt once EN is cleared, of which R71 says nothing (DESIGN CHOICE; log 45). -/
def Hw.cfgNoEn (h : Hw) (evt : Bool) (n v : Nat) : Hw :=
  if (h.outRing evt n).en then
    (h.setOutRing evt n fun o => { o with en := false, irqTimer := false, unIrq := 0 }).devOut evt n
  else h.setOutRing evt n fun o => o.withCfg evt v

/-- RING_EN_CLEAR (R71). -/
def execRingEnClear (evt : Bool) (ring : Nat) (value : W32) (s : State) : Host.Outcome State Fault Refusal :=
  actReg (outOff evt ring) (fun h => if value.getLsbD 0 then h else h.cfgNoEn evt ring value.toNat) s

/-! ## NOP and FENCE (R50) -/

/-- Run `f` on a started command of an opcode; nothing happens where there is none. -/
def Hw.onCmd (h : Hw) (r : Nat) (i : W32) (op : Nat) (f : Cmd → Hw) : Hw :=
  match h.cmd r i with
  | some c => if (c.phase == .started || c.phase == .blocked) && c.opcode == op then f c else h
  | none => h

/-- Fix a running command's status. -/
def Hw.finishCmd (h : Hw) (r : Nat) (i : W32) (status detail : Nat) : Hw := h.setCmd r i fun c => c.finish status detail

/-- NOP (R50): completes at once with OK. -/
def execNop (ring : Nat) (index : W32) (s : State) : Host.Outcome State Fault Refusal :=
  act (fun h => h.onCmd ring index 0x00 fun _ => h.finishCmd ring index stOk 0) s

/-- Whether every command of a ring that started before one has completed. -/
def WorkRing.firstRunning (w : WorkRing) (i : W32) : Bool :=
  match w.running with
  | c :: _ => c.index == i
  | [] => true

/-- FENCE (R50): completes when every earlier command of its ring has completed and had its record written. -/
def execFence (ring : Nat) (index : W32) (s : State) : Host.Outcome State Fault Refusal :=
  act (fun h => h.onCmd ring index 0x01 fun _ =>
    let w := h.ring ring
    if w.firstRunning index && w.records.isEmpty then h.finishCmd ring index stOk 0 else h) s

end Sys2Proof.Machine
end

