-- ==== Sys2Proof/Machine/Issue.lean ====
section
/-! DEFINITION. Fetching descriptors and starting commands (02 R45, R50, R51, R54; 04 R111, R114; 05 R139-R142; 07 R192-R197,
R202, R474; 11 R287; 12 R321, R325; 15 R364, R373). -/

namespace Sys2Proof.Machine

/-! ## DESCRIPTOR_FETCH -/

/-- Whether a ring has a descriptor left to fetch: below the accepted TAIL, or below its limit while it drains (R45, R69). -/
def WorkRing.canFetch (w : WorkRing) : Bool :=
  if w.state == .running then w.head != w.tailSeen
  else if w.state == .draining then (match w.limit with | some l => w.head != l | none => false)
  else false

/-- A fetched command goes behind the others. The half of the doorbell record shows it at once, or at the next poll where it was
already written after fetching in this polling interval (R45). -/
def Hw.putFetched (h : Hw) (r : Nat) (c : Cmd) : Hw :=
  let told := (h.ring r).told
  let h := h.setRing r fun w => { w with fetched := w.fetched ++ [c], head := w.head + 1, told := true, due := told }
  if told then h else h.devRing r

/-- Fetch the descriptor at HEAD and check it. -/
def Hw.fetchOne (h : Hw) (r : Nat) (e : Env) : Option Hw :=
  let w := h.ring r
  let p := h.ringPort w
  let n := if w.jf1 then 32 else 64
  let a := w.base.toNat + n * (w.head.toNat % w.size)
  let e := h.readEnv p a n e
  let h := (h.applyEnv e).hostPoisonRead p a e
  let put (h : Hw) (c : Cmd) : Hw := h.putFetched r c
  if e.hostFail && !e.hostPoison then
    some (put h { index := w.head, jf1 := w.jf1, bytes := zeros 64, fail := some (badXlat a) })
  else
    match h.checkDescriptor r w.head (h.hostRead p a n) e.hostPoison e with
    | some (c, h) => some (put h c)
    | none => none

/-- DESCRIPTOR_FETCH (R45, R54). Where a structure lies behind a link that cannot go now, the fetch waits (R54). -/
def execDescriptorFetch (ring : Nat) (env : Env) (s : State) : Host.Outcome State Fault Refusal :=
  act (fun h =>
    let w := h.ring ring
    if w.canFetch && (h.host (h.ringPort w)).up then (h.fetchOne ring env).getD h else h) s

/-! ## Places and engines -/

/-- The home die of a CVA's byte when it lies on this module (R111, R137). -/
def Hw.homeOf (h : Hw) (n : Nat) (sram : Bool) (cva : Nat) : Option Nat :=
  match h.translate 16 n cva false with
  | .ok (.own k _, _) => if sram && keySpace k != 1 then none else some (h.homeDie k)
  | _ => none

/-- The die an EXEC field names; AUTO takes the first of the CVAs whose byte is on this module, or CD0. -/
def Hw.execDie (h : Hw) (n exec : Nat) (sram : Bool) (cvas : List Nat) : Nat :=
  if exec ≠ 0 then exec - 1 else (cvas.findSome? fun a => h.homeOf n sram a).getD 0

/-- One block of an owner table, or a plain tensor's whole. -/
inductive Blk where
  | own (value scale : Nat)
  | peer (c : Coord) (die value scale : Nat)
  | invalid
  deriving DecidableEq, Repr

/-- An entry of an owner table (R108, R110). A VALUE_CVA that is not aligned to B is used as it stands: R110 calls only reserved
fields and the die invalid (DESIGN CHOICE; log 52). -/
def parseEntry (self : Coord) (scaled : Bool) (bs : List Byte) : Blk :=
  let o := fld bs 0 4
  if bits o 31 22 ≠ 0 ∨ fld bs 4 4 ≠ 0 ∨ fld bs 0x18 8 ≠ 0 ∨ (!scaled && fld bs 0x10 8 != 0) = true then .invalid
  else if BitVec.ofNat 18 o = self then .own (fld bs 8 8) (fld bs 0x10 8)
  else .peer (BitVec.ofNat 18 o) (bits o 21 18) (fld bs 8 8) (fld bs 0x10 8)

/-- The CVA of a tensor's first byte where it is in the context's own memory; of an owned one, that of block 0 where this module owns
it (R111). -/
def Hw.firstOf (h : Hw) (n : Nat) (e : Env) (t : TD) : List Nat :=
  if !t.owned then [t.base.toNat]
  else
    let x := ({ h := h, env := e, ctx := n } : Run).read (t.base.toNat + 0x40) 32
    match parseEntry h.self (t.scaleFmt != 0) x.1.1 with
    | .own v _ => if x.2.ok then [v] else []
    | _ => []

/-- The CVAs of the first bytes of some tensors of a command, in this order. -/
def Hw.firsts (h : Hw) (n : Nat) (e : Env) (c : Cmd) (ks : List Nat) : List Nat :=
  ks.flatMap fun k => match slotTd c.tds k with | some t => h.firstOf n e t | none => []

/-- The CVA of the first byte of a tensor in the context's own memory. -/
def firstByte (l : List (Nat × TD)) (k : Nat) : List Nat :=
  match slotTd l k with
  | some t => if t.owned then [] else [t.base.toNat]
  | none => []

/-- Engine numbers of a die in the order of KS0.RESET.INDEX: copy 0-1, gather 2-5, prefetch 6, reduction 7 (R386). -/
def engineNumber : EngineId → Nat
  | .copy _ n => n
  | .gather _ n => 2 + n
  | .prefetch _ => 6
  | _ => 7

def engineDie : EngineId → Nat
  | .copy d _ => d
  | .gather d _ => d
  | .prefetch d => d
  | .reduction d => d
  | .array d _ => d
  | .vector d _ => d
  | .hbm d => d
  | .ringLogic _ => 0

def isCopy : EngineId → Bool
  | .copy _ _ => true
  | _ => false

/-- Commands that wait for an engine of a kind on a die: their places in start order. -/
def Hw.engineWaiters (h : Hw) (copy : Bool) (die : Nat) : List Nat :=
  h.rings.flatMap fun w => (w.running.filter fun c =>
    c.wantsEngine && (match c.engine with | some e => isCopy e == copy && engineDie e == die | none => false)).map (·.order)

/-- Take an engine for a command if one is free and no earlier command waits for one (R111). -/
def Hw.takeEngine (h : Hw) (r : Nat) (c : Cmd) (copy : Bool) (die : Nat) : Cmd × Hw :=
  let want : EngineId := if copy then .copy die 0 else .gather die 0
  match h.freeEngine copy die with
  | some e =>
    if (h.engineWaiters copy die).any (· < c.order) then ({ c with engine := some want, wantsEngine := true }, h)
    else ({ c with engine := some e, wantsEngine := false },
          h.setAux die fun a => { a with holders := a.holders ++ [(engineNumber e, (r, c.index))] })
  | none => ({ c with engine := some want, wantsEngine := true }, h)

/-- ENGINE_ACQUIRE (R111): a command that waits takes a free engine, in start order. -/
def execEngineAcquire (ring : Nat) (index : W32) (s : State) : Host.Outcome State Fault Refusal :=
  act (fun h =>
    match h.cmd ring index with
    | some c =>
      match c.engine with
      | some e => if c.wantsEngine then let x := h.takeEngine ring c (isCopy e) (engineDie e); x.2.setCmd ring index fun _ => x.1 else h
      | none => h
    | none => h) s

/-! ## Footprints (R104, R114, R142) -/

/-- Groups from the first to the last of a tensor. -/
def TD.extentGroups (t : TD) : Nat :=
  ((List.range (t.rank - 1)).map fun d => (t.size (d + 1) - 1) * t.stride (d + 1)).sum + t.cg

/-- The CVA intervals of a tensor. -/
def TD.footprint (t : TD) : List (Nat × Nat) :=
  let g := t.extentGroups
  (t.base.toNat, t.base.toNat + g * t.b) ::
  (if t.scaleFmt = 0 then [] else [(t.scaleBase.toNat, t.scaleBase.toNat + g)])

def meets (a b : List (Nat × Nat)) : Bool := a.any fun x => b.any fun y => decide (x.1 < y.2) && decide (y.1 < x.2)

def tdMeets (a b : TD) : Bool := meets a.footprint b.footprint

/-- Identical in every field except COARSE_SCALE. -/
def sameTd (a b : TD) : Bool := { a with coarse := 0 } == { b with coarse := 0 }

/-! ## Programs at start (R202, R364, R474) -/

/-- The working tiles of a mask (R364). -/
def Hw.workTiles (h : Hw) (die mask : Nat) : List Nat :=
  (List.range 16).filter fun t => mask.testBit t && !(h.die die).retiredTiles.testBit t

/-- The program a slot holds on a tile under a context; with `broken`, also after a parity error. -/
def Hw.slotProgram (h : Hw) (die tile slot n : Nat) (broken : Bool) : Option Image :=
  match (h.tile die tile).slots.find? (·.1 == slot) with
  | some x => if x.2.ctx = n ∧ x.2.epoch = (h.ctx n).epoch ∧ (x.2.broken → broken) then some x.2.image else none
  | none => none

/-- The program that a command starting now finds in a slot. -/
def Hw.program (h : Hw) (die tile slot n : Nat) : Option Image := h.slotProgram die tile slot n false

/-- Whether a command's program slot met a parity error on a tile. -/
def Cmd.spoiledOn (c : Cmd) (die tile : Nat) : Bool := c.spoiled.contains (die, tile)

/-- The program that a started command runs on a tile: a parity error leaves it the slot it started with (R350). -/
def Hw.programOf (h : Hw) (c : Cmd) (die tile slot n : Nat) : Option Image := h.slotProgram die tile slot n (c.spoiledOn die tile)

/-- Whether a started LOAD_PROGRAM still has to load a slot on a tile, for which later starts wait (R202). -/
def Hw.loadPending (h : Hw) (die tile slot : Nat) : Bool :=
  h.rings.any fun w => w.running.any fun c =>
    c.opcode == 0x12 && c.phase == .started && c.f 0x20 1 == slot &&
    (match c.work with | .load l => l.contains (die, tile) | _ => false)

/-- How a start ends when it does not go: STATE_CONFLICT, a status of steps 1 to 4, or one of step 6. -/
inductive Halt where
  | conflict (reason : Nat)
  | refuse (status detail : Nat)
  | ends (status detail : Nat)
  deriving DecidableEq, Repr

def statsShape (o : TD) : List Nat := [2, if o.rank = 1 then 1 else o.size 1, (o.size 0 + 127) / 128] ++ o.dims.drop 2

/-- The checks of a statistics TD (R192). -/
def statsBad (t o : TD) (layout : Nat) : List (Bool × Nat) :=
  (tdBad t layout true true).map (fun x => (x.1, tdDetail 3 + x.2)) ++
  [(t.elem != 0 || t.scaleFmt != 0, tdDetail 3 + 1), (t.owned, tdDetail 3 + 3)] ++ sizesBad 3 t (statsShape o)

/-- Read the statistics TDs of the images on some tiles, ascending (R474 step 2). -/
def Hw.statsTds (h : Hw) (n : Nat) (e : Env) (o : TD) (ims : List (Nat × Image)) : Except (Option Halt) (List (Nat × TD)) :=
  ims.foldl (fun acc x =>
    match acc with
    | .error f => .error f
    | .ok l =>
      if !x.2.stats then .ok l
      else
        let a := x.2.statsTd.toNat
        if a % 64 ≠ 0 then .error (some (.refuse stBadDescriptor 0x610))
        else
          let c : Chk := { r := { h := h, env := e, ctx := n } }
          let y := c.get a 64
          let c := y.2.version y.1
          if c.r.waits then .error none
          else match c.stop with
          | some f => .error (some (.refuse f.1 f.2))
          | none =>
            let t := parseTd y.1
            match firstMasked y.1 (tdMasks t) with
            | some d => .error (some (.refuse stBadReserved (tdDetail 3 + d)))
            | none =>
              match firstBad (statsBad t o (fld y.1 2 1 / 16)) with
              | some d => .error (some (.refuse stBadDescriptor d))
              | none => .ok (l ++ [(x.1, t)])) (.ok [])

/-- Residency, statistics TDs and LDX rules of a program on the tiles of a mask (R474). -/
def Hw.programCheck (h : Hw) (c : Cmd) (n die slot mask auxOff : Nat) (o : TD) (e : Env) :
    Except (Option Halt) (List (Nat × TD)) :=
  let ims := (h.workTiles die mask).map fun t => (t, h.program die t slot n)
  if (h.workTiles die mask).any fun t => h.loadPending die t slot then .error none
  else if ims.any fun x => x.2.isNone then .error (some (.conflict 0x0503))
  else
    let ims := ims.filterMap fun x => x.2.map fun i => (x.1, i)
    match h.statsTds n e o ims with
    | .error f => .error f
    | .ok l =>
      match slotTd c.tds 5 with
      | none => if ims.any (·.2.ldx) then .error (some (.refuse stBadDescriptor (bodyDetail c.jf1 c.opcode auxOff))) else .ok l
      | some a =>
        -- with LDX, the output may not meet the identical AUX tensor in an ELEMENT; a register has no footprint (R197)
        if c.opcode = 0x11 ∧ (c.f 0x36 1).testBit 3 = false ∧ (ims.any (·.2.ldx) && tdMeets o a && sameTd o a) = true then
          .error (some (.refuse stBadDescriptor (tdDetail 5 + 0x2E)))
        else if ims.any (fun x => !x.2.ldx) && a.size 0 != o.size 0 then .error (some (.refuse stBadDescriptor (tdDetail 5 + 0x2E)))
        else .ok l

/-! ## Collectives and loss-scale agreements running (R287, R323, R380) -/

/-- The collective body a command runs: its own, or the nested one of AS_TWIN. -/
def Cmd.collBytes (c : Cmd) : Option (List Byte × Bool) :=
  let coll (b : List Byte) : Bool :=
    let o := fld b 0 1
    o == 0x18 || o == 0x19 || o == 0x1A || (o == 0x21 && fld b 0x18 1 == 1)
  if coll c.bytes then some (c.bytes, false)
  else if c.opcode = 0x33 ∧ fld c.bytes 0x18 1 = 3 ∧ coll c.extra = true then some (c.extra, true)
  else none

/-- COLL_ID and STEP of a collective body. -/
def collKey (b : List Byte) : Nat × Nat := if fld b 0 1 = 0x21 then (fld b 0x1A 2, fld b 0x1C 4) else (fld b 0x28 2, fld b 0x2C 4)

/-- Whether another collective of the context with this COLL_ID is running; a collective and its AS_TWIN counterpart do not
count against each other (R380). -/
def Hw.collBusy (h : Hw) (n : Nat) (b : List Byte) (twin : Bool) : Bool :=
  h.rings.any fun w => !w.module && w.ctx == n && w.running.any fun c =>
    c.phase != .done && (match c.collBytes with
      | some (b', t') => (collKey b').1 == (collKey b).1 && !(t' != twin && collKey b' == collKey b)
      | none => false)

/-- The start checks of a collective body. -/
def Hw.collCheck (h : Hw) (n : Nat) (b : List Byte) (twin : Bool) (l : List (Nat × TD)) : Option Halt :=
  let p := (h.ctx n).plan
  let key := collKey b
  if fld b 0 1 = 0x21 then
    if key.2 ≤ (h.ctx n).loss.decided then some (.conflict 0x0C01)
    else if h.collBusy n b twin then some (.conflict 0x0B01) else none
  else
    let s := (slotTd l 0).getD {}
    let d := (slotTd l 1).getD {}
    if (fld b 0x2B 1).testBit 1 && !p.expert then some (.conflict 0x0105)
    else if h.collBusy n b twin then some (.conflict 0x0B01)
    else if tdMeets s d && !(fld b 0 1 == 0x18 && fld b 0x31 1 == 1 && sameTd s d) then some (.ends 0x0D 0)
    else none

/-! ## Start checks by opcode -/

/-- A started command, ready to run: its work, and the engine it asks for. -/
structure Ready where
  cmd : Cmd
  want : Option (Bool × Nat) := none
  hold : Option Nat := none

/-- What a start gives: the command ready, an end, or nothing yet because a read waits. -/
abbrev StartResult := Except (Option Halt) Ready

def Hw.startMatmul (h : Hw) (n : Nat) (c : Cmd) (e : Env) : StartResult :=
  let p := (h.ctx n).plan
  let fl := c.f 0x3C 2
  let paged := fl.testBit 4
  let popB := fl.testBit 5
  let slot := c.f 0x3E 1
  let q := h.seq slot
  let t (k : Nat) := (slotTd c.tds k).getD {}
  let o := t 1
  if bits fl 2 1 ≠ 0 ∧ p.expert = false then .error (some (.conflict 0x0105))
  else if paged && !(decide (p.seqBase ≤ slot) && decide (slot < p.seqBase + p.seqCount)) then .error (some (.conflict 0x0501))
  else if paged && q.state == .free then .error (some (.conflict 0x0502))
  else
    let die := h.execDie n (c.f 0x3A 1) true (if paged && !popB then [] else firstByte c.tds 0)
    let mask := c.f 0x38 2
    if (h.workTiles die mask).isEmpty then .error (some (.conflict 0x0F01))
    else
      match (if c.f 0x3B 1 = 0xFF then .ok [] else h.programCheck c n die (c.f 0x3B 1) mask 0x30 o e) with
      | .error f => .error f
      | .ok st =>
        let ops := (if paged && !popB then [] else [t 0]) ++ (if paged && popB then [] else [t 4])
        let aux := (slotTd c.tds 5).toList
        if ops.any (tdMeets o) || aux.any (fun a => tdMeets o a && !sameTd o a) ||
           st.any (fun s => (o :: ops ++ aux).any (tdMeets s.2)) then .error (some (.ends 0x0D 0))
        else .ok { cmd := { c with extraTds := st, work := .matmul die [] [] (if paged then (q.length + 15) / 16 else 0) },
                   hold := if paged then some slot else none }

def Hw.startElement (h : Hw) (n : Nat) (c : Cmd) (e : Env) : StartResult :=
  let fl := c.f 0x36 1
  let mode := c.f 0x34 1
  let sd := elementTds c.bytes c.tds
  let die := h.execDie n (c.f 0x3A 1) true (if fl.testBit 2 then [] else firstByte c.tds 0)
  let mask := c.f 0x38 2
  if (h.workTiles die mask).isEmpty then .error (some (.conflict 0x0F01))
  else
    match (if mode ≠ 0 then .ok [] else h.programCheck c n die (c.f 0x35 1) mask 0x28 sd.2 e) with
    | .error f => .error f
    | .ok st =>
      let src := if fl.testBit 2 then [] else [sd.1]
      let dst := if fl.testBit 3 then [] else [sd.2]
      let aux := (slotTd c.tds 5).toList
      let idx := (slotTd c.tds 2).toList
      if dst.any (fun d => src.any (fun s => tdMeets d s && !sameTd d s) || aux.any (fun a => tdMeets d a && !sameTd d a)) ||
         idx.any (fun i => (src ++ dst ++ aux).any (tdMeets i)) ||
         st.any (fun s => (src ++ dst ++ aux).any (tdMeets s.2)) then .error (some (.ends 0x0D 0))
      else .ok { cmd := { c with extraTds := st, work := .element [die] [] } }

def Hw.startUpdate (h : Hw) (n : Nat) (c : Cmd) : StartResult :=
  let dies := if c.f 0x34 1 = 0 then List.range 16 else [c.f 0x34 1 - 1]
  let mask := c.f 0x32 2
  let tiles := dies.flatMap fun d => (h.workTiles d mask).map fun t => (d, t)
  if c.f 0x20 4 < (h.ctx n).loss.decided then .error (some (.conflict 0x0C01))
  else if tiles.isEmpty then .error (some (.conflict 0x0F01))
  else if tiles.any fun x => h.loadPending x.1 x.2 (c.f 0x30 1) then .error none
  else
    let ims := tiles.map fun x => h.program x.1 x.2 (c.f 0x30 1) n
    if ims.any (·.isNone) then .error (some (.conflict 0x0503))
    else if ims.any fun x => match x with | some i => i.stats || i.intResult || i.ldx | none => false then .error (some (.conflict 0x0C05))
    else
      let l := c.tds.map (·.2)
      if l.zipIdx.any fun x => (l.drop (x.2 + 1)).any (tdMeets x.1) then .error (some (.ends 0x0D 0))
      else .ok { cmd := { c with work := .element dies [] } }

def Hw.startLoad (h : Hw) (n : Nat) (c : Cmd) : StartResult :=
  let dies := if c.f 0x21 1 = 0 then List.range 16 else [c.f 0x21 1 - 1]
  let slot := c.f 0x20 1
  let tiles := dies.flatMap fun d => (h.workTiles d (c.f 0x22 2)).map fun t => (d, t)
  let other (s : Slot) : Bool := !s.broken && s.ctx != n && (h.ctx s.ctx).state != .free && s.epoch == (h.ctx s.ctx).epoch
  if tiles.isEmpty then .error (some (.conflict 0x0F01))
  else if tiles.any fun x => match (h.tile x.1 x.2).slots.find? (·.1 == slot) with | some s => other s.2 | none => false then
    .error (some (.conflict 0x0701))
  else .ok { cmd := { c with work := .load tiles } }

/-! ### Sequence commands: START 0, PARAMS 1, ADVANCE 2 and FINISH 3 of SEQ_SET, and SEQ_RETIRE (R331, R334-R336) -/

/-- OP of a SEQ_SET, and 4 for a SEQ_RETIRE. -/
def Cmd.seqOp (c : Cmd) : Nat := if c.opcode = 0x29 then 4 else c.f 0x18 1

/-- The slots that a sequence command names. -/
def Cmd.seqRange (c : Cmd) : List Nat := (List.range (if c.seqOp < 2 then 1 else c.f 0x1A 2)).map (c.f 0x19 1 + ·)

/-- The reason for which a slot refuses a sequence command (R335). -/
def Cmd.seqRefuse (c : Cmd) (q : SeqSlot) : Option Nat :=
  if c.seqOp = 0 then (if q.state == .free then none else some 0x0D01)
  else if c.seqOp = 1 then (if q.state == .free then some 0x0502 else none)
  else if c.seqOp = 4 then (if q.holds.isEmpty then none else some 0x0D02)
  else none

/-- Whether a sequence command changes a slot: ADVANCE and FINISH leave one that is not ACTIVE, and SEQ_RETIRE one that is FREE. -/
def Cmd.seqTakes (c : Cmd) (q : SeqSlot) : Bool :=
  if c.seqOp < 2 then true else if c.seqOp = 4 then q.state != .free else q.state == .active

/-- A slot after a sequence command. -/
def Cmd.seqChange (c : Cmd) (q : SeqSlot) : SeqSlot :=
  let q1 : SeqSlot := { q with temperature := BitVec.ofNat 32 (c.f 0x2C 4), topK := c.f 0x30 1, seed := BitVec.ofNat 32 (c.f 0x34 4) }
  if c.seqOp = 0 then
    { q1 with state := if c.f 0x28 4 = c.f 0x1C 4 then .done else .active, length := c.f 0x28 4, limit := c.f 0x1C 4
              pageList := BitVec.ofNat 64 (c.f 0x20 8) }
  else if c.seqOp = 1 then q1
  else if c.seqOp = 2 then
    let l := min (q.length + c.f 0x1C 4) q.limit
    { q with length := l, state := if l = q.limit then .done else .active }
  else if c.seqOp = 3 then { q with state := .done }
  else { q with state := .free }

/-- A sequence command starts: its checks of step 5 over the whole range, and the slots that it changes (R331, R335). -/
def Hw.startSequence (h : Hw) (n : Nat) (c : Cmd) : StartResult :=
  let p := (h.ctx n).plan
  let slots := c.seqRange
  if slots.any fun k => decide (k < p.seqBase) || decide (p.seqBase + p.seqCount ≤ k) then .error (some (.conflict 0x0501))
  else match slots.findSome? fun k => c.seqRefuse (h.seq k) with
  | some reason => .error (some (.conflict reason))
  | none => .ok { cmd := { c with work := .seq (slots.filter fun k => c.seqTakes (h.seq k)) } }

/-- The start of a sequence command changes its slots, all at once (R331). -/
def Hw.changeSlots (h : Hw) (c : Cmd) : Hw :=
  match c.work with
  | .seq ks => ks.foldl (fun h k => h.setSeq k c.seqChange) h
  | _ => h

/-- The start checks of a command: what step 5 and the program checks leave for the start, and OVERLAP. -/
def Hw.startOf (h : Hw) (r : Nat) (c : Cmd) (e : Env) : StartResult :=
  let w := h.ring r
  let n := w.ctx
  let p := (h.ctx n).plan
  let op := c.opcode
  let go : StartResult := .ok { cmd := c }
  let engine (copy : Bool) (exec : Nat) (cvas : List Nat) : StartResult :=
    .ok { cmd := c, want := some (copy, h.execDie n exec false cvas) }
  if w.module && h.flash.oos && !(op == 0 || op == 1 || op == 0x30 || op == 0x34) then .error (some (.conflict 0x0F02))
  else if op = 0x08 then
    let s := (slotTd c.tds 0).getD {}
    let d := (slotTd c.tds 1).getD {}
    if copyPerm c.bytes s.rank != List.range s.rank && tdMeets s d then .error (some (.ends 0x0D 0))
    else engine true (c.f 0x2D 1) (h.firsts n e c [1, 0])
  else if op = 0x09 then engine false (c.f 0x34 1) (h.firsts n e c [1, 0])
  else if op = 0x0A then
    if (c.f 0x31 1).testBit 1 && !p.expert then .error (some (.conflict 0x0105))
    else engine false (c.f 0x34 1) (h.firsts n e c [1, 0])
  else if op = 0x0B then engine true (c.f 0x29 1) (h.firsts n e c [1])
  else if op = 0x10 then h.startMatmul n c e
  else if op = 0x11 then h.startElement n c e
  else if op = 0x12 then h.startLoad n c
  else if op = 0x28 ∨ op = 0x29 then h.startSequence n c
  else if op = 0x21 ∧ c.f 0x18 1 = 0 then .ok { cmd := { c with work := .exp (h.ctx n).loss.exp } }
  else if op = 0x20 then h.startUpdate n c
  else if op = 0x18 ∨ op = 0x19 ∨ op = 0x1A ∨ op = 0x21 ∧ c.f 0x18 1 = 1 then
    match h.collCheck n c.bytes false c.tds with
    | some f => .error (some f)
    | none => .ok { cmd := { c with work := .coll ((List.range 16).map fun d => { die := d }) } }
  else if op = 0x33 && (!p.twinEn || h.twin.isNone) then .error (some (.conflict 0x0F07))
  else if op = 0x33 ∧ c.f 0x18 1 = 3 then
    if !(h.ctx n).standin then .error (some (.conflict 0x0F09))
    else match c.collBytes with
    | none => go
    | some b =>
      match h.collCheck n b.1 true c.tds with
      | some f => .error (some f)
      | none => .ok { cmd := { c with work := .coll ((List.range 16).map fun d => { die := d }) } }
  else if op = 0x33 ∧ c.f 0x18 1 ≤ 1 then
    engine true 0 (firstByte c.tds 1 ++ firstByte c.tds 0)
  else go

/-! ## COMMAND_START -/

/-- An acquire: the remote caches of all dies are invalidated (R87). -/
def Hw.acquire (h : Hw) : Hw :=
  { h with dies := h.dies.map fun (d : Die) => { d with rcLines := [], rcInvals := d.rcInvals + 1 } }

/-- Whether the order of R50, BARRIER and the hold of R62 let the next command of a ring reach its turn. -/
def Hw.turnOk (h : Hw) (r : Nat) (c : Cmd) : Bool :=
  let w := h.ring r
  let live := w.state == .running || (w.state == .draining && w.limit.isSome)
  let overlap := w.overlap && !w.module && (h.ctx w.ctx).plan.expert
  live && decide (w.records.length < 16) && (w.running.isEmpty || (overlap && !c.barrier))

/-- The end of a header-object check: STATE_CONFLICT for the wait's object and then for the signal's, and CONTEXT_GONE for a wait on a
revoked window, which is of step 6 (R51, R54, R80, R83). -/
def Hw.headerCheck (h : Hw) (r : Nat) (c : Cmd) : Option (Nat × Nat) :=
  let p := (h.ctx (h.ring r).ctx).plan
  let w : Option (Nat × Nat) :=
    if !c.waitEn || p.ownsObj c.waitObj then none
    else match p.importObj c.waitObj with
      | some _ => none
      | none => some (stStateConflict, 0x0102)
  let s : Option (Nat × Nat) :=
    if !c.sigEn || p.ownsObj c.sigObj then none
    else match p.importObj c.sigObj with
      | some i => if i.writable then none else some (stStateConflict, 0x0106)
      | none => some (stStateConflict, 0x0102)
  let gone : Bool := c.waitEn && !p.ownsObj c.waitObj && (match p.importObj c.waitObj with | some i => i.revoked | none => false)
  match w.or s with
  | some f => some f
  | none => if gone then some (stContextGone, coordNat h.self) else none

/-- Move the first fetched command of a ring to its running commands. -/
def Hw.launch (h : Hw) (r : Nat) (c : Cmd) : Hw :=
  h.setRing r fun w => { w with fetched := w.fetched.drop 1, running := w.running ++ [c] }

/-- Start the first fetched command: the checks of the start, then its work and its engine. -/
def Hw.startCmd (h : Hw) (r : Nat) (c : Cmd) (e : Env) : Hw :=
  let c := { c with order := h.startSeq, phase := .started, satisfied := false }
  let h0 := h
  let h := { h.applyEnv e with startSeq := h.startSeq + 1 }
  match h.startOf r c e with
  | .error none => h0
  | .error (some (.conflict x)) => h.launch r (c.finish stStateConflict x)
  | .error (some (.refuse st d)) => h.launch r { c.finish st d with fail := some (st, d) }
  | .error (some (.ends st d)) => h.launch r (c.finish st d)
  | .ok y =>
    let h := h.changeSlots y.cmd
    let h := match y.hold with | some q => h.setSeq q fun (z : SeqSlot) => { z with holds := z.holds ++ [(r, c.index)] } | none => h
    match y.want with
    | some (copy, die) => let x := h.takeEngine r y.cmd copy die; x.2.launch r x.1
    | none => h.launch r y.cmd

/-- The first fetched command stands at its turn, its header wait satisfied or not. -/
def Hw.atTurn (h : Hw) (r : Nat) (c : Cmd) (satisfied : Bool) : Hw :=
  h.setRing r fun w => { w with fetched := { c with phase := .turn, satisfied := satisfied } :: w.fetched.drop 1 }

/-- COMMAND_START (R50, R51, R54): turn, header objects, header wait, start. -/
def execCommandStart (ring : Nat) (env : Env) (s : State) : Host.Outcome State Fault Refusal :=
  act (fun h =>
    match (h.ring ring).fetched with
    | [] => h
    | c :: _ =>
      if !h.turnOk ring c then h
      else match c.fail with
      | some f => h.launch ring (c.finish f.1 f.2)
      | none =>
        if c.phase == .turn then (if c.satisfied then h.startCmd ring c env else h)
        else match h.headerCheck ring c with
        | some f => h.launch ring (c.finish f.1 f.2)
        | none =>
          if !c.waitEn then h.startCmd ring c env
          else if decide (c.threshold ≤ (h.obj c.waitObj).toNat) then
            ((if c.waitAcq then h.acquire else h).atTurn ring c true).startCmd ring c env
          else h.atTurn ring c false) s

end Sys2Proof.Machine
end

