-- ==== Sys2Proof/Machine/Tensor.lean ====
section
/-! DEFINITION. Reading and writing tensors in the G32 layout, with owner tables, padding and poison
(04 R96-R110, R121, R122; 14 R347-R349). -/

namespace Sys2Proof.Machine

/-! ## Indices -/

/-- The digits of a row number, dimension 1 fastest. -/
def digits : List Nat → Nat → List Nat
  | [], _ => []
  | s :: r, q => q % s :: digits r (q / s)

/-- The outer indices of row q: i_1, i_2, … -/
def TD.row (t : TD) (q : Nat) : List Nat := digits (t.dims.drop 1) q

/-- The row number of outer indices. -/
def undigits : List Nat → List Nat → Nat
  | s :: r, i :: is => i + s * undigits r is
  | _, _ => 0

def TD.rowNumber (t : TD) (idx : List Nat) : Nat := undigits (t.dims.drop 1) idx

/-- The group of channel group 0 of outer indices (R96). -/
def TD.rowGroup (t : TD) (idx : List Nat) : Nat := ((idx.zip t.strides).map fun x => x.1 * x.2).sum

/-- Valid channels of channel group k. -/
def TD.validIn (t : TD) (k : Nat) : Nat := min 32 (t.size 0 - 32 * k)

/-! ## Codes within a channel group (R103) -/

/-- Element j of a group's bytes. -/
def codeAt (e : Nat) (bs : List Byte) (j : Nat) : Nat :=
  let w := elemBits e
  if 8 ≤ w then fld bs (j * (w / 8)) (w / 8)
  else bits (fld bs (j * w / 8) 1) (j % (8 / w) * w + w - 1) (j % (8 / w) * w)

/-- One byte of a group whose elements are narrower than a byte, over its old content. -/
def packByte (w : Nat) (old : Byte) (cs : List (Option Nat)) : Option Byte :=
  if cs.all (·.isNone) then none
  else some (BitVec.ofNat 8 ((cs.zipIdx.map fun x => (match x.1 with | some c => c % 2 ^ w | none => bits old.toNat (x.2 * w + w - 1) (x.2 * w)) * 2 ^ (x.2 * w)).sum))

/-- The bytes of a group that some elements write; `old` is the group's old content. -/
def packGroup (e : Nat) (old : List Byte) (cells : List (Option Nat)) : List (Option Byte) :=
  let w := elemBits e
  if 8 ≤ w then cells.flatMap fun c => match c with | some x => (toLe (w / 8) x).map some | none => List.replicate (w / 8) none
  else (List.range (4 * w)).map fun b => packByte w (old.getD b 0) ((cells.drop (b * (8 / w))).take (8 / w))

/-- The runs of written bytes, with their offsets. -/
def segments : Nat → List (Option Byte) → List (Nat × List Byte)
  | _, [] => []
  | o, none :: r => segments (o + 1) r
  | o, some b :: r =>
    match segments (o + 1) r with
    | (p, bs) :: t => if p = o + 1 then (o, b :: bs) :: t else (o, [b]) :: (p, bs) :: t
    | [] => [(o, [b])]

/-! ## Where a group lies -/

/-- A tensor as a command sees it: its TD and, when owned, its header and blocks; or the peer whose context holds it (R379). -/
structure View where
  td : TD
  hdr : Option OwnerHdr := none
  peer : Option Coord := none
  blocks : List Blk := []
  deriving DecidableEq, Repr

/-- Read an owner table's entries during execution; invalid ones count a range violation each (R106, R110). An entry that reads
poisoned is used with its stored bits, and its poison goes no further: R350 names the header alone (DESIGN CHOICE; log 52). -/
def Run.view (r : Run) (t : TD) (o : Option OwnerHdr) : View × Run :=
  match o with
  | none => ({ td := t }, r)
  | some hd =>
    let x := r.read (t.base.toNat + 0x40) (32 * hd.entryCount)
    let bl := (List.range hd.entryCount).map fun i => parseEntry r.h.self (t.scaleFmt != 0) ((x.1.1.drop (32 * i)).take 32)
    ({ td := t, hdr := some hd, blocks := bl }, { x.2 with range := x.2.range + (bl.filter (· == .invalid)).length })

/-- The view of slot k of a command. -/
def Run.slotView (r : Run) (c : Cmd) (k : Nat) : View × Run :=
  r.view ((slotTd c.tds k).getD {}) (if ((slotTd c.tds k).getD {}).owned then (c.owners.find? (·.1 == k)).map (·.2) else none)

/-- The block of an owned tensor that holds a group, in grid order; 0 where the tensor is not owned. -/
def View.block (v : View) (idx : List Nat) (k : Nat) : Nat :=
  match v.hdr with
  | none => 0
  | some o => undigits (o.grid v.td) ((32 * k :: idx).zipIdx.map fun x => x.1 / o.block x.2)

/-- The block of a group and its group number there: of outer indices and channel group k (R96, R109). -/
def View.locate (v : View) (idx : List Nat) (k : Nat) : Blk × Nat :=
  match v.hdr with
  | none =>
    (match v.peer with
     | some c => .peer c 0 v.td.base.toNat v.td.scaleBase.toNat
     | none => .own v.td.base.toNat v.td.scaleBase.toNat, v.td.rowGroup idx + k)
  | some o =>
    let g := v.block idx k
    let inner := idx.zipIdx.map fun x => x.1 % o.block (x.2 + 1)
    let sizes := (o.block 0 / 32) :: (o.blocks.drop 1)
    (v.blocks.getD g .invalid, undigits sizes ((32 * k % o.block 0) / 32 :: inner))

/-! ## Reading -/

/-- The key of a peer's context in an environment. -/
def peerKey (c : Coord) : Nat := coordNat c + 2 ^ 18

/-- Note how traffic toward n bytes of a peer's context ends, if it does not go (R110, R283, R377). -/
def Run.toPeer (r : Run) (c : Coord) (a n : Nat) : Run :=
  if !r.ok then r
  else match r.h.reach false c with
  | .gone => { r with fail := some (stPeerGone, coordNat c) }
  | .fenced => { r with fail := some (stFenced, coordNat c) }
  | .waits => { r with waits := true, far := true }
  | _ =>
    match r.env.remoteFail.find? fun x => x.1 == peerKey c && decide (a ≤ x.2.1) && decide (x.2.1 < a + n) with
    | some x => { r with fail := some (if x.2.2 = stTranslation then badXlat x.2.1 else (x.2.2, coordNat c)) }
    | none => r

/-- Read n bytes of a peer's context, with the numbers of their poisoned 32-byte groups, counted from the first. -/
def Run.readPeer (r : Run) (c : Coord) (die a n : Nat) : (List Byte × List Nat) × Run :=
  let r := r.toPeer c a n
  if !r.ok then ((zeros n, []), r)
  else
    let po := (groupsOf a n).filter fun g => r.env.remotePoison.contains (peerKey c, g)
    (((List.range n).map fun i => remoteByte r.env (peerKey c) (a + i), po.map (· - a / 32)),
     { r with peerR := r.peerR ++ [(c, die, a, n)] }.readPoison (placePeer c) po)

/-- Where element j of a group of format e begins that lies at a, counted in 32-byte groups from that of a. -/
def elemGroup (e a j : Nat) : Nat := (a % 32 + j * elemBits e / 8) / 32

/-- Which elements of a group of format e at a are poisoned: those whose 32-byte group is among `po`, counted from the first; all where its
scale byte is poisoned (R348). -/
def grpMarks (e a : Nat) (po : List Nat) (scale : Bool) : List Bool :=
  if po.isEmpty && !scale then [] else (List.range 32).map fun j => scale || po.contains (elemGroup e a j)

/-- Whether a channel group is poisoned (R348). -/
def Grp.poison (g : Grp) : Bool := g.marks.any id

/-- Whether element j of a channel group is poisoned (R348). -/
def Grp.bad (g : Grp) (j : Nat) : Bool := g.marks.getD j false

/-- Read a channel group's bytes, scale and poison. -/
def Run.rawGrp (r : Run) (v : View) (idx : List Nat) (k : Nat) : Grp × Run :=
  let x := v.locate idx k
  let b := v.td.b
  let e := v.td.elem
  let sc := v.td.scaleFmt != 0
  match x.1 with
  | .own base sb =>
    let a := base + x.2 * b
    let y := r.readGroups a b
    if sc then let z := y.2.read (sb + x.2) 1; (⟨y.1.1, fld z.1.1 0 1, grpMarks e a y.1.2 z.1.2⟩, z.2)
    else (⟨y.1.1, 0, grpMarks e a y.1.2 false⟩, y.2)
  | .peer c die base sb =>
    let a := base + x.2 * b
    let y := r.readPeer c die a b
    if sc then let z := y.2.readPeer c die (sb + x.2) 1; (⟨y.1.1, fld z.1.1 0 1, grpMarks e a y.1.2 (!z.1.2.isEmpty)⟩, z.2)
    else (⟨y.1.1, 0, grpMarks e a y.1.2 false⟩, y.2)
  | .invalid => (⟨zeros b, 0, []⟩, r)

/-- A group's bytes with the pad value at its padding positions, whatever memory holds there (R97). -/
def TD.padded (t : TD) (k : Nat) (bs : List Byte) : List Byte :=
  let n := t.validIn k
  if n = 32 then bs
  else
    let pc := (fillCode t.elem t.scaleFmt t.pad.toNat).getD 0
    (packGroup t.elem bs ((List.range 32).map fun j => if j < n then none else some pc)).zipIdx.map fun x => x.1.getD (bs.getD x.2 0)

/-- Read a channel group. -/
def Run.grp (r : Run) (v : View) (idx : List Nat) (k : Nat) : Grp × Run :=
  let x := r.rawGrp v idx k
  ({ x.1 with bytes := v.td.padded k x.1.bytes }, x.2)

/-- Whether a view's group lies in an invalid block, which moves nothing (R110). -/
def View.invalidAt (v : View) (idx : List Nat) (k : Nat) : Bool := (v.locate idx k).1 == .invalid

/-! ## Writing (R121) -/

/-- One byte as a later write of the same command would find it. -/
def Run.peek (r : Run) (cva : Nat) : Byte :=
  match r.h.translate r.die r.ctx cva true with
  | .ok (.own k _, _) => match r.w.bytes.reverse.find? (·.1 == k) with | some x => x.2 | none => cellGet r.h.mem k
  | .ok (.host p a, _) =>
    match r.hostW.reverse.find? fun x => x.1 == p && decide (x.2.1 ≤ a) && decide (a < x.2.1 + x.2.2.1.length) with
    | some x => x.2.2.1.getD (a - x.2.1) 0
    | none => cellGet (r.h.host p).mem a
  | .ok (.remote s da _, _) =>
    match r.remoteW.reverse.find? fun x => x.1 == s && decide (x.2.1 ≤ da) && decide (da < x.2.1 + x.2.2.1.length) with
    | some x => x.2.2.1.getD (da - x.2.1) 0
    | none => remoteByte r.env (r.h.slotKey s) da
  | .error _ => 0

/-- The same at a peer's context. -/
def Run.peekPeer (r : Run) (c : Coord) (a : Nat) : Byte :=
  match r.peerW.reverse.find? fun x => x.1 == c && decide (x.2.2.1 ≤ a) && decide (a < x.2.2.1 + x.2.2.2.1.length) with
  | some x => x.2.2.2.1.getD (a - x.2.2.1) 0
  | none => remoteByte r.env (peerKey c) a

/-- Write bytes to a peer's context, as one transfer. -/
def Run.writePeer (r : Run) (c : Coord) (die a : Nat) (bs : List Byte) (po : Bool) : Run :=
  let r := r.toPeer c a bs.length
  if r.ok then { r with peerW := r.peerW ++ [(c, die, a, bs, po)] } else r

/-- The same where 32-byte groups of them, numbered from the first, are poisoned. -/
def Run.writePeerGroups (r : Run) (c : Coord) (die a : Nat) (bs : List Byte) (po : List Nat) : Run :=
  if po.isEmpty then r.writePeer c die a bs false
  else (groupsOf a bs.length).zipIdx.foldl (fun r g =>
    let lo := max a (32 * g.1)
    r.writePeer c die lo ((bs.drop (lo - a)).take (min (a + bs.length) (32 * g.1 + 32) - lo)) (po.contains g.2)) r

/-- The 32-byte groups, by number, that hold the poisoned ones among the elements written to a group of format e at a. -/
def markedGroups (e a : Nat) (cells : List (Option Nat)) (po : List Bool) : List Nat :=
  ((cells.zipIdx.filter fun x => x.1.isSome && po.getD x.2 false).map fun x => a / 32 + elemGroup e a x.2).eraseDups

/-- Those of a piece of the group that lies at a, numbered from its first. -/
def pieceMarks (a : Nat) (gs : List Nat) : List Nat := (gs.filter fun g => decide (a / 32 ≤ g)).map (· - a / 32)

/-- Write elements of a channel group, and its scale where one is given. The 32-byte groups that hold poisoned values, `po` by element, are
marked (R348). -/
def Run.put (r : Run) (v : View) (idx : List Nat) (k : Nat) (cells : List (Option Nat)) (scale : Option Nat) (po : List Bool) : Run :=
  let x := v.locate idx k
  let b := v.td.b
  let e := v.td.elem
  let narrow := decide (elemBits e < 8) && cells.any (·.isNone)
  let scb := match scale with | some s => if v.td.scaleFmt ≠ 0 then [BitVec.ofNat 8 s] else [] | none => ([] : List Byte)
  match x.1 with
  | .own base sb =>
    let a := base + x.2 * b
    let old := if narrow then (List.range b).map fun i => r.peek (a + i) else []
    let gs := markedGroups e a cells po
    let r := (segments 0 (packGroup e old cells)).foldl (fun r s => r.writeGroups (a + s.1) s.2 (pieceMarks (a + s.1) gs)) r
    r.write (sb + x.2) scb false
  | .peer c die base sb =>
    let a := base + x.2 * b
    let old := if narrow then (List.range b).map fun i => r.peekPeer c (a + i) else []
    let gs := markedGroups e a cells po
    let r := (segments 0 (packGroup e old cells)).foldl (fun r s => r.writePeerGroups c die (a + s.1) s.2 (pieceMarks (a + s.1) gs)) r
    if scb.isEmpty then r else r.writePeer c die (sb + x.2) scb false
  | .invalid => r

/-- The padding positions of the last channel group of a row receive PAD, unless PADW is 1 (R97). -/
def Run.padRow (r : Run) (v : View) (padw : Bool) (q : Nat) : Run :=
  let n := v.td.validIn (v.td.cg - 1)
  if padw || n == 32 then r
  else
    let pc := (fillCode v.td.elem v.td.scaleFmt v.td.pad.toNat).getD 0
    r.put v (v.td.row q) (v.td.cg - 1) ((List.range 32).map fun j => if j < n then none else some pc) none []

/-- Every row's padding positions receive PAD, unless PADW is 1 (R97, R121). -/
def Run.padRows (r : Run) (v : View) (padw : Bool) : Run := forN v.td.rows r fun r q => r.padRow v padw q

/-- Write every channel group of a tensor, by row and channel group, padding first (R121). A run that fails has moved the blocks of an owned
tensor one after another in ascending grid order, and each block already moved stays moved (R110): `key` gives a group's place in that
order. -/
def Run.byBlocks (r : Run) (v : View) (padw : Bool) (key : Nat → Nat → Nat) (put : Run → Nat → Nat → Run) : Run :=
  let whole := forN v.td.rows (r.padRows v padw) fun r q => forN v.td.cg r fun r k => put r q k
  if whole.fail.isNone then whole
  else
    let all := (List.range v.td.rows).flatMap fun q => (List.range v.td.cg).map fun k => (q, k)
    let keys := all.foldl (fun (l : List Nat) x => setIns l (key x.1 x.2)) []
    keys.foldl (fun r b =>
      let mine := all.filter fun x => key x.1 x.2 == b
      let r := mine.foldl (fun r x => if x.2 + 1 = v.td.cg then r.padRow v padw x.1 else r) r
      mine.foldl (fun r x => put r x.1 x.2) r) r

/-- The cells of a group's valid positions. -/
def validCells (t : TD) (k : Nat) (codes : List Nat) : List (Option Nat) :=
  (List.range 32).map fun j => if j < t.validIn k then some (codes.getD j 0) else none

/-! ## The end of a command -/

/-- Status and DETAIL of a finished run (R296, R349): a failure, POISON, OK_COUNTED or OK. -/
def Run.ends (r : Run) (indexPoison : Bool) : Nat × Nat :=
  match r.fail with
  | some f => f
  | none =>
    if r.poisonOut ≠ [] ∨ indexPoison = true ∨ r.spoilt = true then (stPoison, r.poisonOut.length)
    else if r.sat + r.range + r.nan ≠ 0 then (stOkCounted, 0) else (stOk, 0)

/-- A run that goes on with what its command has counted so far; one whose program slot met a parity error ends POISON (R350). -/
def Run.resume (r : Run) (c : Cmd) : Run :=
  { r with order := c.order, sat := c.sat, range := c.range, nan := c.nan, seen := c.poison, spoilt := !c.spoiled.isEmpty }

/-- Every group that a unit wrote is marked when its program slot met a parity error (R350). -/
def Run.spoil (r : Run) (c : Cmd) (die tile : Nat) : Run :=
  if c.spoiled.contains (die, tile) then
    { r with
      w := { r.w with marks := r.w.bytes.foldl (fun l x => setIns l (32 * (x.1 / 32))) r.w.marks }
      hostW := r.hostW.map fun x => (x.1, x.2.1, x.2.2.1, true)
      remoteW := r.remoteW.map fun x => (x.1, x.2.1, x.2.2.1, true)
      peerW := r.peerW.map fun x => (x.1, x.2.1, x.2.2.1, x.2.2.2.1, true) }
  else r

/-- A command's work stops where it waits (R357). -/
def Hw.stallCmd (h : Hw) (ring : Nat) (i : W32) : Hw := h.setCmd ring i fun c => { c with stalled := true }

/-- Nothing happens yet, and the command is stalled; one whose access waits for a link toward another module is held by it (R283). -/
def Hw.holdCmd (h : Hw) (ring : Nat) (i : W32) (r : Run) : Hw := h.setCmd ring i fun c => { c with stalled := true, held := c.held || r.far }

/-- Carry out a run and keep its counts in its command, which goes on. -/
def Hw.keepRun (h : Hw) (ring : Nat) (i : W32) (r : Run) (f : Cmd → Cmd) : Hw :=
  if r.waits && r.fail.isNone then h.holdCmd ring i r
  else { r with ring := ring }.finish.setCmd ring i fun c =>
    f { c with held := false, stalled := false, sat := r.sat, range := r.range, nan := r.nan, poison := r.poisonOut }

/-- Carry out a run and fix its command's status; while a link it needs cannot go, nothing happens yet (R283). -/
def Hw.endRun (h : Hw) (ring : Nat) (i : W32) (r : Run) (indexPoison : Bool) : Hw :=
  if r.waits && r.fail.isNone then h.holdCmd ring i r
  else
    let e := r.ends indexPoison
    { r with ring := ring }.finish.setCmd ring i fun c =>
      { c.finish e.1 e.2 with held := false, stalled := false, sat := r.sat, range := r.range, nan := r.nan, poison := r.poisonOut }

end Sys2Proof.Machine
end

