-- ==== Sys2Proof/Machine/DataMove.lean ====
section
/-! DEFINITION. COPY, GATHER, SCATTER, FILL, transfers of owned blocks, and the memory-side adders
(04 R110-R124; 08 R210, R219, R220; 15 R379). -/

namespace Sys2Proof.Machine

/-- A run of a data-movement command on the engine it holds. -/
def Hw.moveRun (h : Hw) (ring : Nat) (c : Cmd) (alloc : Bool) (e : Env) : Run :=
  (Run.start h (match c.engine with | some x => engineDie x | none => 0) (h.ring ring).ctx true alloc e).resume c

/-- Run `f` on a started data-movement command that holds its engine. -/
def Hw.onMover (h : Hw) (r : Nat) (i : W32) (op : Nat) (f : Cmd → Hw) : Hw :=
  h.onCmd r i op fun c => if c.wantsEngine then h else f c

/-! ## COPY (R113-R115) -/

/-- The source's outer indices of a destination row: source dimension k + 1 is carried by the destination dimension that `perm` names. -/
def copySource (d : View) (perm : List Nat) (q : Nat) : List Nat :=
  (List.range (d.td.rank - 1)).map fun k => (d.td.row q).getD ((perm.idxOf (k + 1)) - 1) 0

/-- Copy one whole channel group of the destination, outer dimensions by `perm` (linear and permuting classes). The whole source is read
first; where two CVA ranges reach one DA, which value stands is undefined in R115, and here it is that of the last write. Where rows
overlap, R121 goes by the linear index; where a permuting COPY orders source and destination differently it does not say whose, and the
model takes the destination's (DESIGN CHOICE; log 52). -/
def Run.copyGroup (s d : View) (perm : List Nat) (r : Run) (q k : Nat) : Run :=
  let di := d.td.row q
  let si := copySource d perm q
  if s.invalidAt si k || d.invalidAt di k then r
  else
    let g := r.grp s si k
    if !g.2.ok then g.2
    else g.2.put d di k (validCells d.td k ((List.range 32).map (codeAt s.td.elem g.1.bytes))) (some g.1.scale) g.1.marks

/-- Move the single elements of one channel group of the destination (transposing class), each from the source element whose indices `perm`
gives. -/
def Run.copyElems (s d : View) (perm : List Nat) (r : Run) (q k : Nat) : Run :=
  let di := d.td.row q
  let x := (List.range (d.td.validIn k)).foldl (fun (x : List (Option Nat) × List Bool × Run) j =>
    let full := (32 * k + j) :: di
    let si := (List.range s.td.rank).map fun m => full.getD (perm.idxOf m) 0
    let c := si.headD 0
    let g := x.2.2.grp s (si.drop 1) (c / 32)
    (x.1 ++ [some (codeAt s.td.elem g.1.bytes (c % 32))], x.2.1 ++ [g.1.bad (c % 32)], g.2)) ([], [], r)
  if x.2.2.ok then x.2.2.put d di k x.1 none x.2.1 else x.2.2

/-- A copy of one tensor to another, padding first (R121); owned tensors block by block, the destination's blocks before the source's
within each (R110). -/
def Run.copyTensor (r : Run) (s d : View) (perm : List Nat) (padw : Bool) : Run :=
  r.byBlocks d padw (fun q k => d.block (d.td.row q) k * 2 ^ 32 + s.block (copySource d perm q) k)
    (if perm.headD 0 = 0 then Run.copyGroup s d perm else Run.copyElems s d perm)

/-- What a COPY reads and writes (R112-R115, R124). -/
def Hw.copyRun (h : Hw) (ring : Nat) (c : Cmd) (env : Env) : Run :=
  let x := (h.moveRun ring c false env).slotView c 0
  let y := x.2.slotView c 1
  y.2.copyTensor x.1 y.1 (copyPerm c.bytes x.1.td.rank) ((c.f 0x2C 1).testBit 0)

/-- COPY (R112-R115, R124). -/
def execCopy (ring : Nat) (index : W32) (env : Env) (s : State) : Host.Outcome State Fault Refusal :=
  act (fun h => h.onMover ring index 0x08 fun c => h.endRun ring index (h.copyRun ring c env) false) s

/-! ## FILL (R120) -/

/-- What a FILL writes (R120). -/
def Hw.fillRun (h : Hw) (ring : Nat) (c : Cmd) (env : Env) : Run :=
  let x := (h.moveRun ring c false env).slotView c 1
  let v := x.1
  let code := (fillCode v.td.elem v.td.scaleFmt (c.f 0x20 2)).getD 0
  x.2.byBlocks v ((c.f 0x28 1).testBit 0) (fun q k => v.block (v.td.row q) k) fun r q k =>
    r.put v (v.td.row q) k (validCells v.td k (List.replicate 32 code)) (some (scaleOne v.td.scaleFmt)) []

/-- FILL. -/
def execFill (ring : Nat) (index : W32) (env : Env) (s : State) : Host.Outcome State Fault Refusal :=
  act (fun h => h.onMover ring index 0x0B fun c => h.endRun ring index (h.fillRun ring c env) false) s

/-! ## GATHER and SCATTER (R116-R119) -/

/-- The index values of an index tensor, and whether each is poisoned. -/
def Run.indices (r : Run) (t : TD) : List (Int × Bool) × Run :=
  forN (t.size 0) ([], r) fun x i =>
    let y := x.2.read (t.base.toNat + 4 * i) 4
    (x.1 ++ [(signed 32 (leNat y.1.1), y.1.2)], y.2)

/-- What a GATHER reads and writes, and whether an index is poisoned (R118). Where the source or the index tensor meets the destination
the spec states no order: all reads come before the writes (DESIGN CHOICE; log 52). -/
def Hw.gatherRun (h : Hw) (ring : Nat) (c : Cmd) (env : Env) : Run × Bool :=
  let x := (h.moveRun ring c true env).slotView c 0
  let y := x.2.slotView c 1
  let z := y.2.indices ((slotTd c.tds 2).getD {})
  let sv := x.1
  let dv := y.1
  let dim := c.f 0x30 1
  let n := sv.td.size dim
  let out (k : Int) : Bool := decide (k < 0) || decide ((n : Int) ≤ k)
  let fill := if sv.td.scaleFmt ≠ 0 then 0 else (fillCode sv.td.elem 0 (c.f 0x32 2)).getD 0
  let r := { z.2 with range := z.2.range + (z.1.filter fun (k : Int × Bool) => out k.1).length }
  let r := r.padRows dv ((c.f 0x31 1).testBit 0)
  let r := forN dv.td.rows r fun r q =>
    let di := dv.td.row q
    let k := z.1.getD (di.getD (dim - 1) 0) (0, false)
    forN dv.td.cg r fun r g =>
      if out k.1 then r.put dv di g (validCells dv.td g (List.replicate 32 fill)) (some (scaleOne dv.td.scaleFmt)) (List.replicate 32 k.2)
      else
        let x := r.grp sv (di.set (dim - 1) k.1.toNat) g
        if !x.2.ok then x.2
        else x.2.put dv di g (validCells dv.td g ((List.range 32).map (codeAt sv.td.elem x.1.bytes))) (some x.1.scale)
          (if k.2 then List.replicate 32 true else x.1.marks)
  (r, z.1.any (·.2))

/-- GATHER (R118). -/
def execGather (ring : Nat) (index : W32) (env : Env) (s : State) : Host.Outcome State Fault Refusal :=
  act (fun h => h.onMover ring index 0x09 fun c => let x := h.gatherRun ring c env; h.endRun ring index x.1 x.2) s

/-! ### Memory-side adders (R219) -/

/-- One element: 1 ADD, 2 MAX, 3 MIN. -/
def addElem (op e : Nat) (grad : Bool) (old new : Nat) : Res :=
  if isFloat e then
    let a := floatVal e old
    let b := floatVal e new
    toFloat rne e grad (if op = 1 then a.add b else if op = 2 then a.max b else a.min b)
  else
    let w := elemBits e
    let a := signed w old
    let b := signed w new
    toInt rne w (.ofInt (if op = 1 then a + b else if op = 2 then max a b else min a b))

/-- Whether an adder performs an operation on a format: ADD on FP32, BF16, INT32 and INT64, MAX and MIN on FP32 and INT32. -/
def adderTakes (op elem : Nat) : Bool := (op == 1 && [0, 1, 6, 11].contains elem) || ((op == 2 || op == 3) && [0, 6].contains elem)

/-- What an adder leaves. -/
structure AddOut where
  h : Hw
  sat : Nat
  nan : Nat
  poisoned : List Nat            -- the poisoned groups written, by number

/-- The elements of a group at a key are combined with operand elements; poison stays and spreads from the operand, whose poisoned groups
`po` numbers from the first. -/
def Hw.addAt (h : Hw) (k op e : Nat) (grad : Bool) (cells : List (Option Nat)) (po : List Nat) : AddOut :=
  let w := elemBits e / 8
  let step (x : List Host.Cell × Nat × Nat) (c : Option Nat × Nat) : List Host.Cell × Nat × Nat :=
    match c.1 with
    | none => x
    | some v =>
      let a := k + w * c.2
      let o := addElem op e grad (leNat (cellRead x.1 a w)) v
      (cellWrite x.1 a (toLe w o.code), x.2.1 + b2n o.sat, x.2.2 + b2n o.nan)
  let y := cells.zipIdx.foldl step (h.mem, 0, 0)
  let gs := (cells.zipIdx.filter fun c => c.1.isSome).flatMap fun c => groupsOf (k + w * c.2) w
  let gs := gs.eraseDups.filter fun g => po.contains (g - k / 32) || h.poison.contains g
  { h := { h with mem := y.1, poison := gs.foldl setIns h.poison }, sat := y.2.1, nan := y.2.2, poisoned := gs }

/-- A die issues an add: its own present line of the address is dropped (R210). -/
def Hw.dropLine (h : Hw) (die k n : Nat) : Hw :=
  h.setDie die fun d => { d with rcLines := d.rcLines.filter fun l => !(decide (h.ownDa k / 128 ≤ l.line) && decide (l.line ≤ h.ownDa (k + n - 1) / 128)) }

/-- The keys of a destination slice's group when it resolves to this module's HBM. -/
def Run.hbmKey (r : Run) (cva : Nat) : Except (Nat × Nat) (Option Nat) :=
  match r.h.translate r.die r.ctx cva true with
  | .error f => .error f
  | .ok (.own k _, _) => .ok (if keySpace k = 0 then some k else none)
  | .ok _ => .ok none

/-- One group of a SCATTER with an OP other than STORE; the operand's poisoned elements are `po`. -/
def Run.addGroup (r : Run) (k op e : Nat) (grad : Bool) (cells : List (Option Nat)) (po : List Bool) : Run :=
  let r := r.meets (groupsOf k (groupBytes e))
  let o := r.h.addAt k op e grad cells ((markedGroups e k cells po).map (· - k / 32))
  { r with h := o.h.dropLine r.die k (groupBytes e), sat := r.sat + o.sat, nan := r.nan + o.nan,
           counted := r.counted ++ o.poisoned.map fun g => (0, g) }

/-- SCATTER STORE: source rows in linear order to the destination slices that the indices name. All reads come before the writes, and
where rows overlap the linear index of R121 is the source's, of which the rule says nothing (DESIGN CHOICE; log 52). -/
def Run.scatterStore (r : Run) (s d : View) (dim : Nat) (ks : List (Option Nat)) (padw : Bool) : Run :=
  let target (q : Nat) : Option (List Nat × List Nat) :=
    let si := s.td.row q
    (ks.getD (si.getD (dim - 1) 0) none).map fun k => (si, si.set (dim - 1) k)
  let n := d.td.validIn (d.td.cg - 1)
  let pc := (fillCode d.td.elem d.td.scaleFmt d.td.pad.toNat).getD 0
  let r := if padw || n == 32 then r
    else forN s.td.rows r fun r q =>
      match target q with
      | some x => r.put d x.2 (d.td.cg - 1) ((List.range 32).map fun j => if j < n then none else some pc) none []
      | none => r
  forN s.td.rows r fun r q =>
    match target q with
    | none => r
    | some x => forN s.td.cg r fun r g =>
      let y := r.grp s x.1 g
      if !y.2.ok then y.2
      else y.2.put d x.2 g (validCells d.td g ((List.range 32).map (codeAt s.td.elem y.1.bytes))) (some y.1.scale) y.1.marks

/-- The source rows of slice i of the indexed dimension. -/
def sliceRows (t : TD) (dim i : Nat) : List Nat := (List.range t.rows).filter fun q => (t.row q).getD (dim - 1) 0 == i

/-- Whether an add of slice i to slice k of the destination waits for its controller: for training, or a slot of class BULK (R213, R216). -/
def Run.addsWait (r : Run) (s d : View) (dim i k : Nat) : Bool :=
  r.h.writesWait &&
  (sliceRows s.td dim i).any fun q => (List.range s.td.cg).any fun g =>
    match r.hbmKey (d.td.base.toNat + (d.td.rowGroup ((s.td.row q).set (dim - 1) k) + g) * d.td.b) with
    | .ok (some key) => r.h.hbmBusy .bulk key
    | _ => false

/-- SCATTER with ADD, MAX or MIN: slices in ascending i, each only into this module's HBM (R119). A source that meets the destination is
read as earlier slices have left it (DESIGN CHOICE; log 52). -/
def Run.scatterAdd (r : Run) (s d : View) (dim op : Nat) (grad : Bool) (ks : List (Option Nat)) : Run :=
  forN (s.td.size dim) r fun r i =>
    match ks.getD i none with
    | none => r
    | some k =>
      if !r.ok then r
      else if r.addsWait s d dim i k then { r with waits := true }
      else
        let rows := sliceRows s.td dim i
        let keys := rows.flatMap fun q =>
          let di := (s.td.row q).set (dim - 1) k
          (List.range s.td.cg).map fun g => (q, g, r.hbmKey (d.td.base.toNat + (d.td.rowGroup di + g) * d.td.b))
        match keys.findSome? fun x => match x.2.2 with | .error f => some f | .ok _ => none with
        | some f => { r with fail := some f }
        | none =>
          if keys.any fun x => match x.2.2 with | .ok (some _) => false | _ => true then { r with range := r.range + 1 }
          else keys.foldl (fun r x =>
            match x.2.2 with
            | .ok (some key) =>
              let y := r.grp s (s.td.row x.1) x.2.1
              if !y.2.ok then y.2
              else y.2.addGroup key op s.td.elem grad (validCells s.td x.2.1 ((List.range 32).map (codeAt s.td.elem y.1.bytes))) y.1.marks
            | _ => r) r

/-- What a SCATTER reads and writes, and whether an index is poisoned (R118, R119). -/
def Hw.scatterRun (h : Hw) (ring : Nat) (c : Cmd) (env : Env) : Run × Bool :=
  let x := (h.moveRun ring c true env).slotView c 0
  let y := x.2.slotView c 1
  let z := y.2.indices ((slotTd c.tds 2).getD {})
  let dim := c.f 0x30 1
  let n := y.1.td.size dim
  let ks : List (Option Nat) := z.1.map fun k => if k.2 || decide (k.1 < 0) || decide ((n : Int) ≤ k.1) then none else some k.1.toNat
  let bad := (ks.filter fun (x : Option Nat) => x.isNone).length
  let r := { z.2 with range := z.2.range + bad }
  let op := c.f 0x32 1
  let r := if op = 0 then r.scatterStore x.1 y.1 dim ks ((c.f 0x31 1).testBit 0)
           else r.scatterAdd x.1 y.1 dim op ((c.f 0x31 1).testBit 1) ks
  (r, z.1.any (·.2))

/-- SCATTER (R118, R119). -/
def execScatter (ring : Nat) (index : W32) (env : Env) (s : State) : Host.Outcome State Fault Refusal :=
  act (fun h => h.onMover ring index 0x0A fun c => let x := h.scatterRun ring c env; h.endRun ring index x.1 x.2) s

/-! ## Blocks at their owner (R110, R379) -/

/-- The context that holds a job and takes traffic (R81, R82). -/
def Hw.jobContext (h : Hw) (job : W32) : Option Nat :=
  (List.range 16).find? fun n =>
    let c := h.ctx n
    (c.state == .opened || c.state == .active || c.state == .quiescing) && c.plan.jobId == job

/-- Carry out a block request in a context: its data or its acknowledgement goes back to the asker. While the HBM controllers make it
wait it is held (R213, R216). The first `done` bytes of a write are written already (R248). -/
def Hw.ownerBlock (h : Hw) (n : Nat) (q : BlockReq) (env : Env) (done : Nat := 0) : Hw :=
  let r := Run.start h q.die n true false env
  let a := q.addr.toNat
  let x : (List Byte × List Nat) × Run :=
    if q.write then (([], []), r.writeGroups (a + done) (q.bytes.drop done) ((q.poisoned.filter fun g => decide (done / 32 ≤ g)).map (· - done / 32)))
    else r.readGroups a q.count
  if x.2.waits && x.2.fail.isNone then { h with heldAccesses := h.heldAccesses ++ [{ what := .block n q, env := env }] }
  else
    let h := x.2.finish
    let ok := x.2.fail.isNone
    let h := match q.twinStep with
      | some t => if ok then h.setCtx n fun c => { c with twinStep := if c.twinStep.toNat < t.toNat then t else c.twinStep } else h
      | none => h
    (h.emit (.blockReply q.peer q.addr x.1.1 ok x.1.2)).sendCtx n q.peer 2 none (.blockReply q.addr x.1.1 ok x.1.2)

/-- Write the part of a block from byte `lo` up to `hi` at its owner; none where it cannot be written now (R248). -/
def Hw.ownerPart (h : Hw) (n : Nat) (q : BlockReq) (lo hi : Nat) (env : Env) : Option Hw :=
  let po := (q.poisoned.filter fun g => decide (lo / 32 ≤ g)).map (· - lo / 32)
  let r := (Run.start h q.die n true false env).writeGroups (q.addr.toNat + lo) ((q.bytes.drop lo).take (hi - lo)) po
  if r.waits || r.fail.isSome then none else some r.finish

/-- OWNER_BLOCK_TRANSFER (R110): through the page tables of the owner's context of the same job. -/
def execOwnerBlockTransfer (req : BlockReq × Env) (s : State) : Host.Outcome State Fault Refusal :=
  act (fun h => match h.jobContext req.1.job with | some n => h.ownerBlock n req.1 req.2 | none => h) s

end Sys2Proof.Machine
end

