-- ==== Sys2Proof/Machine/Flags.lean ====
section
/-! DEFINITION. The sticky flags and counters of a tile (05 R148; 07 R203). -/

namespace Sys2Proof.Machine

/-- A 16-bit count that saturates. -/
def sat16 (n k : Nat) : Nat := min (n + k) 0xFFFF

/-- Whether a tile's vector engine holds a drain: a finished output tile stands in a bank (R130, R203). -/
def Tile.draining (x : Tile) : Bool := !x.banks.isEmpty

/-- VE_STATUS and the vector counters after blocks: RANGE and NAN when a count rose, BLOCKS, issue cycles, and busy cycles,
whose number the manual leaves to timing (`busy` is a free value; log 3, log 17). -/
def Tile.noteVe (t : Tile) (range nan : Bool) (blocks issue : Nat) (busy : W64) : Tile :=
  { t with veRange := t.veRange || range, veNan := t.veNan || nan, blocks := sat16 t.blocks blocks,
           veIssueCyc := t.veIssueCyc + BitVec.ofNat 64 issue, veBusyCyc := t.veBusyCyc + busy }

/-- MX_STATUS after an accumulation or a drain, and the strips completed. -/
def Tile.noteMx (t : Tile) (sat nan inf : Bool) (strips : Nat) : Tile :=
  { t with mxSat := t.mxSat || sat, mxNan := t.mxNan || nan, mxInf := t.mxInf || inf, strips := sat16 t.strips strips }

/-- The array's counters after an output tile is accumulated: the cycles with BUSY = 1 are timing (`busy` is a free value). -/
def Tile.noteMac (t : Tile) (mac : Nat) (busy : W64) : Tile :=
  { t with mxMacCyc := t.mxMacCyc + BitVec.ofNat 64 mac, mxBusyCyc := t.mxBusyCyc + busy }

/-- Positions of a tile register under a tag: +0 under another tag (R179). -/
def Trg.get (t : Trg) (tag : Nat × Byte) (pos : Nat) : W32 :=
  if t.tag = some tag then (match t.cells.find? (·.1 == pos) with | some x => x.2 | none => 0) else 0

/-- Write a position; a register of another tag starts from +0 (R179). -/
def Trg.set (t : Trg) (tag : Nat × Byte) (pos : Nat) (v : W32) : Trg :=
  let cells := if t.tag = some tag then t.cells else []
  let rest := cells.filter (·.1 != pos)
  { tag := some tag
    cells := if v = 0 then rest
             else rest.takeWhile (fun x => decide (x.1 < pos)) ++ (pos, v) :: rest.dropWhile (fun x => decide (x.1 < pos)) }

end Sys2Proof.Machine
end

