-- ==== Sys2Proof/Machine/Lanes.lean ====
section
/-! DEFINITION. The lanes of a vector engine: inputs, operands, instructions and results of element programs
(07 R177-R193; 14 R348). Only the valid lanes of a row are kept: the invalid ones change nothing (R178). -/

namespace Sys2Proof.Machine

/-- An element as a lane receives it: its code, whether it is poisoned, and whether its conversion was clamped. -/
structure EIn where
  code : W32 := 0
  poison : Bool := false
  sat : Bool := false
  deriving DecidableEq, Repr

/-- Whether an element arrives as INT32 (R180). -/
def TD.intInput (t : TD) : Bool := t.scaleFmt == 0 && (t.elem == 6 || t.elem == 7 || t.elem == 11)

/-- One element as E0 or E1: FP32 codes as they are, INT8 and INT32 as INT32, INT64 clamped, others e × s in FP32; `coarse`
is the AUX coarse scale (R180). -/
def inputOf (t : TD) (grad : Bool) (coarse : Option W32) (scale : Val) (code : Nat) : W32 × Bool × Nat :=
  let e := elemVal false t.elem code
  let x : W32 × Bool × Nat :=
    if t.intInput then let r := clamp32 (signed (elemBits t.elem) code); (r.1, r.2, 0)
    else if t.elem = 0 ∧ t.scaleFmt = 0 then (BitVec.ofNat 32 code, false, 0)
    else let r := lane32 grad (e.1.mul scale); (r.1, r.2, e.2)
  match coarse with
  | some c => let r := lane32 grad ((if t.intInput then .ofInt (i32 x.1) else v32 x.1).mul (v32 c)); (r.1, x.2.1 || r.2, x.2.2)
  | none => x

/-- The first `lim` elements of a channel group as lanes receive them; reserved codes count (R156, R178). -/
def Run.loadGroup (r : Run) (v : View) (grad : Bool) (coarse : Option W32) (idx : List Nat) (k lim : Nat) : List EIn × Run :=
  let g := r.grp v idx k
  let s := if v.td.scaleFmt = 0 then (Val.fin false 1 1, 0) else scaleVal v.td.scaleFmt g.1.scale
  let xs := (List.range (min lim (v.td.validIn k))).map fun j => inputOf v.td grad coarse s.1 (codeAt v.td.elem g.1.bytes j)
  (xs.zipIdx.map fun x => ({ code := x.1.1, poison := g.1.bad x.2, sat := x.1.2.1 } : EIn),
   { g.2 with range := g.2.range + s.2 + (xs.map fun x => x.2.2).sum })

/-- One element of a tensor, as LDX reads it. -/
def Run.loadElem (r : Run) (v : View) (grad : Bool) (idx : List Nat) (c : Nat) : EIn × Run :=
  let g := r.grp v idx (c / 32)
  let s := if v.td.scaleFmt = 0 then (Val.fin false 1 1, 0) else scaleVal v.td.scaleFmt g.1.scale
  let x := inputOf v.td grad none s.1 (codeAt v.td.elem g.1.bytes (c % 32))
  ({ code := x.1, poison := g.1.bad (c % 32), sat := x.2.1 }, { g.2 with range := g.2.range + s.2 + x.2.2 })

/-- The first `lim` of columns `[128 j, 128 j + 128)` of a row. -/
def Run.loadRow (r : Run) (v : View) (grad : Bool) (coarse : Option W32) (idx : List Nat) (j : Nat) (lim : Nat := 128) : List EIn × Run :=
  (List.range 4).foldl (fun (x : List EIn × Run) g =>
    if 4 * j + g < v.td.cg ∧ 32 * g < lim then let y := x.2.loadGroup v grad coarse idx (4 * j + g) (lim - 32 * g); (x.1 ++ y.1, y.2)
    else x) ([], r)

/-! ## Lanes -/

structure Lane where
  regs : List W32
  poison : Bool
  sat : Bool
  rsum : W32 := 0
  deriving DecidableEq, Repr

/-- What a row of lanes runs under: the image, mode, random inputs, the row's index in dimension 1 and in its block, its
first column, the linear index of that column's element, the AUX row, the row statistics, and the tag of its context. -/
structure VEnv where
  im : Image
  grad : Bool
  seed : W64
  step : W64
  row : Nat
  rb : Nat
  col0 : Nat
  lin0 : Nat
  aux : Option View
  auxIdx : List Nat
  rm : W32 := 0
  rmo : W32 := 0
  rs : W32 := 0
  tag : Nat × Byte

/-- A row of lanes, the command's run and the tile's registers. -/
structure VRow where
  lanes : List Lane
  run : Run
  trgs : List Trg

def VEnv.auxCoarse (v : VEnv) : Option W32 :=
  match v.aux with
  | some a => if a.td.coarseEn then some a.td.coarse else none
  | none => none

/-- An operand of a lane at column position p (R183). -/
def VEnv.operand (v : VEnv) (trgs : List Trg) (x : Lane) (p sel : Nat) : W32 :=
  if sel < 0x10 then x.regs.getD sel 0
  else if sel < 0x18 then (trgs.getD (sel - 0x10) {}).get v.tag (128 * v.rb + p)
  else if sel = 0x18 then v.rm
  else if sel = 0x19 then v.rmo
  else if sel = 0x1A then v.rs
  else if sel = 0x1B then BitVec.ofNat 32 v.row
  else if sel = 0x1C then BitVec.ofNat 32 (v.col0 + p)
  else if sel = 0x1D then BitVec.ofNat 32 p
  else if 0x20 ≤ sel ∧ sel < 0x28 then v.im.consts.getD (sel - 0x20) 0
  else if sel = 0x29 then 0x3F800000
  else 0

/-- CMP (R184, R185). -/
def cmpHolds (cond : Nat) (lt eq un : Bool) : Bool :=
  if cond = 0 then eq
  else if cond = 1 then !eq
  else if un then false
  else if cond = 2 then lt
  else if cond = 3 then lt || eq
  else if cond = 4 then !lt && !eq
  else !lt

/-- CVT and ICVT: a value on the target's grid, as FP32 for a float target and INT32 for an integer one (R184). -/
def cvtLane (grad : Bool) (e : Nat) (v : Val) : W32 × Bool :=
  let r := convert rne e grad v
  if isFloat e then let y := lane32 grad (floatVal e r.code); (y.1, r.sat || y.2)
  else (BitVec.ofInt 32 (signed (elemBits e) r.code), r.sat)

/-- The operations whose result depends on one lane's operands alone: the result and whether it saturated (R184, R185). -/
def laneOp (grad : Bool) (op md : Nat) (a b c : W32) : W32 × Bool :=
  let int := decide (8 ≤ md)
  let x := v32 a
  let y := v32 b
  let i := i32 a
  let j := i32 b
  if op = 0x01 then (a, false)
  else if op = 0x02 then (if int then clamp32 (i + j) else lane32 grad (x.add y))
  else if op = 0x03 then (if int then clamp32 (i - j) else lane32 grad (x.sub y))
  else if op = 0x04 then (if int then clamp32 (i * j) else lane32 grad (x.mul y))
  else if op = 0x05 then lane32 grad ((x.mul y).add (v32 c))
  else if op = 0x06 then (if int then clamp32 (max i j) else lane32 grad (x.max y))
  else if op = 0x07 then (if int then clamp32 (min i j) else lane32 grad (x.min y))
  else if op = 0x08 then (if int then clamp32 |i| else lane32 grad x.abs)
  else if op = 0x09 then (if int then clamp32 (-i) else lane32 grad x.neg)
  else if op = 0x0A then
    let r := if int then cmpHolds (md % 8) (decide (i < j)) (decide (i = j)) false
             else cmpHolds (md % 8) (x.lt y) (x.eqv y) (x.isNan || y.isNan)
    (if r then 1 else 0, false)
  else if op = 0x0B then (if c ≠ 0 then a else b, false)
  else if op = 0x0C then cvtLane grad md x
  else if op = 0x0D then cvtLane grad md (.ofInt i)
  else if op = 0x10 then lane32 grad (exp2Val x)
  else if op = 0x11 then lane32 grad (log2Val x)
  else if op = 0x12 then lane32 grad (rcpVal x)
  else if op = 0x13 then lane32 grad (rsqVal x)
  else (0, false)

/-- The lanes of channel group g of a row. -/
def laneGroup {α : Type} (xs : List α) (g : Nat) : List α := (xs.drop (32 * g)).take 32

/-- QNT of one channel group: each lane's e × s, and which lanes it limited (R188). -/
def qntGroup (grad : Bool) (e sf : Nat) (xs : List W32) : List (W32 × Bool) :=
  let pad := (List.range (32 - xs.length)).map fun _ => (none : Option Val)
  let q := quantise (List.replicate 32 rne) e sf (xs.map (fun a => some (v32 a)) ++ pad)
  let s := (scaleVal sf q.scale).1
  (List.range xs.length).map fun j =>
    let r := lane32 grad ((elemVal false e (q.codes.getD j 0)).1.mul s)
    (r.1, q.limited.getD j false || r.2)

/-- HAD of one channel group: every lane counts as saturated when a step saturated (R188). -/
def hadGroup (grad : Bool) (xs : List W32) : List (W32 × Bool) :=
  let h := had32 grad (xs ++ List.replicate (32 - xs.length) 0)
  (List.range xs.length).map fun j => (h.1.getD j 0, h.2)

/-- Write a lane's destination register. -/
def Lane.put (x : Lane) (dst : Nat) (v : W32) (sat po : Bool) : Lane :=
  { x with regs := x.regs.set dst v, sat := x.sat || sat, poison := x.poison || po }

/-- Lanes after an operation over channel groups, whose poison spreads over each group (R348). -/
def groupOp (f : List W32 → List (W32 × Bool)) (as : List W32) (lanes : List Lane) (dst : Nat) : List Lane :=
  (List.range 4).flatMap fun g =>
    let ls := laneGroup lanes g
    let ys := f (laneGroup as g)
    let po := ls.any (·.poison)
    ls.zipIdx.map fun x => let y := ys.getD x.2 (0, false); x.1.put dst y.1 y.2 po

/-- LDX for the lanes of a row, in lane order; the coarse scale of AUX is not applied, since R187 does not say so (R159, R187). -/
def VEnv.ldxRow (v : VEnv) (as : List W32) (dst : Nat) (x : VRow) : VRow :=
  let n := match v.aux with | some a => a.td.size 0 | none => 0
  let z := (x.lanes.zip as).foldl (fun (acc : List Lane × Run) y =>
    let i := i32 y.2
    if i < 0 ∨ (n : Int) ≤ i then (acc.1 ++ [y.1.put dst v.im.fill false false], { acc.2 with range := acc.2.range + 1 })
    else
      let q := acc.2.loadElem (v.aux.getD { td := {} }) v.grad v.auxIdx i.toNat
      (acc.1 ++ [y.1.put dst q.1.code q.1.sat q.1.poison], q.2)) ([], x.run)
  { x with lanes := z.1, run := z.2 }

/-- One instruction over the lanes of a row (R184-R189). -/
def VEnv.instr (v : VEnv) (x : VRow) (w : W32) : VRow :=
  let n := w.toNat
  let op := bits n 31 26
  let dst := bits n 25 22
  let md := bits n 3 0
  let arg (sel : Nat) : List W32 := x.lanes.zipIdx.map fun l => v.operand x.trgs l.1 l.2 sel
  let as := arg (bits n 21 16)
  if op = 0x18 then { x with lanes := groupOp (qntGroup v.grad md (bits n 15 10)) as x.lanes dst }
  else if op = 0x19 then { x with lanes := groupOp (hadGroup v.grad) as x.lanes dst }
  else
    let bs := arg (bits n 15 10)
    if op = 0x1A then
      let out (b : W32) : Bool := decide (i32 b < 0) || decide ((x.lanes.length : Int) ≤ i32 b)
      let po (i : Nat) : Bool := match x.lanes[i]? with | some l => l.poison | none => false
      { x with
        lanes := (x.lanes.zip bs).map fun l =>
          if out l.2 then l.1.put dst 0 false false
          else l.1.put dst (as.getD (i32 l.2).toNat 0) false (po (i32 l.2).toNat)
        run := { x.run with range := x.run.range + (bs.filter out).length } }
    else if op = 0x1B then
      { x with lanes := x.lanes.zipIdx.map fun l =>
          l.1.put dst (randBits v.seed v.step (v.im.rngId.setWidth 64) (BitVec.ofNat 64 (16 * (v.lin0 + l.2) + md))) false false }
    else if op = 0x1C then v.ldxRow as dst x
    else if op = 0x1D then { x with lanes := (x.lanes.zip as).map fun l => ({ l.1 with rsum := l.2 } : Lane) }
    else if op = 0x1E then
      { x with trgs := x.trgs.modify (md % 8) fun t => as.zipIdx.foldl (fun t a => t.set v.tag (128 * v.rb + a.2) a.1) t }
    else
      let cs := arg (bits n 9 4)
      { x with lanes := x.lanes.zipIdx.map fun l =>
          let r := laneOp v.grad op md (as.getD l.2 0) (bs.getD l.2 0) (cs.getD l.2 0)
          l.1.put dst r.1 r.2 false }

/-- The issue count of a program (R184). -/
def Image.issue (im : Image) : Nat :=
  (im.instrs.map fun w =>
    let op := bits w.toNat 31 26
    if 0x10 ≤ op ∧ op ≤ 0x13 then 4 else if op = 0x18 ∨ op = 0x19 then 2 else if op = 0x1C then 8 else 1).sum + b2n im.stats

/-- A row of lanes at program start: E0 from its inputs, E1 from AUX, the rest +0 (R180, R193). -/
def VEnv.startRow (v : VEnv) (ins : List EIn) (x : VRow) : VRow :=
  let j := v.col0 / 128
  let a : List EIn × Run := match v.aux with
    | none => (List.replicate ins.length {}, x.run)
    | some t =>
      let y := x.run.loadRow t v.grad v.auxCoarse v.auxIdx j ins.length
      let miss := ins.length - y.1.length
      (y.1 ++ List.replicate miss { code := v.im.fill }, { y.2 with range := y.2.range + miss })
  { x with
    run := a.2
    lanes := (ins.zip a.1).map fun y =>
      { regs := y.1.code :: y.2.code :: List.replicate 14 0, poison := y.1.poison || y.2.poison, sat := y.1.sat || y.2.sat } }

/-! ## Row statistics (R190, R191) -/

def maxOp (grad : Bool) (a b : W32) : W32 × Bool := lane32 grad ((v32 a).max (v32 b))
def minOp (grad : Bool) (a b : W32) : W32 × Bool := lane32 grad ((v32 a).min (v32 b))
def addOp (grad : Bool) (a b : W32) : W32 × Bool := lane32 grad ((v32 a).add (v32 b))

/-- A row's values filled up to 128 with an identity. -/
def fill128 (xs : List W32) (i : W32) : List W32 := xs ++ List.replicate (128 - xs.length) i

def negInf : W32 := 0xFF800000

/-- The start of a strip or unit: RM is −Inf and RS is +0 in every row. -/
def RowRegs.begin (x : RowRegs) : RowRegs := { x with rm := List.replicate 128 negInf, rs := List.replicate 128 0 }
/-- The start of a block: RMO takes RM in every row. -/
def RowRegs.turn (x : RowRegs) : RowRegs := { x with rmo := x.rm }
/-- RMO and RS of a row. -/
def RowRegs.row (x : RowRegs) (rb : Nat) : W32 × W32 := (x.rmo.getD rb negInf, x.rs.getD rb 0)
/-- RM and RS of a row after a block. -/
def RowRegs.setRow (x : RowRegs) (rb : Nat) (rm rs : W32) : RowRegs := { x with rm := x.rm.set rb rm, rs := x.rs.set rb rs }

def posInf : W32 := 0x7F800000

/-- RM after the max pass, and the saturations of its tree. -/
def rowMax (grad : Bool) (rm : W32) (xs : List W32) : W32 × Nat :=
  let t := tree128 (maxOp grad) (fill128 xs negInf)
  let m := maxOp grad rm t.1
  (m.1, t.2 + b2n m.2)

/-- RS after a block. -/
def rowSum (grad : Bool) (rm rmo rs : W32) (xs : List W32) : W32 × Nat :=
  let d := lane32 grad ((v32 rmo).sub (v32 rm))
  let f := if rm = negInf then (0x3F800000, false) else lane32 grad (exp2Val (v32 d.1))
  let p := lane32 grad ((v32 rs).mul (v32 f.1))
  let t := tree128 (addOp grad) (fill128 xs 0)
  let r := addOp grad p.1 t.1
  (r.1, (if rm = negInf then 0 else b2n d.2 + b2n f.2) + b2n p.2 + t.2 + b2n r.2)

/-! ## Results -/

/-- What a row of results becomes: codes by column, one scale for each channel group, poison by column. -/
structure OutRow where
  codes : List Nat
  scales : List Nat
  poison : List Bool
  sat : Nat
  nan : Nat

/-- Convert or quantise a row's results (R162, R166, R180); `int` says that the results are INT32, and `rds` gives the
rounding of each column. -/
def outRow (o : TD) (grad int : Bool) (rds : Nat → Rounder) (xs : List (W32 × Bool × Bool)) : OutRow :=
  let val (a : W32) : Val := if int then .ofInt (i32 a) else v32 a
  if o.scaleFmt = 0 then
    let ys := xs.zipIdx.map fun x => (x.1, convert (rds x.2) o.elem grad (val x.1.1))
    { codes := ys.map fun y => y.2.code
      scales := []
      poison := xs.map fun x => x.2.2
      sat := (ys.filter fun y => y.1.2.1 || y.2.sat).length
      nan := (ys.filter fun y => y.2.nan).length }
  else
    let gs := (List.range ((xs.length + 31) / 32)).map fun g =>
      let ls := laneGroup xs g
      let vs := ls.map fun x => some (if int then v32 (lane32 grad (val x.1)).1 else val x.1)
      let pad := (List.range (32 - ls.length)).map fun _ => (none : Option Val)
      (ls, quantise ((List.range 32).map fun j => rds (32 * g + j)) o.elem o.scaleFmt (vs ++ pad))
    { codes := gs.flatMap fun y => y.2.codes.take y.1.length
      scales := gs.map fun y => y.2.scale
      poison := gs.flatMap fun y => List.replicate y.1.length (y.1.any fun x => x.2.2)
      sat := (gs.map fun y => (y.1.zipIdx.filter fun x => x.1.2.1 || y.2.limited.getD x.2 false).length).sum
      nan := (gs.map fun y => y.2.nans).sum }

/-! ## Writing rows of a tensor, in the order-free form of R121 -/

/-- Whether no two rows of a tensor share a group: every stride covers all that lies below it. -/
def TD.disjoint (t : TD) : Bool :=
  ((List.range (t.rank - 1)).foldl (fun (x : Bool × Nat) d =>
    (x.1 && (decide (t.size (d + 1) = 1) || decide (x.2 ≤ t.stride (d + 1))), x.2 + (t.size (d + 1) - 1) * t.stride (d + 1)))
    (true, t.cg)).1

/-- The rows that place a channel group on group g, with that channel group, ascending. -/
def TD.takers (t : TD) (g : Nat) : List (Nat × Nat) :=
  (List.range t.rows).filterMap fun q =>
    let b := t.rowGroup (t.row q)
    if b ≤ g ∧ g < b + t.cg then some (q, g - b) else none

/-- Write channel group k of row q: valid positions that no element of a higher linear index takes, padding where no valid
element lands, the scale of the highest row, and poison by position. -/
def Run.putGroup (r : Run) (v : View) (q k : Nat) (codes : List Nat) (po : List Bool) (scale : Option Nat) (padw : Bool) : Run :=
  let t := v.td
  let idx := t.row q
  let ts := if t.disjoint then [] else (t.takers (t.rowGroup idx + k)).filter fun x => x.1 != q
  let n := t.validIn k
  let pc := if t.scaleFmt ≠ 0 then 0 else (fillCode t.elem 0 t.pad.toNat).getD 0   -- element code 0 in a block-scaled format (R166)
  let cell (j : Nat) : Option Nat :=
    if j < n then (if ts.any fun x => decide (q < x.1) && decide (j < t.validIn x.2) then none else some (codes.getD j 0))
    else if padw || ts.any (fun x => decide (j < t.validIn x.2)) then none else some pc
  let sc := if ts.any fun x => decide (q < x.1) then none else scale
  r.put v idx k ((List.range 32).map cell) sc (po.take n)

/-- Write columns `[128 j, 128 j + 128)` of row q. -/
def Run.putRow (r : Run) (v : View) (q j : Nat) (o : OutRow) (padw : Bool) : Run :=
  let r := { r with sat := r.sat + o.sat, nan := r.nan + o.nan }
  (List.range 4).foldl (fun r g =>
    if 4 * j + g < v.td.cg then
      r.putGroup v q (4 * j + g) (laneGroup o.codes g) (laneGroup o.poison g) (if v.td.scaleFmt = 0 then none else some (o.scales.getD g 0)) padw
    else r) r

/-- Run a program over one row of a block: the result lanes, the run and the tile registers. -/
def VEnv.runRow (v : VEnv) (ins : List EIn) (run : Run) (trgs : List Trg) : VRow :=
  v.im.instrs.foldl v.instr (v.startRow ins { lanes := [], run := run, trgs := trgs })

/-- The results of a row of lanes, as `outRow` takes them. -/
def resultLanes (ls : List Lane) : List (W32 × Bool × Bool) := ls.map fun l => (l.regs.getD 0 0, l.sat, l.poison)

/-- Write RM and RS of a row and block to the statistics tensor (R190, R192). -/
def Run.putStats (r : Run) (t : TD) (row j batch : Nat) (rm rs : W32) (po : Bool) : Run :=
  let idx := row :: j :: digits (t.dims.drop 3) batch
  r.put { td := t } idx 0 ([some rm.toNat, some rs.toNat] ++ List.replicate 30 none) none [po, po]

end Sys2Proof.Machine
end

