-- ==== Sys2Proof/Machine/Vector.lean ====
section
/-! DEFINITION. ELEMENT, program loads and scrubs (07 R194-R203, R474, R475). A unit is one atomic piece of work: its reads see
memory as it stood when the unit began. -/

namespace Sys2Proof.Machine

/-! ## One unit -/

/-- What an ELEMENT command asks of each unit. -/
structure Elem where
  mode : Nat
  arg : Nat
  grad : Bool
  padw : Bool
  src : TD
  dst : TD
  srcReg : Option Nat
  dstReg : Option Nat
  aux : Option TD
  step : Nat
  ctx : Nat

/-- The fields of ELEMENT (R194). -/
def Cmd.elem (c : Cmd) (ctx : Nat) : Elem :=
  let fl := c.f 0x36 1
  let sd := elementTds c.bytes c.tds
  { mode := c.f 0x34 1, arg := c.f 0x35 1, grad := fl.testBit 0, padw := fl.testBit 1, src := sd.1, dst := sd.2
    srcReg := if fl.testBit 2 then some (bits (c.f 0x37 1) 2 0) else none
    dstReg := if fl.testBit 3 then some (bits (c.f 0x37 1) 6 4) else none
    aux := slotTd c.tds (if c.f 0x34 1 = 3 then 2 else 5), step := c.f 0x30 4, ctx := ctx }

/-- Rows of one batch index, and the number of batch indices. -/
def TD.rows1 (t : TD) : Nat := if t.rank ≤ 1 then 1 else t.size 1
def TD.batches (t : TD) : Nat := (t.dims.drop 2).foldl (· * ·) 1
def TD.colBlocks (t : TD) : Nat := (t.size 0 + 127) / 128

/-- The units of an ELEMENT (R196): batch index slowest. -/
def Elem.units (e : Elem) : Nat :=
  if e.mode = 2 then e.src.batches * e.src.colBlocks
  else if e.mode = 3 then e.src.rows
  else e.src.batches * ((e.src.rows1 + 127) / 128)

/-- What a unit leaves: the run, the tile's registers, and the blocks and issue slots it took. -/
structure UnitOut where
  run : Run
  trgs : List Trg
  regs : RowRegs := {}
  blocks : Nat := 0
  issue : Nat := 0

/-- Columns `[128 j, 128 j + 128)` of row q of the source, from memory or from a tile register (R180, R195). -/
def Elem.load (e : Elem) (tag : Nat × Byte) (trgs : List Trg) (r : Run) (q j : Nat) : List EIn × Run :=
  match e.srcReg with
  | none => r.loadRow { td := e.src } e.grad none (e.src.row q) j
  | some g =>
    if j = 0 then ((List.range (min 128 (e.src.size 0))).map fun p => { code := (trgs.getD g {}).get tag (128 * q + p) }, r)
    else ([], r)

/-- Write columns of row q of the destination, to memory or to a tile register. -/
def Elem.store (e : Elem) (tag : Nat × Byte) (u : UnitOut) (q j : Nat) (o : OutRow) : UnitOut :=
  match e.dstReg with
  | none => { u with run := u.run.putRow { td := e.dst } q j o e.padw }
  | some g =>
    { u with
      run := { u.run with sat := u.run.sat + o.sat, nan := u.run.nan + o.nan }
      trgs := u.trgs.modify g fun t => o.codes.zipIdx.foldl (fun t c => t.set tag (128 * q + 128 * j + c.2) (BitVec.ofNat 32 c.1)) t }

/-- One row of one block of a PROGRAM unit. -/
def Elem.progRow (e : Elem) (im : Image) (st : Option TD) (seed : W64) (tag : Nat × Byte) (batch row rb j : Nat)
    (u : UnitOut) : UnitOut :=
  let q := batch * e.src.rows1 + row
  let ins := e.load tag u.trgs u.run q j
  let s := u.regs.row rb
  let m := if im.stats then rowMax e.grad s.1 (ins.1.map (·.code)) else (negInf, 0)
  let v : VEnv := { im := im, grad := e.grad, seed := seed, step := BitVec.ofNat 64 e.step, row := row, rb := rb, col0 := 128 * j,
                    lin0 := q * e.dst.size 0 + 128 * j, aux := e.aux.map fun t => { td := t }, auxIdx := e.src.row q,
                    rm := m.1, rmo := s.1, rs := s.2, tag := tag }
  let y := v.runRow ins.1 ins.2 u.trgs
  let u := e.store tag { u with run := y.run, trgs := y.trgs } q j
    (outRow e.dst e.grad im.intResult (fun _ => rne) (resultLanes y.lanes))
  match st with
  | some t =>
    let z := rowSum e.grad m.1 s.1 s.2 (y.lanes.map (·.rsum))
    let r := { u.run with sat := u.run.sat + m.2 + z.2 }
    { u with run := r.putStats t row j batch m.1 z.1 (y.lanes.any (·.poison)), regs := u.regs.setRow rb m.1 z.1 }
  | none => u

/-- A PROGRAM unit: column blocks ascending, rows ascending within each. -/
def Elem.progUnit (e : Elem) (im : Image) (st : Option TD) (seed : W64) (tag : Nat × Byte) (n : Nat) (u : UnitOut) : UnitOut :=
  let per := (e.src.rows1 + 127) / 128
  let batch := n / per
  let r0 := 128 * (n % per)
  let cnt := min 128 (e.src.rows1 - r0)
  let y := forN e.src.colBlocks (if im.stats then { u with regs := u.regs.begin } else u) fun u j =>
    forN cnt (if im.stats then { u with regs := u.regs.turn } else u) fun u rb => e.progRow im st seed tag batch (r0 + rb) rb j u
  { y with blocks := e.src.colBlocks, issue := 64 * im.issue * e.src.colBlocks }

/-! ### Reductions (R198): every saturating operation counts -/

/-- The operation of a reduction: 0 SUM, 1 MAX, 2 MIN, on INT32 or FP32. -/
def redOp (int grad : Bool) (op : Nat) (a b : W32) : W32 × Bool :=
  if int then clamp32 (if op = 0 then i32 a + i32 b else if op = 1 then max (i32 a) (i32 b) else min (i32 a) (i32 b))
  else if op = 0 then addOp grad a b else if op = 1 then maxOp grad a b else minOp grad a b

/-- Its identity: +0, −Inf or +Inf, or the INT32 limits. -/
def redId (int : Bool) (op : Nat) : W32 :=
  if op = 0 then 0 else if op = 1 then (if int then 0x80000000 else negInf) else (if int then 0x7FFFFFFF else posInf)

/-- Values in blocks of 128 along the reduced axis. -/
def blocksOf (xs : List W32) : List (List W32) := (List.range ((xs.length + 127) / 128)).map fun j => (xs.drop (128 * j)).take 128

/-- The reduction of one row or channel, and its saturations. -/
def reduceVals (int grad : Bool) (op : Nat) (xs : List W32) : W32 × Nat :=
  (blocksOf xs).foldl (fun (a : W32 × Nat) b =>
    let t := tree128 (redOp int grad op) (fill128 b (redId int op))
    let y := redOp int grad op a.1 t.1
    (y.1, a.2 + t.2 + b2n y.2)) (redId int op, 0)

/-- The whole of row q of the source. -/
def Elem.wholeRow (e : Elem) (tag : Nat × Byte) (trgs : List Trg) (r : Run) (q : Nat) : List EIn × Run :=
  forN e.src.colBlocks ([], r) fun x j => let y := e.load tag trgs x.2 q j; (x.1 ++ y.1, y.2)

def Elem.int (e : Elem) : Bool := e.srcReg.isNone && e.src.intInput

/-- Reduce one list of elements to one result. -/
def Elem.reduceOne (e : Elem) (xs : List EIn) : (W32 × Bool × Bool) × Nat :=
  let y := reduceVals e.int e.grad e.arg (xs.map (·.code))
  ((y.1, false, xs.any (·.poison)), y.2 + (xs.filter (·.sat)).length)

/-- A REDUCE_ROW unit. -/
def Elem.rowUnit (e : Elem) (tag : Nat × Byte) (n : Nat) (u : UnitOut) : UnitOut :=
  let per := (e.src.rows1 + 127) / 128
  let batch := n / per
  let r0 := 128 * (n % per)
  let y := forN (min 128 (e.src.rows1 - r0)) u fun u k =>
    let q := batch * e.src.rows1 + r0 + k
    let x := e.wholeRow tag u.trgs u.run q
    let z := e.reduceOne x.1
    e.store tag { u with run := { x.2 with sat := x.2.sat + z.2 } } q 0 (outRow e.dst e.grad e.int (fun _ => rne) [z.1])
  { y with blocks := e.src.colBlocks, issue := 64 * e.src.colBlocks }

/-- A REDUCE_COL unit. -/
def Elem.colUnit (e : Elem) (tag : Nat × Byte) (n : Nat) (u : UnitOut) : UnitOut :=
  let batch := n / e.src.colBlocks
  let j := n % e.src.colBlocks
  let x := forN e.src.rows1 (([] : List (List EIn)), u.run) fun x k =>
    let y := e.load tag u.trgs x.2 (batch * e.src.rows1 + k) j
    (x.1 ++ [y.1], y.2)
  let w := min 128 (e.src.size 0 - 128 * j)
  let zs := (List.range w).map fun p => e.reduceOne (x.1.map fun row => row.getD p {})
  let blocks := (e.src.rows1 + 127) / 128
  let y := e.store tag { u with run := { x.2 with sat := x.2.sat + (zs.map (·.2)).sum } } batch j
    (outRow e.dst e.grad e.int (fun _ => rne) (zs.map (·.1)))
  { y with blocks := blocks, issue := 64 * blocks }

/-! ### TOPK (R199) -/

/-- Whether a value ranks strictly before another: larger first, NaN below −Inf. -/
def ranksBefore (a b : W32) : Bool :=
  if (v32 a).isNan then false else (v32 b).isNan || (v32 b).lt (v32 a)

/-- Insert a channel into a ranking: after every earlier channel of equal rank. -/
def rankIns (x : Nat × W32) : List (Nat × W32) → List (Nat × W32)
  | [] => [x]
  | y :: r => if ranksBefore x.2 y.2 then x :: y :: r else y :: rankIns x r

/-- A TOPK unit: one row. -/
def Elem.topUnit (e : Elem) (tag : Nat × Byte) (q : Nat) (u : UnitOut) : UnitOut :=
  let x := e.wholeRow tag u.trgs u.run q
  let top := ((x.1.zipIdx.foldl (fun l y => rankIns (y.2, y.1.code) l) []).take e.arg)
  let miss := e.arg - top.length
  let po := x.1.any (·.poison)
  let vals := top.map (fun y => (y.2, false, po)) ++ List.replicate miss (negInf, false, po)
  let idxs := top.map (fun y => (BitVec.ofNat 32 y.1, false, po)) ++ List.replicate miss ((0xFFFFFFFF : W32), false, po)
  let r := { x.2 with sat := x.2.sat + (x.1.filter (·.sat)).length, range := x.2.range + miss }
  let u := e.store tag { u with run := r } q 0 (outRow e.dst e.grad false (fun _ => rne) vals)
  let u := match e.aux with
    | some t => { u with run := u.run.putRow { td := t } q 0 (outRow t e.grad true (fun _ => rne) idxs) e.padw }
    | none => u
  { u with blocks := (e.src.size 0 + 127) / 128, issue := (e.src.size 0 + 31) / 32 + 16 }

/-! ## Units on tiles -/

/-- The tag of a context's tile registers (R179). -/
def Hw.tag (h : Hw) (n : Nat) : Nat × Byte := (n, (h.ctx n).epoch)

/-- A tile after a unit: its registers, flags and counters. -/
def Hw.noteUnit (h : Hw) (die tile : Nat) (before : Run) (u : UnitOut) : Hw :=
  let f := h.free
  f.2.setTile die tile fun t =>
    { t.noteVe (decide (before.range < u.run.range)) (decide (before.nan < u.run.nan)) u.blocks u.issue (Config.freeValue f.1)
      with trgs := u.trgs, elemRegs := u.regs, unit := none }

/-- The tile that holds a unit of a command whose accesses wait (R203). -/
def Hw.unitHolder (h : Hw) (ring : Nat) (i : W32) (unit : Nat) : Option (Nat × Nat) :=
  (h.tiles.findIdx? fun (t : Tile) => t.unit == some (ring, i, unit)).map fun k => (k / 16, k % 16)

/-- The end of a unit: the command goes on with the unit taken, or ends on a failure or with its last unit; the tile holds a unit whose
accesses wait. -/
def Hw.endUnit (h : Hw) (ring : Nat) (c : Cmd) (die tile unit : Nat) (before : Run) (u : UnitOut) (dies taken : List Nat)
    (units : Nat) : Hw :=
  if u.run.waits && u.run.fail.isNone then (h.holdCmd ring c.index u.run).setTile die tile fun t => { t with unit := some (ring, c.index, unit) }
  else
    let r := { u.run with h := u.run.h.noteUnit die tile before u }
    let taken := setIns taken unit
    if r.fail.isSome || decide (units ≤ taken.length) then
      (h.endRun ring c.index r false).setCmd ring c.index fun c => { c with work := .element dies taken }
    else h.keepRun ring c.index r fun c => { c with work := .element dies taken }

/-- What one unit of an ELEMENT reads and writes on a tile; none where its program slot has been emptied. -/
def Hw.unitOut (h : Hw) (ring : Nat) (c : Cmd) (die tile unit : Nat) (env : Env) : Option UnitOut :=
  let n := (h.ring ring).ctx
  let e := c.elem n
  let tag := h.tag n
  let t := h.tile die tile
  let u : UnitOut := { run := { (Run.start h die n true true env).resume c with supply := true, cls := .crit }, trgs := t.trgs, regs := t.elemRegs }
  if e.mode = 0 then
    (h.programOf c die tile e.arg n).map fun im =>
      let x := e.progUnit im (slotTd c.extraTds tile) (h.ctx n).plan.jobSeed tag unit u
      { x with run := x.run.spoil c die tile }
  else if e.mode = 1 then some (e.rowUnit tag unit u)
  else if e.mode = 2 then some (e.colUnit tag unit u)
  else some (e.topUnit tag unit u)

/-- Run one unit of an ELEMENT on a tile. A program slot that has been emptied ends the command (log 26). -/
def Hw.elementUnit (h : Hw) (ring : Nat) (c : Cmd) (die tile unit : Nat) (taken : List Nat) (env : Env) : Hw :=
  let n := (h.ring ring).ctx
  match h.unitOut ring c die tile unit env with
  | none => h.finishCmd ring c.index stStateConflict 0x0503
  | some u => h.endUnit ring c die tile unit ((Run.start h die n true true env).resume c) u [die] taken (c.elem n).units

/-- The tiles of a mask that take work now: working, with no unit held and no scrub pending, and with their clocks running (R203, R364,
R407). -/
def Hw.takingTiles (h : Hw) (die mask : Nat) : List Nat :=
  (h.workTiles die mask).filter fun t =>
    (h.tile die t).unit.isNone && !(h.tile die t).scrubTrg && !(h.tile die t).scrubSlot && !h.tileStands die t

/-- The tile on which a unit of a command runs: the one that holds it, or the (u mod c)-th of the c tiles that take work (log 25). -/
def Hw.unitTile (h : Hw) (ring : Nat) (i : W32) (taking : List (Nat × Nat)) (unit : Nat) : Option (Nat × Nat) :=
  match h.unitHolder ring i unit with
  | some x => if h.tileStands x.1 x.2 then none else some x
  | none => taking[unit % taking.length]?

/-- A started ELEMENT of a mode with its die and the units taken. -/
def Cmd.elementWork (c : Cmd) : Option (Nat × List Nat) :=
  match c.work with
  | .element [d] taken => some (d, taken)
  | _ => none

/-- All units of an ELEMENT not yet finished. -/
def Hw.elementAll (h : Hw) (ring : Nat) (i : W32) (env : Env) : Hw :=
  match h.cmd ring i with
  | none => h
  | some c0 =>
    forN (c0.elem (h.ring ring).ctx).units h fun h u =>
      match h.cmd ring i with
      | none => h
      | some c =>
        match c.elementWork with
        | some (die, taken) =>
          if c.phase == .done || taken.contains u then h
          else match h.unitTile ring i ((h.takingTiles die (c.f 0x38 2)).map fun t => (die, t)) u with
            | some x => h.elementUnit ring c die x.2 u taken env
            | none => h
        | none => h

/-- An ELEMENT command of a mode. -/
def Hw.elementOf (h : Hw) (ring : Nat) (i : W32) (mode : Nat) (env : Env) : Hw :=
  h.onCmd ring i 0x11 fun c => if c.f 0x34 1 = mode then h.elementAll ring i env else h

/-- ELEMENT_PROGRAM (R194-R197). -/
def execElementProgram (ring : Nat) (index : W32) (env : Env) (s : State) : Host.Outcome State Fault Refusal :=
  act (fun h => h.elementOf ring index 0 env) s

/-- ELEMENT_REDUCE_ROW (R198). -/
def execElementReduceRow (ring : Nat) (index : W32) (env : Env) (s : State) : Host.Outcome State Fault Refusal :=
  act (fun h => h.elementOf ring index 1 env) s

/-- ELEMENT_REDUCE_COL (R198). -/
def execElementReduceCol (ring : Nat) (index : W32) (env : Env) (s : State) : Host.Outcome State Fault Refusal :=
  act (fun h => h.elementOf ring index 2 env) s

/-- ELEMENT_TOPK (R199). -/
def execElementTopk (ring : Nat) (index : W32) (env : Env) (s : State) : Host.Outcome State Fault Refusal :=
  act (fun h => h.elementOf ring index 3 env) s

/-! ## LOAD_PROGRAM (R201, R202) -/

/-- Whether a started command runs on a die, names a program slot and includes a tile. -/
def Cmd.usesSlot (c : Cmd) (die tile slot : Nat) : Bool :=
  let onDie := match c.work with
    | .matmul d _ _ _ => d == die
    | .element ds _ => ds.contains die
    | _ => false
  let named :=
    if c.opcode = 0x10 then c.f 0x3B 1 == slot && (c.f 0x38 2).testBit tile
    else if c.opcode = 0x11 then c.f 0x34 1 == 0 && c.f 0x35 1 == slot && (c.f 0x38 2).testBit tile
    else if c.opcode = 0x20 then c.f 0x30 1 == slot && (c.f 0x32 2).testBit tile
    else false
  (c.phase == .started || c.phase == .blocked) && onDie && named

/-- A parity error empties a program slot of a tile; the commands that run from it there go on and will end POISON (R350). -/
def Hw.breakSlot (h : Hw) (die tile slot : Nat) : Hw :=
  let h1 := h.setDie die fun d => { d with ctrlCe := satAdd d.ctrlCe 1 }
  let h2 := h1.setTile die tile fun t =>
    { t with slots := t.slots.map fun (x : Nat × Slot) => if x.1 = slot then (x.1, { x.2 with broken := true }) else x }
  { h2 with rings := h2.rings.map fun (w : WorkRing) =>
      { w with running := w.running.map fun (c : Cmd) =>
          if c.usesSlot die tile slot && (h.program die tile slot w.ctx).isSome then { c with spoiled := c.spoiled ++ [(die, tile)] } else c } }

/-- Whether a started LOAD_PROGRAM loads a slot on a tile (R202). -/
def Cmd.loadsSlot (c : Cmd) (die tile slot : Nat) : Bool :=
  c.opcode == 0x12 && c.phase == .started && c.f 0x20 1 == slot && (c.f 0x21 1 == 0 || c.f 0x21 1 == die + 1) && (c.f 0x22 2).testBit tile

/-- Whether a load may take effect on a tile: no earlier command uses or loads the slot there, and no scrub is pending. -/
def Hw.loadOk (h : Hw) (c : Cmd) (die tile : Nat) : Bool :=
  let slot := c.f 0x20 1
  let t := h.tile die tile
  !t.scrubTrg && !t.scrubSlot && !h.tileStands die tile &&
  !(h.rings.any fun w => w.running.any fun d => decide (d.order < c.order) && (d.usesSlot die tile slot || d.loadsSlot die tile slot))

/-- Load a command's image on one tile. -/
def Hw.loadTile (h : Hw) (ring : Nat) (c : Cmd) (die tile : Nat) : Hw :=
  match c.work, c.image with
  | .load left, some im =>
    if left.contains (die, tile) && h.loadOk c die tile then
      let n := (h.ring ring).ctx
      let slot := c.f 0x20 1
      let left := left.filter (· != (die, tile))
      let h := h.setTile die tile fun t =>
        { t with slots := t.slots.filter (·.1 != slot) ++ [(slot, { ctx := n, epoch := (h.ctx n).epoch, image := im })] }
      h.setCmd ring c.index fun c => let c : Cmd := { c with work := .load left }; if left.isEmpty then c.finish stOk 0 else c
    else h
  | _, _ => h

/-- LOAD_PROGRAM (R201): every tile on which the load can take effect now. -/
def execLoadProgram (ring : Nat) (index : W32) (s : State) : Host.Outcome State Fault Refusal :=
  act (fun h => h.onCmd ring index 0x12 fun c =>
    match c.work with
    | .load left => left.foldl (fun h x => match h.cmd ring index with | some c => h.loadTile ring c x.1 x.2 | none => h) h
    | _ => h) s

/-- Running commands that pass a test, as (ring, command). -/
def Hw.runningWhere (h : Hw) (p : Cmd → Bool) : List (Nat × Cmd) :=
  h.rings.zipIdx.flatMap fun w => (w.1.running.filter p).map fun c => (w.2, c)

/-- The one that started first. -/
def firstStarted (l : List (Nat × Cmd)) : Option (Nat × Cmd) :=
  l.foldl (fun b x => match b with | some y => if x.2.order < y.2.order then some x else b | none => some x) none

/-- PROGRAM_LOAD_TILE (R202): the earliest load that waits on a tile and can take effect. -/
def execProgramLoadTile (die tile : Nat) (s : State) : Host.Outcome State Fault Refusal :=
  act (fun h =>
    match firstStarted (h.runningWhere fun c => c.opcode == 0x12 && c.phase == .started && (match c.work with
      | .load l => l.contains (die, tile) && h.loadOk c die tile
      | _ => false)) with
    | some x => h.loadTile x.1 x.2 die tile
    | none => h) s

/-! ## Scrubs (R203) -/

/-- TRG_SCRUB: VE_CTL bit 0 is written. -/
def execTrgScrub (die tile : Nat) (s : State) : Host.Outcome State Fault Refusal :=
  actReg (tileOff die tile) (fun h => h.setTile die tile fun t => { t with scrubTrg := true }) s

/-- SLOT_SCRUB: VE_CTL bit 1 is written. -/
def execSlotScrub (die tile : Nat) (s : State) : Host.Outcome State Fault Refusal :=
  actReg (tileOff die tile) (fun h => h.setTile die tile fun t => { t with scrubSlot := true }) s

/-- SCRUB_PERFORM: once the tile holds no strip, drain or unit, the requested scrubs happen and the tile takes work again. -/
def execScrubPerform (die tile : Nat) (s : State) : Host.Outcome State Fault Refusal :=
  act (fun h =>
    if (h.tile die tile).strip.isSome || (h.tile die tile).draining || (h.tile die tile).unit.isSome || h.tileStands die tile then h
    else h.setTile die tile fun t =>
      { t with
        trgs := if t.scrubTrg then List.replicate 8 {} else t.trgs
        slots := if t.scrubSlot then [] else t.slots
        scrubTrg := false
        scrubSlot := false }) s

end Sys2Proof.Machine
end

