-- ==== Sys2Proof/Machine/Matrix.lean ====
section
/-! DEFINITION. MATMUL: operands, accumulation, drain and the tile scheduler (05 R128-R146; 13 R337). -/

namespace Sys2Proof.Machine

/-! ## Operands -/

/-- An operand: its TD and, when it is paged, the paged dimension and its page entries; none is a page that delivers zero. -/
structure Oper where
  td : TD
  paged : Option (Nat × List (Option (Nat × Nat))) := none

/-- One channel group of a page list's operand (R140). -/
def Run.pagedGrp (r : Run) (t : TD) (dim : Nat) (pages : List (Option (Nat × Nat))) (idx : List Nat) (k : Nat) : Grp × Run :=
  let r := { r with paged := true }
  let done (x : Grp × Run) : Grp × Run := (x.1, { x.2 with paged := false })
  let zero : Grp := ⟨zeros t.b, scaleOne t.scaleFmt, []⟩
  if dim = 1 then
    let i := idx.headD 0
    match pages.getD (i / 16) none with
    | none => done (zero, r)
    | some (pv, ps) =>
      let g := t.rowGroup (i % 16 :: idx.drop 1) + k
      let a := pv + g * t.b
      let y := r.readGroups a t.b
      if t.scaleFmt = 0 then done (⟨y.1.1, 0, grpMarks t.elem a y.1.2 false⟩, y.2)
      else let z := y.2.read (ps + g) 1; done (⟨y.1.1, fld z.1.1 0 1, grpMarks t.elem a y.1.2 z.1.2⟩, z.2)
  else
    let half (r : Run) (p : Nat) : (List Byte × List Bool) × Run :=
      if t.size 0 ≤ 16 * p then ((zeros (t.b / 2), List.replicate 16 false), r)
      else match pages.getD p none with
      | none => ((zeros (t.b / 2), List.replicate 16 false), r)
      | some (pv, _) =>
        let a := pv + t.rowGroup idx * (t.b / 2)
        let y := r.readGroups a (t.b / 2)
        ((y.1.1, (List.range 16).map fun j => y.1.2.contains (elemGroup t.elem a j)), y.2)
    let a := half r (2 * k)
    let b := half a.2 (2 * k + 1)
    done (⟨a.1.1 ++ b.1.1, 0, a.1.2 ++ b.1.2⟩, b.2)

/-- A channel group of an operand. -/
def Run.operGrp (r : Run) (o : Oper) (idx : List Nat) (k : Nat) : Grp × Run :=
  match o.paged with
  | none => r.grp { td := o.td } idx k
  | some (dim, pages) => r.pagedGrp o.td dim pages idx k

/-- Read the page entries of a paged operand: those below `p` that it needs. A poisoned entry ends the command; `count` adds the
missing and misaligned pages to RANGE_COUNT, which one output tile of the command does (R140, R337, R350). -/
def Run.pageEntries (r : Run) (t : TD) (dim p list : Nat) (count : Bool) : List (Option (Nat × Nat)) × Run :=
  let need := (t.size dim + 15) / 16
  let x := forN (min p need) (([] : List (Option (Nat × Nat))), r) fun x i =>
    let y := x.2.read (list + 16 * i) 16
    let v := fld y.1.1 0 8
    let r := if y.1.2 && y.2.fail.isNone then { y.2 with fail := some (stPoison, 0) } else y.2
    if v % t.b = 0 then (x.1 ++ [some (v, fld y.1.1 8 8)], r) else (x.1 ++ [none], r)
  let bad := (x.1.filter (·.isNone)).length + (need - p)
  (x.1, if count then { x.2 with range := x.2.range + bad } else x.2)

/-- A row of an operand along K: the values and the block scale of each channel group, and its poison. -/
structure OpRow where
  groups : List (List Val × Val)
  poison : Bool

/-- The channel groups of a row of an operand, from its source. -/
def Run.operGroups (r : Run) (o : Oper) (idx : List Nat) : List Grp × Run :=
  forN o.td.cg (([] : List Grp), r) fun x k => let g := x.2.operGrp o idx k; (x.1 ++ [g.1], g.2)

/-- A row of an operand from its channel groups, and how many reserved codes it holds (R156). -/
def TD.opRow (t : TD) (gs : List Grp) : OpRow × Nat :=
  let ys := gs.zipIdx.map fun g =>
    let s := if t.scaleFmt = 0 then (Val.fin false 1 1, 0) else scaleVal t.scaleFmt g.1.scale
    let vs := (List.range (t.validIn g.2)).map fun j => elemVal true t.elem (codeAt t.elem g.1.bytes j)
    ((vs.map (·.1), s.1), s.2 + (vs.map (·.2)).sum)
  ({ groups := ys.map (·.1), poison := gs.any fun (g : Grp) => g.poison }, (ys.map (·.2)).sum)

/-- Read a row of an operand; `count` adds its reserved codes to RANGE_COUNT (R156). -/
def Run.operRow (r : Run) (o : Oper) (idx : List Nat) (count : Bool) : OpRow × Run :=
  let g := r.operGroups o idx
  let y := o.td.opRow g.1
  (y.1, if count then { g.2 with range := g.2.range + y.2 } else g.2)

/-! ## Accumulation (R129, R132-R134) -/

/-- One step of an FP32 accumulator. -/
def Acc.step (grad : Bool) (a : Acc) (g : Val) : Acc :=
  let x := (v32 a.code).add g
  let y := lane32 grad x
  { code := y.1, sat := a.sat || y.2, inf := a.inf || (x.finite && !(v32 y.1).finite) }

/-- The exact sum of products. -/
def dot (xs ys : List Val) : Val := (xs.zip ys).foldl (fun s p => s.add (p.1.mul p.2)) (.fin false 0 1)

/-- Sums of products in pairs. -/
def pairSums : List Val → List Val → List Val
  | x :: x' :: xs, y :: y' :: ys => (x.mul y).add (x'.mul y') :: pairSums xs ys
  | [x], [y] => [x.mul y]
  | _, _ => []

/-- The sixteen pair sums of a channel group: those past K are exact zeros (R132). -/
def groupPairs (xs ys : List Val) : List Val :=
  let p := pairSums xs ys
  p ++ List.replicate (16 - p.length) (.fin false 0 1)

/-- An exact integer. -/
def Val.toInt : Val → Int
  | .fin s n d => if s then -((n / d : Nat) : Int) else ((n / d : Nat) : Int)
  | _ => 0

/-- The accumulation of one output element. -/
def accumulate (int half grad : Bool) (a b : OpRow) : Acc :=
  (a.groups.zip b.groups).foldl (fun acc g =>
    if int then
      let y := clamp32 (i32 acc.code + (dot g.1.1 g.2.1).toInt)
      { acc with code := y.1, sat := acc.sat || y.2 }
    else if half then (groupPairs g.1.1 g.2.1).foldl (Acc.step grad) acc
    else Acc.step grad acc (((dot g.1.1 g.2.1).mul g.1.2).mul g.2.2)) {}

/-! ## Drain (R141) -/

/-- A coarse scale, 1.0 where there is none. -/
def coarseOf (t : TD) : W32 := if t.coarseEn then t.coarse else 0x3F800000

/-- t = RNE(RNE(cA × cB) / cO); quotients that R141 does not state are free (log 3). -/
def coarseT (grad : Bool) (a b o : TD) : W32 :=
  let s := (lane32 grad ((v32 (coarseOf a)).mul (v32 (coarseOf b)))).1
  let c := coarseOf o
  let open_ := (v32 c).isZero || (!(v32 s).finite && !(v32 s).isNan && !(v32 c).finite && !(v32 c).isNan)
  if open_ then Config.coarseQuotient s c else (lane32 grad ((v32 s).div (v32 c))).1

/-- The value v of an accumulator, whether the coarse scale clamped it, and whether it made ±Inf of a finite value. -/
def drainValue (int grad : Bool) (t : W32) (a : Acc) : W32 × Bool × Bool :=
  if t = 0x3F800000 then (a.code, false, false)
  else
    let f := if int then (lane32 grad (.ofInt (i32 a.code))).1 else a.code
    let x := (v32 f).mul (v32 t)
    let y := lane32 grad x
    (y.1, y.2, x.finite && !(v32 y.1).finite)

/-! ## The scheduler (R143, R144) -/

/-- A MATMUL as its tiles see it. -/
structure Mat where
  a : TD
  b : TD
  o : TD
  grad : Bool
  padw : Bool
  static : Bool
  strip : Nat
  prog : Option Nat
  mask : Nat
  paged : Option (Bool × Nat × Nat)     -- B is paged, the paged dimension, the slot
  aux : Option TD

def Cmd.mat (c : Cmd) : Mat :=
  let fl := c.f 0x3C 2
  let t (k : Nat) := (slotTd c.tds k).getD {}
  { a := t 0, b := t 4, o := t 1
    grad := if bits fl 2 1 = 0 then fl.testBit 0 else bits fl 2 1 == 2
    padw := fl.testBit 11
    static := fl.testBit 3
    strip := if bits fl 10 7 = 0 then 8 else bits fl 10 7
    prog := if c.f 0x3B 1 = 0xFF then none else some (c.f 0x3B 1)
    mask := c.f 0x38 2
    paged := if fl.testBit 4 then some (fl.testBit 5, (if fl.testBit 6 then 0 else 1), c.f 0x3E 1) else none
    aux := slotTd c.tds 5 }

def Mat.rowBlocks (m : Mat) : Nat := (m.o.rows1 + 127) / 128
def Mat.colBlocks (m : Mat) : Nat := m.o.colBlocks
def Mat.perRow (m : Mat) : Nat := (m.colBlocks + m.strip - 1) / m.strip
def Mat.strips (m : Mat) : Nat := m.o.batches * m.rowBlocks * m.perRow
def Mat.outTiles (m : Mat) : Nat := m.o.batches * m.rowBlocks * m.colBlocks
/-- Batch index, row block, first column block and length of strip q. -/
def Mat.stripAt (m : Mat) (q : Nat) : Nat × Nat × Nat × Nat :=
  let j0 := q % m.perRow * m.strip
  (q / (m.rowBlocks * m.perRow), q / m.perRow % m.rowBlocks, j0, min m.strip (m.colBlocks - j0))
/-- Whether both operands are INT8 without a block scale (R129). -/
def Mat.int (m : Mat) : Bool := m.a.elem == 7 && m.b.elem == 7 && m.a.scaleFmt == 0 && m.b.scaleFmt == 0
def Mat.half (m : Mat) : Bool := m.a.elem == 1 || m.a.elem == 2

/-- The lowest strip that a tile may take next. -/
def Mat.nextStrip (m : Mat) (tiles taken : List Nat) (tile : Nat) : Option Nat :=
  (List.range m.strips).find? fun q =>
    !taken.contains q && (!m.static || tiles[q % tiles.length]? == some tile)

/-- A started MATMUL: its die, strips taken, output tiles drained and pages. -/
def Cmd.matWork (c : Cmd) : Option (Nat × List Nat × List Nat × Nat) :=
  match c.work with
  | .matmul d taken drained pages => some (d, taken, drained, pages)
  | _ => none

/-- The strip that a started command offers a tile. -/
def Hw.stripFor (h : Hw) (die tile : Nat) (c : Cmd) : Option Nat :=
  match c.matWork with
  | some (d, taken, _, _) =>
    if d = die ∧ c.phase = .started ∧ (h.workTiles die (c.f 0x38 2)).contains tile = true
    then c.mat.nextStrip (h.workTiles die (c.f 0x38 2)) taken tile else none
  | none => none

/-- Give a tile a strip of a command. -/
def Hw.giveStrip (h : Hw) (ring : Nat) (c : Cmd) (die tile q : Nat) : Hw :=
  match c.matWork with
  | none => h
  | some (d, taken, drained, pages) =>
    let s : Strip := { ring := ring, index := c.index, number := q, pos := 0 }
    (h.setTile die tile fun t => { t with strip := some s }).setCmd ring c.index fun c => { c with work := .matmul d (setIns taken q) drained pages }

/-- Whether a tile may take a strip: its array holds none, no scrub is pending, and its clock runs. -/
def Hw.tileIdle (h : Hw) (die tile : Nat) : Bool :=
  let t := h.tile die tile
  t.strip.isNone && !t.scrubTrg && !t.scrubSlot && !h.tileStands die tile

/-- An idle tile takes its next strip from the command that started earliest. -/
def Hw.takeStrip (h : Hw) (die tile : Nat) : Hw :=
  if !h.tileIdle die tile then h
  else match firstStarted (h.runningWhere fun c => c.opcode == 0x10 && (h.stripFor die tile c).isSome) with
  | some x => match h.stripFor die tile x.2 with | some q => h.giveStrip x.1 x.2 die tile q | none => h
  | none => h

/-- STRIP_TAKE (R143, R144). -/
def execStripTake (die tile : Nat) (s : State) : Host.Outcome State Fault Refusal := act (fun h => h.takeStrip die tile) s

/-! ## One output tile -/

/-- What draining an output tile carries from row to row: the run, the tile's registers and its row statistics. -/
structure DrainOut where
  run : Run
  trgs : List Trg
  regs : RowRegs
  sat : Nat := 0       -- output elements clamped in accumulation
  inf : Bool := false  -- the coarse scale made ±Inf of a finite value

/-- Whether the row operand of an output tile fits the row panel buffer: 128 KiB of values and 8 KiB of scales (R128). -/
def Mat.panelFits (m : Mat) : Bool :=
  decide (128 * 32 * m.a.cg * elemBits m.a.elem / 8 ≤ 131072) && (m.a.scaleFmt == 0 || decide (128 * m.a.cg ≤ 8192))

/-- Compute an output tile into a bank (R128, R130-R132). The row operand comes from the row panel buffer where it holds it, and from
its source otherwise; the buffer then keeps it if it fits. Answers the bank, the buffer and the run. -/
def Mat.fillBank (m : Mat) (pages list batch i j : Nat) (panel : List (List Grp)) (run : Run) : AccBank × List (List Grp) × Run :=
  let bidx (t : TD) : List Nat := digits (t.dims.drop 2) batch
  let kept := !panel.isEmpty
  let pg : Option (Nat × List (Option (Nat × Nat))) × Run := match m.paged with
    | none => (none, run)
    | some (isB, dim, _) =>
      if kept && !isB then (none, run)
      else
        let y := run.pageEntries (if isB then m.b else m.a) dim pages list (batch == 0 && i == 0 && j == 0)
        (some (dim, y.1), y.2)
  let isB := match m.paged with | some p => p.1 | none => false
  let oa : Oper := { td := m.a, paged := if isB then none else pg.1 }
  let ob : Oper := { td := m.b, paged := if isB then pg.1 else none }
  let b := forN (min 128 (m.o.size 0 - 128 * j)) (([] : List OpRow), pg.2) fun y n =>
    let z := y.2.operRow ob ((128 * j + n) :: bidx m.b) (i == 0)
    (y.1 ++ [z.1], z.2)
  let a : List (List Grp) × Run := if kept then (panel, b.2) else
    forN (min 128 (m.o.rows1 - 128 * i)) ([], b.2) fun y rb =>
      let z := y.2.operGroups oa ((128 * i + rb) :: bidx m.a)
      (y.1 ++ [z.1], z.2)
  let rows := a.1.map m.a.opRow
  let bank : AccBank :=
    { rows := rows.map fun x => (b.1.map fun y => accumulate m.int m.half m.grad x.1 y, x.1.poison), cols := b.1.map (·.poison) }
  (bank, if m.panelFits then a.1 else [], if j == 0 then { a.2 with range := a.2.range + (rows.map (·.2)).sum } else a.2)

/-- Drain one row of a bank. -/
def Mat.drainRow (m : Mat) (im : Option Image) (st : Option TD) (seed : W64) (tag : Nat × Byte) (t : W32) (batch i j rb : Nat)
    (accs : List Acc) (po : List Bool) (x : DrainOut) : DrainOut :=
  let row := 128 * i + rb
  let q := batch * m.o.rows1 + row
  let vs := accs.map fun c => drainValue m.int m.grad t c
  let ins : List EIn := (vs.zip po).map fun v => { code := v.1.1, poison := v.2, sat := v.1.2.1 }
  let x := { x with sat := x.sat + (accs.filter fun (c : Acc) => c.sat).length, inf := x.inf || vs.any fun v => v.2.2 }
  match im with
  | none =>
    let o := outRow m.o m.grad (m.int && t == 0x3F800000) (fun _ => rne) (ins.map fun e => (e.code, e.sat, e.poison))
    { x with run := x.run.putRow { td := m.o } q j o m.padw }
  | some im =>
    let s := x.regs.row rb
    let mx := if im.stats then rowMax m.grad s.1 (ins.map (·.code)) else (negInf, 0)
    let v : VEnv := { im := im, grad := m.grad, seed := seed, step := 0, row := row, rb := rb, col0 := 128 * j,
                      lin0 := q * m.o.size 0 + 128 * j, aux := m.aux.map fun t => { td := t }, auxIdx := m.o.row q,
                      rm := mx.1, rmo := s.1, rs := s.2, tag := tag }
    let y := v.runRow ins x.run x.trgs
    let o := outRow m.o m.grad im.intResult (fun _ => rne) (resultLanes y.lanes)
    let r := y.run.putRow { td := m.o } q j o m.padw
    match st with
    | some td =>
      let z := rowSum m.grad mx.1 s.1 s.2 (y.lanes.map (·.rsum))
      let r := { r with sat := r.sat + mx.2 + z.2 }
      { x with run := r.putStats td row j batch mx.1 z.1 (y.lanes.any (·.poison)), trgs := y.trgs, regs := x.regs.setRow rb mx.1 z.1 }
    | none => { x with run := r, trgs := y.trgs }

/-- Drain a bank, which holds output tile `pos` of its strip: its rows ascending, columns ascending within each (R141); the first drain of
a strip starts its row statistics anew (R190). -/
def Mat.drainBank (m : Mat) (im : Option Image) (st : Option TD) (seed : W64) (tag : Nat × Byte) (batch i j pos : Nat) (b : AccBank)
    (x : DrainOut) : DrainOut :=
  let stats := match im with | some p => p.stats | none => false
  let x := if stats then { x with regs := (if pos = 0 then x.regs.begin else x.regs).turn } else x
  let t := coarseT m.grad m.a m.b m.o
  b.rows.zipIdx.foldl (fun x a => m.drainRow im st seed tag t batch i j a.2 a.1.1 (b.cols.map (a.1.2 || ·)) x) x

/-- Whether an accumulation step of a bank clamped, and whether one made ±Inf of finite terms. -/
def AccBank.marks (b : AccBank) : Bool × Bool :=
  (b.rows.any fun (r : List Acc × Bool) => r.1.any fun (c : Acc) => c.sat, b.rows.any fun (r : List Acc × Bool) => r.1.any fun (c : Acc) => c.inf)

/-- Cycles in which the array consumes operands for one output tile (R147). -/
def Mat.macCycles (m : Mat) : Nat := let k := kc m.a.elem m.b.elem; if k = 0 then 0 else 32 * m.a.cg / k

/-- The array has accumulated an output tile: the tile's flags and counters, the finished output tile in a bank, and the strip, which the
array gives up with its last output tile. -/
def Hw.noteFill (h : Hw) (m : Mat) (die tile : Nat) (s : Strip) (last : Bool) (bank : AccBank) (panel : List (List Grp)) : Hw :=
  let f := h.free
  f.2.setTile die tile fun t =>
    { (t.noteMx bank.marks.1 false bank.marks.2 0).noteMac m.macCycles (Config.freeValue f.1)
      with banks := t.banks ++ [{ ring := s.ring, index := s.index, number := s.number, pos := s.pos, bank := bank }]
           strip := if last then none else some { s with pos := s.pos + 1, panel := panel } }

/-- The tile after a drain: its registers, flags and counters; the bank is free again. -/
def Hw.noteDrain (h : Hw) (last : Bool) (issue : Nat) (die tile : Nat) (before : Run) (x : DrainOut) : Hw :=
  let f := h.free
  let nan := decide (before.nan < x.run.nan)
  f.2.setTile die tile fun t =>
    { (t.noteVe (decide (before.range < x.run.range)) nan 1 issue (Config.freeValue f.1)).noteMx
        (decide (before.sat < x.run.sat)) nan x.inf (b2n last)
      with trgs := x.trgs, drainRegs := x.regs, banks := t.banks.drop 1 }

/-- A command of a tile that runs, if it is a started MATMUL on the die. -/
def Hw.matOn (h : Hw) (die ring : Nat) (i : W32) : Option (Cmd × List Nat × List Nat × Nat) :=
  match h.cmd ring i with
  | some c => match c.matWork with
    | some (d, taken, drained, pages) => if c.phase == .started && d == die then some (c, taken, drained, pages) else none
    | none => none
  | none => none

/-- What accumulating the next output tile of a strip reads: the bank, the row panel buffer and the run. -/
def Hw.tileFill (h : Hw) (die : Nat) (s : Strip) (c : Cmd) (pages : Nat) (env : Env) : AccBank × List (List Grp) × Run :=
  let m := c.mat
  let q := m.stripAt s.number
  let list := match m.paged with | some p => (h.seq p.2.2).pageList.toNat | none => 0
  m.fillBank pages list q.1 q.2.1 (q.2.2.1 + s.pos) s.panel
    { (Run.start h die (h.ring s.ring).ctx true true env).resume c with supply := true, cls := .crit }

/-- The array accumulates the next output tile of the strip it holds, if a bank is free; one that fails ends its command (R130). -/
def Hw.fillTile (h : Hw) (die tile : Nat) (env : Env) : Hw :=
  match (h.tile die tile).strip with
  | none => h
  | some s =>
    match h.matOn die s.ring s.index with
    | none => h
    | some (c, _, _, pages) =>
      if !(h.tile die tile).banks.isEmpty || h.tileStands die tile then h
      else
        let x := h.tileFill die s c pages env
        if x.2.2.waits && x.2.2.fail.isNone then h.holdCmd s.ring s.index x.2.2
        else if x.2.2.fail.isSome then h.endRun s.ring s.index x.2.2 false
        else
          let last := decide ((c.mat.stripAt s.number).2.2.2 ≤ s.pos + 1)
          h.keepRun s.ring s.index { x.2.2 with h := x.2.2.h.noteFill c.mat die tile s last x.1 x.2.1 } id

/-- What draining a finished output tile reads and writes. -/
def Hw.tileDrain (h : Hw) (die tile : Nat) (b : OutTile) (c : Cmd) (im : Option Image) (env : Env) : DrainOut :=
  let n := (h.ring b.ring).ctx
  let m := c.mat
  let q := m.stripAt b.number
  let r0 := { (Run.start h die n true true env).resume c with supply := true, cls := .crit }
  let x := m.drainBank im (slotTd c.extraTds tile) (h.ctx n).plan.jobSeed (h.tag n) q.1 q.2.1 (q.2.2.1 + b.pos) b.pos b.bank
    { run := r0, trgs := (h.tile die tile).trgs, regs := (h.tile die tile).drainRegs }
  { x with run := x.run.spoil c die tile }

/-- The drain of an output tile of a started MATMUL: it ends with its last output tile, on a failure, or, under a flushing teardown, with
the last output tile that was being drained (R145, R146). -/
def Hw.endDrain (h : Hw) (die tile : Nat) (b : OutTile) (c : Cmd) (taken drained : List Nat) (pages : Nat) (im : Option Image) (env : Env) : Hw :=
  let n := (h.ring b.ring).ctx
  let m := c.mat
  let q := m.stripAt b.number
  let x := h.tileDrain die tile b c im env
  if x.run.waits && x.run.fail.isNone then h.holdCmd b.ring b.index x.run
  else
    let issue := 64 * (match im with | some i => i.issue | none => 1)
    let before := (Run.start h die n true true env).resume c
    let noted := x.run.h.noteDrain (decide (q.2.2.2 ≤ b.pos + 1)) issue die tile before x
    let r := { x.run with h := noted, sat := x.run.sat + x.sat }
    let drained := setIns drained ((q.1 * m.rowBlocks + q.2.1) * m.colBlocks + (q.2.2.1 + b.pos))
    let f (c : Cmd) : Cmd := { c with work := .matmul die taken drained pages }
    if (h.ctx n).flush then
      let h := h.keepRun b.ring b.index { r with fail := none, waits := false } f
      if h.drains b.ring b.index then h else h.finishCmd b.ring b.index stAborted 0
    else if r.fail.isSome || decide (m.outTiles ≤ drained.length) then (h.endRun b.ring b.index r false).setCmd b.ring b.index f
    else h.keepRun b.ring b.index r f

/-- The vector engine drains the oldest finished output tile of a tile. -/
def Hw.drainBank (h : Hw) (die tile : Nat) (env : Env) : Hw :=
  match (h.tile die tile).banks with
  | [] => h
  | b :: _ =>
    match h.matOn die b.ring b.index with
    | none => h
    | some (c, taken, drained, pages) =>
      let im : Option Image := match c.mat.prog with | some p => h.programOf c die tile p (h.ring b.ring).ctx | none => none
      if h.tileStands die tile then h
      else if c.mat.prog.isSome && im.isNone then h.finishCmd b.ring b.index stStateConflict 0x0503
      else h.endDrain die tile b c taken drained pages im env

/-- One output tile of a tile: the array accumulates it, unless one stands finished in a bank; the vector engine drains the oldest; and the
array, which takes its next strip where it holds none, accumulates the next one in the other bank beside that drain (R130, R143). -/
def Hw.drainTile (h : Hw) (die tile : Nat) (env : Env) : Hw :=
  (((h.fillTile die tile env).drainBank die tile env).takeStrip die tile).fillTile die tile env

/-- OUTPUT_TILE_DRAIN (R130, R141): the oldest finished output tile is drained, and the array goes on in the other bank (log 9). -/
def execOutputTileDrain (die tile : Nat) (env : Env) (s : State) : Host.Outcome State Fault Refusal :=
  act (fun h => h.drainTile die tile env) s

/-! ## MATMUL -/

/-- One move toward the end of a MATMUL: a tile that works for it drains an output tile; else an idle tile for which it has a
strip takes its next strip, from the command that started earliest (R144); else a tile for which it has a strip works on what it
holds. -/
def Hw.matmulMove (h : Hw) (ring : Nat) (i : W32) (env : Env) : Hw :=
  match h.cmd ring i with
  | none => h
  | some c =>
    match c.matWork with
    | none => h
    | some (die, _, _, _) =>
      let ts := h.workTiles die (c.f 0x38 2)
      let holds (t : Nat) : Bool :=
        (match (h.tile die t).strip with | some s => s.ring == ring && s.index == i | none => false) ||
        (h.tile die t).banks.any fun (b : OutTile) => b.ring == ring && b.index == i
      match ts.find? holds with
      | some t => h.drainTile die t env
      | none =>
        match ts.find? fun t => h.tileIdle die t && (h.stripFor die t c).isSome with
        | some t => h.takeStrip die t
        | none =>
          match ts.find? fun t => ((h.tile die t).strip.isSome || (h.tile die t).draining) && (h.stripFor die t c).isSome with
          | some t => h.drainTile die t env
          | none => h

/-- The strips and output tiles of the MATMULs that run. -/
def Hw.matmulMoves (h : Hw) : Nat :=
  ((h.runningWhere fun c => c.opcode == 0x10).map fun x => x.2.mat.strips + x.2.mat.outTiles).sum

/-- MATMUL (R135-R146): all remaining strips and output tiles. -/
def execMatmul (ring : Nat) (index : W32) (env : Env) (s : State) : Host.Outcome State Fault Refusal :=
  act (fun h => h.onCmd ring index 0x10 fun _ =>
    forN h.matmulMoves h fun h _ => h.matmulMove ring index env) s

end Sys2Proof.Machine
end

