-- ==== Sys2Proof/Machine/Sync.lean ====
section
/-! DEFINITION. SIGNAL, WAIT and the operations on synchronisation objects (03 R83-R87; 11 R283; 15 R377). -/

namespace Sys2Proof.Machine

/-- A running command blocks inside its meaning. -/
def Hw.block (h : Hw) (r : Nat) (i : W32) : Hw := h.setCmd r i fun c => { c with phase := .blocked }

/-- End a command on a reason of STATE_CONFLICT. -/
def Hw.conflict (h : Hw) (r : Nat) (i : W32) (reason : Nat) : Hw := h.finishCmd r i stStateConflict reason

/-- Apply a signal to the object at an index of a context's own range, for a SIGNAL that waits (R85). -/
def Hw.signalOwn (h : Hw) (r : Nat) (i : W32) (n idx : Nat) (set : Bool) (v : W64) : Hw :=
  let p := (h.ctx n).plan
  if p.syncCount ≤ idx then h.conflict r i 0x0102
  else (h.sendSync { obj := p.syncBase + idx, set := set, value := v, source := r, waiter := some (r, i) }).block r i

/-- A remote signal of a command, from the coordinates `src` (R85, R377, R380). -/
def Hw.signalRemote (h : Hw) (r : Nat) (i : W32) (src target : Coord) (idx : Nat) (set : Bool) (v : W64) : Hw :=
  let n := (h.ring r).ctx
  match h.reach false target with
  | .self => h.signalOwn r i n idx set v
  | .gone => h.finishCmd r i stPeerGone (coordNat target)
  | .fenced => h.finishCmd r i stFenced (coordNat target)
  | _ => (h.sendAs src n target 0 (some (r, i)) (.signal idx set v)).block r i

/-- Whether every earlier command of a ring has completed, with its writes acknowledged at their homes (R87). -/
def Hw.released (h : Hw) (r : Nat) (i : W32) : Bool :=
  let order := match h.cmd r i with | some c => c.order | none => 0
  (h.ring r).firstRunning i && !h.accesses.any fun (a : Access) => a.ring == r && decide (a.order < order) && a.write

/-- The body of SIGNAL, run by a command of a ring. -/
def Hw.signalBody (h : Hw) (r : Nat) (i : W32) (src : Coord) (b : List Byte) : Hw :=
  let n := (h.ring r).ctx
  let p := (h.ctx n).plan
  let fl := fld b 0x19 1
  let obj := bits (fld b 0x1A 2) 12 0
  let set := fld b 0x18 1 == 1
  let v := BitVec.ofNat 64 (fld b 0x20 8)
  let wait := fl.testBit 0 && !h.released r i
  if fl.testBit 1 then
    let target : Coord := BitVec.ofNat 18 (fld b 0x1C 4)
    if wait then h else h.signalRemote r i src target obj set v
  else
    let send (h : Hw) : Hw := if wait then h else (h.sendSync { obj := obj, set := set, value := v, source := r, waiter := some (r, i) }).block r i
    if p.ownsObj obj then send h
    else match p.importObj obj with
      | none => h.conflict r i 0x0102
      | some w =>
        if w.revoked then h.finishCmd r i stContextGone (coordNat h.self)
        else if w.writable then send h
        else h.conflict r i 0x0106

/-- SIGNAL (R85): a release waits until every earlier command of the ring has completed and its writes are acknowledged (R87). -/
def execSignal (ring : Nat) (index : W32) (s : State) : Host.Outcome State Fault Refusal :=
  act (fun h => h.onCmd ring index 0x02 fun c =>
    if c.phase == .started then h.signalBody ring index h.self c.bytes else h) s

/-- WAIT (R86): satisfied at once, or blocked until an operation satisfies it. -/
def execWait (ring : Nat) (index : W32) (s : State) : Host.Outcome State Fault Refusal :=
  act (fun h => h.onCmd ring index 0x03 fun c =>
    if c.phase != .started then h
    else
      let p := (h.ctx (h.ring ring).ctx).plan
      let obj := bits (c.f 0x1A 2) 12 0
      let go : Hw :=
        if c.f 0x20 8 ≤ (h.obj obj).toNat then
          (if (c.f 0x18 1).testBit 0 then h.acquire else h).finishCmd ring index stOk 0
        else h.block ring index
      if !p.ownsObj obj && (p.importObj obj).isNone then h.conflict ring index 0x0102
      else if c.f 0x1C 4 = 0xFFFFFFFF ∧ p.expert = false then h.conflict ring index 0x0103
      else if p.ownsObj obj then go
      else match p.importObj obj with
        | some w => if w.revoked then h.finishCmd ring index stContextGone (coordNat h.self) else go
        | none => h) s

/-! ## Operations at an object's home (R84) -/

/-- The context that owns an object. -/
def Hw.objOwner (h : Hw) (o : Nat) : Option Nat :=
  (List.range 16).find? fun n => (h.ctx n).state != .free && (h.ctx n).plan.ownsObj o

/-- The home die of an object (R83). -/
def objHome (o : Nat) : Nat := o / 512

/-- Whether the n-th operation in flight may reach its home next: none of the same source to the same home is earlier, and the writes
that a header release covers are acknowledged (R51, R84, R87). -/
def Hw.syncReady (h : Hw) (n : Nat) (o : SyncOp) : Bool :=
  !h.awaits o.after &&
  !((h.syncFlight.take n).any fun x => x.source == o.source && objHome x.obj == objHome o.obj)

/-- The waits of a ring that an object's value satisfies: the ring, and how many of them acquire. -/
def WorkRing.satisfy (w : WorkRing) (o v : Nat) : WorkRing × Nat :=
  let hit (c : Cmd) : Bool :=
    (c.opcode == 0x03 || c.opcode == 0x04) && c.phase == .blocked && !c.satisfied &&
    bits (c.f 0x1A 2) 12 0 == o && decide (c.f 0x20 8 ≤ v)
  let acq (c : Cmd) : Bool := (c.f 0x18 1).testBit 0
  let head : Bool := match w.fetched with
    | c :: _ => c.phase == .turn && c.waitEn && !c.satisfied && c.waitObj == o && decide (c.threshold ≤ v)
    | [] => false
  let headAcq : Bool := match w.fetched with | c :: _ => head && c.waitAcq | [] => false
  ({ w with
     running := w.running.map fun c =>
       if hit c then (let c : Cmd := { c with satisfied := true }; if c.opcode = 0x03 then c.finish stOk 0 else c) else c
     fetched := match w.fetched with
       | c :: r => if head then { c with satisfied := true } :: r else w.fetched
       | [] => [] },
   (w.running.filter fun c => hit c && acq c).length + b2n headAcq)

/-- An object takes a new value, and every wait it satisfies is satisfied, with its acquire (R84, R87). -/
def Hw.setAndSatisfy (h : Hw) (o : Nat) (v : W64) : Hw :=
  let h := h.setObj o v
  let ws := h.rings.map fun w => w.satisfy o v.toNat
  let h := { h with rings := ws.map (·.1) }
  forN (ws.map (·.2)).sum h fun h _ => h.acquire

/-- Apply one operation: SET, or an ADD that saturates with an event (R84). -/
def Hw.applySync (h : Hw) (o : SyncOp) : Hw :=
  let sum := (h.obj o.obj).toNat + o.value.toNat
  let sat := !o.set && decide (2 ^ 64 ≤ sum)
  let v : W64 := if o.set then o.value else BitVec.ofNat 64 (min sum (2 ^ 64 - 1))
  let owner := h.objOwner o.obj
  let h := if sat then (match owner with | some n => h.evCtx n 0x0108 (srcDie (o.obj / 512)) o.obj 0 | none => h) else h
  let h := h.setAndSatisfy o.obj v
  let h := match o.waiter with | some x => h.finishCmd x.1 x.2 stOk 0 | none => h
  match o.reply, owner with
  | some (c, _, id), some n => h.sendCtx n c 2 none (.applied id true)
  | _, _ => h

/-- SYNC_OPERATION (R84): the n-th operation in flight reaches its home. With `ue` the object shows an uncorrectable error, which
faults its owning context (R350); the address UE_FOUND gives for an object, which has no DA, is free (log 3). -/
def execSyncOperation (n : Nat) (ue : Bool) (s : State) : Host.Outcome State Fault Refusal :=
  act (fun h =>
    match h.syncFlight[n]? with
    | none => h
    | some o =>
      if !h.syncReady n o then h
      else
        let h := { h with syncFlight := h.syncFlight.eraseIdx n }
        if !ue then h.applySync o
        else
          let f := h.free
          let h := f.2.ueFound (objHome o.obj) 4 0 ((Config.freeValue f.1).toNat % 2 ^ 57)
          match h.objOwner o.obj with
          | some m => h.faultCtx m 5
          | none => h) s

end Sys2Proof.Machine
end

