-- ==== Sys2Proof/Machine/Prefetch.lean ====
section
/-! DEFINITION. WAIT_PREFETCH, the retention pool and its table (12 R302-R309). -/

namespace Sys2Proof.Machine

/-! ## Entries of the list (R303) -/

/-- A list entry. -/
structure PrefEntry where
  src : TD
  dst : Option TD
  hdr : Option OwnerHdr
  layer : W32
  gen : W32
  flags : Nat
  exec : Nat

def Cmd.prefEntry (c : Cmd) (e : Nat) : PrefEntry :=
  let f (off n : Nat) : Nat := fld c.extra (32 * e + off) n
  let s := (slotTd c.extraTds (16 + 2 * e)).getD {}
  { src := s
    dst := if f 0x08 8 = 0 then none else slotTd c.extraTds (17 + 2 * e)
    hdr := if s.owned then (c.owners.find? (·.1 == 16 + 2 * e)).map (·.2) else none
    layer := BitVec.ofNat 32 (f 0x10 4), gen := BitVec.ofNat 32 (f 0x14 4), flags := f 0x1C 1, exec := f 0x1D 1 }

/-- The progress of a WAIT_PREFETCH: groups delivered and STATUS by entry. -/
def Cmd.prog (c : Cmd) : List (Nat × Nat) :=
  match c.work with
  | .prefetch l => l
  | _ => List.replicate (c.f 0x19 1) (0, 0)

def entryEnded (st : Nat) : Bool := st.testBit 0 || st.testBit 4

/-! ## The retention pool (R307-R309) -/

/-- Channel groups of a tensor in logical order. -/
def TD.groups (t : TD) : Nat := t.rows * t.cg

/-- The key of byte o of a retained tensor. -/
def Ctx.poolKey (c : Ctx) (granules : List Nat) (o : Nat) : Nat := c.poolBase + 65536 * granules.getD (o / 65536) 0 + o % 65536

/-- Bytes a stored tensor takes: values, then one scale byte for each group where it has scales. -/
def TD.poolBytes (t : TD) : Nat := t.groups * (t.b + (if t.scaleFmt = 0 then 0 else 1))

def TD.shape (t : TD) : Shape := { elem := t.elem, scaleFmt := t.scaleFmt, sizes := t.dims }

/-- The entry that a lookup hits. -/
def Ctx.retHit (c : Ctx) (p : PrefEntry) : Option Retained :=
  match p.dst with
  | some d => if p.layer = 0 then none else c.retained.find? fun x => x.layer == p.layer && x.gen == p.gen && x.shape == d.shape
  | none => none

/-- Whether a hit is copying from an entry: an entry of a running WAIT_PREFETCH has HIT and has groups left to deliver. -/
def Hw.retBusy (h : Hw) (n : Nat) (x : Retained) : Bool :=
  h.rings.any fun w => !w.module && w.ctx == n && w.running.any fun c =>
    c.opcode == 0x04 && c.phase != .done && c.prog.zipIdx.any fun s =>
      let p := c.prefEntry s.2
      s.1.2.testBit 1 && !entryEnded s.1.2 && decide (s.1.1 < (p.dst.getD {}).groups) && p.layer == x.layer && p.gen == x.gen

/-- Evict the oldest unpinned entries until there is room: none while a hit copies from the one to go, and the entries left with
how many went, or no room (R308). -/
def Hw.evictFor (h : Hw) (n need total : Nat) : Nat → List Retained → Nat → Option (List Retained × Nat × Bool)
  | 0, l, k => some (l, k, false)
  | f + 1, l, k =>
    let used := (l.map fun (x : Retained) => x.granules.length).sum
    if used + need ≤ total ∧ l.length < 1024 then some (l, k, true)
    else match l.find? fun (x : Retained) => !x.pin with
    | none => some (l, k, false)
    | some x => if h.retBusy n x then none else Hw.evictFor h n need total f (l.filter (· != x)) (k + 1)

/-- The lowest granules not in use. -/
def freeGranules (l : List Retained) (total need : Nat) : List Nat :=
  ((List.range total).filter fun g => !(l.any fun (x : Retained) => x.granules.contains g)).take need

/-- Store a delivered tensor from the data that arrived (R308): the machine and whether it was stored, or none while it must wait, for a hit
or for the HBM controllers (R213, R216). -/
def Run.retain (r : Run) (n : Nat) (p : PrefEntry) (d : TD) (got : List (Nat × List Byte × Nat)) : Option (Run × Bool) :=
  let c := r.h.ctx n
  let old := c.retained.filter (·.layer == p.layer)
  if old.any (r.h.retBusy n) then none
  else
    let l := c.retained.filter (·.layer != p.layer)
    let need := (d.poolBytes + 65535) / 65536
    let total := c.poolBytes / 65536
    match r.h.evictFor n need total (l.length + 1) l 0 with
    | none => none
    | some (l, k, room) =>
      let ev (c : Ctx) : Ctx := { c with retained := l, retEvict := satAdd c.retEvict k }
      if !room then some ({ r with h := r.h.setCtx n fun c => { ev c with retFail := satAdd c.retFail 1 } }, false)
      else
        let gs := freeGranules l total need
        let w := got.foldl (fun (w : Writes) g =>
          let w := w.add (c.poolKey gs (g.1 * d.b)) g.2.1
          if d.scaleFmt = 0 then w else w.add (c.poolKey gs (d.groups * d.b + g.1)) [BitVec.ofNat 8 g.2.2]) {}
        let e : Retained := { layer := p.layer, gen := p.gen, shape := d.shape, granules := gs, pin := p.flags.testBit 1, bytes := d.poolBytes }
        if r.h.writesWait && w.bytes.any fun b => r.h.hbmBusy .bulk b.1 then none
        else
          let h := (r.h.applyWrites w).setCtx n fun c => let c := ev c; { c with retained := c.retained ++ [e] }
          some ({ r with h := h }, true)

/-! ## Delivering groups (R305) -/

/-- Group q of a retained entry. -/
def Hw.poolGrp (h : Hw) (n : Nat) (x : Retained) (d : TD) (q : Nat) : Grp :=
  let c := h.ctx n
  let a := c.poolKey x.granules (q * d.b)
  let s := c.poolKey x.granules (d.groups * d.b + q)
  { bytes := h.memRead a d.b, scale := if d.scaleFmt = 0 then 0 else fld (h.memRead s 1) 0 1,
    marks := grpMarks d.elem a (h.poisonOf a d.b) (d.scaleFmt != 0 && h.poisonedAt s 1) }

/-- Whether reading group q of a retained entry waits for its HBM controller, whose class is PREFETCH (R213, R216). -/
def Hw.poolWaits (h : Hw) (n : Nat) (x : Retained) (d : TD) (q : Nat) : Bool :=
  h.hbmBusy .prefetch ((h.ctx n).poolKey x.granules (q * d.b)) ||
  (d.scaleFmt != 0 && h.hbmBusy .prefetch ((h.ctx n).poolKey x.granules (d.groups * d.b + q)))

/-- What an advance of an entry has: its run, the groups delivered, what arrived of them, and whether the entry stopped without a
fault. -/
structure Delivery where
  run : Run
  done : Nat
  got : List (Nat × List Byte × Nat) := []
  stop : Bool := false

/-- Deliver group q of an entry. A group of an invalid block of an owner table moves nothing, and the entry goes on (R110). -/
def Delivery.group (x : Delivery) (n : Nat) (p : PrefEntry) (v : View) (hit : Option Retained) : Delivery :=
  let t := v.td
  let q := x.done
  if v.invalidAt (t.row (q / t.cg)) (q % t.cg) then { x with done := q + 1 }
  else
    let y : Grp × Run := match hit, p.dst with
      | some e, some d => if x.run.h.poolWaits n e d q then (⟨[], 0, []⟩, { x.run with waits := true }) else (x.run.h.poolGrp n e d q, x.run)
      | _, _ => x.run.grp v (t.row (q / t.cg)) (q % t.cg)
    if y.2.waits && y.2.fail.isNone then { x with run := y.2 }
    else if y.2.fail.isSome || y.1.poison then { x with run := { y.2 with fail := x.run.fail }, stop := true }
    else
      let r := match p.dst with
        | none => y.2
        | some d =>
          y.2.put { td := d } (d.row (q / d.cg)) (q % d.cg)
            (validCells d (q % d.cg) ((List.range 32).map (codeAt t.elem y.1.bytes))) (some y.1.scale) []
      { x with run := r, done := if r.ok then q + 1 else q, got := x.got ++ [(q, y.1.bytes, y.1.scale)] }

/-- Deliver up to k more groups of an entry. -/
def Delivery.groups (n : Nat) (p : PrefEntry) (v : View) (hit : Option Retained) : Nat → Delivery → Delivery
  | 0, x => x
  | k + 1, x =>
    let y := x.group n p v hit
    if y.stop || !y.run.ok then y else Delivery.groups n p v hit k y

/-- The die whose prefetch unit takes an entry: AUTO from the destination, or from the source where there is none (R303). -/
def Hw.prefDie (h : Hw) (n : Nat) (p : PrefEntry) (env : Env) : Nat :=
  h.execDie n p.exec false (match p.dst with | some d => [d.base.toNat] | none => h.firstOf n env p.src)

/-- Whether a die's prefetch unit may take an entry: it takes a command's entries in list order, and those of the command that started
first (R222, R305; the order of commands by log 46). -/
def Hw.prefTurn (h : Hw) (ring : Nat) (c : Cmd) (e : Nat) (env : Env) : Bool :=
  let die := h.prefDie (h.ring ring).ctx (c.prefEntry e) env
  let before (n : Nat) (d : Cmd) (k : Nat) : Bool :=
    (List.range k).any fun i => !entryEnded (d.prog.getD i (0, 0)).2 && h.prefDie n (d.prefEntry i) env == die
  !before (h.ring ring).ctx c e &&
  !h.rings.any fun w => !w.module && w.running.any fun d =>
    d.opcode == 0x04 && d.phase == .blocked && decide (d.order < c.order) && before w.ctx d d.prog.length

/-- What one advance of an entry gives: its run, the groups delivered, its STATUS, and what arrived for its retention. -/
structure Advance where
  run : Run
  done : Nat
  status : Nat
  got : List (Nat × List Byte × Nat) := []

/-- One advance of an entry by up to `groups` groups; none where it must wait. A hit that is to release its entry waits while another
hit copies from it (R309). -/
def Hw.prefAdvance (h : Hw) (ring : Nat) (c : Cmd) (e groups : Nat) (env : Env) : Option Advance :=
  let n := (h.ring ring).ctx
  let p := c.prefEntry e
  let s := c.prog.getD e (0, 0)
  let r := { (Run.start h (h.prefDie n p env) n true true env).resume c with cls := .prefetch, entry := e + 1 }
  let first := s.1 == 0 && !s.2.testBit 1
  let hit := if first || s.2.testBit 1 then (h.ctx n).retHit p else none
  let r := if first && p.layer != 0 && p.dst.isSome then
      { r with h := r.h.setCtx n fun c =>
          if hit.isSome then { c with retHits := satAdd c.retHits 1 } else { c with retMisses := satAdd c.retMisses 1 } }
    else r
  let st := if hit.isSome then s.2 ||| 2 else s.2
  let v := if hit.isSome then ({ td := p.dst.getD {} }, r) else r.view p.src p.hdr
  -- invalid blocks are counted once, when the table is first read
  let v := if first then v else (v.1, { v.2 with range := r.range })
  let total := v.1.td.groups
  if v.2.waits && v.2.fail.isNone then none
  else if v.2.fail.isSome then some { run := { v.2 with fail := none, range := v.2.range + 1 }, done := s.1, status := st ||| 16 }
  else
    let x := Delivery.groups n p v.1 hit (min groups (total - s.1)) { run := v.2, done := s.1 }
    let got := if p.flags.testBit 0 && hit.isNone then x.got else []
    if x.run.waits && x.run.fail.isNone then none
    else if x.run.fail.isSome then some { run := x.run, done := x.done, status := st }
    else if x.stop then some { run := { x.run with range := x.run.range + 1 }, done := x.done, status := st ||| 16 }
    else if x.done < total then some { run := x.run, done := x.done, status := st, got := got }
    else
      match hit, p.dst with
      | some y, _ =>
        if p.flags.testBit 2 then
          -- this entry has nothing left to copy once its groups are delivered
          let h1 := h.setCmd ring c.index fun c => { c with work := .prefetch (c.prog.set e (total, st)) }
          if h1.retBusy n y then some { run := x.run, done := total, status := st }
          else
            some { run := { x.run with h := x.run.h.setCtx n fun c => { c with retained := c.retained.filter (· != y) } }
                   done := total, status := st ||| 1 }
        else some { run := x.run, done := total, status := st ||| 1 }
      | none, some d =>
        let all := (c.arrived.filter (·.1 == e)).map (·.2) ++ got
        if p.flags.testBit 0 && all.length == total then
          match x.run.retain n p d all with
          | none => none
          | some (r, ok) => some { run := r, done := total, status := st ||| 1 ||| (if ok then 4 else 8) }
        else some { run := x.run, done := total, status := st ||| 1 }
      | none, none => some { run := x.run, done := total, status := st ||| 1 }

/-- Write DELIVERED and STATUS of every entry back, and end the command, with this failure where there is one (R305). -/
def Hw.prefetchEnd (h : Hw) (ring : Nat) (c : Cmd) (fail : Option (Nat × Nat)) (env : Env) : Hw :=
  let n := (h.ring ring).ctx
  let r := ((Run.start h 16 n true false env).resume c).writeEntries c c.prog
  let r := { r with fail := fail.or r.fail }
  (h.endRun ring c.index r false).setCmd ring c.index fun c => if c.phase == .done then { c with work := .idle } else c

/-- Whether a WAIT_PREFETCH completes: its wait is satisfied, and with FULL every entry has ended (R305). -/
def Cmd.prefetchReady (c : Cmd) : Bool :=
  c.satisfied && (!(c.f 0x18 1).testBit 1 || c.prog.all fun s => entryEnded s.2)

/-- The start of the wait: its checks, and whether it is satisfied at once (R86). -/
def Hw.prefetchBegin (h : Hw) (ring : Nat) (c : Cmd) : Hw :=
  let p := (h.ctx (h.ring ring).ctx).plan
  let obj := bits (c.f 0x1A 2) 12 0
  let now := decide (c.f 0x20 8 ≤ (h.obj obj).toNat)
  let go : Hw :=
    (if now && (c.f 0x18 1).testBit 0 then h.acquire else h).setCmd ring c.index fun c =>
      { c with phase := .blocked, satisfied := now, work := .prefetch c.prog }
  if !p.ownsObj obj && (p.importObj obj).isNone then h.conflict ring c.index 0x0102
  else if c.f 0x1C 4 = 0xFFFFFFFF ∧ p.expert = false then h.conflict ring c.index 0x0103
  else match p.ownsObj obj, p.importObj obj with
    | false, some w => if w.revoked then h.finishCmd ring c.index stContextGone (coordNat h.self) else go
    | _, _ => go

/-- Whether reads of a command await their answer: a WAIT_PREFETCH ends after them, since each may still give its entry ERR (R305). -/
def Hw.readsOut (h : Hw) (order : Nat) : Bool := h.accesses.any fun (a : Access) => a.order == order && !a.write

/-- A WAIT_PREFETCH after one of its entries has advanced. -/
def Cmd.advanced (c : Cmd) (entry : Nat) (a : Advance) : Cmd :=
  { c with
    work := .prefetch (c.prog.set entry (a.done, a.status))
    arrived := (if entryEnded a.status then c.arrived.filter (·.1 != entry) else c.arrived) ++
      (if entryEnded a.status then [] else a.got.map fun g => (entry, g)) }

/-- WAIT_PREFETCH (R302-R305): the wait begins, or an entry's prefetch unit delivers up to `groups` more groups; the command ends
once it may. -/
def execWaitPrefetch (ring : Nat) (index : W32) (entry groups : Nat) (env : Env) (s : State) :
    Host.Outcome State Fault Refusal :=
  act (fun h => h.onCmd ring index 0x04 fun c =>
    if c.phase == .started then h.prefetchBegin ring c
    else if c.prefetchReady then (if h.readsOut c.order then h else h.prefetchEnd ring c none env)
    else
      match c.prog[entry]? with
      | none => h
      | some (_, st) =>
        if entryEnded st || groups == 0 || !h.prefTurn ring c entry env then h
        else match h.prefAdvance ring c entry groups env with
        | none => h.stallCmd ring index
        | some a =>
          let h := h.keepRun ring index { a.run with fail := none } fun c => c.advanced entry a
          match a.run.fail, h.cmd ring index with
          | some f, some c => h.prefetchEnd ring c (some f) {}
          | _, _ => h) s

end Sys2Proof.Machine
end

