-- ==== Sys2Proof/Machine/Channels.lean ====
section
/-! DEFINITION. Pipeline channels, SEND and RECV, and the time limits of commands (12 R310-R314; 03 R86; 11 R283; 02 R54). -/

namespace Sys2Proof.Machine

/-! ## Channels -/

def Ctx.chan (c : Ctx) (k : Nat) : Channel := c.chans.getD k {}
def Hw.setChan (h : Hw) (n k : Nat) (f : Channel → Channel) : Hw :=
  h.setCtx n fun c => { c with chans := c.chans.modify k f }
/-- The plan's entry of a channel. -/
def Plan.chanEntry (p : Plan) (k : Nat) : Option ChanEntry := p.channels.find? (·.chan == k)

/-- Channel groups' bytes of a message: values dense, then scales (R313). -/
def TD.messageBytes (t : TD) : Nat := 64 + t.poolBytes

/-- The tensor that a message's slot holds. -/
def TD.inSlot (t : TD) (a : Nat) : TD :=
  let st := ((List.range 5).foldl (fun (x : List Nat × Nat) d => (x.1 ++ [x.2], x.2 * (if d + 1 < t.rank then t.size (d + 1) else 1))) ([], t.cg)).1
  { t with owned := false, base := BitVec.ofNat 64 a, scaleBase := BitVec.ofNat 64 (a + t.groups * t.b), strides := st }

/-- A wait of a channel's command has ended: its time, which no rule fixes, adds to STALL_US (R314, log 3). -/
def Hw.stall (h : Hw) (n k : Nat) : Hw :=
  let f := h.free
  f.2.setChan n k fun ch => { ch with stallUs := satAdd ch.stallUs ((Config.freeValue f.1).toNat % 2 ^ 32) }

/-- The first frame of a SEND's message leaves: MSGS counts it, and HIGH_WATER the messages outstanding (R314). -/
def Hw.noteSent (h : Hw) (o : OutMsg) : Hw :=
  match o.msg, o.cmd with
  | .channel _ _ _ _ _, some (r, i) =>
    (match h.cmd r i with
    | some c => h.setChan o.srcCtx (c.f 0x20 1) fun ch =>
        { ch with msgs := satAdd ch.msgs 1, highWater := max ch.highWater (ch.peerSlots - ch.credits) }
    | none => h)
  | _, _ => h

/-- A peer's context is closed: the SENDs and RECVs that wait for it end CONTEXT_GONE (R313). -/
def Hw.chanGone (h : Hw) (n : Nat) (peer : Coord) : Hw :=
  h.rings.zipIdx.foldl (fun h w =>
    if w.1.module || w.1.ctx != n then h
    else w.1.running.foldl (fun h c =>
      let k := c.f 0x20 1
      let ch := (h.ctx n).chan k
      let waits := c.phase == .started && !c.satisfied && ((c.opcode == 0x1B && !ch.recv) || (c.opcode == 0x1C && ch.recv && !ch.landed.any (·.1 == ch.recvSeq)))
      if waits && (match (h.ctx n).plan.chanEntry k with | some e => e.peer == peer | none => false) then
        (h.stall n k).finishCmd w.2 c.index stContextGone (coordNat peer)
      else h) h) h

/-- Grant a RECV channel's slots to its peer (R311). -/
def Hw.grant (h : Hw) (n k : Nat) : Hw :=
  match (h.ctx n).plan.chanEntry k with
  | some e => if e.recv then h.sendCtx n e.peer 1 none (.grant k e.peerChan e.slots e.slotBytes) else h
  | none => h

/-- GRANT_RESEND (R311): until the peer has accepted. -/
def execGrantResend (ctx chan : Nat) (s : State) : Host.Outcome State Fault Refusal :=
  act (fun h =>
    let c := (h.ctx ctx).chan chan
    if (h.ctx ctx).state != .free && c.valid && c.recv && !c.accepted then h.grant ctx chan else h) s

/-- Accept a grant of a peer's endpoint `chan` for the SEND channel `peerChan` that names it, or ignore it (R311). -/
def Hw.takeGrant (h : Hw) (n : Nat) (peer : Coord) (chan peerChan slots slotBytes : Nat) : Hw :=
  match (h.ctx n).plan.chanEntry peerChan with
  | some e =>
    if !e.recv && e.peer == peer && e.peerChan == chan then
      let h := if ((h.ctx n).chan peerChan).granted then h
        else h.setChan n peerChan fun c => { c with granted := true, credits := slots, peerSlots := slots, peerSlotBytes := slotBytes }
      h.sendCtx n peer 0 none (.accepted chan)
    else h
  | none => h

/-- CHANNEL_GRANT. -/
def execChannelGrant (ctx : Nat) (peer : Coord) (chan peerChan slots slotBytes : Nat) (s : State) :
    Host.Outcome State Fault Refusal :=
  act (fun h => h.takeGrant ctx peer chan peerChan slots slotBytes) s

/-- Credits come back to a SEND channel (R313). -/
def Hw.takeCredit (h : Hw) (n k count : Nat) : Hw :=
  h.setChan n k fun c => if c.valid && !c.recv then { c with credits := min (c.credits + count) c.peerSlots } else c

/-- CHANNEL_CREDIT_RETURN. -/
def execChannelCreditReturn (ctx chan count : Nat) (s : State) : Host.Outcome State Fault Refusal :=
  act (fun h => h.takeCredit ctx chan count) s

/-- Write the part of a channel message from byte `lo` up to `hi` into its slot: 64 bytes of header, whose content the manual does not
give (log 3), then the groups, poisoned where it says so (R248, R311, R313, R348); none while it waits for the HBM controllers. -/
def Hw.slotWrite (h : Hw) (n k seq : Nat) (bytes : List Byte) (poisoned : List Nat) (lo hi : Nat) (env : Env) : Option Hw :=
  let c := (h.ctx n).chan k
  match (h.ctx n).plan.chanEntry k with
  | none => some h
  | some e =>
    if !(c.valid && c.recv) || e.slots == 0 then some h
    else
      let a := e.bufCva.toNat + seq % e.slots * e.slotBytes
      let f := h.free
      let r := Run.start f.2 16 n false false env
      let r := if lo = 0 then r.write a (toLe 64 (Config.freeValue f.1).toNat) false else r
      let r := forN ((bytes.length + 31) / 32) r fun r g =>
        if lo ≤ 64 + 32 * g ∧ 64 + 32 * g < hi then r.write (a + 64 + 32 * g) ((bytes.drop (32 * g)).take 32) (poisoned.contains g) else r
      if r.waits then none else some { r with fail := none }.finish

/-- A channel message is complete in its slot; its first `done` bytes are written already (R248, R311, R313). -/
def Hw.landMessage (h : Hw) (n k seq : Nat) (shape : Shape) (bytes : List Byte) (poisoned : List Nat) (env : Env) (done : Nat := 0) : Hw :=
  let c := (h.ctx n).chan k
  match (h.ctx n).plan.chanEntry k with
  | none => h
  | some e =>
    if !(c.valid && c.recv) || e.slots == 0 then h
    else
      match h.slotWrite n k seq bytes poisoned done (64 + bytes.length) env with
      | none => { h.applyEnv env with heldAccesses := h.heldAccesses ++ [{ what := .landing n k seq shape bytes poisoned done, env := env }] }
      | some h =>
        (h.setChan n k fun c =>
          { c with landed := c.landed ++ [(seq, shape, poisoned)], credits := c.credits - 1,
                   highWater := max c.highWater (c.landed.length + 1) }).sendCtx n e.peer 2 none (.delivered e.peerChan seq)

/-- CHANNEL_MESSAGE_ARRIVE. -/
def execChannelMessageArrive (ctx chan seq : Nat) (shape : Shape) (bytes : List Byte) (poisoned : List Nat) (env : Env)
    (s : State) : Host.Outcome State Fault Refusal :=
  act (fun h => h.landMessage ctx chan seq shape bytes poisoned env) s

/-! ## SEND -/

/-- The checks that SEND and RECV share: reason CHAN_DIR, or no limit at BASIC (R312). -/
def Hw.chanBad (h : Hw) (n : Nat) (c : Cmd) (recv : Bool) : Option Nat :=
  let ch := (h.ctx n).chan (c.f 0x20 1)
  if !ch.valid || ch.recv != recv then some 0x0C02
  else if c.f 0x24 4 = 0xFFFFFFFF ∧ (h.ctx n).plan.expert = false then some 0x0103
  else none

/-- A SEND holds a credit and asks for its copy engine. -/
def Hw.sendBegin (h : Hw) (ring : Nat) (c : Cmd) (k : Nat) : Hw :=
  let n := (h.ring ring).ctx
  let h := (h.stall n k).setChan n k fun ch => { ch with credits := ch.credits - 1 }
  let c := { c with satisfied := true }
  let x := h.takeEngine ring c true (h.execDie n (c.f 0x22 1) false (firstByte c.tds 0))
  x.2.setCmd ring c.index fun _ => x.1

/-- The groups of a SEND's source: values, scales and the poisoned 32-byte groups of the message. -/
def Run.gatherMessage (r : Run) (v : View) : (List Byte × List Byte × List Nat) × Run :=
  let t := v.td
  forN t.groups (([], [], []), r) fun x q =>
    let g := x.2.grp v (t.row (q / t.cg)) (q % t.cg)
    ((x.1.1 ++ g.1.bytes, x.1.2.1 ++ (if t.scaleFmt = 0 then [] else [BitVec.ofNat 8 g.1.scale]),
      (markedGroups t.elem (q * t.b) (List.replicate 32 (some 0)) g.1.marks).foldl setIns x.1.2.2), g.2)

/-- Write the source as one message into the peer's channel; the command completes when its last frame is delivered. -/
def Hw.sendMessage (h : Hw) (ring : Nat) (c : Cmd) (k : Nat) (e : ChanEntry) (env : Env) : Hw :=
  let n := (h.ring ring).ctx
  let t := (slotTd c.tds 0).getD {}
  let x := ((h.moveRun ring c false env).gatherMessage { td := t })
  if x.2.waits && x.2.fail.isNone then h
  else if x.2.fail.isSome then (h.endRun ring c.index x.2 false).setChan n k fun ch => { ch with credits := ch.credits + 1 }
  else
    let seq := ((h.ctx n).chan k).sendSeq
    let h := x.2.finish.setChan n k fun ch => { ch with sendSeq := ch.sendSeq + 1 }
    let h := h.setCmd ring c.index fun c => { c with phase := .blocked, poison := x.1.2.2.map fun g => (placePeer e.peer, g) }
    h.sendCtx n e.peer 1 (some (ring, c.index)) (.channel e.peerChan seq t.shape (x.1.1 ++ x.1.2.1) x.1.2.2)

/-- SEND (R312, R313): it waits for a grant and a credit, then takes a copy engine and sends. -/
def execSend (ring : Nat) (index : W32) (env : Env) (s : State) : Host.Outcome State Fault Refusal :=
  act (fun h => h.onCmd ring index 0x1B fun c =>
    let n := (h.ring ring).ctx
    let k := c.f 0x20 1
    let ch := (h.ctx n).chan k
    if c.phase == .blocked || c.wantsEngine then h
    else match h.chanBad n c false, (h.ctx n).plan.chanEntry k with
    | some x, _ => h.conflict ring index x
    | none, none => h.conflict ring index 0x0C02
    | none, some e =>
      match h.reach false e.peer with
      | .gone => (if c.satisfied then h else h.stall n k).finishCmd ring index stPeerGone (coordNat e.peer)
      | .fenced => (if c.satisfied then h else h.stall n k).finishCmd ring index stFenced (coordNat e.peer)
      | _ =>
        if c.satisfied then h.sendMessage ring c k e env
        else if !ch.granted || ch.credits == 0 then h
        else if ch.peerSlotBytes < ((slotTd c.tds 0).getD {}).messageBytes then (h.stall n k).conflict ring index 0x0C03
        else h.sendBegin ring c k) s

/-- A SEND's message is delivered: the command completes, POISON where it sent poisoned groups (R313, R349). -/
def Hw.sendDelivered (h : Hw) (n k seq : Nat) : Hw :=
  let mine (m : OutMsg) : Bool := m.srcCtx == n && (match m.msg with | .channel _ q _ _ _ => q == seq | _ => false) &&
    (match m.cmd with
      | some (r, i) => (match h.cmd r i with | some c => c.opcode == 0x1B && c.f 0x20 1 == k | none => false)
      | none => false)
  match h.outMsgs.find? mine with
  | none => h
  | some m =>
    let h := { h with outMsgs := h.outMsgs.filter (· != m) }
    match m.cmd with
    | some (r, i) => h.setCmd r i fun c => if c.poison ≠ [] then c.finish stPoison c.poison.length else c.finish stOk 0
    | none => h

/-! ## RECV -/

/-- Copy the message in a slot to DST_TD as a linear COPY, and return the credit (R313). -/
def Hw.recvCopy (h : Hw) (ring : Nat) (c : Cmd) (k : Nat) (e : ChanEntry) (seq : Nat) (env : Env) : Hw :=
  let n := (h.ring ring).ctx
  let d := (slotTd c.tds 1).getD {}
  let src := d.inSlot (e.bufCva.toNat + seq % e.slots * e.slotBytes + 64)
  let r := (h.moveRun ring c false env).copyTensor { td := src } { td := d } (List.range d.rank) ((c.f 0x21 1).testBit 0)
  if r.waits && r.fail.isNone then h
  else if r.fail.isSome then h.endRun ring c.index r false
  else
    let h := h.endRun ring c.index r false
    let h := h.setChan n k fun ch =>
      { ch with landed := ch.landed.filter (·.1 != seq), recvSeq := ch.recvSeq + 1, credits := ch.credits + 1,
                msgs := satAdd ch.msgs 1 }
    h.sendCtx n e.peer 0 none (.credit e.peerChan 1)

/-- RECV (R312, R313). -/
def execRecv (ring : Nat) (index : W32) (env : Env) (s : State) : Host.Outcome State Fault Refusal :=
  act (fun h => h.onCmd ring index 0x1C fun c =>
    let n := (h.ring ring).ctx
    let k := c.f 0x20 1
    let ch := (h.ctx n).chan k
    if c.wantsEngine then h
    else match h.chanBad n c true, (h.ctx n).plan.chanEntry k with
    | some x, _ => h.conflict ring index x
    | none, none => h.conflict ring index 0x0C02
    | none, some e =>
      match ch.landed.find? (·.1 == ch.recvSeq) with
      | none =>
        (match h.reach false e.peer with
        | .gone => (h.stall n k).finishCmd ring index stPeerGone (coordNat e.peer)
        | .fenced => (h.stall n k).finishCmd ring index stFenced (coordNat e.peer)
        | _ => h)
      | some m =>
        let d := (slotTd c.tds 1).getD {}
        if m.2.1 != d.shape then (h.stall n k).conflict ring index 0x0C04
        else if c.engine.isNone then
          let x := (h.stall n k).takeEngine ring c true (h.execDie n (c.f 0x22 1) false (firstByte c.tds 1))
          x.2.setCmd ring index fun _ => x.1
        else h.recvCopy ring c k e m.1 env) s

/-! ## Limits of commands -/

/-- The limit field of a command that has its own: 0xFFFF_FFFF is no limit (R86, R312). -/
def Cmd.noLimit (c : Cmd) : Bool :=
  if c.opcode = 0x03 ∨ c.opcode = 0x04 then c.f 0x1C 4 == 0xFFFFFFFF
  else if c.opcode = 0x1B ∨ c.opcode = 0x1C then c.f 0x24 4 == 0xFFFFFFFF
  else false

/-- The fetched command that a descriptor read which waited past WAIT_TIMEOUT_MS gives (R54). -/
def Hw.fetchTimeout (h : Hw) (r : Nat) : Hw :=
  let w := h.ring r
  let p := h.ringPort w
  let n := if w.jf1 then 32 else 64
  let raw := h.hostRead p (w.base.toNat + n * (w.head.toNat % w.size)) n
  match h.checkDescriptor r w.head raw false {} with
  | some _ => h
  | none =>
    let c : Cmd := { index := w.head, jf1 := w.jf1, bytes := if w.jf1 then jf2of raw [] else raw, fail := some (stTimeout, 0) }
    h.putFetched r c

/-- The number of a channel message of a context toward a peer's channel. -/
def OutMsg.chanSeq (o : OutMsg) (n : Nat) (peer : Coord) (chan : Nat) : Option Nat :=
  match o.msg with
  | .channel k q _ _ _ => if o.srcCtx == n && o.dst == peer && k == chan then some q else none
  | _ => none

/-- A message of a channel that has not left is withdrawn, and those behind it, which cannot have left either, move up (R311, R313). -/
def Hw.withdraw (h : Hw) (m : OutMsg) (chan seq : Nat) : Hw :=
  { h with outMsgs := (h.outMsgs.filter (· != m)).map fun o =>
      match o.chanSeq m.srcCtx m.dst chan, o.msg with
      | some q, .channel k _ sh bs po => if seq < q then { o with msg := .channel k (q - 1) sh bs po } else o
      | _, _ => o }

/-- The limit of a SEND: it ends with nothing sent while its message has not left (R313). -/
def Hw.sendTimeout (h : Hw) (n ring : Nat) (c : Cmd) : Hw :=
  let k := c.f 0x20 1
  let back (ch : Channel) : Channel := { ch with credits := ch.credits + 1 }
  if c.phase == .started then
    (if c.satisfied then h.setChan n k back else h.stall n k).finishCmd ring c.index stTimeout 0
  else
    match h.outMsgs.find? fun m => m.cmd == some (ring, c.index) with
    | some m =>
      match m.msg with
      | .channel chan seq _ _ _ =>
        if m.sent || m.queued != 0 then h
        else ((h.withdraw m chan seq).setChan n k fun ch => { back ch with sendSeq := ch.sendSeq - 1 }).finishCmd ring c.index stTimeout 0
      | _ => h
    | none => h

/-- The accesses of a command that other modules have not answered within WAIT_TIMEOUT_MS end, and their command TIMEOUT (R283). A
write that waits for a host port has no limit. -/
def Hw.accessTimeout (h : Hw) (c : Cmd) : Hw :=
  h.accesses.foldl (fun h (a : Access) =>
    let far := match a.home with | .host _ => false | _ => true
    if a.order = c.order ∧ far = true then h.loseAccess a stTimeout 0 else h) h

/-- COMMAND_TIMEOUT (R86, R283, R305, R313): the limit of a blocked wait, a channel command or an access to another module
expires. A command that nothing holds back is not ended. -/
def execCommandTimeout (ring : Nat) (index : W32) (s : State) : Host.Outcome State Fault Refusal :=
  act (fun h =>
    match h.cmd ring index with
    | some c =>
      let n := (h.ring ring).ctx
      if c.opcode = 0x04 ∧ c.phase = .blocked ∧ c.satisfied = false ∧ c.noLimit = false then h.prefetchEnd ring c (some (stTimeout, 0)) {}
      else if h.awaits c.order && !c.noLimit then h.accessTimeout c
      else if c.phase == .done || c.noLimit then h
      else if c.opcode = 0x03 then (if c.phase == .blocked then h.finishCmd ring index stTimeout 0 else h)
      else if c.opcode = 0x04 then h
      else if c.opcode = 0x1B then h.sendTimeout n ring c
      else if c.opcode = 0x1C then
        let ch := (h.ctx n).chan (c.f 0x20 1)
        if ch.landed.any (·.1 == ch.recvSeq) then h else (h.stall n (c.f 0x20 1)).finishCmd ring index stTimeout 0
      else if c.opcode = 0x02 then (if c.phase == .blocked then h.finishCmd ring index stTimeout 0 else h)
      else if c.held && !c.wantsEngine then h.finishCmd ring index stTimeout 0
      else h
    | none =>
      let w := h.ring ring
      if w.canFetch && w.head == index && (h.host (h.ringPort w)).up then h.fetchTimeout ring else h) s

end Sys2Proof.Machine
end

