-- ==== Sys2Proof/Machine/Training.lean ====
section
/-! DEFINITION. The loss scale, UPDATE, LOSS_SCALE and STATS_READ, and the units that tiles take (12 R317-R326; 07 R196). -/

namespace Sys2Proof.Machine

/-! ## The decision of a step (R321) -/

/-- An exponent as DETAIL shows it. -/
def expDetail (e : Int) : Nat := (BitVec.ofInt 32 e).toNat

/-- Decide a step: `bad` is the pending flag or the scan. -/
def Loss.decide (l : Loss) (p : Plan) (s : Nat) (bad : Bool) : Loss :=
  let l := { l with stepExp := l.exp, decided := s }
  if bad then { l with skipVerdict := true, clean := 0, exp := if p.lsFixed then l.exp else max (l.exp - 1) p.lsFloor }
  else
    let l := { l with skipVerdict := false, clean := l.clean + 1 }
    if l.clean = p.lsInterval then { l with clean := 0, exp := if p.lsFixed then l.exp else min (l.exp + 1) p.lsCeil } else l

/-- The pending flag of a step after flags of that step (R320). -/
def Loss.record (l : Loss) (s : Nat) (bad : Bool) : Loss :=
  if s ≤ l.decided ∨ s < l.pendStep then l
  else if l.pendStep < s then { l with pendStep := s, pend := bad }
  else { l with pend := l.pend || bad }

/-! ## UPDATE (R324-R326) -/

/-- The non-finite values of a tensor, as the scan of R321 counts them, in SAT mode like the whole of UPDATE (R326). -/
def Run.scan (r : Run) (t : TD) : Nat × Run :=
  forN t.groups (0, r) fun x q =>
    let y := x.2.loadGroup { td := t } false none (t.row (q / t.cg)) (q % t.cg) 32
    (x.1 + (y.1.filter fun (e : EIn) => !(v32 e.code).finite).length, y.2)

/-- The tensors of an UPDATE. -/
structure Upd where
  master : TD
  grad : TD
  state : Option TD
  out : Option TD
  base : Nat
  step : Nat
  tensor : W32
  hp0 : W32
  hp1 : W32
  slot : Nat
  mask : Nat

def Cmd.upd (c : Cmd) : Upd :=
  { master := (slotTd c.tds 4).getD {}, grad := (slotTd c.tds 0).getD {}, state := slotTd c.tds 5, out := slotTd c.tds 1
    base := fld c.extra 0x20 8, step := c.f 0x20 4, tensor := BitVec.ofNat 32 (c.f 0x24 4)
    hp0 := BitVec.ofNat 32 (c.f 0x28 4), hp1 := BitVec.ofNat 32 (c.f 0x2C 4), slot := c.f 0x30 1, mask := c.f 0x32 2 }

def Upd.units (u : Upd) : Nat := u.master.batches * ((u.master.rows1 + 127) / 128)

/-- Slices of the optimiser state. -/
def Upd.slices (u : Upd) : Nat := match u.state with | some t => t.size (t.rank - 1) | none => 0

/-- The gradient as E1: its value times 2^−STEP_EXP, rounded once. -/
def gradIn (t : TD) (k : Int) (scale : Val) (code : Nat) : W32 × Bool × Nat :=
  let e := elemVal false t.elem code
  let y := scaled 1 (-k)
  let r := lane32 false ((e.1.mul scale).mul (.fin false y.1 y.2))
  (r.1, r.2, e.2)

/-- Columns of a row of the gradient. -/
def Run.gradRow (r : Run) (t : TD) (k : Int) (idx : List Nat) (j : Nat) : List EIn × Run :=
  (List.range 4).foldl (fun (x : List EIn × Run) g =>
    let kk := 4 * j + g
    if kk < t.cg then
      let y := x.2.grp { td := t } idx kk
      let s := if t.scaleFmt = 0 then (Val.fin false 1 1, 0) else scaleVal t.scaleFmt y.1.scale
      let zs := (List.range (t.validIn kk)).map fun p => gradIn t k s.1 (codeAt t.elem y.1.bytes p)
      (x.1 ++ zs.zipIdx.map fun z => ({ code := z.1.1, poison := y.1.bad z.2, sat := z.1.2.1 } : EIn),
       { y.2 with range := y.2.range + s.2 + (zs.map fun z => z.2.2).sum })
    else x) ([], r)

/-- Columns of a slice of the state, none where it has fewer. -/
def Upd.stateRow (u : Upd) (r : Run) (idx : List Nat) (k j : Nat) : List EIn × Run :=
  match u.state with
  | some t => if k < u.slices then r.loadRow { td := t } false none (idx ++ [k]) j else ([], r)
  | none => ([], r)

/-- One row of one block of an UPDATE. -/
def Upd.row (u : Upd) (im : Image) (stepExp : Int) (seed : W64) (tag : Nat × Byte) (batch row rb j : Nat) (x : UnitOut) : UnitOut :=
  let q := batch * u.master.rows1 + row
  let idx := u.master.row q
  let a := x.run.loadRow { td := u.master } false none idx j
  let g := a.2.gradRow u.grad stepExp idx j
  let s0 := u.stateRow g.2 idx 0 j
  let s1 := u.stateRow s0.2 idx 1 j
  let lin := u.base + q * u.master.size 0 + 128 * j
  let v : VEnv := { im := im, grad := false, seed := seed, step := BitVec.ofNat 64 u.step, row := row, rb := rb, col0 := 128 * j,
                    lin0 := lin, aux := none, auxIdx := [], tag := tag }
  let lanes : List Lane := a.1.zipIdx.map fun m =>
    let e (l : List EIn) : EIn := l.getD m.2 {}
    { regs := m.1.code :: (e g.1).code :: (e s0.1).code :: (e s1.1).code :: u.hp0 :: u.hp1 :: List.replicate 10 0
      poison := m.1.poison || (e g.1).poison || (e s0.1).poison || (e s1.1).poison
      sat := m.1.sat || (e g.1).sat }
  let y := im.instrs.foldl v.instr { lanes := lanes, run := s1.2, trgs := x.trgs }
  let res (k : Nat) (sat : Bool) : List (W32 × Bool × Bool) := y.lanes.map fun l => (l.regs.getD k 0, sat && l.sat, l.poison)
  let near : Nat → Rounder := fun _ => rne
  let r := y.run.putRow { td := u.master } q j (outRow u.master false false near (res 0 u.out.isNone)) true
  let r := match u.state with
    | some t =>
      forN u.slices r fun r k => r.putRow { td := t } (t.rowNumber (idx ++ [k])) j (outRow t false false near (res (2 + k) false)) true
    | none => r
  let r := match u.out with
    | some t =>
      let rd (p : Nat) : Rounder :=
        stochastic (randBits seed (BitVec.ofNat 64 u.step) (u.tensor.setWidth 64) (BitVec.ofNat 64 (lin + p))).toNat
      r.putRow { td := t } q j (outRow t false false rd (res 0 true)) (t.scaleFmt == 0)
    | none => r
  { x with run := r, trgs := y.trgs }

/-- One unit of an UPDATE, as a PROGRAM unit of R196. -/
def Upd.unit (u : Upd) (im : Image) (stepExp : Int) (seed : W64) (tag : Nat × Byte) (n : Nat) (x : UnitOut) : UnitOut :=
  let per := (u.master.rows1 + 127) / 128
  let r0 := 128 * (n % per)
  let y := forN u.master.colBlocks x fun x j =>
    forN (min 128 (u.master.rows1 - r0)) x fun x rb => u.row im stepExp seed tag (n / per) (r0 + rb) rb j x
  { y with blocks := u.master.colBlocks, issue := 64 * im.issue * u.master.colBlocks }

/-- What one unit of an UPDATE reads and writes on a tile; none where its program slot has been emptied. -/
def Hw.updateOut (h : Hw) (ring : Nat) (c : Cmd) (die tile unit : Nat) (env : Env) : Option UnitOut :=
  let n := (h.ring ring).ctx
  let r := { (Run.start h die n true true env).resume c with supply := true, cls := .crit }
  (h.programOf c die tile c.upd.slot n).map fun im =>
    let x := c.upd.unit im (h.ctx n).loss.stepExp (h.ctx n).plan.jobSeed (h.tag n) unit { run := r, trgs := (h.tile die tile).trgs, regs := (h.tile die tile).elemRegs }
    { x with run := x.run.spoil c die tile }

/-- Run one unit of an UPDATE whose verdict is APPLY on a tile. -/
def Hw.updateUnit (h : Hw) (ring : Nat) (c : Cmd) (die tile unit : Nat) (dies taken : List Nat) (env : Env) : Hw :=
  match h.updateOut ring c die tile unit env with
  | none => h.finishCmd ring c.index stStateConflict 0x0503
  | some x => h.endUnit ring c die tile unit ((Run.start h die (h.ring ring).ctx true true env).resume c) x dies taken c.upd.units

/-- Decide or take the verdict of an UPDATE's step: it ends SKIPPED, or its units may run (`satisfied`). The reserved codes that the scan
reads count where the scan is all that reads them; on APPLY the units count them (R156; log 48). -/
def Hw.updateVerdict (h : Hw) (ring : Nat) (c : Cmd) (env : Env) : Hw :=
  let n := (h.ring ring).ctx
  let u := c.upd
  let x := (h.ctx n).loss
  if u.step < x.decided then h.conflict ring c.index 0x0C01
  else
    let r := { (Run.start h 0 n true true env).resume c with supply := true, cls := .crit }
    let y : Nat × Run := if (c.f 0x31 1).testBit 0 then (0, r) else r.scan u.grad
    if y.2.waits && y.2.fail.isNone then h.holdCmd ring c.index y.2
    else if y.2.fail.isSome then h.endRun ring c.index y.2 false
    else
      let r := { y.2 with range := c.range }
      let bad := (x.pendStep == u.step && x.pend) || decide (0 < y.1)
      let dec := decide (x.decided < u.step)
      let r := if dec then { r with h := r.h.setCtx n fun z => { z with loss := z.loss.decide z.plan u.step bad } } else r
      let l := (r.h.ctx n).loss
      let end_ (nan : Nat) : Hw :=
        r.finish.setCmd ring c.index fun c => { c.finish stSkipped (expDetail l.exp) with nan := nan, range := y.2.range }
      if l.skipVerdict then end_ 0
      else if 0 < y.1 then end_ y.1
      else (h.keepRun ring c.index r id).setCmd ring c.index fun c => { c with satisfied := true }

/-- The tiles of an UPDATE that take work now. -/
def Hw.updateTiles (h : Hw) (u : Upd) (dies : List Nat) : List (Nat × Nat) :=
  dies.flatMap fun d => (h.takingTiles d u.mask).map fun t => (d, t)

/-- UPDATE (R321, R326): the verdict, and on APPLY every unit not yet taken. -/
def execUpdate (ring : Nat) (index : W32) (env : Env) (s : State) : Host.Outcome State Fault Refusal :=
  act (fun h => h.onCmd ring index 0x20 fun c =>
    let h := if c.satisfied then h else h.updateVerdict ring c env
    forN c.upd.units h fun h u =>
      match h.cmd ring index with
      | none => h
      | some c =>
        match c.work with
        | .element dies taken =>
          if c.phase == .done || !c.satisfied || taken.contains u then h
          else match h.unitTile ring index (h.updateTiles c.upd dies) u with
            | some (d, t) => h.updateUnit ring c d t u dies taken env
            | none => h
        | _ => h) s

/-! ## UNIT_TAKE (R196) -/

/-- The lowest unit that a started command offers a tile. -/
def Hw.unitFor (h : Hw) (die tile : Nat) (w : Nat × Cmd) : Option Nat :=
  let c := w.2
  match c.work with
  | .element dies taken =>
    let n := if c.opcode = 0x20 then c.upd.units else (c.elem (h.ring w.1).ctx).units
    let mask := if c.opcode = 0x20 then c.f 0x32 2 else c.f 0x38 2
    let ok := c.phase == .started && dies.contains die && (h.takingTiles die mask).contains tile &&
      (c.opcode == 0x11 || (c.opcode == 0x20 && c.satisfied))
    if ok then (List.range n).find? fun u => !taken.contains u && (h.unitHolder w.1 c.index u).isNone else none
  | _ => none

/-- Run one unit of a started ELEMENT or UPDATE on a tile. -/
def Hw.runUnit (h : Hw) (ring : Nat) (c : Cmd) (die tile unit : Nat) (env : Env) : Hw :=
  match c.work with
  | .element dies taken =>
    if c.opcode = 0x20 then h.updateUnit ring c die tile unit dies taken env else h.elementUnit ring c die tile unit taken env
  | _ => h

/-- The unit that a tile holds, with its command. -/
def Hw.heldUnit (h : Hw) (die tile : Nat) : Option ((Nat × Cmd) × Nat) :=
  match (h.tile die tile).unit with
  | some (r, i, u) => (h.cmd r i).map fun c => ((r, c), u)
  | none => none

/-- UNIT_TAKE: a tile goes on with the unit it holds; an idle tile takes the lowest unit not yet taken, from the command that started
earliest. -/
def execUnitTake (die tile : Nat) (env : Env) (s : State) : Host.Outcome State Fault Refusal :=
  act (fun h =>
    match h.heldUnit die tile with
    | some x => if x.1.2.phase == .started && !h.tileStands die tile then h.runUnit x.1.1 x.1.2 die tile x.2 env else h
    | none =>
      match firstStarted ((h.runningWhere fun c => c.opcode == 0x11 || c.opcode == 0x20).filter fun w => (h.unitFor die tile w).isSome) with
      | none => h
      | some w => match h.unitFor die tile w with | some u => h.runUnit w.1 w.2 die tile u env | none => h) s

/-! ## LOSS_SCALE (R323) -/

/-- 2^e as FP32. -/
def pow2Code (e : Int) : Nat := (127 + e).toNat * 2 ^ 23

/-- What LOSS_SCALE WRITE writes: the scale and its reciprocal, two FP32 numbers, with EXP taken at the command's start (R323). -/
def Hw.lossRun (h : Hw) (ring : Nat) (c : Cmd) : Run :=
  let n := (h.ring ring).ctx
  let e := match c.work with | .exp e => e | _ => (h.ctx n).loss.exp
  ((Run.start h 16 n false false {}).resume c).write (c.f 0x20 8) (toLe 4 (pow2Code e) ++ toLe 4 (pow2Code (-e))) false

/-- LOSS_SCALE WRITE. -/
def execLossScaleWrite (ring : Nat) (index : W32) (s : State) : Host.Outcome State Fault Refusal :=
  act (fun h => h.onCmd ring index 0x21 fun c =>
    if c.f 0x18 1 ≠ 0 then h
    else
      h.endRun ring index (h.lossRun ring c) false) s

/-- LOSS_SCALE SET. -/
def execLossScaleSet (ring : Nat) (index : W32) (s : State) : Host.Outcome State Fault Refusal :=
  act (fun h => h.onCmd ring index 0x21 fun c =>
    if c.f 0x18 1 ≠ 2 then h
    else
      let n := (h.ring ring).ctx
      if !(h.ctx n).plan.expert then h.conflict ring index 0x0105
      else
        let e := signed 8 (c.f 0x28 1)
        (h.setCtx n fun x => { x with loss := { x.loss with exp := e, clean := 0 } }).finishCmd ring index stOk 0) s

/-! ## STATS_READ (R318) -/

/-- The record of a bank. -/
def Bank.record (b : Bank) : List Byte :=
  toLe 4 b.step.toNat ++ toLe 2 b.colls ++ toLe 2 b.contrib ++ toLe 1 (b2n b.valid + 2 * b2n b.mixed + 4 * b2n b.nonFinite) ++
  zeros 3 ++ toLe 4 b.localSq.toNat ++ toLe 4 b.recvSq.toNat ++ zeros 4 ++ toLe 8 b.elems

/-- What STATS_READ writes: 32 bytes for each bank asked for. -/
def Hw.statsRun (h : Hw) (ring : Nat) (c : Cmd) : Run :=
  let n := (h.ring ring).ctx
  let first := c.f 0x20 1
  forN (c.f 0x21 1) ((Run.start h 16 n false false {}).resume c) fun r k =>
    let b := (h.ctx n).banks.getD (first + k) ({}, {})
    r.write (c.f 0x18 8 + 32 * k) (if c.f 0x22 1 = 0 then b.1 else b.2).record false

/-- STATS_READ. -/
def execStatsRead (ring : Nat) (index : W32) (s : State) : Host.Outcome State Fault Refusal :=
  act (fun h => h.onCmd ring index 0x22 fun c => h.endRun ring index (h.statsRun ring c) false) s

end Sys2Proof.Machine
end

