-- ==== Sys2Proof/Machine/CollShape.lean ====
section
/-! DEFINITION. What a collective is on one module: its participants, slices, chunks, trees, partials and results
(11 R285-R294; 12 R315). Axes of length 1 have nothing to exchange and are passed over. -/

namespace Sys2Proof.Machine

/-- A collective that runs as the module itself or as its twin (R380). -/
structure Coll where
  ring : Nat
  index : W32
  n : Nat
  twin : Bool
  me : Coord
  topo : Topology
  b : List Byte
  src : TD
  dst : TD

def Coord.on (c : Coord) (a : Nat) : Nat := if a = 0 then Coord.x c else if a = 1 then Coord.y c else Coord.z c
def Coord.setOn (c : Coord) (a v : Nat) : Coord :=
  mkCoord (if a = 0 then v else Coord.x c) (if a = 1 then v else Coord.y c) (if a = 2 then v else Coord.z c)

/-- The coordinates a command of a collective takes part with (R380). -/
def Hw.collSelf (h : Hw) (twin : Bool) : Coord := if twin then h.twin.getD h.self else h.self

/-- The collective that a command runs; none for LOSS_SCALE AGREE. -/
def Hw.collOf (h : Hw) (ring : Nat) (c : Cmd) : Option Coll :=
  match c.collBytes with
  | some (b, tw) =>
    if fld b 0 1 = 0x21 then none
    else some { ring := ring, index := c.index, n := (h.ring ring).ctx, twin := tw, me := h.collSelf tw, topo := h.topology, b := b,
                src := (slotTd c.tds 0).getD {}, dst := (slotTd c.tds 1).getD {} }
  | none => none

def Coll.op (k : Coll) : Nat := fld k.b 0 1
def Coll.oper (k : Coll) : Nat := if k.op = 0x19 then 0 else fld k.b 0x2A 1
def Coll.flag (k : Coll) (i : Nat) : Bool := (fld k.b 0x2B 1).testBit i
def Coll.grad (k : Coll) : Bool := k.flag 0
/-- ALLGATHER has no partials, so no tree combines them. -/
def Coll.tree (k : Coll) : Bool := k.flag 1 && k.op != 0x19
def Coll.carry (k : Coll) : Bool := k.flag 2
def Coll.stats (k : Coll) : Bool := k.flag 3 && k.op != 0x19
def Coll.padw (k : Coll) : Bool := k.flag 4
def Coll.id (k : Coll) : W16 := BitVec.ofNat 16 (fld k.b 0x28 2)
def Coll.step (k : Coll) : W32 := BitVec.ofNat 32 (fld k.b 0x2C 4)
def Coll.mask (k : Coll) : Nat := fld k.b 0x30 1
def Coll.localN (k : Coll) : Nat := if k.op = 0x19 then 1 else fld k.b 0x31 1
def Coll.radix (k : Coll) : Nat := fld k.b 0x33 1
def axisSize (t : Topology) (a : Nat) : Nat := if a = 0 then t.lens.1 else if a = 1 then t.lens.2.1 else t.lens.2.2
/-- The axes on which participants differ, X first. -/
def Coll.axes (k : Coll) : List Nat := [0, 1, 2].filter fun a => k.mask.testBit a && decide (1 < axisSize k.topo a)
/-- The participants P (R286). -/
def Coll.p (k : Coll) : Nat := collSize k.topo k.mask

/-- A participant's rank (R286). -/
def Coll.rank (k : Coll) (c : Coord) : Nat :=
  (k.axes.foldl (fun (x : Nat × Nat) a => (x.1 + Coord.on c a * x.2, x.2 * axisSize k.topo a)) (0, 1)).1
/-- The participant of a rank. -/
def Coll.member (k : Coll) (r : Nat) : Coord :=
  (k.axes.foldl (fun (x : Coord × Nat) a => (Coord.setOn x.1 a (x.2 % axisSize k.topo a), x.2 / axisSize k.topo a)) (k.me, r)).1

/-- How partials travel: 0 FP32, 1 INT32, 2 INT64 (R288). -/
def Coll.kind (k : Coll) : Nat :=
  if k.src.scaleFmt ≠ 0 then 0 else if k.src.elem = 6 ∨ k.src.elem = 7 then 1 else if k.src.elem = 11 then 2 else 0

/-! ## Slices and chunks (R288, R289; log 27) -/

/-- The channel groups that the slices divide: those of the destination, once for each rank under REDUCE_SCATTER. -/
def Coll.total (k : Coll) : Nat := k.dst.groups * (if k.op = 0x1A then k.p else 1)
def Coll.lo (k : Coll) (d : Nat) : Nat := k.total * d / 16
def Coll.groupsIn (k : Coll) (d : Nat) : Nat := k.lo (d + 1) - k.lo d
/-- Whether a slice carries the extra element of R315. -/
def Coll.extra (k : Coll) (d : Nat) : Bool := k.stats && d == 0
/-- Groups of a slice, and one more for the extra element. -/
def Coll.units (k : Coll) (d : Nat) : Nat := k.groupsIn d + b2n (k.extra d)

/-- Chunk c of L of a run of a slice's units; what follows the last group goes with the last chunk. -/
def cutRange (g : Nat) (r : Nat × Nat) (l c : Nat) : Nat × Nat :=
  let n := min r.2 g - r.1
  (r.1 + n * c / l, if c + 1 = l then r.2 else r.1 + n * (c + 1) / l)

/-- The units a participant still works on after the first axes of a ring. -/
def Coll.range (k : Coll) (d stage : Nat) (c : Coord) : Nat × Nat :=
  (k.axes.take stage).foldl (fun r a => cutRange (k.groupsIn d) r (axisSize k.topo a) (Coord.on c a)) (0, k.units d)

/-- Messages of up to 64 KiB: runs of at most 256 groups of the widest partials (R288). -/
def pieces (r : Nat × Nat) : List (Nat × Nat) :=
  (List.range ((r.2 - r.1 + 255) / 256)).map fun i => (r.1 + 256 * i, min 256 (r.2 - (r.1 + 256 * i)))

/-! ## Trees (R292) -/

def Coll.root (k : Coll) (d a : Nat) : Nat := d % axisSize k.topo a
def Coll.pos (k : Coll) (d a : Nat) (c : Coord) : Nat := (Coord.on c a + axisSize k.topo a - k.root d a) % axisSize k.topo a
def Coll.atPos (k : Coll) (d a p : Nat) (c : Coord) : Coord := Coord.setOn c a ((p + k.root d a) % axisSize k.topo a)
def Coll.children (k : Coll) (a p : Nat) : List Nat :=
  ((List.range k.radix).map fun i => k.radix * p + 1 + i).filter fun q => decide (q < axisSize k.topo a)
def Coll.parent (k : Coll) (p : Nat) : Nat := (p - 1) / k.radix
/-- Whether position q lies below or at p. -/
def Coll.below (k : Coll) (p q : Nat) : Bool :=
  ((List.range 64).foldl (fun (x : Bool × Nat) _ => (x.1 || x.2 == p, k.parent x.2)) (false, q)).1
/-- Whether a participant is the root of every axis before a stage. -/
def Coll.rootBefore (k : Coll) (d stage : Nat) (c : Coord) : Bool := (k.axes.take stage).all fun a => k.pos d a c == 0

/-! ## Combination (R288) -/

/-- The value of a partial. -/
def partVal (kind : Nat) (w : W64) : Val := if kind = 0 then v32 (w.setWidth 32) else .ofInt w.toInt

def clamp64 (i : Int) : W64 × Bool :=
  if i > 2 ^ 63 - 1 then (0x7FFFFFFFFFFFFFFF, true) else if i < -2 ^ 63 then (0x8000000000000000, true) else (BitVec.ofInt 64 i, false)

/-- One ⊕, and whether it clamped. -/
def combine1 (kind op : Nat) (grad : Bool) (a b : W64) : W64 × Bool :=
  if kind = 0 then
    let x : W32 := a.setWidth 32
    let y : W32 := b.setWidth 32
    let r := if op = 2 then maxOp grad x y else if op = 3 then minOp grad x y else addOp grad x y
    (r.1.setWidth 64, r.2)
  else
    let i := a.toInt
    let j := b.toInt
    let v := if op = 2 then max i j else if op = 3 then min i j else i + j
    if kind = 1 then let r := clamp32 v; (r.1.signExtend 64, r.2) else clamp64 v

/-- ⊕ on runs of units from unit `first` of slice d; the extra element adds in SAT mode (R315). -/
def Coll.combine (k : Coll) (d first : Nat) (xs ys : List W64) : List W64 × Nat :=
  let zs := (xs.zip ys).zipIdx.map fun z =>
    if k.extra d && first + z.2 / 32 == k.groupsIn d then combine1 0 0 false z.1.1 z.1.2
    else combine1 k.kind k.oper k.grad z.1.1 z.1.2
  (zs.map (·.1), (zs.filter (·.2)).length)

/-! ## Reading the source -/

/-- Where a group of the reduction lies in the destination: the rank that holds it, its row and its channel group. -/
def Coll.place (k : Coll) (g : Nat) : Nat × Nat × Nat :=
  let q := g % k.dst.groups
  (if k.op = 0x1A then g / k.dst.groups else 0, q / k.dst.cg, q % k.dst.cg)

/-- Values of `n` consecutive channels of a source row as partials. -/
def Coll.readRow (k : Coll) (r : Run) (idx : List Nat) (c0 n : Nat) : List (W64 × Bool) × Run :=
  let first := c0 / 32
  let v : View := { td := k.src }
  let gs := (List.range ((c0 + n - 1) / 32 + 1 - first)).foldl (fun (x : List Grp × Run) i =>
    let y := x.2.grp v idx (first + i)
    (x.1 ++ [y.1], y.2)) ([], r)
  let at1 (g : Grp) (j : Nat) : W64 × Bool × Bool × Nat :=
    let code := codeAt k.src.elem g.bytes j
    if k.kind = 0 then
      let s := if k.src.scaleFmt = 0 then (Val.fin false 1 1, 0) else scaleVal k.src.scaleFmt g.scale
      let y := inputOf k.src k.grad none s.1 code
      (y.1.setWidth 64, g.bad j, y.2.1, y.2.2)
    else (BitVec.ofInt 64 (signed (elemBits k.src.elem) code), g.bad j, false, 0)
  let xs := (List.range n).map fun j => at1 (gs.1.getD ((c0 + j) / 32 - first) ⟨[], 0, []⟩) ((c0 + j) % 32)
  let bad := (gs.1.map fun (g : Grp) => if k.src.scaleFmt = 0 then 0 else (scaleVal k.src.scaleFmt g.scale).2).sum
  (xs.map fun x => (x.1, x.2.1),
   { gs.2 with sat := gs.2.sat + (xs.filter fun x => x.2.2.1).length, range := gs.2.range + bad + (xs.map fun x => x.2.2.2).sum })

/-- One local contribution to a group, filled up to 32 values. -/
def Coll.readLocal (k : Coll) (r : Run) (g l : Nat) : List (W64 × Bool) × Run :=
  let p := k.place g
  let idx := k.dst.row p.2.1
  let d := k.dst.size (k.dst.rank - 1)
  let c0 := 32 * p.2.2 + (if k.dst.rank = 1 then p.1 * d else 0)
  let idx := if k.dst.rank = 1 then idx else idx.set (idx.length - 1) (idx.getLastD 0 + p.1 * d)
  let n := k.dst.validIn p.2.2
  let x := k.readRow r (if k.localN > 1 then idx ++ [l] else idx) c0 n
  (x.1 ++ List.replicate (32 - n) (0, false), x.2)

/-- The module's own contribution to a group: the in-package stage in ascending local index (R288). -/
def Coll.readGroup (k : Coll) (r : Run) (g : Nat) : List (W64 × Bool) × Run :=
  let x := k.readLocal r g 0
  (List.range (k.localN - 1)).foldl (fun (x : List (W64 × Bool) × Run) l =>
    let y := k.readLocal x.2 g (l + 1)
    let zs := (x.1.zip y.1).map fun z => (combine1 k.kind k.oper k.grad z.1.1 z.2.1, z.1.2 || z.2.2)
    (zs.map fun z => (z.1.1, z.2), { y.2 with sat := y.2.sat + (zs.filter fun z => z.1.2).length })) x

/-- The module's own partial of a slice. -/
def Coll.readSlice (k : Coll) (r : Run) (d : Nat) : List (W64 × Bool) × Run :=
  forN (k.groupsIn d) ([], r) fun x u => let y := k.readGroup x.2 (k.lo d + u); (x.1 ++ y.1, y.2)

/-! ## The squared norm (R315) -/

/-- One group added into an FP32 sum. -/
def addSquares (s : W32) (vs : List Val) : W32 :=
  (lane32 false (vs.foldl (fun a v => a.add (v.mul v)) (v32 s))).1

/-- The squared norm of groups of values, in ascending order. -/
def normOf (gs : List (List Val)) : W32 := gs.foldl addSquares 0

/-- The norms of the dies, in ascending die order. -/
def addNorms (l : List W32) : W32 := l.foldl (fun a b => (addOp false a b).1) 0

/-! ## Finishing (R290, R294, R320) -/

def Val.divNat (v : Val) (n : Nat) : Val :=
  match v with
  | .fin s a d => .fin s a (d * n)
  | x => x

/-- A finished group: its codes and scale, poison, counts, and the flag of R320. -/
structure Finished where
  values : List W64
  poisoned : List Bool
  sat : Nat := 0
  nan : Nat := 0
  nonFinite : Bool := false

/-- The value of a partial that is converted, and whether it was clamped: an INT64 sum converts only to INT32, and from there on as INT32
does (R162; log 28). -/
def Coll.convertible (k : Coll) (w : W64) : Val × Bool :=
  if k.kind = 2 ∧ k.dst.elem ≠ 11 then let y := clamp32 w.toInt; (.ofInt (i32 y.1), y.2) else (partVal k.kind w, false)

/-- Finish one group of partials: MEAN, then conversion or quantisation. -/
def Coll.finish1 (k : Coll) (g count : Nat) (xs : List W64) (po : List Bool) : Finished :=
  let n := k.dst.validIn (k.place g).2.2
  let cut := (xs.take n).map fun w => (k.convertible w).2
  let raw := (xs.take n).map fun w =>
    let v := (k.convertible w).1
    if k.oper = 1 then v32 (lane32 k.grad (v.divNat count)).1 else v
  let bad := k.kind == 0 && raw.any fun v => !v.finite
  if k.dst.scaleFmt = 0 then
    let ys := raw.map (convert rne k.dst.elem k.grad)
    { values := (ys.map fun y => BitVec.ofNat 64 y.code) ++ List.replicate (33 - n) 0, poisoned := po
      sat := ((ys.zip cut).filter fun y => y.1.sat || y.2).length, nan := (ys.filter (·.nan)).length, nonFinite := bad || ys.any (·.nan) }
  else
    let vs := if k.kind = 0 then raw else raw.map fun v => v32 (lane32 false v).1
    let q := quantise (List.replicate 32 rne) k.dst.elem k.dst.scaleFmt (vs.map some ++ List.replicate (32 - n) none)
    { values := (q.codes.take 32).map (BitVec.ofNat 64) ++ [BitVec.ofNat 64 q.scale], poisoned := po.map fun _ => po.any fun (b : Bool) => b
      sat := ((q.limited.zip (cut ++ List.replicate 32 false)).filter fun y => y.1 || y.2).length, nan := q.nans, nonFinite := bad || q.nans != 0 }

/-- Finish a run of units; the extra element keeps its sum. -/
def Coll.finishRun (k : Coll) (d count first n : Nat) (xs : List W64) (po : List Bool) : Finished × W32 :=
  (List.range n).foldl (fun (x : Finished × W32) i =>
    let vs := (xs.drop (32 * i)).take 32
    let ps := (po.drop (32 * i)).take 32
    if k.extra d && first + i == k.groupsIn d then
      ({ x.1 with values := x.1.values ++ List.replicate 33 0, poisoned := x.1.poisoned ++ List.replicate 32 false }, (vs.headD 0).setWidth 32)
    else
      let f := k.finish1 (k.lo d + first + i) count vs ps
      ({ values := x.1.values ++ f.values, poisoned := x.1.poisoned ++ f.poisoned, sat := x.1.sat + f.sat, nan := x.1.nan + f.nan,
         nonFinite := x.1.nonFinite || f.nonFinite }, x.2)) ({ values := [], poisoned := [] }, 0)

/-! ## Which groups a message of results holds (R290) -/

/-- The participant whose destination holds a group under REDUCE_SCATTER. -/
def Coll.owner (k : Coll) (d u : Nat) : Coord := k.member ((k.lo d + u) / k.dst.groups)

/-- Whether the message of results to a participant, along the axis of a stage, holds a unit. -/
def Coll.holds (k : Coll) (d : Nat) (c : Coord) (stage u : Nat) : Bool :=
  if k.extra d && u == k.groupsIn d then false
  else if k.op ≠ 0x1A then true
  else
    let o := k.owner d u
    let same (a : Nat) : Bool := Coord.on o a == Coord.on c a
    if k.tree then
      (k.axes.drop (stage + 1)).all same &&
      (match k.axes[stage]? with | some a => k.below (k.pos d a c) (k.pos d a o) | none => true)
    else (k.axes.drop stage).all same

end Sys2Proof.Machine
end

