-- ==== Sys2Proof/Machine/Collective.lean ====
section
/-! DEFINITION. Collectives: slices, credits, partials, results, trees, carries, their end, and LOSS_SCALE AGREE
(11 R285-R296; 12 R315-R317, R320, R323; 15 R380; log 27, log 28). -/

namespace Sys2Proof.Machine

/-! ## Slices of a command -/

def Cmd.slice (c : Cmd) (d : Nat) : Slice :=
  match c.work with
  | .coll l => l.getD d {}
  | _ => {}

def Hw.setSlice (h : Hw) (k : Coll) (d : Nat) (f : Slice → Slice) : Hw :=
  h.setCmd k.ring k.index fun c => { c with work := match c.work with | .coll l => .coll (l.modify d f) | w => w }

def Hw.slice (h : Hw) (k : Coll) (d : Nat) : Slice :=
  match h.cmd k.ring k.index with
  | some c => c.slice d
  | none => {}

/-- Whether the command still runs. -/
def Hw.collLive (h : Hw) (k : Coll) : Bool :=
  match h.cmd k.ring k.index with
  | some c => c.phase == .started
  | none => false

def Hw.countSat (h : Hw) (k : Coll) (n : Nat) : Hw := h.setCmd k.ring k.index fun c => { c with sat := c.sat + n }
def Hw.countRange (h : Hw) (k : Coll) (n : Nat) : Hw := h.setCmd k.ring k.index fun c => { c with range := c.range + n }

/-! ## Credits and messages (R291) -/

/-- Take one of the credits a peer has granted; none when there is none. -/
def Ctx.takeCollCredit (c : Ctx) (k : Coll) (d : Nat) (peer : Coord) : Option Ctx :=
  let mine (x : CollCredit) : Bool :=
    x.collId == k.id && x.step == k.step && x.die == d && x.peer == peer && x.asTwin == k.twin && x.count != 0
  if c.collCredits.any mine then
    some { c with collCredits := c.collCredits.map fun x => if mine x then { x with count := x.count - 1 } else x }
  else none

/-- Send a partial or a result to a participant, or keep it until a credit comes. A destination that cannot be reached ends the
command, unless it was left out of the sum (R292, R296). -/
def Hw.collSend (h : Hw) (k : Coll) (d : Nat) (dst : Coord) (must : Bool) (m : Msg) : Hw :=
  if !h.collLive k then h
  else match h.reach false dst with
  | .gone => if must then h.finishCmd k.ring k.index stPeerGone (coordNat dst) else h
  | .fenced => if must then h.finishCmd k.ring k.index stFenced (coordNat dst) else h
  | _ =>
    let c := (h.ctx k.n).takeCollCredit k d dst
    let h := match c with | some c => h.setCtx k.n fun _ => c | none => h
    let h := h.sendAs k.me k.n dst 3 (if must then some (k.ring, k.index) else none) m
    { h with outMsgs := h.outMsgs.dropLast ++ (h.outMsgs.getLast?.map fun o => { o with needCredit := c.isNone }).toList }


/-- Whether a queued message is one of a slice toward a peer. -/
def OutMsg.ofSlice (o : OutMsg) (n : Nat) (src peer : Coord) (id : W16) (step : W32) (d : Nat) : Bool :=
  o.srcCtx == n && o.src == src && o.dst == peer &&
  (match o.msg with
   | .collPartial m => m.collId == id && m.step == step && m.die == d
   | .collResult m => m.collId == id && m.step == step && m.die == d
   | _ => false)

/-- The running collective of a context with a key, as the module or its twin. -/
def Hw.collAt (h : Hw) (n : Nat) (id : W16) (step : W32) (twin : Bool) : Option Coll :=
  h.rings.zipIdx.findSome? fun w =>
    if w.1.module || w.1.ctx != n then none
    else w.1.running.findSome? fun c =>
      match h.collOf w.2 c with
      | some k => if c.phase == .started && k.twin == twin && k.id == id && k.step == step then some k else none
      | none => none

/-- The parent of this module in the tree of a stage; none for a root. -/
def Coll.parentOf (k : Coll) (d stage : Nat) : Option Coord :=
  match k.axes[stage]? with
  | none => none
  | some a => let p := k.pos d a k.me; if p = 0 then none else some (k.atPos d a (k.parent p) k.me)

/-- Whether a slice needs what a participant sends: every participant of a ring, and of a tree a parent, whose results it awaits (R296). -/
def Coll.needs (k : Coll) (d : Nat) (peer : Coord) : Bool :=
  !k.tree || (List.range k.axes.length).any fun j => k.parentOf d j == some peer

/-- Grant or return message credits to a sender (R291). One that the slice needs and that cannot be reached ends the command (R296). -/
def Hw.giveCredit (h : Hw) (k : Coll) (d : Nat) (peer : Coord) (count : Nat) : Hw :=
  let must := k.needs d peer
  if must && h.reach false peer == .gone then h.finishCmd k.ring k.index stPeerGone (coordNat peer)
  else if must && h.reach false peer == .fenced then h.finishCmd k.ring k.index stFenced (coordNat peer)
  else h.sendAs k.me k.n peer 3 (if must then some (k.ring, k.index) else none) (.collCredit k.id k.step d false count)

/-- A message of a slice along the axis of a stage. -/
def Coll.message (k : Coll) (d stage : Nat) (p : Nat × Nat) (values : List W64) (po : List Bool) (count : Nat) : CollMsg :=
  { collId := k.id, step := k.step, opcode := k.op, op := k.oper, tree := k.tree, destSizes := k.dst.dims, die := d
    axis := k.axes.getD stage 0, first := p.1, units := p.2, values := values, poisoned := po, mask := 0, count := count
    sumSq := 0, nonFinite := false, asTwin := false }

/-- The part of a slice's partials that a piece names. -/
def Slice.part (s : Slice) (p : Nat × Nat) : List W64 × List Bool :=
  ((s.parts.drop (32 * p.1)).take (32 * p.2), (s.marks.drop (32 * p.1)).take (32 * p.2))

/-- Replace the part of a piece. -/
def Slice.putPart (s : Slice) (first : Nat) (xs : List W64) (po : List Bool) : Slice :=
  { s with parts := s.parts.take (32 * first) ++ xs ++ s.parts.drop (32 * first + xs.length)
           marks := s.marks.take (32 * first) ++ po ++ s.marks.drop (32 * first + po.length) }

/-! ## The end of a collective (R294, R296, R316, R317, R320) -/

/-- The bank after one more collective of its group. -/
def Bank.add (b : Bank) (count : Nat) (bad : Bool) (s r : W32) (elems : Nat) : Bank :=
  { b with valid := true, colls := min (b.colls + 1) 65535
           contrib := if b.colls = 0 then count else min b.contrib count
           mixed := b.mixed || (b.colls != 0 && b.contrib != count)
           nonFinite := b.nonFinite || bad
           localSq := (addOp false b.localSq s).1, recvSq := (addOp false b.recvSq r).1, elems := b.elems + elems }

/-- Record a collective's statistics in its group (R317). -/
def recordStats (g : Bank × Bank) (step : W32) (count : Nat) (bad : Bool) (s r : W32) (elems : Nat) : Bank × Bank :=
  if g.1.step < step then (({ step := step } : Bank).add count bad s r elems, g.1)
  else if step < g.1.step then g
  else (g.1.add count bad s r elems, g.2)

/-- The squared norm of the destination values that the module has written, read as FP32, in the order of R315 (R316). -/
def Coll.receivedNorm (k : Coll) (l : List Slice) : W32 :=
  addNorms ((List.range 16).map fun d =>
    let w := (l.getD d {}).written
    normOf ((List.range (k.groupsIn d)).filterMap fun u =>
      (w.find? (·.1 == u)).map fun x =>
        let s := if k.dst.scaleFmt = 0 then Val.fin false 1 1 else (scaleVal k.dst.scaleFmt (x.2.getD 32 0).toNat).1
        (List.range (k.dst.validIn (k.place (k.lo d + u)).2.2)).map fun j =>
          v32 (lane32 false ((elemVal false k.dst.elem (x.2.getD j 0).toNat).1.mul s)).1))

/-- Once every slice has ended, the command's status is fixed (R296). -/
def Hw.collDone (h : Hw) (k : Coll) : Hw :=
  match h.cmd k.ring k.index with
  | none => h
  | some c =>
    match c.work with
    | .coll l =>
      if c.phase != .started || l.any fun (s : Slice) => !s.ended then h
      else
        let bad := l.any fun (s : Slice) => s.nonFinite
        let used := l.filter fun (s : Slice) => k.units s.die != 0
        let count := if k.op = 0x19 then k.p else (used.map fun (s : Slice) => s.count).foldl min k.p
        let h := if k.grad && k.op != 0x19 then
            h.setCtx k.n fun x => { x with loss := x.loss.record k.step.toNat bad } else h
        let h := if k.stats then
            let r := k.receivedNorm l
            let e := k.dst.dims.prod
            h.setCtx k.n fun x =>
              { x with banks := x.banks.modify (fld k.b 0x32 1) fun g => recordStats g k.step (c.slice 0).sumCount bad (c.slice 0).sumSq r e }
          else h
        let st : Nat × Nat :=
          if c.poison ≠ [] then (stPoison, c.poison.length)
          else if l.any fun (s : Slice) => s.late then (stLate, k.step.toNat)
          else if count < k.p then (stPartial, count)
          else if c.sat + c.range + c.nan ≠ 0 then (stOkCounted, 0)
          else (stOk, 0)
        h.finishCmd k.ring k.index st.1 st.2
    | _ => h

/-- Whether the partials that a tree's node has forwarded are accounted for: refused as late, or all consumed by its parent (R293). -/
def Coll.settled (k : Coll) (d : Nat) (s : Slice) : Bool := s.forwarded && (s.late || decide ((pieces (0, k.units d)).length ≤ s.fates))

/-- Whether a message is a partial or a result that a slice of a command must send. -/
def OutMsg.mustOf (o : OutMsg) (ring : Nat) (i : W32) (d : Nat) : Bool :=
  o.cmd == some (ring, i) && (match o.msg with
    | .collPartial m => m.die == d
    | .collResult m => m.die == d
    | _ => false)

/-- Whether a queued or unacknowledged frame belongs to a message. -/
def OutMsg.has (o : OutMsg) (f : Frame) : Bool :=
  f.msgId == o.msgId && f.dst.setWidth 18 == o.dst && f.srcCtx == o.srcCtx && f.kind != 3

/-- Whether a message has frames that wait for a link's queue, or that their link has not acknowledged. -/
def Hw.onWay (h : Hw) (o : OutMsg) : Bool :=
  !o.sent || allLinks.any fun x => ((h.link x.1 x.2).queue ++ (h.link x.1 x.2).replay).any o.has

/-- Whether a slice still has messages to send (R296). -/
def Hw.sliceSends (h : Hw) (k : Coll) (d : Nat) : Bool := h.outMsgs.any fun o => o.mustOf k.ring k.index d && h.onWay o

/-- A slice ends once the results of all its groups have come, and this module has sent what it must and knows what became of its own
partial (R292, R293, R296, R316). -/
def Hw.sliceEnd (h : Hw) (k : Coll) (d : Nat) : Hw :=
  let s := h.slice k d
  if h.collLive k && s.started && !s.ended && (s.covered.map (·.2)).sum == k.units d &&
     (!k.tree || k.units d == 0 || k.settled d s || k.axes.length ≤ s.stage) && !h.sliceSends k d then
    let h := h.setSlice k d fun s => { s with ended := true }
    let h := h.setDie d fun x => { x with slice := x.slice.filter (· != (k.ring, k.index)) }
    h.collDone k
  else h

/-- Credits come from a peer: messages that wait go first, the rest are kept. -/
def Hw.takeCollCredits (h : Hw) (n : Nat) (peer : Coord) (id : W16) (step : W32) (d : Nat) (twin : Bool) (count : Nat) : Hw :=
  let me := h.collSelf twin
  let x := h.outMsgs.foldl (fun (x : List OutMsg × Nat) (o : OutMsg) =>
    if o.needCredit && x.2 != 0 && o.ofSlice n me peer id step d then (x.1 ++ [{ o with needCredit := false }], x.2 - 1)
    else (x.1 ++ [o], x.2)) ([], count)
  let h := { h with outMsgs := x.1 }
  -- a credit that comes back tells a tree's node that its parent has consumed a partial (R293)
  let h := match h.collAt n id step twin with
    | some k =>
      if count = 1 ∧ k.tree = true ∧ k.parentOf d (h.slice k d).stage = some peer then (h.setSlice k d fun s => { s with fates := s.fates + 1 }).sliceEnd k d
      else h
    | none => h
  if x.2 = 0 then h
  else h.setCtx n fun c =>
    { c with collCredits := c.collCredits.filter (fun (y : CollCredit) => !(y.collId == id && decide (y.step < step))) ++
        [{ collId := id, step := step, die := d, peer := peer, asTwin := twin, count := x.2 }] }

/-! ## Results (R290, R292) -/

/-- The groups of a message of results with their values, scale and poison. -/
def Coll.unpack (k : Coll) (d : Nat) (c : Coord) (stage : Nat) (m : CollMsg) : List (Nat × List W64 × List Bool) :=
  ((List.range m.units).filter fun i => k.holds d c stage (m.first + i)).zipIdx.map fun x =>
    (m.first + x.1, (m.values.drop (33 * x.2)).take 33, (m.poisoned.drop (32 * x.2)).take 32)

/-- Write the groups that are this module's own. -/
def Hw.writeResults (h : Hw) (k : Coll) (d : Nat) (us : List (Nat × List W64 × List Bool)) (env : Env) : Hw :=
  match h.cmd k.ring k.index with
  | none => h
  | some c =>
    let r := { (Run.start h d k.n false false env).resume c with forced := true }
    let r := us.foldl (fun r u =>
      let p := k.place (k.lo d + u.1)
      if k.op = 0x1A ∧ p.1 ≠ k.rank k.me then r
      else
        r.putGroup { td := k.dst } p.2.1 p.2.2 ((u.2.1.take 32).map BitVec.toNat) u.2.2
          (if k.dst.scaleFmt = 0 then none else some (u.2.1.getD 32 0).toNat) k.padw) r
    let mine := us.filter fun u => !(k.op == 0x1A && (k.place (k.lo d + u.1)).1 != k.rank k.me)
    if r.fail.isSome then h.endRun k.ring k.index r false
    else
      let h := h.keepRun k.ring k.index r id
      if k.stats then h.setSlice k d fun s => { s with written := s.written ++ mine.map fun u => (u.1, u.2.1) } else h

/-- The participants to which results go on, with the stage whose axis they travel: from the finishing module over every axis in
reverse order, from another over the axes before the one they came by; down the tree to every child (R290, R292). -/
def Coll.passTo (k : Coll) (d : Nat) (via : Option Nat) : List (Coord × Nat) :=
  let n := k.axes.length
  let stages := if k.tree then (match via with | some j => j + 1 | none => n) else via.getD n
  (List.range stages).reverse.flatMap fun j =>
    let a := k.axes.getD j 0
    if k.tree then (k.children a (k.pos d a k.me)).map fun q => (k.atPos d a q k.me, j)
    else ((List.range (axisSize k.topo a)).filter (· != Coord.on k.me a)).map fun q => (Coord.setOn k.me a q, j)

/-- Results of a piece: pass them on, write this module's own, and note its summary. -/
def Hw.applyResults (h : Hw) (k : Coll) (d : Nat) (m : CollMsg) (us : List (Nat × List W64 × List Bool)) (via : Option Nat) (env : Env) : Hw :=
  let late (j : Nat) (c : Coord) : Bool :=
    let a := k.axes.getD j 0
    k.tree && (((h.slice k d).kids.filter fun (x : Nat × CollMsg) => x.1 == k.pos d a c && x.2.axis == a).map fun x => x.2.units).sum != k.units d
  let h := (k.passTo d via).foldl (fun h x =>
    let xs := us.filter fun u => k.holds d x.1 x.2 u.1
    let m := { m with axis := k.axes.getD x.2 0, values := xs.flatMap fun u => u.2.1, poisoned := xs.flatMap fun u => u.2.2 }
    h.collSend k d x.1 (!late x.2 x.1) (.collResult m)) h
  let h := h.writeResults k d us env
  let h := h.setSlice k d fun s =>
    { s with covered := s.covered ++ [(m.first, m.units)], nonFinite := s.nonFinite || m.nonFinite, count := m.count
             sumSq := if k.extra d && decide (k.groupsIn d < m.first + m.units) then m.sumSq else s.sumSq
             sumCount := if k.extra d && decide (k.groupsIn d < m.first + m.units) then m.count else s.sumCount }
  h.sliceEnd k d

/-- Finish runs of units at this module and send their results. -/
def Hw.finishUnits (h : Hw) (k : Coll) (d : Nat) (r : Nat × Nat) : Hw :=
  (pieces r).foldl (fun h p =>
    let s := h.slice k d
    let x := s.part p
    let count := if k.tree then s.count else k.p
    let f := k.finishRun d count p.1 p.2 x.1 x.2
    let h := h.setCmd k.ring k.index fun c => { c with sat := c.sat + f.1.sat, nan := c.nan + f.1.nan }
    let us := ((List.range p.2).map fun i => (p.1 + i, (f.1.values.drop (33 * i)).take 33, (f.1.poisoned.drop (32 * i)).take 32)).filter
      fun u => !(k.extra d && u.1 == k.groupsIn d)
    let m := { k.message d 0 p [] [] count with nonFinite := f.1.nonFinite, sumSq := f.2 }
    h.applyResults k d m us none {}) h

/-! ## Rings (R289) -/

/-- The direction of a slice's ring, as a step on an axis of length l. -/
def ringNext (d l p : Nat) : Nat := if d % 2 = 0 then (p + 1) % l else (p + l - 1) % l
def ringPrev (d l p : Nat) : Nat := if d % 2 = 0 then (p + l - 1) % l else (p + 1) % l

/-- Send this module's part of the chunk with which a ring of a stage begins. -/
def Hw.ringBegin (h : Hw) (k : Coll) (d : Nat) : Hw :=
  let s := h.slice k d
  let a := k.axes.getD s.stage 0
  let l := axisSize k.topo a
  let p := Coord.on k.me a
  let r := cutRange (k.groupsIn d) (k.range d s.stage k.me) l (ringPrev d l p)
  (pieces r).foldl (fun h q =>
    let x := s.part q
    h.collSend k d (Coord.setOn k.me a (ringNext d l p)) true (.collPartial (k.message d s.stage q x.1 x.2 k.p))) h

/-- Go on to the next axis once this module's chunk has ended on the present one; after the last, finish it. -/
def Hw.ringAdvance : Nat → Hw → Coll → Nat → Hw
  | 0, h, _, _ => h
  | f + 1, h, k, d =>
    let s := h.slice k d
    if k.axes.length ≤ s.stage || !h.collLive k then h
    else
      let a := k.axes.getD s.stage 0
      let l := axisSize k.topo a
      let r := cutRange (k.groupsIn d) (k.range d s.stage k.me) l (Coord.on k.me a)
      if (pieces r).all fun q => s.pieces.contains (s.stage, q.1) then
        let h := h.setSlice k d fun s => { s with stage := s.stage + 1 }
        if s.stage + 1 = k.axes.length then h.finishUnits k d (k.range d k.axes.length k.me)
        else Hw.ringAdvance f (h.ringBegin k d) k d
      else h

/-- A partial of an axis that the slice has reached arrives: one ⊕ per element; the chunk ends here or goes on along that axis. -/
def Hw.ringTake (h : Hw) (k : Coll) (d : Nat) (m : CollMsg) (src : Coord) : Hw :=
  let s := h.slice k d
  let j := k.axes.idxOf m.axis
  let a := m.axis
  let l := axisSize k.topo a
  let p := Coord.on k.me a
  let q := (m.first, m.units)
  let own := s.part q
  let x := k.combine d m.first m.values own.1
  let po := (m.poisoned.zip own.2).map fun z => z.1 || z.2
  let h := (h.countSat k x.2).giveCredit k d src 1
  let r := cutRange (k.groupsIn d) (k.range d j k.me) l p
  if r.1 ≤ m.first ∧ m.first < r.2 then
    (h.setSlice k d fun s => { s.putPart m.first x.1 po with pieces := s.pieces ++ [(j, m.first)] }).ringAdvance 4 k d
  else h.collSend k d (Coord.setOn k.me a (ringNext d l p)) true (.collPartial (k.message d j q x.1 po k.p))

/-! ## Deadline trees (R292) -/

/-- The children of the present stage whose partials are complete, ascending. -/
def Coll.present (k : Coll) (d : Nat) (s : Slice) : List Nat :=
  let a := k.axes.getD s.stage 0
  (k.children a (k.pos d a k.me)).filter fun q =>
    ((s.kids.filter fun (x : Nat × CollMsg) => x.1 == q && x.2.axis == a).map fun x => x.2.units).sum == k.units d

/-- Combine with a child's messages. -/
def Hw.treeAdd (h : Hw) (k : Coll) (d q : Nat) : Hw :=
  let a := k.axes.getD (h.slice k d).stage 0
  let ms := ((h.slice k d).kids.filter fun (x : Nat × CollMsg) => x.1 == q && x.2.axis == a).map (·.2)
  let h := ms.foldl (fun h (m : CollMsg) =>
    let own := (h.slice k d).part (m.first, m.units)
    let x := k.combine d m.first own.1 m.values
    let po := (own.2.zip m.poisoned).map fun z => z.1 || z.2
    (h.countSat k x.2).setSlice k d fun s => s.putPart m.first x.1 po) h
  h.setSlice k d fun s => { s with count := s.count + (match ms with | m :: _ => m.count | [] => 0) }

/-- A node forwards when every child has come or its wait has ended; a root goes on to the next axis or finishes. -/
def Hw.treeStep : Nat → Hw → Coll → Nat → Bool → Hw
  | 0, h, _, _, _ => h
  | f + 1, h, k, d, expired =>
    let s := h.slice k d
    if k.axes.length ≤ s.stage || s.forwarded || !s.started || !h.collLive k || !k.rootBefore d s.stage k.me then h
    else
      let a := k.axes.getD s.stage 0
      let p := k.pos d a k.me
      let kids := k.children a p
      let here := k.present d s
      if !expired && here != kids then h
      else
        let h := here.foldl (fun h q => h.treeAdd k d q) h
        let s := h.slice k d
        if p ≠ 0 then
          let mask := (kids.zipIdx.map fun (x : Nat × Nat) => if here.contains x.1 then 2 ^ x.2 else 0).sum
          let h := h.setSlice k d fun s => { s with forwarded := true }
          let h := (pieces (0, k.units d)).foldl (fun h q =>
            let x := s.part q
            h.collSend k d (k.atPos d a (k.parent p) k.me) true
              (.collPartial { k.message d s.stage q x.1 x.2 s.count with mask := mask })) h
          h.sliceEnd k d
        else
          let h := h.setSlice k d fun s => { s with stage := s.stage + 1 }
          if s.stage + 1 = k.axes.length then h.finishUnits k d (0, k.units d)
          else Hw.treeStep f h k d false

/-- Answer a late partial (R293). -/
def Hw.lateAnswer (h : Hw) (src : Coord) (m : CollMsg) (msgId : W16) (step : W32) : Hw :=
  (h.nack src 3 msgId step.toNat).setDie m.die fun d => { d with lateSent := satAdd d.lateSent 1 }

/-! ## Partials arrive -/

/-- The running collective of a context that a message concerns. -/
def Hw.collFor (h : Hw) (n : Nat) (m : CollMsg) : Option Coll :=
  h.rings.zipIdx.findSome? fun w =>
    if w.1.module || w.1.ctx != n then none
    else w.1.running.findSome? fun c =>
      match h.collOf w.2 c with
      | some k => if c.phase == .started && k.twin == m.asTwin && k.id == m.collId then some k else none
      | none => none

/-- Whether a slice takes the partials of an axis now: a ring those of every axis that it has reached, since chunks of others may follow its
own (R289); a tree those of its present axis. -/
def Coll.takes (k : Coll) (s : Slice) (axis : Nat) : Bool :=
  if k.tree then k.axes[s.stage]? == some axis else k.axes.contains axis && decide (k.axes.idxOf axis ≤ s.stage)

/-- Messages that waited for the axis now reached. -/
def Hw.takeWaiting : Nat → Hw → Coll → Nat → Hw
  | 0, h, _, _ => h
  | f + 1, h, k, d =>
    let s := h.slice k d
    let now := s.waiting.find? fun (x : CollMsg × Coord × W16) => k.takes s x.1.axis
    match now with
    | none => h
    | some x =>
      let h := h.setSlice k d fun s => { s with waiting := s.waiting.filter (· != x) }
      let h := if k.tree then
          ((h.setSlice k d fun s => { s with kids := s.kids ++ [(k.pos d x.1.axis x.2.1, x.1)] }).giveCredit k d x.2.1 1).treeStep 4 k d false
        else h.ringTake k d x.1 x.2.1
      Hw.takeWaiting f h k d

/-- Take a partial: combine it, keep it for a later axis, or refuse it as late (R289, R292, R293). While writes wait for the HBM
controllers it is held (R213, R216). -/
def Hw.takePartial (h : Hw) (n : Nat) (m : CollMsg) (src : Coord) (msgId : W16) : Hw :=
  if h.writesWait then { h with heldAccesses := h.heldAccesses ++ [{ what := .collPartial n m src msgId }] }
  else match h.collFor n m with
  | none => if m.tree then h.lateAnswer src m msgId m.step else h
  | some k =>
    let s := h.slice k m.die
    if k.step ≠ m.step then (if m.tree && decide (m.step < k.step) then h.lateAnswer src m msgId m.step else h)
    else if k.op ≠ m.opcode ∨ k.oper ≠ m.op ∨ k.dst.dims ≠ m.destSizes ∨ s.started = false then h
    else
      let j := k.axes.idxOf m.axis
      if k.tree && (decide (j < s.stage) || (j == s.stage && s.forwarded)) then
        h.lateAnswer src m msgId m.step
      else
        (h.setSlice k m.die fun s => { s with waiting := s.waiting ++ [(m, src, msgId)] }).takeWaiting (s.waiting.length + 1) k m.die

/-- COLL_PARTIAL_RECEIVE. -/
def execCollPartialReceive (ctx : Nat) (m : CollMsg) (src : Coord) (msgId : W16) (s : State) : Host.Outcome State Fault Refusal :=
  act (fun h => h.takePartial ctx m src msgId) s

/-- Take results: the message's credit goes back, and the results go where R290 sends them. While writes wait for the HBM controllers
they are held (R213, R216). -/
def Hw.takeResult (h : Hw) (n : Nat) (m : CollMsg) (src : Coord) (env : Env) : Hw :=
  if h.writesWait then { h.applyEnv env with heldAccesses := h.heldAccesses ++ [{ what := .collResult n m src, env := env }] }
  else match h.collFor n m with
  | none => h
  | some k =>
    let s := h.slice k m.die
    if k.step ≠ m.step ∨ k.op ≠ m.opcode ∨ k.dst.dims ≠ m.destSizes ∨ s.started = false ∨ s.covered.contains (m.first, m.units) = true then h
    else
      let j := k.axes.idxOf m.axis
      (h.giveCredit k m.die src 1).applyResults k m.die m (k.unpack m.die k.me j m) (some j) env

/-- COLL_RESULT_RECEIVE. -/
def execCollResultReceive (ctx : Nat) (m : CollMsg) (src : Coord) (env : Env) (s : State) : Host.Outcome State Fault Refusal :=
  act (fun h => h.takeResult ctx m src env) s

/-- TREE_DEADLINE_EXPIRY (R292): a node that waits for children forwards with those present. -/
def execTreeDeadlineExpiry (ring : Nat) (index : W32) (die : Nat) (s : State) : Host.Outcome State Fault Refusal :=
  act (fun h =>
    match h.cmd ring index with
    | none => h
    | some c =>
      match h.collOf ring c with
      | none => h
      | some k =>
        if k.tree && fld k.b 0x34 4 != 0xFFFFFFFF && !h.writesWait then
          let h := h.treeStep 4 k die true
          h.takeWaiting ((h.slice k die).waiting.length + 1) k die
        else h) s

/-! ## Carries (R293) -/

/-- A carry is discarded: counted on the command and the die, and reported. -/
def Hw.dropCarry (h : Hw) (k : Coll) (d cause : Nat) : Hw :=
  ((h.countRange k 1).setDie d fun x => { x with carryDrop := satAdd x.carryDrop 1 }).evCtx k.n 0x0402 (srcDie d)
    (k.id.toNat + 2 ^ 32 * k.step.toNat) cause

def Carry.size (c : Carry) : Nat := c.values.length * (if c.kind = 2 then 8 else 4)

/-- Whether a carry is that of a slice. -/
def Carry.ofSlice (c : Carry) (k : Coll) (d : Nat) : Bool := c.collId == k.id && c.die == d && c.asTwin == k.twin

/-- A late node stores its forwarded partial, or adds it into the one stored. -/
def Hw.storeCarry (h : Hw) (k : Coll) (d : Nat) : Hw :=
  let s := h.slice k d
  let p := s.part (0, k.groupsIn d)
  let new : Carry := { collId := k.id, die := d, kind := k.kind, asTwin := k.twin, values := p.1, poisoned := p.2 }
  let c := h.ctx k.n
  if c.plan.carryBytes = 0 then h.dropCarry k d 2
  else match c.carries.find? (·.ofSlice k d) with
  | some old =>
    if old.kind = new.kind ∧ old.values.length = new.values.length then
      let x := k.combine d 0 old.values new.values
      let sum : Carry := { old with values := x.1, poisoned := (old.poisoned.zip new.poisoned).map fun z => z.1 || z.2 }
      (h.countSat k x.2).setCtx k.n fun c => { c with carries := c.carries.map fun y => if y.ofSlice k d then sum else y }
    else h.dropCarry k d 3
  | none =>
    if c.plan.carryBytes < (c.carries.map Carry.size).sum + new.size then h.dropCarry k d 1
    else h.setCtx k.n fun c => { c with carries := c.carries ++ [new] }

/-- A slice learns that its forwarded partial came late: the pieces of it that still wait for a credit are not sent, and a carry is kept. -/
def Hw.sliceLate (h : Hw) (k : Coll) (d : Nat) (dst : Coord) : Hw :=
  let rest (o : OutMsg) : Bool := o.needCredit && o.dst == dst && o.mustOf k.ring k.index d && (match o.msg with | .collPartial _ => true | _ => false)
  let h := { h with outMsgs := h.outMsgs.filter fun o => !rest o }
  if (h.slice k d).late then h
  else
    let h := h.setSlice k d fun s => { s with late := true }
    (if k.carry then h.storeCarry k d else h).sliceEnd k d

/-- A parent has refused a partial of this module as late: it is counted also when its command has ended (R293, R299). -/
def Hw.takeLate (h : Hw) (o : OutMsg) : Hw :=
  match o.msg with
  | .collPartial m =>
    let h := { h with outMsgs := h.outMsgs.filter (· != o) }
    let h := h.setDie m.die fun d => { d with lateRcvd := satAdd d.lateRcvd 1 }
    (match (o.cmd.bind fun x => (h.cmd x.1 x.2).map fun c => (x.1, c)).bind fun x => h.collOf x.1 x.2 with
     | some k => h.sliceLate k m.die o.dst
     | none => h)
  | _ => h

/-- The carry that a slice takes up: its own partial with it, or the carry dropped because its size differs. -/
def Hw.useCarry (h : Hw) (k : Coll) (d : Nat) (xs : List (W64 × Bool)) : List (W64 × Bool) × Hw :=
  match (h.ctx k.n).carries.find? (·.ofSlice k d) with
  | none => (xs, h)
  | some c =>
    let h := h.setCtx k.n fun x => { x with carries := x.carries.filter fun y => !y.ofSlice k d }
    if c.kind = k.kind ∧ c.values.length = xs.length then
      let x := k.combine d 0 (xs.map (·.1)) c.values
      ((x.1.zip ((xs.map (·.2)).zip c.poisoned)).map fun z => (z.1, z.2.1 || z.2.2), h.countSat k x.2)
    else (xs, h.dropCarry k d 3)

/-! ## Slices start (R286, R291) -/

/-- The participants from which a slice receives. -/
def Coll.senders (k : Coll) (d : Nat) : List Coord :=
  let all := (List.range k.axes.length).flatMap fun j =>
    let a := k.axes.getD j 0
    if k.tree then
      if k.rootBefore d j k.me then
        let p := k.pos d a k.me
        (k.children a p ++ (if p = 0 then [] else [k.parent p])).map fun q => k.atPos d a q k.me
      else []
    else ((List.range (axisSize k.topo a)).filter (· != Coord.on k.me a)).map fun q => Coord.setOn k.me a q
  all.eraseDups

/-- Whether a die can take a slice: it holds none but the AS_TWIN counterpart's, and no collective started earlier still has one
to run there (R286, R380). -/
def Hw.sliceTurn (h : Hw) (k : Coll) (c : Cmd) (d : Nat) : Bool :=
  let other (w : Nat) (x : Cmd) : Bool :=
    match h.collOf w x with
    | some y => !(y.n == k.n && y.twin != k.twin && y.id == k.id && y.step == k.step)
    | none => false
  (h.rings.zipIdx.all fun w => w.1.running.all fun x =>
    !(x.phase == .started && decide (x.order < c.order) && other w.2 x && !(x.slice d).ended)) &&
  ((h.die d).slice.all fun z => match h.cmd z.1 z.2 with | some x => !other z.1 x | none => true)

/-- The squared norm of a slice's own partial, with the carry it took up (R315). -/
def Coll.ownNorm (k : Coll) (d : Nat) (xs : List (W64 × Bool)) : W32 :=
  normOf ((List.range (k.groupsIn d)).map fun u =>
    (((xs.drop (32 * u)).take (k.dst.validIn (k.place (k.lo d + u)).2.2)).map fun x => partVal k.kind x.1))

/-- The first messages of a slice. -/
def Hw.sliceBegin (h : Hw) (k : Coll) (d : Nat) : Hw :=
  if k.units d = 0 then h.sliceEnd k d
  else if k.axes.isEmpty then h.finishUnits k d (0, k.units d)
  else if k.tree then h.treeStep 4 k d false
  else (h.ringBegin k d).ringAdvance 4 k d

/-- The source groups of an ALLGATHER that this module supplies for a slice, first and last, bits unchanged, and the run that reads
them (R290). -/
def Hw.gatherSlice (h : Hw) (k : Coll) (c : Cmd) (d : Nat) (env : Env) : (Nat × Nat × List (Nat × List W64 × List Bool)) × Run :=
  let n := k.src.groups
  let r0 := n * k.rank k.me
  let lo := max (k.lo d) r0
  let hi := min (k.lo (d + 1)) (r0 + n)
  let x := (List.range (hi - lo)).foldl (fun (x : List (Nat × List W64 × List Bool) × Run) i =>
    let g := lo + i
    let q := (g - r0) / k.src.cg
    let y := x.2.grp { td := k.src } (k.src.row q) ((g - r0) % k.src.cg)
    (x.1 ++ [(g - k.lo d, (List.range 32).map (fun j => BitVec.ofNat 64 (codeAt k.src.elem y.1.bytes j)) ++ [BitVec.ofNat 64 y.1.scale],
      (List.range 32).map y.1.bad)], y.2)) ([], (Run.start h d k.n false false env).resume c)
  ((lo - k.lo d, hi - k.lo d, x.1), x.2)

/-- A slice of an ALLGATHER begins: its own groups are results at once (R290). -/
def Hw.gatherBegin (h : Hw) (k : Coll) (c : Cmd) (d : Nat) (env : Env) : Hw :=
  let x := h.gatherSlice k c d env
  if x.2.waits && x.2.fail.isNone then h
  else if x.2.fail.isSome then h.endRun k.ring k.index x.2 false
  else
    let h := h.keepRun k.ring k.index x.2 id
    let h := h.setSlice k d fun s => { s with started := true }
    let h := h.setDie d fun y => { y with slice := y.slice ++ [(k.ring, k.index)] }
    let h := (k.senders d).foldl (fun h p => h.giveCredit k d p 4) h
    let h := (pieces (x.1.1, x.1.2.1)).foldl (fun h p =>
      h.applyResults k d (k.message d 0 p [] [] k.p) (x.1.2.2.filter fun u => decide (p.1 ≤ u.1) && decide (u.1 < p.1 + p.2)) none {}) h
    h.sliceEnd k d

/-- What the start of a slice reads: its own partial, or its own groups of an ALLGATHER. -/
def Hw.sliceRun (h : Hw) (k : Coll) (c : Cmd) (d : Nat) (env : Env) : Run :=
  if k.op = 0x19 then (h.gatherSlice k c d env).2 else (k.readSlice ((Run.start h d k.n false false env).resume c) d).2

/-- Start a slice if its die can take it: read the module's own partial, grant credits, and begin. -/
def Hw.startSlice (h : Hw) (ring : Nat) (index : W32) (d : Nat) (env : Env) : Hw :=
  match h.cmd ring index with
  | none => h
  | some c =>
    match h.collOf ring c with
    | none => h
    | some k =>
      -- the extra element of slice 0 sums the norms of all slices (R315)
      let early := k.extra d && (List.range 16).any fun e => e != d && !(c.slice e).started
      if c.phase != .started || 16 ≤ d || (c.slice d).started || early || !h.sliceTurn k c d || h.writesWait || h.stands d [.fabric d] then h
      else if k.op = 0x19 then h.gatherBegin k c d env
      else
        let run := (Run.start h d k.n false false env).resume c
        let x := k.readSlice run d
        if x.2.waits && x.2.fail.isNone then h
        else if x.2.fail.isSome then h.endRun ring index x.2 false
        else
          let h := h.keepRun ring index x.2 id
          let y := h.useCarry k d x.1
          let own := k.ownNorm d y.1
          let sum := addNorms ((List.range 16).map fun e => if e = d then own else (c.slice e).norm)
          let norm : List (W64 × Bool) := if k.extra d then [(sum.setWidth 64, false)] ++ List.replicate 31 (0, false) else []
          let all := y.1 ++ norm
          let h := y.2.setSlice k d fun s => { s with started := true, parts := all.map (·.1), marks := all.map (·.2), norm := own }
          let h := h.setDie d fun z => { z with slice := z.slice ++ [(ring, index)] }
          let h := (k.senders d).foldl (fun h p => h.giveCredit k d p 4) h
          h.sliceBegin k d

/-- COLL_SLICE_START. -/
def execCollSliceStart (ring : Nat) (index : W32) (die : Nat) (env : Env) (s : State) : Host.Outcome State Fault Refusal :=
  act (fun h => h.startSlice ring index die env) s

/-- A started collective starts every slice that its dies can take, slice 0 last. -/
def Hw.startSlices (h : Hw) (ring : Nat) (index : W32) (env : Env) : Hw :=
  forN 16 h fun h d => h.startSlice ring index ((d + 1) % 16) (if d = 0 then env else { env with host := [], ue := [], ce := [] })

/-- REDUCE. -/
def execReduce (ring : Nat) (index : W32) (env : Env) (s : State) : Host.Outcome State Fault Refusal :=
  act (fun h => h.onCmd ring index 0x18 fun _ => h.startSlices ring index env) s

/-- ALLGATHER. -/
def execAllgather (ring : Nat) (index : W32) (env : Env) (s : State) : Host.Outcome State Fault Refusal :=
  act (fun h => h.onCmd ring index 0x19 fun _ => h.startSlices ring index env) s

/-- REDUCE_SCATTER. -/
def execReduceScatter (ring : Nat) (index : W32) (env : Env) (s : State) : Host.Outcome State Fault Refusal :=
  act (fun h => h.onCmd ring index 0x1A fun _ => h.startSlices ring index env) s

/-- COLLECTIVE_TIMEOUT (R296). -/
def execCollectiveTimeout (ring : Nat) (index : W32) (s : State) : Host.Outcome State Fault Refusal :=
  act (fun h =>
    match h.cmd ring index with
    | some c => if c.collBytes.isSome && c.phase != .done then h.finishCmd ring index stTimeout 0 else h
    | none => h) s

/-- The slices of a collective whose last messages have gone end (R296). -/
def Hw.collSettle (h : Hw) (ring : Nat) (index : W32) : Hw :=
  match (h.cmd ring index).bind (h.collOf ring) with
  | some k => (List.range 16).foldl (fun h d => h.sliceEnd k d) h
  | none => h

/-- COMMAND_COMPLETE (R51, R59): a finished command signals, and once its writes are acknowledged at their homes it is recorded and
may halt its ring. A collective is finished when its last message is (R296). -/
def execCommandComplete (ring : Nat) (index : W32) (s : State) : Host.Outcome State Fault Refusal :=
  act (fun h =>
    let h := h.collSettle ring index
    match h.cmd ring index with
    | some c => if c.phase != .done then h else if h.awaits c.order then h.signalEarly ring c else h.complete ring c
    | none => h) s

/-! ## LOSS_SCALE AGREE (R323) -/

/-- The members of an agreement, by its AXES. -/
def agreeAxes (t : Topology) (mask : Nat) : List Nat := [0, 1, 2].filter fun a => mask.testBit a && decide (1 < axisSize t a)
def agreeRoot (t : Topology) (mask : Nat) (c : Coord) : Coord := (agreeAxes t mask).foldl (fun c a => Coord.setOn c a 0) c
def agreeMembers (t : Topology) (mask : Nat) (c : Coord) : List Coord :=
  (agreeAxes t mask).foldl (fun l a => l.flatMap fun c => (List.range (axisSize t a)).map fun v => Coord.setOn c a v) [agreeRoot t mask c]

/-- The agreed bit is in force, and the command ends. -/
def Hw.agreed (h : Hw) (ring : Nat) (index : W32) (step : Nat) (bit : Bool) : Hw :=
  (h.setCtx (h.ring ring).ctx fun c => { c with loss := { c.loss with pendStep := step, pend := bit } }).finishCmd ring index stOk 0

/-- Send a message of an agreement, or end the command where its peer cannot be reached. -/
def Hw.agreeSend (h : Hw) (ring : Nat) (index : W32) (me dst : Coord) (m : Msg) : Hw :=
  match h.reach false dst with
  | .gone => h.finishCmd ring index stPeerGone (coordNat dst)
  | .fenced => h.finishCmd ring index stFenced (coordNat dst)
  | _ => h.sendAs me (h.ring ring).ctx dst 3 (some (ring, index)) m

/-- At rank 0, once every bit has come, the OR goes to all. -/
def Hw.agreeCheck (h : Hw) (ring : Nat) (c : Cmd) (b : List Byte) (twin : Bool) : Hw :=
  let n := (h.ring ring).ctx
  let me := h.collSelf twin
  let id : W16 := BitVec.ofNat 16 (collKey b).1
  let step : W32 := BitVec.ofNat 32 (collKey b).2
  let mine (x : Agreement) : Bool := x.collId == id && x.step == step && x.asTwin == twin
  let got := (h.ctx n).agrees.filter mine
  let all := agreeMembers h.topology (fld b 0x19 1) me
  if c.phase == .done || agreeRoot h.topology (fld b 0x19 1) me != me || !(all.all fun m => got.any fun (x : Agreement) => x.peer == m) then h
  else
    let bit := got.any fun (x : Agreement) => x.bit
    let h := h.setCtx n fun x => { x with agrees := x.agrees.filter fun y => !mine y }
    let h := (all.filter (· != me)).foldl (fun h m => h.agreeSend ring c.index me m (.agree id step false bit true)) h
    h.agreed ring c.index step.toNat bit

/-- A member contributes its pending bit for the step. -/
def Hw.agreeBegin (h : Hw) (ring : Nat) (c : Cmd) (b : List Byte) (twin : Bool) : Hw :=
  let n := (h.ring ring).ctx
  let me := h.collSelf twin
  let step := (collKey b).2
  let l := (h.ctx n).loss
  let bit := l.pend && l.pendStep == step
  let root := agreeRoot h.topology (fld b 0x19 1) me
  let id : W16 := BitVec.ofNat 16 (collKey b).1
  let h := h.setCmd ring c.index fun c => { c with satisfied := true }
  if root = me then
    (h.setCtx n fun x => { x with agrees := x.agrees ++ [{ collId := id, step := BitVec.ofNat 32 step, peer := me, asTwin := twin, bit := bit }] }
      ).agreeCheck ring c b twin
  else h.agreeSend ring c.index me root (.agree id (BitVec.ofNat 32 step) false bit false)

/-- LOSS_SCALE AGREE. -/
def execLossScaleAgree (ring : Nat) (index : W32) (s : State) : Host.Outcome State Fault Refusal :=
  act (fun h => h.onCmd ring index 0x21 fun c =>
    if c.f 0x18 1 ≠ 1 ∨ c.satisfied = true then h else h.agreeBegin ring c c.bytes false) s

/-- The running agreement of a context with a key. -/
def Hw.agreeFor (h : Hw) (n : Nat) (id : W16) (step : W32) (twin : Bool) : Option (Nat × Cmd × List Byte) :=
  h.rings.zipIdx.findSome? fun w =>
    if w.1.module || w.1.ctx != n then none
    else w.1.running.findSome? fun c =>
      match c.collBytes with
      | some (b, tw) =>
        if fld b 0 1 = 0x21 ∧ tw = twin ∧ c.phase = .started ∧ c.satisfied = true ∧ collKey b = (id.toNat, step.toNat) then some (w.2, c, b)
        else none
      | none => none

/-- A bit of an agreement arrives: a contribution at rank 0, which is kept until its command runs, or the result. -/
def Hw.takeAgree (h : Hw) (n : Nat) (peer : Coord) (id : W16) (step : W32) (twin bit final : Bool) : Hw :=
  if final then
    match h.agreeFor n id step twin with
    | some x => h.agreed x.1 x.2.1.index step.toNat bit
    | none => h
  else
    let h := h.setCtx n fun c => { c with agrees := c.agrees ++ [{ collId := id, step := step, peer := peer, asTwin := twin, bit := bit }] }
    match h.agreeFor n id step twin with
    | some x => h.agreeCheck x.1 x.2.1 x.2.2 twin
    | none => h

end Sys2Proof.Machine
end

