-- ==== Sys2Proof/Machine/Messages.lean ====
section
/-! DEFINITION. Messages between contexts as they are delivered, bound and answered, and memory accesses of other modules
(01 R37; 03 R80-R82, R85, R93; 09 R242; 12 R311, R313; log 15). -/

namespace Sys2Proof.Machine

/-- A message with the role its DST names: the module itself, or the twin it stands in for (R377, R380). -/
def msgForTwin (m : Msg) (t : Bool) : Msg :=
  match m with
  | .collPartial x => .collPartial { x with asTwin := t }
  | .collResult x => .collResult { x with asTwin := t }
  | .collCredit id step d _ n => .collCredit id step d t n
  | .agree id step _ bit final => .agree id step t bit final
  | x => x

/-- Bytes of a message before its data (log 15). -/
def msgHead : Msg → Nat
  | .channel _ _ _ _ _ => 64
  | _ => 32

/-- The step number of a message, if it has one. -/
def msgStep : Msg → Nat
  | .collPartial m => m.step.toNat
  | .collResult m => m.step.toNat
  | .collCredit _ s _ _ _ => s.toNat
  | .agree _ s _ _ _ => s.toNat
  | .block q => (q.twinStep.getD 0).toNat
  | _ => 0

/-- A remote SIGNAL's operation has been applied at the peer, or its index lies outside the peer's range (R85). -/
def Hw.takeApplied (h : Hw) (n : Nat) (id : W16) (ok : Bool) : Hw :=
  let mine (o : OutMsg) : Bool := o.srcCtx == n && o.msgId == id && (match o.msg with | .signal _ _ _ => true | _ => false)
  match h.outMsgs.find? mine with
  | none => h
  | some o =>
    let h := { h with outMsgs := h.outMsgs.filter (· != o) }
    match o.cmd with
    | some (r, i) => if ok then h.finishCmd r i stOk 0 else h.conflict r i 0x0102
    | none => h

/-- Whether an answer from a module is that of an access at a peer's context: the peer itself, or its stand-in (R377). -/
def Hw.answers (h : Hw) (src dst : Coord) : Bool := src == dst || src == h.redirect dst

/-- A peer has carried out a transfer of a block, or could not translate it (R110). -/
def Hw.takeBlockReply (h : Hw) (n : Nat) (src : Coord) (addr : W64) (ok : Bool) : Hw :=
  let mine (o : OutMsg) : Bool := o.srcCtx == n && h.answers src o.dst &&
    (match o.msg with | .block q => q.addr == addr | _ => false)
  let h := { h with outMsgs := h.outMsgs.eraseP mine }
  let here (a : Access) : Bool := a.ctx == n && a.addr == addr.toNat && (match a.home with | .context c => h.answers src c | _ => false)
  match h.accesses.find? here with
  | some a => if ok then h.ackAccess here else h.loseAccess a stTranslation (badXlat addr.toNat).2
  | none => h

/-- Another module has carried out a memory access (R37, R59). -/
def Hw.takeAccessReply (h : Hw) (src : Coord) (da : W64) : Hw :=
  h.ackAccess fun (a : Access) => a.home == .module src && a.addr == da.toNat

/-- Deliver a message to a context that takes it. `src` is the sender's coordinates; the first `done` bytes of its data are written
already (R248). -/
def Hw.takeMessage (h : Hw) (n : Nat) (src : Coord) (srcCtx : Nat) (id : W16) (m : Msg) (env : Env) (done : Nat := 0) : Hw :=
  let p := (h.ctx n).plan
  match m with
  | .signal idx set v =>
    if p.syncCount ≤ idx then h.sendCtx n src 2 none (.applied id false)
    else h.sendSync { obj := p.syncBase + idx, set := set, value := v, source := 128, reply := some (src, srcCtx, id) }
  | .applied i ok => h.takeApplied n i ok
  | .channel k seq shape bytes po => h.landMessage n k seq shape bytes po env done
  | .grant k pk slots sb => h.takeGrant n src k pk slots sb
  | .credit k c => h.takeCredit n k c
  | .delivered k seq => h.sendDelivered n k seq
  | .accepted k => h.setChan n k fun c => { c with accepted := true }
  | .collPartial m => h.takePartial n m src id
  | .collResult m => h.takeResult n m src env
  | .collCredit i step d t c => h.takeCollCredits n src i step d t c
  | .agree i step t bit final => h.takeAgree n src i step t bit final
  | .block q => h.ownerBlock n q env (done - msgHead m)
  | .blockReply a _ ok _ => h.takeBlockReply n src a ok
  | .access _ => h
  | .accessReply da _ _ => h.takeAccessReply src da

/-- Whether a context takes traffic (R82). -/
def Ctx.live (c : Ctx) : Bool := c.state == .opened || c.state == .active || c.state == .quiescing

/-- Write the part of a message's data from byte `lo` up to `hi`, as soon as its frame is there; none where it cannot be written now, or
where the message has no data that goes to memory as it comes (R248). -/
def Hw.takePart (h : Hw) (n : Nat) (m : Msg) (lo hi : Nat) (env : Env) : Option Hw :=
  match m with
  | .channel k seq _ bytes po => h.slotWrite n k seq bytes po lo hi env
  | .block q => if q.write then h.ownerPart n q (lo - msgHead m) (hi - msgHead m) env else none
  | _ => none

/-- A bound message: delivered, or discarded, counted and answered CONTEXT_GONE (R82). -/
def Hw.boundMessage (h : Hw) (n : Nat) (ep : Byte) (src : Coord) (srcCtx : Nat) (id : W16) (m : Msg) (env : Env) (done : Nat := 0) :
    Hw :=
  let c := h.ctx n
  if c.live && c.epoch == ep then h.takeMessage n src srcCtx id m env done
  else (h.setCtx n fun c => { c with discarded := satAdd c.discarded 1 }).nack src 2 id (msgStep m)

/-- CONTEXT_MESSAGE_RECEIVE (R82). -/
def execContextMessageReceive (fport link : Nat) (src : Coord) (msgId : W16) (ctx : Nat) (epoch : Byte) (step : Option W32) (m : Msg)
    (s : State) : Host.Outcome State Fault Refusal :=
  act (fun h =>
    let _ := (fport, link)
    let c := h.ctx ctx
    if c.live && c.epoch == epoch then h.takeMessage ctx src 0 msgId m {}
    else (h.setCtx ctx fun c => { c with discarded := satAdd c.discarded 1 }).nack src 2 msgId ((step.getD 0).toNat)) s

/-! ## Binding (R81) -/

/-- Match a JOB_ID: BIND_ANSWER with the context's number and epoch, or NOT_FOUND. -/
def Hw.bindRequest (h : Hw) (src : Coord) (job : W32) (id : W16) : Hw :=
  match h.jobContext job with
  | some n => h.answer src 0x11 (n + 256 * (h.ctx n).epoch.toNat) job.toNat 0
  | none => h.nack src 1 id 0

/-- BIND_REQUEST_RECEIVE. -/
def execBindRequestReceive (fport link : Nat) (src : Coord) (job : W32) (msgId : W16) (s : State) : Host.Outcome State Fault Refusal :=
  act (fun h => let _ := (fport, link); h.bindRequest src job msgId) s

/-- A message that names a job: matched, answered, and delivered where a context holds the job. -/
def Hw.jobMessage (h : Hw) (src : Coord) (srcCtx : Nat) (job : W32) (id : W16) (m : Msg) (env : Env) (done : Nat := 0) : Hw :=
  let h1 := h.bindRequest src job id
  match h.jobContext job with
  | some n => h1.takeMessage n src srcCtx id m env done
  | none => h1

/-- Put a binding into the cache of 4,096 entries, the most recently used last. -/
def Hw.bind (h : Hw) (b : Binding) : Hw :=
  let rest := h.binds.filter fun x => !(x.ctx == b.ctx && x.peer == b.peer)
  { h with binds := (if 4096 ≤ rest.length then rest.drop 1 else rest) ++ [b] }

/-- Keep messages that left and that nothing awaits; the newest 256 of them (log 50). -/
def Hw.keepLoose (h : Hw) (os : List OutMsg) : Hw := { h with loose := (os.reverse ++ h.loose).take 256 }

/-- A BIND_ANSWER binds the context that holds the job to the peer, and to each peer for which the answerer stands in (R377); its unbound
messages there are bound, and those already sent and awaited by no command are done. -/
def Hw.takeBindAnswer (h : Hw) (peer : Coord) (n' : Nat) (ep : Byte) (job : W32) : Hw :=
  match (List.range 16).find? fun n => (h.ctx n).state != .free && (h.ctx n).plan.jobId == job with
  | none => h
  | some n =>
    let mine (o : OutMsg) : Bool := o.srcCtx == n && h.answers peer o.dst && o.bound.isNone
    let dsts := (peer :: (h.outMsgs.filter mine).map (·.dst)).eraseDups
    let h := dsts.foldl (fun h c => h.bind { ctx := n, peer := c, peerCtx := n', epoch := ep }) h
    { (h.keepLoose (h.outMsgs.filter fun o => mine o && o.sent && o.cmd.isNone)) with
      outMsgs := (h.outMsgs.filter fun o => !(mine o && o.sent && o.cmd.isNone)).map fun o =>
        if mine o then { o with bound := some (n', ep) } else o }

/-- BIND_RETRY: the n-th message is asked about again. -/
def execBindRetry (n : Nat) (s : State) : Host.Outcome State Fault Refusal :=
  act (fun h =>
    { h with outMsgs := h.outMsgs.modify n fun o => if o.notFound then { o with notFound := false, sent := false, queued := 0 } else o }) s

/-! ## MSG_NACK (R80-R82, R93, R242, R293) -/

/-- The address of a memory access. -/
def accessAddr : MemAccess → Nat
  | .read da _ => da.toNat
  | .write da _ _ => da.toNat
  | .add da _ _ _ _ _ => da.toNat

/-- Whether a message is the request of an access. -/
def OutMsg.carries (o : OutMsg) (a : Access) : Bool :=
  a.ctx == o.srcCtx && (match a.home, o.msg with
    | .module d, .access m => d == o.dst && accessAddr m == a.addr
    | .context d, .block q => d == o.dst && q.addr.toNat == a.addr
    | _, _ => false)

/-- The sending command, or that of a lost access, ends with a status that names the answerer. -/
def Hw.endSender (h : Hw) (o : OutMsg) (status : Nat) (c : Coord) : Hw :=
  let h := { h with outMsgs := h.outMsgs.filter (· != o) }
  let h := match h.accesses.find? o.carries with | some a => h.loseAccess a status (coordNat c) | none => h
  match o.cmd with
  | some (r, i) => h.finishCmd r i status (coordNat c)
  | none => h

/-- A message that no command awaits was answered CONTEXT_GONE: the channel's commands that wait for the peer, or the collective that
granted it a credit, end so (R93, R296, R313). -/
def Hw.looseGone (h : Hw) (o : OutMsg) (peer : Coord) : Hw :=
  match o.msg with
  | .collCredit id step _ _ _ =>
    (match (h.collAt o.srcCtx id step false).or (h.collAt o.srcCtx id step true) with
    | some k => if k.me = o.src then h.finishCmd k.ring k.index stContextGone (coordNat peer) else h
    | none => h)
  | .grant _ _ _ _ | .credit _ _ | .delivered _ _ | .accepted _ | .channel _ _ _ _ _ => h.chanGone o.srcCtx peer
  | _ => h

/-- Take a MSG_NACK: reason, message, answerer, which may stand in for the peer (R377). It names its message by MSG_ID alone: of two
contexts' messages with one MSG_ID the first queued is meant (DESIGN CHOICE; log 50). -/
def Hw.takeNack (h : Hw) (reason : Nat) (id : W16) (peer : Coord) : Hw :=
  let named (o : OutMsg) : Bool := o.msgId == id && h.answers peer o.dst && !msgIsReply o.msg
  let o := (h.outMsgs.find? fun o => named o && (o.sent || o.queued != 0)).or (h.loose.find? named)
  let h := if reason = 2 then { h with binds := h.binds.filter fun b => !(h.answers peer b.peer && (match o with | some o => b.ctx == o.srcCtx | none => true)) } else h
  match o with
  | none => h
  | some o =>
    if reason = 1 then { h with outMsgs := h.outMsgs.map fun x => if x == o then { x with notFound := true } else x }
    else if reason = 2 then (h.endSender o stContextGone peer).looseGone o peer
    else if reason = 3 then h.takeLate o
    else if reason = 4 then h.endSender o stFenced peer
    else h

/-! ## Memory accesses of other modules (R37, R220) -/

/-- A reply to a memory access goes back to its module, in messages of one frame each (R236). -/
def Hw.accessAnswer (h : Hw) (dst : Coord) (da : W64) (bytes : List Byte) (po : List Nat) : Hw :=
  (accessCuts bytes.length).foldl (fun h x =>
    let a := da.toNat + x.1
    let mine := (po.filter fun g => decide (a / 32 ≤ da.toNat / 32 + g) && decide (da.toNat / 32 + g ≤ (a + x.2 - 1) / 32)).map fun g => da.toNat / 32 + g - a / 32
    h.post { dst := dst, src := h.self, cls := 2, srcCtx := 0, job := 0, msgId := 0, bound := none,
             msg := .accessReply (BitVec.ofNat 64 a) ((bytes.drop x.1).take x.2) mine })
    (h.emit (.accessReply dst da bytes po))

/-- Whether an access of n bytes at a DA stays inside the memory of this module. -/
def Hw.ownRange (h : Hw) (da n : Nat) : Bool :=
  n != 0 && h.daOk da && h.daOk (da + n - 1) && bits da 56 52 == h.lim.slot && bits (da + n - 1) 56 52 == h.lim.slot &&
  !h.hidden (da % 2 ^ 52) && !h.hidden ((da + n - 1) % 2 ^ 52)

/-- Whether an access of another module waits: for the HBM controllers, or behind one that waits (R213, R216). -/
def Hw.accessWaits (h : Hw) (da : W64) : Bool :=
  bits da.toNat 51 50 == 0 && (!h.heldAccesses.isEmpty || h.hbmBusy .bulk (da.toNat % 2 ^ 52))

/-- Carry out a memory access at its home in this module; one that names no memory of this module is refused, and so is an operation that
no adder performs (R219). -/
def Hw.memAccess (h : Hw) (src : Coord) (a : MemAccess) (env : Env) : Hw :=
  let h := h.applyEnv env
  if h.accessWaits (BitVec.ofNat 64 (accessAddr a)) then { h with heldAccesses := h.heldAccesses ++ [{ what := .access src a, env := env }] }
  else match a with
  | .read da n =>
    if h.ownRange da.toNat n then
      let k := da.toNat % 2 ^ 52
      let h := h.readErrors env (groupsOf k n)
      h.accessAnswer src da (h.memRead k n) (h.poisonOf k n)
    else h.emit (.accessRefused src da)
  | .write da bytes po =>
    if h.ownRange da.toNat bytes.length then
      let k := da.toNat % 2 ^ 52
      let w : Writes := { ({} : Writes).add k bytes with marks := marksOf k bytes.length po }
      ((h.writeErrors env w).applyWrites w).accessAnswer src da [] []
    else h.emit (.accessRefused src da)
  | .add da op e grad bytes po =>
    let w := elemBits e / 8
    if h.ownRange da.toNat bytes.length && bits da.toNat 51 50 == 0 && adderTakes op e then
      let cells := (List.range (bytes.length / w)).map fun i => some (fld bytes (w * i) w)
      let k := da.toNat % 2 ^ 52
      ((h.readErrors env (groupsOf k bytes.length)).addAt k op e grad cells po).h.accessAnswer src da [] []
    else h.emit (.accessRefused src da)

/-- MEMORY_ACCESS_RECEIVE. -/
def execMemoryAccessReceive (src : Coord) (a : MemAccess) (env : Env) (s : State) : Host.Outcome State Fault Refusal :=
  act (fun h => h.memAccess src a env) s

/-! ## Messages' sizes (R236; log 15) -/

/-- Bytes of a message's payload (log 15). -/
def msgSize : Msg → Nat
  | .channel _ _ _ b _ => 64 + b.length
  | .collPartial m => 32 + 8 * m.values.length
  | .collResult m => 32 + 8 * m.values.length
  | .block q => 32 + q.bytes.length
  | .blockReply _ b _ _ => 32 + b.length
  | .access (.write _ b _) => 32 + b.length
  | .access (.add _ _ _ _ b _) => 32 + b.length
  | .accessReply _ b _ => 32 + b.length
  | _ => 32

/-- Bytes in whole words. -/
def msgWords (m : Msg) : Nat := (msgSize m + 31) / 32 * 32

def msgIsAccess : Msg → Bool
  | .access _ => true
  | .accessReply _ _ _ => true
  | _ => false

/-- Whether a message carries poison, which a legacy port cannot (R351). -/
def msgPoison : Msg → Nat
  | .channel _ _ _ _ po => po.length
  | .block q => q.poisoned.length
  | .blockReply _ _ _ po => po.length
  | .access (.write _ _ po) => po.length
  | .access (.add _ _ _ _ _ po) => po.length
  | .accessReply _ _ po => po.length
  | _ => 0

/-- The words of a message that hold its poisoned groups (R346). -/
def msgPoisonWords (m : Msg) : List Nat :=
  let at_ (l : List Nat) : List Nat := l.map (· + msgHead m / 32)
  match m with
  | .channel _ _ _ _ po => at_ po
  | .block q => at_ q.poisoned
  | .blockReply _ _ _ po => at_ po
  | .access (.write _ _ po) => at_ po
  | .access (.add _ _ _ _ _ po) => at_ po
  | .accessReply _ _ po => at_ po
  | .collPartial c => at_ ((List.range (c.values.length / 4 + 1)).filter fun w => ((c.poisoned.drop (4 * w)).take 4).any id)
  | .collResult c => at_ ((List.range (c.values.length / 4 + 1)).filter fun w => ((c.poisoned.drop (4 * w)).take 4).any id)
  | _ => []

/-- The exclusive sum of two sets of groups. -/
def turnSet (l ts : List Nat) : List Nat := l.filter (fun g => !ts.contains g) ++ ts.filter fun g => !l.contains g

/-- A message in which the blocks of some words arrived as poison in place of valid ones, or the other way about (R346). -/
def turnMsg (m : Msg) (words : List Nat) : Msg :=
  let gs := (words.filter fun w => decide (msgHead m / 32 ≤ w)).map (· - msgHead m / 32)
  let coll (c : CollMsg) : CollMsg := { c with poisoned := c.poisoned.zipIdx.map fun x => x.1 != gs.contains (x.2 / 4) }
  if gs.isEmpty then m
  else match m with
  | .channel a b c d po => .channel a b c d (turnSet po gs)
  | .block q => .block { q with poisoned := turnSet q.poisoned gs }
  | .blockReply a b c po => .blockReply a b c (turnSet po gs)
  | .access (.write a b po) => .access (.write a b (turnSet po gs))
  | .access (.add a b c d e po) => .access (.add a b c d e (turnSet po gs))
  | .accessReply a b po => .accessReply a b (turnSet po gs)
  | .collPartial c => .collPartial (coll c)
  | .collResult c => .collResult (coll c)
  | x => x

/-- The source die of a message. -/
def msgDie : Msg → Nat
  | .collPartial m => m.die
  | .collResult m => m.die
  | .collCredit _ _ d _ _ => d
  | .block q => q.die
  | _ => 0

end Sys2Proof.Machine
end

