-- ==== Sys2Proof/Machine/Links.lean ====
section
/-! DEFINITION. Links: their states, control frames, data frames, replay, reassembly and transit (09 R235-R250, R255, R257, R258;
11 R278-R283; 15 R377; log 15, log 19). -/

namespace Sys2Proof.Machine

/-! ## λ of an engine (R252) -/

def lambdas (s : LambdaSet) : List Nat := (List.range 34).filter fun i => s.getLsbD i
def lambdaOf (l : List Nat) : LambdaSet := l.foldl (fun s i => s ||| ((1 : LambdaSet) <<< i)) 0
def lambdaCount (s : LambdaSet) : Nat := (lambdas s).length
def lambdaDel (s : LambdaSet) (i : Nat) : LambdaSet := s &&& ~~~((1 : LambdaSet) <<< i)
def lambdaIns (s : LambdaSet) (i : Nat) : LambdaSet := s ||| ((1 : LambdaSet) <<< i)

/-- The links of the engine of a port. -/
def engineLinks (p : Nat) : List (Nat × Nat) :=
  let a := p / 2 * 2
  (List.range 4).map (fun l => (a, l)) ++ (List.range 4).map (fun l => (a + 1, l))

/-- The LSET and the λ set in force for a link's next frame: those before the last change until its switch SEQ (R254). -/
def Link.force (k : Link) : Nat × LambdaSet :=
  match k.oldSet with
  | some x => if (x.1 - k.nextSeq).toNat - 1 < 32767 ∧ x.1 ≠ k.nextSeq then x.2 else (k.lset, k.tx)
  | none => (k.lset, k.tx)

/-- The λ whose modulators a link keeps on: its set, the one in force until the switch SEQ, and one lit for a LAMBDA_ADD (R254). -/
def Link.lit (k : Link) : LambdaSet :=
  let s := k.tx ||| k.force.2
  match k.change with
  | some c => if c.add then lambdaIns s c.lambda else s
  | none => s

/-- The number of λ of a link once its pending change is done. -/
def Link.count (k : Link) : Nat :=
  match k.change with
  | some c => lambdaCount (if c.add then lambdaIns k.tx c.lambda else lambdaDel k.tx c.lambda)
  | none => lambdaCount k.tx

/-- The λ that other links of the engine hold. -/
def Hw.heldOthers (h : Hw) (p l : Nat) : LambdaSet :=
  ((engineLinks p).filter (· != (p, l))).foldl (fun s x => if (h.link x.1 x.2).valid then s ||| (h.link x.1 x.2).lit else s) 0

/-- The λ a link takes when it comes UP: the MIN lowest of λ0-λ31 in its mask that no other link holds and that are not disabled, within
the engine's cap (R30, R252). -/
def Hw.minSet (h : Hw) (p l : Nat) : LambdaSet :=
  let k := h.link p l
  let taken := h.heldOthers p l
  let e := h.oe (p / 2)
  lambdaOf (((lambdas k.mask).filter fun i => decide (i < 32) && !taken.getLsbD i && !e.disabled.getLsbD i).take
    (min k.min (min 32 e.cap - lambdaCount taken)))

/-- The receive channels that other links of the engine hold: one channel for each line, steered to one port (R231). -/
def Hw.rxOthers (h : Hw) (p l : Nat) : LambdaSet :=
  ((engineLinks p).filter (· != (p, l))).foldl (fun s x =>
    let k := h.link x.1 x.2
    if k.valid then s ||| k.rx ||| (match k.rxNext with | some y => y.2 | none => 0) else s) 0

/-- The λ of a set to which a receive channel can be steered: none that another link of the engine receives, and 32 on the engine. -/
def Hw.steer (h : Hw) (p l : Nat) (s : LambdaSet) : LambdaSet :=
  let o := h.rxOthers p l
  lambdaOf (((lambdas s).filter fun i => !o.getLsbD i).take (32 - lambdaCount o))

/-! ## Dead links (R247) -/

/-- Whether a frame carries the request of an access. -/
def Access.has (a : Access) (f : Frame) : Bool :=
  match a.home, f.payload with
  | .module c, .piece (.access m) _ _ => f.kind == 2 && f.dst.setWidth 18 == c && accessAddr m == a.addr
  | .context c, .piece (.block q) _ _ => f.kind == 1 && f.dst.setWidth 18 == c && f.srcCtx == a.ctx && q.addr.toNat == a.addr
  | _, _ => false

/-- Whether the target of an access can no longer be reached. -/
def Hw.accessGone (h : Hw) (a : Access) : Bool :=
  match a.home with
  | .module c => h.reach true c == .gone
  | .context c => h.reach false c == .gone
  | .host _ => false

/-- The module an access goes to. -/
def Access.target (a : Access) : Coord :=
  match a.home with
  | .module c => c
  | .context c => c
  | .host _ => 0

/-- End every command whose traffic can no longer go: its message or access is lost with a dead link, awaits its answer by that link, or
no link leads there any longer (R37, R247, R283). -/
def Hw.endUnreachable (h : Hw) (p l : Nat) (lost : List Frame) : Hw :=
  h.outMsgs.foldl (fun h o =>
    let gone := lost.any o.has || o.via == some (p, l) || h.reach (msgIsAccess o.msg) o.dst == .gone
    if gone then h.endSender o stPeerGone o.dst else h) (h.accesses.foldl (fun h a =>
      if lost.any a.has || a.via == some (p, l) || h.accessGone a then h.loseAccess a stPeerGone (coordNat a.target) else h) h)

/-- Abandon the λ changes of a link that are pending in either direction; a LAMBDA_SET that waits for one goes on when it is looked at
again (R255, R256). A drop past its limit still awaits its acknowledgement or RESYNC (log 50). -/
def Hw.dropChange (h : Hw) (p l : Nat) : Hw := h.setLink p l fun k => { k with change := none, rxNext := none }

/-- The LAMBDA_SETs under way on a link, by ring and index (R256). -/
def Hw.lambdaCmds (h : Hw) (p l : Nat) : List (Nat × W32) :=
  let k := h.link p l
  (List.range 128).flatMap fun r => ((h.ring r).running.filter fun c =>
    c.opcode == 0x32 && (match c.work with | .lambda _ => true | _ => false) && c.f 0x18 1 == p && k.toward == some (BitVec.ofNat 18 (c.f 0x1C 4))
    ).map fun c => (r, c.index)

/-- Draw an incarnation (R243). -/
def Hw.drawIncarnation (h : Hw) : W16 × Hw := let f := h.free; ((Config.random f.1).setWidth 16, f.2)

/-- The effects of a dead link (R247): replay and queue are discarded, commands end, bindings and λ go, and the link state will be
created anew. Its state is no longer one that carries or waits when they take place. The LAMBDA_SETs that were changing it end PEER_GONE
(R256). Messages in reassembly stay until their limit (R249). -/
def Hw.deadEffects (h : Hw) (p l : Nat) : Hw :=
  let k := h.link p l
  let lost := k.replay ++ k.queue
  let h := (h.lambdaCmds p l).foldl (fun h x => h.finishCmd x.1 x.2 stPeerGone (coordNat (k.toward.getD 0))) h
  let d := h.drawIncarnation
  let h := d.2.setLink p l fun k =>
    { k with replay := [], queue := [], change := none, kept := false, deadTimer := false, pauseFor := none, fromPause := false,
             pausing := none, pauseAcked := false, noCarrier := false, tx := 0, rx := 0, peer := none, uid := 0, credits := 0,
             incarnation := d.1, ctrlOut := [], oldSet := none, lset := 0, nacks := [], mismatchTold := false, miswireTold := false
             rxNext := none, rxLset := 0, rxCtrl := 0, peerPort := 0, darken := none, resynced := false, lostLines := 0
             unacked := none, dropping := 0, heldResync := none }
  let h := match k.toward with
    | some c => { h with binds := h.binds.filter fun b => b.peer != c }
    | none => h
  h.endUnreachable p l lost

/-- A link's transmitter is lit on the λ of its plan (R245, R252). -/
def Hw.light (h : Hw) (p l : Nat) : Hw :=
  let s := h.minSet p l
  h.setLink p l fun k => { k with tx := s, oldSet := none, ctrl := (lambdas s).headD 0 }

/-- A link is declared dead: DARK, with its λ lit again. -/
def Hw.declareDead (h : Hw) (p l : Nat) : Hw :=
  ((h.setLink p l fun k => { k with state := .dark }).deadEffects p l).light p l

/-! ## Hello (R243, R278) -/

/-- VERSIONS of this module: version 1 of the native or of the K1 series. -/
def versionsField : Nat := 0x02

/-- Arguments of HELLO and HELLO_ACK. -/
def Hw.helloArgs (h : Hw) (p l : Nat) : Nat × Nat × Nat × Nat :=
  let k := h.link p l
  (versionsField + 256 * p + 65536 * b2n k.legacy, Config.moduleUid.toNat,
   (if h.topo.isSome then coordNat h.self else 0xFFFFFFFF) + 2 ^ 32 * k.incarnation.toNat + 2 ^ 48 * 512, k.tx.toNat)

def Hw.sendHello (h : Hw) (p l op : Nat) : Hw :=
  let a := h.helloArgs p l
  h.sendCtrl p l op a.1 a.2.1 a.2.2.1 a.2.2.2

/-- A link enters HELLO: sequence numbers start at 0, and HELLO is sent. -/
def Hw.enterHello (h : Hw) (p l : Nat) : Hw :=
  (h.setLink p l fun k =>
    { k with state := .hello, kept := false, nextSeq := 0, expect := 0, discarding := false, replay := [], oldSet := none, ctrlSeq := 0, ctrlSeen := none,
             ctrlOut := [], deadTimer := false, unacked := none, heldResync := none }).sendHello p l 0x01

/-- A fence entry that fences a UID (R377). -/
def Hw.uidFenced (h : Hw) (u : W64) : Bool := h.fences.any fun f => f.fenced && f.uid == u

/-- The λ received on a link are those of a set whose carriers are there and to which channels can be steered; the control λ that the
peer names keeps its role where it is among them, else the lowest takes it (R245, R255). -/
def Hw.adoptRx (h : Hw) (p l : Nat) (s : LambdaSet) (lset ctrl : Nat) : Hw :=
  let rx := h.steer p l s
  h.setLink p l fun k => { k with rx := rx, rxLset := lset, rxNext := none, rxCtrl := if rx.getLsbD ctrl then ctrl else (lambdas rx).headD 0 }

/-- Note the peer that a HELLO_ACK names: its identity, port and incarnation, and the credits it grants. -/
def Hw.notePeer (h : Hw) (p l : Nat) (c : Ctrl) : Hw :=
  let co := bits c.arg2.toNat 31 0
  let s := c.arg3.setWidth 34
  (h.adoptRx p l (s &&& (h.link p l).rx) 0 ((lambdas s).headD 0)).setLink p l fun k =>
    { k with peer := if co = 0xFFFFFFFF then none else some (BitVec.ofNat 18 co), uid := c.arg1
             peerIncarnation := BitVec.ofNat 16 (bits c.arg2.toNat 47 32), credits := bits c.arg2.toNat 63 48
             peerPort := bits c.arg0.toNat 13 8 }

/-- No common version: reported once for an incarnation (R243). -/
def Hw.mismatch (h : Hw) (p l : Nat) (c : Ctrl) : Hw :=
  if (h.link p l).mismatchTold then h
  else (h.setLink p l fun k => { k with mismatchTold := true }).evMod 0x0304 (srcPort p) (l + 256 * bits c.arg0.toNat 7 0) c.arg1.toNat

/-- Whether a HELLO has a version in common with this side: version 1 of the same series (R243, R257). -/
def Link.agrees (k : Link) (c : Ctrl) : Bool := c.arg0.getLsbD 1 && c.arg0.getLsbD 16 == k.legacy && c.version == k.version

/-- TOPO_MISWIRED (R278): the port has a direction and the peer is not its neighbour. -/
def Hw.miswired (h : Hw) (p l : Nat) : Hw :=
  match h.topo with
  | none => h
  | some t =>
    let d := portDir t p
    let want := neighbour t t.self d
    let peer := (h.link p l).peer
    if d = 0 ∨ peer = some want ∨ (h.link p l).miswireTold = true then h
    else (h.setLink p l fun k => { k with miswireTold := true }).evMod 0x0401 (srcPort p) (p + 64 * l + 2 ^ 32 * coordNat want) (match peer with | some c => coordNat c | none => 0xFFFFFFFF)

/-! ## Control frames arrive (R241) -/

/-- Frames acknowledged up to a SEQ leave the replay buffer. -/
def ackFrames (a : W16) (l : List Frame) : List Frame :=
  if l.any (·.seq == a) then (l.dropWhile (·.seq != a)).drop 1 else l

/-- A control frame as a link sends it now: with the last SEQs received (R241). -/
def Link.dressCtrl (k : Link) (c : Ctrl) : Ctrl := sealCtrl { c with cack := k.ctrlSeen.getD 0xFFFF, ack := k.expect - 1 }

/-- Control frames acknowledged up to a SEQ leave, and those behind them go out: 8 are outstanding. -/
def Hw.ackCtrl (h : Hw) (p l : Nat) (a : W16) : Hw :=
  let out := (h.link p l).ctrlOut
  if out.any (·.seq == a) then
    let rest := (out.dropWhile (·.seq != a)).drop 1
    let n := out.length - rest.length
    let fresh := (rest.take 8).drop (8 - n)
    let h := h.setLink p l fun k => { k with ctrlOut := rest }
    if h.txDark p then h else fresh.foldl (fun h c => h.emit (.ctrl p l ((h.link p l).dressCtrl c))) h
  else h

/-- Whether a control SEQ is later than the last one received. -/
def ctrlNew (seen : Option W16) (s : W16) : Bool :=
  match seen with
  | none => true
  | some x => decide (0 < (s - x).toNat) && decide ((s - x).toNat < 32768)

/-- The acknowledgements of a control frame count. -/
def Hw.hear (h : Hw) (p l : Nat) (c : Ctrl) : Hw :=
  (h.ackCtrl p l c.cack).setLink p l fun k => { k with replay := ackFrames c.ack k.replay }

/-- The same, and its SEQ is the last one seen. -/
def Hw.hearNew (h : Hw) (p l : Nat) (c : Ctrl) : Hw := (h.hear p l c).setLink p l fun k => { k with ctrlSeen := some c.seq }

/-- ACK of everything received so far. -/
def Hw.sendAck (h : Hw) (p l : Nat) : Hw := h.sendCtrl p l 0x04 0 0 0 0

/-- The die of a port's engine (R15, R277). -/
def portDie (p : Nat) : Nat := [0, 0, 1, 1, 2, 2, 3, 3, 7, 7, 11, 11, 15, 15, 14, 14, 13, 13, 12, 12, 8, 8, 4, 4].getD (p / 2) 0

/-- Whether a control frame is of the version of its link; a HELLO may be of any that the manual defines (R12, R13, R236). -/
def Link.speaks (k : Link) (c : Ctrl) : Bool :=
  if c.op == 0x01 || c.op == 0x02 then c.version == 0x01 || c.version == 0x81 else c.version == k.version

/-- Take a control frame of an operation: one whose CRC fails is discarded whole and counted (R236), and one of another version is not
acted on (R12). Otherwise its acknowledgements count, and a repeated one is acknowledged and not acted on again. -/
def Hw.ctrlIn (h : Hw) (p l op : Nat) (c : Ctrl) (f : Hw → Hw) : Hw :=
  let k := h.link p l
  if c.op ≠ op ∨ k.carries = false then h
  else if ctrlCrc c ≠ c.crc then (h.setLink p l fun k => { k with counts := { k.counts with crcErr := satAdd k.counts.crcErr 1 } }).noteCrc (portDie p) 1 p
  else if k.speaks c = false then h
  else if !ctrlQueued op then f (h.hear p l c)
  else if ctrlNew k.ctrlSeen c.seq then (f (h.hearNew p l c)).sendAck p l
  else (h.hear p l c).sendAck p l

/-- HELLO (R243): answered with HELLO_ACK; with no common version the mismatch is reported. -/
def execHello (fport link : Nat) (c : Ctrl) (s : State) : Host.Outcome State Fault Refusal :=
  act (fun h => h.ctrlIn fport link 0x01 c fun h =>
    let h := if (h.link fport link).agrees c then h else h.mismatch fport link c
    h.sendHello fport link 0x02) s

/-- HELLO_RESEND: every 100 µs until HELLO_ACK. -/
def execHelloResend (fport link : Nat) (s : State) : Host.Outcome State Fault Refusal :=
  act (fun h => if (h.link fport link).state == .hello then h.sendHello fport link 0x01 else h) s

/-- Resend every frame of the replay buffer, striped on the set in force with its LSET (R238, R254); nothing leaves a dark transmitter, nor
while a drop past its limit has not been acknowledged. -/
def Hw.resend (h : Hw) (p l : Nat) : Hw :=
  let k := h.link p l
  if h.txDark p || k.unacked.isSome then h
  else
    let fs := k.replay.map fun (f : Frame) => sealFrame { f with lset := k.force.1, ack := k.expect - 1 }
    let h := h.setLink p l fun k => { k with replay := fs, counts := { k.counts with replays := satAdd k.counts.replays fs.length } }
    fs.foldl (fun h f => h.emit (.frame p l f)) h

/-- Frames before an expected SEQ count as acknowledged. -/
def ackBefore (e : W16) (l : List Frame) : List Frame := if l.any (·.seq == e) then l.dropWhile (·.seq != e) else ackFrames (e - 1) l

/-- ACK. -/
def execAck (fport link : Nat) (c : Ctrl) (s : State) : Host.Outcome State Fault Refusal :=
  act (fun h => h.ctrlIn fport link 0x04 c fun h => h) s

/-- CONTROL_RESEND (R241): the n-th outstanding control frame goes again. -/
def execControlResend (fport link n : Nat) (s : State) : Host.Outcome State Fault Refusal :=
  act (fun h =>
    let k := h.link fport link
    match (k.ctrlOut.take 8)[n]? with
    | some c => if k.carries && !h.txDark fport then h.emit (.ctrl fport link (k.dressCtrl c)) else h
    | none => h) s

/-! ## Carriers and training (R244-R246) -/

/-- CARRIER_DETECT (R245). In DARK nothing of the peer's set is known, so that the lowest λ whose carrier is there counts as its control λ
(DESIGN CHOICE; log 50). -/
def execCarrierDetect (fport link : Nat) (present : LambdaSet) (s : State) : Host.Outcome State Fault Refusal :=
  act (fun h =>
    let k := h.link fport link
    if present = 0 ∨ k.valid = false then h
    else if k.state == .dark then h.setLink fport link fun k => { k with state := .training, kept := false, resynced := false, heldResync := none, rx := h.steer fport link present, rxCtrl := (lambdas present).headD 0 }
    else if k.state == .lost then h.setLink fport link fun k => { k with state := .training, kept := true, resynced := false, heldResync := none, rx := h.steer fport link present }
    else if k.state == .paused then
      h.setLink fport link fun k => { k with state := .training, kept := true, fromPause := true, noCarrier := false, resynced := false, heldResync := none, rx := h.steer fport link present }
    else h) s

/-- A link's set without the λ of it that are dark: lines that the comb monitor disabled, unless no other is left (R255, R265). -/
def Hw.litSet (h : Hw) (p l : Nat) : LambdaSet :=
  let k := h.link p l
  let rest := k.tx &&& ~~~(h.oe (p / 2)).disabled
  if rest = 0 then k.tx else rest

/-- RESYNC of a link whose state is kept; it carries the set in force from then on. -/
def Hw.sendResync (h : Hw) (p l : Nat) : Hw :=
  let s := h.litSet p l
  let h := h.setLink p l fun k => { k with tx := s, ctrl := if s.getLsbD k.ctrl then k.ctrl else (lambdas s).headD 0, oldSet := none, unacked := none }
  let k := h.link p l
  h.sendCtrl p l 0x03 k.expect.toNat Config.moduleUid.toNat (2 ^ 32 * k.incarnation.toNat) (k.tx.toNat + 2 ^ 34 * k.lset + 2 ^ 36 * k.ctrl)

/-- CARRIER_LOSS (R245): an active λ of an UP link goes dark. One that the peer has dropped is no longer active (R254). -/
def execCarrierLoss (fport link lambda : Nat) (s : State) : Host.Outcome State Fault Refusal :=
  act (fun h =>
    let k := h.link fport link
    let dropped := match k.rxNext with | some x => !x.2.getLsbD lambda | none => false
    if !k.rx.getLsbD lambda then h
    else if dropped then
      h.setLink fport link fun k => match k.rxNext with | some x => { k with rx := x.2, rxLset := x.1, rxNext := none } | none => k
    else if k.state == .up then
      ((h.dropChange fport link).setLink fport link fun k =>
        { k with state := .lost, kept := true, deadTimer := true, counts := { k.counts with carrierLoss := satAdd k.counts.carrierLoss 1 } }
        ).evMod 0x0302 (srcPort fport) (link + 4 * lambda) 0
    else if k.state == .paused then h.setLink fport link fun k => { k with noCarrier := true }
    else h) s

/-- LINK_DEAD_EXPIRY (R245, R247). LINK_DEAD shows 0x3FFFF for coordinates that are not known (DESIGN CHOICE; log 50). -/
def execLinkDeadExpiry (fport link : Nat) (s : State) : Host.Outcome State Fault Refusal :=
  act (fun h =>
    let k := h.link fport link
    if k.deadTimer && (k.state == .lost || k.state == .training) then
      (h.declareDead fport link).evMod 0x0303 (srcPort fport)
        (link + 2 ^ 32 * (match k.toward with | some c => coordNat c | none => 0x3FFFF)) (k.replay.length + k.queue.length)
    else h) s

/-- PAUSE_EXPIRY (R245). -/
def execPauseExpiry (fport link : Nat) (s : State) : Host.Outcome State Fault Refusal :=
  act (fun h =>
    let k := h.link fport link
    if k.pauseFor.isNone then h
    else if k.state == .paused then
      h.setLink fport link fun k =>
        { k with state := .lost, kept := true, deadTimer := true, pauseFor := none, noCarrier := false
                 counts := { k.counts with carrierLoss := satAdd k.counts.carrierLoss 1 } }
    else if k.state == .training && k.fromPause then h.setLink fport link fun k => { k with deadTimer := true, pauseFor := none }
    else h) s

/-! ## PAUSE (R250) -/

/-- A link retrains as from LOST. -/
def Hw.retrainLink (h : Hw) (p l : Nat) : Hw :=
  let k := h.link p l
  if k.state == .up || k.state == .paused then
    (h.dropChange p l).setLink p l fun k =>
      { k with state := .training, kept := true, deadTimer := true, pauseFor := none, fromPause := false, resynced := false, heldResync := none }
  else h

/-- PAUSE: the link enters PAUSED; a legacy link has no PAUSE (R257). -/
def execPause (fport link : Nat) (c : Ctrl) (s : State) : Host.Outcome State Fault Refusal :=
  act (fun h => h.ctrlIn fport link 0x06 c fun h =>
    let k := h.link fport link
    if k.legacy then h
    else if k.state == .up || k.state == .paused then
      ((h.dropChange fport link).setLink fport link fun k => { k with state := .paused, pauseFor := some c.arg0.toNat }).sendCtrl fport link 0x07 c.arg0.toNat 0 0 0
    else h) s

/-- A λ goes dark: it leaves the transmit set, and the lowest left takes the control role of one that had it. -/
def Hw.darkLambda (h : Hw) (p l i : Nat) : Hw :=
  h.setLink p l fun k =>
    let rest := lambdaDel k.tx i
    { k with tx := rest, oldSet := none, ctrl := if k.ctrl = i then (lambdas rest).headD 0 else k.ctrl }

/-- PAUSE_ACK: the side that paused may darken; a control λ that is lost goes dark now, and the link retrains (R250, R265). -/
def execPauseAck (fport link : Nat) (c : Ctrl) (s : State) : Host.Outcome State Fault Refusal :=
  act (fun h => h.ctrlIn fport link 0x07 c fun h =>
    let k := h.link fport link
    match k.pausing, k.darken with
    | none, _ => h
    | some _, none => h.setLink fport link fun k => { k with pauseAcked := true }
    | some _, some i =>
      (((h.setLink fport link fun k => { k with pausing := none, darken := none }).darkLambda fport link i).retrainLink fport link)) s

/-! ## Ports (R245, R259) -/

/-- Whether a non-FREE context's plan names a port (R259). -/
def Hw.portNamed (h : Hw) (p : Nat) : Bool := h.ctxs.any fun c => c.state != .free && c.plan.lambda.any fun e => e.port == p

/-- PORT_ENABLE: links enter DARK. -/
def execPortEnable (fport : Nat) (s : State) : Host.Outcome State Fault Refusal :=
  actReg (portOff fport) (fun h =>
    if h.portNamed fport || (h.port fport).en then h
    else
      let h := h.setPort fport fun q => { q with en := true }
      forN 4 h fun h l =>
        let k := h.link fport l
        if k.valid && k.state == .off && !h.flash.oos then (h.setLink fport l fun k => { k with state := .dark }).light fport l else h) s

/-- PORT_DISABLE: links go OFF with the effects of a dead link. -/
def execPortDisable (fport : Nat) (s : State) : Host.Outcome State Fault Refusal :=
  actReg (portOff fport) (fun h =>
    if h.portNamed fport || !(h.port fport).en then h
    else
      let h := h.setPort fport fun q => { q with en := false }
      forN 4 h fun h l =>
        if (h.link fport l).valid && (h.link fport l).state != .off then (h.setLink fport l fun k => { k with state := .off }).deadEffects fport l else h) s

/-- PORT_RETRAIN: every link of the port retrains; like every write of CTL it has no effect while a plan names the port (R467). -/
def execPortRetrain (fport : Nat) (s : State) : Host.Outcome State Fault Refusal :=
  actReg (portOff fport) (fun h => if h.portNamed fport then h else forN 4 h fun h l => h.retrainLink fport l) s

/-! ## Sending data frames (R237, R238, R248, R254, R280, R282, R351) -/

/-- Largest payload of a frame on a link. -/
def Link.maxLen (k : Link) : Nat := if k.legacy then 1024 else 2048

/-- The n-th frame of a message on a link; SEQ, ACK, LSET and CRC are given when it is sent. Its poisoned words are sent as poison blocks
(R346). -/
def Hw.frameOf (h : Hw) (k : Link) (o : OutMsg) (n : Nat) : Frame :=
  let total := (msgWords o.msg + k.maxLen - 1) / k.maxLen
  let off := n * k.maxLen
  let len := min k.maxLen (msgWords o.msg - off)
  let acc := msgIsAccess o.msg
  { kind := if acc then 2 else 1, version := k.version, seq := 0, ack := 0, cls := o.cls
    first := n == 0, last := n + 1 == total, bound := !acc && o.bound.isSome, lset := 0
    src := o.src.setWidth 32 ||| (BitVec.ofNat 32 (msgDie o.msg) <<< 18), dst := o.dst.setWidth 32
    binding := if acc then 0 else match o.bound with
      | some b => BitVec.ofNat 32 (b.1 + 256 * b.2.toNat)
      | none => o.job
    srcCtx := if acc then 0 else o.srcCtx, srcEpoch := if acc then 0 else (h.ctx o.srcCtx).epoch
    msgId := if acc then 0 else o.msgId, frameIdx := BitVec.ofNat 16 n, payload := .piece o.msg off len
    poison := ((msgPoisonWords o.msg).filter fun w => decide (off ≤ 32 * w) && decide (32 * w < off + len)).map (· - off / 32), crc := 0 }

def OutMsg.total (o : OutMsg) (k : Link) : Nat := (msgWords o.msg + k.maxLen - 1) / k.maxLen

/-- The flow of a frame (R280). -/
def frameFlow (f : Frame) : Nat :=
  flowKey (bits f.src.toNat 21 18) f.cls (f.dst.setWidth 18) (if f.kind = 1 ∧ f.cls ≠ 0 then f.msgId.toNat else 0)

/-- Whether a flow, the frames of one key h toward one next hop, still has frames on another link, for which new ones wait (R280). -/
def Hw.flowHeld (h : Hw) (p l : Nat) (dst : Coord) (key : Nat) : Bool :=
  (allLinks.filter (· != (p, l))).any fun x =>
    let k := h.link x.1 x.2
    (k.replay ++ k.queue).any fun f =>
      frameFlow f == key && ((f.dst.setWidth 18 : Coord) == dst || h.hopLinks (h.redirect (f.dst.setWidth 18)) == h.hopLinks (h.redirect dst))

/-- Free transit slots of a class on a link, of 32 (R282). -/
def Link.slots (k : Link) (cls : Nat) : Nat := 32 - (k.queue.filter (·.cls == cls)).length

/-- The link a message takes; a frame of KIND 2 is not redirected (R377). -/
def Hw.linkFor (h : Hw) (o : OutMsg) : Option (Nat × Nat) :=
  if msgIsAccess o.msg then h.chooseHop (msgDie o.msg) o.cls o.dst o.dst 0
  else h.chooseLink (msgDie o.msg) o.cls o.dst (if o.cls == 0 then 0 else o.msgId.toNat)

/-- Put frames of one message into a link's queue while a slot of its class is free, 2 for a frame that enters an axis. -/
def Hw.enqueue (h : Hw) (p l : Nat) (i : Nat) : Hw :=
  match h.outMsgs[i]? with
  | none => h
  | some o =>
    let k := h.link p l
    let key := flowKey (msgDie o.msg) o.cls o.dst (if msgIsAccess o.msg || o.cls == 0 then 0 else o.msgId.toNat)
    let behind := match o.msg with  -- a channel's messages leave in order
      | .channel c q _ _ _ => h.outMsgs.any fun x => !x.sent && x.queued == 0 && (match x.chanSeq o.srcCtx o.dst c with | some y => decide (y < q) | none => false)
      | _ => false
    if o.sent || o.needCredit || behind || h.linkFor o != some (p, l) || h.flowHeld p l o.dst key then h
    else
      let total := o.total k
      let n := min (total - o.queued) ((k.slots o.cls) - 1)
      let fs := (List.range n).map fun j => h.frameOf k o (o.queued + j)
      let h := if o.queued = 0 ∧ n ≠ 0 then h.noteSent o else h
      let h := h.setLink p l fun k => { k with queue := k.queue ++ fs }
      let h := { h with accesses := h.accesses.map fun (a : Access) => if fs.any a.has then { a with via := some (p, l) } else a }
      let all := decide (o.queued + n = total)
      { h with outMsgs := h.outMsgs.modify i fun o => { o with queued := o.queued + n, sent := all, via := if n = 0 then o.via else some (p, l) } }

/-- Messages whose every frame is queued and that nothing awaits are done; accesses are answered by their own replies. -/
def OutMsg.finished (o : OutMsg) : Bool :=
  o.sent && (msgIsAccess o.msg || (o.cmd.isNone && o.bound.isSome && (match o.msg with | .block _ => false | _ => true)))

/-- A legacy link does not send a message with poisoned groups: its command ends POISON (R351). -/
def Hw.withhold (h : Hw) (p l : Nat) : Hw :=
  if !(h.link p l).legacy then h
  else h.outMsgs.foldl (fun h o =>
    if !o.sent && o.queued == 0 && msgPoison o.msg != 0 && h.linkFor o == some (p, l) then
      let h := { h with outMsgs := h.outMsgs.filter (· != o) }
      let h := match h.accesses.find? o.carries with | some a => h.loseAccess a stPoison (msgPoison o.msg) | none => h
      match o.cmd with
      | some (r, i) => h.finishCmd r i stPoison (msgPoison o.msg)
      | none => h
    else h) h

/-- Messages toward the module itself, or toward a fenced module it stands in for, are delivered without a link (R283, R377). -/
def Hw.loopback (h : Hw) : Hw :=
  match findIdxD h.outMsgs fun o => !o.sent && !o.needCredit && h.redirect o.dst == h.self with
  | none => h
  | some (i, o) =>
    let h := h.noteSent o
    let h := { h with outMsgs := if o.cmd.isSome then h.outMsgs.modify i fun o => { o with sent := true } else h.outMsgs.eraseIdx i }
    match o.msg with
    | .access a => h.memAccess o.src a {}
    | .accessReply da _ _ => h.takeAccessReply o.src da
    | m =>
      let m := msgForTwin m (o.dst != h.self)
      match o.bound with
      | some b => h.boundMessage b.1 b.2 o.src o.srcCtx o.msgId m {}
      | none => h.jobMessage o.src o.srcCtx o.job o.msgId m {}

/-- Unacknowledged frames of a port, of 256 (R238). -/
def Hw.replayUsed (h : Hw) (p : Nat) : Nat := ((h.port p).links.map fun (k : Link) => k.replay.length).sum

/-- Whether a frame can start: the first of a message holds a reassembly credit (R248). -/
def Link.mayStart (k : Link) (f : Frame) : Bool := !(f.kind == 1 && f.first) || k.credits != 0

/-- The frame a link sends next: SYNC first, then REQ, RSP and COLL in equal turns, none before an earlier one of its class (R24, R237). -/
def Link.pick (k : Link) : Option (Nat × Frame) :=
  let ok (x : Frame × Nat) : Bool := k.mayStart x.1 && !((k.queue.take x.2).any fun f => f.cls == x.1.cls)
  let l := k.queue.zipIdx.filter ok
  ((0 :: [1, 2, 3].map fun i => (k.turn - 1 + i) % 3 + 1).findSome? fun c => l.find? fun x => x.1.cls == c).map fun x => (x.2, x.1)

/-- Whether a link sends data frames: UP, or PAUSED while its carrier lasts. -/
def Link.sends (k : Link) : Bool := k.state == .up || (k.state == .paused && !k.noCarrier)

/-- Messages put their frames into a link's queue; those that are all queued and that nothing awaits are done. -/
def Hw.load (h : Hw) (p l : Nat) : Hw :=
  let h := h.withhold p l
  let h := forN h.outMsgs.length h fun h i => h.enqueue p l i
  { (h.keepLoose (h.outMsgs.filter fun o => o.finished && !msgIsAccess o.msg)) with outMsgs := h.outMsgs.filter fun o => !o.finished }

/-- Whether an engine's data frames stop for the switchover of its group (R266). -/
def Hw.switchStops (h : Hw) (p : Nat) : Bool := match h.comb.switching with | some w => w.group == p / 16 | none => false

/-- Whether a link's next frame must wait: for a switchover or a pause, for a λ change's acknowledgement, or for room in the port's replay
buffer. -/
def Hw.sendWaits (h : Hw) (p l : Nat) : Bool :=
  let k := h.link p l
  let waits := match k.change with | some c => k.nextSeq == c.switchSeq | none => false
  h.switchStops p || k.pausing.isSome || waits || k.unacked.isSome || decide (256 ≤ h.replayUsed p)

/-- A frame as a link sends it next: its SEQ, ACK, LSET and CRC. -/
def Link.dress (k : Link) (f : Frame) : Frame := sealFrame { f with seq := k.nextSeq, ack := k.expect - 1, lset := k.force.1 }

/-- FRAME_TRANSMIT (R238, R248, R254, R282): an UP link sends its next frame; PAUSED links send while their carrier lasts. -/
def execFrameTransmit (fport link : Nat) (s : State) : Host.Outcome State Fault Refusal :=
  act (fun h =>
    let h := h.loopback
    if !(h.link fport link).sends then h
    else
      let h := h.load fport link
      let k := h.link fport link
      if h.sendWaits fport link then h
      else match k.pick with
      | none => h
      | some (i, f) =>
        (h.setLink fport link fun k =>
          { k with queue := k.queue.eraseIdx i, replay := k.replay ++ [k.dress f], nextSeq := k.nextSeq + 1
                   oldSet := match k.oldSet with | some x => if x.1 = k.nextSeq + 1 then none else some x | none => none
                   turn := if f.cls = 0 then k.turn else f.cls
                   credits := if f.kind = 1 ∧ f.first = true then k.credits - 1 else k.credits }).emit (.frame fport link (k.dress f))) s

/-! ## Receiving data frames (R236, R238, R248, R281) -/

/-- Whether a frame is for this module: its own coordinates, or those of a fenced module that it stands in for (R281, R377). -/
def Hw.forMe (h : Hw) (f : Frame) : Bool :=
  let d : Coord := f.dst.setWidth 18
  h.topo.isSome && (d == h.self || (f.kind == 1 && h.redirect d == h.self))

/-- Deliver a complete message: its words `turned` arrived with poison and validity exchanged, and its first `done` bytes are written. -/
def Hw.deliverFrame (h : Hw) (f : Frame) (turned : List Nat) (env : Env) (done : Nat) : Hw :=
  let src : Coord := f.src.setWidth 18
  match f.payload with
  | .raw _ => h
  | .piece m _ _ =>
    let m := turnMsg m turned
    if f.kind = 2 then (match m with | .access a => h.memAccess src a env | .accessReply da _ _ => h.takeAccessReply src da | _ => h)
    else
      let m := msgForTwin m (f.dst.setWidth 18 != h.self)
      if f.bound then h.boundMessage (bits f.binding.toNat 3 0) (BitVec.ofNat 8 (bits f.binding.toNat 15 8)) src f.srcCtx f.msgId m env done
      else h.jobMessage src f.srcCtx f.binding f.msgId m env done

def Reasm.of (e : Reasm) (f : Frame) : Bool := e.src == f.src && e.ctx == f.srcCtx && e.msgId == f.msgId

/-- The context that a frame of a message reaches, if one takes it (R81, R82). -/
def Hw.frameCtx (h : Hw) (f : Frame) : Option Nat :=
  if f.bound then
    let n := bits f.binding.toNat 3 0
    if (h.ctx n).live && (h.ctx n).epoch == BitVec.ofNat 8 (bits f.binding.toNat 15 8) then some n else none
  else h.jobContext f.binding

/-- The data of a frame that is not the last of its message is delivered as soon as its CRC has passed (R248). -/
def Hw.deliverPart (h : Hw) (f : Frame) (e : Reasm) (env : Env) : Option Hw :=
  match f.payload, h.frameCtx f with
  | .piece m off len, some n => if e.done = off then h.takePart n (turnMsg m e.turned) off (off + len) env else none
  | _, _ => none

/-- The reassembly entry of a frame's message, with the frame counted; a new one for the first (R248). -/
def Link.entry (k : Link) (f : Frame) (turned : List Nat) : Option Reasm :=
  let grow (e : Reasm) : Reasm :=
    { e with frames := e.frames + 1, bytes := e.bytes + payloadLen f.payload, turned := e.turned ++ turned.map (· + e.bytes / 32) }
  if f.first then some (grow { src := f.src, ctx := f.srcCtx, msgId := f.msgId, frames := 0 })
  else (k.reasm.find? (·.of f)).map grow

/-- A frame that passed its checks is kept for its next hop, or delivered (R248, R281). -/
def Hw.takeIn (h : Hw) (p : Nat) (f : Frame) (turned : List Nat) (deliver : Hw → Hw) : Hw :=
  if h.forMe f then deliver h else { h with transit := h.transit ++ [{ fport := p, frame := { f with poison := turnSet f.poison turned } }] }

/-- Take a frame that passed its checks: its data go where they belong, and the last frame completes its message and returns the credit. A
frame of a message with no entry is dropped. -/
def Hw.reassemble (h : Hw) (p l : Nat) (f : Frame) (turned : List Nat) (env : Env) : Hw :=
  if f.kind = 2 then h.takeIn p f turned fun h => h.deliverFrame f turned env 0
  else match (h.link p l).entry f turned with
  | none => h
  | some e =>
    let put (h : Hw) (l' : List Reasm) : Hw := h.setLink p l fun k => { k with reasm := k.reasm.filter (fun x => !x.of f) ++ l' }
    if f.last then ((put h []).sendCtrl p l 0x12 1 0 0 0).takeIn p f turned fun h => h.deliverFrame f e.turned env e.done
    else (put h [e]).takeIn p f turned fun h =>
      match h.deliverPart f e env with
      | some h => put h [{ e with done := e.bytes }]
      | none => h

/-- Discard a frame, and name the one expected once (R238). -/
def Hw.discardFrame (h : Hw) (p l : Nat) (lambda : Nat) (bad : Bool) : Hw :=
  let k := h.link p l
  let h := if bad then (h.setLink p l fun k => { k with counts := { k.counts with crcErr := satAdd k.counts.crcErr 1 } }).noteCrc (portDie p) 1 p else h
  if k.discarding && !bad then h
  else (h.setLink p l fun k => { k with discarding := true }).sendCtrl p l 0x05 (k.expect.toNat + 65536 * lambda) 0 0 0

/-- What the decoder makes of a frame's blocks: `errs` gives the bits in error of each block, 0 the header's. The λ of a block that cannot
be decoded, none where that is not known; or the number of corrected blocks and the words of the payload in which poison and validity
are exchanged. Data that are wrong after decoding are taken to fail the frame's CRC, and so is any error on a legacy link, which has no
inner code (R235, R238, R257, R346; log 53). -/
def Link.decode (k : Link) (f : Frame) (errs : List (Nat × List Nat)) : Except (Option Nat) (Nat × List Nat) :=
  let set? := if f.lset = k.rxLset then some k.rx else match k.rxNext with | some x => if x.1 = f.lset then some x.2 else none | none => none
  if k.legacy then (if errs.isEmpty then .ok (0, []) else .error none)
  else match set? with
  | none => .error none
  | some set =>
    errs.foldl (fun a x =>
      match a, readBlock x.2 with
      | .error e, _ => .error e
      | .ok _, .failed => .error (some (stripeLambda (lambdas set) k.rxCtrl x.1))
      | .ok (n, ts), .read fixed turned wrong =>
        if wrong || (turned && x.1 == 0) then .error none
        else .ok (n + b2n fixed, if turned then ts ++ [x.1 - 1] else ts)) (.ok (0, []))

/-- The blocks of a frame that the inner code corrected. -/
def correctedBlocks (errs : List (Nat × List Nat)) : Nat :=
  (errs.filter fun x => match readBlock x.2 with | .read fixed _ _ => fixed | .failed => false).length

/-- The λ set of a frame's LSET is in force from it on (R254). -/
def Link.follow (k : Link) (f : Frame) : Link :=
  match k.rxNext with
  | some x => if x.1 = f.lset then { k with rx := x.2, rxLset := x.1, rxNext := none } else k
  | none => k

/-- Whether a link sends a data frame at once, which then carries the acknowledgement (R238). -/
def Hw.sendsNow (h : Hw) (p l : Nat) : Bool := (h.link p l).sends && !h.sendWaits p l && (h.link p l).pick.isSome

/-- DATA_FRAME_RECEIVE (R235, R236, R238, R248): `blocks` names the blocks of the frame that came with errors, and `wrong` the bits in
error of each. A frame of another version, or whose header names what the manual does not give, is not acted on (R12, R13), nor is a COLL
frame on a legacy link (R257). `f` comes with what its row says of the places that it is delivered to. -/
def execDataFrameReceive (fport link : Nat) (x : Frame × Env) (blocks : List Nat) (wrong : List (List Nat)) (s : State) : Host.Outcome State Fault Refusal :=
  act (fun h =>
    let f := x.1
    let k := h.link fport link
    let errs := blocks.zip wrong
    if !(k.state == .up || k.state == .paused) then h
    else
      let h := if k.legacy then h else h.setLink fport link fun k => { k with counts := { k.counts with corrected := satAdd k.counts.corrected (correctedBlocks errs) } }
      match k.decode f errs with
      | .error x => h.discardFrame fport link (x.getD 0x3F) true
      | .ok (_, turned) =>
      if !frameCrcOk f then h.discardFrame fport link 0x3F true
      else if f.version ≠ k.version ∨ frameShape k.maxLen f = false ∨ (k.legacy ∧ f.cls = 3) then h
      else if f.seq ≠ k.expect then
        -- a frame already delivered is dropped; one beyond the expected SEQ waits for it
        if (k.expect - f.seq).toNat ≤ 32768 ∧ k.discarding = false then h.sendCtrl fport link 0x04 0 0 0 0
        else h.discardFrame fport link 0x3F false
      else
        let h := h.setLink fport link fun k => { (k.follow f) with expect := k.expect + 1, discarding := false, replay := ackFrames f.ack k.replay }
        let h := if h.sendsNow fport link then h else h.sendCtrl fport link 0x04 0 0 0 0
        h.reassemble fport link f turned x.2) s

/-- NACK_CRC (R238, R255): frames before the expected one count as acknowledged, the rest go again; 16 NACKs of one λ within
1 ms degrade it. -/
def Hw.noteNack (h : Hw) (p l lambda : Nat) : Nat × Hw :=
  let ns := ((h.link p l).nacks.filter fun x => decide (h.now < x.2 + 1000000)) ++ [(lambda, h.now)]
  ((ns.filter (·.1 == lambda)).length, h.setLink p l fun k => { k with nacks := ns })

/-- CREDIT (R248). -/
def execCredit (fport link : Nat) (c : Ctrl) (s : State) : Host.Outcome State Fault Refusal :=
  act (fun h => h.ctrlIn fport link 0x12 c fun h => h.setLink fport link fun k => { k with credits := k.credits + c.arg0.toNat }) s

/-- Whether a control frame names this module; an answer for another goes on toward it (R281). -/
def Hw.ctrlForMe (h : Hw) (c : Ctrl) : Bool :=
  c.dst == 0xFFFFFFFF || h.redirect (c.dst.setWidth 18) == h.self

/-- Send an answer on toward its module. -/
def Hw.relay (h : Hw) (c : Ctrl) : Hw :=
  match h.chooseLink 0 4 (c.dst.setWidth 18) 0 with
  | none => h
  | some x =>
    let k := h.link x.1 x.2
    let c' : Ctrl := sealCtrl { c with version := k.version, seq := k.ctrlSeq, cack := k.ctrlSeen.getD 0xFFFF, ack := k.expect - 1 }
    let h := h.setLink x.1 x.2 fun k => { k with ctrlSeq := k.ctrlSeq + 1, ctrlOut := k.ctrlOut ++ [c'] }
    if k.ctrlOut.length < 8 ∧ h.txDark x.1 = false then h.emit (.ctrl x.1 x.2 c') else h

/-- MSG_NACK. -/
def execMsgNack (fport link : Nat) (c : Ctrl) (s : State) : Host.Outcome State Fault Refusal :=
  act (fun h => h.ctrlIn fport link 0x10 c fun h =>
    if h.ctrlForMe c then h.takeNack (bits c.arg0.toNat 7 0) (BitVec.ofNat 16 (bits c.arg0.toNat 31 16)) (c.arg2.setWidth 18)
    else h.relay c) s

/-- BIND_ANSWER. -/
def execBindAnswer (fport link : Nat) (c : Ctrl) (s : State) : Host.Outcome State Fault Refusal :=
  act (fun h => h.ctrlIn fport link 0x11 c fun h =>
    if h.ctrlForMe c then
      h.takeBindAnswer (c.src.setWidth 18) (bits c.arg0.toNat 3 0) (BitVec.ofNat 8 (bits c.arg0.toNat 15 8)) (c.arg1.setWidth 32)
    else h.relay c) s

/-- REASSEMBLY_EXPIRY (R249). -/
def execReassemblyExpiry (fport link n : Nat) (s : State) : Host.Outcome State Fault Refusal :=
  act (fun h =>
    let k := h.link fport link
    if k.reasm.length ≤ n then h
    else
      let h := h.setLink fport link fun k =>
        { k with reasm := k.reasm.eraseIdx n, reasmHeld := k.reasmHeld + 1, counts := { k.counts with reasmDiscard := satAdd k.counts.reasmDiscard 1 } }
      let h := h.sendCtrl fport link 0x12 1 0 0 0
      let due := match k.reasmAt with | some t => decide (t + second ≤ h.now) | none => true
      if due then
        (h.setLink fport link fun k => { k with reasmAt := some h.now, reasmHeld := 0 }).evMod 0x0307 (srcPort fport) (k.reasmHeld + 1) 0
      else h) s

/-- Whether a link owes the event of discards that were held back in a second that is over. -/
def Hw.owes (h : Hw) (x : Nat × Nat) : Bool :=
  let k := h.link x.1 x.2
  k.reasmHeld != 0 && (match k.reasmAt with | some t => decide (t + second ≤ h.now) | none => false)

/-- The discards of a link's last second, told (R249). -/
def Hw.tellHeld (h : Hw) (x : Nat × Nat) : Hw :=
  (h.setLink x.1 x.2 fun k => { k with reasmAt := some h.now, reasmHeld := 0 }).evMod 0x0307 (srcPort x.1) (h.link x.1 x.2).reasmHeld 0

/-- Time passes: the nominal nanosecond of `tick`, and what falls due at the end of a second (log 2). -/
def idle (s : State) : State :=
  let t := tick s
  if t.hw.ks2.powered then { t with hw := (allLinks.filter t.hw.owes).foldl Hw.tellHeld t.hw } else t

/-! ## Transit (R281-R283) -/

/-- The axis of a port's direction: 0 none. -/
def axisOf (d : Nat) : Nat := (d + 1) / 2

/-- TRANSIT_FORWARD: the n-th frame in transit is framed again on the link of its next hop, once a slot of its class is free; it is
discarded and counted where no link toward the next hop is left. A frame of more than 1,024 bytes cannot take a legacy link, and is
discarded there too, as is a COLL frame that only legacy links could carry (R257; DESIGN CHOICE, log 53). A stand-in takes the frames of
KIND 1 of its module (R377). -/
def execTransitForward (n : Nat) (s : State) : Host.Outcome State Fault Refusal :=
  act (fun h =>
    match h.transit[n]? with
    | none => h
    | some t =>
      let f := t.frame
      let dst : Coord := f.dst.setWidth 18
      let m := if f.kind = 1 ∧ f.cls ≠ 0 then f.msgId.toNat else 0
      let drop := { h with transit := h.transit.eraseIdx n }.setDie (portDie t.fport) fun d => { d with transitDrop := satAdd d.transitDrop 1 }
      let earlier := (h.transit.take n).any fun x => frameFlow x.frame == frameFlow f && x.frame.dst == f.dst
      let hop := if f.kind = 1 then h.redirect dst else dst
      match h.hopReach hop, h.topo with
      | .gone, _ => drop
      | _, none => drop
      | .up, some tp =>
        (match h.chooseHop (bits f.src.toNat 21 18) f.cls hop dst m with
        | none => if (h.hopLinks hop).all (fun x => (h.link x.1 x.2).legacy) then drop else h
        | some x =>
          let k := h.link x.1 x.2
          let same := axisOf (portDir tp t.fport) == axisOf (portDir tp x.1)
          if k.maxLen < payloadLen f.payload then drop
          else if earlier || h.flowHeld x.1 x.2 dst (frameFlow f) || decide (k.slots f.cls < (if same then 1 else 2)) then h
          else
            let f := { f with version := k.version }
            { h with transit := h.transit.eraseIdx n }.setLink x.1 x.2 fun k => { k with queue := k.queue ++ [f] })
      | _, _ => h) s

end Sys2Proof.Machine
end

