-- ==== Sys2Proof/Machine/Lambda.lean ====
section
/-! DEFINITION. Changes of λ: the handshakes, lending, caps, degraded λ and LAMBDA_SET (09 R251-R258; 01 R30). -/

namespace Sys2Proof.Machine

/-! ## Starting a change (R254) -/

/-- Start a λ change on an UP link that has none pending: LAMBDA_ADD or LAMBDA_DROP with the next LSET, 16 frames ahead. A change before it
that is acknowledged is in force from here, so that two LSETs are in use and no more (DESIGN CHOICE; log 50). -/
def Hw.startChange (h : Hw) (p l : Nat) (add : Bool) (i : Nat) (cmd : Option (Nat × W32)) (lend : Option (Nat × Nat)) : Hw :=
  let k := h.link p l
  let ls := (k.lset + 1) % 4
  let sq := k.nextSeq + 16
  (h.setLink p l fun k => { k with oldSet := none, change := some { add := add, lambda := i, lset := ls, switchSeq := sq, cmd := cmd, lend := lend } }
    ).sendCtrl p l (if add then 0x09 else 0x0B) (i + 256 * ls + 65536 * sq.toNat) 0 0 0

/-- Whether a link can change its λ now. -/
def Link.free (k : Link) : Bool := k.state == .up && k.change.isNone && k.unacked.isNone && k.pausing.isNone && !k.legacy

/-- The highest λ of a link that is not its control λ. -/
def Link.highest (k : Link) : Option Nat := ((lambdas k.tx).filter (· != k.ctrl)).getLast?

/-! ## Engines' caps and links' bounds (R30, R252, R255) -/

/-- Transmit λ in use on an engine, once the changes under way are done. -/
def Hw.inUse (h : Hw) (e : Nat) : Nat :=
  ((engineLinks (2 * e)).map fun x => let k := h.link x.1 x.2; if k.valid then k.count else 0).sum

/-- Transmit λ that an engine's modulators carry now. -/
def Hw.active (h : Hw) (e : Nat) : Nat :=
  ((engineLinks (2 * e)).map fun x => let k := h.link x.1 x.2; if k.valid then lambdaCount k.lit else 0).sum

/-- The spare lines λ32 and λ33 that an engine uses. -/
def Hw.sparesUsed (h : Hw) (e : Nat) : Nat :=
  ((engineLinks (2 * e)).map fun x => let k := h.link x.1 x.2; if k.valid then lambdaCount (k.lit &&& 0x300000000#34) else 0).sum

/-- The lines of λ0-λ31 that are disabled in an engine. -/
def Hw.failedLines (h : Hw) (e : Nat) : Nat := lambdaCount ((h.oe e).disabled &&& 0xFFFFFFFF#34)

/-- Whether a link of an engine may use a λ: one that it does not yet carry, or one that moves from another of its links. λ32 and λ33
serve only in place of lines that are disabled (R231). -/
def Hw.mayUse (h : Hw) (p i : Nat) (moves : Bool) : Bool :=
  let e := p / 2
  !(h.oe e).disabled.getLsbD i && (moves || decide (h.active e < min 32 (h.oe e).cap)) &&
  (decide (i < 32) || decide (h.sparesUsed e + b2n (!moves) ≤ h.failedLines e))

/-- Whether a link can give up a λ: a PAUSED link cannot before it returns, nor a legacy link that is UP, which has no handshake. -/
def Link.sheds (k : Link) : Bool := k.valid && k.highest.isSome && !(k.state == .paused || (k.state == .up && (k.legacy || k.pausing.isSome)))

/-- Take the highest λ off a link: by the handshake where it is UP, at once where it carries nothing. -/
def Hw.shed (h : Hw) (p l : Nat) : Hw :=
  let k := h.link p l
  match k.highest with
  | none => h
  | some i =>
    if k.free then h.startChange p l false i none none
    else if !k.sheds || k.change.isSome || k.unacked.isSome then h
    else h.setLink p l fun k => { k with tx := lambdaDel k.tx i }

/-- A link's λ above its MIN. -/
def Link.surplus (k : Link) : Int := (k.count : Int) - k.min

/-- The link of a list with the largest surplus above its MIN. -/
def Hw.richest (h : Hw) (ls : List (Nat × Nat)) : Option (Nat × Nat) :=
  ls.foldl (fun b x => match b with
    | none => some x
    | some y => if (h.link y.1 y.2).surplus < (h.link x.1 x.2).surplus then some x else some y) none

/-- One λ leaves the engine while its cap is exceeded: from the link with the largest surplus above MIN, and below MIN with an event
when every link is at MIN. A link whose change is under way is waited for, and so are the links above MIN that cannot give a λ up now. -/
def Hw.capStep (h : Hw) (e : Nat) : Hw :=
  if h.inUse e ≤ (h.oe e).cap then h
  else
    let ls := engineLinks (2 * e)
    match h.richest (ls.filter fun x => (h.link x.1 x.2).sheds) with
    | none => h
    | some x =>
      let k := h.link x.1 x.2
      let low := decide (k.surplus ≤ 0)
      let rich := ls.any fun y => let d := h.link y.1 y.2; d.valid && d.highest.isSome && !d.legacy && decide (0 < d.surplus)
      if k.change.isSome || k.unacked.isSome || (low && rich) then h
      else
        let n := k.count - 1
        let h := h.shed x.1 x.2
        if low then h.evMod 0x0308 (srcPort x.1) (x.2 + 4 * n) 0 else h

/-- The lines of a link that were disabled and can rejoin it, but for the limit of channels in use. -/
def Hw.waitingLines (h : Hw) (p l : Nat) : Bool :=
  let k := h.link p l
  (lambdas (k.mask &&& k.lostLines &&& ~~~k.lit &&& ~~~(h.heldOthers p l))).any fun i =>
    decide (i < 32) && h.mayUse p i true && !h.mayUse p i false

/-- A link above its MAX drops a λ (R252), and one above its MIN, or one whose own line waits for its place, a spare line that no longer
stands in for a disabled one (R231, R266). -/
def Hw.boundStep (h : Hw) (p l : Nat) : Hw :=
  let k := h.link p l
  let spare := (match k.highest with | some i => decide (32 ≤ i) | none => false) && decide (h.failedLines (p / 2) < h.sparesUsed (p / 2))
  if k.max < k.count || (spare && (decide (k.min < k.count) || h.waitingLines p l)) then h.shed p l else h

/-- A link takes a λ that it lacks: one of its own lines that is enabled again, a spare line in place of a disabled one wherever its mask
permits, or the lowest of the pool while it is below its MIN (R255, R265, R266). -/
def Hw.refill (h : Hw) (p l : Nat) (except : Option Nat) : Hw :=
  let k := h.link p l
  let pool := (lambdas (k.mask &&& ~~~k.lit &&& ~~~(h.heldOthers p l))).filter fun i => h.mayUse p i false && some i != except
  let own := pool.find? fun i => k.lostLines.getLsbD i && decide (lambdaCount (k.tx &&& 0xFFFFFFFF#34) < k.max)
  let spare := pool.find? fun i => decide (32 ≤ i) && k.lostLines != 0 && decide (k.count < k.max)
  if !k.valid || !k.free then h
  else match (own.or spare).or (if k.count < k.min then pool.head? else none) with
    | some i => h.startChange p l true i none none
    | none => h

/-- The lowest λ of a link that must leave it leaves (R255, R265): by the handshake, once no other change is under way. A control λ first
has PAUSE sent; it darkens when that is answered, the link retrains as from LOST, and the lowest λ left takes the control role (R250). -/
def Hw.lossStep (h : Hw) (p l : Nat) : Hw :=
  let k := h.link p l
  match lambdas (k.tx &&& k.dropping) with
  | [] => h
  | i :: r =>
    if k.state != .up || k.legacy || k.pausing.isSome then h
    else if k.ctrl = i ∧ r = [] then
      ((h.dropChange p l).setLink p l fun k => { k with darken := some i, pausing := some 1, pauseAcked := false }).sendCtrl p l 0x06 10000 0 0 0
    else if k.free then h.startChange p l false (if k.ctrl = i then r.headD i else i) none none
    else h

/-- An engine's cap becomes what its working lane groups carry: λ go where it is exceeded, and come back where it allows (R30, R255). -/
def Hw.setCap (h : Hw) (e cap : Nat) : Hw :=
  let h := forN 34 (h.setOe e fun o => { o with cap := cap }) fun h _ => h.capStep e
  (engineLinks (2 * e)).foldl (fun h x => h.refill x.1 x.2 none) h

/-- A link that is UP looks at the λ that must leave it, its bounds and its engine's cap. -/
def Hw.trim (h : Hw) (p l : Nat) : Hw := ((h.lossStep p l).boundStep p l).capStep (p / 2)

/-- The same, and at the λ that it lacks. -/
def Hw.settle (h : Hw) (p l : Nat) : Hw := (h.trim p l).refill p l none

/-! ## LAMBDA_SET (R256) -/

/-- The link of a port toward a peer. -/
def Hw.linkOf (h : Hw) (p : Nat) (c : Coord) : Option Nat :=
  (List.range 4).find? fun l => (h.link p l).valid && (h.link p l).toward == some c

def Cmd.lambdaMask (c : Cmd) : LambdaSet := BitVec.ofNat 34 (c.f 0x20 8)

/-- The next change of a LAMBDA_SET: a drop, an add, a λ taken from another link, or its end. A drop that was refused, or never
acknowledged, counts beside the λ that could not be placed. -/
def Hw.lambdaNext : Nat → Hw → Nat → W32 → Hw
  | 0, h, _, _ => h
  | f + 1, h, ring, index =>
    match h.cmd ring index with
    | none => h
    | some c =>
      let p := c.f 0x18 1
      let want := c.lambdaMask
      let fin (h : Hw) (n : Nat) : Hw :=
        (h.setCmd ring index fun c => { c with range := c.range + n }).finishCmd ring index (if n = 0 then stOk else stOkCounted) 0
      match c.work, h.linkOf p (BitVec.ofNat 18 (c.f 0x1C 4)) with
      | .lambda failed, some l =>
        let k := h.link p l
        let fail (h : Hw) (i : Nat) : Hw := h.setCmd ring index fun c => { c with work := .lambda (lambdaIns failed i) }
        if k.state != .up then h
        else match (lambdas (k.tx &&& ~~~want &&& ~~~failed)).head? with
        | some i => if k.unacked.isSome then h else h.startChange p l false i (some (ring, index)) none
        | none =>
          match (lambdas (want &&& ~~~k.tx &&& ~~~failed)).head? with
          | none => fin h (lambdaCount (want &&& ~~~k.tx) + lambdaCount (failed &&& ~~~want))
          | some i =>
            if k.unacked.isSome then h
            else if k.legacy then Hw.lambdaNext f (fail h i) ring index
            else match (engineLinks p).find? fun x => x != (p, l) && (h.link x.1 x.2).valid && (h.link x.1 x.2).lit.getLsbD i with
            | some x =>
              let d := h.link x.1 x.2
              if d.free && decide (d.min < d.count) && d.ctrl != i && h.mayUse p i true then h.startChange x.1 x.2 false i (some (ring, index)) (some (p, l))
              else Hw.lambdaNext f (fail h i) ring index
            | none =>
              if !h.mayUse p i false then Hw.lambdaNext f (fail h i) ring index
              else h.startChange p l true i (some (ring, index)) none
      | _, _ => h.finishCmd ring index stPeerGone (c.f 0x1C 4)

/-- A change of a link failed: a LAMBDA_SET goes on without it, and the engine's own drops go on (R252, R255). A λ that could not join is not
sought again before the link is looked at for another reason (log 50). -/
def Hw.lambdaFailed (h : Hw) (p l : Nat) (c : Change) : Hw :=
  match c.cmd with
  | none => h.trim p l
  | some (r, i) =>
    (h.setCmd r i fun x => { x with work := match x.work with | .lambda f => .lambda (lambdaIns f c.lambda) | w => w }).lambdaNext 35 r i

/-- The step-5 reason of a LAMBDA_SET (R11, R258). -/
def Hw.lambdaReason (h : Hw) (n : Nat) (c : Cmd) : Option Nat :=
  let p := c.f 0x18 1
  let peer : Coord := BitVec.ofNat 18 (c.f 0x1C 4)
  let names (x : Ctx) : Bool := x.plan.lambda.any fun e => e.port == p && e.peer == some peer
  if (h.ctx n).plan.expert = false then some 0x0105
  else match h.linkOf p peer with
  | none => some 0x0903
  | some l =>
    let k := h.link p l
    let add := c.lambdaMask &&& ~~~k.tx
    let starved := (engineLinks p).any fun x =>
      x != (p, l) && (h.link x.1 x.2).valid && decide (lambdaCount ((h.link x.1 x.2).tx &&& ~~~add) < (h.link x.1 x.2).min) &&
      ((h.link x.1 x.2).tx &&& add) != 0
    if h.ctxs.any fun x => x.state != .free && !x.plan.expert && names x then some 0x0901
    else if starved then some 0x0902
    else if k.state != .up then some 0x0903
    else none

/-- LAMBDA_SET. While another change of the link is pending, it waits. -/
def execLambdaSet (ring : Nat) (index : W32) (s : State) : Host.Outcome State Fault Refusal :=
  act (fun h => h.onCmd ring index 0x32 fun c =>
    if c.work != .idle then
      -- a change that an outage abandoned leaves the command to go on (R255)
      (if (allLinks.any fun x => match (h.link x.1 x.2).change with | some y => y.cmd == some (ring, index) | none => false) then h
       else h.lambdaNext 35 ring index)
    else match h.lambdaReason (h.ring ring).ctx c with
    | some x => h.conflict ring index x
    | none =>
      match h.linkOf (c.f 0x18 1) (BitVec.ofNat 18 (c.f 0x1C 4)) with
      | none => h
      | some l =>
        if (h.link (c.f 0x18 1) l).change.isSome || (h.link (c.f 0x18 1) l).unacked.isSome then h
        else (h.setCmd ring index fun c => { c with work := .lambda 0, phase := .blocked }).lambdaNext 35 ring index) s

/-! ## The handshakes (R254, R255) -/

def ctrlLambda (c : Ctrl) : Nat := bits c.arg0.toNat 5 0

/-- Answer a LAMBDA_ADD or LAMBDA_DROP with its own arguments. -/
def Hw.echo (h : Hw) (p l op : Nat) (c : Ctrl) (reason : Nat) : Hw := h.sendCtrl p l op c.arg0.toNat reason 0 0

/-- The receiver takes frames of either LSET from now on, those of a new LSET on a new set (R254). A set that was still to come is in force
first. -/
def Link.nextRx (k : Link) (lset : Nat) (set : LambdaSet) : Link :=
  let k := match k.rxNext with | some x => { k with rx := x.2, rxLset := x.1 } | none => k
  { k with rxNext := some (lset, set) }

/-- The receive set of a link once the change under way is in force. -/
def Link.rxLast (k : Link) : LambdaSet := match k.rxNext with | some x => x.2 | none => k.rx

/-- Whether a receive channel is free for one more λ of a link: none of another link of the engine has it, and 32 are active (R231). -/
def Hw.rxRoom (h : Hw) (p l i : Nat) : Bool :=
  let o := h.rxOthers p l
  !o.getLsbD i && decide (lambdaCount o + lambdaCount (lambdaIns (h.link p l).rxLast i) ≤ 32)

/-- LAMBDA_ADD: `acquired` says whether a receive channel that is free was steered to the λ and acquired it. A legacy link has no lending
(R257). -/
def execLambdaAdd (fport link : Nat) (c : Ctrl) (acquired : Bool) (s : State) : Host.Outcome State Fault Refusal :=
  act (fun h => h.ctrlIn fport link 0x09 c fun h =>
    let k := h.link fport link
    let i := ctrlLambda c
    if k.legacy then h
    else if k.state != .up then h.echo fport link 0x0D c 3
    else if k.change.isSome then h.echo fport link 0x0D c 2
    else if !acquired || !h.rxRoom fport link i then h.echo fport link 0x0D c 1
    else (h.setLink fport link fun k => k.nextRx (bits c.arg0.toNat 9 8) (lambdaIns k.rxLast i)).echo fport link 0x0A c 0) s

/-- LAMBDA_DROP. -/
def execLambdaDrop (fport link : Nat) (c : Ctrl) (s : State) : Host.Outcome State Fault Refusal :=
  act (fun h => h.ctrlIn fport link 0x0B c fun h =>
    let k := h.link fport link
    if k.legacy then h
    else if k.state != .up then h.echo fport link 0x0D c 3
    else (h.setLink fport link fun k => k.nextRx (bits c.arg0.toNat 9 8) (lambdaDel k.rxLast (ctrlLambda c))).echo fport link 0x0C c 0) s

/-- A change is acknowledged: the new set is in force for frames from the switch SEQ on. A λ that is lent is no longer the donor's from
the acknowledgement on (R254, R255). -/
def Hw.applyChange (h : Hw) (p l : Nat) (c : Change) : Hw :=
  h.setLink p l fun k =>
    { k with tx := if c.add then lambdaIns k.tx c.lambda else lambdaDel k.tx c.lambda
             oldSet := if c.lend.isSome || k.nextSeq == c.switchSeq then none else some (c.switchSeq, k.force), lset := c.lset, change := none
             lostLines := if c.add then lambdaDel k.lostLines c.lambda else k.lostLines, dropping := lambdaDel k.dropping c.lambda }

/-- After a change: a lent λ joins the borrower, the command that waits goes on, and bounds and caps are looked at again. A λ lent
automatically stays in the pool where the borrower has reached its MAX meanwhile (R253). -/
def Hw.afterChange (h : Hw) (p l : Nat) (c : Change) : Hw :=
  match c.lend with
  | some x =>
    let k := h.link x.1 x.2
    if k.free && (c.cmd.isSome || decide (k.count < k.max)) then (h.startChange x.1 x.2 true c.lambda c.cmd none).trim p l
    else (h.lambdaFailed x.1 x.2 c).trim p l
  | none =>
    match c.cmd with
    | some (r, i) => (h.lambdaNext 35 r i).trim p l
    | none => (h.trim p l).refill p l (if c.add then none else some c.lambda)

/-- The pending change of a link that a control frame answers. -/
def Link.answered (k : Link) (add : Bool) (c : Ctrl) : Option Change :=
  match k.change with
  | some x => if x.add = add ∧ x.lambda = ctrlLambda c ∧ bits c.arg0.toNat 9 8 = x.lset then some x else none
  | none => none

/-- LAMBDA_ADD_ACK. -/
def execLambdaAddAck (fport link : Nat) (c : Ctrl) (s : State) : Host.Outcome State Fault Refusal :=
  act (fun h => h.ctrlIn fport link 0x0A c fun h =>
    match (h.link fport link).answered true c with
    | some x => (h.applyChange fport link x).afterChange fport link x
    | none => h) s

/-- A drop past its limit is acknowledged at last: the frames that waited for it go (R254). -/
def Hw.lateAck (h : Hw) (p l : Nat) (c : Ctrl) : Hw :=
  match (h.link p l).unacked with
  | some x =>
    if x.lambda = ctrlLambda c ∧ bits c.arg0.toNat 9 8 = x.lset then
      let h := (h.setLink p l fun k => { k with unacked := none }).resend p l
      (match x.cmd with | some (r, i) => h.lambdaNext 35 r i | none => h).settle p l
    else h
  | none => h

/-- LAMBDA_DROP_ACK. -/
def execLambdaDropAck (fport link : Nat) (c : Ctrl) (s : State) : Host.Outcome State Fault Refusal :=
  act (fun h => h.ctrlIn fport link 0x0C c fun h =>
    match (h.link fport link).answered false c with
    | some x => (h.applyChange fport link x).afterChange fport link x
    | none => h.lateAck fport link c) s

/-- LAMBDA_REFUSE: the change is abandoned. -/
def execLambdaRefuse (fport link : Nat) (c : Ctrl) (s : State) : Host.Outcome State Fault Refusal :=
  act (fun h => h.ctrlIn fport link 0x0D c fun h =>
    let k := h.link fport link
    match (k.answered true c).or (k.answered false c) with
    | some x => (h.dropChange fport link).lambdaFailed fport link x
    | none => h) s

/-- LAMBDA_CHANGE_TIMEOUT: the change is abandoned and counted, and its λ returns to the pool: one that was to be added, and one that was
to be dropped, which leaves the link at once (R254 says this of every change; DEDUCED, log 50). Frames wait then, because the new set is
used only after the acknowledgement, which may still come, or RESYNC. -/
def execLambdaChangeTimeout (fport link : Nat) (s : State) : Host.Outcome State Fault Refusal :=
  act (fun h =>
    match (h.link fport link).change with
    | none => h
    | some x =>
      let h := if x.add then h else h.setLink fport link fun k =>
        { k with tx := lambdaDel k.tx x.lambda, oldSet := none, lset := x.lset, dropping := lambdaDel k.dropping x.lambda
                 unacked := some { x with lend := none, cmd := if x.lend.isSome then none else x.cmd } }
      ((h.dropChange fport link).setLink fport link fun k => { k with counts := { k.counts with lendFail := satAdd k.counts.lendFail 1 } }
        ).lambdaFailed fport link x) s

/-! ## Lending (R253) -/

/-- Whether a BASIC context names a link. -/
def Hw.basicNames (h : Hw) (p l : Nat) : Bool :=
  h.ctxs.any fun c => c.state != .free && !c.plan.expert && c.plan.lambda.any fun e => e.port == p && e.peer.isSome && e.peer == (h.link p l).toward

/-- A λ of the pool that a link may take. -/
def Hw.poolLambda (h : Hw) (p l : Nat) : Option Nat :=
  let k := h.link p l
  (lambdas (k.mask &&& ~~~k.lit &&& ~~~(h.heldOthers p l))).find? fun i => h.mayUse p i false

/-- The frames that wait on a link: in its queue, and those that wait for a transit slot of it (R282). -/
def Hw.backlog (h : Hw) (p l : Nat) : Nat :=
  let k := h.link p l
  k.queue.length + ((h.outMsgs.filter fun o => !o.sent && !o.needCredit && h.linkFor o == some (p, l)).map fun o => o.total k - o.queued).sum

/-- A link of the engine that a BASIC context names, with an empty queue and more than its MIN, and the λ that it lends. -/
def Hw.lender (h : Hw) (p l : Nat) : Option ((Nat × Nat) × Nat) :=
  ((engineLinks p).filter (· != (p, l))).findSome? fun x =>
    let d := h.link x.1 x.2
    if d.valid && d.free && h.basicNames x.1 x.2 && h.backlog x.1 x.2 == 0 && decide (d.min < d.count) then
      ((lambdas (d.tx &&& (h.link p l).mask)).find? fun i => i != d.ctrl && h.mayUse p i true).map fun i => (x, i)
    else none

/-- Whether another link is already giving a λ up to this one. -/
def Hw.lendUnderWay (h : Hw) (p l : Nat) : Bool :=
  (engineLinks p).any fun x => match (h.link x.1 x.2).change with | some c => c.lend == some (p, l) | none => false

/-- Whether a link borrows: one λ at a time (R253). -/
def Hw.borrows (h : Hw) (p l : Nat) : Bool :=
  let k := h.link p l
  k.free && !h.lendUnderWay p l && h.basicNames p l && decide (64 ≤ h.backlog p l) && decide (k.count < k.max)

/-- LAMBDA_BORROW: a λ of the pool first, else one of another link of the engine with an empty queue and more than its MIN. -/
def execLambdaBorrow (fport link : Nat) (s : State) : Host.Outcome State Fault Refusal :=
  act (fun h =>
    if !h.borrows fport link then h
    else match h.poolLambda fport link with
    | some i => h.startChange fport link true i none none
    | none =>
      match h.lender fport link with
      | some (x, i) => h.startChange x.1 x.2 false i none (some (fport, link))
      | none => h) s

/-- LAMBDA_WITHDRAW. -/
def execLambdaWithdraw (fport link : Nat) (s : State) : Host.Outcome State Fault Refusal :=
  act (fun h =>
    let k := h.link fport link
    if k.free && h.basicNames fport link && decide (h.backlog fport link < 8) && decide (k.min < k.count) then
      match k.highest with
      | some i => h.startChange fport link false i none none
      | none => h
    else h) s

/-! ## λ that fail (R255, R265) -/

/-- A λ leaves a link for good (R255, R265): at once where the link is not UP, else by `lossStep`, behind a change that is under way. -/
def Hw.loseLambda (h : Hw) (p l i : Nat) : Hw :=
  let k := h.link p l
  if !k.tx.getLsbD i then (match k.change with | some c => if c.add ∧ c.lambda = i then h.dropChange p l else h | none => h)
  else if k.state != .up || k.legacy then h.darkLambda p l i
  else if k.ctrl = i ∧ k.pausing.isSome then (h.dropChange p l).setLink p l fun k => { k with darken := some i }
  else (h.setLink p l fun k => { k with dropping := lambdaIns k.dropping i }).lossStep p l

/-- NACK_CRC (R238, R255): frames before the expected one count as acknowledged and the rest go again; the λ named in 16 of them
within 1 ms is dropped, with LAMBDA_DEGRADED. -/
def execNackCrc (fport link : Nat) (c : Ctrl) (s : State) : Host.Outcome State Fault Refusal :=
  act (fun h => h.ctrlIn fport link 0x05 c fun h =>
    let e : W16 := BitVec.ofNat 16 (bits c.arg0.toNat 15 0)
    let i := bits c.arg0.toNat 21 16
    let h := (h.setLink fport link fun k => { k with replay := ackBefore e k.replay }).resend fport link
    if 34 ≤ i then h
    else
      let x := h.noteNack fport link i
      if x.1 < 16 ∨ (h.link fport link).tx.getLsbD i = false then x.2
      else
        ((x.2.setLink fport link fun k => { k with nacks := k.nacks.filter (·.1 != i) }).evMod 0x0306 (srcPort fport) (link + 4 * i) 0
          ).loseLambda fport link i) s

/-! ## Links that come UP (R243, R245, R250) -/

/-- The coordinates of the module with a UID, as a HELLO or a fence entry has named them. -/
def Hw.coordOf (h : Hw) (u : W64) : Option Coord :=
  ((allLinks.findSome? fun x => let k := h.link x.1 x.2; if k.valid && k.uid == u then k.peer else none)).or
    ((h.fences.find? fun f => f.uid == u).map (·.coord))

/-- Whether the identification of a λ, a UID and a port, is that of another peer than the one the λ destination table names, as far as its
coordinates are known (R244). -/
def Hw.offPlan (h : Hw) (p l : Nat) (u : W64) : Bool :=
  match (h.link p l).named, h.coordOf u with | some c, some d => c != d | _, _ => false

/-- Whether it is that of another peer than the link's. Of a link with no state kept, and of one to which a switch has joined another
module, so that no λ identifies the old peer, the peer is the one that its control λ identifies (R244, R459; DEDUCED, log 50). -/
def Link.otherPeer (k : Link) (moved : Bool) (lead : Option (W64 × Nat)) (u : W64) (port : Nat) : Bool :=
  if k.kept && !moved then !(u == k.uid && port == k.peerPort) else some (u, port) != lead

/-- Whether a HELLO_ACK comes from another peer than the λ destination table names. -/
def Link.wrongPeer (k : Link) (c : Ctrl) : Bool :=
  match k.named with
  | some d => let co := bits c.arg2.toNat 31 0; co != 0xFFFFFFFF && co != coordNat d
  | none => false

/-- HELLO_ACK (R243-R245, R252, R377): a link in HELLO with a common version and a peer that is not fenced comes UP, on its MIN lowest λ. One
whose HELLO_ACK names other coordinates than the λ destination table is miswired, control λ and all, and does not come up: the event is
written once for an incarnation. LINK_UP shows 0xFFFFFFFF for coordinates that are not known (DESIGN CHOICE; log 50). -/
def execHelloAck (fport link : Nat) (c : Ctrl) (s : State) : Host.Outcome State Fault Refusal :=
  act (fun h => h.ctrlIn fport link 0x02 c fun h =>
    let k := h.link fport link
    if k.state != .hello then h
    else if !k.agrees c then h.mismatch fport link c
    else if h.uidFenced c.arg1 then h
    else if k.wrongPeer c then
      if k.miswireTold then h
      else (h.setLink fport link fun k => { k with miswireTold := true }).evMod 0x0305 (srcPort fport) k.rxCtrl c.arg1.toNat
    else
      let h := (h.notePeer fport link c).light fport link
      let h := h.setLink fport link fun k => { k with state := .up, kept := true, lset := 0 }
      let k := h.link fport link
      let h := h.evMod 0x0301 (srcPort fport) (link + 4 * k.ctrl + 2 ^ 32 * (match k.peer with | some c => coordNat c | none => 0xFFFFFFFF)) k.uid.toNat
      (h.miswired fport link).settle fport link) s

/-- The link is UP by the state it kept: what the peer has counts as acknowledged, the rest goes again, and the peer's set is received on the
λ that are there. RESYNC is sent where this side has not sent it yet (R245, R269). -/
def Hw.resync (h : Hw) (p l : Nat) (c : Ctrl) : Hw :=
  let k := h.link p l
  let s : LambdaSet := c.arg3.setWidth 34
  let h := h.adoptRx p l (if k.state == .training then s &&& k.rx else s) (bits c.arg3.toNat 35 34) (bits c.arg3.toNat 41 36)
  let h := h.setLink p l fun k =>
    { k with state := if k.state == .paused then .paused else .up, deadTimer := false
             pauseFor := if k.state == .paused then k.pauseFor else none, fromPause := false, change := none, resynced := false, heldResync := none, unacked := none
             replay := ackBefore (BitVec.ofNat 16 (bits c.arg0.toNat 15 0)) k.replay }
  let h := if k.resynced then h else h.sendResync p l
  (h.resend p l).settle p l

/-- Whether a RESYNC comes from the peer and the incarnation that a link knows. -/
def Link.knows (k : Link) (c : Ctrl) : Bool := c.arg1 == k.uid && bits c.arg2.toNat 47 32 == k.peerIncarnation.toNat

/-- RESYNC of a trained link whose state is kept: it comes UP, or is dead and starts again as a new one on the λ that it receives (R245,
R459). -/
def Hw.takeResync (h : Hw) (p l : Nat) (c : Ctrl) : Hw :=
  let k := h.link p l
  if k.knows c then h.resync p l c
  else
    let h := (h.setLink p l fun k => { k with state := .dark }).deadEffects p l
    ((h.setLink p l fun d => { d with rx := k.rx, rxCtrl := k.rxCtrl }).light p l).enterHello p l

/-- RESYNC (R245): the link comes UP by the state it kept, or starts again as a new one, once it is trained itself. A link that never left
UP, whose peer lost its carrier alone, resynchronises in the same way (R269; DEDUCED, log 50). -/
def execResync (fport link : Nat) (c : Ctrl) (s : State) : Host.Outcome State Fault Refusal :=
  act (fun h => h.ctrlIn fport link 0x03 c fun h =>
    let k := h.link fport link
    if k.state == .training && k.kept then
      if k.resynced then h.takeResync fport link c else h.setLink fport link fun k => { k with heldResync := some c }
    else if (k.state == .up || k.state == .paused) && k.knows c then h.resync fport link c
    else h) s

/-- TRAINING_COMPLETE (R244, R245): `ids` holds the UID and port that each λ identifies. The λ that identify another peer are not used;
the link comes up on the rest, and not at all where its control λ is one of them. The lowest λ present takes the role of an absent
control λ. A RESYNC that came before acts now. -/
def execTrainingComplete (fport link : Nat) (present : LambdaSet) (ids : List (Nat × W64 × Nat)) (s : State) :
    Host.Outcome State Fault Refusal :=
  act (fun h =>
    let k := h.link fport link
    if k.state != .training then h
    else
      let here := ids.filter fun (x : Nat × W64 × Nat) => present.getLsbD x.1
      let ctrl := if present.getLsbD k.rxCtrl then k.rxCtrl else (lambdas present).headD 0
      let lead := ((here.find? fun (x : Nat × W64 × Nat) => x.1 == ctrl).or here.head?).map (·.2)
      let moved := k.kept && !here.any fun (x : Nat × W64 × Nat) => x.2 == (k.uid, k.peerPort)
      let bad := here.filter fun (x : Nat × W64 × Nat) => k.otherPeer moved lead x.2.1 x.2.2 || h.offPlan fport link x.2.1
      let h := bad.foldl (fun h x => h.evMod 0x0305 (srcPort fport) x.1 x.2.1.toNat) h
      let rx := h.steer fport link ((bad.map (·.1)).foldl lambdaDel present)
      if rx = 0 ∨ bad.any (fun (x : Nat × W64 × Nat) => x.1 == ctrl) = true then h
      else
        let h := h.setLink fport link fun k => { k with rx := rx, rxCtrl := ctrl }
        if !k.kept then h.enterHello fport link
        else
          let h := (h.sendResync fport link).setLink fport link fun k => { k with resynced := true, heldResync := none }
          match k.heldResync with
          | some c => h.takeResync fport link c
          | none => h) s

/-- RESUME. -/
def execResume (fport link : Nat) (c : Ctrl) (s : State) : Host.Outcome State Fault Refusal :=
  act (fun h => h.ctrlIn fport link 0x08 c fun h =>
    let k := h.link fport link
    if k.state == .paused && !k.noCarrier then
      (h.setLink fport link fun k => { k with state := .up, pauseFor := none }).settle fport link
    else h) s

end Sys2Proof.Machine
end

