-- ==== Sys2Proof/Machine/Plan.lean ====
section
/-! DEFINITION. The job plan: its header and sections, and the checks of an OPEN (03 R75, R76, R78; 08 R206; 09 R251;
11 R275-R277, R284; 12 R300, R301, R307, R310; 13 R332; log 29). -/

namespace Sys2Proof.Machine

/-! ## Sections (R76) -/

/-- The bytes of a plan: an offset and a count. -/
abbrev PlanRd := Nat → Nat → List Byte

def PlanRd.n (rd : PlanRd) (off k : Nat) : Nat := leNat (rd off k)

/-- Offset and length of section i: 0 TOPOLOGY, 1 LAMBDA, 2 TRAINING, 3 SEQUENCE, 4 EXPORTS, 5 IMPORTS. -/
def PlanRd.sec (rd : PlanRd) (i : Nat) : Nat × Nat := (rd.n (0x30 + 8 * i) 4, rd.n (0x34 + 8 * i) 4)

/-- Whether a section's length is one its chapter gives. -/
def secLenOk (i n : Nat) : Bool :=
  let u := [88, 16, 272, 16, 32, 32].getD i 1
  n % u == 0 && decide (n ≤ u * [1, 96, 1, 1, 16, 16].getD i 1)

/-- Whether a section lies inside the plan, behind the header. -/
def secInside (s : Nat × Nat) : Bool := decide (256 ≤ s.1) && decide (s.1 + s.2 ≤ 65536)

/-- The bytes of a section that is present, of a right length and inside the plan; none of any other. -/
def PlanRd.body (rd : PlanRd) (i : Nat) : Option (List Byte) :=
  let s := rd.sec i
  if s.2 != 0 && secLenOk i s.2 && secInside s then some (rd s.1 s.2) else none

/-- Failures of the sections' places (R75, R76). -/
def PlanRd.secBad (rd : PlanRd) : List (Bool × Nat) :=
  let six := List.range 6
  (six.map fun i => let s := rd.sec i; (s.2 != 0 && !secLenOk i s.2, 0x34 + 8 * i)) ++
  (six.map fun i => let s := rd.sec i; (s.2 != 0 && !secInside s, 0x30 + 8 * i)) ++
  (six.flatMap fun i => (six.filter fun j => decide (i < j)).map fun j =>
    let a := rd.sec i
    let b := rd.sec j
    (a.2 != 0 && b.2 != 0 && decide (a.1 < b.1 + b.2) && decide (b.1 < a.1 + a.2), 0x30 + 8 * i))

/-- Move checks to a section's place. -/
def shift (o : Nat) (cs : List (Bool × Nat)) : List (Bool × Nat) := cs.map fun (x : Bool × Nat) => (x.1, o + x.2)

/-- The check that masked bytes are zero, at the first that is not. -/
def maskCheck (o : Nat) (bs : List Byte) (ms : List (Nat × Nat)) : List (Bool × Nat) :=
  match firstMasked bs ms with
  | some k => [(true, o + k)]
  | none => []

/-! ## TOPOLOGY (R275, R276) -/

/-- The single-module topology. -/
def Topology.single : Topology :=
  { bytes := zeros 4 ++ [1, 1, 1] ++ zeros 9 ++ List.replicate 24 0xFF ++ zeros 32 }

/-- A topology from bytes 0x00-0x47; absent board slots have no coordinates. -/
def parseTopology (bs : List Byte) (present : Nat) : Topology :=
  { self := BitVec.ofNat 18 (fld bs 0 4), lens := (fld bs 4 1, fld bs 5 1, fld bs 6 1), twinSet := (fld bs 7 1).testBit 0
    twistX := fld bs 8 1, twistY := fld bs 9 1, twin := BitVec.ofNat 18 (fld bs 0xC 4)
    portDir := (List.range 48).map fun p => if p % 2 = 0 then fld bs (0x10 + p / 2) 1 % 16 else fld bs (0x10 + p / 2) 1 / 16
    board := (List.range 8).map fun s => if present.testBit s then some (BitVec.ofNat 18 (fld bs (0x28 + 4 * s) 4)) else none
    bytes := bs.take 0x48 }

/-- Whether a section gives its topology itself. -/
def topoExplicit (bs : List Byte) : Bool := fld bs 0 4 != 0xFFFFFFFF

def topoMasks (bs : List Byte) (present : Nat) : List (Nat × Nat) :=
  (if topoExplicit bs then
    [(2, 0xFC), (3, 0xFF), (7, 0xFE)] ++ span 0xA 0xB ++
    (if (fld bs 7 1).testBit 0 then [(0xE, 0xFC), (0xF, 0xFF)] else span 0xC 0xF) ++
    ((List.range 8).flatMap fun s =>
      if present.testBit s then [(0x2A + 4 * s, 0xFC), (0x2B + 4 * s, 0xFF)] else span (0x28 + 4 * s) (0x2B + 4 * s))
  else span 4 0x47) ++ onlyIf (fld bs 0x48 8 == 0) (span 0x50 0x57)

def lenOf (l : Nat × Nat × Nat) (a : Nat) : Nat := if a = 0 then l.1 else if a = 1 then l.2.1 else l.2.2
def coordOf (c : Coord) (a : Nat) : Nat := if a = 0 then Coord.x c else if a = 1 then Coord.y c else Coord.z c

/-- Whether an axis' length is in its own range. -/
def axisOk (l : Nat × Nat × Nat) (a : Nat) : Bool := decide (1 ≤ lenOf l a) && decide (lenOf l a ≤ 64)

/-- The first axis whose length a coordinate is not below; a length out of its own range is no part of the relation (R75). -/
def overAxis (l : Nat × Nat × Nat) (c : Coord) : Option Nat := [0, 1, 2].find? fun a => axisOk l a && decide (lenOf l a ≤ coordOf c a)

/-- The checks of an explicit topology: of each field, and of the relations among them, at the lowest field (R75, R276). -/
def topoBad (bs : List Byte) (present : Nat) (slot : Option Nat) : List (Bool × Nat) :=
  let t := parseTopology bs present
  let lens := [0, 1, 2].map fun a => (!axisOk t.lens a, 4 + a)
  let dirs := (List.range 48).map fun p => let d := t.portDir.getD p 15; (decide (6 < d) && d != 15, 0x10 + p / 2)
  let carry := [(fld bs 0x48 8 % (2 * mib) != 0, 0x48), (fld bs 0x50 8 % (2 * mib) != 0, 0x50)]
  let past (c : Coord) : List (Bool × Nat) := match overAxis t.lens c with | some a => [(true, 4 + a)] | none => []
  let relations :=
    [((overAxis t.lens t.self).isSome, 0), (axisOk t.lens 1 && decide (lenOf t.lens 1 ≤ t.twistX), 5),
     (axisOk t.lens 2 && decide (lenOf t.lens 2 ≤ t.twistY), 6),
     (t.twinSet && t.twin == t.self, 0)] ++
    (if t.twinSet then past t.twin else []) ++
    ((List.range 48).map fun p =>
      let d := t.portDir.getD p 15
      (decide (1 ≤ d) && decide (d ≤ 6) && axisLen t d == 1, 4 + (d - 1) / 2)) ++
    ((List.range 8).flatMap fun s => match t.board.getD s none with | some c => past c | none => []) ++
    ((List.range 8).flatMap fun s => (List.range s).map fun r =>
      ((t.board.getD r none).isSome && t.board.getD r none == t.board.getD s none, 0x28 + 4 * r)) ++
    (match slot with
     | some s => [((t.board.getD s none).isSome && t.board.getD s none != some t.self, 0)]
     | none => [])
  if topoExplicit bs then lens ++ dirs ++ carry ++ relations else carry

/-! ## LAMBDA (R251) -/

def parseLambda (bs : List Byte) : List LambdaEntry :=
  (List.range (bs.length / 16)).map fun i =>
    { port := fld bs (16 * i) 1, legacy := (fld bs (16 * i + 1) 1).testBit 0, min := fld bs (16 * i + 2) 1, max := fld bs (16 * i + 3) 1
      peer := some (BitVec.ofNat 18 (fld bs (16 * i + 4) 4)), mask := BitVec.ofNat 34 (fld bs (16 * i + 8) 8) }

def lambdaMasks (n : Nat) : List (Nat × Nat) :=
  (List.range n).flatMap fun i => [(16 * i + 1, 0xFE), (16 * i + 6, 0xFC), (16 * i + 7, 0xFF), (16 * i + 12, 0xFC)] ++ span (16 * i + 13) (16 * i + 15)

/-- The default link of a port: whatever peer answers, 16 λ and the two spares. -/
def defaultMask (p : Nat) : LambdaSet := if p % 2 = 0 then 0x30000FFFF#34 else 0x3FFFF0000#34
def defaultLambda : List LambdaEntry :=
  (List.range 48).map fun p => { port := p, legacy := false, min := 16, max := 16, peer := none, mask := defaultMask p }

/-- The checks of the entries, each relation at its lowest field in the lowest entry concerned. -/
def lambdaBad (es : List LambdaEntry) : List (Bool × Nat) :=
  let ix := es.zipIdx
  ix.flatMap fun (x : LambdaEntry × Nat) =>
    let e := x.1
    let o := 16 * x.2
    let mates := ix.filter fun (y : LambdaEntry × Nat) => y.1.port == e.port
    let later := mates.filter fun (y : LambdaEntry × Nat) => decide (x.2 < y.2)
    let engine := ix.filter fun (y : LambdaEntry × Nat) => decide (y.1.port / 2 = e.port / 2)
    let first (l : List (LambdaEntry × Nat)) : Bool := l.all fun (y : LambdaEntry × Nat) => decide (x.2 ≤ y.2)
    let inRange := decide (1 ≤ e.min) && decide (e.min ≤ 32)
    [(decide (47 < e.port), o), (!inRange, o + 2), (decide (32 < e.max), o + 3),
     (inRange && decide (e.max ≤ 32) && decide (e.max < e.min), o + 2), (decide (lambdaCount (e.mask &&& 0xFFFFFFFF#34) < e.max), o + 3),
     (first mates && decide (4 < mates.length), o), (later.any fun (y : LambdaEntry × Nat) => y.1.mask &&& e.mask != 0, o + 8),
     (first engine && decide (32 < (engine.map fun (y : LambdaEntry × Nat) => y.1.min).sum), o + 2),
     (e.legacy && !(e.min == 4 && e.max == 4 && e.mask == 0xF#34), o + 1),
     (first mates && decide (1 < mates.length) && mates.any fun (y : LambdaEntry × Nat) => y.1.legacy, o),
     (e.legacy && engine.any fun (y : LambdaEntry × Nat) => decide (x.2 < y.2) && y.1.legacy, o + 1)]

/-- The MIN that one engine needs for all links that plans name: each link once, at its largest MIN. -/
def minSum (es : List LambdaEntry) (e : Nat) : Nat :=
  let mine := es.filter fun (x : LambdaEntry) => x.port / 2 == e
  let keys := (mine.map fun (x : LambdaEntry) => (x.port, x.peer)).eraseDups
  (keys.map fun k => (mine.filter fun (x : LambdaEntry) => (x.port, x.peer) == k).foldl (fun m x => max m x.min) 0).sum

/-- Whether two entries put a legacy and another link on one port, or two legacy links on one engine, whichever contexts name them (R13,
R251). -/
def mixesModes (x y : LambdaEntry) : Bool :=
  let same := x.port == y.port && x.peer == y.peer && x.legacy == y.legacy
  !same && ((x.port == y.port && (x.legacy || y.legacy)) || (x.port / 2 == y.port / 2 && x.legacy && y.legacy))

/-- LAMBDA_CONFLICT of a new plan with those of other contexts. -/
def lambdaConflict (new others : List LambdaEntry) : Bool :=
  ((List.range 24).any fun e => decide (32 < minSum (new ++ others) e)) ||
  new.any fun x => others.any fun y =>
    mixesModes x y || x.port == y.port && (if x.peer == y.peer then x.mask != y.mask else x.mask &&& y.mask != 0)

/-! ## TRAINING (R300, R301, R310) -/

def trainMasks (bs : List Byte) : List (Nat × Nat) :=
  let n := min 8 (fld bs 8 1)
  [(3, 0xFE)] ++ span 9 0xF ++
  ((List.range n).flatMap fun i =>
    let o := 0x10 + 32 * i
    let send := fld bs (o + 1) 1 == 0
    onlyIf send (span (o + 2) (o + 2)) ++ [(o + 6, 0xC0), (o + 7, 0xFF)] ++ onlyIf send (span (o + 8) (o + 0xB)) ++ span (o + 0xC) (o + 0xF) ++
    onlyIf send (span (o + 0x10) (o + 0x17)) ++ span (o + 0x18) (o + 0x1F)) ++
  span (0x10 + 32 * n) 0x10F

def signed8 (x : Nat) : Int := (BitVec.ofNat 8 x).toInt

def parseChannels (bs : List Byte) : List ChanEntry :=
  (List.range (min 8 (fld bs 8 1))).map fun i =>
    let o := 0x10 + 32 * i
    { chan := fld bs o 1, recv := fld bs (o + 1) 1 == 1, slots := fld bs (o + 2) 1, peerChan := fld bs (o + 3) 1
      peer := BitVec.ofNat 18 (fld bs (o + 4) 4), slotBytes := fld bs (o + 8) 4, bufCva := BitVec.ofNat 64 (fld bs (o + 0x10) 8) }

/-- The checks of a TRAINING section at offset `o` of the plan. `axis` is the offset of the axis lengths where the plan gives them. -/
def trainBad (o : Nat) (bs : List Byte) (lens : Nat × Nat × Nat) (axis : Option Nat) : List (Bool × Nat) :=
  let e := [0, 1, 2].map fun i => signed8 (fld bs i 1)
  let out (x : Int) : Bool := decide (x < -24) || decide (24 < x)
  let above (i j : Nat) : Bool := !out (e.getD i 0) && !out (e.getD j 0) && decide (e.getD j 0 < e.getD i 0)
  let cs := (parseChannels bs).zipIdx
  [(out (e.getD 0 0), o), (out (e.getD 1 0), o + 1), (out (e.getD 2 0), o + 2),
   (above 1 0 || above 0 2 || above 1 2, o), (decide (8 < fld bs 8 1), o + 8)] ++
  cs.flatMap fun (x : ChanEntry × Nat) =>
    let c := x.1
    let p := o + 0x10 + 32 * x.2
    [(decide (7 < c.chan), p),
     (decide (c.chan ≤ 7) && cs.any fun (y : ChanEntry × Nat) => decide (x.2 < y.2) && y.1.chan == c.chan, p),
     (decide (1 < fld bs (0x10 + 32 * x.2 + 1) 1), p + 1), (c.recv && (c.slots == 0 || decide (64 < c.slots)), p + 2),
     (decide (7 < c.peerChan), p + 3),
     (match overAxis lens c.peer with
      | none => (false, p + 4)
      | some a => (true, match axis with | some t => min (t + 4 + a) (p + 4) | none => p + 4)),
     (c.recv && (c.slotBytes % 65536 != 0 || c.slotBytes == 0 || decide (128 * mib < c.slotBytes)), p + 8),
     (c.recv && c.bufCva.toNat % (2 * mib) != 0, p + 0x10)]

/-! ## EXPORTS and IMPORTS (R78) -/

def parseExports (bs : List Byte) : List Export :=
  (List.range (bs.length / 32)).map fun i =>
    let o := 32 * i
    { window := fld bs o 2, sync := fld bs (o + 2) 1 == 1, writable := fld bs (o + 3) 1 == 1, base := fld bs (o + 8) 8, length := fld bs (o + 16) 8 }

def windowMasks (exp : Bool) (n : Nat) : List (Nat × Nat) :=
  (List.range n).flatMap fun i =>
    let o := 32 * i
    if exp then span (o + 4) (o + 7) ++ span (o + 0x18) (o + 0x1F)
    else [(o + 2, 0xF0)] ++ span (o + 4) (o + 7) ++ span (o + 0x10) (o + 0x1F)

/-- The checks of the exports at offset `o`; `lo` and `hi` bound the exporter's objects, where they are right. -/
def exportBad (o : Nat) (bs : List Byte) (objs : Option (Nat × Nat)) : List (Bool × Nat) :=
  let es := (parseExports bs).zipIdx
  es.flatMap fun (x : Export × Nat) =>
    let e := x.1
    let p := o + 32 * x.2
    [(es.any fun (y : Export × Nat) => decide (x.2 < y.2) && y.1.window == e.window, p), (decide (1 < fld bs (32 * x.2 + 2) 1), p + 2),
     (decide (1 < fld bs (32 * x.2 + 3) 1), p + 3), (!e.sync && e.base % (2 * mib) != 0, p + 8),
     (e.length == 0 || (!e.sync && e.length % (2 * mib) != 0), p + 16)] ++
    (match objs with
     | some r => [(e.sync && (decide (e.base < r.1) || decide (r.2 ≤ e.base)), 0x20), (e.sync && decide (r.2 < e.base + e.length), p + 16)]
     | none => [])

/-- The export that an import entry names in a context that is OPEN or ACTIVE, with the rights it asks for (R78). -/
def Hw.importMatch (h : Hw) (bs : List Byte) (i : Nat) : Option Import :=
  let o := 32 * i
  let ex := fld bs (o + 2) 1 % 16
  let c := h.ctx ex
  let wr := fld bs (o + 3) 1 == 1
  if c.state == .opened || c.state == .active then
    (c.plan.exports.find? fun (e : Export) => e.window == fld bs o 2 && (e.writable || !wr)).map fun e =>
      { window := e.window, exporter := ex, exporterEpoch := c.epoch, writable := wr, sync := e.sync, localBase := fld bs (o + 8) 8
        base := e.base, length := e.length }
  else none

/-! ## The header (R76) -/

def planMasks : List (Nat × Nat) := [(2, 0xFE), (3, 0xFF)] ++ span 0x2E 0x2F ++ span 0x60 0xFF

/-- Whether the object range is right in itself. -/
def PlanRd.syncOk (rd : PlanRd) : Bool :=
  let b := rd.n 0x20 2
  let c := rd.n 0x22 2
  b % 64 == 0 && c % 64 == 0 && decide (64 ≤ c) && decide (b + c ≤ 8192)

def PlanRd.headBad (rd : PlanRd) : List (Bool × Nat) :=
  let b := rd.n 0x20 2
  let c := rd.n 0x22 2
  let countBad := c % 64 != 0 || decide (c < 64) || decide (8192 < c)
  [(decide (1 < rd.n 1 1), 1), (rd.n 4 4 == 0, 4), (b % 64 != 0, 0x20), (!countBad && decide (8192 < b + c), 0x20), (countBad, 0x22),
   (decide (rd.n 0x26 2 ≤ 256) && decide (256 < rd.n 0x24 2 + rd.n 0x26 2), 0x24), (decide (256 < rd.n 0x26 2), 0x26),
   (decide (320 < rd.n 0x2C 2), 0x2C)]

/-- A default for 0. -/
def orDefault (x d : Nat) : Nat := if x = 0 then d else x

/-! ## The checks of an OPEN (R75) -/

/-- What an OPEN found: the plan, its topology, and whether it gives the topology itself. -/
structure Opened where
  plan : Plan
  topo : Topology
  explicit : Bool
  deriving DecidableEq, Repr

/-- The topology of a plan: its own, that in force, or the single-module topology (R276). -/
def Hw.planTopo (h : Hw) (rd : PlanRd) : Topology × Bool :=
  match rd.body 0 with
  | some bs => if topoExplicit bs then (parseTopology bs h.lim.present, true) else (h.topo.getD Topology.single, false)
  | none => (h.topo.getD Topology.single, false)

/-- The first non-zero reserved field of a plan (check 2). -/
def Hw.planReserved (h : Hw) (rd : PlanRd) : Option Nat :=
  let sec (i : Nat) (ms : List Byte → List (Nat × Nat)) : List (Bool × Nat) :=
    match rd.body i with
    | some bs => maskCheck (rd.sec i).1 bs (ms bs)
    | none => []
  let imports := match rd.body 5 with
    | some bs => (List.range (bs.length / 32)).flatMap fun i =>
        match h.importMatch bs i with
        | some m => [(m.sync && m.localBase != 0, (rd.sec 5).1 + 32 * i + 8)]
        | none => []
    | none => []
  leastBad (maskCheck 0 (rd 0 256) planMasks ++ sec 0 (fun bs => topoMasks bs h.lim.present) ++ sec 1 (fun bs => lambdaMasks (bs.length / 16)) ++
    sec 2 trainMasks ++ sec 3 (fun _ => span 8 15) ++ sec 4 (fun bs => windowMasks true (bs.length / 32)) ++
    sec 5 (fun bs => windowMasks false (bs.length / 32)) ++ imports)

/-- The first field out of range or inconsistent with another (check 3). -/
def Hw.planBad (h : Hw) (rd : PlanRd) : Option Nat :=
  let t := h.planTopo rd
  let slot := if h.lim.slotValid then some h.lim.slot else none
  let sec (i : Nat) (f : List Byte → List (Bool × Nat)) : List (Bool × Nat) := match rd.body i with | some bs => f bs | none => []
  let imports (bs : List Byte) : List (Bool × Nat) :=
    (List.range (bs.length / 32)).flatMap fun i =>
      let o := (rd.sec 5).1 + 32 * i
      [(decide (1 < fld bs (32 * i + 3) 1), o + 3),
       (match h.importMatch bs i with
        | some m => (!m.sync && m.localBase % (2 * mib) != 0, o + 8)
        | none => (false, o))]
  leastBad (rd.headBad ++ rd.secBad ++
    [((rd.n 2 2).testBit 0 && (t.1.twinSet || axisOk t.1.lens 2) && ({ h with topo := some t.1 } : Hw).twin.isNone, 2)] ++
    sec 0 (fun bs => shift (rd.sec 0).1 (topoBad bs h.lim.present slot)) ++ sec 1 (fun bs => shift (rd.sec 1).1 (lambdaBad (parseLambda bs))) ++
    sec 2 (fun bs => trainBad (rd.sec 2).1 bs t.1.lens (if t.2 then some (rd.sec 0).1 else none)) ++
    sec 3 (fun bs => [(fld bs 0 8 % 256 != 0, (rd.sec 3).1), (fld bs 0 8 % 256 == 0 && fld bs 0 8 != 0 && rd.n 0x26 2 == 0, 0x26)]) ++
    sec 4 (fun bs => exportBad (rd.sec 4).1 bs (if rd.syncOk then some (rd.n 0x20 2, rd.n 0x20 2 + rd.n 0x22 2) else none)) ++
    sec 5 imports)

/-- The plan as it is copied (R76). -/
def Hw.parsePlan (h : Hw) (rd : PlanRd) : Plan :=
  let t := (rd.body 0).getD []
  let l := rd.body 1
  let tr := rd.body 2
  { expert := rd.n 1 1 == 1, twinEn := (rd.n 2 2).testBit 0, jobId := BitVec.ofNat 32 (rd.n 4 4), jobSeed := BitVec.ofNat 64 (rd.n 8 8)
    ptRoot := BitVec.ofNat 64 (rd.n 0x10 8), retainMib := rd.n 0x18 4, waitTimeoutMs := orDefault (rd.n 0x1C 4) 5000
    syncBase := rd.n 0x20 2, syncCount := rd.n 0x22 2, seqBase := rd.n 0x24 2, seqCount := rd.n 0x26 2
    quiesceMs := orDefault (rd.n 0x28 4) 5000, spReserve := rd.n 0x2C 2
    carryCva := BitVec.ofNat 64 (fld t 0x48 8), carryBytes := fld t 0x50 8
    lambda := match l with | some bs => parseLambda bs | none => defaultLambda
    lsInit := match tr with | some bs => signed8 (fld bs 0 1) | none => 16
    lsFloor := match tr with | some bs => signed8 (fld bs 1 1) | none => -24
    lsCeil := match tr with | some bs => signed8 (fld bs 2 1) | none => 24
    lsFixed := match tr with | some bs => (fld bs 3 1).testBit 0 | none => false
    lsInterval := match tr with | some bs => orDefault (fld bs 4 4) 1000 | none => 1000
    channels := match tr with | some bs => parseChannels bs | none => []
    paramCva := BitVec.ofNat 64 (fld ((rd.body 3).getD []) 0 8)
    exports := parseExports ((rd.body 4).getD [])
    imports := match rd.body 5 with
      | some bs => (List.range (bs.length / 32)).filterMap (h.importMatch bs)
      | none => [] }

/-! ## Conflicts with the module's state (check 4) -/

/-- The numbers of the contexts that are not FREE. -/
def Hw.busyCtxs (h : Hw) : List Nat := (List.range 16).filter fun n => (h.ctx n).state != .free

/-- The lowest unit at which u units of every tile's scratchpad are free (R206). -/
def Hw.spPlace (h : Hw) (u : Nat) : Option Nat :=
  if u = 0 then some 0
  else (List.range (321 - u)).find? fun b => h.busyCtxs.all fun n =>
    let c := h.ctx n
    c.plan.spReserve == 0 || decide (b + u ≤ c.spBase) || decide (c.spBase + c.plan.spReserve ≤ b)

/-- The highest base at which a retention pool fits: at the top of interleaved memory, or just below a pool that is there (R307). -/
def Hw.poolPlace (h : Hw) (bytes : Nat) : Option Nat :=
  let top := 16 * (64 - h.lim.localGib) * gib
  let pools := (h.busyCtxs.map fun n => ((h.ctx n).poolBase, (h.ctx n).poolBytes)).filter fun (x : Nat × Nat) => x.2 != 0
  let fits (b : Nat) : Bool :=
    decide (b + bytes ≤ top) && decide (top ≤ b + 256 * gib) &&
    pools.all fun (x : Nat × Nat) => decide (b + bytes ≤ x.1) || decide (x.1 + x.2 ≤ b)
  if bytes = 0 then some 0
  else (((top :: pools.map (·.1)).filter fun a => decide (bytes ≤ a) && fits (a - bytes)).map fun a => a - bytes).max?

def poolBytesOf (mibs : Nat) : Nat := (mibs + 1) / 2 * (2 * mib)

/-- The reasons for which an OPEN fails check 4, ascending. -/
def Hw.openConflict (h : Hw) (n : Nat) (rd : PlanRd) (o : Opened) : Option Nat :=
  let p := o.plan
  let others := h.busyCtxs
  let meets (a n b m : Nat) : Bool := decide (a < b + m) && decide (b < a + n)
  let importsOk := match rd.body 5 with
    | some bs => (List.range (bs.length / 32)).all fun i => (h.importMatch bs i).isSome
    | none => true
  firstBad
    [(!h.lim.slotValid || !h.lim.present.testBit h.lim.slot, 0x0110), ((h.ctx n).hold, 0x0111),
     (others.any fun m => meets p.syncBase p.syncCount (h.ctx m).plan.syncBase (h.ctx m).plan.syncCount, 0x0112),
     (p.seqCount != 0 && others.any fun m => (h.ctx m).plan.seqCount != 0 &&
       meets p.seqBase p.seqCount (h.ctx m).plan.seqBase (h.ctx m).plan.seqCount, 0x0113),
     ((h.spPlace p.spReserve).isNone || (h.poolPlace (poolBytesOf p.retainMib)).isNone, 0x0114),
     (!importsOk, 0x0115), (others.any fun m => (h.ctx m).plan.jobId == p.jobId, 0x0116),
     (o.explicit && (match h.topo with | some t => t.bytes != o.topo.bytes | none => false), 0x0118),
     (lambdaConflict p.lambda (others.flatMap fun m => (h.ctx m).plan.lambda), 0x0119)]

/-- The outcome of an OPEN's checks: what it opens, or its status and DETAIL. -/
def Hw.openChecks (h : Hw) (n : Nat) (rd : PlanRd) : Except (Nat × Nat) Opened :=
  if rd.n 0 1 ≠ 1 then .error (stBadVersion, rd.n 0 1)
  else match h.planReserved rd with
  | some k => .error (stBadReserved, k)
  | none => match h.planBad rd with
    | some k => .error (stBadDescriptor, k)
    | none =>
      let t := h.planTopo rd
      let o : Opened := { plan := h.parsePlan rd, topo := t.1, explicit := t.2 }
      match h.openConflict n rd o with
      | some k => .error (stStateConflict, k)
      | none => .ok o

end Sys2Proof.Machine
end

