-- ==== Sys2Proof/Machine/Contexts.lean ====
section
/-! DEFINITION. The life of a context: OPEN, CLOSE, teardown and the number hold, and the λ plan its opening and freeing put in
force (03 R72-R75, R90-R92; 09 R251, R252; 11 R276; log 29, log 30). -/

namespace Sys2Proof.Machine

/-! ## The λ plan in force (R251, R252; log 30) -/

/-- The links a port should have: those its contexts name, each once with the largest MIN and MAX. A port that none names keeps its default
link, unless the engine's other port is named, whose links need the engine's λ (R252; log 30). -/
def Hw.wantedLinks (h : Hw) (p : Nat) : List LambdaEntry :=
  let all := h.busyCtxs.flatMap fun n => (h.ctx n).plan.lambda
  let es := all.filter fun (e : LambdaEntry) => e.port == p
  let es := if es.isEmpty && !all.any (fun (e : LambdaEntry) => e.port / 2 == p / 2) then defaultLambda.filter fun (e : LambdaEntry) => e.port == p else es
  let merged := es.foldl (fun (l : List LambdaEntry) e =>
    if l.any fun (x : LambdaEntry) => x.peer == e.peer then
      l.map fun (x : LambdaEntry) => if x.peer = e.peer then { x with min := max x.min e.min, max := max x.max e.max } else x
    else l ++ [e]) []
  merged.take 4

/-- Whether a link that is there serves an entry. -/
def Link.serves (k : Link) (e : LambdaEntry) : Bool :=
  k.valid && k.legacy == e.legacy && k.tx &&& ~~~e.mask == 0 &&
  (match e.peer with
   | some c => k.toward == some c || k.toward.isNone
   | none => true)

/-- How well a link serves an entry: one that leads to its peer, or names none, comes first. -/
def Link.exactly (k : Link) (e : LambdaEntry) : Bool := if e.peer.isNone then k.named.isNone else k.toward == e.peer

/-- Pair the entries of a port with its links: each entry with a link's number where one serves it. -/
def Hw.pairLinks (h : Hw) (p : Nat) : List (LambdaEntry × Option Nat) :=
  let es := h.wantedLinks p
  let take (used : List Nat) (e : LambdaEntry) (good : Link → Bool) : Option Nat :=
    (List.range 4).find? fun l => !used.contains l && (h.link p l).serves e && good (h.link p l)
  let first := es.foldl (fun (x : List (LambdaEntry × Option Nat)) e =>
    x ++ [(e, take (x.filterMap (·.2)) e fun k => k.exactly e)]) []
  first.foldl (fun (x : List (LambdaEntry × Option Nat) × List Nat) y =>
    match y.2 with
    | some _ => (x.1 ++ [y], x.2)
    | none => let l := take x.2 y.1 fun _ => true; (x.1 ++ [(y.1, l)], x.2 ++ l.toList)) ([], first.filterMap (·.2)) |>.1

/-- A link made anew keeps its number's counters and the messages in reassembly, which stay until their limit (R249, R259). -/
def Link.fresh (k : Link) : Link := { reasm := k.reasm, reasmAt := k.reasmAt, reasmHeld := k.reasmHeld, counts := k.counts }

/-- Make a port's links those of the λ plan: links no entry names end as dead links do, and new ones are lit. -/
def Hw.relinkPort (h : Hw) (p : Nat) : Hw :=
  let pairs := h.pairLinks p
  let kept := pairs.filterMap (·.2)
  let h := forN 4 h fun h l =>
    if (h.link p l).valid && !kept.contains l then ((h.setLink p l fun k => { k with state := .off }).deadEffects p l).setLink p l Link.fresh else h
  let h := pairs.foldl (fun h (x : LambdaEntry × Option Nat) =>
    match x.2 with
    | some l => h.setLink p l fun k => { k with min := x.1.min, max := x.1.max, mask := x.1.mask, named := x.1.peer }
    | none => h) h
  pairs.foldl (fun h (x : LambdaEntry × Option Nat) =>
    match x.2, (List.range 4).find? fun l => !(h.link p l).valid with
    | none, some l =>
      let d := h.drawIncarnation
      let h := d.2.setLink p l fun k =>
        { k.fresh with
          valid := true, state := if (h.port p).en then .dark else .off, legacy := x.1.legacy, named := x.1.peer, mask := x.1.mask
          min := x.1.min, max := x.1.max, incarnation := d.1 }
      if (h.port p).en then h.light p l else h
    | _, _ => h) h

/-- Put the λ plan of the contexts in force: links are served in ascending port order, and those above a new MAX drop λ, and those
below a new MIN take some. -/
def Hw.relink (h : Hw) : Hw :=
  let h := forN 48 h fun h p => h.relinkPort p
  allLinks.foldl (fun h x => if (h.link x.1 x.2).valid then h.settle x.1 x.2 else h) h

/-! ## OPEN -/

def Hw.ctxCmdErr (h : Hw) (n : Nat) : Hw := h.setCtx n fun c => { c with cmdErr := true }

/-- CONTEXT_OPEN (R74, R75, R90, R373): BUSY, from either port, while the context is FREE and the module in service. -/
def execContextOpen (port ctx : Nat) (s : State) : Host.Outcome State Fault Refusal :=
  actFrom port (ctxOff ctx) (fun h =>
    let c := h.ctx ctx
    if c.state == .free && c.busy.isNone && !h.flash.oos then h.setCtx ctx fun c => { c with busy := some (port, c.planAddr.toNat) }
    else h.ctxCmdErr ctx) s

/-- An OPEN fails: its status and DETAIL, and CONTEXT_OPEN_FAILED to the port that wrote it. -/
def Hw.openFails (h : Hw) (n port : Nat) (st : Nat × Nat) : Hw :=
  let h := h.setCtx n fun c => { c with busy := none, openStatus := st.1, openDetail := st.2 }
  h.event [port] 0x0102 srcModule n (h.ctx n).epoch (st.1 + 2 ^ 32 * st.2) 0

/-- A channel as it stands at OPEN (R301, R329). -/
def ChanEntry.fresh (e : ChanEntry) : Channel :=
  { valid := true, recv := e.recv, credits := if e.recv then e.slots else 0 }

/-- The context of an OPEN that passes every check (R74, R301, R330). -/
def Hw.openAs (h : Hw) (n port : Nat) (o : Opened) : Hw :=
  let p := o.plan
  let bytes := poolBytesOf p.retainMib
  let sp := (h.spPlace p.spReserve).getD 0
  let pool := (h.poolPlace bytes).getD 0
  let h := h.setCtx n fun c =>
    { c with state := .opened, busy := none, owner := port, openStatus := stOk, openDetail := 0, plan := p, spBase := sp
             poolBase := pool, poolBytes := bytes, flush := false, expired := false, cause := 0, orphan := false, closers := []
             loss := { exp := p.lsInit }
             chans := (List.range 8).map fun k => match p.channels.find? fun (e : ChanEntry) => e.chan == k with | some e => e.fresh | none => {}
             banks := List.replicate 64 ({}, {}), carries := [], collCredits := [], agrees := [], retained := [] }
  let h := { h with
    objs := h.objs.filter fun (x : Nat × W64) => !p.ownsObj x.1
    seqs := h.seqs.zipIdx.map fun (x : SeqSlot × Nat) =>
      if p.seqBase ≤ x.2 ∧ x.2 < p.seqBase + p.seqCount then ({} : SeqSlot) else x.1 }
  let fresh := h.topo.isNone
  let h := { h with topo := h.topo.or (some o.topo) }
  let h := h.evCtx n 0x0101 srcModule p.jobId.toNat 0
  let h := h.relink
  let h := if fresh then allLinks.foldl (fun h x => if (h.link x.1 x.2).state == .up then h.miswired x.1 x.2 else h) h else h
  p.channels.foldl (fun h e => if e.recv then h.grant n e.chan else h) h

/-- PLAN_READ_DONE: the plan is read through the writing port and judged. It waits while the port is down; a read that fails, a
poisoned one and an address at or above 2^57 give PLAN_UNREADABLE (R428). -/
def execPlanReadDone (ctx : Nat) (env : Env) (s : State) : Host.Outcome State Fault Refusal :=
  act (fun h =>
    match (h.ctx ctx).busy with
    | none => h
    | some (port, a) =>
      if !(h.host port).up then h
      else
        let env := h.readEnv port a 65536 env
        let h := (h.applyEnv env).hostPoisonRead port a env
        if env.hostFail || env.hostPoison || decide (2 ^ 57 ≤ a) then h.openFails ctx port (stStateConflict, 0x0117)
        else match h.openChecks ctx (fun o k => h.hostRead port (a + o) k) with
        | .error st => h.openFails ctx port st
        | .ok o => h.openAs ctx port o) s

/-! ## CLOSE (R74, R90, R91) -/

/-- CMD CLOSE or CLOSE_FLUSH of the owning port. -/
def Hw.cmdClose (h : Hw) (port n : Nat) (flush : Bool) : Hw :=
  let c := h.ctx n
  if c.owner == port && (c.state == .opened || c.state == .active || c.state == .faulted) then h.closeCtx n flush none
  else h.ctxCmdErr n

/-- CONTEXT_CLOSE_DRAIN. -/
def execContextCloseDrain (port ctx : Nat) (s : State) : Host.Outcome State Fault Refusal :=
  actFrom port (ctxOff ctx) (fun h => h.cmdClose port ctx false) s

/-- CONTEXT_CLOSE_FLUSH. -/
def execContextCloseFlush (port ctx : Nat) (s : State) : Host.Outcome State Fault Refusal :=
  actFrom port (ctxOff ctx) (fun h => h.cmdClose port ctx true) s

/-- CONTEXT_CLOSE (R91). On a context ring it completes with OK once the context is QUIESCING; on a module ring once the target is
FREE, and a target already QUIESCING keeps its teardown. -/
def execContextClose (ring : Nat) (index : W32) (s : State) : Host.Outcome State Fault Refusal :=
  act (fun h => h.onCmd ring index 0x35 fun c =>
    if c.phase != .started then h
    else
      let w := h.ring ring
      let flush := (c.f 0x19 1).testBit 0
      if w.module then
        let n := c.f 0x18 1 % 16
        let st := (h.ctx n).state
        if st == .free || st == .closing || (h.ctx n).epoch.toNat != c.f 0x1A 1 then h.conflict ring index 0x0107
        else
          let h := h.setCmd ring index fun c => { c with phase := .blocked }
          (h.setCtx n fun c => { c with closers := c.closers ++ [(ring, index)] }).closeCtx n flush none
      else if (h.ctx w.ctx).live then (h.closeCtx w.ctx flush (some (ring, index))).finishCmd ring index stOk 0
      else h.conflict ring index 0x0101) s

/-- QUIESCE_EXPIRY (R74, R92): commands still running end ABORTED, and teardown runs in FLUSH mode. -/
def execQuiesceExpiry (ctx : Nat) (s : State) : Host.Outcome State Fault Refusal :=
  act (fun h =>
    if (h.ctx ctx).state != .quiescing then h
    else
      let h := h.setCtx ctx fun c => { c with flush := true, expired := true }
      let rs := h.ctxRings ctx
      let h := rs.foldl (fun h r => h.flushRunning r none) h
      let h := rs.foldl Hw.stopIfDrained h
      if (h.ctx ctx).state == .quiescing then h.enterClosing ctx else h) s

/-! ## Teardown (R92) -/

/-- Whether this module sends for a context as a module: as itself, or as the twin for which the context stands in or has stood in (R380). -/
def Hw.sendsAs (h : Hw) (n : Nat) (c : Coord) : Bool := c == h.self || ((h.ctx n).stoodIn && h.twin == some c)

/-- Whether a frame of this module carries a context's traffic. -/
def Hw.frameOfCtx (h : Hw) (n : Nat) (f : Frame) : Bool :=
  f.kind == 1 && f.srcCtx == n && h.sendsAs n (f.src.setWidth 18) && f.srcEpoch == (h.ctx n).epoch

/-- Frames that a message has not yet put into a link's queue. -/
def Hw.framesLeft (h : Hw) (o : OutMsg) : Nat :=
  let m := match h.linkFor o with | some x => (h.link x.1 x.2).maxLen | none => 2048
  (msgWords o.msg + m - 1) / m - o.queued

/-- FLUSH: the context's frames not yet handed to the link layer are discarded and counted. -/
def Hw.flushFrames (h : Hw) (n : Nat) : Hw :=
  let waiting := h.outMsgs.filter fun (o : OutMsg) => o.ofCtx n && !o.sent && !o.needCredit
  let queued := (allLinks.map fun x => ((h.link x.1 x.2).queue.filter (h.frameOfCtx n)).length).sum
  let count := (waiting.map h.framesLeft).sum + queued
  let h := allLinks.foldl (fun h x => h.setLink x.1 x.2 fun k => { k with queue := k.queue.filter fun f => !h.frameOfCtx n f }) h
  ({ h with outMsgs := h.outMsgs.filter fun (o : OutMsg) => !(o.ofCtx n && !o.sent) }).setCtx n fun c =>
    { c with flushed := satAdd c.flushed count }

/-- Whether an operation on its way to an object's home was issued by a context of this module. -/
def Hw.syncOfCtx (h : Hw) (n : Nat) (o : SyncOp) : Bool :=
  decide (o.source < 128) && !(h.ring o.source).module && (h.ring o.source).ctx == n

/-- Whether every step of R92 before the release is done. -/
def Hw.tornDown (h : Hw) (n : Nat) : Bool :=
  !(h.outMsgs.any fun (o : OutMsg) => o.ofCtx n && !o.sent && !o.needCredit) &&
  !(allLinks.any fun x => let k := h.link x.1 x.2; k.queue.any (h.frameOfCtx n) || k.replay.any (h.frameOfCtx n))

/-- The context's resources are released, its epoch grows, and it is FREE with its number in hold (R72-R74, R202, R206, R276, R307). A
ring still DRAINING or HALTED after QUIESCE_MS keeps its state and its waiting records: R69 has no row that moves it. -/
def Hw.freeCtx (h : Hw) (n : Nat) : Hw :=
  let closers := (h.ctx n).closers
  let p := (h.ctx n).plan
  let h := { h with
    seqs := h.seqs.zipIdx.map fun (x : SeqSlot × Nat) =>
      if p.seqBase ≤ x.2 ∧ x.2 < p.seqBase + p.seqCount then ({} : SeqSlot) else x.1
    tiles := h.tiles.map fun (t : Tile) => { t with slots := t.slots.filter fun (x : Nat × Slot) => x.2.ctx != n }
    dies := h.dies.map fun (d : Die) => { d with xlat := d.xlat.filter fun (x : XEntry) => x.ctx != n }
    outMsgs := h.outMsgs.filter fun (o : OutMsg) => !o.ofCtx n
    heldAccesses := h.heldAccesses.filter fun (x : HeldAccess) => !x.what.ofCtx n
    loose := h.loose.filter fun (o : OutMsg) => !o.ofCtx n
    binds := h.binds.filter fun (b : Binding) => b.ctx != n }
  let h := h.setCtx n fun c =>
    { planAddr := c.planAddr, cmdErr := c.cmdErr, owner := c.owner, epoch := c.epoch + 1, openStatus := c.openStatus
      openDetail := c.openDetail, discarded := c.discarded, flushed := c.flushed, hold := true, nextMsg := c.nextMsg }
  let h := if h.busyCtxs.isEmpty then { h with topo := none } else h
  let c := h.ctx n
  let h := h.evCtx n 0x0105 srcModule c.discarded.toNat c.flushed.toNat
  let h := h.relink
  closers.foldl (fun h x => h.finishCmd x.1 x.2 stOk 0) h

/-- Whether the output tiles of a context that were being drained have finished (R146), and every memory operation that it issued is
acknowledged, or has ended PEER_GONE (R92). -/
def Hw.accessesDone (h : Hw) (n : Nat) : Bool :=
  !(h.syncFlight.any (h.syncOfCtx n)) && !(h.accesses.any fun (a : Access) => a.ctx == n) &&
  !h.rings.any fun (w : WorkRing) => !w.module && w.ctx == n && !w.running.isEmpty

/-- TEARDOWN_COMPLETE (R92): first the context's memory operations, then its outbound queues, then its release. -/
def execTeardownComplete (ctx : Nat) (s : State) : Host.Outcome State Fault Refusal :=
  act (fun h =>
    if (h.ctx ctx).state != .closing || !h.accessesDone ctx then h
    else
      let h := if (h.ctx ctx).flush then h.flushFrames ctx else h
      if h.tornDown ctx then h.freeCtx ctx else h) s

/-- NUMBER_HOLD_EXPIRY (R73). -/
def execNumberHoldExpiry (ctx : Nat) (s : State) : Host.Outcome State Fault Refusal :=
  act (fun h => if (h.ctx ctx).state == .free then h.setCtx ctx fun c => { c with hold := false } else h) s

end Sys2Proof.Machine
end

