-- ==== Sys2Proof/Machine/Sequence.lean ====
section
/-! DEFINITION. The parameter records, which SEQ_SET and SEQ_RETIRE rewrite (13 R330-R336, R342; log 31). -/

namespace Sys2Proof.Machine

/-- log2(e) times 2^256, rounded down (R333; log 21). -/
def log2e256 : Nat := 0x171547652b82fe1777d0ffda0d23a7d11d6aef551bad2b4b1164a2cd9a342648f

def SeqState.code : SeqState → Nat
  | .free => 0
  | .active => 1
  | .done => 2

/-- Whether a temperature is 0 of either sign: greedy. -/
def greedy (t : W32) : Bool := t.toNat % 2 ^ 31 == 0

/-- TEMP_SCALE: log2(e) / TEMPERATURE rounded once, +0 for a greedy slot. -/
def tempScale (t : W32) : Nat :=
  if greedy t then 0 else (r32 false ((Val.fin false log2e256 (2 ^ 256)).div (v32 t))).code

/-- The FP32 code of a small whole number. -/
def wholeCode (n : Nat) : Nat := (r32 false (.fin false n 1)).code

/-- The 256 bytes of a slot's parameter record (R333). -/
def SeqSlot.record (q : SeqSlot) : List Byte :=
  toLe 4 (wholeCode q.state.code) ++ toLe 4 (wholeCode q.length) ++ toLe 4 (wholeCode (if greedy q.temperature then 1 else q.topK)) ++
  toLe 4 (tempScale q.temperature) ++ toLe 4 (wholeCode q.limit) ++ toLe 4 (wholeCode (q.seed.toNat % 65536)) ++
  toLe 4 (wholeCode (q.seed.toNat / 65536)) ++ zeros 228

/-- The writes of the records of changed slots (R333). -/
def Hw.writeRecords (h : Hw) (n : Nat) (slots : List Nat) : Run :=
  let p := (h.ctx n).plan
  let r := Run.start h 16 n false false Env.none
  if p.paramCva = 0 then r
  else slots.foldl (fun r k => r.write (p.paramCva.toNat + 256 * (k - p.seqBase)) (h.seq k).record false) r

/-- A sequence command, whose start has changed its slots, rewrites their records and ends; a record whose write does not translate ends
it, and the slots stand (R331, R333). -/
def Hw.seqRecords (h : Hw) (ring : Nat) (index : W32) (c : Cmd) : Hw :=
  match c.work with
  | .seq ks => h.endRun ring index ((h.writeRecords (h.ring ring).ctx ks).resume c) false
  | _ => h

/-- Run a SEQ_SET of an OP. -/
def Hw.onSeqSet (h : Hw) (ring : Nat) (index : W32) (op : Nat) : Hw :=
  h.onCmd ring index 0x28 fun c => if c.f 0x18 1 = op then h.seqRecords ring index c else h

/-- SEQ_SET START. -/
def execSeqSetStart (ring : Nat) (index : W32) (s : State) : Host.Outcome State Fault Refusal :=
  act (fun h => h.onSeqSet ring index 0) s

/-- SEQ_SET PARAMS. -/
def execSeqSetParams (ring : Nat) (index : W32) (s : State) : Host.Outcome State Fault Refusal :=
  act (fun h => h.onSeqSet ring index 1) s

/-- SEQ_SET ADVANCE. -/
def execSeqSetAdvance (ring : Nat) (index : W32) (s : State) : Host.Outcome State Fault Refusal :=
  act (fun h => h.onSeqSet ring index 2) s

/-- SEQ_SET FINISH. -/
def execSeqSetFinish (ring : Nat) (index : W32) (s : State) : Host.Outcome State Fault Refusal :=
  act (fun h => h.onSeqSet ring index 3) s

/-- SEQ_RETIRE. -/
def execSeqRetire (ring : Nat) (index : W32) (s : State) : Host.Outcome State Fault Refusal :=
  act (fun h => h.onCmd ring index 0x29 fun c => h.seqRecords ring index c) s

end Sys2Proof.Machine
end

