-- ==== Sys2Proof/Machine/RegRead.lean ====
section
/-! DEFINITION. What the registers of BAR0 read as (01 R32, R38; 02 R55, R71; 03 R89, R90; 05 R148; 07 R203; 08 R230; 09 R259; 10 R273;
11 R299; 12 R329; 13 R343; 14 R354; 15 R386; 16 R405; 17 R417, R422; 18 R441; 21 R464-R472). Every function takes the offset of a
32-bit word in its block. -/

namespace Sys2Proof.Machine

/-- One word of a 64-bit register, by the word's offset. -/
def half (x o : Nat) : Nat := if o % 8 = 0 then x % 2 ^ 32 else x / 2 ^ 32 % 2 ^ 32

/-! ## Rings -/

def WorkRing.word (w : WorkRing) (o : Nat) : Nat :=
  if o < 8 then half w.base.toNat o
  else if o < 0x10 then half w.dbAddr.toNat o
  else if o = 0x10 then w.log2 + 32 * b2n w.jf1 + 64 * b2n w.overlap + 128 * b2n w.skip + 256 * w.ctx + 4096 * b2n w.module + 65536 * w.cpl
  else if o = 0x14 then w.poll
  else if o = 0x1C then w.state.code + 4 * b2n w.startErr + 8 * b2n w.cmdErr + 16 * w.startCause + 256 * w.lastStatus
  else if o = 0x20 then w.head.toNat
  else if o = 0x24 then w.tailSeen.toNat
  else 0

def OutRing.word (w : OutRing) (evt : Bool) (o : Nat) : Nat :=
  if o < 8 then half w.base.toNat o
  else if o < 0x10 then half w.dbAddr.toNat o
  else if o = 0x10 then b2n w.en + 256 * w.ctx + 4096 * w.log2 + 65536 * b2n w.irqEn + 131072 * w.vector
  else if o = 0x14 then w.irqCount + 65536 * w.irqDelay
  else if o = 0x18 then b2n w.full + 2 * b2n w.headErr
  else if o = 0x20 then w.writeTail.toNat
  else if o = 0x24 then w.headSeen.toNat
  else if o = 0x28 then (if evt then w.lost.toNat else 0)
  else 0

/-- The rings region. -/
def Hw.ringsWord (h : Hw) (o : Nat) : Nat :=
  if o < 0x2000 then (h.ring (o / 0x40)).word (o % 0x40)
  else if o < 0x2400 then (h.outRing false ((o - 0x2000) / 0x40)).word false (o % 0x40)
  else if o < 0x2480 then (h.outRing true ((o - 0x2400) / 0x40)).word true (o % 0x40)
  else if o = 0x2800 then 0x0202
  else 0

/-! ## Contexts and sequence slots -/

def Channel.word (c : Channel) (o : Nat) : Nat :=
  if o = 0 then b2n c.valid + 2 * b2n c.recv + 4 * b2n c.granted + 256 * c.credits + 65536 * c.highWater
  else if o = 4 then c.stallUs.toNat
  else if o = 8 then c.msgs.toNat
  else 0

/-- Granules of a retention table in use. -/
def Ctx.granules (c : Ctx) : Nat := (c.retained.map fun (r : Retained) => r.granules.length).sum

def Hw.ctxWord (h : Hw) (n o : Nat) : Nat :=
  let c := h.ctx n
  if o < 8 then half c.planAddr.toNat o
  else if o = 0x0C then
    c.state.code + 8 * b2n c.busy.isSome + 16 * b2n c.cmdErr + 32 * c.owner + 256 * c.epoch.toNat + 65536 * c.openStatus
  else if o = 0x10 then c.openDetail
  else if o = 0x14 then c.discarded.toNat
  else if o = 0x18 then c.flushed.toNat
  else if o = 0x1C then (if c.state == .free then 0 else c.plan.jobId.toNat)
  else if o = 0x20 then 2 * b2n c.xlatBusy
  else if o = 0x24 then (if c.state == .free then 0 else c.spBase + 65536 * c.plan.spReserve)
  else if o = 0x28 then (BitVec.ofInt 8 c.loss.exp).toNat + 256 * (BitVec.ofInt 8 c.loss.stepExp).toNat + 65536 * b2n c.loss.skipVerdict + 131072 * b2n c.loss.pend
  else if o = 0x2C then c.loss.clean
  else if o = 0x30 then c.loss.decided
  else if o = 0x34 then c.loss.pendStep
  else if o = 0x38 ∨ o = 0x3C then half c.poolBase o
  else if o = 0x40 then c.retained.length + 2048 * c.granules
  else if o = 0x48 then c.retHits.toNat
  else if o = 0x4C then c.retMisses.toNat
  else if o = 0x50 then c.retEvict.toNat
  else if o = 0x54 then c.retFail.toNat
  else if o = 0x60 then b2n c.standin + 2 * b2n (c.state != .free && c.plan.twinEn && h.twin.isSome)
  else if o = 0x64 then c.twinStep.toNat
  else if 0x80 ≤ o then (c.chans.getD ((o - 0x80) / 16) {}).word (o % 16)
  else 0

/-- The context whose range holds a sequence slot. -/
def Hw.seqOwner (h : Hw) (k : Nat) : Option Nat :=
  h.busyCtxs.find? fun n => let p := (h.ctx n).plan; decide (p.seqBase ≤ k) && decide (k < p.seqBase + p.seqCount)

def Hw.seqWord (h : Hw) (k o : Nat) : Nat :=
  let q := h.seq k
  if o = 0 then q.state.code + 4 * b2n (!q.holds.isEmpty) + (match h.seqOwner k with | some n => 256 * n + 4096 | none => 0)
  else if o = 4 then q.length
  else if o = 8 then q.limit
  else q.seed.toNat

/-! ## Group masks and host bridges -/

/-- The bits of a list of numbers below n. -/
def maskOf (n : Nat) (f : Nat → Bool) : Nat := (List.range n).foldl (fun s i => if f i then s + 2 ^ i else s) 0

def Hw.bcastWord (h : Hw) (o : Nat) : Nat :=
  if o < 0x20 then h.bcast.die.getD (o / 4) 0
  else if 0x40 ≤ o ∧ o < 0x80 then half (h.bcast.port.getD ((o - 0x40) / 8) 0) o
  else if 0x100 ≤ o ∧ o < 0x200 then (h.bcast.tile.getD ((o - 0x100) / 0x20) []).getD (o % 0x20 / 4) 0
  else 0

/-- The module address of BAR2 byte 0: bits of BASE below the aperture size are ignored and read as zero (R427). -/
def HostPort.aperture (q : HostPort) : Nat := q.apertureBase / 2 ^ q.bar2Log * 2 ^ q.bar2Log * gib

def Hw.bridgeWord (h : Hw) (p o : Nat) : Nat :=
  let q := h.host p
  if o = 0 then b2n q.roDis + 2 * b2n q.failover + 65536 * q.lossMs
  else if o = 4 then
    b2n q.up + (if q.up then 2 * q.speed + 16 * q.width + 256 * b2n q.flit else 0) + 512 * b2n q.lost +
    1024 * maskOf 4 (fun s => (q.ide.getD s {}).secure) + 65536 * (h.busyCtxs.filter fun n => (h.ctx n).owner == p).length
  else if o = 8 ∨ o = 0xC then half q.aperture o
  else if o = 0x10 then b2n q.agreeValid + 2 * b2n q.agree + 4 * q.members + 2048 * q.firstDiff
  else if o = 0x100 then q.poisonRx.toNat
  else if o = 0x104 then q.poisonTx.toNat
  else 0

/-! ## Optical engines -/

def LinkState.code : LinkState → Nat
  | .off => 0
  | .dark => 1
  | .training => 2
  | .hello => 3
  | .up => 4
  | .lost => 5
  | .paused => 6

def Link.word (k : Link) (o : Nat) : Nat :=
  if o = 0 then
    k.state.code + 8 * b2n k.valid + 16 * k.force.1 + 64 * lambdaCount k.force.2 + 4096 * lambdaCount k.rx + 262144 * k.ctrl + 2 ^ 24 * b2n k.legacy
  else if o = 4 then (if k.uid = 0 then 0 else (match k.peer with | some c => c.toNat | none => 0x3FFFF))
  else if o < 0x10 then half k.uid.toNat o
  else if o < 0x18 then half k.force.2.toNat o
  else if o < 0x20 then half k.rx.toNat o
  else if o = 0x20 then k.counts.crcErr.toNat
  else if o = 0x24 then k.counts.replays.toNat
  else if o = 0x28 then k.counts.carrierLoss.toNat
  else if o = 0x2C then k.counts.reasmDiscard.toNat
  else if o = 0x30 then k.counts.lendFail.toNat
  else if o = 0x34 then k.counts.corrected.toNat
  else 0

/-- A port block with its LINK blocks. -/
def Hw.portWord (h : Hw) (p o : Nat) : Nat :=
  let q := h.port p
  if o = 0 then b2n q.en
  else if o = 8 ∨ o = 0xC then half (q.links.foldl (fun (s : LambdaSet) (k : Link) => if k.valid then s ||| k.lit else s) 0).toNat o
  else if o = 0x10 ∨ o = 0x14 then half (q.links.foldl (fun (s : LambdaSet) (k : Link) => if k.valid then s ||| k.rx ||| k.rxLast else s) 0).toNat o
  else if 0x40 ≤ o ∧ o < 0x140 then (h.link p ((o - 0x40) / 0x40)).word (o % 0x40)
  else 0

/-- A word of an optical engine's block. DEVj is rounded down to units of 0.01 dB (DESIGN CHOICE; log 37). -/
def Hw.oeWord (h : Hw) (e o : Nat) : Nat :=
  if o < 0x200 then h.portWord (2 * e) o
  else if o < 0x400 then h.portWord (2 * e + 1) (o - 0x200)
  else if 0x900 ≤ o ∧ o < 0x900 + 136 then
    let j := (o - 0x900) / 4
    (BitVec.ofInt 16 ((h.oe e).dev.getD j 0 / 10)).toNat + 65536 * b2n ((h.oe e).disabled.getLsbD j)
  else 0

/-! ## Compute dies -/

/-- Working lane groups of a mortar port. -/
def MortPort.active (m : MortPort) : Nat := (m.lanes.filter fun (l : LaneGroup) => !l.disabled).length

def MortPort.word (m : MortPort) (o : Nat) : Nat :=
  if m.lanes.isEmpty then 0
  else if o = 0 then m.active + 65536 * b2n (decide (m.active < m.lanes.length)) + 131072 * b2n m.failed
  else if o = 4 then 2 * b2n m.substEn + 256 * m.replayLimit
  else if o = 8 then m.lgsel
  else if o = 0xC then
    match m.lanes[m.lgsel]? with
    | some l => l.spares + 4 * b2n l.substDone + 8 * b2n l.disabled + 256 * l.wire0 + 65536 * l.wire1
    | none => 0x00FFFF08
  else if o = 0x10 then m.crcErr.toNat
  else if o = 0x14 then m.retrains + 65536 * m.disabledInsvc
  else 0

/-- The kind of an island (R406). -/
def islandKind : Island → Nat
  | .tile _ _ => 0
  | .fabric _ => 1
  | .mortar _ _ => 2
  | .opticalIface _ => 3
  | .hbm _ => 4
  | .bridge _ => 5
  | .keystone _ => 6
  | .optical _ => 7
  | .engineMortar _ => 2
  | .bridgeMortar _ _ => 2
  | .keystoneMortar _ _ => 2

/-- The hottest of the islands' last readings in °C, and its island's kind (R422). -/
def DieAux.hottest (a : DieAux) : Nat × Nat :=
  let x := a.temps.foldl (fun (m : Nat × Nat) (x : Island × Nat) => if m.1 < x.2 then (x.2, islandKind x.1) else m) (0, 0)
  (min 255 (x.1 / 10), x.2)

/-- The clock of a settable island at its set point under its thermal and droop levels (R417). -/
def clockNow (set level : Nat) (droop : Bool) : Nat := max 4 (set - (level + b2n droop))

/-- The slice a reduction engine holds, as RED.STATUS shows it (R299). -/
def Hw.redStatus (h : Hw) (n : Nat) : Nat :=
  match (h.die n).slice.head? with
  | none => 0
  | some (r, i) =>
    let id := match (h.cmd r i).bind Cmd.collBytes with | some b => (collKey b.1).1 | none => 0
    1 + 16 * (h.ring r).ctx + 256 * id

/-- CONTEXT of VE_STATUS, which is valid for a unit held while no drain is in progress, and reads 0 otherwise (log 9). -/
def Hw.unitCtx (h : Hw) (x : Tile) : Nat :=
  match x.unit with
  | some u => if x.draining then 0 else (h.ring u.1).ctx
  | none => 0

/-- A tile's registers (R148, R203, R422). A unit whose accesses can go is taken and finished in one step (log 9). -/
def Hw.tileWord (h : Hw) (n t o : Nat) : Nat :=
  let x := h.tile n t
  if o = 0 then
    b2n x.mxSat + 2 * b2n x.mxNan + 4 * b2n x.mxInf + 65536 * x.strips +
    (match x.strip with | some s => 8 + 256 * (h.ring s.ring).ctx | none => 0)
  else if o = 8 ∨ o = 0xC then half x.mxBusyCyc.toNat o
  else if o = 0x10 ∨ o = 0x14 then half x.mxMacCyc.toNat o
  else if o = 0x44 then b2n (x.draining || x.unit.isSome) + 2 * b2n x.draining + 256 * h.unitCtx x + 4 * b2n x.veRange + 8 * b2n x.veNan + 65536 * x.blocks
  else if o = 0x48 ∨ o = 0x4C then half (maskOf 64 fun s => x.slots.any fun (y : Nat × Slot) => y.1 == s && !y.2.broken) o
  else if o = 0x50 ∨ o = 0x54 then half x.veBusyCyc.toNat o
  else if o = 0x58 ∨ o = 0x5C then half x.veIssueCyc.toNat o
  else if o = 0x80 then clockNow (h.dieAux n).tileSet x.level x.droop + 32 * x.level + 256 * b2n x.droop + 65536 * x.tempC
  else 0

def Hw.dieWord (h : Hw) (n o : Nat) : Nat :=
  let d := h.die n
  let a := h.dieAux n
  if o < 0x200 then (d.mort.getD (o / 0x40) {}).word (o % 0x40)
  else if o = 0x400 then b2n d.hbm.ok + 2 * b2n d.hbm.training + 4 * b2n d.hbm.lost + 8 * h.lim.rate
  else if o = 0x404 then d.hbm.held .crit + 1024 * d.hbm.held .bulk + 2 ^ 20 * d.hbm.held .prefetch
  else if o = 0x408 then d.hbm.slow.toNat
  else if o = 0x40C then d.hbm.ce.toNat
  else if o = 0x410 then d.hbm.ue.toNat
  else if o = 0x420 then d.sramCe.toNat
  else if o = 0x424 then d.sramUe.toNat
  else if o = 0x430 ∨ o = 0x434 then half d.rcHits.toNat o
  else if o = 0x438 ∨ o = 0x43C then half d.rcMisses.toNat o
  else if o = 0x440 ∨ o = 0x444 then half d.rcInvals.toNat o
  else if o = 0x500 then h.redStatus n
  else if o = 0x504 then d.lateSent.toNat
  else if o = 0x508 then d.lateRcvd.toNat
  else if o = 0x50C then d.carryDrop.toNat
  else if o = 0x510 then d.transitDrop.toNat
  else if o = 0x600 then d.copyPin + 4 * d.gatherPin + 65536 * d.ceLimit
  else if o = 0x604 then d.crcLimit
  else if o = 0x608 then d.poisonRd.toNat
  else if o = 0x60C then d.poisonWr.toNat
  else if o = 0x610 then d.ctrlCe.toNat
  else if o = 0x614 then d.ueSuppressed.toNat
  else if o = 0x700 then d.retiredEngines + 256 * b2n d.spareUsed + 65536 * d.retiredTiles
  else if o = 0x704 then d.retireSel
  else if o = 0x800 then a.tileSet + 256 * a.fabSet
  else if o = 0x804 then clockNow a.fabSet a.fabLevel a.fabDroop + 32 * a.fabLevel + 256 * a.hottest.1 + 65536 * a.hottest.2
  else if o = 0x808 then a.thermalSteps.toNat
  else if o = 0x80C then a.droops.toNat
  else if 0x1000 ≤ o ∧ o < 0x2000 then half (h.obj (512 * n + (o - 0x1000) / 8)).toNat o
  else if 0x2000 ≤ o ∧ o < 0x3000 then h.tileWord n ((o - 0x2000) / 0x100) (o % 0x100)
  else 0

/-! ## Keystones -/

/-- The reset level of R361: EXPERT while a context is not FREE and every such context is EXPERT. -/
def Hw.expertLevel (h : Hw) : Bool := !h.busyCtxs.isEmpty && h.busyCtxs.all fun n => (h.ctx n).plan.expert

/-- Recoveries within the window (R371, R386). -/
def Hw.recent (h : Hw) : Nat := (h.ks.history.filter fun t => decide (h.now ≤ t + h.lim.windowS * second)).length

/-- Whether a firmware slot is valid (R395, R396). -/
def Flash.slotOk (f : Flash) (b : Bool) : Bool :=
  let i := if b then f.slotB else f.slotA
  i.present && i.valid && decide (f.rollback ≤ i.svn)

def BootState.code : BootState → Nat
  | .starting => 0
  | .ready => 1
  | .outOfService => 2
  | .recovery => 3

def Hw.fwStatus (h : Hw) : Nat :=
  let f := h.flash
  b2n (f.slotOk false) + 2 * b2n (f.slotOk true) + 4 * f.pref + 8 * b2n f.trial + 16 * b2n h.ks.reverted + 32 * b2n h.ks.fwBusy.isSome +
  64 * b2n h.ks.fwErr + 128 * b2n f.trialBooted + 256 * h.ks.fwCause + 65536 * f.rollback + 2 ^ 24 * f.slotA.svn + 2 ^ 32 * f.slotB.svn

def Hw.combMap (h : Hw) : Nat :=
  let c := h.comb
  c.groupSrc.getD 0 0 + 4 * c.groupSrc.getD 1 0 + 16 * c.groupSrc.getD 2 0 + 64 * c.spare.getD 0 + 256 * b2n c.spare.isSome +
  512 * b2n c.spareLit + 1024 * b2n c.spareReady + 2048 * b2n c.switching.isSome

/-- CSn.STATUS (R273). -/
def Hw.combStatus (h : Hw) (n : Nat) : Nat :=
  let c := h.comb
  match (List.range 3).find? fun g => c.groupSrc.getD g 4 == n with
  | some g => 1 + 4 * g + 16 + 32 * b2n (c.watch.getD g false) + 64 * lambdaCount (c.groupLost.getD g 0)
  | none =>
    if c.retest = some n then 3 + 16
    else if c.failed.contains n then 2
    else 16 * b2n (c.spare == some n && c.spareLit)

def Hw.topoShape (h : Hw) : Nat :=
  match h.topo with
  | some t => t.lens.1 + 256 * t.lens.2.1 + 65536 * t.lens.2.2 + 2 ^ 24 * t.twistX
  | none => 0

def Hw.keystoneWord (h : Hw) (o : Nat) : Nat :=
  let k := h.ks
  let x := h.ks2
  if o = 0 then k.step + 16 * k.boot.code + 64 * k.leader + 128 * k.slot + 65536 * k.readyMs
  else if o = 8 ∨ o = 0xC then half h.fwStatus o
  else if o = 0x18 ∨ o = 0x1C then half k.fwAddr.toNat o
  else if o = 0x20 ∨ o = 0x24 then half Config.moduleUid.toNat o
  else if o = 0x28 then k.dbgLevel + 4 * k.dbgPending + 32 * b2n k.dbgErr
  else if o = 0x30 ∨ o = 0x34 then half k.dbgAddr.toNat o
  else if 0x40 ≤ o ∧ o < 0x60 then (k.dbgNonce.getD ((o - 0x40) / 4) 0).toNat
  else if o = 0x60 then 2 * b2n k.keyBusy.isSome + 4 * b2n k.keyErr + 65536 * (h.flash.keys.epoch.toNat % 65536)
  else if o = 0x68 ∨ o = 0x6C then half k.keyAddr.toNat o
  else if o = 0x70 ∨ o = 0x74 then half k.keyToken.toNat o
  else if o = 0x78 then h.flash.keys.n + 16 * h.flash.keys.m
  else if o = 0x100 then h.lim.slot + 2 ^ 31 * b2n h.lim.slotValid
  else if o = 0x104 then h.lim.present
  else if o = 0x108 then h.lim.rate + 256 * h.lim.localGib
  else if o = 0x10C then h.lim.linkDeadMs + 65536 * h.lim.reasmMs
  else if o = 0x110 then (match h.topo with | some t => t.self.toNat + 2 ^ 31 | none => 0x3FFFF)
  else if o = 0x114 then h.topoShape
  else if o = 0x118 then (match h.twin with | some c => c.toNat | none => 0x3FFFF) + (match h.topo with | some t => 2 ^ 18 * t.twistY | none => 0)
  else if o = 0x120 then h.combMap
  else if o = 0x124 then h.comb.ctlGroup
  else if 0x130 ≤ o ∧ o < 0x140 then h.combStatus ((o - 0x130) / 4)
  else if o = 0x200 then h.lim.hangMs
  else if o = 0x204 then
    k.resetDomain + 256 * k.resetIndex + 131072 * b2n k.resetErr + 262144 * b2n (!k.recovery.isEmpty) + 524288 * b2n h.expertLevel
  else if o = 0x208 then h.lim.windowS + 65536 * min 3 h.recent + 262144 * b2n h.flash.noStandby
  else if o = 0x20C then b2n h.flash.oos + 256 * h.flash.oosCause + 65536 * (h.flash.oosCount % 65536)
  else if 0x210 ≤ o ∧ o < 0x230 then (h.flash.oosNonce.getD ((o - 0x210) / 4) 0).toNat
  else if o = 0x230 ∨ o = 0x234 then half (x.capAddr * 2 ^ 21 + 2 ^ 63 * b2n x.capValid) o
  else if o = 0x238 then b2n x.capAuto + 2 * b2n x.capAutoK1 + 65536 * x.capK1
  else if o = 0x300 then b2n x.highClk
  else if o = 0x304 then x.volt % 65536 + 65536 * (x.current % 65536)
  else if o = 0x308 ∨ o = 0x30C then half x.energy.toNat o
  else if o = 0x310 then x.inletT % 4096 + 65536 * (x.outletT % 4096) + 2 ^ 28 * b2n x.hot
  else 0

/-! ## BAR0 (R390, R464, R469) -/

/-- The 32-bit word at an offset of BAR0, as a port reads it. Alias windows are no part of this. -/
def Hw.word (h : Hw) (port o : Nat) : Nat :=
  if h.dark o || (h.ks.boot == .recovery && o == 0x204) then 0
  else if o < 0x10000 then h.keystoneWord o
  else if o < 0x1C000 then h.ringsWord (o - 0x10000)
  else if o < 0x1D000 then h.ctxWord ((o - 0x1C000) / 0x100) (o % 0x100)
  else if o < 0x1E000 then h.seqWord ((o - 0x1D000) / 16) (o % 16)
  else if o < 0x1F000 then h.bcastWord (o - 0x1E000)
  else if 0x20000 ≤ o ∧ o < 0x22000 then h.bridgeWord ((o - 0x20000) / 0x1000) (o % 0x1000)
  else if 0x40000 ≤ o ∧ o < 0x58000 then h.oeWord ((o - 0x40000) / 0x1000) (o % 0x1000)
  else if 0x100000 ≤ o ∧ o < 0x200000 then h.dieWord ((o - 0x100000) / 0x10000) (o % 0x10000)
  else if 0x380000 ≤ o ∧ o < 0x388000 then ((h.host port).msixDword ((o - 0x380000) / 4)).toNat
  else if 0x388000 ≤ o ∧ o < 0x388100 then maskOf 32 fun i => (h.host port).pba.contains (8 * (o - 0x388000) + i)
  else 0

/-- A read of 4 or 8 bytes. -/
def Hw.regRead (h : Hw) (port o width : Nat) : Nat :=
  if width = 8 then h.word port o + 2 ^ 32 * h.word port (o + 4) else h.word port o

end Sys2Proof.Machine
end

