-- ==== Sys2Proof/Machine/Capture.lean ====
section
/-! DEFINITION. State capture: native regions, K1 samples, CAPTURE and the automatic capture (15 R367-R370; 21 R465; log 32). -/

namespace Sys2Proof.Machine

/-! ## Sections of a native region (R369) -/

/-- The words of a block as bytes. -/
def imageOf (n : Nat) (f : Nat → Nat) : List Byte := (List.range (n / 4)).flatMap fun i => toLe 4 (f (4 * i))

/-- Bytes whose layout the manual does not give. -/
def openBytes (draw sec off n : Nat) : List Byte := (List.range n).map fun i => Config.captureByte draw sec (off + i)

/-- Whether a capture limited to a context shows a work ring, a completion ring, an event ring or a context. -/
def Hw.ringShown (h : Hw) (only : Option Nat) (o : Nat) : Bool :=
  match only with
  | none => true
  | some n =>
    if o < 0x2000 then !(h.ring (o / 0x40)).module && (h.ring (o / 0x40)).ctx == n
    else if o < 0x2400 then (h.outRing false ((o - 0x2000) / 0x40)).ctx == n
    else decide (0x2480 ≤ o)

def Hw.objShown (h : Hw) (only : Option Nat) (k : Nat) : Bool :=
  match only with
  | none => true
  | some n => (h.ctx n).plan.ownsObj k

/-- The CVAs by which an AUTO entry of a WAIT_PREFETCH names its die. -/
def Cmd.prefCvas (c : Cmd) (e : Nat) : List Nat :=
  let p := c.prefEntry e
  match p.dst with
  | some t => [t.base.toNat]
  | none => if p.src.owned then [] else [p.src.base.toNat]

/-- The commands that a copy, gather, prefetch or reduction engine works for. -/
def Hw.engineWork (h : Hw) (d n : Nat) : List (Nat × W32) :=
  if n < 6 then ((h.dieAux d).holders.filter fun x => x.1 == n).map (·.2)
  else if n = 6 then
    (List.range 128).flatMap fun r => ((h.ring r).running.filter fun (c : Cmd) =>
      c.opcode == 0x04 && c.phase == .blocked && (List.range c.prog.length).any fun e =>
        !entryEnded (c.prog.getD e (0, 0)).2 && h.execDie (h.ring r).ctx (c.prefEntry e).exec false (c.prefCvas e) == d).map fun c => (r, c.index)
  else (h.die d).slice

/-- Whether a command's work waits: it is stalled, it waits for an engine, or it has done it and awaits its acknowledgements or its end. -/
def Hw.cmdWaits (h : Hw) (x : Nat × W32) : Bool :=
  match h.cmd x.1 x.2 with
  | none => false
  | some c => c.held || c.stalled || c.wantsEngine || c.phase == .done

/-- Whether a slice has a message that it can send now: a reduction engine waits for messages, credits and links otherwise (R357). -/
def Hw.sliceMoves (h : Hw) (d : Nat) (x : Nat × W32) : Bool :=
  h.outMsgs.any fun o => o.mustOf x.1 x.2 d && !o.sent && !o.needCredit && h.reach false o.dst == .up

/-- Whether the work of an engine of a die waits on a link, on another engine, or on a message with its own limit (R357). -/
def Hw.workWaits (h : Hw) (d n : Nat) (x : Nat × W32) : Bool := h.cmdWaits x || (n == 7 && !h.sliceMoves d x)

/-- The units of work that a command of an engine has retired: the groups that a WAIT_PREFETCH has delivered there, the messages that a
slice has combined, and of a copy, gather or scatter that has ended the groups of its destination (R357, R369; log 32). -/
def Hw.progress (h : Hw) (d n : Nat) (x : Nat × W32) : Nat :=
  match h.cmd x.1 x.2 with
  | none => 0
  | some c =>
    if n = 7 then (c.slice d).pieces.length + (c.slice d).kids.length + (c.slice d).covered.length
    else if n = 6 then ((List.range c.prog.length).map fun e => if h.execDie (h.ring x.1).ctx (c.prefEntry e).exec false (c.prefCvas e) = d then (c.prog.getD e (0, 0)).1 else 0).sum
    else if c.phase != .done then 0
    else match slotTd c.tds 1 with | some t => t.groups * t.b / 32 | none => 0

/-- An engine record: STATE 0 idle, 1 busy, 2 waiting, 3 hung; the watchdog's count is 0 while the engine is idle, and is timing otherwise
(R369; log 32). -/
def Hw.engineRecord (h : Hw) (draw die n : Nat) : List Byte :=
  match (h.dieAux die).hung.find? (·.1 == n), (h.engineWork die n).head? with
  | some x, _ => x.2
  | none, none => toLe 1 n ++ zeros 255
  | none, some (r, i) =>
    let w := h.ring r
    let bytes := match h.cmd r i with | some c => c.bytes.take 64 | none => zeros 64
    toLe 1 n ++ toLe 1 (if h.workWaits die n (r, i) then 2 else 1) ++ toLe 1 w.ctx ++ [(h.ctx w.ctx).epoch] ++ toLe 4 i.toNat ++
    toLe 8 (h.progress die n (r, i)) ++ openBytes draw 4 (256 * n) 8 ++ zeros 40 ++ bytes ++ openBytes draw 4 (256 * n + 0x80) 128

/-- The optical engines of a perimeter die (R16). -/
def dieEngines (die : Nat) : List Nat :=
  match [0, 1, 2, 3, 7, 11, 15, 14, 13, 12, 8, 4].findIdx? (· == die) with
  | some j => [2 * j, 2 * j + 1]
  | none => []

/-- The sections of a die's region, with their numbers. -/
def Hw.sections (h : Hw) (draw die : Nat) (only : Option Nat) : List (Nat × List Byte) :=
  (if die = 0 then
    [(1, imageOf 0xC000 fun o => if h.ringShown only o then h.ringsWord o else 0),
     (2, imageOf 0x1000 fun o => if only.isNone || only == some (o / 0x100) then h.ctxWord (o / 0x100) (o % 0x100) else 0)]
   else []) ++
  [(3, imageOf 0x1000 fun o => if h.objShown only (512 * die + o / 8) then half (h.obj (512 * die + o / 8)).toNat o else 0),
   (4, (List.range 8).flatMap (h.engineRecord draw die)),
   (5, (List.range 16).flatMap fun t => imageOf 0x100 (h.tileWord die t) ++ openBytes draw 5 (1024 * t) 768),
   (6, imageOf 0x200 (h.dieWord die)),
   (7, toLe 4 (h.dieWord die 0x400) ++ toLe 4 (h.dieWord die 0x404) ++ zeros 504 ++ openBytes draw 7 512 16384)] ++
  (match dieEngines die with
   | [] => []
   | es => [(8, es.flatMap fun e => imageOf 0x1000 (h.oeWord e))]) ++
  [(9, (h.dieAux die).evLog.reverse.flatten ++ zeros (32 * (8192 - (h.dieAux die).evLog.length))),
   (10, openBytes draw 10 0 131072)]

/-- The native region of a die, without the zeros that fill it up to 4 MiB. -/
def Hw.region (h : Hw) (draw die trigger fault : Nat) (only : Option Nat) : List Byte :=
  let secs := h.sections draw die only
  let dir := secs.foldl (fun (x : List Byte × Nat) s =>
    (x.1 ++ toLe 2 s.1 ++ zeros 2 ++ toLe 4 x.2 ++ toLe 4 s.2.length ++ toLe 4 (crc32c s.2).toNat, x.2 + s.2.length)) ([], 0x100)
  [1] ++ toLe 1 die ++ toLe 1 trigger ++ toLe 1 fault ++ toLe 4 h.logSeq.toNat ++ toLe 8 (h.localNs (srcDie die)).toNat ++
  toLe 1 secs.length ++ zeros 15 ++ dir.1 ++ zeros (224 - dir.1.length) ++ secs.flatMap (·.2)

/-! ## K1 samples (R370) -/

/-- The 64 KiB sample of a tile: words that read as poisoned are zero and counted. -/
def Hw.k1Sample (h : Hw) (die tile off : Nat) : List Byte :=
  let k := sramKey die tile off
  let words := (List.range 8184).map fun i => if h.poisonedAt (k + 8 * i) 8 then (zeros 8, 1) else (h.memRead (k + 8 * i) 8, 0)
  let data := words.flatMap (·.1)
  [0x81] ++ toLe 1 die ++ toLe 1 tile ++ [0] ++ toLe 4 off ++ toLe 4 65472 ++ toLe 4 (crc32c data).toNat ++ toLe 4 h.logSeq.toNat ++
  toLe 4 (words.map (·.2)).sum ++ zeros 40 ++ data

/-! ## Where a capture goes -/

/-- Overwrite a range of a memory. -/
def cellBlit (m : List Host.Cell) (a : Nat) (bs : List Byte) : List Host.Cell :=
  (m.filter fun x => decide (x.1 < a)) ++ ((bs.zipIdx.map fun x => ((a + x.2, x.1) : Host.Cell)).filter fun x => x.2 != 0) ++
  (m.filter fun x => decide (a + bs.length ≤ x.1))

/-- Store bytes at an aligned module address, and clear the range's poison. -/
def Hw.storeAt (h : Hw) (a : Nat) (bs : List Byte) : Hw :=
  { h with mem := cellBlit h.mem a bs, poison := h.poison.filter fun g => decide (g < a / 32) || decide ((a + bs.length) / 32 ≤ g) }

/-- The pieces of a capture: their offsets in the area, and their bytes. -/
def Hw.captured (h : Hw) (draw trigger fault : Nat) (dies : List Nat) (native : Bool) (k1 : Option Nat) (only : Option Nat) : List (Nat × List Byte) :=
  (if native then dies.flatMap fun d =>
    let b := h.region draw d trigger fault only
    let b := b ++ zeros (4 * mib - b.length)
    [(4 * mib * d, b.take (2 * mib)), (4 * mib * d + 2 * mib, b.drop (2 * mib))] else []) ++
  (match k1 with
   | none => []
   | some off => dies.flatMap fun d => (List.range 16).map fun t => (64 * mib + (16 * d + t) * 65536, h.k1Sample d t off))

def pieceBytes (ps : List (Nat × List Byte)) : Nat := (ps.map fun (p : Nat × List Byte) => p.2.length).sum

def Hw.captureDone (h : Hw) (trigger : Nat) (dies : List Nat) (bytes : Nat) : Hw :=
  h.evMod 0x0606 srcModule (trigger + 65536 * maskOf 16 dies.contains) bytes

/-- A capture into the area at CAP_BASE. -/
def Hw.captureArea (h : Hw) (trigger fault : Nat) (dies : List Nat) (native : Bool) (k1 : Option Nat) : Hw :=
  let f := h.free
  let ps := f.2.captured f.1 trigger fault dies native k1 none
  (ps.foldl (fun h p => h.storeAt (h.ks2.capAddr * 2 ^ 21 + p.1) p.2) f.2).captureDone trigger dies (pieceBytes ps)

/-- The automatic capture (R368): trigger 1 before a die reset, 2 before a module reset, 3 before OUT_OF_SERVICE. -/
def Hw.autoCapture (h : Hw) (trigger fault : Nat) (dies : List Nat) : Hw :=
  if h.ks2.capAuto && h.ks2.capValid then
    h.captureArea trigger fault dies true (if h.ks2.capAutoK1 then some (h.ks2.capK1 * 65536) else none)
  else h

/-- What a CAPTURE of a context ring writes, and its bytes. -/
def Hw.captureRun (h : Hw) (n : Nat) (c : Cmd) (dies : List Nat) (native : Bool) (k1 : Option Nat) : Run × Nat :=
  let f := h.free
  let ps := f.2.captured f.1 0 0 dies native k1 (some n)
  (ps.foldl (fun r p => r.write (c.f 0x20 8 + p.1) p.2 false) ((Run.start f.2 16 n false false Env.none).resume c), pieceBytes ps)

/-- The dies that a CAPTURE names, whether it stores their native records, and the offset of its samples. -/
def Cmd.captureDies (c : Cmd) : List Nat :=
  let m := c.f 0x1A 2
  if m = 0 then List.range 16 else (List.range 16).filter fun d => m.testBit d
def Cmd.captureNative (c : Cmd) : Bool := (c.f 0x18 1).testBit 0
def Cmd.captureK1 (c : Cmd) : Option Nat := if (c.f 0x18 1).testBit 1 then some (c.f 0x1C 4) else none

/-- Whether the samples lie in a context's part of the scratchpads. -/
def Ctx.captureInside (x : Ctx) (k1 : Option Nat) : Bool :=
  match k1 with
  | none => true
  | some off => decide (x.spBase ≤ off / 65536) && decide (off / 65536 < x.spBase + x.plan.spReserve)

/-- CAPTURE (R367). On a module ring without a capture area it writes nothing (log 32); it waits while the HBM controllers make its writes
wait (R213, R216). -/
def execCapture (ring : Nat) (index : W32) (s : State) : Host.Outcome State Fault Refusal :=
  act (fun h => h.onCmd ring index 0x30 fun c =>
    let w := h.ring ring
    if w.module then
      if h.ks2.capValid && h.writesWait then h
      else (if h.ks2.capValid then h.captureArea 0 0 c.captureDies c.captureNative c.captureK1 else h).finishCmd ring index stOk 0
    else if !(h.ctx w.ctx).captureInside c.captureK1 then h.conflict ring index 0x0F0A
    else
      let x := h.captureRun w.ctx c c.captureDies c.captureNative c.captureK1
      if x.1.waits && x.1.fail.isNone then h
      else
        let h := (h.free.2).endRun ring index x.1 false
        if x.1.fail.isSome then h else h.captureDone 0 c.captureDies x.2) s

end Sys2Proof.Machine
end

