-- ==== Sys2Proof/Machine/Firmware.lean ====
section
/-! DEFINITION. Firmware images, slots and commands (16 R393-R397, R405; log 38). -/

namespace Sys2Proof.Machine

/-! ## Images (R394, R395) -/

/-- Whether the header fields of an image are in range and its reserved bytes zero. -/
def imageHeaderOk (b : List Byte) : Bool :=
  let n := fld b 8 4
  fld b 0 1 == 1 && fld b 1 1 == 1 && decide (fld b 2 1 ≤ 64) && n % 4096 == 0 && decide (n ≤ 8 * mib - 4096) &&
  (firstNonZero b 3 1).isNone && (firstNonZero b 0xC 4).isNone && (firstNonZero b 0xA0 0x60).isNone && (firstNonZero b 0x160 0xEA0).isNone

/-- Whether a signer's key is one that the fuses hold and have not revoked. -/
def Flash.keyKnown (f : Flash) (key : List Byte) : Bool :=
  (List.range 4).any fun i => !f.revoked.contains i && Config.fusedKeyHash i == Config.sha384 key

/-- What R395 finds of an image's header and body: the image, and ERR_CAUSE where it is refused. A body that its digest does not
match is a failure the manual gives no cause of: signature or malformed, by a free value. -/
def Flash.judge (f : Flash) (b body : List Byte) (free : Nat) : FwImage × Nat :=
  let digest := (b.drop 0x10).take 48
  let key := (b.drop 0x40).take 96
  let good : FwImage := { present := true, svn := fld b 2 1 % 128, digest := digest, valid := true, header := b, body := body }
  let bad := { good with valid := false }
  if !imageHeaderOk b then (bad, 4)
  else if !f.keyKnown key || !Config.ecdsaVerify key (Config.sha384 (b.take 0x100)) ((b.drop 0x100).take 96) then (bad, 2)
  else if Config.sha384 body != digest then (bad, if (Config.freeValue free).getLsbD 0 then 2 else 4)
  else if fld b 2 1 < f.rollback then (good, 3)
  else (good, 0)

/-! ## Slots -/

def Flash.image (f : Flash) (b : Bool) : FwImage := if b then f.slotB else f.slotA
def Flash.setImage (f : Flash) (b : Bool) (i : FwImage) : Flash := if b then { f with slotB := i } else { f with slotA := i }

/-- The slot that runs; none in RECOVERY. -/
def Hw.running (h : Hw) : Option Nat := if h.ks.boot == .recovery || decide (h.ks.step < 4) then none else some h.ks.slot

/-- The slot that STAGE fills and ACTIVATE names: the one that is not running, and slot A in RECOVERY. -/
def Hw.target (h : Hw) : Bool := match h.running with | some 0 => true | _ => false

/-- Whether the running slot is on trial: this start-up booted it so, and CONFIRM has not been made (R396, R397). -/
def Hw.onTrial (h : Hw) : Bool := h.running.isSome && h.ks.unconfirmed

/-! ## The boot record (R396, R397) -/

/-- ACTIVATE's record: the slot that is not running is preferred, and on trial. -/
def Hw.activated (h : Hw) : Hw := h.flashWrite recBoot fun f => { f with pref := b2n h.target, trial := true, trialBooted := false }

/-- CONFIRM's record: the running slot is on trial no longer. Where ACTIVATE has preferred the other slot meanwhile, the record's flags are that
slot's, and stay (log 38). -/
def Hw.confirmed (h : Hw) : Hw :=
  if h.running == some h.flash.pref then h.flashWrite recBoot fun f => { f with trial := false, trialBooted := false } else h

/-- A slot whose writing did not finish: what it held, or an image that is not valid, by free values. -/
def partialImage (old : FwImage) (free : Nat) : FwImage :=
  if (Config.freeValue free).getLsbD 0 then old
  else { present := true, svn := (Config.freeValue (free + 1)).toNat % 128, digest := [], valid := false }

/-- What is left of a firmware command that a power loss or a module reset ends: a record keeps its old or has its new content,
a slot may hold part of an image, and some of the fuses may be blown. -/
def Hw.interruptFw (h : Hw) : Hw :=
  let f := h.freeCtr
  let bit := (Config.freeValue f).getLsbD 0
  let h1 : Hw := { h with freeCtr := f + 2, ks := { h.ks with fwBusy := none } }
  match h.ks.fwBusy with
  | none => h
  | some (.stage _ _) => { h1 with flash := h.flash.setImage h.target (partialImage (h.flash.image h.target) f) }
  | some .activate => if bit then { h1 with flash := h.activated.flash } else { h1 with flash := h.flash.spoil recBoot }
  | some .confirm =>
    if h.running != some h.flash.pref then h1
    else if bit then { h1 with flash := h.confirmed.flash, ks := { h1.ks with unconfirmed := false } } else { h1 with flash := h.flash.spoil recBoot }
  | some .commit =>
    let top := (h.flash.image (h.ks.slot == 1)).svn
    { h1 with flash := { h.flash with rollback := h.flash.rollback + (Config.freeValue (f + 1)).toNat % (top - h.flash.rollback + 1) } }

/-! ## Commands (R396, R397) -/

/-- A firmware command is refused or fails. -/
def Hw.fwError (h : Hw) (cause : Nat) : Hw := { h with ks := { h.ks with fwErr := true, fwCause := cause } }

/-- A write of KS0.FW_CMD: refused while BUSY, or for its own cause, else begun. -/
def Hw.fwCommand (h : Hw) (cause : Nat) (go : Hw → Hw) : Hw :=
  if h.ks.fwBusy.isSome then h.fwError 1 else if cause != 0 then h.fwError cause else go h

def Hw.fwStart (h : Hw) (b : FwBusy) : Hw := { h with ks := { h.ks with fwBusy := some b } }

/-- STAGE: read the image at FW_ADDR through the writing port and check it. -/
def execStage (port : Nat) (env : Env) (s : State) : Host.Outcome State Fault Refusal :=
  actFrom port 0x10 (fun h => h.fwCommand (if h.onTrial then 6 else 0) fun h =>
    let a := h.ks.fwAddr.toNat
    let h := h.applyEnv env
    let env := h.readEnv port a (4096 + fld (h.hostRead port a 4096) 8 4) env
    let h := h.hostPoisonRead port a env
    let f := h.freeCtr
    let h := { h with freeCtr := f + 2 }
    if env.hostFail || env.hostPoison || decide (2 ^ 57 ≤ a) then h.fwStart (.stage (partialImage (h.flash.image h.target) f) 5)
    else
      let hdr := h.hostRead port a 4096
      let body := h.hostRead port (a + 4096) (fld hdr 8 4)
      let x := h.flash.judge hdr body f
      h.fwStart (.stage x.1 x.2)) s

/-- ACTIVATE. -/
def execActivate (port : Nat) (s : State) : Host.Outcome State Fault Refusal :=
  actFrom port 0x10 (fun h =>
    h.fwCommand (if h.flash.slotOk h.target then 0 else 7) fun h => h.fwStart .activate) s

/-- CONFIRM. -/
def execConfirm (port : Nat) (s : State) : Host.Outcome State Fault Refusal :=
  actFrom port 0x10 (fun h => h.fwCommand 0 fun h => h.fwStart .confirm) s

/-- COMMIT_SVN. -/
def execCommitSvn (port : Nat) (s : State) : Host.Outcome State Fault Refusal :=
  actFrom port 0x10 (fun h =>
    let ok := match h.running with
      | some n => !h.onTrial && decide (h.flash.rollback < (h.flash.image (n == 1)).svn)
      | none => false
    h.fwCommand (if ok then 0 else 8) fun h => h.fwStart .commit) s

/-- FIRMWARE_COMMAND_DONE. -/
def execFirmwareCommandDone (s : State) : Host.Outcome State Fault Refusal :=
  act (fun h =>
    let h1 : Hw := { h with ks := { h.ks with fwBusy := none } }
    match h.ks.fwBusy with
    | none => h
    | some (.stage img cause) =>
      let h2 : Hw := { h1 with flash := h.flash.setImage h.target img }
      if cause = 0 then h2 else h2.fwError cause
    | some .activate => { h1 with flash := h.activated.flash }
    | some .confirm => { h1 with flash := h.confirmed.flash, ks := { h1.ks with unconfirmed := h.ks.unconfirmed && h.running.isNone } }
    | some .commit => { h1 with flash := { h.flash with rollback := (h.flash.image (h.ks.slot == 1)).svn } }) s

/-- FIRMWARE_SLOT_SELECT (R395): the slot the leading ROM runs, and the boot record after it; none where no slot can be run. -/
def Flash.select (f : Flash) : Option (Nat × Flash × Bool) :=
  let other := 1 - f.pref
  if f.trial && f.trialBooted then
    if f.slotOk (other == 1) then some (other, { f with pref := other, trial := false, trialBooted := false }, true) else none
  else if f.slotOk (f.pref == 1) then some (f.pref, { f with trialBooted := f.trialBooted || f.trial }, false)
  else if f.slotOk (other == 1) then some (other, f, false)
  else none

end Sys2Proof.Machine
end

