-- ==== Sys2Proof/Machine/Recovery.lean ====
section
/-! DEFINITION. Watchdogs, reset domains, retired parts, the keystones' takeover, escalation and OUT_OF_SERVICE (15 R357-R366, R371-R373;
16 R404; 21 R468; log 33). -/

namespace Sys2Proof.Machine

/-! ## Domains (R360-R362) -/

/-- Whether a domain takes in another. -/
def Domain.covers (a b : Domain) : Bool :=
  let onDie (d : Nat) : Bool := match b with
    | .engine x _ => x == d
    | .tile x _ => x == d
    | .die x => x == d
    | _ => false
  let onEngine (k : Nat) : Bool := match b with
    | .optical x => x == k
    | .port p => p / 2 == k
    | _ => false
  a == b || (match a with
    | .module => true
    | .die d => onDie d
    | .dies x y => onDie x || onDie y
    | .dieAndEngine d k => onDie d || onEngine k
    | .optical k => onEngine k
    | _ => false)

/-- The number and the index of a domain in KS0.RESET; a domain of two parts has two. -/
def Domain.codes : Domain → List (Nat × Nat)
  | .engine d n => [(0, d + 16 * n)]
  | .tile d t => [(1, 16 * d + t)]
  | .port p => [(2, p)]
  | .optical k => [(3, k)]
  | .die d => [(4, d)]
  | .dies a b => [(4, a), (4, b)]
  | .dieAndEngine d k => [(4, d), (3, k)]
  | .context n => [(5, n)]
  | .ring p => [(6, p)]
  | .module => [(7, 0)]

/-- The compute dies a domain resets. -/
def Domain.dieList : Domain → List Nat
  | .die d => [d]
  | .dies a b => [a, b]
  | .dieAndEngine d _ => [d]
  | .module => List.range 16
  | _ => []

/-- The fibre ports a domain resets. -/
def Domain.portList : Domain → List Nat
  | .port p => [p]
  | .optical k => [2 * k, 2 * k + 1]
  | .dieAndEngine _ k => [2 * k, 2 * k + 1]
  | .module => List.range 48
  | _ => []

/-- The compute die or other part that holds an island, as a domain (R419). -/
def islandDomain : Island → Domain
  | .tile d _ => .die d
  | .fabric d => .die d
  | .mortar d _ => .die d
  | .opticalIface k => .die (portDie (2 * k))
  | .hbm d => .die d
  | .bridge _ => .module
  | .keystone _ => .module
  | .optical k => .optical k
  | .engineMortar k => .optical k
  | .bridgeMortar _ _ => .module
  | .keystoneMortar _ _ => .module

/-- The domain in which a hardware fault is recovered at the present reset level (R361). -/
def Hw.atLevel (h : Hw) (d : Domain) : Domain := if h.expertLevel then d else .module

/-! ## Parts of a die after a reset (R364, R404) -/

/-- Retired engines, whether the spare tile is in use, and retired tiles without a replacement, from the record in flash: the spare
replaces the tile retired first. -/
def Flash.parts (f : Flash) (d : Nat) : Nat × Bool × Nat :=
  let ts := (f.retiredTiles.filter fun x => x.1 == d).map (·.2)
  (maskOf 8 fun e => f.retiredEngines.contains (d, e), !ts.isEmpty, maskOf 16 fun t => (ts.drop 1).contains t)

def Die.withParts (d : Die) (p : Nat × Bool × Nat) : Die := { d with retiredEngines := p.1, spareUsed := p.2.1, retiredTiles := p.2.2 }

/-! ## Mortar after training (R26, R29) -/

/-- The least number of working lane groups of a port. -/
def minLanes (p : Nat) : Nat := if p < 4 then 128 else if p < 6 then 32 else 1

/-- Whether too few lane groups of a port work. -/
def MortPort.short (m : MortPort) (p : Nat) : Bool := !m.lanes.isEmpty && decide (m.active < minLanes p)

def Hw.setMort (h : Hw) (d p : Nat) (f : MortPort → MortPort) : Hw := h.setDie d fun x => { x with mort := x.mort.modify p f }
def Hw.mort (h : Hw) (d p : Nat) : MortPort := (h.die d).mort.getD p {}

/-- The port at the other end of a compute edge. -/
def facing (d p : Nat) : Option (Nat × Nat) :=
  if p = 0 then (if d < 4 then none else some (d - 4, 2))
  else if p = 1 then (if d % 4 = 3 then none else some (d + 1, 3))
  else if p = 2 then (if 12 ≤ d then none else some (d + 4, 0))
  else if p = 3 then (if d % 4 = 0 then none else some (d - 1, 1))
  else none

/-- An optical engine's active λ are capped by its working lane groups (R30). -/
def Hw.capEngine (h : Hw) (d p : Nat) : Hw :=
  match p == 4 || p == 5, (dieEngines d)[p - 4]? with
  | true, some k => h.setCap k (min 32 (2048 * (h.mort d p).active / 3750))
  | _, _ => h

/-- A port is trained again: every lane group works until the training reports otherwise. -/
def Hw.retrainPort (h : Hw) (d p : Nat) : Hw :=
  let fresh (m : MortPort) : MortPort :=
    { m with failed := false, lanes := m.lanes.map fun (_ : LaneGroup) => ({} : LaneGroup), waiting := [], early := []
             sent := [0, 0, 0, 0], got := [0, 0, 0, 0], turn := 3 }
  let h := (h.setMort d p fresh).capEngine d p
  match facing d p with
  | some x => h.setMort x.1 x.2 fresh
  | none => h

/-- What training found on a lane group: failed wires replaced by spares, or the lane group disabled. LGINFO of one that is disabled shows
SPARES_USED 2 and the first two failed wires: the spec does not say what it shows (DESIGN CHOICE; log 36). -/
def Hw.trainLane (h : Hw) (d p lg w0 w1 count : Nat) : Hw :=
  Hw.capEngine (h.setMort d p fun m =>
    let m := { m with lanes := m.lanes.modify lg fun (l : LaneGroup) =>
      { l with spares := min count 2, wire0 := if count = 0 then 255 else w0, wire1 := if count < 2 then 255 else w1, disabled := decide (2 < count) } }
    { m with failed := m.short p }) d p

/-! ## What the resets do (R362) -/

/-- The command of a tile's strip, and those of the output tiles and the unit that its vector engine holds. -/
def Tile.arrayWork (t : Tile) : List (Nat × W32) := (t.strip.map fun (s : Strip) => (s.ring, s.index)).toList
def Tile.vectorWork (t : Tile) : List (Nat × W32) :=
  (t.banks.map fun (b : OutTile) => (b.ring, b.index)) ++ (t.unit.map fun (u : Nat × W32 × Nat) => (u.1, u.2.1)).toList

/-- The commands that a tile works for. -/
def Hw.tileWork (h : Hw) (d t : Nat) : List (Nat × W32) := ((h.tile d t).arrayWork ++ (h.tile d t).vectorWork).eraseDups

/-- The contexts that commands belong to. -/
def Hw.contextsOf (h : Hw) (l : List (Nat × W32)) : List Nat :=
  (List.range 16).filter fun n => l.any fun x => !(h.ring x.1).module && (h.ring x.1).ctx == n

/-- Fault contexts. -/
def Hw.faultAll (h : Hw) (l : List Nat) (cause : Nat) : Hw := l.foldl (fun h n => h.faultCtx n cause) h

/-- A tile loses its accumulators, panel, strip, row statistics, registers and programs; its sensor and its steps stay. -/
def Tile.lost (t : Tile) : Tile :=
  { t with trgs := List.replicate 8 {}, slots := [], strip := none, banks := [], unit := none, drainRegs := {}, elemRegs := {}, scrubTrg := false, scrubSlot := false }

/-- The die that a requester belongs to. -/
def requesterDie : HbmRequester → Option Nat
  | .operandPort d _ | .copyEngine d _ | .gatherEngine d _ | .prefetchUnit d | .reductionEngine d | .pageWalker d => some d
  | .optics _ => none

/-- The requester that engine n of a die is at the HBM controllers. -/
def engineRequester (d n : Nat) : HbmRequester :=
  if n < 2 then .copyEngine d n else if n < 6 then .gatherEngine d (n - 2) else if n = 6 then .prefetchUnit d else .reductionEngine d

/-- Requesters lose their reorder buffers and the requests that wait; the data of those in flight is discarded on return (R362). -/
def Hw.dropRequests (h : Hw) (p : HbmRequester → Bool) : Hw :=
  { h with
    reorder := h.reorder.filter fun x => !p x.1
    dies := h.dies.map fun (x : Die) =>
      { x with hbm := { x.hbm with
          waiting := x.hbm.waiting.filter fun (s : HbmSlot) => !p s.requester
          slots := x.hbm.slots.map fun (s : HbmSlot) => if p s.requester then { s with gone := true } else s } } }

/-- A tile after a die reset. -/
def Tile.anew (t : Tile) : Tile := { level := t.level, droop := t.droop, tempC := t.tempC }

/-- A port's links end as dead links do, and stay dark until the reset is done. -/
def Hw.darkenPort (h : Hw) (p : Nat) : Hw :=
  forN 4 h fun h l => if (h.link p l).valid then (h.setLink p l fun k => { k with state := .off }).deadEffects p l else h

/-- A port returns: its links enter DARK, unless the module is OUT_OF_SERVICE or the port is disabled (R245, R373). -/
def Hw.relightPort (h : Hw) (p : Nat) : Hw :=
  if h.flash.oos || !(h.port p).en then h
  else forN 4 h fun h l =>
    let k := h.link p l
    if k.valid && k.state == .off then (h.setLink p l fun k => { k with state := .dark }).light p l else h

/-- Whether a key lies in the SRAM of a die. -/
def sramOf (d k : Nat) : Bool := keySpace k == 1 && bits k 49 46 == d

/-- A die reset: its SRAM, cache, translations, objects, engines, tiles and mortar training are lost, and its HBM content stays. -/
def Hw.dieLost (h : Hw) (d : Nat) : Hw :=
  let h := { h with
    mem := h.mem.filter fun (x : Host.Cell) => !sramOf d x.1
    poison := h.poison.filter fun g => !sramOf d (32 * g)
    objs := h.objs.filter fun (x : Nat × W64) => x.1 / 512 != d
    syncFlight := h.syncFlight.filter fun (o : SyncOp) => o.obj / 512 != d
    tiles := h.tiles.zipIdx.map fun (x : Tile × Nat) => if x.2 / 16 = d then x.1.anew else x.1 }
  let h := h.setDie d fun x =>
    ({ x with rcLines := [], xlat := [], slice := [], hbm := { x.hbm with slots := [], waiting := [], slowAt := [] } } : Die).withParts (h.flash.parts d)
  let h := h.setAux d fun a => { a with holders := [], hung := [] }
  let h := h.dropRequests fun q => requesterDie q == some d
  forN 8 h fun h p => h.retrainPort d p

/-- The keystone registers after a module reset (R468). -/
def Keystone.renewed (k : Keystone) (draw : Nat) : Keystone :=
  { step := k.step, boot := k.boot, leader := k.leader, slot := k.slot, readyMs := k.readyMs
    unconfirmed := k.unconfirmed
    dbgLevel := if k.dbgPending = 0 then k.dbgLevel else k.dbgPending
    dbgNonce := (List.range 8).map fun i => (Config.random (draw + i)).setWidth 32
    recovery := k.recovery, history := k.history }

/-- A comb after a module reset: the map and every role stay, that of a source in retest too (R260), the spare is dark, and no line is disabled (R404). -/
def Comb.renewed (c : Comb) : Comb := { groupSrc := c.groupSrc, spare := c.spare, failed := c.failed, retest := c.retest }

/-- A module reset: the state of R404, and what R362 and R468 keep. -/
def Hw.moduleLost (h : Hw) : Hw :=
  let h := h.interruptFw
  let b := State.reset.hw
  let f := h.freeCtr
  { b with
    now := h.now, freeCtr := f + 72, startSeq := h.startSeq, logSeq := h.logSeq, out := h.out
    lim := { b.lim with rate := h.lim.rate, localGib := h.lim.localGib }
    ks := h.ks.renewed f
    ks2 :=
      { h.ks2 with highClk := false, volt := 0, current := 0, inletT := 0, outletT := 0, hot := false, temps := []
                   bootRate := h.lim.rate, bootSpares := maskOf 16 fun d => (h.flash.parts d).2.1 }
    flash := h.flash
    ctxs := (List.range 16).map fun n => { epoch := (Config.random (f + 8 + n)).setWidth 8 }
    dies := (List.range 16).map fun d =>
      ({ Reset.die d with hbm := { ok := (h.die d).hbm.ok, lost := (h.die d).hbm.lost } } : Die).withParts (h.flash.parts d)
    aux := h.aux.map fun (a : DieAux) => { hangs := a.hangs, evLog := a.evLog }
    ports := (List.range 48).map fun p =>
      let q := Reset.port p
      { q with links := q.links.map fun (k : Link) =>
          if k.valid then { k with state := .off, tx := 0, incarnation := (Config.random (f + 24 + p)).setWidth 16 } else k }
    comb := h.comb.renewed
    fences := h.fences
    evts := h.evts.map fun (o : OutRing) => { held := o.held }
    hosts := h.hosts.map fun (q : HostPort) => { q with poisonRx := 0, poisonTx := 0 }
    spared := h.spared
    mem := h.mem.filter fun (x : Host.Cell) => keySpace x.1 == 0
    poison := h.poison.filter fun g => keySpace (32 * g) == 0 }

/-- The state in which start-up begins (R387, R390, R404): module flash, the fuses, what the hosts hold and what has left the module
stay, and nothing of running logic does. -/
def Hw.powerUp (h : Hw) : Hw :=
  let h := h.interruptFw
  let b := State.reset.hw
  let f := h.freeCtr
  { b with
    now := h.now, freeCtr := f + 72, out := h.out
    ks :=
      { step := 1, boot := .starting, readyMs := 0
        dbgNonce := (List.range 8).map fun i => (Config.random (f + i)).setWidth 32 }
    ks2 := { calibrated := false, smbusAt := h.now + 100 * 1000000, goodAt := h.now }
    flash := h.flash
    ctxs := (List.range 16).map fun n => { epoch := (Config.random (f + 8 + n)).setWidth 8 }
    dies := (List.range 16).map fun d => (Reset.die d).withParts (h.flash.parts d)
    ports := (List.range 48).map fun p =>
      let q := Reset.port p
      { q with links := q.links.map fun (k : Link) =>
          if k.valid then { k with state := .off, tx := 0, incarnation := (Config.random (f + 24 + p)).setWidth 16 } else k }
    comb := h.comb.renewed
    hosts := h.hosts.map fun (q : HostPort) =>
      { up := false, configured := false, perst := q.perst, clock := q.clock, busMaster := false, msixOn := false, mem := q.mem } }

/-- The reset of a domain as it starts: contexts fault, state is captured, and what the domain loses goes. `cause` is that of R366. -/
def Hw.startReset (h : Hw) (d : Domain) (cause : Nat) : Hw :=
  match d with
  | .engine x n =>
    let work := h.engineWork x n
    let h := h.dropRequests (· == engineRequester x n)
    (work.foldl (fun h w => h.finishCmd w.1 w.2 stAborted 0) h).faultAll (h.contextsOf work) cause
  | .tile x t => (h.faultAll (h.contextsOf (h.tileWork x t)) cause).setTile x t Tile.lost
  | .port p => h.darkenPort p
  | .optical k =>
    let h := [2 * k, 2 * k + 1].foldl Hw.darkenPort h
    h.retrainPort (portDie (2 * k)) (4 + k % 2)
  | .context n =>
    let h := h.faultCtx n cause
    if (h.ctx n).state == .faulted then h.closeCtx n true none else h
  | .ring p =>
    (List.range 128).foldl (fun h r => if (h.ring r).module && (h.ring r).port == p && (h.ring r).state != .stopped then h.abortRing r else h) h
  | .module => (h.autoCapture 2 cause (List.range 16)).moduleLost
  | d =>
    let ds := d.dieList
    let h := h.faultAll (List.range 16) cause
    let h := h.autoCapture 1 cause ds
    let h := ds.foldl Hw.dieLost h
    d.portList.foldl Hw.darkenPort h

/-! ## Recoveries (R360, R371) -/

/-- Note a recovery that counts: whether it is the third whose oldest lies at most WINDOW_S before it. -/
def Hw.noteRecovery (h : Hw) : Bool × Hw :=
  let t := (h.now :: h.ks.history).take 3
  (t.length == 3 && decide (h.now ≤ t.getD 2 0 + h.lim.windowS * second), { h with ks := { h.ks with history := t } })

/-- Make a recovery in a domain: absorbed into one that takes it in, or widening those it takes in (R360). -/
def Hw.recover (h : Hw) (d : Domain) (cause : Nat) (counted cool : Bool) : Hw :=
  if h.ks.recovery.any fun (r : Recovery) => r.domain.covers d then
    let l := h.ks.recovery.map fun (r : Recovery) => if r.domain.covers d then { r with waitCool := r.waitCool || cool } else r
    { h with ks := { h.ks with recovery := l } }
  else
    let inner := h.ks.recovery.filter fun (r : Recovery) => d.covers r.domain
    let earlier := inner.any (·.counted)
    let x := if counted && !earlier then h.noteRecovery else (false, h)
    let r : Recovery :=
      { domain := d, cause := cause, counted := counted || earlier, waitCool := cool || inner.any (·.waitCool)
        oosCause := if x.1 then 1 else (inner.map (·.oosCause)).foldl max 0 }
    let h := x.2.startReset d cause
    { h with ks := { h.ks with recovery := (h.ks.recovery.filter fun (y : Recovery) => !d.covers y.domain) ++ [r] } }

/-! ## OUT_OF_SERVICE (R372, R373) -/

/-- The host bridges get power out of service where start-up had not come to them, and the time of R390 runs. -/
def Hw.bridgesFrom (h : Hw) : Hw :=
  if 6 ≤ h.ks.step then h else { h with hosts := h.hosts.map fun (q : HostPort) => { q with configFrom := h.now } }

/-- What OUT_OF_SERVICE records in flash: the state, its cause, the count and a new nonce drawn at `f`. -/
def Flash.outOfService (x : Flash) (cause f : Nat) : Flash :=
  { x with oos := true, oosCause := cause, oosCount := x.oosCount + 1, oosNonce := (List.range 8).map fun i => (Config.random (f + i)).setWidth 32 }

/-- Enter OUT_OF_SERVICE with a cause of R372. -/
def Hw.enterOos (h : Hw) (cause : Nat) : Hw :=
  if h.flash.oos then h
  else
    let h := h.faultAll (List.range 16) 7
    let h := h.autoCapture 3 7 (List.range 16)
    let f := h.freeCtr
    let h := { h.flashWrite recHealth (fun x => x.outOfService cause f) with freeCtr := f + 8 }
    let h := (h.evMod 0x0604 srcModule cause h.flash.oosCount).moduleLost
    let h := h.bridgesFrom
    { h with ks := { h.ks with boot := .outOfService, recovery := [{ domain := .module, cause := 7, counted := false }] } }

/-! ## Parts retired (R364) -/

def Hw.partRetired (h : Hw) (kind index src : Nat) : Hw := h.evMod 0x0603 src (kind + 256 * index) 0

/-- A die fails: the module goes OUT_OF_SERVICE. -/
def Hw.dieFails (h : Hw) (d : Nat) : Hw := (h.partRetired 2 d (srcDie d)).enterOos 3

/-- Whether every engine of the kind of engine n is retired. -/
def kindRetired (mask n : Nat) : Bool :=
  let kind := if n < 2 then [0, 1] else if n < 6 then [2, 3, 4, 5] else [n]
  kind.all mask.testBit

/-- An engine takes no further work. -/
def Hw.retireEngine (h : Hw) (d n : Nat) : Hw :=
  if (h.die d).retiredEngines.testBit n then h
  else
    let h := h.flashWrite recHealth fun f => { f with retiredEngines := f.retiredEngines ++ [(d, n)] }
    (h.setDie d fun x => { x with retiredEngines := x.retiredEngines + 2 ^ n }).partRetired 0 (d + 16 * n) (srcDie d)

/-- A tile's bit is ignored in every TILE_MASK. -/
def Hw.retireTile (h : Hw) (d t : Nat) : Hw :=
  if (h.die d).retiredTiles.testBit t then h
  else
    let h := h.flashWrite recHealth fun f => { f with retiredTiles := f.retiredTiles ++ [(d, t)] }
    (h.setDie d fun x => { x with retiredTiles := x.retiredTiles + 2 ^ t }).partRetired 1 (16 * d + t) (srcTile d t)

/-- TILE_RETIRE. -/
def execTileRetire (die tile : Nat) (s : State) : Host.Outcome State Fault Refusal :=
  actReg (dieOff die + 0x704) (fun h => (h.setDie die fun d => { d with retireSel := tile % 16 }).retireTile die (tile % 16)) s

/-! ## Watchdogs (R357-R359) -/

/-- The work an engine holds. -/
def Hw.watched (h : Hw) (e : EngineId) : List (Nat × W32) :=
  match e with
  | .array d t => (h.tile d t).arrayWork
  | .vector d t => (h.tile d t).vectorWork
  | .hbm _ => []
  | .ringLogic p =>
    (List.range 128).flatMap fun r => if h.ringPort (h.ring r) == p then ((h.ring r).fetched.take 1).map fun (c : Cmd) => (r, c.index) else []
  | e => h.engineWork (engineDie e) (engineNumber e)

/-- Whether the ring logic of a host port can fetch a descriptor, or start or complete a command, of a ring (R357). -/
def Hw.ringBusy (h : Hw) (r : Nat) : Bool :=
  let w := h.ring r
  (w.canFetch && (h.host (h.ringPort w)).up) ||
  (match w.fetched with | c :: _ => c.phase == .fetched && h.turnOk r c | [] => false) ||
  w.running.any fun (c : Cmd) => c.phase == .done && !h.awaits c.order

/-- Whether an engine holds work and does not wait (R357). An array whose two banks stand full waits for the vector engine. -/
def Hw.engineBusy (h : Hw) (e : EngineId) : Bool :=
  match e with
  | .hbm d => !(h.die d).hbm.slots.isEmpty && !(h.die d).hbm.training
  | .ringLogic p => (List.range 128).any fun r => h.ringPort (h.ring r) == p && h.ringBusy r
  | .array d t => decide ((h.tile d t).banks.length < 2) && (h.watched e).any fun x => !h.cmdWaits x
  | .vector _ _ => (h.watched e).any fun x => !h.cmdWaits x
  | e => (h.watched e).any fun x => !h.workWaits (engineDie e) (engineNumber e) x

/-- The domain of R360 for a hang. -/
def hangDomain : EngineId → Domain
  | .array d t => .tile d t
  | .vector d t => .tile d t
  | .hbm d => .die d
  | .ringLogic _ => .module
  | e => .engine (engineDie e) (engineNumber e)

/-- SOURCE, and DETAIL0's number and island kind, of an engine's HANG. -/
def hangPlace : EngineId → Nat × Nat × Nat
  | .array d t => (srcTile d t, t, 0)
  | .vector d t => (srcTile d t, t, 0)
  | .hbm d => (srcDie d, 0, 4)
  | .ringLogic p => (srcBridge p, p, 5)
  | e => (srcDie (engineDie e), engineNumber e, 1)

/-- The number under which a die remembers an engine's or a tile's recoveries from hangs. -/
def hangKey : EngineId → Option Nat
  | .array _ t => some (16 + t)
  | .vector _ t => some (16 + t)
  | .hbm _ => none
  | .ringLogic _ => none
  | e => some (engineNumber e)

/-- A hang within 60 s of the last recovery retires the part. -/
def Hw.hangRepeat (h : Hw) (e : EngineId) : Hw :=
  match hangKey e with
  | none => h
  | some k =>
    let d := engineDie e
    let again := (h.dieAux d).hangs.any fun x => x.1 == k && decide (h.now ≤ x.2 + 60 * second)
    let h := h.setAux d fun a => { a with hangs := a.hangs.filter (fun x => x.1 != k) ++ (if again then [] else [(k, h.now)]) }
    if !again then h else if 16 ≤ k then h.retireTile d (k - 16) else h.retireEngine d k

/-- The end of the work that a hung engine holds (R359): a command that the ring logic holds has not started and ends in its turn. -/
def Hw.endHeld (h : Hw) (e : EngineId) (x : Nat × W32) : Hw :=
  match e, (h.ring x.1).fetched with
  | .ringLogic _, c :: _ => h.launch x.1 (c.finish stAborted 0)
  | _, _ => h.finishCmd x.1 x.2 stAborted 0

/-- An engine hangs: its record shows it until its reset is done (R369). -/
def Hw.noteHang (h : Hw) (e : EngineId) (ms : Nat) : Hw :=
  match hangKey e with
  | some k =>
    if 16 ≤ k then h
    else
      let f := h.free
      let rb := f.2.engineRecord f.1 (engineDie e) k
      f.2.setAux (engineDie e) fun a =>
        { a with hung := a.hung.filter (fun x => x.1 != k) ++ [(k, toLe 1 k ++ [3] ++ (rb.drop 2).take 14 ++ toLe 8 (ms * 1000000) ++ rb.drop 24)] }
  | none => h

/-- HANG (R359): the event, the end of the work held, the faults of contexts, and the recovery. -/
def Hw.hang (h : Hw) (e : EngineId) (ms : Nat) : Hw :=
  let h := h.noteHang e ms
  let work := h.watched e
  let pl := hangPlace e
  let at0 := work.head?
  let who := match at0 with | some x => (h.ring x.1).ctx + 256 * (h.ctx (h.ring x.1).ctx).epoch.toNat | none => 0
  let d := h.atLevel (hangDomain e)
  let h := h.evMod 0x0601 pl.1 (engineDie e + 16 * pl.2.1 + 4096 * pl.2.2) who
  let h := work.foldl (fun h w => h.endHeld e w) h
  let whole := match d with | .engine _ _ => false | .tile _ _ => false | _ => true
  let h := h.faultAll (if whole then List.range 16 else h.contextsOf work) 1
  let h := (h.hangRepeat e).recover d 1 (!d.dieList.isEmpty) false
  match hangKey e with
  | some k =>
    if k < 16 ∧ kindRetired (h.die (engineDie e)).retiredEngines k = true then h.dieFails (engineDie e) else h
  | none => h

/-- WATCHDOG_TEST: `ms` is the time an engine has been busy without retiring work. -/
def execWatchdogTest (e : EngineId) (ms : Nat) (s : State) : Host.Outcome State Fault Refusal :=
  act (fun h => if h.engineBusy e && decide (h.lim.hangMs ≤ ms) then h.hang e ms else h) s

/-! ## Resets that the host requests (R363) -/

/-- A write of KS0.RESET with GO: refused with ERR and no other effect (R363, R467), or made. -/
def Hw.request (h : Hw) (domain index : Nat) (there hardware : Bool) (go : Hw → Hw) : Hw :=
  if h.ks.boot == .recovery then h else
  if !there || !h.ks.recovery.isEmpty || (hardware && !h.expertLevel) then { h with ks := { h.ks with resetErr := true } }
  else go { h with ks := { h.ks with resetDomain := domain, resetIndex := index % 256 } }

/-- ENGINE_RESET: INDEX holds the die in [3:0] and the engine in [7:4]. -/
def execEngineReset (port index : Nat) (s : State) : Host.Outcome State Fault Refusal :=
  actFrom port 0x204 (fun h =>
    h.request 0 index (decide (index < 128)) true fun h => h.recover (.engine (index % 16) (index / 16)) 2 false false) s

/-- TILE_RESET. -/
def execTileReset (port index : Nat) (s : State) : Host.Outcome State Fault Refusal :=
  actFrom port 0x204 (fun h =>
    h.request 1 index (decide (index < 256)) true fun h => h.recover (.tile (index / 16) (index % 16)) 3 false false) s

/-- PORT_RESET. -/
def execPortReset (port index : Nat) (s : State) : Host.Outcome State Fault Refusal :=
  actFrom port 0x204 (fun h =>
    h.request 2 index (decide (index < 48)) true fun h => h.recover (.port index) 0 false false) s

/-- OPTICAL_ENGINE_RESET. -/
def execOpticalEngineReset (port index : Nat) (s : State) : Host.Outcome State Fault Refusal :=
  actFrom port 0x204 (fun h =>
    h.request 3 index (decide (index < 24)) true fun h => h.recover (.optical index) 0 false false) s

/-- DIE_RESET: a recovery that counts while any context is not FREE. -/
def execDieReset (port index : Nat) (s : State) : Host.Outcome State Fault Refusal :=
  actFrom port 0x204 (fun h =>
    h.request 4 index (decide (index < 16)) true fun h => h.recover (.die index) 4 (!h.allFree) false) s

/-- CONTEXT_RESET. -/
def execContextReset (port index : Nat) (s : State) : Host.Outcome State Fault Refusal :=
  actFrom port 0x204 (fun h =>
    h.request 5 index (decide (index < 16)) false fun h => h.recover (.context index) 8 false false) s

/-- Whether a port has a module work ring bound. -/
def Hw.ringBound (h : Hw) (p : Nat) : Bool := h.rings.any fun (w : WorkRing) => w.module && w.port == p && w.state != .stopped

/-- MODULE_RING_RESET. -/
def execModuleRingReset (port index : Nat) (s : State) : Host.Outcome State Fault Refusal :=
  actFrom port 0x204 (fun h =>
    h.request 6 index (decide (index < 2) && h.ringBound index) false fun h => h.recover (.ring index) 0 false false) s

/-- MODULE_RESET: in RECOVERY it restarts start-up from step 1 (R392), under the same 50 V: the local counters run on (R410), and the SMBus targets
answer (R450). -/
def execModuleReset (port index : Nat) (s : State) : Host.Outcome State Fault Refusal :=
  actFrom port 0x204 (fun h =>
    if h.ks.boot == .recovery then
      { h.powerUp with ks2 := { h.powerUp.ks2 with smbusAt := h.ks2.smbusAt, goodAt := h.ks2.goodAt } }
    else h.request 7 index true false fun h => h.recover .module 0 (!h.allFree) false) s

/-! ## The end of a reset -/

/-- Whether a recovery can end: a context is FREE again, and a stopped domain has cooled (R362, R419). -/
def Hw.canReturn (h : Hw) (r : Recovery) : Bool :=
  (match r.domain with | .context n => (h.ctx n).state == .free | _ => true) &&
  !(r.waitCool && h.ks2.stopped.any fun i => r.domain.covers (islandDomain i))

/-- Apply what the mortar training of a reset found; a footing fault takes the module out of service (R19, R372). -/
def Hw.trained (h : Hw) (found : List StepReport) : Hw :=
  found.foldl (fun h f => match f with | .lanes d p lg w0 w1 n => h.trainLane d p lg w0 w1 n | .footingFault => h.enterOos 4 | _ => h) h

/-- An engine whose reset is done hangs no longer. -/
def Hw.unhang (h : Hw) (d : Domain) : Hw :=
  match d with
  | .engine x n => h.setAux x fun a => { a with hung := a.hung.filter fun y => y.1 != n }
  | _ => h

/-- RESET_DONE: a domain returns to service (a context's event goes to its owner, R66), or the module enters OUT_OF_SERVICE in
place of it (R362, R364, R371). -/
def execResetDone (micros : Nat) (found : List StepReport) (s : State) : Host.Outcome State Fault Refusal :=
  act (fun h =>
    match h.ks.recovery.find? h.canReturn with
    | none => h
    | some r =>
      let h := ({ h with ks := { h.ks with recovery := h.ks.recovery.filter (· != r) } } : Hw).unhang r.domain
      if r.oosCause ≠ 0 then h.enterOos r.oosCause
      else
        let oos := h.flash.oos
        let h := h.trained found
        if h.flash.oos != oos then h else
        let h := r.domain.portList.foldl Hw.relightPort h
        let h := r.domain.codes.foldl (fun h c =>
          if c.1 = 5 then h.evCtx c.2 0x0602 srcModule (c.1 + 256 * c.2 + 65536 * r.cause) micros
          else h.evMod 0x0602 srcModule (c.1 + 256 * c.2 + 65536 * r.cause) micros) h
        match r.domain.dieList.find? fun d => (List.range 6).any fun p => (h.mort d p).failed with
        | some d => h.dieFails d
        | none => h) s

/-! ## The standby keystone (R365) -/

/-- KEYSTONE_HEARTBEAT_CHECK: from step 5 of start-up on, which RECOVERY leaves out (R388, R392). After 10 heartbeats missed in succession KS1 leads and makes a module recovery. -/
def execKeystoneHeartbeatCheck (seen : Bool) (s : State) : Host.Outcome State Fault Refusal :=
  act (fun h =>
    if h.flash.noStandby || h.ks.leader != 0 || decide (h.ks.step < 5) || h.ks.boot == .recovery then h
    else if seen then { h with ks2 := { h.ks2 with missed := 0 } }
    else if h.ks2.missed + 1 < 10 then { h with ks2 := { h.ks2 with missed := h.ks2.missed + 1 } }
    else
      let h := { h.flashWrite recHealth fun f => { f with noStandby := true } with
        ks := { h.ks with leader := 1 }, ks2 := { h.ks2 with missed := 0 } }
      (h.evMod 0x0607 (srcKeystone 1) 0 0).recover .module 0 true false) s

end Sys2Proof.Machine
end

