-- ==== Sys2Proof/WellFormed.lean ====
section
/-! DEFINITION. The commands whose operands name things the T64 has: rings, contexts, dies, ports and registers within their
numbers (01 R15, 02 R71, 03 R74, 08 R213, 09 R231, 13 R333, 18 R424, 19 R448, 21 R464). -/

namespace Sys2Proof

/-! ## Numbers of parts -/

def ringOk (r : Nat) : Bool := decide (r < 128)
def cplOk (evt : Bool) (r : Nat) : Bool := decide (r < if evt then 2 else 16)
def hostPortOk (p : Nat) : Bool := decide (p < 2)
def ctxOk (n : Nat) : Bool := decide (n < 16)
def dieOk (d : Nat) : Bool := decide (d < 16)
def tileOk (d t : Nat) : Bool := dieOk d && decide (t < 16)
def fibreOk (p l : Nat) : Bool := decide (p < 48) && decide (l < 4)
def mortarOk (d p lg : Nat) : Bool := dieOk d && decide (p < 8) && decide (lg < 256)
def chanOk (n k : Nat) : Bool := ctxOk n && decide (k < 8)

/-- A register access of BAR0: 4 or 8 bytes, naturally aligned, within 4 MiB (R425). -/
def accessOperandOk (port offset width : Nat) : Bool :=
  hostPortOk port && (width == 4 || width == 8) && offset % width == 0 && decide (offset + width ≤ 0x400000)

/-- Entries of a byte list at a DA of this module: the address lies in the 52 bits of R206. -/
def daOperandOk (da : W64) : Bool := da.toNat / 2 ^ 52 == 0 || da.toNat / 2 ^ 63 == 1

def EngineId.wf : EngineId → Bool
  | .copy d n => dieOk d && decide (n < 2)
  | .gather d n => dieOk d && decide (n < 4)
  | .prefetch d | .reduction d | .hbm d => dieOk d
  | .array d t | .vector d t => tileOk d t
  | .ringLogic p => hostPortOk p

/-- Whether a compute die has a mortar port of a number (R15, R16, R21). -/
def mortarThere (d p : Nat) : Bool :=
  if p = 0 then decide (4 ≤ d)
  else if p = 1 then d % 4 != 3
  else if p = 2 then decide (d < 12)
  else if p = 3 then d % 4 != 0
  else if p < 6 then !(d == 5 || d == 6 || d == 9 || d == 10)
  else if p = 6 then d == 0 || d == 4 || d == 11 || d == 15
  else p == 7 && (d == 0 || d == 12 || d == 3 || d == 15)

def Island.wf : Island → Bool
  | .tile d t => tileOk d t
  | .fabric d | .hbm d => dieOk d
  | .mortar d p => dieOk d && mortarThere d p
  | .opticalIface k | .optical k | .engineMortar k => decide (k < 24)
  | .bridge p => hostPortOk p
  | .keystone n => decide (n < 2)
  | .bridgeMortar p l => hostPortOk p && decide (l < 2)
  | .keystoneMortar n l => decide (n < 2) && decide (l < 2)

/-- A rate and width of R423: 1 to 6 for 2.5 to 64 GT/s; flit mode always at 64 GT/s, and never below 16 GT/s. -/
def linkKindOk (speed width : Nat) (flit : Bool) : Bool :=
  decide (1 ≤ speed) && decide (speed ≤ 6) && (width == 1 || width == 2 || width == 4 || width == 8) &&
  (if speed = 6 then flit else decide (4 ≤ speed) || !flit)

/-- A requester of R217. -/
def requesterOk : HbmRequester → Bool
  | .operandPort d t => tileOk d t
  | .copyEngine d n => dieOk d && decide (n < 2)
  | .gatherEngine d n => dieOk d && decide (n < 4)
  | .prefetchUnit d | .reductionEngine d | .pageWalker d => dieOk d
  | .optics k => decide (k < 24)

/-- A packet's header: it carries 32 to 2,048 bytes of data in multiples of 32 (R22). -/
def PacketHead.wf (p : PacketHead) : Bool :=
  decide (p.cls < 4) && dieOk p.src && dieOk p.dst && (match p.exit with | some q => decide (4 ≤ q) && decide (q < 8) | none => true) &&
  decide (1 ≤ p.words) && decide (p.words ≤ 64) && p.poison.all fun g => decide (g < p.words)

/-- A flit of 256 bits (R22). -/
def Flit.wf (f : Flit) : Bool :=
  decide (f.kind < 16) && decide (f.seq < 64) && decide (f.ack < 64) &&
  (match f.payload with | .raw b => b.length == 28 | .head p => p.wf)

/-- A memory access is one frame: 32 bytes of its own and its data (R236; log 15). -/
def MemAccess.wf : MemAccess → Bool
  | .read _ n => decide (n ≤ 2016)
  | .write _ bs _ | .add _ _ _ _ bs _ => decide (bs.length ≤ 2016)

/-- A frame whose header's fields hold their values (R236). -/
def Frame.wf (f : Frame) : Bool := decide (f.kind < 256) && decide (f.cls < 256) && decide (f.lset < 4) && decide (f.srcCtx < 16)

/-- A control operation has 8 bits (R241). -/
def Ctrl.wf (c : Ctrl) : Bool := decide (c.op < 256)

def StepReport.wf : StepReport → Bool
  | .clean | .footingFault => true
  | .lanes d p lg w0 w1 n => mortarOk d p lg && decide (w0 < 34) && decide (w1 < 34) && decide (n ≤ 34)
  | .stackLost k => dieOk k
  | .unrepairable d t row => tileOk d t && decide (row < 2 ^ 16)
  | .dieFailed d => dieOk d
  | .combDark g => decide (g < 3)

/-- A command whose operands exist. -/
def Instr.wf : Instr → Bool
  | .workDoorbellPoll r _ | .descriptorFetch r _ | .commandStart r _ | .drainPoll r _ => ringOk r
  | .headerWaitTimeout r | .cplRecordWrite r => ringOk r
  | .cplDoorbellPoll e r _ | .irqDelayExpiry e r | .ringEnSet e r _ | .ringEnClear e r _ => cplOk e r
  | .ringStart p r _ | .ringDrain p r _ => hostPortOk p && ringOk r
  | .ringStop p r | .ringResume p r => hostPortOk p && ringOk r
  | .registerWrite p o w _ => accessOperandOk p o w
  | .commandComplete r _ | .nop r _ | .fence r _ | .signal r _ | .wait r _ | .commandTimeout r _ | .engineAcquire r _ => ringOk r
  | .syncOperation _ _ => true
  | .waitPrefetch r _ e _ _ => ringOk r && decide (e < 8)
  | .copy r _ _ | .gather r _ _ | .scatter r _ _ | .fill r _ _ | .matmul r _ _ => ringOk r
  | .ownerBlockTransfer q => dieOk q.1.die
  | .stripTake d t | .programLoadTile d t | .trgScrub d t | .slotScrub d t | .scrubPerform d t | .tileRetire d t => tileOk d t
  | .outputTileDrain d t _ | .unitTake d t _ => tileOk d t
  | .elementProgram r _ _ | .elementReduceRow r _ _ | .elementReduceCol r _ _ | .elementTopk r _ _ => ringOk r
  | .loadProgram r _ | .collectiveTimeout r _ => ringOk r
  | .treeDeadlineExpiry r _ d => ringOk r && dieOk d
  | .reduce r _ _ | .allgather r _ _ | .reduceScatter r _ _ | .send r _ _ | .recv r _ _ | .update r _ _ => ringOk r
  | .collSliceStart r _ d _ => ringOk r && dieOk d
  | .collPartialReceive n m _ _ => ctxOk n && dieOk m.die
  | .collResultReceive n m _ _ => ctxOk n && dieOk m.die
  | .channelGrant n _ k pk _ _ => chanOk n k && decide (pk < 8)
  | .grantResend n k => chanOk n k
  | .channelMessageArrive n k _ _ _ _ _ => chanOk n k
  | .channelCreditReturn n k _ => chanOk n k
  | .lossScaleWrite r _ | .lossScaleAgree r _ | .lossScaleSet r _ | .statsRead r _ => ringOk r
  | .seqSetStart r _ | .seqSetParams r _ | .seqSetAdvance r _ | .seqSetFinish r _ | .seqRetire r _ => ringOk r
  | .capture r _ | .lambdaSet r _ | .twinSyncTakeover r _ | .twinSyncHandback r _ | .contextClose r _ => ringOk r
  | .peerFenceFence r _ _ | .peerFenceUnfence r _ _ | .twinSyncMirror r _ _ | .twinSyncPull r _ _ | .twinSyncAsTwin r _ _
  | .reinstate r _ _ => ringOk r
  | .contextOpen p n | .contextCloseDrain p n | .contextCloseFlush p n | .xlatInv p n => hostPortOk p && ctxOk n
  | .planReadDone n _ => ctxOk n
  | .quiesceExpiry n | .teardownComplete n | .numberHoldExpiry n | .xlatInvDone n => ctxOk n
  | .bindRequestReceive p l _ _ _ => fibreOk p l
  | .bindRetry _ => true
  | .contextMessageReceive p l _ _ n _ _ _ => fibreOk p l && ctxOk n
  | .memoryAccessReceive _ a _ => a.wf
  | .hbmRateSet r => decide (r < 2 ^ 32)
  | .hbmRetrainDone _ none => true
  | .hbmRetrainDone _ (some k) => dieOk k
  | .hbmLocalSet g => decide (g < 2 ^ 32)
  | .hbmRequest k q b a _ _ => dieOk k && requesterOk q && decide (b < 2 ^ 16) && decide (a ≤ 65536)
  | .hbmRequestComplete k _ _ _ | .hbmRequestAgeing k _ => dieOk k
  | .hbmBankSlow k b => dieOk k && decide (b < 2 ^ 16)
  | .memorySideAdd d da _ _ _ _ _ c => dieOk d && daOperandOk da && ringOk c.1.1
  | .sramScrub d p t _ _ _ => tileOk d t && decide (p < 6)
  | .stackLoss k c => dieOk k && decide (c < 4)
  | .flitReceive d p lg f => mortarOk d p lg && f.wf
  | .mortarNack d p lg n => mortarOk d p lg && decide (n < 64)
  | .laneRetrain d p lg => mortarOk d p lg
  | .lgRetrain d p => dieOk d && decide (p < 8)
  | .laneRetrainDone d p lg w => mortarOk d p lg && (match w with | none => true | some x => decide (x < 34))
  | .portEnable p | .portDisable p | .portRetrain p => decide (p < 48)
  | .carrierDetect p l _ => fibreOk p l
  | .trainingComplete p l _ ids => fibreOk p l && ids.all fun x => decide (x.1 < 34) && decide (x.2.2 < 48)
  | .carrierLoss p l k => fibreOk p l && decide (k < 34)
  | .linkDeadExpiry p l | .pauseExpiry p l | .helloResend p l | .frameTransmit p l | .pauseAckTimeout p l | .lambdaChangeTimeout p l
  | .lambdaBorrow p l | .lambdaWithdraw p l => fibreOk p l
  | .hello p l c | .helloAck p l c | .resync p l c | .ack p l c | .nackCrc p l c | .pause p l c | .pauseAck p l c | .resume p l c
  | .lambdaAddAck p l c | .lambdaDrop p l c | .lambdaDropAck p l c | .lambdaRefuse p l c | .msgNack p l c | .bindAnswer p l c
  | .credit p l c => fibreOk p l && c.wf
  | .lambdaAdd p l c _ => fibreOk p l && c.wf
  | .dataFrameReceive p l f bs es => fibreOk p l && f.1.wf && bs.length == es.length && es.all fun x => x.all fun i => decide (i < 282)
  | .controlResend p l _ | .reassemblyExpiry p l _ => fibreOk p l
  | .transitForward _ => true
  | .combEvaluation power | .combSwitchDone _ power => power.all fun l => decide (l.length ≤ 34) && l.all fun x => x.length == 10
  | .sourceRetest l => decide (l.length ≤ 34)
  | .spareReady | .switchoverSwitch => true
  | .combForce g => decide (g < 3)
  | .watchdogTest e _ => e.wf
  | .engineReset p k | .tileReset p k | .portReset p k | .opticalEngineReset p k | .dieReset p k | .contextReset p k
  | .moduleRingReset p k | .moduleReset p k => hostPortOk p && decide (k < 256)
  | .resetDone _ fs | .startupStepComplete fs _ => fs.all StepReport.wf
  | .keystoneHeartbeatCheck _ | .powerGood | .ks1LeadsStartup | .counterCalibration _ _ | .firmwareCommandDone | .keyInstallDone => true
  | .configRequest p r _ => hostPortOk p && decide (r < 4096) && r % 4 == 0
  | .stage p _ | .debugUnlock p _ | .keyInstall p _ => hostPortOk p
  | .activate p | .confirm p | .commitSvn p | .getVersion p | .getCapabilities p | .negotiateAlgorithms p | .getDigests p | .keyUpdate p
  | .heartbeat p | .endSession p | .doeAbort p | .perstAssert p | .perstDeassert p | .dlDown p => hostPortOk p
  | .getCertificate p s _ _ => hostPortOk p && decide (s < 8)
  | .challenge p s n => hostPortOk p && decide (s < 8) && n.length == 32
  | .getMeasurements p i _ n => hostPortOk p && decide (i < 256) && n.length == 32
  | .keyExchange p _ => hostPortOk p
  | .finish p _ => hostPortOk p
  | .ideFail p s => hostPortOk p && decide (s < 4)
  | .clockSet d _ => dieOk d
  | .highClkSet _ => true
  | .supplyLow v | .supplyHigh v | .supplyLost v => decide (v < 2 ^ 16)
  | .droopDetect i => i.1.wf
  | .droopStep i | .droopStepRaise i | .thermalLevelFall i | .thermalRecovery i => i.wf
  | .thermalReading i _ => i.wf
  | .coolantHot _ => true
  | .dlUp p v w f _ => hostPortOk p && linkKindOk v w f
  | .hostLossTest p _ => hostPortOk p
  | .bar2Read p _ n _ => hostPortOk p && decide (0 < n)
  | .bar2Write p _ b _ _ => hostPortOk p && !b.isEmpty
  | .apertureWrite p _ => hostPortOk p
  | .aliasWrite p o w _ | .aliasRead p o w => accessOperandOk p o w
  | .bar0InvalidAccess p o n => hostPortOk p && !accessOperandOk p o n
  | .msixUnmask p e => hostPortOk p && decide (e < 2048)
  | .fruRead o n => decide (o + n ≤ 512)
  | .inputV | .inputI | .inlet | .outlet | .hot | .state => true
  | .ideKm p s k => hostPortOk p && decide (s < 4) && !k.isEmpty
  | .doeDiscovery p _ => hostPortOk p
  | .ueSuppressed d => dieOk d

end Sys2Proof
end

