-- ==== Sys2Proof/Machine/HostLink.lean ====
section
/-! DEFINITION. Host ports: loss and return, ownership, BAR2 and MSI-X (18 R423-R436, R440, R441; 14 R351; log 41). -/

namespace Sys2Proof.Machine

/-! ## A port goes down (R432) -/

/-- The port's configuration state is discarded; its PCIE registers stay. -/
def Hw.portDown (h : Hw) (p : Nat) : Hw :=
  h.setHost p fun q =>
    { q with up := false, configured := false, busMaster := false, config := [], bar2Log := 6, msix := [], pba := []
             d3 := false, aer := {}, msixOn := false, msixMask := false
             ide := List.replicate 4 {}, spdm := {} }

/-- PERST_ASSERT. -/
def execPerstAssert (port : Nat) (s : State) : Host.Outcome State Fault Refusal :=
  actPin (fun h => (h.setHost port fun q => { q with perst := true }).portDown port) s

/-- PERST_DEASSERT: the time of R390 runs from it. -/
def execPerstDeassert (port : Nat) (s : State) : Host.Outcome State Fault Refusal :=
  actPin (fun h => if (h.host port).perst then h.setHost port fun q => { q with perst := false, configFrom := h.now } else h) s

/-- DL_DOWN. -/
def execDlDown (port : Nat) (s : State) : Host.Outcome State Fault Refusal :=
  act (fun h => if (h.host port).up then h.portDown port else h) s

/-- What waited for a port is written or dropped: no command waits for it any longer (R59, R434). -/
def Hw.hostWritesDone (h : Hw) (p : Nat) : Hw := { h with accesses := h.accesses.filter fun (a : Access) => a.home != .host p }

/-! ## A port returns (R432, R435) -/

/-- OWNER_MOVED to a context's new owner; `p` is the port lost or returned. -/
def Hw.moveOwner (h : Hw) (p o n : Nat) : Hw :=
  let h := h.setCtx n fun c => { c with owner := o, orphan := false }
  h.evCtx n 0x0802 (srcBridge p) (n + 16 * o) (h.ctx n).epoch.toNat

/-- A lost port returns: it takes every faulted context whose ownership could not move. -/
def Hw.portReturns (h : Hw) (p : Nat) : Hw :=
  if !(h.host p).lost then h
  else
    let h := (h.setHost p fun q => { q with lost := false }).evMod 0x0803 (srcBridge p) 0 0
    (List.range 16).foldl (fun h n =>
      if (h.ctx n).orphan && (h.ctx n).state != .free then (h.moveOwner p p n).evCtx n 0x0106 srcModule (h.ctx n).cause 0 else h) h

/-- Whether the host bridges have power: from step 6 of start-up on, and out of service wherever start-up ended (R390, R392). -/
def Hw.bridgesOn (h : Hw) : Bool := decide (6 ≤ h.ks.step) || h.ks.boot == .outOfService

/-- DL_UP: a link of a rate and width of R423, on a port whose reference clock is present (R446). What waited is written, a port below 64 GT/s or x8 is told, and with Bus Master Enable a lost port returns. -/
def execDlUp (port speed width : Nat) (flit busMaster : Bool) (s : State) : Host.Outcome State Fault Refusal :=
  act (fun h =>
    let q := h.host port
    if q.up || q.perst || !h.bridgesOn || !q.clock || !linkKindOk speed width flit then h
    else
      let h := h.setHost port fun q =>
        { q with up := true, speed := speed, width := width, flit := flit, busMaster := busMaster, waiting := []
                 mem := q.waiting.foldl (fun m (x : Nat × List Byte) => cellWrite m x.1 x.2) q.mem }
      let h := (h.hostWritesDone port).msixFlush port
      let h := if speed ≠ 6 ∨ width ≠ 8 then h.evMod 0x0804 (srcBridge port) (speed + 16 * width) 0 else h
      if busMaster then h.portReturns port else h) s

/-! ## A port is lost (R433-R436) -/

/-- Stop the rings of a context whose completion path is lost: their records are discarded. -/
def Hw.stopSilently (h : Hw) (n : Nat) : Hw :=
  (h.ctxRings n).foldl (fun h r => (h.abortRing r).setRing r fun w => { w with records := [] }) h

/-- The non-FREE contexts a port owns. -/
def Hw.owned (h : Hw) (p : Nat) : List Nat := (List.range 16).filter fun n => (h.ctx n).state != .free && (h.ctx n).owner == p

/-- A context that a lost port's owner loses: OPEN, ACTIVE or QUIESCING. -/
def CtxState.live (c : CtxState) : Bool := c == .opened || c == .active || c == .quiescing

/-- A port is lost: the five steps of R434, and the end of an OPEN through it. The records of its module ring wait (R67), and an event
ring whose EN was never 1 goes on holding its events (R67). -/
def Hw.portLost (h : Hw) (p : Nat) : Hw :=
  let o := 1 - p
  let mine := h.owned p
  let live := mine.filter fun n => (h.ctx n).state.live
  let h := h.setHost p fun q => { q with lost := true }
  let h := h.evMod 0x0801 (srcBridge p) (b2n (h.host p).perst) (maskOf 16 live.contains)
  let h := h.startReset (.ring p) 0
  let h := h.setOutRing true p fun e => { e with en := false }
  let h := live.foldl Hw.stopSilently h
  let h := (h.setHost p fun q => { q with waiting := [] }).hostWritesDone p
  let moves := !(h.host o).lost && (h.host o).failover
  let h := if moves then mine.foldl (fun h n => h.moveOwner p o n) h else h
  let h := mine.foldl (fun h n => h.faultCtx n 9) h
  let h := if moves then h else mine.foldl (fun h n => h.setCtx n fun c => { c with orphan := c.state == .faulted }) h
  (List.range 16).foldl (fun h n =>
    match (h.ctx n).busy with
    | some (b, _) => if b = p then h.openFails n p (stStateConflict, 0x0117) else h
    | none => h) h

/-- HOST_LOSS_TEST: `downMs` is how long the port has been down without a break. -/
def execHostLossTest (port downMs : Nat) (s : State) : Host.Outcome State Fault Refusal :=
  act (fun h =>
    let q := h.host port
    if !q.lost && (q.perst || !q.up) && decide (q.lossMs ≤ downMs) && decide (port < 2) then h.portLost port else h) s

/-! ## BAR2 (R390, R426, R427, R351) -/

/-- The address at which the host placed BAR2. -/
def HostPort.bar2Base (q : HostPort) : Nat :=
  let dword (o : Nat) : Nat := match q.config.find? (·.1 == o) with | some x => x.2.toNat | none => 0
  dword 0x18 / 16 * 16 + 2 ^ 32 * dword 0x1C

/-- Whether start-up has reached the end in which BAR2 reaches HBM. -/
def Hw.bar2Open (h : Hw) : Bool := h.ks.boot == .ready || h.ks.boot == .outOfService

/-- Whether a BAR2 request reaches the port and stays inside the aperture. -/
def Hw.bar2Takes (h : Hw) (p offset n : Nat) : Bool := h.reaches p && decide (offset + n ≤ 2 ^ (h.host p).bar2Log * gib)

/-- A poisoned PCIe request or completion is counted and told: direction 0 received, 1 sent. -/
def Hw.pciePoison (h : Hw) (p dir addr : Nat) : Hw :=
  let h := (h.setHost p fun q =>
    if dir = 0 then { q with poisonRx := satAdd q.poisonRx 1 } else { q with poisonTx := satAdd q.poisonTx 1 }
    ).evMod 0x0504 (srcBridge p) dir addr
  if dir = 0 then h.reportAer p aerPoison else h

/-- Whether a BAR2 access at a module address waits for the HBM controllers, or behind one that waits (R213, R216). -/
def Hw.bar2Waits (h : Hw) (k : Nat) : Bool := !h.heldAccesses.isEmpty || h.hbmBusy .bulk k

/-- A read through BAR2 at its home; `base` is where the aperture stood when it was received (R427). -/
def Hw.bar2Read (h : Hw) (port base offset count : Nat) (env : Env) : Hw :=
  let k := base + offset
  if h.bar2Waits k then { h with heldAccesses := h.heldAccesses ++ [{ what := .bar2Read port base offset count, env := env }] }
  else
      let h := h.readErrors env (groupsOf k count)
      let po := h.poisonedAt k count
      let h := if po then h.pciePoison port 1 ((h.host port).bar2Base + offset) else h
      h.emit (.bar2 port (h.memRead k count) po)

/-- A write through BAR2 at its home. -/
def Hw.bar2Write (h : Hw) (port base offset : Nat) (bytes : List Byte) (poisoned : Bool) (env : Env) : Hw :=
  let k := base + offset
  if h.bar2Waits k then { h with heldAccesses := h.heldAccesses ++ [{ what := .bar2Write port base offset bytes poisoned, env := env }] }
  else
    let w := { ({} : Writes).add k bytes with marks := if poisoned then (groupsOf k bytes.length).map (32 * ·) else [] }
    (h.writeErrors env w).applyWrites w

/-- BAR2_READ. -/
def execBar2Read (port offset count : Nat) (env : Env) (s : State) : Host.Outcome State Fault Refusal :=
  act (fun h =>
    if !h.bar2Takes port offset count then h
    else if !h.bar2Open then h.emit (.bar2 port (zeros count) false)
    else h.bar2Read port (h.host port).aperture offset count env) s

/-- BAR2_WRITE. -/
def execBar2Write (port offset : Nat) (bytes : List Byte) (poisoned : Bool) (env : Env) (s : State) : Host.Outcome State Fault Refusal :=
  act (fun h =>
    if !h.bar2Takes port offset bytes.length then h
    else
      let h := if poisoned then h.pciePoison port 0 ((h.host port).bar2Base + offset) else h
      if !h.bar2Open then h else h.bar2Write port (h.host port).aperture offset bytes poisoned env) s

/-- APERTURE_WRITE. -/
def execApertureWrite (port : Nat) (value : W64) (s : State) : Host.Outcome State Fault Refusal :=
  actFrom port (0x20008 + 0x1000 * port) (fun h => h.setHost port fun q => { q with apertureBase := bits value.toNat 39 30 }) s

/-! ## MSI-X (R429, R472) -/

/-- Write a dword of a port's MSI-X table; an entry that loses its mask while pending sends its message. -/
def Hw.msixWrite (h : Hw) (p i : Nat) (v : W32) : Hw :=
  let v := if i % 4 = 3 then v &&& 1 else v
  let reset : W32 := if i % 4 = 3 then 1 else 0
  let h := h.setHost p fun q =>
    { q with msix := (q.msix.filter fun (x : Nat × W32) => x.1 != i) ++ (if v = reset then [] else [(i, v)]) }
  if i % 4 = 3 then h.msixFlush p else h

/-- MSIX_UNMASK. -/
def execMsixUnmask (port entry : Nat) (s : State) : Host.Outcome State Fault Refusal :=
  actFrom port (0x38000C + 16 * entry) (fun h => if entry < 2048 then h.msixWrite port (4 * entry + 3) 0 else h) s

end Sys2Proof.Machine
end

