-- ==== Sys2Proof/Machine/CombSource.lean ====
section
/-! DEFINITION. The comb sources: deviations, thresholds, lost lines, the spare and switchover (10 R260-R271; log 37). Powers are in units
of 0.01 dBm, and deviations, the sums of ten samples, in units of 0.001 dB. -/

namespace Sys2Proof.Machine

def Hw.setComb (h : Hw) (f : Comb → Comb) : Hw := { h with comb := f h.comb }

/-- The source that feeds a group. -/
def Comb.source (c : Comb) (g : Nat) : Nat := c.groupSrc.getD g 0

/-- The links of a group's sixteen ports. -/
def groupLinks (g : Nat) : List (Nat × Nat) := allLinks.filter fun x => x.1 / 16 == g

/-! ## Deviations (R262, R263) -/

/-- The commissioning value of a line at an engine of a group that a source feeds (R262). -/
def Hw.commissioned (h : Hw) (src e j : Nat) : Int :=
  (((h.flash.commissioning.getD src []).getD (e / 8) []).getD (e % 8) []).getD j 0

/-- The deviations of an engine's 34 lines under a source: ten samples of each line's power, less its commissioning value. -/
def Hw.deviations (h : Hw) (src e : Nat) (power : List (List Int)) : List Int :=
  (List.range 34).map fun j => (((power.getD j []).take 10).map fun x => x - h.commissioned src e j).sum

def insertInt (x : Int) : List Int → List Int
  | [] => [x]
  | y :: r => if x ≤ y then x :: y :: r else y :: insertInt x r

/-- Twice the median of eight deviations: the sum of the fourth and the fifth in order. -/
def median2 (l : List Int) : Int :=
  let s := l.foldr insertInt []
  s.getD 3 0 + s.getD 4 0

/-- Twice the group deviation of a line. -/
def Hw.groupDev2 (h : Hw) (g j : Nat) : Int := median2 ((List.range 8).map fun e => (h.oe (8 * g + e)).dev.getD j 0)

/-- The lines that take part in the group's mean. -/
def Hw.meanLines (h : Hw) (g : Nat) : List Nat :=
  (List.range 34).filter fun j => !(List.range 8).all fun e => (h.oe (8 * g + e)).disabled.getLsbD j

/-! ## The spare (R261, R270) -/

/-- Light the spare where there is one. -/
def Comb.light (c : Comb) : Comb := if c.spare.isSome && !c.spareLit then { c with spareLit := true, spareReady := false } else c

/-- Darken the spare where no group needs it. -/
def Comb.darken (c : Comb) : Comb :=
  if c.watch.any id || c.wantSwitch.any id || c.switching.isSome then c else { c with spareLit := false, spareReady := false }

/-! ## WATCH (R264) -/

/-- The worst line of a group: the lowest deviation, the lowest number of equals. -/
def Hw.worstLine (h : Hw) (g : Nat) : Nat :=
  (List.range 34).foldl (fun b j => if h.groupDev2 g j < h.groupDev2 g b then j else b) 0

/-- WATCH of a group. COMB_WATCH shows the deviation rounded down to units of 0.01 dB (DESIGN CHOICE; log 37). -/
def Hw.watchStep (h : Hw) (g : Nat) : Hw :=
  let w := h.worstLine g
  let low := h.groupDev2 g w
  if low ≤ -2000 then
    let first := !h.comb.watch.getD g false
    let h := h.setComb fun c => ({ c with watch := c.watch.set g true, watchClear := c.watchClear.set g none } : Comb).light
    if first then h.evMod 0x0310 (srcComb (h.comb.source g)) (g + 16 * w + 65536 * (BitVec.ofInt 16 (low / 20)).toNat) 0 else h
  else if !h.comb.watch.getD g false then h
  else if low ≤ -1400 then h.setComb fun c => { c with watchClear := c.watchClear.set g none }
  else
    let since := (h.comb.watchClear.getD g none).getD h.now
    if since + 10 * second ≤ h.now then
      h.setComb fun c => ({ c with watch := c.watch.set g false, watchClear := c.watchClear.set g none } : Comb).darken
    else h.setComb fun c => { c with watchClear := c.watchClear.set g (some since) }

/-! ## Lost lines (R264, R265) -/

/-- A line goes out in one engine: it is a dropped λ on every link that holds it. -/
def Hw.loseLine (h : Hw) (e j : Nat) : Hw :=
  let h := h.setOe e fun o => { o with disabled := lambdaIns o.disabled j }
  (engineLinks (2 * e)).foldl (fun h x =>
    if (h.link x.1 x.2).valid && (h.link x.1 x.2).lit.getLsbD j then
      ((h.setLink x.1 x.2 fun k => { k with lostLines := lambdaIns k.lostLines j }).loseLambda x.1 x.2 j).refill x.1 x.2 (some j)
    else h) h

def Hw.lostStep (h : Hw) (g j : Nat) : Hw :=
  let d := h.groupDev2 g j
  if d ≤ -7000 then
    if (h.comb.groupLost.getD g 0).getLsbD j then h
    else
      let h := h.setComb fun c => { c with groupLost := c.groupLost.modify g fun s => lambdaIns s j }
      let h := h.evMod 0x0313 (srcComb (h.comb.source g)) (g + 16 * j + 1024 * 0x3F) 0
      forN 8 h fun h e => if (h.oe (8 * g + e)).disabled.getLsbD j then h else h.loseLine (8 * g + e) j
  else
    forN 8 h fun h e =>
      let k := 8 * g + e
      if (h.oe k).dev.getD j 0 ≤ -3500 ∧ (h.oe k).disabled.getLsbD j = false then
        (h.evMod 0x0313 (srcComb (h.comb.source g)) (g + 16 * j + 1024 * k) 0).loseLine k j
      else h

/-- A group with every line disabled: the module goes OUT_OF_SERVICE (R270, R372). -/
def Hw.darkGroup (h : Hw) (g : Nat) : Hw := (h.evMod 0x0317 (srcComb (h.comb.source g)) g 0).enterOos 5

/-! ## Switchover (R266, R269) -/

/-- A link that takes part in a switchover's pause. -/
def Link.pauses (k : Link) : Bool := k.valid && k.state == .up && !k.legacy

/-- Steps 1 and 2: data frames stop, and every UP link is sent PAUSE for 1,000 µs. COMB_SWITCH_START and COMB_PAUSE_FAIL carry the old
source's index in SOURCE, COMB_SWITCH_DONE the new one's (DESIGN CHOICE; log 37). -/
def Hw.startSwitch (h : Hw) (g spare : Nat) : Hw :=
  let s := h.comb.source g
  let h := h.evMod 0x0311 (srcComb s) (g + 4 * s + 16 * spare) 0
  let h := h.setComb fun c =>
    { c with switching := some { group := g, source := s, spare := spare }, wantSwitch := c.wantSwitch.set g false }
  (groupLinks g).foldl (fun h x =>
    if (h.link x.1 x.2).pauses then
      ((h.dropChange x.1 x.2).setLink x.1 x.2 fun k => { k with pausing := some 1, pauseAcked := false }).sendCtrl x.1 x.2 0x06 1000 0 0 0
    else h) h

/-- Start the switchover that waits for the spare, once it is READY. -/
def Hw.tryswitch (h : Hw) : Hw :=
  match h.comb.wantSwitch.idxOf? true, h.comb.spare with
  | some g, some p => if h.comb.spareReady && h.comb.switching.isNone then h.startSwitch g p else h
  | _, _ => h

/-- Whether a group has reached SWITCH. -/
def Hw.switchDue (h : Hw) (g : Nat) : Bool :=
  let low := ((List.range 34).filter fun j => decide (h.groupDev2 g j ≤ -4000)).length
  let ls := h.meanLines g
  decide (4 ≤ low) || (!ls.isEmpty && decide ((ls.map fun j => h.groupDev2 g j).sum ≤ -4000 * (ls.length : Int)))

/-- COMB_NO_SPARE, once per group per hour. -/
def Hw.noSpare (h : Hw) (g : Nat) : Hw :=
  let due := match h.comb.noSpareAt.getD g none with | some t => decide (t + 3600 * second ≤ h.now) | none => true
  if due then (h.setComb fun c => { c with noSpareAt := c.noSpareAt.set g (some h.now) }).evMod 0x0314 (srcComb (h.comb.source g)) g 0 else h

def Hw.switchStep (h : Hw) (g : Nat) : Hw :=
  if !h.switchDue g || h.comb.wantSwitch.getD g false then h
  else if h.comb.spare.isNone || h.comb.switching.isSome || h.comb.wantSwitch.any id then h.noSpare g
  else h.setComb fun c => ({ c with wantSwitch := c.wantSwitch.set g true } : Comb).light

/-- Whether every line of a group is disabled in all its engines, for the group or engine by engine (R270). -/
def Hw.groupDark (h : Hw) (g : Nat) : Bool := (h.meanLines g).isEmpty

/-- One group's evaluation; a group that is being switched over is not judged (log 37). -/
def Hw.evalGroup (h : Hw) (g : Nat) : Hw :=
  if (match h.comb.switching with | some s => s.group == g | none => false) then h
  else
    let h := (h.watchStep g).switchStep g
    let after := forN 34 h fun h j => h.lostStep g j
    if !h.groupDark g && after.groupDark g then after.darkGroup g else after

/-- COMB_EVALUATION: `power` holds the ten samples of each engine's lines since the last one. -/
def execCombEvaluation (power : List (List (List Int))) (s : State) : Host.Outcome State Fault Refusal :=
  act (fun h =>
    let h := forN 24 h fun h e => h.setOe e fun o => { o with dev := h.deviations (h.comb.source (e / 8)) e (power.getD e []) }
    if h.ks.boot == .starting || h.ks.boot == .recovery then h else (forN 3 h fun h g => h.evalGroup g).tryswitch) s

/-- SPARE_READY: the lit spare has settled. -/
def execSpareReady (s : State) : Host.Outcome State Fault Refusal :=
  act (fun h => if h.comb.spareLit then (h.setComb fun c => { c with spareReady := true }).tryswitch else h) s

/-- COMB_FORCE: the write is refused whole without a spare or while SWITCHING is 1 (R273, R467); group 3 selects nothing. A group that
waits for the spare loses it to the one that is forced (log 37). -/
def execCombForce (group : Nat) (s : State) : Host.Outcome State Fault Refusal :=
  actReg 0x124 (fun h =>
    if h.comb.spare.isNone ∨ h.comb.switching.isSome then h
    else
      let h := h.setComb fun c => { c with ctlGroup := group % 4 }
      if 3 ≤ group % 4 then h
      else
        let losers := (List.range 3).filter fun g => g != group % 4 && h.comb.wantSwitch.getD g false
        let h := losers.foldl (fun h g => h.noSpare g) h
        (h.setComb fun c => ({ c with wantSwitch := (List.range 3).map (· == group % 4) } : Comb).light).tryswitch) s

/-- PAUSE_ACK_TIMEOUT (R250, R269): for a switchover, PAUSE is sent up to three times, and the switchover then proceeds without the link. A
link that paused for a lost control λ does not darken it, and goes on (log 50). -/
def execPauseAckTimeout (fport link : Nat) (s : State) : Host.Outcome State Fault Refusal :=
  act (fun h =>
    let k := h.link fport link
    match k.pausing with
    | none => h
    | some n =>
      if k.darken.isSome ∧ h.switchStops fport = false then
        h.setLink fport link fun k => { k with pausing := none, darken := none, dropping := match k.darken with | some i => lambdaDel k.dropping i | none => k.dropping }
      else if k.pauseAcked || 4 ≤ n then h
      else if n < 3 then (h.setLink fport link fun k => { k with pausing := some (n + 1) }).sendCtrl fport link 0x06 1000 0 0 0
      else
        let src := match h.comb.switching with | some s => srcComb s.source | none => srcModule
        (h.setLink fport link fun k => { k with pausing := some 4 }).evMod 0x0316 src (fport + 64 * link) 0) s

/-- SWITCHOVER_SWITCH: step 4, with the new map in flash (R260), once every paused link has answered and every data frame is acknowledged. -/
def execSwitchoverSwitch (s : State) : Host.Outcome State Fault Refusal :=
  act (fun h =>
    match h.comb.switching with
    | none => h
    | some w =>
      let ready := (groupLinks w.group).all fun x =>
        let k := h.link x.1 x.2
        match k.pausing with
        | some n => if k.state != .up then true else if n = 4 then true else k.pauseAcked && k.replay.isEmpty
        | none => true
      if w.dark || !ready then h
      else (h.flashWrite recHealth id).setComb fun c =>
        { c with switching := some { w with dark := true }, groupSrc := c.groupSrc.set w.group w.spare, spare := none, spareLit := false
                 spareReady := false, retest := some w.source }) s

/-- A link of the group that was dark returns: RESYNC on every link that stayed UP, with RESUME on those that were paused, and the
acknowledgements that waited (R266, R267, R269). -/
def Hw.relight (h : Hw) (p l : Nat) : Hw :=
  let k := h.link p l
  let h := h.setLink p l fun k => { k with pausing := none, pauseAcked := false, darken := none }
  if !k.valid || k.state != .up then (if k.valid && k.state == .paused then h.sendAck p l else h)
  else
    let h := (h.sendResync p l).setLink p l fun k => { k with resynced := true }
    (if k.pausing.isSome then h.sendCtrl p l 0x08 0 0 0 0 else h).sendAck p l

/-- COMB_SWITCH_DONE: step 7. The links return, and the lines that were disabled rejoin theirs; `power` holds the ten samples of the
group's engines under the spare, by which step 6 confirms the lines. -/
def execCombSwitchDone (micros : Nat) (power : List (List (List Int))) (s : State) : Host.Outcome State Fault Refusal :=
  act (fun h =>
    match h.comb.switching with
    | none => h
    | some w =>
      if !w.dark then h
      else
        let g := w.group
        let h := (groupLinks g).foldl (fun h x => h.setLink x.1 x.2 fun k => { k with dropping := k.dropping &&& ~~~(h.oe (x.1 / 2)).disabled }) h
        let h := forN 8 h fun h e => h.setOe (8 * g + e) fun o =>
          { o with dev := h.deviations w.spare (8 * g + e) (power.getD e []), disabled := 0 }
        let h := h.setComb fun c =>
          ({ c with switching := none, groupLost := c.groupLost.set g 0, watch := c.watch.set g false
                    watchClear := c.watchClear.set g none } : Comb)
        let h := (groupLinks g).foldl (fun h x => h.relight x.1 x.2) h
        let h := h.evMod 0x0312 (srcComb w.spare) (g + 4 * w.source + 16 * w.spare) micros
        (groupLinks g).foldl (fun h x => if (h.link x.1 x.2).valid then h.settle x.1 x.2 else h) h) s

/-- SOURCE_RETEST: the retired source becomes the spare when every line lies above −1.0 dB of its commissioning value at the monitor port, and
is FAILED otherwise (R262, R271). -/
def execSourceRetest (power : List Int) (s : State) : Host.Outcome State Fault Refusal :=
  act (fun h =>
    match h.comb.retest with
    | none => h
    | some n =>
      if h.comb.switching.isSome then h
      else
        let good := (List.range 34).all fun j => decide (-100 < power.getD j 0 - (h.flash.monitorPower.getD n []).getD j 0)
        let h := (h.flashWrite recHealth id).setComb fun c =>
          if good then { c with retest := none, spare := some n, spareLit := false, spareReady := false }
          else { c with retest := none, failed := setIns c.failed n }
        h.evMod 0x0315 (srcComb n) (n + 256 * b2n (!good)) 0) s

end Sys2Proof.Machine
end

