-- ==== Sys2Proof/Machine/Hbm.lean ====
section
/-! DEFINITION. HBM controllers, memory-side adders, address maps, scrubbing, invalidation of translations, and the loss of a stack
(08 R207, R208, R213, R215-R220, R226, R228; log 35). -/

namespace Sys2Proof.Machine

def Hw.setHbm (h : Hw) (d : Nat) (f : Hbm → Hbm) : Hw := h.setDie d fun x => { x with hbm := f x.hbm }
def Hw.hbm (h : Hw) (d : Nat) : Hbm := (h.die d).hbm

/-! ## Translations (R226) -/

/-- Every cached translation of a context goes. -/
def Hw.dropXlat (h : Hw) (n : Nat) : Hw :=
  { h with dies := h.dies.map fun (d : Die) => { d with xlat := d.xlat.filter fun (x : XEntry) => x.ctx != n } }

/-- XLAT_INV: a write of the owning port (R90, R230). Of an access made while BUSY is 1, which may use the old entry or the new one, the model
takes the tables as they stand, or a translation walked since the write (DESIGN CHOICE; log 16). -/
def execXlatInv (port ctx : Nat) (s : State) : Host.Outcome State Fault Refusal :=
  actFrom port (ctxOff ctx) (fun h =>
    if (h.ctx ctx).owner != port then h else (h.setCtx ctx fun c => { c with xlatBusy := true }).dropXlat ctx) s

/-- XLAT_INV_DONE: nothing cached while BUSY was 1 is left. -/
def execXlatInvDone (ctx : Nat) (s : State) : Host.Outcome State Fault Refusal :=
  act (fun h => if (h.ctx ctx).xlatBusy then (h.setCtx ctx fun c => { c with xlatBusy := false }).dropXlat ctx else h) s

/-! ## Rate and map (R213, R215) -/

/-- Whether HBM_CFG can change: every context is FREE, and start-up has not taken its value yet or is over, so that READY shows what it held at
step 8 (R404; log 35). -/
def Hw.hbmCfgOk (h : Hw) : Bool := h.allFree && !(h.ks.boot == .starting && decide (8 ≤ h.ks.step))

/-- HBM_RATE_SET: every stack trains at the new rate, with its content kept; before step 8 of start-up none has trained yet. -/
def execHbmRateSet (rate : Nat) (s : State) : Host.Outcome State Fault Refusal :=
  actReg 0x108 (fun h =>
    if 3 ≤ rate ∨ h.hbmCfgOk = false then h
    else if h.ks.boot == .starting then { h with lim := { h.lim with rate := rate } }
    else
      { h with lim := { h.lim with rate := rate }
               dies := h.dies.map fun (d : Die) => { d with hbm := { d.hbm with training := true } } }) s

/-- The module byte address at an offset of a stack under LOCAL_GIB = `l`: the inverse of R214 and R215. -/
def stackAddr (l stack off : Nat) : Nat :=
  if off < (64 - l) * gib then
    let up := off / 4096 * 65536
    up + 4096 * (interleave up ^^^ stack) + off % 4096
  else 16 * (64 - l) * gib + stack * (l * gib) + (off - (64 - l) * gib)

/-- What a key of HBM, which has 40 bits, is called once LOCAL_GIB changes. -/
def remap (old new k : Nat) : Nat := if k < 2 ^ 40 then stackAddr new (stackOf old k) (stackOffset old k) else k

/-- HBM_LOCAL_SET: the map changes and no data moves, so every byte and every mark is found at its address under the new map. -/
def execHbmLocalSet (gib : Nat) (s : State) : Host.Outcome State Fault Refusal :=
  actReg 0x108 (fun h =>
    if 32 < gib ∨ h.hbmCfgOk = false then h
    else
      let f := remap h.lim.localGib gib
      { h with lim := { h.lim with localGib := gib }
               mem := h.mem.foldl (fun m (x : Host.Cell) => cellSet m (f x.1) x.2) []
               poison := h.poison.foldl (fun p g => setIns p (f (32 * g) / 32)) [] }) s

/-! ## Request slots (R216-R218) -/

/-- Requests of a bank queue. -/
def Hbm.bank (b : Hbm) (k : Nat) : List HbmSlot := b.slots.filter fun (s : HbmSlot) => s.bank == k

/-- Whether a request can take a slot of a controller: the bank's cap of 16, its requester's of 128, and its class's slots: 64 of the 512 are
kept for CRIT, and PREFETCH holds at most 128. -/
def Hbm.fits (b : Hbm) (q : HbmSlot) : Bool :=
  decide ((b.bank q.bank).length < 16) && decide ((b.slots.filter fun (s : HbmSlot) => s.requester == q.requester).length < 128) &&
  !b.classFull q.cls

/-- Requests of a requester that have taken slots, in every controller. -/
def Hw.inFlight (h : Hw) (q : HbmRequester) : Nat := (h.dies.map fun (d : Die) => (d.hbm.slots.filter fun (s : HbmSlot) => s.requester == q).length).sum

/-- Whether a gather engine has room for one more read: 128 requests in flight, and 64 KiB of data in its reorder buffer or on their way to
it (R221). -/
def Hw.gatherRoom (h : Hw) (q : HbmRequester) : Bool :=
  match q with
  | .gatherEngine _ _ => decide (h.inFlight q < 128) && decide (h.inFlight q + (h.reorder.filter fun x => x.1 == q).length < 2048)
  | _ => true

/-- A request takes a slot, or makes its requester wait behind it: a requester issues in order, to whichever controller (R218). -/
def Hw.offer (h : Hw) (stack : Nat) (q : HbmSlot) : Hw :=
  let b := h.hbm stack
  let behind := h.dies.any fun (d : Die) => d.hbm.waiting.any fun (s : HbmSlot) => s.requester == q.requester
  if b.training || behind || !b.fits q || !h.gatherRoom q.requester then h.setHbm stack fun b => { b with waiting := b.waiting ++ [q] }
  else h.setHbm stack fun b => { b with slots := b.slots ++ [q] }

/-- A waiting request among others, by its number. -/
def insRequest (x : Nat × HbmSlot) : List (Nat × HbmSlot) → List (Nat × HbmSlot)
  | [] => [x]
  | y :: r => if x.2.num < y.2.num then x :: y :: r else y :: insRequest x r

/-- The requests that wait, with their stacks, in the order of their issue. -/
def Hw.waitingRequests (h : Hw) : List (Nat × HbmSlot) :=
  (h.dies.zipIdx.flatMap fun (x : Die × Nat) => x.1.hbm.waiting.map fun q => (x.2, q)).foldl (fun l x => insRequest x l) []

/-- Waiting requests are offered again, in order. -/
def Hw.refillSlots (h : Hw) : Hw :=
  h.waitingRequests.foldl (fun h x => h.offer x.1 x.2) { h with dies := h.dies.map fun (d : Die) => { d with hbm := { d.hbm with waiting := [] } } }

/-- The class of a request (R216, R223): writes are BULK; operands, page tables and what a gather engine delivers to a tile are CRIT; the
prefetch unit and read-ahead are PREFETCH; a gather engine that a command holds, a copy engine, the reduction engine and the optics
are BULK. -/
def Hw.requestClass (h : Hw) (q : HbmRequester) (ahead : Nat) (write : Bool) : HbmClass :=
  if write then .bulk
  else match q with
  | .operandPort _ _ => .crit
  | .pageWalker _ => .crit
  | .prefetchUnit _ => .prefetch
  | .gatherEngine d n =>
    if ahead ≠ 0 then .prefetch else if (h.dieAux d).holders.any fun x => x.1 == 2 + n then .bulk else .crit
  | _ => .bulk

/-- Demand of a requester reaches a request of class PREFETCH, which moves to CRIT: a gather engine's own read-ahead, or a request of the
prefetch unit of its die (R223). -/
def HbmSlot.reached (s : HbmSlot) (q : HbmRequester) (group : Nat) : Bool :=
  s.group == group && s.cls == .prefetch && s.data.isNone && !s.gone &&
  (match s.requester with
   | .gatherEngine _ _ => s.requester == q
   | .prefetchUnit d => s.requester != q && requesterDie q == some d
   | _ => false)

/-- The pages of 2 MiB that a CVA interval meets. -/
def pagesOf (x : Nat × Nat) : List Nat :=
  if x.2 ≤ x.1 then [] else (List.range ((x.2 - 1) / 2 ^ 21 - x.1 / 2 ^ 21 + 1)).map fun i => (x.1 / 2 ^ 21 + i) * 2 ^ 21

/-- Whether a group of HBM lies in the extent of a tensor of a context, at a page that is mapped (R104, R223). -/
def Hw.inExtent (h : Hw) (die n : Nat) (t : TD) (group : Nat) : Bool :=
  t.footprint.any fun x => (pagesOf x).any fun p =>
    match h.translate die n p false with
    | .ok (.own k _, _) =>
      decide (k / 32 ≤ group) && decide (group < (k + 2 ^ 21) / 32) && decide (x.1 < p + (32 * group + 32 - k)) && decide (p + (32 * group - k) < x.2)
    | _ => false

/-- Whether an engine may read a group ahead of demand: it lies in the extent of a tensor that a running command reads, at a mapped page; an
owned tensor's extents are its blocks', which the model does not look up (R223; log 35). -/
def Hw.aheadOk (h : Hw) (die group : Nat) : Bool :=
  h.rings.any fun w => !w.module && w.running.any fun c => c.phase != .done &&
    (c.tds ++ c.extraTds).any fun t => t.2.owned || h.inExtent die w.ctx t.2 group

/-- HBM_REQUEST: a read, or a write of 32 bytes, of a group homed on the stack. `ahead` is how many bytes of its stream a gather engine
reads it ahead of demand, at most 64 KiB and only what R223 lets it; demand that reaches such a request makes no second one. -/
def execHbmRequest (stack : Nat) (requester : HbmRequester) (bank ahead group : Nat) (data : Option (List Byte)) (s : State) :
    Host.Outcome State Fault Refusal :=
  actDie (fun h =>
    if 2 ^ 35 ≤ group ∨ h.homeDie (32 * group) ≠ stack ∨ 65536 < ahead then h
    else if ahead ≠ 0 ∧ (match requesterDie requester with | some d => h.aheadOk d group | none => true) = false then h
    else
      let b := h.hbm stack
      let demand := ahead = 0 ∧ data.isNone = true
      let up (s : HbmSlot) : HbmSlot := if s.reached requester group then { s with cls := .crit } else s
      let h := if demand then h.setHbm stack fun b => { b with slots := b.slots.map up, waiting := b.waiting.map up } else h
      if demand ∧ ((b.slots ++ b.waiting).any fun s => s.requester == requester && s.reached requester group) = true then h
      else
        { h with requests := h.requests + 1 }.offer stack
          { requester := requester, bank := bank, cls := h.requestClass requester ahead data.isSome, group := group, data := data, num := h.requests }) s

def classRank : HbmClass → Nat
  | .crit => 0
  | .bulk => 1
  | .prefetch => 2

/-- Whether the controller may issue the request in place n: none of its group stands before it, and no ready request of its bank has a
higher class. -/
def Hbm.mayIssue (b : Hbm) (n : Nat) : Bool :=
  let ready (i : Nat) (s : HbmSlot) : Bool := !(b.slots.take i).any fun (x : HbmSlot) => x.group == s.group
  match b.slots[n]? with
  | none => false
  | some q => ready n q && !b.slots.zipIdx.any fun (x : HbmSlot × Nat) => x.1.bank == q.bank && decide (classRank x.1.cls < classRank q.cls) && ready x.2 x.1

/-- The accesses that waited come again, in order; those that still wait stay (R213, R216). -/
def Hw.retryHeld (h : Hw) : Hw :=
  h.heldAccesses.foldl (fun h x =>
    -- what became visible in host memory is there already
    let e : Env := { x.env with host := [] }
    match x.what with
    | .access src a => h.memAccess src a e
    | .block n q => h.ownerBlock n q e
    | .bar2Read p b o n => h.bar2Read p b o n e
    | .bar2Write p b o bs po => h.bar2Write p b o bs po e
    | .landing n k q sh bs po done => h.landMessage n k q sh bs po e done
    | .collPartial n m src id => h.takePartial n m src id
    | .collResult n m src => h.takeResult n m src e) { h with heldAccesses := [] }

/-- The number of the earliest read of a requester that is still in a controller. -/
def Hw.oldestRead (h : Hw) (q : HbmRequester) : Option Nat :=
  ((h.dies.flatMap fun (d : Die) => d.hbm.slots ++ d.hbm.waiting).filter fun (s : HbmSlot) => s.requester == q && s.data.isNone && !s.gone).map (·.num) |>.min?

/-- Put data into a gather engine's reorder buffer, by number. -/
def insData (x : HbmRequester × Nat × Nat × List Byte × Bool) :
    List (HbmRequester × Nat × Nat × List Byte × Bool) → List (HbmRequester × Nat × Nat × List Byte × Bool)
  | [] => [x]
  | y :: r => if x.2.1 < y.2.1 then x :: y :: r else y :: insData x r

/-- Data of a completed read goes to its requester. A gather engine delivers in stream order whatever order the data returns in: data waits in
its reorder buffer while an earlier request of the engine is out (R221). -/
def Hw.deliverData (h : Hw) (q : HbmSlot) (bs : List Byte) (po : Bool) : Hw :=
  match q.requester with
  | .gatherEngine _ _ =>
    let all := insData (q.requester, q.num, q.group, bs, po) h.reorder
    let goes (x : HbmRequester × Nat × Nat × List Byte × Bool) : Bool :=
      x.1 == q.requester && (match h.oldestRead q.requester with | some k => decide (x.2.1 < k) | none => true)
    (all.filter goes).foldl (fun h x => h.emit (.hbmData (h.homeDie (32 * x.2.2.1)) x.1 x.2.2.1 x.2.2.2.1 x.2.2.2.2))
      { h with reorder := all.filter fun x => !goes x }
  | _ => h.emit (.hbmData (h.homeDie (32 * q.group)) q.requester q.group bs po)

/-- HBM_REQUEST_COMPLETE: the n-th slot's data is returned, or its write acknowledged. `ue` and `corrected` say what a read found. -/
def execHbmRequestComplete (stack n : Nat) (ue corrected : Bool) (s : State) : Host.Outcome State Fault Refusal :=
  actDie (fun h =>
    match (h.hbm stack).slots[n]? with
    | none => h
    | some q =>
      if !(h.hbm stack).mayIssue n || (h.hbm stack).training then h
      else
        let h := h.setHbm stack fun b => { b with slots := b.slots.eraseIdx n }
        let h := match q.data with
          | some bs =>
            let w := ({} : Writes).add (32 * q.group) (bs.take 32)
            let h := h.applyWrites w
            (match requesterDie q.requester with | some d => h.touchLines d w | none => h)
          | none =>
            let h := if ue then h.foundUe q.group else h
            let h := if corrected then h.foundCe q.group else h
            if q.gone then h else h.deliverData q (h.memRead (32 * q.group) 32) (h.poison.contains q.group)
        h.refillSlots.retryHeld) s

/-- HBM_REQUEST_AGEING: up one class. -/
def execHbmRequestAgeing (stack n : Nat) (s : State) : Host.Outcome State Fault Refusal :=
  actDie (fun h => h.setHbm stack fun b =>
    { b with slots := b.slots.modify n fun (q : HbmSlot) => { q with cls := match q.cls with | .prefetch => .bulk | _ => .crit } }) s

/-- HBM_BANK_SLOW: at most once per bank per second. -/
def execHbmBankSlow (stack bank : Nat) (s : State) : Host.Outcome State Fault Refusal :=
  actDie (fun h =>
    let b := h.hbm stack
    if (b.bank bank).length < 16 ∨ (b.slowAt.any fun x => x.1 == bank && decide (h.now < x.2 + second)) = true then h
    else
      (h.setHbm stack fun b => { b with slow := satAdd b.slow 1, slowAt := (b.slowAt.filter fun x => x.1 != bank) ++ [(bank, h.now)] }
        ).evMod 0x0202 (srcDie stack) (stack + 65536 * bank) 0) s

/-! ## Loss of a stack (R228) -/

/-- HBM_STACK_LOST: cause 1 training, 2 lanes or channels, 3 uncorrectable rate; contexts fault, and the module goes OUT_OF_SERVICE. -/
def Hw.stackLost (h : Hw) (k cause : Nat) : Hw :=
  if (h.hbm k).lost then h
  else
    let h := (h.setHbm k fun b => { b with lost := true, ok := false }).evMod 0x0201 (srcDie k) (k + 256 * cause) 0
    (h.faultAll (List.range 16) 6).enterOos 2

/-- STACK_LOSS. -/
def execStackLoss (stack cause : Nat) (s : State) : Host.Outcome State Fault Refusal := actDie (fun h => h.stackLost stack cause) s

/-- HBM_RETRAIN_DONE: training ends on every stack, and accesses that waited proceed; `failed` names a stack that did not train. -/
def execHbmRetrainDone (micros : Nat) (failed : Option Nat) (s : State) : Host.Outcome State Fault Refusal :=
  act (fun h =>
    if !h.training then h
    else
      let h := { h with dies := h.dies.map fun (d : Die) => { d with hbm := { d.hbm with training := false } } }.refillSlots
      let h := h.evMod 0x0205 srcModule h.lim.rate micros
      (match failed with
       | some k => h.stackLost k 1
       | none => h).retryHeld) s

/-! ## Memory-side adders (R219, R220) -/

/-- MEMORY_SIDE_ADD: elements at a module address of this module's HBM, from a die; what it counts adds to the issuing command's counts, and
the die's present lines of the address go (R210). The read finds the errors that the environment names, and the poisoned groups written
count at the die (R346, R354). While the controller has no room for it nothing happens yet (R213, R216). -/
def execMemorySideAdd (die : Nat) (da : W64) (op elem : Nat) (grad : Bool) (bytes : List Byte) (poisoned : List Nat) (cmd : (Nat × W32) × Env)
    (s : State) : Host.Outcome State Fault Refusal :=
  actDie (fun h =>
    let w := elemBits elem / 8
    let k := da.toNat % 2 ^ 52
    if !adderTakes op elem || !h.ownRange da.toNat bytes.length || bits da.toNat 51 50 != 0 || h.hbmBusy .bulk k then h
    else
      let cells := (List.range (bytes.length / w)).map fun i => some (fld bytes (w * i) w)
      let o := (h.readErrors cmd.2 (groupsOf k bytes.length)).addAt k op elem grad cells poisoned
      ((o.h.dropLine die k bytes.length).setDie die fun d => { d with poisonWr := satAdd d.poisonWr o.poisoned.length }).setCmd cmd.1.1 cmd.1.2 fun c =>
        { c with sat := c.sat + o.sat, nan := c.nan + o.nan, poison := (c.poison ++ o.poisoned.map fun g => (0, g)).eraseDups }) s

/-! ## The scrubber (R207, R208, R350) -/

/-- One uncorrectable group of a scratchpad (place 0), the staging (1), or the remote cache (2), by the number of its DA. -/
def Hw.scrubUe (h : Hw) (die place row g : Nat) : Hw :=
  if place < 2 then
    let k := 32 * g
    if keySpace k = 1 ∧ bits k 49 46 = die then h.foundUe g else h
  else
    let h := h.setDie die fun d =>
      { d with
        sramUe := satAdd d.sramUe 1
        rcLines := d.rcLines.map fun l => if l.line = g / 4 ∧ l.poison.contains g = false then { l with poison := l.poison ++ [g] } else l }
    (h.ueFound die 2 0 (32 * g)).recordRow die 17 row

/-- An uncorrectable error of a synchronisation object, whose owning context is FAULTED, or of a word of ring or context state, numbered
from 8,192, for which the spec states the report alone (R344, R350; log 35). The address UE_FOUND gives for it is free (log 3). -/
def Hw.stateUe (h : Hw) (die n : Nat) : Hw :=
  let f := h.free
  let h := f.2.ueFound die 4 0 ((Config.freeValue f.1).toNat % 2 ^ 57)
  match (if n < 8192 then h.objOwner n else none) with
  | some m => h.faultCtx m 5
  | none => h

/-- A parity error in the translations of a page: they will be walked again. -/
def Hw.breakXlat (h : Hw) (die page : Nat) : Hw :=
  h.setDie die fun d => { d with ctrlCe := satAdd d.ctrlCe 1, xlat := d.xlat.filter fun (x : XEntry) => x.page != page }

/-- SRAM_SCRUB: words corrected are counted, and groups that cannot be corrected are poisoned and reported. Places 3 and 4, numbers of
the model's own, are the program slots of a tile and the translation cache, whose words carry parity: `uncorrectable` then numbers
slots and pages; place 5 is the objects and the ring and context state, whose errors count as place 4 of R352 (log 35). -/
def execSramScrub (die : Nat) (place tile : Nat) (row : Nat) (corrected uncorrectable : List Nat) (s : State) :
    Host.Outcome State Fault Refusal :=
  actDie (fun h =>
    let n := corrected.length
    if place < 3 then
      let h := (h.setDie die fun d => { d with sramCe := satAdd d.sramCe n }).noteCe die place n
      uncorrectable.foldl (fun h g => h.scrubUe die place row g) h
    else if place = 3 then uncorrectable.foldl (fun h k => h.breakSlot die tile k) h
    else if place = 4 then uncorrectable.foldl (fun h k => h.breakXlat die k) h
    else uncorrectable.foldl (fun h k => h.stateUe die k) (h.noteCe die 4 n)) s

end Sys2Proof.Machine
end

