-- ==== Sys2Proof/Machine/Peers.lean ====
section
/-! DEFINITION. Signed tokens, REINSTATE, PEER_FENCE, and the twin (15 R374-R382; 16 R403; log 34). -/

namespace Sys2Proof.Machine

/-! ## Tokens (R374) -/

/-- Read n bytes of host memory through a port: a failed read or a poisoned one ends the reader. -/
def Hw.hostBytes (h : Hw) (p a n : Nat) (e : Env) : Except (Nat × Nat) (List Byte) :=
  if e.hostFail || decide (2 ^ 57 ≤ a) then .error (badXlat a)
  else if e.hostPoison then .error (stPoison, 0)
  else .ok (h.hostRead p a n)

/-- The bytes that a token's signatures cover: KIND, SUBJECT, EPOCH and NONCE. -/
def signedPart (t : List Byte) : List Byte := (t.drop 1).take 1 ++ (t.drop 8).take 8 ++ (t.drop 4).take 4 ++ (t.drop 0x10).take 32

/-- Whether a token's header is well formed for a kind. -/
def tokenOk (t : List Byte) (kind : Nat) : Bool :=
  let n := fld t 2 1
  fld t 0 1 == 1 && fld t 1 1 == kind && decide (1 ≤ n) && decide (n ≤ 8) && (firstNonZero t 3 1).isNone && (firstNonZero t 0x30 16).isNone &&
  (List.range n).all fun i => (firstNonZero t (0x41 + 104 * i) 7).isNone

/-- The number of valid signatures of a token under a key set. -/
def validSignatures (k : KeySet) (t : List Byte) (kind : Nat) : Nat :=
  if !tokenOk t kind then 0
  else
    let digest := Config.sha384 (signedPart t)
    ((List.range (fld t 2 1)).foldl (fun (x : Nat × List Nat) i =>
      let o := 0x40 + 104 * i
      let key := fld t o 1
      let good := decide (key < k.n) && !x.2.contains key && Config.ecdsaVerify (k.keys.getD key []) digest ((t.drop (o + 8)).take 96)
      (x.1 + b2n good, x.2 ++ [key])) (0, [])).1

/-- Whether enough signatures are valid; with no key set installed none ever are (R403). -/
def KeySet.quorum (k : KeySet) (valid : Nat) : Bool := k.n != 0 && decide (k.m ≤ valid)

/-- The bytes of a token of up to 8 signatures. -/
def tokenBytes : Nat := 64 + 104 * 8

/-! ## REINSTATE (R375) -/

/-- The signatures that count for REINSTATE: the token must name this module, its OOS_COUNT and its nonce. -/
def Hw.reinstateValid (h : Hw) (t : List Byte) : Nat :=
  let nonce := h.flash.oosNonce.flatMap fun (w : W32) => toLe 4 w.toNat
  if fld t 8 8 = Config.moduleUid.toNat ∧ fld t 4 4 = h.flash.oosCount % 65536 ∧ (t.drop 0x10).take 32 = nonce then
    validSignatures h.flash.keys t 1
  else 0

/-- Service begins again: the state, the nonce and the recovery history are cleared. -/
def Hw.reinstated (h : Hw) : Hw :=
  ({ h.flashWrite recHealth fun f => { f with oos := false, oosCause := 0, oosNonce := List.replicate 8 0 } with
    ks := { h.ks with history := [], boot := .ready } } : Hw).evMod 0x0605 srcModule 0 h.flash.oosCount

/-- REINSTATE. With no key set it ends QUORUM_FAIL before anything else (R403). On success it completes with its record written, and
a module reset that does not count follows. -/
def execReinstate (ring : Nat) (index : W32) (env : Env) (s : State) : Host.Outcome State Fault Refusal :=
  act (fun h => h.onCmd ring index 0x34 fun c =>
    let w := h.ring ring
    if h.flash.keys.n = 0 then h.finishCmd ring index stQuorumFail 0
    else if !h.flash.oos then h.conflict ring index 0x0F03
    else if h.flash.oosCause != 1 then h.conflict ring index 0x0F04
    else if !(h.host w.port).up then h
    else
      let a := c.f 0x18 8
      let env := h.readEnv w.port a tokenBytes env
      let h := (h.applyEnv env).hostPoisonRead w.port a env
      match h.hostBytes w.port a tokenBytes env with
      | .error e => h.finishCmd ring index e.1 e.2
      | .ok t =>
        let n := h.reinstateValid t
        if !h.flash.keys.quorum n then h.finishCmd ring index stQuorumFail n
        else if c.cplMode != 1 && !(w.records.isEmpty && h.canRecord true w.port) then h
        else ((h.reinstated.complete ring (c.finish stOk 0)).recover .module 0 false false)) s

/-! ## PEER_FENCE (R376, R377) -/

/-- The epoch held for a UID. -/
def Hw.fenceEpoch (h : Hw) (u : W64) : Nat := match h.fences.find? fun (f : Fence) => f.uid == u with | some f => f.epoch.toNat | none => 0

/-- Put an entry into the fence table of 32, the entry used last at the end; none where every entry is fenced. -/
def Hw.putFence (h : Hw) (f : Fence) : Option Hw :=
  let rest := h.fences.filter fun (x : Fence) => x.uid != f.uid
  if rest.length < 32 then some { h with fences := rest ++ [f] }
  else match rest.find? fun (x : Fence) => !x.fenced with
  | some old => some { h with fences := rest.filter (· != old) ++ [f] }
  | none => none

/-- The entry that a PEER_FENCE puts: UNFENCE clears the fence and the redirect of the UID's entry, and keeps its epoch and coordinates
(R376). Of an UNFENCE of a UID that has no entry R376 says nothing; the model makes an unfenced one (DESIGN CHOICE; log 34). -/
def Hw.fenceEntry (h : Hw) (fence : Bool) (uid : W64) (f : Fence) : Fence :=
  match h.fences.find? fun (x : Fence) => x.uid == uid with
  | some x => if fence then f else { x with fenced := false, redirect := none }
  | none => f

/-- What a fence does at once: bindings go, commands with traffic to the peer end FENCED, and links to it die. -/
def Hw.fencePeer (h : Hw) (f : Fence) : Hw :=
  let h := { h with binds := h.binds.filter fun (b : Binding) => b.peer != f.coord }
  let h := h.outMsgs.foldl (fun h (o : OutMsg) =>
    if o.dst = f.coord ∧ (f.redirect.isNone || msgIsAccess o.msg) = true then h.endSender o stFenced f.coord else h) h
  let h := h.accesses.foldl (fun h (a : Access) =>
    let cut := match a.home with
      | .module c => c == f.coord
      | .context c => c == f.coord && f.redirect.isNone
      | .host _ => false
    if cut then h.loseAccess a stFenced (coordNat f.coord) else h) h
  allLinks.foldl (fun h x =>
    let k := h.link x.1 x.2
    if k.valid && k.uid == f.uid && k.state != .off && k.state != .dark then h.declareDead x.1 x.2 else h) h

/-- Read and judge the token of a PEER_FENCE, then change the table; with no key set nothing is read (R403). -/
def Hw.peerFence (h : Hw) (ring : Nat) (index : W32) (c : Cmd) (fence : Bool) (env : Env) : Hw :=
  let w := h.ring ring
  if h.flash.keys.n = 0 then h.finishCmd ring index stQuorumFail 0
  else if !(h.host w.port).up then h
  else
    let a := c.f 0x18 8
    let env := h.readEnv w.port a tokenBytes env
    let h := (h.applyEnv env).hostPoisonRead w.port a env
    match h.hostBytes w.port a tokenBytes env with
    | .error e => h.finishCmd ring index e.1 e.2
    | .ok t =>
      let n := validSignatures h.flash.keys t (if fence then 2 else 3)
      let uid : W64 := BitVec.ofNat 64 (fld t 8 8)
      let rd := c.f 0x28 4
      let f : Fence := h.fenceEntry fence uid (
        { uid := uid, coord := BitVec.ofNat 18 (c.f 0x24 4), epoch := BitVec.ofNat 32 (fld t 4 4), fenced := fence
          redirect := if fence && rd.testBit 31 then some (BitVec.ofNat 18 rd) else none })
      if !h.flash.keys.quorum n then h.finishCmd ring index stQuorumFail n
      else if fld t 4 4 ≤ h.fenceEpoch uid then h.conflict ring index 0x0F05
      else match h.putFence f with
      | none => h.conflict ring index 0x0F06
      | some h =>
        let h := if fence then h.fencePeer f else h
        (h.evMod 0x0608 srcModule (b2n (!fence) + 2 ^ 32 * c.f 0x24 4 % 2 ^ 50) uid.toNat).finishCmd ring index stOk 0

/-- PEER_FENCE FENCE. -/
def execPeerFenceFence (ring : Nat) (index : W32) (env : Env) (s : State) : Host.Outcome State Fault Refusal :=
  act (fun h => h.onCmd ring index 0x31 fun c => if c.f 0x20 1 = 0 then h.peerFence ring index c true env else h) s

/-- PEER_FENCE UNFENCE. -/
def execPeerFenceUnfence (ring : Nat) (index : W32) (env : Env) (s : State) : Host.Outcome State Fault Refusal :=
  act (fun h => h.onCmd ring index 0x31 fun c => if c.f 0x20 1 = 1 then h.peerFence ring index c false env else h) s

/-! ## TWIN_SYNC (R378-R380) -/

/-- Run a TWIN_SYNC of an OP. -/
def Hw.onTwin (h : Hw) (ring : Nat) (index : W32) (op : Nat) (f : Cmd → Coord → Hw) : Hw :=
  h.onCmd ring index 0x33 fun c =>
    if c.f 0x18 1 ≠ op ∨ c.wantsEngine = true then h
    else match h.twin with
    | some t => f c t
    | none => h.conflict ring index 0x0F07

/-- Read n bytes of a structure in the twin's context: a poisoned one and one of another version end the command (R350, R64). -/
def Run.twinBytes (r : Run) (twin : Coord) (cva n : Nat) (versioned : Bool) : List Byte × Run :=
  let x := r.readPeer twin 0 cva n
  let bad (e : Nat × Nat) : List Byte × Run := (x.1.1, { x.2 with fail := some e })
  if !x.2.ok then (x.1.1, x.2)
  else if !x.1.2.isEmpty then bad (stPoison, 0)
  else if versioned && fld x.1.1 0 1 != 1 then bad (stBadVersion, fld x.1.1 0 1)
  else (x.1.1, x.2)

/-- The TD in the twin's context, with its owner table where it is owned, read and checked there: that of slot k, against the local one
(R110, R379; log 34). -/
def Run.twinView (r : Run) (twin : Coord) (cva k : Nat) (mine : TD) : View × Run :=
  let x := r.twinBytes twin cva 64 true
  let t := parseTd x.1
  let aligned := t.owned && t.base.toNat % 64 == 0
  let y := if aligned && x.2.ok then x.2.twinBytes twin t.base.toNat 64 true else (zeros 64, x.2)
  let o := parseOwner y.1
  let v : View := { td := t, peer := some twin }
  let fail (e : Nat × Nat) : View × Run := (v, { y.2 with fail := some e })
  let hd := 0x400 + 0x40 * k
  let parts := (tdBad t (fld x.1 2 1 / 16) (k == 1) true).map (fun z => (z.1, tdDetail k + z.2)) ++
    (if aligned then (ownerBad o t).map fun z => (z.1, hd + z.2) else [])
  if !y.2.ok then (v, y.2)
  else match ((firstMasked x.1 (tdMasks t)).map (tdDetail k + ·)).or
      (if aligned then (firstMasked y.1 (span 2 3 ++ span 0x1A 0x3F)).map (hd + ·) else none) with
  | some d => fail (stBadReserved, d)
  | none =>
    match leastBad (parts ++ (if parts.any (·.1) then [] else
        formatBad k t mine ++ [(t.rank != mine.rank, tdDetail k + 2)] ++ sizesBad k t mine.dims)) with
    | some d => fail (stBadDescriptor, d)
    | none =>
      if !t.owned then (v, y.2)
      else
        let z := y.2.readPeer twin 0 (t.base.toNat + 0x40) (32 * o.entryCount)
        let bl := (List.range o.entryCount).map fun i => parseEntry y.2.h.self (t.scaleFmt != 0) ((z.1.1.drop (32 * i)).take 32)
        ({ td := t, hdr := some o, blocks := bl }, { z.2 with range := z.2.range + (bl.filter (· == .invalid)).length })

/-- The larger of a context's TWIN_STEP and a step. -/
def Ctx.stepTo (c : Ctx) (t : Nat) : Ctx := { c with twinStep := if c.twinStep.toNat < t then BitVec.ofNat 32 t else c.twinStep }

/-- What a MIRROR reads and writes. -/
def Hw.mirrorRun (h : Hw) (ring : Nat) (c : Cmd) (twin : Coord) (env : Env) : Run :=
  let x := (h.moveRun ring c false env).slotView c 0
  let y := x.2.twinView twin (c.f 0x28 8) 1 x.1.td
  y.2.copyTensor x.1 y.1 (List.range x.1.td.rank) false

/-- The message by which a MIRROR that completes gives the twin its step. -/
def Hw.mirrorStep (h : Hw) (n : Nat) (c : Cmd) (twin : Coord) : Hw :=
  h.sendCtx n twin 1 none
    (.block { job := (h.ctx n).plan.jobId, peer := h.self, die := 0, write := true, addr := BitVec.ofNat 64 (c.f 0x28 8), bytes := [],
              count := 0, poisoned := [], twinStep := some (BitVec.ofNat 32 (c.f 0x1C 4)) })

/-- MIRROR: a linear copy of the local tensor into the twin's. It completes once every group is acknowledged there, and then the twin
receives its step. -/
def execTwinSyncMirror (ring : Nat) (index : W32) (env : Env) (s : State) : Host.Outcome State Fault Refusal :=
  act (fun h => h.onTwin ring index 0 fun c twin =>
    if c.work = .waiting then
      if h.awaits c.order then h
      else (h.mirrorStep (h.ring ring).ctx c twin).endRun ring index (h.mirrorStep (h.ring ring).ctx c twin |>.moveRun ring c false {}) false
    else
      let r := h.mirrorRun ring c twin env
      if r.fail.isSome then h.endRun ring index r false
      else h.keepRun ring index r fun c => { c with work := .waiting }) s

/-- What a PULL reads and writes. -/
def Hw.pullRun (h : Hw) (ring : Nat) (c : Cmd) (twin : Coord) (env : Env) : Run :=
  let y := (h.moveRun ring c false env).slotView c 1
  let x := y.2.twinView twin (c.f 0x20 8) 0 y.1.td
  x.2.copyTensor x.1 y.1 (List.range y.1.td.rank) false

/-- PULL: the same copy from the twin. -/
def execTwinSyncPull (ring : Nat) (index : W32) (env : Env) (s : State) : Host.Outcome State Fault Refusal :=
  act (fun h => h.onTwin ring index 1 fun c twin =>
    let n := (h.ring ring).ctx
    let r := h.pullRun ring c twin env
    if r.waits && r.fail.isNone then h.holdCmd ring index r
    else
      let h := h.endRun ring index r false
      if r.fail.isSome then h else h.setCtx n fun x => x.stepTo (c.f 0x1C 4)) s

/-- TWIN_STANDIN (R384). -/
def Hw.standinEvent (h : Hw) (n : Nat) (takeover : Bool) (twin : Coord) : Hw :=
  h.evCtx n 0x0609 srcModule (b2n takeover) (coordNat twin)

/-- TAKEOVER: the twin must be fenced here with REDIRECT naming this module. -/
def execTwinSyncTakeover (ring : Nat) (index : W32) (s : State) : Host.Outcome State Fault Refusal :=
  act (fun h => h.onTwin ring index 2 fun _ twin =>
    let n := (h.ring ring).ctx
    if (h.fenceOf twin).bind (·.redirect) = some h.self then
      ((h.setCtx n fun x => { x with standin := true, stoodIn := true }).standinEvent n true twin).finishCmd ring index stOk 0
    else h.conflict ring index 0x0F08) s

/-- AS_TWIN: the nested command runs with the twin's coordinates as its rank and as SRC. -/
def execTwinSyncAsTwin (ring : Nat) (index : W32) (env : Env) (s : State) : Host.Outcome State Fault Refusal :=
  act (fun h => h.onTwin ring index 3 fun c twin =>
    let op := fld c.extra 0 1
    if op = 0x02 then (if c.phase == .started then h.signalBody ring index twin c.extra else h)
    else if op = 0x21 then (if c.satisfied then h else h.agreeBegin ring c c.extra true)
    else h.startSlices ring index env) s

/-- HANDBACK. -/
def execTwinSyncHandback (ring : Nat) (index : W32) (s : State) : Host.Outcome State Fault Refusal :=
  act (fun h => h.onTwin ring index 4 fun _ twin =>
    let n := (h.ring ring).ctx
    let h := if (h.ctx n).standin then (h.setCtx n fun x => { x with standin := false }).standinEvent n false twin else h
    h.finishCmd ring index stOk 0) s

end Sys2Proof.Machine
end

