-- ==== Sys2Proof/Machine/Startup.lean ====
section
/-! DEFINITION. Start-up (16 R387-R392, R395, R404), debug unlock (R402) and manager keys (R403); log 38, log 39. -/

namespace Sys2Proof.Machine

/-- POWER_GOOD: start-up begins at step 1. -/
def execPowerGood (s : State) : Host.Outcome State Fault Refusal := actPin (fun h => if h.ks2.powered then h else h.powerUp) s

/-! ## Steps (R388, R392) -/

/-- A row that cannot receive a spare: its tile is failed and replaced while the spare tile is free, or its die is failed (R208). -/
def Hw.unrepairable (h : Hw) (d tile row : Nat) : Hw :=
  let h := h.evMod 0x0204 (srcDie d) (d + 16 * tile + 65536 * row) 0
  if 16 ≤ tile then h.dieFails d
  else
    let h := h.retireTile d tile
    -- the failed tile's rows leave the list with it: its number now names the spare tile, where that is still free
    let h := h.flashWrite recHealth fun f => { f with rows := f.rows.filter fun x => !(x.1 == d && x.2.1 == tile) }
    h.setDie d fun x => x.withParts (h.flash.parts d)

/-- The sets of 64 rows that need more than their 2 spares: die, array and a recorded row (R208). -/
def Hw.overfull (h : Hw) : List (Nat × Nat × Nat) :=
  h.flash.rows.filter fun x =>
    let set := h.flash.rows.filter fun y => y.1 == x.1 && y.2.1 == x.2.1 && y.2.2 / 64 == x.2.2 / 64
    decide (2 < set.length + Config.fuseRows x.1 x.2.1 (x.2.2 / 64)) && set.head? == some x

/-- Step 9 assigns the spares of the flash row list; a set that needs too many is unrepairable. -/
def Hw.assignSpares (h : Hw) : Hw :=
  let bad := h.overfull
  let left := h.flash.rows.filter fun x => !bad.any fun y => y.1 == x.1 && y.2.1 == x.2.1 && y.2.2 / 64 == x.2.2 / 64
  bad.foldl (fun h x => if h.flash.rows.contains x then h.unrepairable x.1 x.2.1 x.2.2 else h) { h with spared := left }

/-- A lane group trained at start-up; a port left with too few fails its die (R26, R29, R364). -/
def Hw.trainedAtStart (h : Hw) (d p lg w0 w1 n : Nat) : Hw :=
  let h := h.trainLane d p lg w0 w1 n
  if p < 6 ∧ (h.mort d p).failed = true then h.dieFails d else h

/-- What step n found; a fault that ends start-up leaves nothing to the findings after it. In RECOVERY a footing fault alone is one to find
(R372, R392). -/
def Hw.finding (h : Hw) (n : Nat) (f : StepReport) : Hw :=
  if h.ks.boot == .recovery then (match f with | .footingFault => h.enterOos 4 | _ => h)
  else if h.ks.boot != .starting then h
  else
    match f with
    | .clean => h
    | .lanes d p lg w0 w1 c => if n = 9 ∨ n = 10 then h.trainedAtStart d p lg w0 w1 c else h
    | .stackLost k => if n = 8 then h.stackLost k 1 else h
    | .unrepairable d t r => if n = 9 then h.unrepairable d t r else h
    | .dieFailed d => if n = 9 then h.dieFails d else h
    | .footingFault => h.enterOos 4
    | .combDark g => if n = 11 then h.darkGroup g else h

/-- The step that follows the last one completed: steps 4, 5 and 8 to 12 are left out in RECOVERY. -/
def Hw.nextStep (h : Hw) : Option Nat :=
  if h.ks.boot == .starting then (if h.ks.step < 12 then some (h.ks.step + 1) else none)
  else if h.ks.boot == .recovery then (if h.ks.step = 3 then some 6 else if h.ks.step = 6 then some 7 else none)
  else none

def Hw.stepped (h : Hw) (n : Nat) : Hw := { h with ks := { h.ks with step := n } }

/-- Step 4: the leading ROM runs a slot, or the module enters RECOVERY. -/
def Hw.bootSlot (h : Hw) : Hw :=
  match h.flash.select with
  | none => { h with ks := { h.ks with boot := .recovery } }
  | some (n, f, rev) =>
    { h.stepped 4 with
      flash := if f = h.flash then f else f.record recBoot
      ks := { (h.stepped 4).ks with slot := n, reverted := rev, unconfirmed := f.trial && n == f.pref } }

/-- Step 8: every stack is trained at the rate that HBM_CFG holds then (R388, R404). -/
def Hw.stacksUp (h : Hw) : Hw := { h.stepped 8 with ks2 := { h.ks2 with bootRate := h.lim.rate } }

/-- The dies whose spare tile is in use, as measurement 7 shows them (R401). -/
def Hw.spares (h : Hw) : Nat := maskOf 16 fun d => (h.die d).spareUsed

/-- Step 9: spares are assigned, and the dies are up. -/
def Hw.diesUp (h : Hw) : Hw :=
  let h := h.assignSpares.stepped 9
  { h with ks2 := { h.ks2 with bootSpares := h.spares } }

/-- Step 6: the host bridges are powered, and the time of R390 runs. -/
def Hw.bridgesUp (h : Hw) : Hw :=
  { h.stepped 6 with hosts := h.hosts.map fun (q : HostPort) => { q with configFrom := h.now } }

/-- Step 12: READY, or OUT_OF_SERVICE where flash records it. -/
def Hw.reachReady (h : Hw) (ms : Nat) : Hw :=
  let h := h.stepped 12
  let h := { h with ks := { h.ks with boot := if h.flash.oos then .outOfService else .ready, readyMs := ms % 65536 } }
  forN 48 h fun h p => h.relightPort p

/-- STARTUP_STEP_COMPLETE: what the step found, then its completion; `ms` is the keystone's time. Once start-up is over no step is left, and of
what the row brings a footing fault alone counts, which takes the module out of service at once (R19, R372; log 39). -/
def execStartupStepComplete (found : List StepReport) (ms : Nat) (s : State) : Host.Outcome State Fault Refusal :=
  act (fun h =>
    match h.nextStep with
    | none => if h.ks.boot == .ready && found.contains .footingFault then h.enterOos 4 else h
    | some n =>
      let boot := h.ks.boot
      let h := found.foldl (fun h f => h.finding n f) h
      if h.ks.boot != boot then h
      else if n = 4 then h.bootSlot
      else if n = 6 then h.bridgesUp
      else if n = 7 then (if h.ks2.calibrated then h.stepped 7 else h)
      else if n = 8 then h.stacksUp
      else if n = 9 then h.diesUp
      else if n = 12 then h.reachReady ms
      else h.stepped n) s

/-- KS1_LEADS_STARTUP: before KS0 has passed its self-test. -/
def execKs1LeadsStartup (s : State) : Host.Outcome State Fault Refusal :=
  act (fun h =>
    if h.ks.boot == .starting && decide (h.ks.step < 3) then
      { h.flashWrite recHealth fun f => { f with noStandby := true } with ks := { h.ks with leader := 1 } }
    else h) s

/-- COUNTER_CALIBRATION: which ports have a reference clock now; at step 7 the counters are calibrated against one of them. A port without one
does not train (R446). -/
def execCounterCalibration (clock0 clock1 : Bool) (s : State) : Host.Outcome State Fault Refusal :=
  act (fun h =>
    let h := (h.setHost 0 fun q => { q with clock := clock0 }).setHost 1 fun q => { q with clock := clock1 }
    if h.ks.step = 6 ∧ (clock0 || clock1) = true then { h with ks2 := { h.ks2 with calibrated := true } } else h) s

/-! ## Debug unlock (R402) -/

/-- Whether a debug token is one to latch. -/
def Hw.debugOk (h : Hw) (t : List Byte) : Bool :=
  fld t 0 1 == 1 && (fld t 1 1 == 1 || fld t 1 1 == 2) && (firstNonZero t 2 6).isNone && (firstNonZero t 0x30 16).isNone &&
  fld t 8 8 == Config.moduleUid.toNat && (t.drop 0x10).take 32 == h.ks.dbgNonce.flatMap (fun (w : W32) => toLe 4 w.toNat) &&
  Config.sha384 Config.debugKey == Config.fusedKeyHash 4 &&
  Config.ecdsaVerify Config.debugKey (Config.sha384 (t.take 0x40)) ((t.drop 0x40).take 96)

/-- DEBUG_UNLOCK: the token at DBG_ADDR is read through the writing port and checked. -/
def execDebugUnlock (port : Nat) (env : Env) (s : State) : Host.Outcome State Fault Refusal :=
  actFrom port 0x28 (fun h =>
    if h.ks.boot == .recovery then h
    else
      let a := h.ks.dbgAddr.toNat
      let env := h.readEnv port a 160 env
      let h := (h.applyEnv env).hostPoisonRead port a env
      let bad : Hw := { h with ks := { h.ks with dbgErr := true } }
      match h.hostBytes port a 160 env with
      | .error _ => bad
      | .ok t => if h.debugOk t then { h with ks := { h.ks with dbgPending := fld t 1 1 } } else bad) s

/-! ## Manager keys (R403) -/

/-- The key set a block spells. -/
def keySetOf (b : List Byte) : KeySet :=
  let n := fld b 1 1
  { n := n, m := fld b 2 1, epoch := BitVec.ofNat 32 (fld b 4 4), keys := (List.range n).map fun i => (b.drop (16 + 96 * i)).take 96 }

/-- Whether a block is laid out as R403 gives. -/
def keyBlockOk (b : List Byte) : Bool :=
  let n := fld b 1 1
  fld b 0 1 == 1 && (firstNonZero b 3 1).isNone && (firstNonZero b 8 8).isNone && decide (1 ≤ fld b 2 1) && decide (fld b 2 1 ≤ n) && decide (n ≤ 8)

/-- Whether a block follows the set in force: the first carries epoch 1, and a later one the next epoch and a token of kind 4. -/
def Hw.keyNext (h : Hw) (b t : List Byte) : Bool :=
  let k := h.flash.keys
  let e := fld b 4 4
  if k.n = 0 then e == 1
  else
    e == k.epoch.toNat + 1 && fld t 8 8 == Config.moduleUid.toNat && fld t 4 4 == e && (t.drop 0x10).take 32 == (Config.sha384 b).take 32 &&
    k.quorum (validSignatures k t 4)

/-- KEY_INSTALL: refused with ERR, or BUSY until the set takes effect; ERR tells of the last INSTALL alone (R405). -/
def execKeyInstall (port : Nat) (env : Env) (s : State) : Host.Outcome State Fault Refusal :=
  actFrom port 0x60 (fun h =>
    if h.ks.boot == .recovery then h
    else
      let a := h.ks.keyAddr.toNat
      let ta := h.ks.keyToken.toNat
      let env := h.readEnv port a (16 + 96 * 8) env
      let h := (h.applyEnv env).hostPoisonRead port a env
      let bad : Hw := { h with ks := { h.ks with keyErr := true } }
      if h.ks.keyBusy.isSome then bad
      else match h.hostBytes port a 16 env with
      | .error _ => bad
      | .ok hdr =>
        let b := h.hostRead port a (16 + 96 * fld hdr 1 1)
        let t := if h.flash.keys.n = 0 ∨ 2 ^ 57 ≤ ta ∨ (h.host port).barred ta tokenBytes = true then [] else h.hostRead port ta tokenBytes
        if keyBlockOk b && h.keyNext b t then { h with ks := { h.ks with keyBusy := some (keySetOf b), keyErr := false } } else bad) s

/-- KEY_INSTALL_DONE. -/
def execKeyInstallDone (s : State) : Host.Outcome State Fault Refusal :=
  act (fun h =>
    match h.ks.keyBusy with
    | some k => { h.flashWrite recKeys fun f => { f with keys := k } with ks := { h.ks with keyBusy := none } }
    | none => h) s

end Sys2Proof.Machine
end

