-- ==== Sys2Proof/Machine/Attest.lean ====
section
/-! DEFINITION. Configuration requests, the DOE mailbox, SPDM and IDE (16 R390, R398-R401; 18 R424, R430, R431; log 40). -/

namespace Sys2Proof.Machine

/-! ## Configuration space (R390) -/

/-- The bits of a mask from one word, the others from another. -/
def putBits (old mask v : Nat) : W32 := BitVec.ofNat 32 ((old &&& (0xFFFFFFFF - mask)) ||| (v &&& mask))

/-- What R424 fixes of a dword of configuration space: the bits it fixes, and their values. The capabilities have the layout of the PCI Express
Base Specification (PRESUMED; log 14): interrupt pin none; PCI Express: interrupt message 0, payload to 512 bytes, no Function Level
Reset, no ASPM, timeout ranges B to D with disable, 10-bit tags; No_Soft_Reset; the sizes of BAR2; the MSI-X table; the interrupt message of the
mailbox; four selective IDE streams with IDE_KM, and no link stream nor partial header encryption. -/
def HostPort.fixed (q : HostPort) (reg : Nat) : Nat × Nat :=
  if reg = 0x3C then (0xFF00, 0)
  else if reg = Config.pcieCap then (0x3E000000, 0)
  else if reg = Config.pcieCap + 4 then (0x10000007, 2)
  else if reg = Config.pcieCap + 0xC then (0xC00, 0)
  else if reg = Config.pcieCap + 0x24 then (0x3001F, 0x3001E)
  else if reg = Config.powerCap + 4 then (0xB, 8 + (if q.d3 then 3 else 0))
  else if reg + 4 = Config.resizableBar then (0xFFFFFFF0, 0x1FC000)
  else if reg = Config.resizableBar then (0x3FE7, 2 + 32 + 256 * (10 + q.bar2Log))
  else if reg = Config.msixCap then (0xC7FF0000, 0x7FF0000 + 2 ^ 30 * b2n q.msixMask + 2 ^ 31 * b2n q.msixOn)
  else if reg = Config.msixCap + 4 then (0xFFFFFFFF, 0x380000)
  else if reg = Config.msixCap + 8 then (0xFFFFFFFF, 0x388000)
  else if reg = Config.aerCap + 4 then (0xFFFFFFFF, q.aer.status.toNat)
  else if Config.aerCap + 0x1C ≤ reg ∧ reg < Config.aerCap + 0x2C then (0xFFFFFFFF, (q.aer.header.getD ((reg - Config.aerCap - 0x1C) / 4) 0).toNat)
  else if reg = Config.doeCap + 4 then (0xFFF, 1)
  else if reg = Config.ideCap + 4 then (0xFF004B, 0x030042)
  else (0, 0)

/-- A dword of a port's configuration space: the identity, the serial number and what else R424 fixes, and for the rest what was written, or
what stands there from the start (log 14). -/
def Hw.configWord (h : Hw) (p reg : Nat) : W32 :=
  if reg = 0 then BitVec.ofNat 32 (Config.vendorId.toNat + 0x7640 * 65536)
  else if reg = 8 then 0x12000001
  else if reg = Config.serialNumber then Config.moduleUid.setWidth 32
  else if reg = Config.serialNumber + 4 then (Config.moduleUid >>> 32).setWidth 32
  else
    let q := h.host p
    let w := match q.config.find? (·.1 == reg) with
      | some x => x.2
      | none => Config.configDword p reg
    putBits w.toNat (q.fixed reg).1 (q.fixed reg).2

/-- A configuration write: of Bus Master Enable, which ends a port's loss (R433), of the size of BAR2, of the power state (D0 or D3hot), of the
MSI-X control, and of the AER status, whose bits are cleared by writing 1. -/
def Hw.configWrite (h : Hw) (p reg : Nat) (v : W32) : Hw :=
  let h := h.setHost p fun q => { q with config := (q.config.filter fun (x : Nat × W32) => x.1 != reg) ++ [(reg, v)] }
  if reg = 4 then
    let h := h.setHost p fun q => { q with busMaster := v.getLsbD 2 }
    if v.getLsbD 2 then h.portReturns p else h
  else if reg = Config.resizableBar then
    let code := bits v.toNat 13 8
    if 10 ≤ code ∧ code ≤ 16 then h.setHost p fun q => { q with bar2Log := code - 10 } else h
  else if reg = Config.powerCap + 4 then
    h.setHost p fun q => { q with d3 := if v.toNat % 4 = 3 then true else if v.toNat % 4 = 0 then false else q.d3 }
  else if reg = Config.msixCap then (h.setHost p fun q => { q with msixOn := v.getLsbD 31, msixMask := v.getLsbD 30 }).msixFlush p
  else if reg = Config.aerCap + 4 then h.setHost p fun q => { q with aer := { q.aer with status := q.aer.status &&& ~~~v } }
  else h

/-- CONFIG_REQUEST: retry status until the configuration space is set up, which a free value decides and 200 ms bounds; then the
request completes, a read with the dword and a write with 0. -/
def execConfigRequest (port reg : Nat) (write : Option W32) (s : State) : Host.Outcome State Fault Refusal :=
  act (fun h =>
    let q := h.host port
    if !h.bridgesOn || q.perst || !q.up then h
    else
      let f := h.freeCtr
      let ready := q.configured || (Config.freeValue f).getLsbD 0 || decide (q.configFrom + 200 * 1000000 ≤ h.now)
      let h := { h with freeCtr := f + 1 }
      if !ready then h.emit (.configReply port none)
      else
        let h := h.setHost port fun q => { q with configured := true }
        let h := match write with
          | none => h
          | some v => h.configWrite port reg v
        h.emit (.configReply port (some (if write.isSome then 0 else h.configWord port reg)))) s

/-! ## The mailbox (R400, R430) -/

/-- Whether a port's mailbox answers: its function is set up and firmware runs. -/
def Hw.mailbox (h : Hw) (p : Nat) : Bool :=
  (h.host p).up && (h.host p).configured && h.bridgesOn && h.ks.boot != .recovery

/-- The mailbox answers, and tells of it by entry 0 where its control register enables that (R429, R430; log 14). -/
def Hw.doeReply (h : Hw) (p : Nat) (r : DoeReply) : Hw :=
  let h := h.emit (.doe p r)
  if ((h.host p).reg (Config.doeCap + 8)).getLsbD 1 then h.msixSend p 0 else h

/-- Answer a request with a change of the port's SPDM state, or with an error. -/
def Hw.spdm (h : Hw) (p : Nat) (ok : Bool) (f : Spdm → Spdm) (r : DoeReply) : Hw :=
  if !h.mailbox p then h
  else if ok then (h.setHost p fun q => { q with spdm := f q.spdm }).doeReply p r
  else h.doeReply p .error

/-- The running image. -/
def Hw.image (h : Hw) : FwImage := h.flash.image (h.ks.slot == 1)

/-- The mason's mark: root, device CA, DeviceID and Alias certificates (R399). -/
def Hw.chain (h : Hw) : List Byte :=
  (masonsMark h.image.digest h.image.svn h.ks.dbgLevel).flatten

/-- A signature of the Alias key. -/
def Hw.signed (h : Hw) (t : List Byte) : List Byte := signText (aliasScalar h.image.digest h.image.svn h.ks.dbgLevel) t

/-- Whether version, capabilities and algorithms have been settled. -/
def Spdm.settled (s : Spdm) : Bool := s.version && s.caps && s.algs

/-- The bytes that an object of the mailbox's 8 KiB leaves to the request it holds, after its two header dwords and SPDM's own (R430;
log 40). -/
def mailboxBytes : Nat := 8176

/-- A request whose object is larger than the mailbox's buffer is refused with the error bit (R430). -/
def Hw.oversized (h : Hw) (p : Nat) : Hw :=
  if h.mailbox p then (h.setHost p fun q => { q with spdm := { q.spdm with refused := true } }).doeReply p .error else h

/-- DOE_DISCOVERY: types 0 Discovery, 1 CMA/SPDM and 2 Secured CMA/SPDM. -/
def execDoeDiscovery (port index : Nat) (s : State) : Host.Outcome State Fault Refusal :=
  act (fun h => if (h.host port).up && (h.host port).configured then h.doeReply port (.discovery index [0, 1, 2]) else h) s

/-- GET_VERSION: versions 1.2 and 1.3; the connection starts anew. -/
def execGetVersion (port : Nat) (s : State) : Host.Outcome State Fault Refusal :=
  act (fun h => h.spdm port true (fun x => { x with version := true, caps := false, algs := false }) (.versions [0x12, 0x13])) s

/-- GET_CAPABILITIES. -/
def execGetCapabilities (port : Nat) (s : State) : Host.Outcome State Fault Refusal :=
  act (fun h => h.spdm port (h.host port).spdm.version (fun x => { x with caps := true }) .capabilities) s

/-- NEGOTIATE_ALGORITHMS. -/
def execNegotiateAlgorithms (port : Nat) (s : State) : Host.Outcome State Fault Refusal :=
  act (fun h => h.spdm port ((h.host port).spdm.version && (h.host port).spdm.caps) (fun x => { x with algs := true })
    (.algorithms ["ECDSA-P384", "SHA-384", "secp384r1", "AES-256-GCM"])) s

/-- GET_DIGESTS: of certificate slot 0. -/
def execGetDigests (port : Nat) (s : State) : Host.Outcome State Fault Refusal :=
  act (fun h => h.spdm port (h.host port).spdm.settled id (.digests (Config.sha384 h.chain))) s

/-- GET_CERTIFICATE: a part of the chain of slot 0, no larger than the mailbox's buffer takes; slots 1 to 7 are empty. -/
def execGetCertificate (port slot offset length : Nat) (s : State) : Host.Outcome State Fault Refusal :=
  act (fun h => h.spdm port ((h.host port).spdm.settled && slot == 0) id (.certificate ((h.chain.drop offset).take (min length mailboxBytes)))) s

/-- CHALLENGE. -/
def execChallenge (port slot : Nat) (nonce : List Byte) (s : State) : Host.Outcome State Fault Refusal :=
  act (fun h => h.spdm port ((h.host port).spdm.settled && slot == 0) id (.challenge (h.signed (nonce ++ Config.sha384 h.chain)))) s

/-! ## Measurements (R401) -/

/-- The digest of measurement block i as the module stands. -/
def Hw.measure (h : Hw) (i : Nat) : List Byte :=
  let f := h.flash
  if i = 1 then Config.bootRomDigest
  else if i = 2 then h.image.digest
  else if i = 3 then Config.sha384 (toLe 1 h.image.svn ++ toLe 1 f.rollback)
  else if i = 4 then Config.sha384 (toLe 1 h.ks.dbgLevel ++ toLe 1 (maskOf 4 f.revoked.contains))
  else if i = 5 then Config.sha384 (toLe 1 f.keys.n ++ toLe 1 f.keys.m ++ toLe 4 f.keys.epoch.toNat ++ f.keys.keys.flatten)
  else if i = 6 then
    Config.sha384 (toLe 1 (b2n f.oos) ++ toLe 1 f.oosCause ++ toLe 4 f.oosCount ++
      toLe 1 f.retiredEngines.length ++ (f.retiredEngines.flatMap fun (x : Nat × Nat) => toLe 2 (256 * x.1 + x.2)) ++
      toLe 2 f.retiredTiles.length ++ (f.retiredTiles.flatMap fun (x : Nat × Nat) => toLe 2 (256 * x.1 + x.2)) ++
      (h.comb.groupSrc.flatMap (toLe 1)) ++ toLe 1 (h.comb.spare.getD 255) ++ toLe 1 (h.comb.retest.getD 255) ++
      toLe 1 h.comb.failed.length ++ (h.comb.failed.flatMap (toLe 1)))
  else
    Config.sha384 (toLe 1 h.ks.leader ++ toLe 1 h.ks2.bootRate ++ toLe 2 h.ks2.bootSpares)

/-- GET_MEASUREMENTS: one block, all of them at index 255, their number alone at index 0. -/
def execGetMeasurements (port index : Nat) (signed : Bool) (nonce : List Byte) (s : State) : Host.Outcome State Fault Refusal :=
  act (fun h =>
    let idx := if index = 255 then [1, 2, 3, 4, 5, 6, 7] else if 1 ≤ index ∧ index ≤ 7 then [index] else []
    let blocks := idx.map fun i => (i, h.measure i)
    let sig := if signed then some (h.signed (nonce ++ blocks.flatMap fun b => toLe 1 b.1 ++ b.2)) else none
    h.spdm port ((h.host port).spdm.settled && (decide (index ≤ 7) || index == 255)) id (.measurements blocks sig)) s

/-! ## Sessions (R400, R430) -/

/-- KEY_EXCHANGE: at most one secured session on a port. -/
def execKeyExchange (port : Nat) (exchange : List Byte) (s : State) : Host.Outcome State Fault Refusal :=
  act (fun h =>
    let x := (h.host port).spdm
    if mailboxBytes < exchange.length then h.oversized port
    else h.spdm port (x.settled && !x.session && !x.exchanging) (fun x => { x with exchanging := true }) (.keyExchange (h.signed exchange))) s

/-- FINISH: `verified` says whether the requester's proof holds. -/
def execFinish (port : Nat) (verified : Bool) (s : State) : Host.Outcome State Fault Refusal :=
  act (fun h =>
    let x := (h.host port).spdm
    if h.mailbox port && x.exchanging && !verified then (h.setHost port fun q => { q with spdm := { q.spdm with exchanging := false } }).doeReply port .error
    else h.spdm port x.exchanging (fun x => { x with exchanging := false, session := true, updates := 0 }) .finished) s

/-- KEY_UPDATE. -/
def execKeyUpdate (port : Nat) (s : State) : Host.Outcome State Fault Refusal :=
  act (fun h => h.spdm port (h.host port).spdm.session (fun x => { x with updates := x.updates + 1 }) .keyUpdated) s

/-- HEARTBEAT. -/
def execHeartbeat (port : Nat) (s : State) : Host.Outcome State Fault Refusal :=
  act (fun h => h.spdm port (h.host port).spdm.session id .alive) s

/-- END_SESSION. -/
def execEndSession (port : Nat) (s : State) : Host.Outcome State Fault Refusal :=
  act (fun h => h.spdm port (h.host port).spdm.session (fun x => { x with session := false, updates := 0 }) .ended) s

/-- DOE_ABORT: the mailbox is clear, and the session being established ends. -/
def execDoeAbort (port : Nat) (s : State) : Host.Outcome State Fault Refusal :=
  act (fun h => h.setHost port fun q => { q with spdm := { q.spdm with exchanging := false, refused := false } }) s

/-! ## IDE (R431) -/

/-- IDE_KM: keys over the secured session bring a stream to Secure. -/
def execIdeKm (port stream : Nat) (keys : List Byte) (s : State) : Host.Outcome State Fault Refusal :=
  act (fun h =>
    if !h.mailbox port then h
    else if mailboxBytes < keys.length then h.oversized port
    else if (h.host port).spdm.session && decide (stream < 4) then
      (h.setHost port fun q => { q with ide := q.ide.modify stream fun (_ : IdeStream) => { secure := true, keys := keys } }).doeReply port .keySet
    else h.doeReply port .error) s

/-- IDE_FAIL: a Secure stream whose integrity check fails becomes Insecure; the failing TLP is discarded, and AER tells of it (R431). -/
def execIdeFail (port stream : Nat) (s : State) : Host.Outcome State Fault Refusal :=
  act (fun h =>
    if ((h.host port).ide.getD stream {}).secure then
      ((h.setHost port fun q => { q with ide := q.ide.modify stream fun (x : IdeStream) => { x with secure := false, failed := true } }).evMod 0x0805 (srcBridge port) stream 0).reportAer port aerIde
    else h) s

end Sys2Proof.Machine
end

