-- ==== Sys2Proof/Machine/Mortar.lean ====
section
/-! DEFINITION. Mortar: packets, lane groups, flits, replay, retraining and failed ports (01 R22-R30; log 36). -/

namespace Sys2Proof.Machine

/-! ## Flits (R22) -/

/-- One bit of the CRC-16, most significant bit first. -/
def crc16Bit (c : Nat) (b : Bool) : Nat := ((2 * c) % 65536) ^^^ (if c.testBit 15 != b then 0x1021 else 0)

/-- The 28 bytes of a flit's payload. -/
def flitBytes : FlitBody → List Byte
  | .raw b => (b ++ zeros 28).take 28
  | .head p =>
    (List.range 28).map (Config.headerByte ([p.cls, p.src, p.dst, (match p.exit with | some q => q + 1 | none => 0), p.order, p.words] ++ p.poison))

/-- CRC-16 of bits [255:16] of a flit. -/
def flitCrc (f : Flit) : W16 :=
  let top := leNat (flitBytes f.payload) * 65536 + f.kind % 16 * 4096 + f.seq % 64 * 64 + f.ack % 64
  BitVec.ofNat 16 ((List.range 240).foldl (fun c i => crc16Bit c (top.testBit (239 - i))) 0xFFFF)

/-- A flit with its CRC. -/
def mkFlit (payload : FlitBody) (kind seq ack : Nat) : Flit :=
  let f : Flit := { payload := payload, kind := kind, seq := seq, ack := ack, crc := 0 }
  { f with crc := flitCrc f }

def Hw.lane (h : Hw) (d p lg : Nat) : LaneGroup := (h.mort d p).lanes.getD lg { disabled := true }
def Hw.setLane (h : Hw) (d p lg : Nat) (f : LaneGroup → LaneGroup) : Hw := h.setMort d p fun m => { m with lanes := m.lanes.modify lg f }

/-- Send the flits of a window again, with the present acknowledgement. -/
def Hw.resendWindow (h : Hw) (d p lg : Nat) : Hw :=
  let l := h.lane d p lg
  l.window.foldl (fun h (f : Flit) => h.emit (.flit d p lg (mkFlit f.payload f.kind f.seq ((l.expect + 63) % 64)))) h

/-- Flits up to an acknowledged SEQ leave the window. -/
def ackFlits (a : Nat) (l : List Flit) : List Flit := if l.any fun (f : Flit) => f.seq == a then (l.dropWhile fun (f : Flit) => f.seq != a).drop 1 else l

/-- NACK: it names the SEQ of the flit expected. -/
def Hw.sendFlitNack (h : Hw) (d p lg : Nat) : Hw :=
  let e := (h.lane d p lg).expect
  h.emit (.flit d p lg (mkFlit (.raw (zeros 28)) 4 e ((e + 63) % 64)))

/-! ## Packets (R22, R24, R25, R31) -/

/-- The flits of a packet: its header, then its data, 28 bytes in each. -/
def Packet.flits (x : Packet) : List (Nat × FlitBody) :=
  let n := (x.data.length + 27) / 28
  (1, .head x.head) :: (List.range n).map fun i => (if i + 1 = n then 3 else 2, .raw ((x.data.drop (28 * i)).take 28))

/-- The port by which a packet at a die goes on: along its row to the destination's column, then along that column. -/
def mortarRoute (d dst : Nat) : Nat :=
  if d % 4 < dst % 4 then 1 else if dst % 4 < d % 4 then 3 else if d / 4 < dst / 4 then 2 else 0

/-- The edges between two dies. -/
def mortarHops (d dst : Nat) : Nat := (d % 4 - dst % 4) + (dst % 4 - d % 4) + (d / 4 - dst / 4) + (dst / 4 - d / 4)

/-- Packets whose flits are all acknowledged leave a lane group. -/
def LaneGroup.settle : Nat → LaneGroup → LaneGroup
  | 0, l => l
  | n + 1, l =>
    match l.packets with
    | x :: xs => if x.flits.length ≤ l.acked then LaneGroup.settle n { l with packets := xs, acked := l.acked - x.flits.length } else l
    | [] => { l with acked := 0 }

/-- An ACK arrives: the flits up to it leave the window (R23). -/
def LaneGroup.takeAck (l : LaneGroup) (a : Nat) : LaneGroup :=
  let w := ackFlits a l.window
  { l with window := w, acked := l.acked + (l.window.length - w.length)
           times := l.times.filter fun x => w.any fun (f : Flit) => f.seq == x.1 }.settle l.packets.length

/-- Queued flits enter the window of 32 while it has room, and leave for the other end. -/
def Hw.fillWindow (h : Hw) (d p lg : Nat) : Hw :=
  let l := h.lane d p lg
  if l.disabled || l.retraining then h
  else
    let n := min l.queue.length (32 - l.window.length)
    let fs := (l.queue.take n).zipIdx.map fun x => mkFlit x.1.2 x.1.1 ((l.nextSeq + x.2) % 64) ((l.expect + 63) % 64)
    let h := h.setLane d p lg fun l => { l with queue := l.queue.drop n, window := l.window ++ fs, nextSeq := (l.nextSeq + n) % 64 }
    fs.foldl (fun h f => h.emit (.flit d p lg f)) h

/-- The class that a port serves next: SYNC before all others, and REQ, RSP and COLL in equal turns (R24). -/
def MortPort.nextClass (m : MortPort) : Option Nat :=
  (0 :: [1, 2, 3].map fun k => (m.turn - 1 + k) % 3 + 1).find? fun c => m.waiting.any fun x => x.head.cls == c

/-- The lane group that takes the next packet: a working one that queues no flit, with the fewest unacknowledged, the lowest of equals. -/
def MortPort.freeLane (m : MortPort) : Option Nat :=
  let ok := (m.lanes.zipIdx.filter fun (x : LaneGroup × Nat) => !x.1.disabled && !x.1.retraining && x.1.queue.isEmpty && decide (x.1.window.length < 32))
  let least := minD (ok.map fun (x : LaneGroup × Nat) => x.1.window.length) 64
  (ok.find? fun (x : LaneGroup × Nat) => x.1.window.length == least).map (·.2)

/-- A port gives its next packet to a lane group; a packet never splits across lane groups (R25). -/
def Hw.assignPacket (h : Hw) (d p : Nat) : Hw :=
  let m := h.mort d p
  match m.nextClass, m.freeLane with
  | some c, some lg =>
    match m.waiting.find? fun x => x.head.cls == c with
    | none => h
    | some x =>
      let h := h.setMort d p fun m => { m with waiting := m.waiting.erase x, turn := if c = 0 then m.turn else c }
      let h := h.setLane d p lg fun l => { l with queue := x.flits, packets := l.packets ++ [x] }
      h.fillWindow d p lg
  | _, _ => h

/-- A port sends what it can. -/
def Hw.pumpPort (h : Hw) (d p : Nat) : Hw := forN (h.mort d p).waiting.length h fun h _ => h.assignPacket d p

/-- The die at which the other link of a host bridge or a keystone ends (R16, R18). -/
def otherLink (d p : Nat) : Option Nat :=
  if p = 6 then (if d = 0 then some 4 else if d = 4 then some 0 else if d = 11 then some 15 else if d = 15 then some 11 else none)
  else if p = 7 then (if d = 0 then some 12 else if d = 12 then some 0 else if d = 3 then some 15 else if d = 15 then some 3 else none)
  else none

/-- Where a packet for a port goes: for a failed link of a host bridge or a keystone, by the other one while that works (R18). -/
def Hw.wayOut (h : Hw) (d p : Nat) : Nat :=
  match otherLink d p with
  | some e => if (h.mort d p).failed && !(h.mort e p).failed then e else d
  | none => d

/-- A packet enters a sending port, whose buffer keeps a place for each class (R24, R25); an edge that has failed loses it (R29), and one whose
way out is another die goes there by R31 (R18). -/
def Hw.enterPort (h : Hw) (d p : Nat) (x : Packet) : Hw :=
  let e := h.wayOut d p
  let x := if e = d then x else { x with head := { x.head with dst := e } }
  let p := if e = d then p else mortarRoute d e
  let m := h.mort d p
  if m.failed then h
  else
    let c := x.head.cls % 4
    let x := { x with head := { x.head with order := m.sent.getD c 0 } }
    (h.setMort d p fun m => { m with waiting := m.waiting ++ [x], sent := m.sent.modify c (· + 1) }).pumpPort d p

/-- A packet is delivered at a die: it has arrived, or it goes on by the route of R31. -/
def Hw.deliverPacket (h : Hw) (d : Nat) (x : Packet) : Hw :=
  if x.head.dst = d then
    match x.head.exit with
    | some q => h.enterPort d q x
    | none => h.emit (.packet d x)
  else h.enterPort d (mortarRoute d x.head.dst) x

/-- The packets that are next in their classes are delivered. -/
def Hw.deliverEarly (h : Hw) (d p : Nat) : Hw :=
  forN (h.mort d p).early.length h fun h _ =>
    let m := h.mort d p
    match m.early.find? fun x => x.head.order == m.got.getD (x.head.cls % 4) 0 with
    | none => h
    | some x => (h.setMort d p fun m => { m with early := m.early.erase x, got := m.got.modify (x.head.cls % 4) (· + 1) }).deliverPacket d x

/-- A whole packet has arrived: it waits for the earlier ones of its class (R25), and one that came before a lane group was disabled is
not delivered twice (R28). -/
def Hw.packetIn (h : Hw) (d p : Nat) (x : Packet) : Hw :=
  if x.head.order < (h.mort d p).got.getD (x.head.cls % 4) 0 then h
  else (h.setMort d p fun m => { m with early := m.early ++ [x] }).deliverEarly d p

/-- The expected flit of a lane group is taken. Data with no header before it is dropped. -/
def Hw.takeFlit (h : Hw) (d p lg : Nat) (f : Flit) : Hw :=
  match f.payload, (h.lane d p lg).rx with
  | .head x, _ => if f.kind = 1 then h.setLane d p lg fun l => { l with rx := some { head := x, data := [] } } else h
  | .raw b, some x =>
    if f.kind = 1 then h
    else
      let y : Packet := { x with data := (x.data ++ flitBytes (.raw b)).take (32 * x.head.words) }
      if f.kind = 3 then (h.setLane d p lg fun l => { l with rx := none }).packetIn d p y
      else h.setLane d p lg fun l => { l with rx := some y }
  | _, none => h

/-! ## Replay (R23, R27) -/

/-- How often the flits of a window have been replayed in succession, after one more replay. -/
def LaneGroup.replay (l : LaneGroup) : List (Nat × Nat) :=
  l.window.map fun (f : Flit) => (f.seq, (match l.times.find? fun x => x.1 == f.seq with | some x => x.2 | none => 0) + 1)

/-- A NACK makes the sender resend from the named flit; the flits before it have arrived. -/
def Hw.flitNack (h : Hw) (d p lg seq : Nat) : Hw :=
  let l := h.lane d p lg
  if l.disabled || l.retraining || !l.window.any (fun (f : Flit) => f.seq == seq) then h
  else
    let h := h.setLane d p lg fun l =>
      let l := l.takeAck ((seq + 63) % 64)
      { l with times := l.replay, replays := h.now :: l.replays.filter fun t => decide (h.now < t + 1000000) }
    ((h.resendWindow d p lg).fillWindow d p lg).pumpPort d p

/-- MORTAR_NACK. -/
def execMortarNack (die port lg : Nat) (seq : Nat) (s : State) : Host.Outcome State Fault Refusal := actDie (fun h => h.flitNack die port lg seq) s

/-! ## Retraining (R27, R28) -/

/-- A lane group that works starts a retrain, and carries nothing until it ends. For one that is disabled a request has no effect and counts
nothing: the spec does not say what it does (DESIGN CHOICE; log 36). -/
def Hw.startRetrain (h : Hw) (d p lg : Nat) (ask : Bool) : Hw :=
  let l := h.lane d p lg
  if l.disabled || l.retraining then h
  else
    let h := h.setMort d p fun m => { m with retrains := min (m.retrains + 1) 0xFFFF }
    let h := h.setLane d p lg fun l => { l with retraining := true, replays := [], times := [] }
    if ask then h.emit (.flit d p lg (mkFlit (.raw (zeros 28)) 5 0 ((l.expect + 63) % 64))) else h

/-- Whether replays call for a retrain: REPLAY_LIMIT of them within 1 ms, 0 disabling that, or one flit four times in succession. -/
def Hw.replaysTooMany (h : Hw) (d p lg : Nat) : Bool :=
  let l := h.lane d p lg
  let limit := (h.mort d p).replayLimit
  let recent := (l.replays.filter fun t => decide (h.now < t + 1000000)).length
  (limit != 0 && decide (limit ≤ recent)) || l.times.any fun x => decide (4 ≤ x.2)

/-- LANE_RETRAIN. -/
def execLaneRetrain (die port lg : Nat) (s : State) : Host.Outcome State Fault Refusal :=
  actDie (fun h => if h.replaysTooMany die port lg then h.startRetrain die port lg true else h) s

/-- LG_RETRAIN: the lane group named in LGSEL; beyond the link's size it names none. -/
def execLgRetrain (die port : Nat) (s : State) : Host.Outcome State Fault Refusal :=
  actReg (dieOff die + 0x40 * port) (fun h => h.startRetrain die port (h.mort die port).lgsel true) s

/-! ## FLIT_RECEIVE (R22, R23) -/

/-- A flit arrives: discarded with a NACK on a CRC mismatch, and with it every later one until the expected flit comes again; the expected
flit is taken. R23 speaks of a CRC mismatch alone: a flit with a right CRC and a SEQ ahead of the expected one is discarded and answered
with a NACK too, and one up to 32 behind is dropped silently (DESIGN CHOICE; log 36). -/
def execFlitReceive (die port lg : Nat) (f : Flit) (s : State) : Host.Outcome State Fault Refusal :=
  actDie (fun h =>
    let l := h.lane die port lg
    if l.disabled || l.retraining then h
    else if f.crc ≠ flitCrc f then
      let h := (h.setMort die port fun m => { m with crcErr := satAdd m.crcErr 1 }).setLane die port lg fun l => { l with discarding := true }
      (h.sendFlitNack die port lg).noteCrc die 0 port
    else
      let h := ((h.setLane die port lg fun l => l.takeAck f.ack).fillWindow die port lg).pumpPort die port
      if f.kind = 4 then h.flitNack die port lg f.seq
      else if f.kind = 5 then h.startRetrain die port lg false
      else if f.kind = 0 ∨ 6 ≤ f.kind then h
      else if f.seq = l.expect then
        (h.setLane die port lg fun l => { l with expect := (l.expect + 1) % 64, discarding := false }).takeFlit die port lg f
      else if l.discarding || decide ((l.expect + 64 - f.seq) % 64 ≤ 32) then h
      else (h.setLane die port lg fun l => { l with discarding := true }).sendFlitNack die port lg) s

/-! ## The end of a retrain, and failed ports (R28-R30) -/

/-- The packets of a disabled lane group's window move to other working lane groups of the port, whole, before the packets that wait; while
none is free they wait with them (R28). What the lane group was receiving comes again on another. -/
def Hw.moveWindow (h : Hw) (d p lg : Nat) : Hw :=
  let xs := (h.lane d p lg).packets
  let h := h.setLane d p lg fun l => { l with window := [], queue := [], packets := [], acked := 0, times := [], rx := none }
  (h.setMort d p fun m => { m with waiting := xs ++ m.waiting }).pumpPort d p

/-- The packets that a failed link of a host bridge or keystone still held go over the other link, and those that came over it are delivered
without the earlier ones of their classes, which its other end sends over the other link too (R18). -/
def Hw.carryOn (h : Hw) (d p : Nat) (m : MortPort) : Hw :=
  if (otherLink d p).isNone then h
  else
    let h := m.early.foldl (fun h x => h.deliverPacket d x) h
    (m.lanes.flatMap (·.packets) ++ m.waiting).foldl (fun h x => h.enterPort d p x) h

/-- A port whose working lane groups fall below its minimum is FAILED: on a compute edge and an optical engine's link the packets in flight are
lost, which are die-level faults, and a host bridge or keystone goes on over its other link (R18, R29, R360). -/
def Hw.checkPort (h : Hw) (d p : Nat) : Hw :=
  let m := h.mort d p
  if m.failed || !m.short p then h.capEngine d p
  else
    let h := h.setMort d p fun m =>
      { m with failed := true, waiting := [], early := []
               lanes := m.lanes.map fun (l : LaneGroup) => { l with window := [], queue := [], packets := [], acked := 0, rx := none } }
    let h := h.carryOn d p m
    match facing d p with
    | some x => h.recover (h.atLevel (.dies (min d x.1) (max d x.1))) 4 true false
    | none =>
      match p == 4 || p == 5, (dieEngines d)[p - 4]? with
      | true, some k => h.recover (h.atLevel (.dieAndEngine d k)) 4 true false
      | _, _ => h

/-- LANE_RETRAIN_DONE: back in service, with a spare in place of a wire found failed where one is left, or disabled. -/
def execLaneRetrainDone (die port lg : Nat) (failedWire : Option Nat) (s : State) : Host.Outcome State Fault Refusal :=
  actDie (fun h =>
    let l := h.lane die port lg
    if !l.retraining then h
    else match failedWire with
    | none => (((h.setLane die port lg fun l => { l with retraining := false }).resendWindow die port lg).fillWindow die port lg).pumpPort die port
    | some w =>
      if l.spares < 2 ∧ l.substDone = false ∧ (h.mort die port).substEn = true then
        ((((h.setLane die port lg fun l =>
          { l with retraining := false, spares := l.spares + 1, substDone := true
                   wire0 := if l.spares = 0 then w else l.wire0, wire1 := if l.spares = 0 then l.wire1 else w }).resendWindow die port lg).fillWindow die port lg).pumpPort die port)
      else
        let h := (h.setLane die port lg fun l => { l with retraining := false, disabled := true }).setMort die port fun m =>
          { m with disabledInsvc := m.disabledInsvc + 1 }
        (h.moveWindow die port lg).checkPort die port) s

end Sys2Proof.Machine
end

