-- ==== Sys2Proof/Machine/Power.lean ====
section
/-! DEFINITION. Clocks, the power input, droop and heat (17 R406-R421; log 42). -/

namespace Sys2Proof.Machine

/-! ## Set points (R408, R409) -/

/-- Whether a set point is accepted. -/
def Hw.setPointOk (h : Hw) (v : Nat) : Bool := decide (4 ≤ v) && decide (v ≤ if h.ks2.highClk then 19 else 16)

/-- CLOCK_SET: a write of CLK.SET, refused whole where either field is. -/
def execClockSet (die : Nat) (value : W32) (s : State) : Host.Outcome State Fault Refusal :=
  actReg (dieOff die + 0x800) (fun h =>
    let t := bits value.toNat 4 0
    let f := bits value.toNat 12 8
    if h.setPointOk t && h.setPointOk f then h.setAux die fun a => { a with tileSet := t, fabSet := f } else h) s

/-- HIGH_CLK_SET: when it falls, set points above 16 become 16. -/
def execHighClkSet (value : Bool) (s : State) : Host.Outcome State Fault Refusal :=
  actReg 0x300 (fun h =>
    if !h.allFree then h
    else
      let h : Hw := { h with ks2 := { h.ks2 with highClk := value } }
      if value then h
      else { h with aux := h.aux.map fun (a : DieAux) => { a with tileSet := min 16 a.tileSet, fabSet := min 16 a.fabSet } }) s

/-! ## The power input (R411) -/

/-- SUPPLY_LOW: 42 V to below 45 V, in units of 10 mV. -/
def execSupplyLow (lowest : Nat) (s : State) : Host.Outcome State Fault Refusal :=
  act (fun h => if 4200 ≤ lowest ∧ lowest < 4500 then h.evMod 0x0703 srcModule 0 lowest else h) s

/-- SUPPLY_HIGH: above 55 V to 58 V; above 60 V the manual says only that the module may be damaged. -/
def execSupplyHigh (highest : Nat) (s : State) : Host.Outcome State Fault Refusal :=
  if 6000 < highest then .fault .absoluteMaximum
  else act (fun h => if 5500 < highest ∧ highest ≤ 5800 then h.evMod 0x0704 srcModule 0 highest else h) s

/-- SUPPLY_LOST: below 42 V or above 58 V every island stops. -/
def execSupplyLost (reading : Nat) (s : State) : Host.Outcome State Fault Refusal :=
  act (fun h => if reading < 4200 ∨ 5800 < reading then { h with ks2 := { h.ks2 with powered := false } } else h) s

/-! ## Islands (R406) -/

/-- The compute die that holds an island. -/
def islandDie : Island → Option Nat
  | .tile d _ => some d
  | .fabric d => some d
  | .mortar d _ => some d
  | .opticalIface k => some (portDie (2 * k))
  | .hbm d => some d
  | _ => none

/-- An island's index among those of its kind on its die, or in the module. -/
def islandIndex : Island → Nat
  | .tile _ t => t
  | .fabric _ => 0
  | .mortar _ p => p
  | .opticalIface k => k
  | .hbm _ => 0
  | .bridge p => p
  | .keystone n => n
  | .optical k => k
  | .engineMortar _ => 0
  | .bridgeMortar _ l => l
  | .keystoneMortar _ l => l

/-- The die that holds an island: 0 a compute die, 1 an optical engine, 2 a host bridge, 3 a keystone; and its number. -/
def islandPlace : Island → Nat × Nat
  | .bridge p => (2, p)
  | .bridgeMortar p _ => (2, p)
  | .keystone n => (3, n)
  | .keystoneMortar n _ => (3, n)
  | .optical k => (1, k)
  | .engineMortar k => (1, k)
  | i => (0, (islandDie i).getD 0)

/-- Whether an island has power: those of the keystones and bridges whenever 50 V is good, the others once the dies are on. -/
def Hw.islandOn (h : Hw) (i : Island) : Bool := decide (2 ≤ (islandPlace i).1) || h.diesOn

/-- SOURCE of an island's events (R421). -/
def islandSrc : Island → Nat
  | .tile d t => srcTile d t
  | .bridge p => srcBridge p
  | .keystone n => srcKeystone n
  | .optical k => srcEngine k
  | .engineMortar k => srcEngine k
  | .bridgeMortar p _ => srcBridge p
  | .keystoneMortar n _ => srcKeystone n
  | i => srcDie ((islandDie i).getD 0)

/-- DETAIL0 of an island's thermal events. -/
def islandDetail (i : Island) (level : Nat) : Nat := (islandDie i).getD 0 + 16 * islandIndex i + 4096 * islandKind i + 65536 * level

/-- Whether an island's clock is settable. -/
def settable : Island → Bool
  | .tile _ _ => true
  | .fabric _ => true
  | _ => false

/-- The thermal level in force of a settable island. -/
def Hw.islandLevel (h : Hw) : Island → Nat
  | .tile d t => (h.tile d t).level
  | .fabric d => (h.dieAux d).fabLevel
  | _ => 0

def Hw.setLevel (h : Hw) (i : Island) (n : Nat) : Hw :=
  match i with
  | .tile d t => h.setTile d t fun x => { x with level := n }
  | .fabric d => h.setAux d fun a => { a with fabLevel := n }
  | _ => h

def Hw.droops (h : Hw) : Island → Bool
  | .tile d t => (h.tile d t).droop
  | .fabric d => (h.dieAux d).fabDroop
  | _ => false

def Hw.setDroop (h : Hw) (i : Island) (v : Bool) : Hw :=
  match i with
  | .tile d t => h.setTile d t fun x => { x with droop := v }
  | .fabric d => h.setAux d fun a => { a with fabDroop := v }
  | _ => h

/-! ## Droop (R415) -/

/-- Count n stretched cycles or droop steps; DROOP_RATE when those of the last second exceed 1,000, once a minute on a die. -/
def Hw.countDroop (h : Hw) (d n : Nat) : Hw :=
  let a := h.dieAux d
  let l := (h.now, n) :: a.droopTimes.filter fun x => decide (h.now < x.1 + second)
  let sum := (l.map (·.2)).sum
  let told := match a.droopAt with | some t => decide (h.now < t + 60 * second) | none => false
  let h := h.setAux d fun a => { a with droops := satAdd a.droops n, droopTimes := l }
  if 1000 < sum ∧ told = false then (h.setAux d fun a => { a with droopAt := some h.now }).evMod 0x0705 (srcDie d) d sum else h

/-- DROOP_DETECT: a settable island stretches its clock; the second of the pair is the number of cycles that the droop keeps stretched. -/
def execDroopDetect (x : Island × Nat) (s : State) : Host.Outcome State Fault Refusal :=
  actDie (fun h => match settable x.1, islandDie x.1 with | true, some d => h.countDroop d x.2 | _, _ => h) s

/-- DROOP_STEP. -/
def execDroopStep (i : Island) (s : State) : Host.Outcome State Fault Refusal :=
  actDie (fun h =>
    match settable i && !h.droops i, islandDie i with
    | true, some d => (h.setDroop i true).countDroop d 1
    | _, _ => h) s

/-- DROOP_STEP_RAISE. -/
def execDroopStepRaise (i : Island) (s : State) : Host.Outcome State Fault Refusal := act (fun h => h.setDroop i false) s

/-! ## Heat (R416-R419) -/

/-- The level that a reading in 0.1 °C asks for; 5 is a stop. -/
def levelOf (t : Nat) : Nat := if t < 1050 then 0 else if t < 1100 then 1 else if t < 1150 then 2 else if t < 1200 then 3 else if t < 1250 then 4 else 5

/-- The last readings of the islands of one die, or of those outside the compute dies. -/
def Hw.temps (h : Hw) (i : Island) : List (Island × Nat) := match islandDie i with | some d => (h.dieAux d).temps | none => h.ks2.temps

/-- Keep an island's reading. -/
def Hw.keepReading (h : Hw) (i : Island) (t : Nat) : Hw :=
  let put (l : List (Island × Nat)) : List (Island × Nat) := (l.filter fun (x : Island × Nat) => x.1 != i) ++ [(i, t)]
  let h := match islandDie i with
    | some d => h.setAux d fun a => { a with temps := put a.temps }
    | none => { h with ks2 := { h.ks2 with temps := put h.ks2.temps } }
  match i with
  | .tile d n => h.setTile d n fun x => { x with tempC := min 255 (t / 10) }
  | _ => h

/-- A number for an island of a die, under which the die keeps the time of its last THERMAL_STEP. -/
def islandKey (i : Island) : Nat := 16 * islandKind i + islandIndex i

/-- THERMAL_STEP: a level rises, and is told at most once a second. -/
def Hw.thermalStep (h : Hw) (i : Island) (d n t : Nat) : Hw :=
  let told := (h.dieAux d).stepAt.any fun x => x.1 == islandKey i && decide (h.now < x.2 + second)
  let h := (h.setLevel i n).setAux d fun a => { a with thermalSteps := satAdd a.thermalSteps 1 }
  if told then h
  else
    let h := h.setAux d fun a => { a with stepAt := (a.stepAt.filter fun x => x.1 != islandKey i) ++ [(islandKey i, h.now)] }
    h.evMod 0x0701 (islandSrc i) (islandDetail i n) t

/-- THERMAL_STOP: the island's clocks stop, and its domain is recovered; KS1 leads when KS0 stops. -/
def Hw.thermalStop (h : Hw) (i : Island) (t : Nat) : Hw :=
  let h : Hw := { h with ks2 := { h.ks2 with stopped := h.ks2.stopped ++ [i] } }
  let h := h.evMod 0x0702 (islandSrc i) (islandDetail i 0) t
  let h := match i with
    | .keystone 0 =>
      if h.ks.leader = 0 then
        ({ h.flashWrite recHealth fun f => { f with noStandby := true } with ks := { h.ks with leader := 1 } } : Hw).evMod 0x0607 (srcKeystone 1) 0 0
      else h
    | _ => h
  h.recover (h.atLevel (islandDomain i)) 4 true true

/-- THERMAL_READING. -/
def execThermalReading (i : Island) (tenths : Nat) (s : State) : Host.Outcome State Fault Refusal :=
  act (fun h =>
    if !h.islandOn i then h else
    let h := h.keepReading i tenths
    let n := levelOf tenths
    if h.ks2.stopped.contains i then h
    else if n = 5 then h.thermalStop i tenths
    else match settable i && decide (h.islandLevel i < n), islandDie i with
      | true, some d => h.thermalStep i d n tenths
      | _, _ => h) s

/-- THERMAL_LEVEL_FALL: the last reading lies at least 2 °C below the threshold of the present level. -/
def execThermalLevelFall (i : Island) (s : State) : Host.Outcome State Fault Refusal :=
  act (fun h =>
    let n := h.islandLevel i
    let cool := match (h.temps i).find? (·.1 == i) with | some x => decide (x.2 + 20 ≤ 1000 + 50 * n) | none => true
    if n ≠ 0 ∧ cool = true then h.setLevel i (n - 1) else h) s

/-- THERMAL_RECOVERY: every sensor of the stopped die reads below 100 °C, those of its stopped islands among them, so its domain may return. -/
def execThermalRecovery (i : Island) (s : State) : Host.Outcome State Fault Refusal :=
  act (fun h =>
    let d := islandPlace i
    let here := (h.temps i).filter fun (x : Island × Nat) => islandPlace x.1 == d
    let cool := (here.all fun x => decide (x.2 < 1000)) &&
      (h.ks2.stopped.filter fun (j : Island) => islandPlace j == d).all fun j => here.any fun x => x.1 == j
    if cool then { h with ks2 := { h.ks2 with stopped := h.ks2.stopped.filter fun (j : Island) => islandPlace j != d } } else h) s

/-- COOLANT_HOT: an inlet above 40 °C for 1 s, told at most once a minute. -/
def execCoolantHot (tenths : Nat) (s : State) : Host.Outcome State Fault Refusal :=
  act (fun h =>
    if tenths ≤ 400 then { h with ks2 := { h.ks2 with hot := false } }
    else
      let told := match h.ks2.hotAt with | some t => decide (h.now < t + 60 * second) | none => false
      let h : Hw := { h with ks2 := { h.ks2 with hot := true } }
      if told then h else ({ h with ks2 := { h.ks2 with hotAt := some h.now } } : Hw).evMod 0x0706 srcModule 0 tenths) s

end Sys2Proof.Machine
end

