-- ==== Sys2Proof/Machine/RegWrite.lean ====
section
/-! DEFINITION. Writes of BAR0 and the alias windows (01 R32, R38, R39; 02 R71; 03 R90; 18 R425, R437-R439; 21 R464-R472; log 43).
Every function takes the offset of a 32-bit word in its block and the word written. -/

namespace Sys2Proof.Machine

/-! ## Fields -/

/-- Run the meaning of a row from a register write. -/
def via (f : State → Host.Outcome State Fault Refusal) (h : Hw) : Hw :=
  match f { hw := h } with
  | .next s => s.hw
  | _ => h

/-- Replace one word of a 64-bit register by the bits of `mask`. -/
def putHalf (old o v mask : Nat) : Nat :=
  (if o % 8 = 0 then old / 2 ^ 32 * 2 ^ 32 + v % 2 ^ 32 else v % 2 ^ 32 * 2 ^ 32 + old % 2 ^ 32) &&& mask

/-- Bits [63:n]. -/
def upper (n : Nat) : Nat := 2 ^ 64 - 2 ^ n

/-- A 32-bit RW1C counter (R32). -/
def wipe (c : W32) (v : Nat) : W32 := if v = 0 then c else 0
/-- A 64-bit RW1C counter. -/
def wipe64 (c : W64) (v : Nat) : W64 := if v = 0 then c else 0
/-- An RW1C bit. -/
def wipeBit (b : Bool) (v n : Nat) : Bool := b && !v.testBit n

/-! ## Rings (R71) -/

def Hw.ringWrite (h : Hw) (port r o v : Nat) : Hw :=
  let w := h.ring r
  let idle := w.state == .stopped
  if o < 8 then (if idle then h.setRing r fun w => { w with base := BitVec.ofNat 64 (putHalf w.base.toNat o v (upper 12)) } else h)
  else if o < 0x10 then (if idle then h.setRing r fun w => { w with dbAddr := BitVec.ofNat 64 (putHalf w.dbAddr.toNat o v (upper 6)) } else h)
  else if o = 0x10 then
    (if idle then h.setRing r fun w =>
      { w with log2 := v % 32, jf1 := v.testBit 5, overlap := v.testBit 6, skip := v.testBit 7, ctx := bits v 11 8, module := v.testBit 12
               cpl := bits v 19 16 }
     else h)
  else if o = 0x14 then h.setRing r fun w => { w with poll := v % 4096 }
  else if o = 0x18 then
    let cmd := v % 8
    if cmd = 0 then h
    else if cmd = 1 then via (execRingStart port r .none) h
    else if cmd = 2 then via (execRingStop port r) h
    else if cmd = 3 then via (execRingDrain port r .none) h
    else if cmd = 4 then via (execRingResume port r) h
    else h.ringCmdErr r
  else if o = 0x1C then h.setRing r fun w => { w with startErr := wipeBit w.startErr v 2, cmdErr := wipeBit w.cmdErr v 3 }
  else if o = 0x20 then
    (if idle || w.state == .halted then h.setRing r fun w => { w with head := BitVec.ofNat 32 v, fetched := [] } else h)
  else h

def Hw.outRingWrite (h : Hw) (evt : Bool) (n o v : Nat) : Hw :=
  let w := h.outRing evt n
  if o < 8 then (if w.en then h else h.setOutRing evt n fun w => { w with base := BitVec.ofNat 64 (putHalf w.base.toNat o v (upper 12)) })
  else if o < 0x10 then (if w.en then h else h.setOutRing evt n fun w => { w with dbAddr := BitVec.ofNat 64 (putHalf w.dbAddr.toNat o v (upper 6)) })
  else if o = 0x10 then
    (if v.testBit 0 then via (execRingEnSet evt n (BitVec.ofNat 32 v)) h else via (execRingEnClear evt n (BitVec.ofNat 32 v)) h)
  else if o = 0x14 then h.setOutRing evt n fun w => { w with irqCount := v % 65536, irqDelay := v / 65536 }
  else if o = 0x18 then h.setOutRing evt n fun w => { w with headErr := wipeBit w.headErr v 1 }
  else if o = 0x28 ∧ evt = true then h.setOutRing evt n fun w => { w with lost := wipe w.lost v }
  else h

def Hw.ringsWrite (h : Hw) (port o v : Nat) : Hw :=
  if o < 0x2000 then h.ringWrite port (o / 0x40) (o % 0x40) v
  else if o < 0x2400 then h.outRingWrite false ((o - 0x2000) / 0x40) (o % 0x40) v
  else if o < 0x2480 then h.outRingWrite true ((o - 0x2400) / 0x40) (o % 0x40) v
  else h

/-! ## Contexts (R90, R230, R329) -/

def Hw.ctxWrite (h : Hw) (port n o v : Nat) : Hw :=
  if o < 8 then
    (if (h.ctx n).state == .free then h.setCtx n fun c => { c with planAddr := BitVec.ofNat 64 (putHalf c.planAddr.toNat o v (upper 12)) } else h)
  else if o = 8 then
    (if v % 4 = 0 then (if (h.ctx n).owner = port then h else h.ctxCmdErr n)
     else if v % 4 = 1 then via (execContextOpen port n) h
     else if v % 4 = 2 then via (execContextCloseDrain port n) h
     else via (execContextCloseFlush port n) h)
  else if o = 0xC then h.setCtx n fun c => { c with cmdErr := wipeBit c.cmdErr v 4 }
  else if o = 0x14 then h.setCtx n fun c => { c with discarded := wipe c.discarded v }
  else if o = 0x18 then h.setCtx n fun c => { c with flushed := wipe c.flushed v }
  else if o = 0x20 then (if v.testBit 0 then via (execXlatInv port n) h else h)
  else if o = 0x48 then h.setCtx n fun c => { c with retHits := wipe c.retHits v }
  else if o = 0x4C then h.setCtx n fun c => { c with retMisses := wipe c.retMisses v }
  else if o = 0x50 then h.setCtx n fun c => { c with retEvict := wipe c.retEvict v }
  else if o = 0x54 then h.setCtx n fun c => { c with retFail := wipe c.retFail v }
  else if 0x80 ≤ o then
    h.setCtx n fun c => { c with chans := c.chans.modify ((o - 0x80) / 16) fun (x : Channel) =>
      if o % 16 = 0 then (if bits v 22 16 = 0 then x else { x with highWater := 0 })
      else if o % 16 = 4 then { x with stallUs := wipe x.stallUs v }
      else if o % 16 = 8 then { x with msgs := wipe x.msgs v }
      else x }
  else h

/-! ## Group masks and host bridges (R354, R427, R441, R470) -/

def Hw.bcastWrite (h : Hw) (o v : Nat) : Hw :=
  let b := h.bcast
  if o < 0x20 then { h with bcast := { b with die := b.die.set (o / 4) (v % 65536) } }
  else if 0x40 ≤ o ∧ o < 0x80 then
    { h with bcast := { b with port := b.port.modify ((o - 0x40) / 8) fun (x : Nat) => putHalf x o v (2 ^ 48 - 1) } }
  else if 0x100 ≤ o ∧ o < 0x200 then
    { h with bcast := { b with tile := b.tile.modify ((o - 0x100) / 0x20) fun (l : List Nat) => l.set (o % 0x20 / 4) v } }
  else h

def Hw.bridgeWrite (h : Hw) (p o v : Nat) : Hw :=
  if o = 0 then
    let ms := v / 65536
    if ms < 10 ∨ 10000 < ms then h else h.setHost p fun q => { q with roDis := v.testBit 0, failover := v.testBit 1, lossMs := ms }
  else if o = 8 ∨ o = 0xC then via (execApertureWrite p (BitVec.ofNat 64 (putHalf ((h.host p).apertureBase * gib) o v (2 ^ 64 - 1)))) h
  else if o = 0x100 then h.setHost p fun q => { q with poisonRx := wipe q.poisonRx v }
  else if o = 0x104 then h.setHost p fun q => { q with poisonTx := wipe q.poisonTx v }
  else h

/-! ## Optical engines (R259) -/

def LinkCounts.wiped (c : LinkCounts) (o v : Nat) : LinkCounts :=
  if o = 0x20 then { c with crcErr := wipe c.crcErr v }
  else if o = 0x24 then { c with replays := wipe c.replays v }
  else if o = 0x28 then { c with carrierLoss := wipe c.carrierLoss v }
  else if o = 0x2C then { c with reasmDiscard := wipe c.reasmDiscard v }
  else if o = 0x30 then { c with lendFail := wipe c.lendFail v }
  else if o = 0x34 then { c with corrected := wipe c.corrected v }
  else c

/-- A port block: EN and RETRAIN of CTL, and the counters of its links. -/
def Hw.portWrite (h : Hw) (p o v : Nat) : Hw :=
  if o = 0 then
    let h := if v.testBit 0 then via (execPortEnable p) h else via (execPortDisable p) h
    if v.testBit 1 then via (execPortRetrain p) h else h
  else if 0x40 ≤ o ∧ o < 0x140 then h.setLink p ((o - 0x40) / 0x40) fun k => { k with counts := k.counts.wiped (o % 0x40) v }
  else h

def Hw.oeWrite (h : Hw) (e o v : Nat) : Hw :=
  if o < 0x200 then h.portWrite (2 * e) o v
  else if o < 0x400 then h.portWrite (2 * e + 1) (o - 0x200) v
  else h

/-! ## Compute dies (R32, R148, R203, R230, R299, R354, R386, R422) -/

/-- A mortar port block; that of a port the die does not have ignores writes. -/
def Hw.mortWrite (h : Hw) (d p o v : Nat) : Hw :=
  if (h.mort d p).lanes.isEmpty then h
  else if o = 4 then
    let h := h.setMort d p fun m => { m with substEn := v.testBit 1, replayLimit := bits v 15 8 }
    if v.testBit 0 then via (execLgRetrain d p) h else h
  else if o = 8 then h.setMort d p fun m => { m with lgsel := v % 256 }
  else if o = 0x10 then h.setMort d p fun m => { m with crcErr := wipe m.crcErr v }
  else if o = 0x14 then h.setMort d p fun m => { m with retrains := if v % 65536 = 0 then m.retrains else 0 }
  else h

def Hw.tileWrite (h : Hw) (d t o v : Nat) : Hw :=
  let set (f : Tile → Tile) : Hw := h.setTile d t f
  if o = 0 then
    set fun x => { x with
      mxSat := wipeBit x.mxSat v 0, mxNan := wipeBit x.mxNan v 1, mxInf := wipeBit x.mxInf v 2, strips := if v / 65536 = 0 then x.strips else 0 }
  else if o = 8 ∨ o = 0xC then set fun x => { x with mxBusyCyc := wipe64 x.mxBusyCyc v }
  else if o = 0x10 ∨ o = 0x14 then set fun x => { x with mxMacCyc := wipe64 x.mxMacCyc v }
  else if o = 0x40 then
    let h := if v.testBit 0 then via (execTrgScrub d t) h else h
    if v.testBit 1 then via (execSlotScrub d t) h else h
  else if o = 0x44 then
    set fun x => { x with veRange := wipeBit x.veRange v 2, veNan := wipeBit x.veNan v 3, blocks := if v / 65536 = 0 then x.blocks else 0 }
  else if o = 0x50 ∨ o = 0x54 then set fun x => { x with veBusyCyc := wipe64 x.veBusyCyc v }
  else if o = 0x58 ∨ o = 0x5C then set fun x => { x with veIssueCyc := wipe64 x.veIssueCyc v }
  else h

/-- The counters of a die's memory, reduction and integrity blocks. -/
def Die.wiped (d : Die) (o v : Nat) : Die :=
  if o = 0x408 then { d with hbm := { d.hbm with slow := wipe d.hbm.slow v } }
  else if o = 0x40C then { d with hbm := { d.hbm with ce := wipe d.hbm.ce v } }
  else if o = 0x410 then { d with hbm := { d.hbm with ue := wipe d.hbm.ue v } }
  else if o = 0x420 then { d with sramCe := wipe d.sramCe v }
  else if o = 0x424 then { d with sramUe := wipe d.sramUe v }
  else if o = 0x430 ∨ o = 0x434 then { d with rcHits := wipe64 d.rcHits v }
  else if o = 0x438 ∨ o = 0x43C then { d with rcMisses := wipe64 d.rcMisses v }
  else if o = 0x440 ∨ o = 0x444 then { d with rcInvals := wipe64 d.rcInvals v }
  else if o = 0x504 then { d with lateSent := wipe d.lateSent v }
  else if o = 0x508 then { d with lateRcvd := wipe d.lateRcvd v }
  else if o = 0x50C then { d with carryDrop := wipe d.carryDrop v }
  else if o = 0x510 then { d with transitDrop := wipe d.transitDrop v }
  else if o = 0x600 then { d with copyPin := v % 4, gatherPin := bits v 5 2, ceLimit := v / 65536 }
  else if o = 0x604 then { d with crcLimit := v % 65536 }
  else if o = 0x608 then { d with poisonRd := wipe d.poisonRd v }
  else if o = 0x60C then { d with poisonWr := wipe d.poisonWr v }
  else if o = 0x610 then { d with ctrlCe := wipe d.ctrlCe v }
  else if o = 0x614 then { d with ueSuppressed := wipe d.ueSuppressed v }
  else d

def Hw.dieWrite (h : Hw) (d o v : Nat) : Hw :=
  if o < 0x200 then h.mortWrite d (o / 0x40) (o % 0x40) v
  else if o = 0x704 then
    (if v.testBit 4 then via (execTileRetire d (v % 16)) h else h.setDie d fun x => { x with retireSel := v % 16 })
  else if o = 0x800 then via (execClockSet d (BitVec.ofNat 32 v)) h
  else if o = 0x808 then h.setAux d fun a => { a with thermalSteps := wipe a.thermalSteps v }
  else if o = 0x80C then h.setAux d fun a => { a with droops := wipe a.droops v }
  else if 0x2000 ≤ o ∧ o < 0x3000 then h.tileWrite d ((o - 0x2000) / 0x100) (o % 0x100) v
  else h.setDie d fun x => x.wiped o v

/-! ## Keystones (R38, R230, R259, R273, R386, R405, R422) -/

/-- Domain, index and GO of KS0.RESET. -/
def resetRow (port domain index : Nat) : State → Host.Outcome State Fault Refusal :=
  match domain with
  | 0 => execEngineReset port index
  | 1 => execTileReset port index
  | 2 => execPortReset port index
  | 3 => execOpticalEngineReset port index
  | 4 => execDieReset port index
  | 5 => execContextReset port index
  | 6 => execModuleRingReset port index
  | _ => execModuleReset port index

def Hw.setKs (h : Hw) (f : Keystone → Keystone) : Hw := { h with ks := f h.ks }

/-- The keystone registers of 16 R405. -/
def Hw.startWrite (h : Hw) (port o v : Nat) : Hw :=
  if o = 0x08 then h.setKs fun k => { k with reverted := wipeBit k.reverted v 4, fwErr := wipeBit k.fwErr v 6 }
  else if o = 0x10 then
    (if v % 8 = 1 then via (execStage port .none) h
     else if v % 8 = 2 then via (execActivate port) h
     else if v % 8 = 3 then via (execConfirm port) h
     else if v % 8 = 4 then via (execCommitSvn port) h
     else h)
  else if o = 0x18 ∨ o = 0x1C then h.setKs fun k => { k with fwAddr := BitVec.ofNat 64 (putHalf k.fwAddr.toNat o v (upper 12)) }
  else if h.ks.boot == .recovery then h
  else if o = 0x28 then
    let h := h.setKs fun k => { k with dbgErr := wipeBit k.dbgErr v 5 }
    if v.testBit 4 then via (execDebugUnlock port .none) h else h
  else if o = 0x30 ∨ o = 0x34 then h.setKs fun k => { k with dbgAddr := BitVec.ofNat 64 (putHalf k.dbgAddr.toNat o v (upper 12)) }
  else if o = 0x60 then
    let h := h.setKs fun k => { k with keyErr := wipeBit k.keyErr v 2 }
    if v.testBit 0 then via (execKeyInstall port .none) h else h
  else if o = 0x68 ∨ o = 0x6C then h.setKs fun k => { k with keyAddr := BitVec.ofNat 64 (putHalf k.keyAddr.toNat o v (upper 12)) }
  else if o = 0x70 ∨ o = 0x74 then h.setKs fun k => { k with keyToken := BitVec.ofNat 64 (putHalf k.keyToken.toNat o v (upper 12)) }
  else h

/-- KS0.RESET: ERR is cleared first, and GO makes the request; one that R363 refuses leaves DOMAIN and INDEX as they were (R467). -/
def Hw.resetWrite (h : Hw) (port v : Nat) : Hw :=
  if h.ks.boot == .recovery then (if v.testBit 16 ∧ v % 8 = 7 then via (execModuleReset port 0) h else h)
  else
    let h := h.setKs fun k => { k with resetErr := wipeBit k.resetErr v 17 }
    if v.testBit 16 then via (resetRow port (v % 8) (bits v 15 8)) h
    else h.setKs fun k => { k with resetDomain := v % 8, resetIndex := bits v 15 8 }

/-- KS0.BOARD_SLOT, BOARD_MAP, HBM_CFG, OPT_LIMITS, WDOG and ESC: writes that some condition refuses whole. A write of HBM_CFG that leaves
RATE as it is trains no stack, while HBM_RATE_SET trains them at any rate: R213 does not say (DESIGN CHOICE; log 35). -/
def Hw.limWrite (h : Hw) (o v : Nat) : Hw :=
  let l := h.lim
  if o = 0x100 then
    (if v % 32 < 8 ∧ h.allFree = true ∧ h.noneBusy = true then { h with lim := { l with slot := v % 32, slotValid := v.testBit 31 } } else h)
  else if o = 0x104 then (if h.allFree ∧ h.noneBusy then { h with lim := { l with present := v % 256 } } else h)
  else if o = 0x108 then
    let g := bits v 13 8
    if v % 4 = 3 ∨ 32 < g ∨ h.hbmCfgOk = false then h
    else
      let h := via (execHbmLocalSet g) h
      if v % 4 = l.rate then h else via (execHbmRateSet (v % 4)) h
  else if o = 0x10C then
    let dead := v % 65536
    let reasm := v / 65536
    if h.allFree = true ∧ 1 ≤ dead ∧ dead ≤ 10000 ∧ 2 ≤ reasm ∧ reasm < 65536 ∧ dead < reasm then
      { h with lim := { l with linkDeadMs := dead, reasmMs := reasm } }
    else h
  else if o = 0x200 then
    (let ms := v % 2 ^ 14
     if 10 ≤ ms ∧ ms ≤ 10000 then { h with lim := { l with hangMs := ms } } else h)
  else if o = 0x208 then
    (if 60 ≤ v % 65536 ∧ h.allFree = true then { h with lim := { l with windowS := v % 65536 } } else h)
  else h

def Hw.keystoneWrite (h : Hw) (port o v : Nat) : Hw :=
  if o < 0x80 then h.startWrite port o v
  else if o = 0x124 then
    (if v.testBit 2 then via (execCombForce (v % 4)) h else { h with comb := { h.comb with ctlGroup := v % 4 } })
  else if o = 0x204 then h.resetWrite port v
  else if o = 0x230 ∨ o = 0x234 then
    (if h.allFree then
      let x := putHalf (h.ks2.capAddr * 2 ^ 21 + 2 ^ 63 * b2n h.ks2.capValid) o v (2 ^ 64 - 1)
      { h with ks2 := { h.ks2 with capAddr := bits x 39 21, capValid := x.testBit 63 } }
     else h)
  else if o = 0x238 then
    (if v / 65536 ≤ 319 then { h with ks2 := { h.ks2 with capAuto := v.testBit 0, capAutoK1 := v.testBit 1, capK1 := v / 65536 } } else h)
  else if o = 0x300 then via (execHighClkSet (v.testBit 0)) h
  else h.limWrite o v

/-! ## BAR0 (R464, R469) -/

/-- A write of one 32-bit word; alias windows are no part of this. -/
def Hw.wordWrite (h : Hw) (port o v : Nat) : Hw :=
  if h.dark o then h
  else if o < 0x10000 then h.keystoneWrite port o v
  else if o < 0x1C000 then h.ringsWrite port (o - 0x10000) v
  else if o < 0x1D000 then h.ctxWrite port ((o - 0x1C000) / 0x100) (o % 0x100) v
  else if o < 0x1E000 then h
  else if o < 0x1F000 then h.bcastWrite (o - 0x1E000) v
  else if 0x20000 ≤ o ∧ o < 0x22000 then h.bridgeWrite ((o - 0x20000) / 0x1000) (o % 0x1000) v
  else if 0x40000 ≤ o ∧ o < 0x58000 then h.oeWrite ((o - 0x40000) / 0x1000) (o % 0x1000) v
  else if 0x100000 ≤ o ∧ o < 0x200000 then h.dieWrite ((o - 0x100000) / 0x10000) (o % 0x10000) v
  else if 0x380000 ≤ o ∧ o < 0x388000 then h.msixWrite port ((o - 0x380000) / 4) (BitVec.ofNat 32 v)
  else h

/-- A write of 4 or 8 bytes: an 8-byte one writes its low word and then its high word. -/
def Hw.regWrite (h : Hw) (port o width v : Nat) : Hw :=
  let h := h.wordWrite port o (v % 2 ^ 32)
  if width = 8 then h.wordWrite port (o + 4) (v / 2 ^ 32 % 2 ^ 32) else h

/-! ## Alias windows (R437-R439, R464, R471) -/

/-- The window an offset lies in: its class (0 DIE, 1 TILE, 2 PORT), its number (0 ALL, g + 1 GROUPg) and the offset in it. -/
def aliasAt (o : Nat) : Option (Nat × Nat × Nat) :=
  if 0x200000 ≤ o ∧ o < 0x290000 then some (0, (o - 0x200000) / 0x10000, o % 0x10000)
  else if 0x290000 ≤ o ∧ o < 0x290900 then some (1, (o - 0x290000) / 0x100, o % 0x100)
  else if 0x291000 ≤ o ∧ o < 0x292200 then some (2, (o - 0x291000) / 0x200, o % 0x200)
  else none

/-- The offset of member m's block. -/
def memberOff (cls m : Nat) : Nat :=
  if cls = 0 then dieOff m else if cls = 1 then tileOff (m / 16) (m % 16) else portOff m

/-- The members a window names, ascending. -/
def Hw.membersOf (h : Hw) (cls w : Nat) : List Nat :=
  let n := if cls = 0 then 16 else if cls = 1 then 256 else 48
  let g := w - 1
  (List.range n).filter fun m =>
    w == 0 ||
    (if cls = 0 then (h.bcast.die.getD g 0).testBit m
     else if cls = 1 then ((h.bcast.tile.getD g []).getD (m / 32) 0).testBit (m % 32)
     else (h.bcast.port.getD g 0).testBit m)

/-- Whether an offset of a window names a register of its members' blocks (R32, R148, R203, R230, R259, R299, R354, R386, R422). -/
def assigned (cls o : Nat) : Bool :=
  if cls = 0 then
    (decide (o < 0x200) && decide (o % 0x40 < 0x18)) || (decide (0x400 ≤ o) && decide (o < 0x414)) || o == 0x420 || o == 0x424 ||
    (decide (0x430 ≤ o) && decide (o < 0x448)) || (decide (0x500 ≤ o) && decide (o < 0x514)) || o == 0x600 || o == 0x604 ||
    (decide (0x608 ≤ o) && decide (o < 0x618)) || o == 0x700 || o == 0x704 || (decide (0x800 ≤ o) && decide (o < 0x810)) ||
    (decide (0x1000 ≤ o) && decide (o < 0x2000))
  else if cls = 1 then
    o == 0 || (decide (8 ≤ o) && decide (o < 0x18)) || o == 0x40 || o == 0x44 || (decide (0x48 ≤ o) && decide (o < 0x60)) || o == 0x80
  else
    o == 0 || (decide (8 ≤ o) && decide (o < 0x18)) || (decide (0x40 ≤ o) && decide (o < 0x140) && decide (o % 0x40 < 0x38))

/-- An alias write: each named member as a separate write, ascending. -/
def Hw.aliasWrite (h : Hw) (port o width v : Nat) : Hw :=
  match aliasAt o with
  | none => h
  | some (cls, w, k) =>
    if !assigned cls k then h
    else (h.membersOf cls w).foldl (fun h m => h.regWrite port (memberOff cls m + k) width v) h

/-- Record the result of an alias read. -/
def Hw.setAgree (h : Hw) (port : Nat) (valid agree : Bool) (members first : Nat) : Hw :=
  h.setHost port fun q => { q with agreeValid := valid, agree := agree, members := members, firstDiff := first }

/-- Whether an offset of a window lies in a 64-bit register (R148, R203, R230, R259). -/
def wide (cls o : Nat) : Bool :=
  if cls = 0 then (decide (0x430 ≤ o) && decide (o < 0x448)) || (decide (0x1000 ≤ o) && decide (o < 0x2000))
  else if cls = 1 then (decide (8 ≤ o) && decide (o < 0x18)) || (decide (0x48 ≤ o) && decide (o < 0x60))
  else (decide (8 ≤ o) && decide (o < 0x18)) || (decide (0x40 ≤ o) && decide (8 ≤ o % 0x40) && decide (o % 0x40 < 0x20))

/-- An alias read: the lowest member's value, and whether the others' whole registers agree with it (R439). -/
def Hw.aliasRead (h : Hw) (port o width : Nat) : Hw :=
  match aliasAt o with
  | none => h
  | some (cls, w, k) =>
    let ms := if assigned cls k then h.membersOf cls w else []
    let value (m : Nat) : Nat := h.regRead port (memberOff cls m + k) width
    let whole (m : Nat) : Nat := if wide cls k then h.regRead port (memberOff cls m + k / 8 * 8) 8 else value m
    match ms with
    | [] => (h.setAgree port false false 0 0).emit (.aliasData port 0)
    | m :: _ =>
      let diff := ms.find? fun x => whole x != whole m
      (h.setAgree port true diff.isNone ms.length (diff.getD 0)).emit (.aliasData port (BitVec.ofNat 64 (value m)))

/-! ## Requests to BAR0 (R425) -/

/-- Whether an access is one that BAR0 accepts. -/
def accessOk (o width : Nat) : Bool := (width == 4 || width == 8) && o % width == 0 && decide (o + width ≤ 0x400000)

/-- A request completes with Unsupported Request, which is reported through AER (R425). -/
def Hw.unsupported (h : Hw) (p : Nat) : Hw := (h.emit (.unsupported p)).reportAer p aerUnsupported

/-- REGISTER_WRITE: at a register that a row of its own names, it does what that row does with nothing new in host memory. -/
def execRegisterWrite (port offset width : Nat) (value : W64) (s : State) : Host.Outcome State Fault Refusal :=
  act (fun h =>
    if !h.reaches port then h
    else if !accessOk offset width then h.unsupported port
    else if (aliasAt offset).isSome then h.aliasWrite port offset width value.toNat
    else h.regWrite port offset width value.toNat) s

/-- ALIAS_WRITE. -/
def execAliasWrite (port offset width : Nat) (value : W64) (s : State) : Host.Outcome State Fault Refusal :=
  act (fun h => if h.reaches port && accessOk offset width then h.aliasWrite port offset width value.toNat else h) s

/-- ALIAS_READ. -/
def execAliasRead (port offset width : Nat) (s : State) : Host.Outcome State Fault Refusal :=
  act (fun h => if h.reaches port && accessOk offset width then h.aliasRead port offset width else h) s

/-- BAR0_INVALID_ACCESS. -/
def execBar0InvalidAccess (port offset length : Nat) (s : State) : Host.Outcome State Fault Refusal :=
  act (fun h => if h.reaches port && !accessOk offset length then h.unsupported port else h) s

end Sys2Proof.Machine
end

