-- ==== Sys2Proof/Machine/Smbus.lean ====
section
/-! DEFINITION. The SMBus targets and the FRU record (19 R444, R450-R452). -/

namespace Sys2Proof.Machine

/-- The leading keystone answers from 100 ms after 50 V good, and no address is acknowledged before that or without 50 V. -/
def Hw.smbus (h : Hw) (o : Out) : Hw := h.emit (if h.ks2.powered && decide (h.ks2.smbusAt ≤ h.now) then o else .smbusNak)

/-! ## Addresses and packet error codes (R450) -/

/-- The addresses of the two targets at a slot. -/
def fruTarget : Nat := 0x50 + Config.slotId.toNat
def telemetryTarget : Nat := 0x58 + Config.slotId.toNat

/-- One byte more of SMBus's CRC-8, x^8 + x^2 + x + 1, most significant bit first. -/
def crc8Byte (c b : Nat) : Nat :=
  (List.range 8).foldl (fun c _ => if c.testBit 7 then (2 * c ^^^ 0x07) % 256 else 2 * c % 256) (c ^^^ b)

/-- The PEC of a read: of the target's address, what was written to it, its address again for reading, and the bytes read. -/
def pecOf (target : Nat) (written read : List Byte) : Byte :=
  BitVec.ofNat 8 (([BitVec.ofNat 8 (2 * target)] ++ written ++ [BitVec.ofNat 8 (2 * target + 1)] ++ read).foldl (fun c b => crc8Byte c (b : Byte).toNat) 0)

/-- A Read Word of a telemetry command. -/
def Hw.smbusWord (h : Hw) (cmd n : Nat) : Hw :=
  h.smbus (.smbusWord telemetryTarget (BitVec.ofNat 16 n) (pecOf telemetryTarget (toLe 1 cmd) (toLe 2 n)))

/-! ## The FRU record (R451: IPMI Platform Management FRU Information Storage Definition v1.0; log 56) -/

/-- The byte that makes a sum of bytes 0. -/
def zeroSum (b : List Byte) : Byte := 0 - b.foldl (· + ·) 0

/-- A field of 8-bit text: its type and length, then the text. -/
def fruText (t : List Byte) : List Byte := BitVec.ofNat 8 (0xC0 + t.length) :: t

/-- The Board Info area: a multiple of 8 bytes, with its checksum last. -/
def fruBoard : List Byte :=
  let f := (Config.fruDate ++ zeros 3).take 3 ++ fruText (ascii "Milip") ++ fruText (ascii "Ramain T64") ++ fruText (Config.fruSerial.take 63) ++
    fruText partNumber ++ [0xC0, 0xC1]
  let n := (f.length + 4 + 7) / 8
  let a := [1, BitVec.ofNat 8 n, 0] ++ f ++ zeros (8 * n - 4 - f.length)
  a ++ [zeroSum a]

/-- The OEM record: Milip's number and MODULE_UID. -/
def fruOem : List Byte :=
  let d := (Config.fruMaker ++ zeros 3).take 3 ++ toLe 8 Config.moduleUid.toNat
  let x := [0xC0, 0x82, BitVec.ofNat 8 d.length, zeroSum d]
  x ++ [zeroSum x] ++ d

/-- The 512 bytes of the FRU target. -/
def fruRecord : List Byte :=
  let x := [1, 0, 0, 1, 0, BitVec.ofNat 8 (1 + fruBoard.length / 8), 0]
  let b := x ++ [zeroSum x] ++ fruBoard ++ fruOem
  b ++ (List.range (512 - b.length)).map fun i => Config.fruRest (b.length + i)

/-! ## Transactions -/

/-- FRU_READ: a 2-byte offset, as a serial EEPROM takes it, and the bytes from there. -/
def execFruRead (offset count : Nat) (s : State) : Host.Outcome State Fault Refusal :=
  actPin (fun h =>
    let b := (fruRecord.drop offset).take count
    h.smbus (.smbusBytes fruTarget b (pecOf fruTarget (toBe 2 offset) b))) s

/-- INPUT_V. -/
def execInputV (s : State) : Host.Outcome State Fault Refusal := actPin (fun h => h.smbusWord 0x01 h.ks2.volt) s

/-- INPUT_I. -/
def execInputI (s : State) : Host.Outcome State Fault Refusal := actPin (fun h => h.smbusWord 0x02 h.ks2.current) s

/-- INLET. -/
def execInlet (s : State) : Host.Outcome State Fault Refusal := actPin (fun h => h.smbusWord 0x03 h.ks2.inletT) s

/-- OUTLET. -/
def execOutlet (s : State) : Host.Outcome State Fault Refusal := actPin (fun h => h.smbusWord 0x04 h.ks2.outletT) s

/-- HOT: 0 until step 9 of start-up is complete. -/
def execHot (s : State) : Host.Outcome State Fault Refusal :=
  actPin (fun h => h.smbusWord 0x05 (if h.ks.step < 9 then 0 else (h.aux.map fun (a : DieAux) => a.hottest.1).foldl max 0)) s

/-- STATE: 0 until step 9 of start-up is complete. -/
def execState (s : State) : Host.Outcome State Fault Refusal :=
  actPin (fun h => h.smbusWord 0x06 (if h.ks.step < 9 then 0 else h.ks.boot.code + 4 * h.ks.leader + 8 * b2n h.flash.oos)) s

end Sys2Proof.Machine
end

