-- ==== Sys2Proof/Machine/Dispatch.lean ====
section
/-! DEFINITION. One arm per command: the direct call of its meaning. -/

namespace Sys2Proof.Machine

/-- The effect of a command on everything but the queue. -/
def exec (i : Instr) (s : State) : Host.Outcome State Fault Refusal :=
  match i with
  | .workDoorbellPoll ring env => Sys2Proof.Machine.execWorkDoorbellPoll ring env s
  | .cplDoorbellPoll evt ring env => Sys2Proof.Machine.execCplDoorbellPoll evt ring env s
  | .descriptorFetch ring env => Sys2Proof.Machine.execDescriptorFetch ring env s
  | .commandStart ring env => Sys2Proof.Machine.execCommandStart ring env s
  | .headerWaitTimeout ring => Sys2Proof.Machine.execHeaderWaitTimeout ring s
  | .commandComplete ring index => Sys2Proof.Machine.execCommandComplete ring index s
  | .cplRecordWrite ring => Sys2Proof.Machine.execCplRecordWrite ring s
  | .irqDelayExpiry evt ring => Sys2Proof.Machine.execIrqDelayExpiry evt ring s
  | .ringStart port ring env => Sys2Proof.Machine.execRingStart port ring env s
  | .ringStop port ring => Sys2Proof.Machine.execRingStop port ring s
  | .ringDrain port ring env => Sys2Proof.Machine.execRingDrain port ring env s
  | .drainPoll ring env => Sys2Proof.Machine.execDrainPoll ring env s
  | .ringResume port ring => Sys2Proof.Machine.execRingResume port ring s
  | .ringEnSet evt ring value => Sys2Proof.Machine.execRingEnSet evt ring value s
  | .ringEnClear evt ring value => Sys2Proof.Machine.execRingEnClear evt ring value s
  | .registerWrite port offset width value => Sys2Proof.Machine.execRegisterWrite port offset width value s
  | .nop ring index => Sys2Proof.Machine.execNop ring index s
  | .fence ring index => Sys2Proof.Machine.execFence ring index s
  | .signal ring index => Sys2Proof.Machine.execSignal ring index s
  | .wait ring index => Sys2Proof.Machine.execWait ring index s
  | .syncOperation n ue => Sys2Proof.Machine.execSyncOperation n ue s
  | .commandTimeout ring index => Sys2Proof.Machine.execCommandTimeout ring index s
  | .waitPrefetch ring index entry groups env => Sys2Proof.Machine.execWaitPrefetch ring index entry groups env s
  | .copy ring index env => Sys2Proof.Machine.execCopy ring index env s
  | .gather ring index env => Sys2Proof.Machine.execGather ring index env s
  | .scatter ring index env => Sys2Proof.Machine.execScatter ring index env s
  | .fill ring index env => Sys2Proof.Machine.execFill ring index env s
  | .engineAcquire ring index => Sys2Proof.Machine.execEngineAcquire ring index s
  | .ownerBlockTransfer req => Sys2Proof.Machine.execOwnerBlockTransfer req s
  | .matmul ring index env => Sys2Proof.Machine.execMatmul ring index env s
  | .stripTake die tile => Sys2Proof.Machine.execStripTake die tile s
  | .outputTileDrain die tile env => Sys2Proof.Machine.execOutputTileDrain die tile env s
  | .elementProgram ring index env => Sys2Proof.Machine.execElementProgram ring index env s
  | .elementReduceRow ring index env => Sys2Proof.Machine.execElementReduceRow ring index env s
  | .elementReduceCol ring index env => Sys2Proof.Machine.execElementReduceCol ring index env s
  | .elementTopk ring index env => Sys2Proof.Machine.execElementTopk ring index env s
  | .unitTake die tile env => Sys2Proof.Machine.execUnitTake die tile env s
  | .loadProgram ring index => Sys2Proof.Machine.execLoadProgram ring index s
  | .programLoadTile die tile => Sys2Proof.Machine.execProgramLoadTile die tile s
  | .trgScrub die tile => Sys2Proof.Machine.execTrgScrub die tile s
  | .slotScrub die tile => Sys2Proof.Machine.execSlotScrub die tile s
  | .scrubPerform die tile => Sys2Proof.Machine.execScrubPerform die tile s
  | .reduce ring index env => Sys2Proof.Machine.execReduce ring index env s
  | .allgather ring index env => Sys2Proof.Machine.execAllgather ring index env s
  | .reduceScatter ring index env => Sys2Proof.Machine.execReduceScatter ring index env s
  | .collSliceStart ring index die env => Sys2Proof.Machine.execCollSliceStart ring index die env s
  | .collPartialReceive ctx m src msgId => Sys2Proof.Machine.execCollPartialReceive ctx m src msgId s
  | .collResultReceive ctx m src env => Sys2Proof.Machine.execCollResultReceive ctx m src env s
  | .treeDeadlineExpiry ring index die => Sys2Proof.Machine.execTreeDeadlineExpiry ring index die s
  | .collectiveTimeout ring index => Sys2Proof.Machine.execCollectiveTimeout ring index s
  | .send ring index env => Sys2Proof.Machine.execSend ring index env s
  | .recv ring index env => Sys2Proof.Machine.execRecv ring index env s
  | .channelGrant ctx peer chan peerChan slots slotBytes => Sys2Proof.Machine.execChannelGrant ctx peer chan peerChan slots slotBytes s
  | .grantResend ctx chan => Sys2Proof.Machine.execGrantResend ctx chan s
  | .channelMessageArrive ctx chan seq shape bytes poisoned env => Sys2Proof.Machine.execChannelMessageArrive ctx chan seq shape bytes poisoned env s
  | .channelCreditReturn ctx chan count => Sys2Proof.Machine.execChannelCreditReturn ctx chan count s
  | .update ring index env => Sys2Proof.Machine.execUpdate ring index env s
  | .lossScaleWrite ring index => Sys2Proof.Machine.execLossScaleWrite ring index s
  | .lossScaleAgree ring index => Sys2Proof.Machine.execLossScaleAgree ring index s
  | .lossScaleSet ring index => Sys2Proof.Machine.execLossScaleSet ring index s
  | .statsRead ring index => Sys2Proof.Machine.execStatsRead ring index s
  | .seqSetStart ring index => Sys2Proof.Machine.execSeqSetStart ring index s
  | .seqSetParams ring index => Sys2Proof.Machine.execSeqSetParams ring index s
  | .seqSetAdvance ring index => Sys2Proof.Machine.execSeqSetAdvance ring index s
  | .seqSetFinish ring index => Sys2Proof.Machine.execSeqSetFinish ring index s
  | .seqRetire ring index => Sys2Proof.Machine.execSeqRetire ring index s
  | .capture ring index => Sys2Proof.Machine.execCapture ring index s
  | .peerFenceFence ring index env => Sys2Proof.Machine.execPeerFenceFence ring index env s
  | .peerFenceUnfence ring index env => Sys2Proof.Machine.execPeerFenceUnfence ring index env s
  | .lambdaSet ring index => Sys2Proof.Machine.execLambdaSet ring index s
  | .twinSyncMirror ring index env => Sys2Proof.Machine.execTwinSyncMirror ring index env s
  | .twinSyncPull ring index env => Sys2Proof.Machine.execTwinSyncPull ring index env s
  | .twinSyncTakeover ring index => Sys2Proof.Machine.execTwinSyncTakeover ring index s
  | .twinSyncAsTwin ring index env => Sys2Proof.Machine.execTwinSyncAsTwin ring index env s
  | .twinSyncHandback ring index => Sys2Proof.Machine.execTwinSyncHandback ring index s
  | .reinstate ring index env => Sys2Proof.Machine.execReinstate ring index env s
  | .contextClose ring index => Sys2Proof.Machine.execContextClose ring index s
  | .contextOpen port ctx => Sys2Proof.Machine.execContextOpen port ctx s
  | .planReadDone ctx env => Sys2Proof.Machine.execPlanReadDone ctx env s
  | .contextCloseDrain port ctx => Sys2Proof.Machine.execContextCloseDrain port ctx s
  | .contextCloseFlush port ctx => Sys2Proof.Machine.execContextCloseFlush port ctx s
  | .quiesceExpiry ctx => Sys2Proof.Machine.execQuiesceExpiry ctx s
  | .teardownComplete ctx => Sys2Proof.Machine.execTeardownComplete ctx s
  | .numberHoldExpiry ctx => Sys2Proof.Machine.execNumberHoldExpiry ctx s
  | .bindRequestReceive fport link src job msgId => Sys2Proof.Machine.execBindRequestReceive fport link src job msgId s
  | .bindRetry n => Sys2Proof.Machine.execBindRetry n s
  | .contextMessageReceive fport link src msgId ctx epoch step m => Sys2Proof.Machine.execContextMessageReceive fport link src msgId ctx epoch step m s
  | .memoryAccessReceive src a env => Sys2Proof.Machine.execMemoryAccessReceive src a env s
  | .xlatInv port ctx => Sys2Proof.Machine.execXlatInv port ctx s
  | .xlatInvDone ctx => Sys2Proof.Machine.execXlatInvDone ctx s
  | .hbmRateSet rate => Sys2Proof.Machine.execHbmRateSet rate s
  | .hbmRetrainDone micros failed => Sys2Proof.Machine.execHbmRetrainDone micros failed s
  | .hbmLocalSet gib => Sys2Proof.Machine.execHbmLocalSet gib s
  | .hbmRequest stack requester bank ahead group data => Sys2Proof.Machine.execHbmRequest stack requester bank ahead group data s
  | .hbmRequestComplete stack n ue corrected => Sys2Proof.Machine.execHbmRequestComplete stack n ue corrected s
  | .hbmRequestAgeing stack n => Sys2Proof.Machine.execHbmRequestAgeing stack n s
  | .hbmBankSlow stack bank => Sys2Proof.Machine.execHbmBankSlow stack bank s
  | .memorySideAdd die da op elem grad bytes poisoned cmd => Sys2Proof.Machine.execMemorySideAdd die da op elem grad bytes poisoned cmd s
  | .sramScrub die place tile row corrected uncorrectable => Sys2Proof.Machine.execSramScrub die place tile row corrected uncorrectable s
  | .stackLoss stack cause => Sys2Proof.Machine.execStackLoss stack cause s
  | .flitReceive die port lg f => Sys2Proof.Machine.execFlitReceive die port lg f s
  | .mortarNack die port lg seq => Sys2Proof.Machine.execMortarNack die port lg seq s
  | .laneRetrain die port lg => Sys2Proof.Machine.execLaneRetrain die port lg s
  | .lgRetrain die port => Sys2Proof.Machine.execLgRetrain die port s
  | .laneRetrainDone die port lg failedWire => Sys2Proof.Machine.execLaneRetrainDone die port lg failedWire s
  | .portEnable fport => Sys2Proof.Machine.execPortEnable fport s
  | .portDisable fport => Sys2Proof.Machine.execPortDisable fport s
  | .portRetrain fport => Sys2Proof.Machine.execPortRetrain fport s
  | .carrierDetect fport link present => Sys2Proof.Machine.execCarrierDetect fport link present s
  | .trainingComplete fport link present ids => Sys2Proof.Machine.execTrainingComplete fport link present ids s
  | .carrierLoss fport link lambda => Sys2Proof.Machine.execCarrierLoss fport link lambda s
  | .linkDeadExpiry fport link => Sys2Proof.Machine.execLinkDeadExpiry fport link s
  | .pauseExpiry fport link => Sys2Proof.Machine.execPauseExpiry fport link s
  | .hello fport link c => Sys2Proof.Machine.execHello fport link c s
  | .helloResend fport link => Sys2Proof.Machine.execHelloResend fport link s
  | .helloAck fport link c => Sys2Proof.Machine.execHelloAck fport link c s
  | .resync fport link c => Sys2Proof.Machine.execResync fport link c s
  | .dataFrameReceive fport link f blocks wrong => Sys2Proof.Machine.execDataFrameReceive fport link f blocks wrong s
  | .frameTransmit fport link => Sys2Proof.Machine.execFrameTransmit fport link s
  | .ack fport link c => Sys2Proof.Machine.execAck fport link c s
  | .nackCrc fport link c => Sys2Proof.Machine.execNackCrc fport link c s
  | .controlResend fport link n => Sys2Proof.Machine.execControlResend fport link n s
  | .pause fport link c => Sys2Proof.Machine.execPause fport link c s
  | .pauseAck fport link c => Sys2Proof.Machine.execPauseAck fport link c s
  | .pauseAckTimeout fport link => Sys2Proof.Machine.execPauseAckTimeout fport link s
  | .resume fport link c => Sys2Proof.Machine.execResume fport link c s
  | .lambdaAdd fport link c acquired => Sys2Proof.Machine.execLambdaAdd fport link c acquired s
  | .lambdaAddAck fport link c => Sys2Proof.Machine.execLambdaAddAck fport link c s
  | .lambdaDrop fport link c => Sys2Proof.Machine.execLambdaDrop fport link c s
  | .lambdaDropAck fport link c => Sys2Proof.Machine.execLambdaDropAck fport link c s
  | .lambdaRefuse fport link c => Sys2Proof.Machine.execLambdaRefuse fport link c s
  | .lambdaChangeTimeout fport link => Sys2Proof.Machine.execLambdaChangeTimeout fport link s
  | .lambdaBorrow fport link => Sys2Proof.Machine.execLambdaBorrow fport link s
  | .lambdaWithdraw fport link => Sys2Proof.Machine.execLambdaWithdraw fport link s
  | .msgNack fport link c => Sys2Proof.Machine.execMsgNack fport link c s
  | .bindAnswer fport link c => Sys2Proof.Machine.execBindAnswer fport link c s
  | .credit fport link c => Sys2Proof.Machine.execCredit fport link c s
  | .reassemblyExpiry fport link n => Sys2Proof.Machine.execReassemblyExpiry fport link n s
  | .transitForward n => Sys2Proof.Machine.execTransitForward n s
  | .combEvaluation power => Sys2Proof.Machine.execCombEvaluation power s
  | .spareReady => Sys2Proof.Machine.execSpareReady s
  | .combForce group => Sys2Proof.Machine.execCombForce group s
  | .switchoverSwitch => Sys2Proof.Machine.execSwitchoverSwitch s
  | .combSwitchDone micros power => Sys2Proof.Machine.execCombSwitchDone micros power s
  | .sourceRetest dev => Sys2Proof.Machine.execSourceRetest dev s
  | .watchdogTest e ms => Sys2Proof.Machine.execWatchdogTest e ms s
  | .engineReset port index => Sys2Proof.Machine.execEngineReset port index s
  | .tileReset port index => Sys2Proof.Machine.execTileReset port index s
  | .portReset port index => Sys2Proof.Machine.execPortReset port index s
  | .opticalEngineReset port index => Sys2Proof.Machine.execOpticalEngineReset port index s
  | .dieReset port index => Sys2Proof.Machine.execDieReset port index s
  | .contextReset port index => Sys2Proof.Machine.execContextReset port index s
  | .moduleRingReset port index => Sys2Proof.Machine.execModuleRingReset port index s
  | .moduleReset port index => Sys2Proof.Machine.execModuleReset port index s
  | .resetDone micros found => Sys2Proof.Machine.execResetDone micros found s
  | .tileRetire die tile => Sys2Proof.Machine.execTileRetire die tile s
  | .keystoneHeartbeatCheck seen => Sys2Proof.Machine.execKeystoneHeartbeatCheck seen s
  | .powerGood => Sys2Proof.Machine.execPowerGood s
  | .startupStepComplete found ms => Sys2Proof.Machine.execStartupStepComplete found ms s
  | .ks1LeadsStartup => Sys2Proof.Machine.execKs1LeadsStartup s
  | .counterCalibration clock0 clock1 => Sys2Proof.Machine.execCounterCalibration clock0 clock1 s
  | .configRequest port reg write => Sys2Proof.Machine.execConfigRequest port reg write s
  | .stage port env => Sys2Proof.Machine.execStage port env s
  | .activate port => Sys2Proof.Machine.execActivate port s
  | .confirm port => Sys2Proof.Machine.execConfirm port s
  | .commitSvn port => Sys2Proof.Machine.execCommitSvn port s
  | .firmwareCommandDone => Sys2Proof.Machine.execFirmwareCommandDone s
  | .debugUnlock port env => Sys2Proof.Machine.execDebugUnlock port env s
  | .keyInstall port env => Sys2Proof.Machine.execKeyInstall port env s
  | .keyInstallDone => Sys2Proof.Machine.execKeyInstallDone s
  | .getVersion port => Sys2Proof.Machine.execGetVersion port s
  | .getCapabilities port => Sys2Proof.Machine.execGetCapabilities port s
  | .negotiateAlgorithms port => Sys2Proof.Machine.execNegotiateAlgorithms port s
  | .getDigests port => Sys2Proof.Machine.execGetDigests port s
  | .getCertificate port slot offset length => Sys2Proof.Machine.execGetCertificate port slot offset length s
  | .challenge port slot nonce => Sys2Proof.Machine.execChallenge port slot nonce s
  | .getMeasurements port index signed nonce => Sys2Proof.Machine.execGetMeasurements port index signed nonce s
  | .keyExchange port exchange => Sys2Proof.Machine.execKeyExchange port exchange s
  | .finish port verified => Sys2Proof.Machine.execFinish port verified s
  | .keyUpdate port => Sys2Proof.Machine.execKeyUpdate port s
  | .heartbeat port => Sys2Proof.Machine.execHeartbeat port s
  | .endSession port => Sys2Proof.Machine.execEndSession port s
  | .doeAbort port => Sys2Proof.Machine.execDoeAbort port s
  | .ideFail port stream => Sys2Proof.Machine.execIdeFail port stream s
  | .clockSet die value => Sys2Proof.Machine.execClockSet die value s
  | .highClkSet value => Sys2Proof.Machine.execHighClkSet value s
  | .supplyLow lowest => Sys2Proof.Machine.execSupplyLow lowest s
  | .supplyHigh highest => Sys2Proof.Machine.execSupplyHigh highest s
  | .supplyLost reading => Sys2Proof.Machine.execSupplyLost reading s
  | .droopDetect x_i => Sys2Proof.Machine.execDroopDetect x_i s
  | .droopStep x_i => Sys2Proof.Machine.execDroopStep x_i s
  | .droopStepRaise x_i => Sys2Proof.Machine.execDroopStepRaise x_i s
  | .thermalReading x_i tenths => Sys2Proof.Machine.execThermalReading x_i tenths s
  | .thermalLevelFall x_i => Sys2Proof.Machine.execThermalLevelFall x_i s
  | .thermalRecovery x_i => Sys2Proof.Machine.execThermalRecovery x_i s
  | .coolantHot tenths => Sys2Proof.Machine.execCoolantHot tenths s
  | .perstAssert port => Sys2Proof.Machine.execPerstAssert port s
  | .perstDeassert port => Sys2Proof.Machine.execPerstDeassert port s
  | .dlDown port => Sys2Proof.Machine.execDlDown port s
  | .dlUp port speed width flit busMaster => Sys2Proof.Machine.execDlUp port speed width flit busMaster s
  | .hostLossTest port downMs => Sys2Proof.Machine.execHostLossTest port downMs s
  | .bar2Read port offset count env => Sys2Proof.Machine.execBar2Read port offset count env s
  | .bar2Write port offset bytes poisoned env => Sys2Proof.Machine.execBar2Write port offset bytes poisoned env s
  | .apertureWrite port value => Sys2Proof.Machine.execApertureWrite port value s
  | .aliasWrite port offset width value => Sys2Proof.Machine.execAliasWrite port offset width value s
  | .aliasRead port offset width => Sys2Proof.Machine.execAliasRead port offset width s
  | .bar0InvalidAccess port offset length => Sys2Proof.Machine.execBar0InvalidAccess port offset length s
  | .msixUnmask port entry => Sys2Proof.Machine.execMsixUnmask port entry s
  | .fruRead offset count => Sys2Proof.Machine.execFruRead offset count s
  | .inputV => Sys2Proof.Machine.execInputV s
  | .inputI => Sys2Proof.Machine.execInputI s
  | .inlet => Sys2Proof.Machine.execInlet s
  | .outlet => Sys2Proof.Machine.execOutlet s
  | .hot => Sys2Proof.Machine.execHot s
  | .state => Sys2Proof.Machine.execState s
  | .ideKm port stream keys => Sys2Proof.Machine.execIdeKm port stream keys s
  | .doeDiscovery port index => Sys2Proof.Machine.execDoeDiscovery port index s
  | .ueSuppressed die => Sys2Proof.Machine.execUeSuppressed die s

end Sys2Proof.Machine
end

