-- ==== Sys2Proof/Safety.lean ====
section
/-! DEFINITION. What a legal state is, when a command of a work ring is ready to run, what its end looks like, and the frames that
statements use. -/

namespace Sys2Proof.Machine

/-! ## Legal states -/

/-- The values that the rules let the limited registers hold: board slot and map (R38, R39), HBM rate and local size (R213, R215),
optical limits (R259), hang limit and escalation window (R386). -/
structure Limits.Legal (l : Limits) : Prop where
  slot : l.slot < 8
  present : l.present < 256
  rate : l.rate < 3
  localGib : l.localGib ≤ 32
  linkDead : 1 ≤ l.linkDeadMs ∧ l.linkDeadMs ≤ 10000
  reasm : 2 ≤ l.reasmMs ∧ l.reasmMs ≤ 65535 ∧ l.linkDeadMs < l.reasmMs
  hang : 10 ≤ l.hangMs ∧ l.hangMs ≤ 10000
  window : 60 ≤ l.windowS ∧ l.windowS ≤ 65535

/-- The module has the parts that it has: 128 work rings, 16 completion and 2 event rings, 16 contexts, 256 sequence slots, 16 dies of
16 tiles, 48 fibre ports on 24 engines, and 2 host ports. -/
structure Hw.Parts (h : Hw) : Prop where
  rings : h.rings.length = 128
  cpls : h.cpls.length = 16
  evts : h.evts.length = 2
  ctxs : h.ctxs.length = 16
  seqs : h.seqs.length = 256
  dies : h.dies.length = 16
  aux : h.aux.length = 16
  tiles : h.tiles.length = 256
  ports : h.ports.length = 48
  oes : h.oes.length = 24
  hosts : h.hosts.length = 2

/-- A state in which the registers hold legal values, the parts are all there, and the memories and the poisoned groups are listed in
their canonical forms. -/
structure Hw.Legal (h : Hw) : Prop where
  lim : h.lim.Legal
  parts : h.Parts
  mem : Memory.wf h.mem = true
  hostMem : ∀ q ∈ h.hosts, Memory.wf q.mem = true
  poison : h.poison.Pairwise (· < ·)

/-! ## Commands of work rings -/

/-- A command of a ring has started, with an opcode, and 50 V is present. -/
def Hw.Ready (h : Hw) (r : Nat) (i : W32) (op : Nat) (c : Cmd) : Prop :=
  h.ks2.powered = true ∧ h.cmd r i = some c ∧ c.phase = .started ∧ c.opcode = op

/-- The same for a command that needs an engine and holds it. -/
def Hw.Engaged (h : Hw) (r : Nat) (i : W32) (op : Nat) (c : Cmd) : Prop := h.Ready r i op c ∧ c.wantsEngine = false

/-- A command has ended inside its ring, with a status and a DETAIL. -/
def Hw.Ended (h : Hw) (r : Nat) (i : W32) (st dt : Nat) : Prop :=
  ∃ c, h.cmd r i = some c ∧ c.phase = .done ∧ c.status = st ∧ c.detail = dt

/-- Host memory can be reached through a port at `[a, a + n)`: the port is up, and no Insecure stream of it takes the request (R431, R432). -/
def Hw.HostOpen (h : Hw) (p a n : Nat) : Prop := (h.host p).up = true ∧ (h.host p).barred a n = false

/-- What the T64's half of a doorbell record holds: an accepted SEQ, an index and a state. -/
def devHalf (seq : Option W32) (index : W32) (state : Nat) : List Byte :=
  toLe 4 (seq.getD 0).toNat ++ toLe 4 index.toNat ++ toLe 4 state ++ zeros 16 ++ toLe 4 (seq.getD 0).toNat

/-- A run that nothing holds back: no link it needs is still to come, or it has failed. -/
def Run.Goes (r : Run) : Prop := (r.waits && r.fail.isNone) = false

/-- What a byte of module memory holds after a run: what the run wrote there last, or what it held. -/
def Run.byteAfter (r : Run) (m : List Host.Cell) (k : Nat) : Byte :=
  match (r.w.bytes.filter (·.1 == k)).getLast? with
  | some x => x.2
  | none => cellGet m k

/-! ## Tensors in this module's memory -/

/-- A linear, unscaled tensor lies in this module's memory: `key` gives the first byte of each of its channel groups, by the outer indices of
its row and by its number there, and does so whatever memory holds at the addresses that `open_` names. -/
structure Hw.Lies (h : Hw) (die ctx : Nat) (write : Bool) (t : TD) (open_ : Nat → Prop) (key : List Nat → Nat → Nat) : Prop where
  plain : t.owned = false ∧ t.scaleFmt = 0
  sizes : 1 ≤ t.rank ∧ t.rank ≤ t.sizes.length ∧ ∀ d, d < t.rank → 1 ≤ t.size d
  place : ∀ q k i, q < t.rows → k < t.cg → i < t.b → ∀ m : List Host.Cell, (∀ a, ¬ open_ a → cellGet m a = cellGet h.mem a) →
    ∃ nc x, ({ h with mem := m } : Hw).translate die ctx (t.base.toNat + (t.rowGroup (t.row q) + k) * t.b + i) write =
      .ok (.own (key (t.row q) k + i) nc, x)

/-- An address is one of a tensor's channel groups. -/
def TD.covers (t : TD) (key : List Nat → Nat → Nat) (a : Nat) : Prop :=
  ∃ q k, q < t.rows ∧ k < t.cg ∧ key (t.row q) k ≤ a ∧ a < key (t.row q) k + t.b

/-- The channel groups of a tensor do not overlap. -/
def TD.apart (t : TD) (key : List Nat → Nat → Nat) : Prop :=
  ∀ q k p j, q < t.rows → k < t.cg → p < t.rows → j < t.cg → (q, k) ≠ (p, j) →
    key (t.row q) k + t.b ≤ key (t.row p) j ∨ key (t.row p) j + t.b ≤ key (t.row q) k

/-- The code of a tensor's element, of its row's outer indices and its channel. -/
def Hw.elemAt (h : Hw) (t : TD) (key : List Nat → Nat → Nat) (row : List Nat) (ch : Nat) : Nat :=
  codeAt t.elem (h.memRead (key row (ch / 32)) t.b) (ch % 32)

/-! ## Counters that a write clears -/

/-- The 32-bit RW1C counters of a die's block, by their offsets (R230, R299, R354). -/
def dieCounters : List (Nat × (Die → W32)) :=
  [(0x408, fun d => d.hbm.slow), (0x40C, fun d => d.hbm.ce), (0x410, fun d => d.hbm.ue), (0x420, Die.sramCe), (0x424, Die.sramUe),
   (0x504, Die.lateSent), (0x508, Die.lateRcvd), (0x50C, Die.carryDrop), (0x510, Die.transitDrop), (0x608, Die.poisonRd)] ++
  [(0x60C, Die.poisonWr), (0x610, Die.ctrlCe), (0x614, Die.ueSuppressed)]

/-- The RW1C counters of a link's block, by their offsets (R259). -/
def linkCounters : List (Nat × (LinkCounts → W32)) :=
  [(0x20, LinkCounts.crcErr), (0x24, LinkCounts.replays), (0x28, LinkCounts.carrierLoss), (0x2C, LinkCounts.reasmDiscard),
   (0x30, LinkCounts.lendFail), (0x34, LinkCounts.corrected)]

/-! ## Frames -/

/-- The set-up of the module is the same: time, limits, keystone registers, completion rings, sequence slots, objects, combs, optical
engines, fences, topology and group masks. -/
structure Hw.SameSetup (a b : Hw) : Prop where
  now : b.now = a.now
  lim : b.lim = a.lim
  ks : b.ks = a.ks
  ks2 : b.ks2 = a.ks2
  cpls : b.cpls = a.cpls
  seqs : b.seqs = a.seqs
  objs : b.objs = a.objs
  comb : b.comb = a.comb
  oes : b.oes = a.oes
  fences : b.fences = a.fences
  topo : b.topo = a.topo
  bcast : b.bcast = a.bcast

/-- Only context `n` differs. -/
def Hw.OnlyCtx (a b : Hw) (n : Nat) : Prop := b = { a with ctxs := b.ctxs } ∧ ∀ k, k ≠ n → b.ctx k = a.ctx k

/-- Only link `l` of fibre port `p`, and what leaves on the ports, differ. -/
def Hw.OnlyLink (a b : Hw) (p l : Nat) : Prop :=
  b = { a with ports := b.ports, out := b.out } ∧ (∀ q, (b.port q).en = (a.port q).en) ∧ ∀ q m, (q ≠ p ∨ m ≠ l) → b.link q m = a.link q m

/-- Nothing differs but that `n` events were reported: to event rings, in host memory, by interrupts, and in the dies' event logs. -/
def Hw.Tells (a b : Hw) (n : Nat) : Prop :=
  b = { a with evts := b.evts, hosts := b.hosts, out := b.out, logSeq := a.logSeq + BitVec.ofNat 32 n, aux := b.aux } ∧
  ∀ d, b.dieAux d = { a.dieAux d with evLog := (b.dieAux d).evLog }

/-- Of the work rings, only one command of ring `r` differs. -/
def Hw.OnlyCmd (a b : Hw) (r : Nat) (i : W32) : Prop :=
  (∀ k, k ≠ r → b.ring k = a.ring k) ∧ b.ring r = { a.ring r with running := (b.ring r).running } ∧
  ∀ j, j ≠ i → b.cmd r j = a.cmd r j

/-- Module memory holds what a run wrote and nothing else, from a memory in its canonical form. -/
def Hw.WroteOnly (a b : Hw) (x : Run) : Prop := Memory.wf a.mem = true → ∀ k, cellGet b.mem k = x.byteAfter a.mem k

/-- A command ends with a run: its status, its DETAIL and its counts are the run's, module memory holds what the run wrote and nothing
else, and of the work rings only the command differs. -/
def Hw.EndsCmd (a b : Hw) (r : Nat) (i : W32) (x : Run) (e : Nat × Nat) : Prop :=
  (∃ c, b.cmd r i = some c ∧ c.phase = .done ∧ c.status = e.1 ∧ c.detail = e.2 ∧ c.sat = x.sat ∧ c.range = x.range ∧ c.nan = x.nan) ∧
  a.WroteOnly b x ∧ a.OnlyCmd b r i

/-- The same, with the set-up unchanged. -/
def Hw.EndsWith (a b : Hw) (r : Nat) (i : W32) (x : Run) (e : Nat × Nat) : Prop := a.EndsCmd b r i x e ∧ a.SameSetup b

/-- One message more goes out toward another module, the last in the queue. -/
def Hw.Posts (a b : Hw) (dst : Coord) (m : Msg) : Prop := ∃ o, b.outMsgs = a.outMsgs ++ [o] ∧ o.dst = dst ∧ o.msg = m

/-- A control frame goes toward another module on the link that leads there, behind those that wait; with no link it is dropped. -/
def Hw.Answers (a b : Hw) (dst : Coord) (op a0 a1 a2 : Nat) : Prop :=
  match a.chooseLink 0 4 dst 0 with
  | none => b = a
  | some x =>
    a.OnlyLink b x.1 x.2 ∧ ∃ c : Ctrl, (b.link x.1 x.2).ctrlOut = (a.link x.1 x.2).ctrlOut ++ [c] ∧ c.op = op ∧ c.dst = dst.setWidth 32 ∧
      c.arg0 = BitVec.ofNat 32 a0 ∧ c.arg1 = BitVec.ofNat 64 a1 ∧ c.arg2 = BitVec.ofNat 64 a2

/-- A message whose loss to a closed context ends no command but the one that sent it: it belongs to no channel, and grants no credit
to a collective. -/
def msgLone : Msg → Bool
  | .channel _ _ _ _ _ | .grant _ _ _ _ | .credit _ _ | .delivered _ _ | .accepted _ | .collCredit _ _ _ _ _ => false
  | _ => true

/-! ## What acts without 50 V -/

/-- The commands that act while the 50 V input is lost: its return, the reset pins of the host ports, and the standby registers that SMBus
reads (R387, R390, R450-R452). -/
def unpowered : Instr → Bool
  | .powerGood | .perstAssert _ | .perstDeassert _ | .fruRead _ _ | .inputV | .inputI | .inlet | .outlet | .hot | .state => true
  | _ => false

/-- The commands of the compute dies alone: their HBM, SRAM, mortar and droop (R388, R392). -/
def ofDies : Instr → Bool
  | .hbmRequest .. | .hbmRequestComplete .. | .hbmRequestAgeing .. | .hbmBankSlow .. | .stackLoss .. | .memorySideAdd .. | .sramScrub .. => true
  | .mortarNack .. | .laneRetrain .. | .flitReceive .. | .laneRetrainDone .. | .droopDetect .. | .droopStep .. => true
  | _ => false

end Sys2Proof.Machine
end

