-- ==== Sys2Proof/Certificates/Slice0/Obligations.lean ====
section
/-! DEFINITION. The statements about the T64: the machine as a whole, then each family of commands in the order of the table. -/

open Sys2Proof Sys2Proof.Machine

/-! ## The machine -/

/-- A step with a command at the front of the queue runs exactly that command, on the state with the rest of the queue. -/
def Obligations.StepRunsFrontCommand : Prop :=
  ∀ (s : State) (c : Instr) (rest : List Instr), s.pending = c :: rest → step s = exec c { s with pending := rest }

/-- Every command takes itself off the queue and nothing else: the queue after a step is the queue's rest, first in, first out. The
model's choice (log 2): with nothing waiting a nominal nanosecond passes. Nothing but the time and the telemetry registers changes, and the
links whose discards of a second are told at its end; without 50 V only the time does. -/
def Obligations.StepTakesOneCommand : Prop :=
  (∀ s t : State, step s = .next t → t.pending = s.pending.tail) ∧
  ∀ s : State, s.pending = [] →
    ∃ t, step s = .next t ∧ t.hw.now = s.hw.now + 1 ∧
      t.hw = { s.hw with now := t.hw.now, ks2 := t.hw.ks2, ports := t.hw.ports, evts := t.hw.evts, hosts := t.hw.hosts, out := t.hw.out
                         logSeq := t.hw.logSeq } ∧
      ((∀ p l, (s.hw.link p l).reasmHeld = 0) → t.hw = { s.hw with now := t.hw.now, ks2 := t.hw.ks2 }) ∧
      t.hw.ks2 = { s.hw.ks2 with volt := t.hw.ks2.volt, current := t.hw.ks2.current, energy := t.hw.ks2.energy
                                 inletT := t.hw.ks2.inletT, outletT := t.hw.ks2.outletT } ∧
      (s.hw.ks2.powered = false → t.hw = { s.hw with now := t.hw.now })

/-- R404 where it states values, with nothing of the model's choice: every subsystem at READY. -/
def Obligations.ResetIsReady : Prop :=
  let h := State.reset.hw
  State.reset.pending = [] ∧ h.ks.boot = .ready ∧ h.mem = [] ∧ h.poison = [] ∧
  (∀ n, n < 16 → (h.ctx n).state = .free ∧ (h.ctx n).busy = none ∧ (h.ctx n).hold = false) ∧
  (∀ r, r < 128 → h.ring r = {}) ∧ (∀ n, n < 16 → h.outRing false n = {}) ∧ (∀ n, n < 2 → h.outRing true n = {}) ∧
  h.lim = { slot := 0, slotValid := false, present := 0, rate := 0, localGib := 0, linkDeadMs := 50, reasmMs := 100
            hangMs := 100, windowS := 1800 } ∧
  h.topo = none ∧ h.fences = [] ∧ h.ks.history = [] ∧ h.ks2.capValid = false ∧ h.ks.dbgLevel = 0 ∧
  (∀ o, o < 8192 → h.obj o = 0) ∧ (∀ n, n < 256 → (h.seq n).state = .free) ∧
  (∀ d, d < 16 → (h.die d).rcLines = [] ∧ (h.die d).xlat = []) ∧
  (∀ k, k < 256 → (h.tile (k / 16) (k % 16)).slots = [] ∧ (h.tile (k / 16) (k % 16)).trgs = List.replicate 8 {}) ∧
  (∀ p, p < 48 → (h.port p).en = true ∧ (h.link p 0).state = .dark) ∧
  h.comb.groupSrc = [0, 1, 2] ∧ h.comb.spare = some 3 ∧ h.comb.spareLit = false

/-- Reset is a legal state. -/
def Obligations.ResetIsLegal : Prop := State.reset.hw.Legal

/-- From every legal state, every command and the passing of time lead to a legal state: no command writes a limited register outside
its range, loses a part, or leaves module memory out of its canonical form. -/
def Obligations.StepKeepsLegal : Prop := ∀ s t : State, s.hw.Legal → step s = .next t → t.hw.Legal

/-! ## Rings (02) -/

/-- WORK_DOORBELL_POLL (R44): a consistent record with a new SEQ and a TAIL at most SIZE beyond FETCH_HEAD is accepted; with a TAIL
beyond it the ring is HALTED, and what it had accepted stands. No other work ring changes. -/
def Sys2Proof.Claims.WorkDoorbellPollTakesTail : Prop :=
  ∀ (ring : Nat) (env : Env) (s : State),
    let w := s.hw.ring ring
    let p := s.hw.ringPort w
    let rec32 := (s.hw.applyEnv env).hostRead p w.dbAddr.toNat 32
    let tail : W32 := BitVec.ofNat 32 (fld rec32 4 4)
    s.hw.ks2.powered = true → w.state = .running → w.drainWait = false → s.hw.HostOpen p w.dbAddr.toNat 32 →
    Memory.wf (s.hw.host p).mem = true →
    env.hostFail = false → env.hostPoison = false → fld rec32 0 4 = fld rec32 0x1C 4 → w.seqSeen ≠ some (BitVec.ofNat 32 (fld rec32 0 4)) →
    ∃ t, exec (.workDoorbellPoll ring env) s = .next t ∧ t.pending = s.pending ∧ t.hw.mem = s.hw.mem ∧
      (∀ k, k ≠ ring → t.hw.ring k = s.hw.ring k) ∧
      ((tail - w.head).toNat ≤ 2 ^ w.log2 →
        t.hw.ring ring = { w with seqSeen := some (BitVec.ofNat 32 (fld rec32 0 4)), tailSeen := tail, misses := 0
                                  told := w.due, due := false }) ∧
      (2 ^ w.log2 < (tail - w.head).toNat →
        (t.hw.ring ring).state = .halted ∧ (t.hw.ring ring).tailSeen = w.tailSeen ∧ (t.hw.ring ring).seqSeen = w.seqSeen)

/-- CPL_DOORBELL_POLL (R44, R46) of a completion ring: a new record with a valid HEAD frees slots; with an invalid one the HEAD is
ignored and HEAD_ERR is set. WRITE_TAIL stands either way, and so does every other completion ring. -/
def Sys2Proof.Claims.CplDoorbellPollTakesHead : Prop :=
  ∀ (n : Nat) (env : Env) (s : State),
    let o := s.hw.outRing false n
    let p := s.hw.outPort false n
    let rec32 := (s.hw.applyEnv env).hostRead p o.dbAddr.toNat 32
    let head : W32 := BitVec.ofNat 32 (fld rec32 4 4)
    let seq : W32 := BitVec.ofNat 32 (fld rec32 0 4)
    let valid := (o.writeTail - head).toNat ≤ o.size ∧ (head - o.headSeen).toNat ≤ o.size
    s.hw.ks2.powered = true → o.en = true → 4 * (o.size - o.used) ≤ o.size → s.hw.HostOpen p o.dbAddr.toNat 32 →
    env.hostFail = false → env.hostPoison = false → fld rec32 0 4 = fld rec32 0x1C 4 → o.seqSeen ≠ some seq → o.badSeq ≠ some seq →
    ∃ t, exec (.cplDoorbellPoll false n env) s = .next t ∧ t.pending = s.pending ∧ t.hw.rings = s.hw.rings ∧ t.hw.mem = s.hw.mem ∧
      (∀ k, k ≠ n → t.hw.outRing false k = s.hw.outRing false k) ∧
      (valid → t.hw.outRing false n = { o with seqSeen := some seq, badSeq := none, headSeen := head, misses := 0 }) ∧
      (¬ valid → t.hw.outRing false n = { o with headErr := true, badSeq := some seq, misses := o.misses + 1 })

/-- A poll takes the new index of a work ring, and of a completion ring (02). -/
def Obligations.DoorbellPollsTakeIndexes : Prop := Sys2Proof.Claims.WorkDoorbellPollTakesTail ∧ Sys2Proof.Claims.CplDoorbellPollTakesHead

/-- DESCRIPTOR_FETCH (R45): once the structures it names can be read, the descriptor in slot HEAD mod SIZE is fetched: the checked
command goes behind those already fetched, HEAD advances by one, and no other work ring changes. A read of it that fails, or that an
Insecure stream keeps back, is fetched as a command that ends TRANSLATION. The T64's half of the doorbell record then holds the new HEAD,
where it was not already written after fetching in this polling interval; where it was, host memory stays as it was. -/
def Obligations.DescriptorFetchAdvancesHead : Prop :=
  ∀ (ring : Nat) (env : Env) (s : State),
    let w := s.hw.ring ring
    let p := s.hw.ringPort w
    let n := if w.jf1 then 32 else 64
    let a := w.base.toNat + n * (w.head.toNat % w.size)
    let h := (s.hw.applyEnv env).hostPoisonRead p a env
    let fails := (s.hw.host p).barred a n = true ∨ env.hostFail = true ∧ env.hostPoison = false
    let tells (h' t : Hw) : Prop :=
      (w.told = true → t.hosts = h'.hosts) ∧
      (w.told = false → p < h'.hosts.length → h'.HostOpen p (w.dbAddr.toNat + 0x20) 32 → Memory.wf (h'.host p).mem = true →
        t.hostRead p (w.dbAddr.toNat + 0x20) 32 = devHalf w.seqSeen (w.head + 1) w.state.code)
    s.hw.ks2.powered = true → ring < s.hw.rings.length → w.canFetch = true → (s.hw.host p).up = true →
    (fails →
      ∃ t, exec (.descriptorFetch ring env) s = .next t ∧ tells (s.hw.applyEnv env) t.hw ∧
        t.hw.ring ring = { w with head := w.head + 1, told := true, due := w.told, fetched := w.fetched ++
          [{ index := w.head, jf1 := w.jf1, bytes := zeros 64, fail := some (stTranslation, (a / 2 ^ 21) % 2 ^ 32) }] }) ∧
    (¬ fails → ∀ c h', h.checkDescriptor ring w.head (h.hostRead p a n) env.hostPoison env = some (c, h') →
      ∃ t, exec (.descriptorFetch ring env) s = .next t ∧ t.pending = s.pending ∧ tells h' t.hw ∧
        t.hw.ring ring = { w with head := w.head + 1, told := true, due := w.told, fetched := w.fetched ++ [c] } ∧
        (∀ k, k ≠ ring → t.hw.ring k = s.hw.ring k))

/-- COMMAND_START (R50, R51, R54). At its turn the first fetched command of a ring ends with the status that refused it, begins its
header wait where its object is below the threshold, or starts; a satisfied acquire empties the remote caches (R87), and a wait once
satisfied is not made again. The third and the fourth part are stated of the opcodes 0x00 to 0x04 on context rings, which have no start
checks of their own. -/
def Obligations.CommandStartTakesTurn : Prop :=
  ∀ (ring : Nat) (env : Env) (s : State) (c : Cmd) (rest : List Cmd),
    let w := s.hw.ring ring
    let started : WorkRing :=
      { w with fetched := rest, running := w.running ++ [{ c with order := s.hw.startSeq, phase := .started, satisfied := false }] }
    s.hw.ks2.powered = true → w.fetched = c :: rest → s.hw.turnOk ring c = true → c.phase ≠ .done →
    (∀ st dt, c.fail = some (st, dt) →
      exec (.commandStart ring env) s = .next { s with hw := s.hw.setRing ring fun w =>
        { w with fetched := rest, running := w.running ++ [{ c with phase := .done, status := st, detail := dt }] } }) ∧
    (c.phase = .fetched → c.fail = none → s.hw.headerCheck ring c = none → c.waitEn = true → (s.hw.obj c.waitObj).toNat < c.threshold →
      exec (.commandStart ring env) s = .next { s with hw := s.hw.setRing ring fun w =>
        { w with fetched := { c with phase := .turn, satisfied := false } :: rest } }) ∧
    (c.phase = .fetched → c.fail = none → s.hw.headerCheck ring c = none → (c.waitEn = true → c.threshold ≤ (s.hw.obj c.waitObj).toNat) →
      c.opcode ≤ 4 → w.module = false →
      ∃ t, exec (.commandStart ring env) s = .next t ∧ t.pending = s.pending ∧
        t.hw.ring ring = started ∧
        t.hw.startSeq = s.hw.startSeq + 1 ∧ t.hw.mem = s.hw.mem ∧ t.hw.objs = s.hw.objs ∧
        (∀ k, k ≠ ring → t.hw.ring k = s.hw.ring k) ∧
        (c.waitEn = true → c.waitAcq = true → ∀ d, (t.hw.die d).rcLines = [])) ∧
    (c.phase = .turn → c.satisfied = true → c.fail = none → c.opcode ≤ 4 → w.module = false →
      ∃ t, exec (.commandStart ring env) s = .next t ∧ t.hw.ring ring = started ∧ t.hw.startSeq = s.hw.startSeq + 1 ∧
        (∀ d, (t.hw.die d).rcLines = (s.hw.die d).rcLines)) ∧
    (c.phase = .turn → c.satisfied = false → c.fail = none → exec (.commandStart ring env) s = .next s)

/-- COMMAND_COMPLETE (R51, R63, R64, R69, R70) in a RUNNING ring, of a command whose accesses are acknowledged: the command leaves the
ring, LAST_STATUS takes its status, a status that halts does so unless policy SKIP lets the ring go on, the header signal goes to an
object of the context's own range or of an imported window, and an OK without a record leaves the waiting records as they were. A signal
to a revoked window leaves the command CONTEXT_GONE. Before its accesses are acknowledged a command without SIG_REL makes its signal, once,
and stays; one with SIG_REL waits, and so does one whose accesses at other modules may still change its status. The entries of a
WAIT_PREFETCH that its end has not written are written first. -/
def Obligations.CommandCompleteAppliesPolicy : Prop :=
  ∀ (ring : Nat) (index : W32) (s : State) (c : Cmd),
    let w := s.hw.ring ring
    let plan := (s.hw.ctx w.ctx).plan
    let own := plan.ownsObj c.sigObj = true
    let signals := w.module = false ∧ c.sigEn = true ∧ c.fail = none ∧ c.signalled = false ∧ (signalsOn c.status = true ∨ c.sigAlways = true)
    let goes := signals ∧ (own ∨ ∃ i, plan.importObj c.sigObj = some i ∧ i.revoked = false ∧ i.writable = true)
    let gone := signals ∧ ¬ own ∧ signalsOn c.status = true ∧ ∃ i, plan.importObj c.sigObj = some i ∧ i.revoked = true
    let sent := s.hw.syncFlight ++
      [{ obj := c.sigObj, set := c.sigSet, value := BitVec.ofNat 64 c.sigValue, source := ring, after := if c.sigRel then c.order else 0 }]
    s.hw.ks2.powered = true → s.hw.cmd ring index = some c → c.phase = .done → w.state = .running →
    (∀ l, c.work = .prefetch l → s.hw.awaits c.order = false → ∃ t, exec (.commandComplete ring index) s = .next t ∧ t.pending = s.pending ∧
      (t.hw.ring ring).running = w.running.filter (·.index != index) ∧ t.hw.mem = (s.hw.writeBack ring c).mem) ∧
    (s.hw.awaits c.order = true →
      (c.sigRel = true ∨ c.signalled = true ∨ s.hw.mayLose c.order = true → exec (.commandComplete ring index) s = .next s) ∧
      (c.sigRel = false → c.signalled = false → s.hw.mayLose c.order = false → ∃ t, exec (.commandComplete ring index) s = .next t ∧ t.pending = s.pending ∧
        (∃ d, t.hw.cmd ring index = some d ∧ d.phase = .done ∧ d.signalled = true ∧ (¬ gone → d = { c with signalled := true }) ∧
          (gone → d.status = stContextGone)) ∧ s.hw.OnlyCmd t.hw ring index ∧
        (goes → t.hw.syncFlight = sent) ∧ (¬ goes → t.hw.syncFlight = s.hw.syncFlight) ∧ t.hw.objs = s.hw.objs ∧ t.hw.mem = s.hw.mem)) ∧
    ∀ st, (gone → st = stContextGone) → (¬ gone → st = c.status) → s.hw.awaits c.order = false → (∀ l, c.work ≠ .prefetch l) →
    let halts := haltsOn st = true ∧ s.hw.skips ring st = false
    ∃ t, exec (.commandComplete ring index) s = .next t ∧ t.pending = s.pending ∧
      (t.hw.ring ring).running = w.running.filter (·.index != index) ∧ (t.hw.ring ring).lastStatus = st ∧
      (halts → (t.hw.ring ring).state = .halted ∧ (t.hw.ring ring).head = index + 1 ∧ (t.hw.ring ring).fetched = []) ∧
      (¬ halts → (t.hw.ring ring).state = .running ∧ (t.hw.ring ring).head = w.head ∧ (t.hw.ring ring).fetched = w.fetched) ∧
      (goes → t.hw.syncFlight = sent) ∧ (¬ goes → t.hw.syncFlight = s.hw.syncFlight) ∧
      (c.cplMode = 1 → st = stOk → (t.hw.ring ring).records = w.records ∧ t.hw.cpls = s.hw.cpls ∧ t.hw.evts = s.hw.evts) ∧
      t.hw.objs = s.hw.objs ∧ t.hw.mem = s.hw.mem ∧ (∀ k, k ≠ ring → t.hw.ring k = s.hw.ring k)

/-- The record of a completing command, and CPL_RECORD_WRITE (R57, R58, R62): with a free slot in an enabled ring whose port is up, the
32 bytes of R57 stand in host memory in slot WRITE_TAIL mod SIZE with the PHASE of the pass, and WRITE_TAIL advances by one. A waiting
record of a command whose accesses are not acknowledged waits on (R59). -/
def Sys2Proof.Claims.RecordsGoToTheirSlot : Prop :=
  (∀ (ring : Nat) (index : W32) (s : State) (c : Cmd),
    let w := s.hw.ring ring
    let o := s.hw.outRing false w.cpl
    let p := s.hw.outPort false w.cpl
    s.hw.ks2.powered = true → s.hw.cmd ring index = some c → c.phase = .done → c.status = stOk → c.cplMode ≠ 1 → c.sigEn = false →
    s.hw.awaits c.order = false → (∀ l, c.work ≠ .prefetch l) → w.state = .running → w.module = false → w.records = [] →
    s.hw.canRecord false w.cpl = true → p < s.hw.hosts.length → Memory.wf (s.hw.host p).mem = true →
    (s.hw.host p).barred (o.base.toNat + 32 * (o.writeTail.toNat % o.size)) 32 = false →
    ∃ t, exec (.commandComplete ring index) s = .next t ∧ (t.hw.ring ring).records = [] ∧
      (t.hw.outRing false w.cpl).writeTail = o.writeTail + 1 ∧
      t.hw.hostRead p (o.base.toNat + 32 * (o.writeTail.toNat % o.size)) 32 =
        (s.hw.recordOf ring c).set 7 (BitVec.ofNat 8 o.phase)) ∧
  (∀ (ring : Nat) (s : State) (rb : Rec) (rest : List Rec),
    let w := s.hw.ring ring
    let x := w.recordRing
    let o := s.hw.outRing x.1 x.2
    let p := s.hw.outPort x.1 x.2
    s.hw.ks2.powered = true → w.records = rb :: rest →
    (s.hw.awaits rb.order = true → exec (.cplRecordWrite ring) s = .next s) ∧
    (s.hw.awaits rb.order = false → w.state ≠ .draining → s.hw.canRecord x.1 x.2 = true → p < s.hw.hosts.length →
    Memory.wf (s.hw.host p).mem = true →
    (s.hw.host p).barred (o.base.toNat + 32 * (o.writeTail.toNat % o.size)) rb.bytes.length = false →
    ∃ t, exec (.cplRecordWrite ring) s = .next t ∧ t.pending = s.pending ∧ t.hw.ring ring = { w with records := rest } ∧
      (∀ k, k ≠ ring → t.hw.ring k = s.hw.ring k) ∧ (t.hw.outRing x.1 x.2).writeTail = o.writeTail + 1 ∧
      t.hw.hostRead p (o.base.toNat + 32 * (o.writeTail.toNat % o.size)) rb.bytes.length =
        rb.bytes.set 7 (rb.bytes.getD 7 0 ||| BitVec.ofNat 8 o.phase) ∧ t.hw.mem = s.hw.mem ∧ t.hw.objs = s.hw.objs))

/-- IRQ_DELAY_EXPIRY and MSIX_UNMASK (R71, R429, R431; the bits by log 11): the delay ends with the vector sent, or with its pending bit
set while its entry or its function is masked, MSI-X is off, or its port is down; a message whose address an Insecure stream takes is not
sent. Unmasking an entry sends what was pending and clears the bit, unless MSI-X is off or its function masked. -/
def Sys2Proof.Claims.InterruptsGoOut : Prop :=
  (∀ (evt : Bool) (n : Nat) (s : State),
    let o := s.hw.outRing evt n
    let p := s.hw.outPort evt n
    let q := s.hw.host p
    s.hw.ks2.powered = true → o.irqTimer = true → p < s.hw.hosts.length →
    ∃ t, exec (.irqDelayExpiry evt n) s = .next t ∧ t.pending = s.pending ∧ t.hw.rings = s.hw.rings ∧ t.hw.mem = s.hw.mem ∧
      t.hw.outRing evt n = { o with unIrq := 0, irqTimer := false } ∧
      (if q.up = true ∧ q.msixOn = true ∧ q.msixMask = false ∧ (q.msixDword (4 * o.vector + 3)).getLsbD 0 = false then
         t.hw.hosts = s.hw.hosts ∧
         t.hw.out = if q.barred (q.msixAddr o.vector) 4 then s.hw.out else .msix p o.vector :: s.hw.out
       else (t.hw.host p).pba = setIns q.pba o.vector ∧ t.hw.out = s.hw.out)) ∧
  (∀ (port entry : Nat) (s : State),
    let q := s.hw.host port
    s.hw.ks2.powered = true → s.hw.reaches port = true → s.hw.dark (0x38000C + 16 * entry) = false → entry < 2048 →
    port < s.hw.hosts.length →
    ∃ t, exec (.msixUnmask port entry) s = .next t ∧ t.pending = s.pending ∧ t.hw = { s.hw with hosts := t.hw.hosts, out := t.hw.out } ∧
      ((t.hw.host port).msixDword (4 * entry + 3)).getLsbD 0 = false ∧
      (q.msixOn = true → q.msixMask = false → entry ∉ (t.hw.host port).pba ∧
        (entry ∈ q.pba → q.barred (q.msixAddr entry) 4 = false → .msix port entry ∈ t.hw.out)) ∧
      (q.msixOn = false ∨ q.msixMask = true → (t.hw.host port).pba = q.pba ∧ t.hw.out = s.hw.out))

/-- Records reach their slots and interrupts go out (02). -/
def Obligations.RecordsAndInterruptsGoOut : Prop := Sys2Proof.Claims.RecordsGoToTheirSlot ∧ Sys2Proof.Claims.InterruptsGoOut

/-- RING_START (R69, R71): START of a ring that is not STOPPED sets CMD_ERR; a refused one sets START_ERR with its cause; an accepted
one makes the ring RUNNING from HEAD, its context ACTIVE, and takes the doorbell record that its port reads at once. The request of a port
that is down, or whose function is in D3hot, does not come. -/
def Obligations.RingStartRunsOrSaysWhy : Prop :=
  ∀ (port ring : Nat) (env : Env) (s : State),
    let w := s.hw.ring ring
    let p := s.hw.ringPort { w with port := port }
    let rec32 := (s.hw.applyEnv env).hostRead p w.dbAddr.toNat 32
    let seq : W32 := BitVec.ofNat 32 (fld rec32 0 4)
    let tail : W32 := BitVec.ofNat 32 (fld rec32 4 4)
    let begun : WorkRing := { w with startCause := 0, tailSeen := w.head, seqSeen := none, misses := 0, port := port, limit := none
                                     drainWait := false, fetched := [], state := .running }
    s.hw.ks2.powered = true → s.hw.dark (ringOff ring) = false →
    (s.hw.reaches port = false → exec (.ringStart port ring env) s = .next s) ∧
    (s.hw.reaches port = true →
    (w.state ≠ .stopped →
      exec (.ringStart port ring env) s = .next { s with hw := s.hw.setRing ring fun w => { w with cmdErr := true } }) ∧
    (w.state = .stopped → s.hw.startCause port ring ≠ 0 →
      exec (.ringStart port ring env) s = .next { s with hw := s.hw.setRing ring fun w =>
        { w with startErr := true, startCause := s.hw.startCause port ring } }) ∧
    (w.state = .stopped → s.hw.startCause port ring = 0 →
      ∃ t, exec (.ringStart port ring env) s = .next t ∧ t.pending = s.pending ∧ t.hw.mem = s.hw.mem ∧ t.hw.objs = s.hw.objs ∧
        (∀ k, k ≠ ring → t.hw.ring k = s.hw.ring k) ∧ (w.module = false → (t.hw.ctx w.ctx).state = .active) ∧
        ((s.hw.host p).up = false → t.hw.ring ring = begun) ∧
        (Memory.wf (s.hw.host p).mem = true → s.hw.HostOpen p w.dbAddr.toNat 32 → env.hostFail = false → env.hostPoison = false →
          fld rec32 0 4 = fld rec32 0x1C 4 → (tail - w.head).toNat ≤ 2 ^ w.log2 → t.hw.ring ring =
            { begun with seqSeen := some seq, tailSeen := tail, told := w.due, due := false })))

/-- RING_STOP and RING_RESUME (R69). STOP of a RUNNING or HALTED ring with commands in flight drains it to the commands already started;
with nothing left to do it stops the ring. RESUME makes a HALTED ring RUNNING from its HEAD. In any other state either sets CMD_ERR. -/
def Sys2Proof.Claims.RingStopAndResume : Prop :=
  ∀ (port ring : Nat) (s : State),
    let w := s.hw.ring ring
    s.hw.ks2.powered = true → s.hw.dark (ringOff ring) = false → s.hw.reaches port = true →
    (w.state = .running ∨ w.state = .halted →
      ((w.module = true ∨ (s.hw.ctx w.ctx).state ≠ .quiescing) →
      ∃ t, exec (.ringStop port ring) s = .next t ∧ t.pending = s.pending ∧ t.hw.mem = s.hw.mem ∧ t.hw.objs = s.hw.objs ∧
        (∀ k, k ≠ ring → t.hw.ring k = s.hw.ring k) ∧
        t.hw.ring ring = { w with fetched := [], limit := none, drainWait := false
                                  state := if w.running = [] ∧ w.records = [] then .stopped else .draining })) ∧
    (w.state = .stopped ∨ w.state = .draining →
      exec (.ringStop port ring) s = .next { s with hw := s.hw.setRing ring fun w => { w with cmdErr := true } }) ∧
    (w.state = .halted →
      ∃ t, exec (.ringResume port ring) s = .next t ∧ t.pending = s.pending ∧ t.hw.mem = s.hw.mem ∧
        t.hw.ring ring = { w with misses := 0, state := .running } ∧ (∀ k, k ≠ ring → t.hw.ring k = s.hw.ring k)) ∧
    (w.state ≠ .halted →
      exec (.ringResume port ring) s = .next { s with hw := s.hw.setRing ring fun w => { w with cmdErr := true } })

/-- RING_DRAIN and DRAIN_POLL (R69): the doorbell is read until a record is consistent; a new valid TAIL is accepted and becomes the
limit, else the TAIL accepted before is the limit. DRAIN of a ring that is not RUNNING sets CMD_ERR. -/
def Obligations.DrainTakesItsLimit : Prop :=
  ∀ (port ring : Nat) (env : Env) (s : State),
    let w := s.hw.ring ring
    let p := s.hw.ringPort w
    let rec32 := (s.hw.applyEnv env).hostRead p w.dbAddr.toNat 32
    let seq : W32 := BitVec.ofNat 32 (fld rec32 0 4)
    let tail : W32 := BitVec.ofNat 32 (fld rec32 4 4)
    let fresh := w.seqSeen ≠ some seq
    let reads := s.hw.HostOpen p w.dbAddr.toNat 32 ∧ env.hostFail = false ∧ env.hostPoison = false ∧ fld rec32 0 4 = fld rec32 0x1C 4
    let drains (t : State) : Prop :=
      t.pending = s.pending ∧ t.hw.mem = s.hw.mem ∧ (∀ k, k ≠ ring → t.hw.ring k = s.hw.ring k) ∧
      (fresh → (tail - w.head).toNat ≤ 2 ^ w.log2 → t.hw.ring ring =
        { w with seqSeen := some seq, tailSeen := tail, misses := 0, drainWait := false, limit := some tail, state := .draining }) ∧
      (¬ fresh → t.hw.ring ring =
        { w with misses := w.misses + 1, drainWait := false, limit := some w.tailSeen, state := .draining }) ∧
      (fresh → 2 ^ w.log2 < (tail - w.head).toNat → (t.hw.ring ring).state = .halted ∧ (t.hw.ring ring).tailSeen = w.tailSeen)
    s.hw.ks2.powered = true → s.hw.dark (ringOff ring) = false → s.hw.reaches port = true →
    (w.state ≠ .running →
      exec (.ringDrain port ring env) s = .next { s with hw := s.hw.setRing ring fun w => { w with cmdErr := true } }) ∧
    (w.state = .running → w.running ≠ [] → reads → ∃ t, exec (.ringDrain port ring env) s = .next t ∧ drains t) ∧
    (w.state = .running → w.running ≠ [] → w.drainWait = true → reads → ∃ t, exec (.drainPoll ring env) s = .next t ∧ drains t) ∧
    (w.state = .running → (s.hw.host p).up = false →
      exec (.ringDrain port ring env) s = .next { s with hw := s.hw.setRing ring fun w => { w with drainWait := true } })

/-- RING_EN_SET and RING_EN_CLEAR (R71) of a completion ring: a legal write that sets EN starts the ring afresh; EN 1 cannot be set
again, and a write that may not set EN has no effect; a write with EN 0 clears EN alone, or writes the other fields where EN is 0. Of
an event ring the last two hold as well. -/
def Sys2Proof.Claims.RingEnables : Prop :=
  ∀ (evt : Bool) (n : Nat) (v : W32) (s : State),
    let o := s.hw.outRing evt n
    let len := if evt then s.hw.evts.length else s.hw.cpls.length
    s.hw.ks2.powered = true → s.hw.dark (outOff evt n) = false → n < len →
    (evt = false → v.getLsbD 0 = true → o.en = false → s.hw.enOk false n v.toNat = true →
      ∃ t, exec (.ringEnSet false n v) s = .next t ∧ t.pending = s.pending ∧ t.hw.rings = s.hw.rings ∧ t.hw.mem = s.hw.mem ∧
        t.hw.outRing false n = { o.withCfg false v.toNat with
          en := true, everEn := true, writeTail := 0, headSeen := 0, seqSeen := none, badSeq := none, misses := 0, unIrq := 0
          irqTimer := false, held := [] } ∧ ∀ k, k ≠ n → t.hw.outRing false k = s.hw.outRing false k) ∧
    (v.getLsbD 0 = true → o.en = true ∨ s.hw.enOk evt n v.toNat = false → exec (.ringEnSet evt n v) s = .next s) ∧
    (v.getLsbD 0 = false → ∃ t, exec (.ringEnClear evt n v) s = .next t ∧ t.pending = s.pending ∧ t.hw.rings = s.hw.rings ∧
        t.hw.mem = s.hw.mem ∧ (∀ k, k ≠ n → t.hw.outRing evt k = s.hw.outRing evt k) ∧
        t.hw.outRing evt n = if o.en then { o with en := false, irqTimer := false, unIrq := 0 } else o.withCfg evt v.toNat)

/-- The ring controls STOP, DRAIN, RESUME, and the enables of completion and event rings (02). -/
def Obligations.RingControlsAct : Prop := Sys2Proof.Claims.RingStopAndResume ∧ Sys2Proof.Claims.RingEnables

/-! ## Registers and alias windows (01, 02, 18, 21) -/

/-- REGISTER_WRITE (R69, R71) of a work ring: while the ring is STOPPED a write of BASE leaves bits [63:12] and one of DOORBELL bits
[63:6], which a read then returns, and one of CFG leaves its fields; while it is not, they have no effect. HEAD is written while the ring
is STOPPED or HALTED, and at no other time. A write of STATUS clears START_ERR and CMD_ERR where it has a 1. -/
def Sys2Proof.Claims.RingRegistersTakeWrites : Prop :=
  ∀ (port ring : Nat) (v : W64) (s : State),
    let o := ringOff ring
    let x := v.toNat % 2 ^ 32
    let page : W64 := v &&& ~~~ 0xFFF#64
    let line : W64 := v &&& ~~~ 0x3F#64
    let st := (s.hw.ring ring).state
    let wrote (k n : Nat) (f : WorkRing → WorkRing) : Prop := exec (.registerWrite port (o + k) n v) s = .next { s with hw := s.hw.setRing ring f }
    let ignored (k n : Nat) : Prop := exec (.registerWrite port (o + k) n v) s = .next s
    s.hw.ks2.powered = true → s.hw.reaches port = true → ring < 128 → s.hw.rings.length = 128 → (∀ k, k < 0x24 → s.hw.dark (o + k) = false) →
    (st = .stopped →
      wrote 0 8 (fun w => { w with base := page }) ∧
      (s.hw.setRing ring fun w => { w with base := page }).regRead port o 8 = page.toNat ∧
      wrote 8 8 (fun w => { w with dbAddr := line }) ∧
      (s.hw.setRing ring fun w => { w with dbAddr := line }).regRead port (o + 8) 8 = line.toNat ∧
      wrote 0x10 4 (fun w =>
        { w with log2 := bits x 4 0, jf1 := x.testBit 5, overlap := x.testBit 6, skip := x.testBit 7, ctx := bits x 11 8, module := x.testBit 12
                 cpl := bits x 19 16 })) ∧
    (st ≠ .stopped → ignored 0 8 ∧ ignored 8 8 ∧ ignored 0x10 4) ∧
    (st = .stopped ∨ st = .halted → wrote 0x20 4 fun w => { w with head := BitVec.ofNat 32 x, fetched := [] }) ∧
    (st = .running ∨ st = .draining → ignored 0x20 4) ∧
    wrote 0x1C 4 fun w => { w with startErr := w.startErr && !x.testBit 2, cmdErr := w.cmdErr && !x.testBit 3 }

/-- REGISTER_WRITE of RW1C registers (R32, R230, R259, R299, R354, R71): a write with any bit 1 clears a counter of a die or a link, one
of 0 leaves it, and no other counter changes; HEAD_ERR of a completion ring is cleared by a write of its bit. -/
def Sys2Proof.Claims.CountersClear : Prop :=
  ∀ (port d l : Nat) (v : W64) (s : State),
    let x := v.toNat % 2 ^ 32
    s.hw.ks2.powered = true → s.hw.reaches port = true →
    (∀ c ∈ dieCounters, d < 16 → s.hw.dies.length = 16 → s.hw.dark (dieOff d + c.1) = false →
      ∃ t, exec (.registerWrite port (dieOff d + c.1) 4 v) s = .next t ∧ t.pending = s.pending ∧ t.hw = { s.hw with dies := t.hw.dies } ∧
        (∀ k, k ≠ d → t.hw.die k = s.hw.die k) ∧ c.2 (t.hw.die d) = (if x = 0 then c.2 (s.hw.die d) else 0) ∧
        ∀ e ∈ dieCounters, e.1 ≠ c.1 → e.2 (t.hw.die d) = e.2 (s.hw.die d)) ∧
    (∀ c ∈ linkCounters, d < 48 → l < 4 → s.hw.dark (portOff d + 0x40 + 0x40 * l + c.1) = false →
      ∃ t, exec (.registerWrite port (portOff d + 0x40 + 0x40 * l + c.1) 4 v) s = .next t ∧ t.pending = s.pending ∧
        t.hw = { s.hw with ports := t.hw.ports } ∧ (∀ q m, (q ≠ d ∨ m ≠ l) → t.hw.link q m = s.hw.link q m) ∧
        c.2 (t.hw.link d l).counts = (if x = 0 then c.2 (s.hw.link d l).counts else 0) ∧
        ∀ e ∈ linkCounters, e.1 ≠ c.1 → e.2 (t.hw.link d l).counts = e.2 (s.hw.link d l).counts) ∧
    (d < 16 → s.hw.dark (outOff false d + 0x18) = false →
      exec (.registerWrite port (outOff false d + 0x18) 4 v) s =
        .next { s with hw := s.hw.setOutRing false d fun o => { o with headErr := o.headErr && !x.testBit 1 } })

/-- REGISTER_WRITE of the keystone's limited registers (R38, R39, R259, R386): BOARD_SLOT and BOARD_MAP while every context is FREE and no
OPEN runs, OPT_LIMITS while every context is FREE, WDOG, and ESC while every context is FREE, each with the values it allows; any other
write of them has no effect. -/
def Sys2Proof.Claims.LimitedRegistersTakeWrites : Prop :=
  ∀ (port : Nat) (v : W64) (s : State),
    let x := v.toNat % 2 ^ 32
    let quiet := s.hw.allFree = true ∧ s.hw.noneBusy = true
    let dead := bits x 15 0
    let reasm := bits x 31 16
    let takes (o : Nat) (ok : Prop) (f : Limits → Limits) : Prop :=
      s.hw.dark o = false →
      (ok → exec (.registerWrite port o 4 v) s = .next { s with hw := { s.hw with lim := f s.hw.lim } }) ∧
      (¬ ok → exec (.registerWrite port o 4 v) s = .next s)
    s.hw.ks2.powered = true → s.hw.reaches port = true →
    takes 0x100 (quiet ∧ bits x 4 0 < 8) (fun l => { l with slot := bits x 4 0, slotValid := x.testBit 31 }) ∧
    takes 0x104 quiet (fun l => { l with present := bits x 7 0 }) ∧
    takes 0x10C (s.hw.allFree = true ∧ 1 ≤ dead ∧ dead ≤ 10000 ∧ 2 ≤ reasm ∧ dead < reasm)
      (fun l => { l with linkDeadMs := dead, reasmMs := reasm }) ∧
    takes 0x200 (10 ≤ bits x 13 0 ∧ bits x 13 0 ≤ 10000) (fun l => { l with hangMs := bits x 13 0 }) ∧
    takes 0x208 (60 ≤ bits x 15 0 ∧ s.hw.allFree = true) (fun l => { l with windowS := bits x 15 0 })

/-- REGISTER_WRITE and BAR0_INVALID_ACCESS as requests (R424, R425): a request does not come while its port is down or its function is in
D3hot; at an offset that no register has, a write has no effect and a read gives 0. An access that BAR0 does not accept is answered with an
Unsupported Request, which AER holds, and changes nothing else, whether it comes as REGISTER_WRITE or as BAR0_INVALID_ACCESS. The place of
the bit in the AER status is the model's (log 14). -/
def Sys2Proof.Claims.BarRequestsEnd : Prop :=
  ∀ (port width off : Nat) (v : W64) (s : State),
    s.hw.ks2.powered = true →
    (s.hw.reaches port = false → exec (.registerWrite port off width v) s = .next s) ∧
    (s.hw.reaches port = true →
      (accessOk off width = true → aliasAt off = none →
        exec (.registerWrite port off width v) s = .next { s with hw := s.hw.regWrite port off width v.toNat }) ∧
      (accessOk off width = true → (0x22000 ≤ off ∧ off < 0x40000) ∨ (0x58000 ≤ off ∧ off < 0x100000) →
        exec (.registerWrite port off width v) s = .next s ∧ s.hw.regRead port off width = 0) ∧
      (accessOk off width = false →
        ∃ t, exec (.registerWrite port off width v) s = .next t ∧ exec (.bar0InvalidAccess port off width) s = .next t ∧
          t.pending = s.pending ∧ t.hw = { s.hw with hosts := t.hw.hosts, out := t.hw.out } ∧ (∀ q, q ≠ port → t.hw.host q = s.hw.host q) ∧
          .unsupported port ∈ t.hw.out ∧ (port < s.hw.hosts.length → (t.hw.host port).aer.status.getLsbD aerUnsupported = true)))

/-- Register writes of BAR0 (01, 02, 09, 15, 18). -/
def Obligations.RegisterWritesOfBar0 : Prop :=
  Sys2Proof.Claims.RingRegistersTakeWrites ∧ Sys2Proof.Claims.CountersClear ∧ Sys2Proof.Claims.LimitedRegistersTakeWrites ∧
  Sys2Proof.Claims.BarRequestsEnd

/-- ALIAS_READ (R438, R439): the lowest member's value answers, and ALIAS says whether the whole registers agree, how many there are, and
the first that differs; a window that names nobody answers 0. Nothing else changes. -/
def Sys2Proof.Claims.AliasReadCompares : Prop :=
  ∀ (port off width cls w k : Nat) (s : State),
    let ms := if assigned cls k then s.hw.membersOf cls w else []
    let value (m : Nat) : Nat := s.hw.regRead port (memberOff cls m + k) width
    let whole (m : Nat) : Nat := if wide cls k then s.hw.regRead port (memberOff cls m + k / 8 * 8) 8 else value m
    s.hw.ks2.powered = true → s.hw.reaches port = true → accessOk off width = true → aliasAt off = some (cls, w, k) →
    port < s.hw.hosts.length →
    ∃ t, exec (.aliasRead port off width) s = .next t ∧ t.pending = s.pending ∧
      t.hw = { s.hw with out := t.hw.out, hosts := t.hw.hosts } ∧ (∀ q, q ≠ port → t.hw.host q = s.hw.host q) ∧
      (ms = [] → t.hw.out = .aliasData port 0 :: s.hw.out ∧ (t.hw.host port).agreeValid = false ∧ (t.hw.host port).members = 0) ∧
      (∀ m, ms.head? = some m → t.hw.out = .aliasData port (BitVec.ofNat 64 (value m)) :: s.hw.out ∧
        (t.hw.host port).agreeValid = true ∧ (t.hw.host port).members = ms.length ∧
        ((t.hw.host port).agree = true ↔ ∀ x ∈ ms, whole x = whole m) ∧
        ((t.hw.host port).agree = false → (t.hw.host port).firstDiff ∈ ms ∧ whole (t.hw.host port).firstDiff ≠ whole m ∧
          ∀ x ∈ ms, x < (t.hw.host port).firstDiff → whole x = whole m))

/-- ALIAS_WRITE (R437) of any register of any class: each named member, ascending, takes the value by its own register write; an offset that
names no register of the members has no effect. Of CE_LIMIT and the pins of every named die: each named die takes the value, and no other
die changes. -/
def Sys2Proof.Claims.AliasWriteReachesMembers : Prop :=
  (∀ (port off width cls w k : Nat) (v : W64) (s : State),
    s.hw.ks2.powered = true → s.hw.reaches port = true → accessOk off width = true → aliasAt off = some (cls, w, k) →
    (assigned cls k = true →
      exec (.aliasWrite port off width v) s =
        .next { s with hw := (s.hw.membersOf cls w).foldl (fun h m => h.regWrite port (memberOff cls m + k) width v.toNat) s.hw } ∧
      (∀ m, s.hw.membersOf cls w = [m] → accessOk (memberOff cls m + k) width = true → aliasAt (memberOff cls m + k) = none →
        exec (.aliasWrite port off width v) s = exec (.registerWrite port (memberOff cls m + k) width v) s)) ∧
    (assigned cls k = false ∨ s.hw.membersOf cls w = [] → exec (.aliasWrite port off width v) s = .next s)) ∧
  ∀ (port w : Nat) (v : W64) (s : State),
    let off := 0x200000 + 0x10000 * w + 0x600
    let x := v.toNat % 2 ^ 32
    s.hw.ks2.powered = true → s.hw.reaches port = true → w < 9 → s.hw.dies.length = 16 →
    (∀ d, d < 16 → s.hw.dark (dieOff d + 0x600) = false) →
    ∃ t, exec (.aliasWrite port off 4 v) s = .next t ∧ t.pending = s.pending ∧ t.hw = { s.hw with dies := t.hw.dies } ∧
      (∀ d, d < 16 → t.hw.die d =
        if d ∈ s.hw.membersOf 0 w then { s.hw.die d with copyPin := x % 4, gatherPin := bits x 5 2, ceLimit := x / 65536 }
        else s.hw.die d)

/-- The alias windows: a write reaches every member, a read compares them (18). -/
def Obligations.AliasesActOnMembers : Prop := Sys2Proof.Claims.AliasReadCompares ∧ Sys2Proof.Claims.AliasWriteReachesMembers

/-! ## Synchronisation (03) -/

/-- NOP and FENCE (R50): NOP completes with OK; FENCE completes with OK once it is the first running command of its ring and no record
waits, and until then nothing happens. Nothing else of the machine changes. -/
def Sys2Proof.Claims.NopAndFenceComplete : Prop :=
  ∀ (ring : Nat) (index : W32) (s : State) (c : Cmd),
    (s.hw.Ready ring index 0x00 c → ∃ t, exec (.nop ring index) s = .next t ∧ t.pending = s.pending ∧
      t.hw.Ended ring index 0 0 ∧ s.hw.OnlyCmd t.hw ring index ∧ t.hw = { s.hw with rings := t.hw.rings }) ∧
    (s.hw.Ready ring index 0x01 c → (s.hw.ring ring).records = [] → (s.hw.ring ring).running.head? = some c →
      ∃ t, exec (.fence ring index) s = .next t ∧ t.pending = s.pending ∧
        t.hw.Ended ring index 0 0 ∧ s.hw.OnlyCmd t.hw ring index ∧ t.hw = { s.hw with rings := t.hw.rings }) ∧
    (s.hw.Ready ring index 0x01 c →
      ((s.hw.ring ring).records ≠ [] ∨ ∃ d, (s.hw.ring ring).running.head? = some d ∧ d.index ≠ index) →
      exec (.fence ring index) s = .next s)

/-- SIGNAL (R83, R85, R87) of an object of this module, without release or with every earlier command complete and its writes acknowledged
at their homes: the operation goes on its way to the object of the context's own range, or of a writable imported window, and the command
waits for it; a revoked window gives CONTEXT_GONE, a read-only one 0x0106 and an object it may not name 0x0102, and no operation is sent.
A release waits for the writes. -/
def Sys2Proof.Claims.SignalSendsItsOperation : Prop :=
  ∀ (ring : Nat) (index : W32) (s : State) (c : Cmd),
    let p := (s.hw.ctx (s.hw.ring ring).ctx).plan
    let obj := bits (c.f 0x1A 2) 12 0
    let release := (c.f 0x19 1).testBit 0 = true
    let owed := ∃ a ∈ s.hw.accesses, a.ring = ring ∧ a.order < c.order ∧ a.write = true
    s.hw.Ready ring index 0x02 c → (c.f 0x19 1).testBit 1 = false →
    (release → owed → p.ownsObj obj = true → exec (.signal ring index) s = .next s) ∧
    ((release → (s.hw.ring ring).running.head? = some c ∧ ¬ owed) →
    ∃ t, exec (.signal ring index) s = .next t ∧ t.pending = s.pending ∧ s.hw.OnlyCmd t.hw ring index ∧
      t.hw = { s.hw with rings := t.hw.rings, syncFlight := t.hw.syncFlight } ∧
      ((p.ownsObj obj = true ∨ ∃ i, p.importObj obj = some i ∧ i.revoked = false ∧ i.writable = true) →
        t.hw.cmd ring index = some { c with phase := .blocked } ∧
        t.hw.syncFlight = s.hw.syncFlight ++
          [{ obj := obj, set := c.f 0x18 1 == 1, value := BitVec.ofNat 64 (c.f 0x20 8), source := ring, waiter := some (ring, index) }]) ∧
      (p.ownsObj obj = false → p.importObj obj = none → t.hw.Ended ring index 0x0C 0x0102 ∧ t.hw.syncFlight = s.hw.syncFlight) ∧
      (∀ i, p.ownsObj obj = false → p.importObj obj = some i → i.revoked = true →
        t.hw.Ended ring index 0x13 (coordNat s.hw.self) ∧ t.hw.syncFlight = s.hw.syncFlight) ∧
      (∀ i, p.ownsObj obj = false → p.importObj obj = some i → i.revoked = false → i.writable = false →
        t.hw.Ended ring index 0x0C 0x0106 ∧ t.hw.syncFlight = s.hw.syncFlight))

/-- SIGNAL of another module (R85, R377), without release: a message goes toward it and the command waits for its answer; a module that
nothing reaches gives PEER_GONE, a fenced one FENCED, and this module itself takes the index in the context's own range, or ends 0x0102
beyond it. -/
def Sys2Proof.Claims.RemoteSignalsGo : Prop :=
  ∀ (ring : Nat) (index : W32) (s : State) (c : Cmd),
    let p := (s.hw.ctx (s.hw.ring ring).ctx).plan
    let idx := bits (c.f 0x1A 2) 12 0
    let target : Coord := BitVec.ofNat 18 (c.f 0x1C 4)
    let set : Bool := c.f 0x18 1 == 1
    let v : W64 := BitVec.ofNat 64 (c.f 0x20 8)
    s.hw.Ready ring index 0x02 c → (c.f 0x19 1).testBit 1 = true → (c.f 0x19 1).testBit 0 = false →
    ∃ t, exec (.signal ring index) s = .next t ∧ t.pending = s.pending ∧ s.hw.OnlyCmd t.hw ring index ∧ s.hw.SameSetup t.hw ∧
      t.hw.mem = s.hw.mem ∧
      (s.hw.reach false target = .gone → t.hw.Ended ring index 0x12 (coordNat target) ∧ t.hw.outMsgs = s.hw.outMsgs) ∧
      (s.hw.reach false target = .fenced → t.hw.Ended ring index 0x16 (coordNat target) ∧ t.hw.outMsgs = s.hw.outMsgs) ∧
      (s.hw.reach false target = .self → p.syncCount ≤ idx → t.hw.Ended ring index 0x0C 0x0102) ∧
      (s.hw.reach false target = .self → idx < p.syncCount → t.hw.cmd ring index = some { c with phase := .blocked } ∧
        t.hw.syncFlight = s.hw.syncFlight ++
          [{ obj := p.syncBase + idx, set := set, value := v, source := ring, waiter := some (ring, index) }]) ∧
      (s.hw.reach false target ≠ .self → s.hw.reach false target ≠ .gone → s.hw.reach false target ≠ .fenced →
        s.hw.Posts t.hw target (.signal idx set v) ∧ t.hw.cmd ring index = some { c with phase := .blocked })

/-- NOP, FENCE and SIGNAL (02, 03). -/
def Obligations.MarkersAndSignalsEnd : Prop :=
  Sys2Proof.Claims.NopAndFenceComplete ∧ Sys2Proof.Claims.SignalSendsItsOperation ∧ Sys2Proof.Claims.RemoteSignalsGo

/-- WAIT (R86, R87) on an object of its context or of an imported window: at or above its threshold the command ends OK at once, and an
acquire empties the remote caches; below it the command blocks. A wait without a limit at BASIC ends 0x0103, one on an object the context
may not name ends 0x0102, and one on a revoked window CONTEXT_GONE. No object changes. -/
def Obligations.WaitEndsOrBlocks : Prop :=
  ∀ (ring : Nat) (index : W32) (s : State) (c : Cmd),
    let p := (s.hw.ctx (s.hw.ring ring).ctx).plan
    let obj := bits (c.f 0x1A 2) 12 0
    let unlimited := c.f 0x1C 4 = 0xFFFFFFFF ∧ p.expert = false
    let named := p.ownsObj obj = true ∨ ∃ i, p.importObj obj = some i ∧ i.revoked = false
    s.hw.Ready ring index 0x03 c →
    ∃ t, exec (.wait ring index) s = .next t ∧ t.pending = s.pending ∧ s.hw.OnlyCmd t.hw ring index ∧
      t.hw = { s.hw with rings := t.hw.rings, dies := t.hw.dies } ∧
      (named → ¬ unlimited → c.f 0x20 8 ≤ (s.hw.obj obj).toNat → t.hw.Ended ring index 0 0 ∧
        ((c.f 0x18 1).testBit 0 = true → ∀ d, (t.hw.die d).rcLines = [])) ∧
      (named → ¬ unlimited → (s.hw.obj obj).toNat < c.f 0x20 8 →
        t.hw.cmd ring index = some { c with phase := .blocked } ∧ t.hw.dies = s.hw.dies) ∧
      (named → unlimited → t.hw.Ended ring index 0x0C 0x0103) ∧
      (∀ i, p.ownsObj obj = false → p.importObj obj = some i → i.revoked = true → ¬ unlimited →
        t.hw.Ended ring index 0x13 (coordNat s.hw.self)) ∧
      (p.ownsObj obj = false → p.importObj obj = none → t.hw.Ended ring index 0x0C 0x0102)

/-- SYNC_OPERATION (R84, R85, R86): the operation leaves the way and its object takes the value of a SET, or the sum of an ADD,
saturating at 2^64 - 1. No other object changes, and every blocked WAIT on the object at or below the new value ends OK. -/
def Obligations.SyncOperationApplies : Prop :=
  ∀ (n : Nat) (s : State) (o : SyncOp),
    let new : Nat := if o.set then o.value.toNat else min ((s.hw.obj o.obj).toNat + o.value.toNat) (2 ^ 64 - 1)
    s.hw.ks2.powered = true → s.hw.syncFlight[n]? = some o → s.hw.syncReady n o = true →
    ∃ t, exec (.syncOperation n false) s = .next t ∧ t.pending = s.pending ∧ t.hw.mem = s.hw.mem ∧
      t.hw.syncFlight = s.hw.syncFlight.eraseIdx n ∧ (t.hw.obj o.obj).toNat = new ∧ (∀ k, k ≠ o.obj → t.hw.obj k = s.hw.obj k) ∧
      (∀ r i c, s.hw.cmd r i = some c → c.opcode = 0x03 → c.phase = .blocked → c.satisfied = false →
        bits (c.f 0x1A 2) 12 0 = o.obj → c.f 0x20 8 ≤ new → t.hw.Ended r i 0 0)

/-- HEADER_WAIT_TIMEOUT, COMMAND_TIMEOUT and COLLECTIVE_TIMEOUT (R51, R69, R86, R296). A command whose header wait expires ends TIMEOUT
without having started, it signals only with SIG_ALWAYS, and its ring halts behind it. A blocked WAIT, none of whose accesses is out, that has a limit, and a started
collective, end TIMEOUT and nothing else changes; a WAIT without a limit goes on. -/
def Obligations.LimitsEndCommands : Prop :=
  (∀ (ring : Nat) (s : State) (c : Cmd) (rest : List Cmd),
    let w := s.hw.ring ring
    s.hw.ks2.powered = true → w.fetched = c :: rest → c.phase = .turn → c.waitEn = true → c.satisfied = false →
    (w.state = .running ∨ w.state = .draining) →
    ∃ t, exec (.headerWaitTimeout ring) s = .next t ∧ t.pending = s.pending ∧
      (t.hw.ring ring).state = .halted ∧ (t.hw.ring ring).head = c.index + 1 ∧ (t.hw.ring ring).fetched = [] ∧
      (t.hw.ring ring).lastStatus = 0x11 ∧ (c.sigEn = false ∨ c.sigAlways = false → t.hw.syncFlight = s.hw.syncFlight) ∧
      (w.module = false → c.sigEn = true → c.sigAlways = true → c.fail = none → c.signalled = false →
        (s.hw.ctx w.ctx).plan.ownsObj c.sigObj = true → t.hw.syncFlight = s.hw.syncFlight ++
          [{ obj := c.sigObj, set := c.sigSet, value := BitVec.ofNat 64 c.sigValue, source := ring
             after := if c.sigRel then c.order else 0 }]) ∧ t.hw.objs = s.hw.objs ∧ ((∀ l, c.work ≠ .prefetch l) → t.hw.mem = s.hw.mem) ∧
      (∀ k, k ≠ ring → t.hw.ring k = s.hw.ring k)) ∧
  (∀ (ring : Nat) (index : W32) (s : State) (c : Cmd), s.hw.ks2.powered = true → s.hw.cmd ring index = some c →
    (c.opcode = 0x03 → c.phase = .blocked → c.f 0x1C 4 ≠ 0xFFFFFFFF → s.hw.awaits c.order = false →
      ∃ t, exec (.commandTimeout ring index) s = .next t ∧ t.pending = s.pending ∧ t.hw.Ended ring index 0x11 0 ∧
        s.hw.OnlyCmd t.hw ring index ∧ t.hw = { s.hw with rings := t.hw.rings }) ∧
    (c.opcode = 0x03 → c.f 0x1C 4 = 0xFFFFFFFF → exec (.commandTimeout ring index) s = .next s) ∧
    (c.collBytes.isSome = true → c.phase ≠ .done →
      ∃ t, exec (.collectiveTimeout ring index) s = .next t ∧ t.pending = s.pending ∧ t.hw.Ended ring index 0x11 0 ∧
        s.hw.OnlyCmd t.hw ring index ∧ t.hw = { s.hw with rings := t.hw.rings }))

/-! ## Data movement (04) -/

/-- COPY, FILL, GATHER and SCATTER (R112-R121, R349): on the engine it holds each ends with the status and counts of its run; module
memory holds what the run wrote and nothing else. For SCATTER the last is stated of OP STORE; its adds change memory in place. -/
def Sys2Proof.Claims.MoversEnd : Prop :=
  ∀ (ring : Nat) (index : W32) (env : Env) (s : State) (c : Cmd),
    let f := s.hw.copyRun ring c env
    let g := s.hw.fillRun ring c env
    let k := s.hw.gatherRun ring c env
    let x := s.hw.scatterRun ring c env
    (s.hw.Engaged ring index 0x08 c → f.Goes →
      ∃ t, exec (.copy ring index env) s = .next t ∧ t.pending = s.pending ∧ s.hw.EndsWith t.hw ring index f (f.ends false)) ∧
    (s.hw.Engaged ring index 0x0B c → g.Goes →
      ∃ t, exec (.fill ring index env) s = .next t ∧ t.pending = s.pending ∧ s.hw.EndsWith t.hw ring index g (g.ends false)) ∧
    (s.hw.Engaged ring index 0x09 c → k.1.Goes →
      ∃ t, exec (.gather ring index env) s = .next t ∧ t.pending = s.pending ∧ s.hw.EndsWith t.hw ring index k.1 (k.1.ends k.2)) ∧
    (s.hw.Engaged ring index 0x0A c → x.1.Goes →
      ∃ t, exec (.scatter ring index env) s = .next t ∧ t.pending = s.pending ∧
        t.hw.Ended ring index (x.1.ends x.2).1 (x.1.ends x.2).2 ∧ s.hw.OnlyCmd t.hw ring index ∧ s.hw.SameSetup t.hw ∧
        (c.f 0x32 1 = 0 → s.hw.EndsWith t.hw ring index x.1 (x.1.ends x.2)))

/-- What they write (R112-R114, R118-R121, R219), of linear, unscaled tensors in this module's memory whose destination groups do not overlap,
where the run does not fail. Each valid element of a COPY's destination holds the source element whose indices PERM gives; of a FILL's the fill
code; of a GATHER's the source element of its row's index, or the fill code for an index out of range; of a SCATTER's the last source element
whose index names its slice, or, of ADD, MAX and MIN into HBM, what it held combined with each of them in turn. Elsewhere no byte changes. -/
def Sys2Proof.Claims.MoversWriteElements : Prop :=
  ∀ (ring : Nat) (index : W32) (env : Env) (s : State) (c : Cmd) (src dst idx : TD) (ks kd ki : List Nat → Nat → Nat),
    let die := match c.engine with | some e => engineDie e | none => 0
    let lies (write : Bool) (t : TD) (free : Nat → Prop) (key : List Nat → Nat → Nat) : Prop := s.hw.Lies die (s.hw.ring ring).ctx write t free key
    let fixed (_ : Nat) : Prop := False
    let inDst := dst.covers kd
    let dim := c.f 0x30 1
    let op := c.f 0x32 1
    let fill (pat : Nat) : Nat := (fillCode dst.elem 0 pat).getD 0 % 2 ^ elemBits dst.elem
    let named (i : Nat) : Int := signed 32 (s.hw.elemAt idx ki [] i)
    let alike (d : Nat) : Prop := dst.elem = src.elem ∧ dst.rank = src.rank ∧ ∀ m, m < src.rank → m ≠ d → src.size m = dst.size m
    let holds (t : State) (code : List Nat → Nat → Nat) : Prop :=
      (∀ q ch, q < dst.rows → ch < dst.size 0 → t.hw.elemAt dst kd (dst.row q) ch = code (dst.row q) ch) ∧
      ∀ a, ¬ inDst a → cellGet t.hw.mem a = cellGet s.hw.mem a
    let goes (r : Run) : Prop := r.Goes ∧ r.fail = none
    Memory.wf s.hw.mem = true → (s.hw.die die).rcLines = [] → dst.apart kd →
    (∀ perm, perm = copyPerm c.bytes src.rank →
      slotTd c.tds 0 = some src → slotTd c.tds 1 = some dst → lies false src fixed ks → lies true dst fixed kd →
      dst.elem = src.elem → dst.rank = src.rank → (∀ m, m < src.rank → perm.idxOf m < dst.rank ∧ src.size m = dst.size (perm.idxOf m)) →
      s.hw.Engaged ring index 0x08 c → goes (s.hw.copyRun ring c env) →
      ∃ t, exec (.copy ring index env) s = .next t ∧ holds t fun row ch =>
        let x := (List.range src.rank).map fun m => (ch :: row).getD (perm.idxOf m) 0
        s.hw.elemAt src ks (x.drop 1) (x.headD 0)) ∧
    (slotTd c.tds 1 = some dst → lies true dst fixed kd → s.hw.Engaged ring index 0x0B c → goes (s.hw.fillRun ring c env) →
      ∃ t, exec (.fill ring index env) s = .next t ∧ holds t fun _ _ => fill (c.f 0x20 2)) ∧
    (slotTd c.tds 0 = some src → slotTd c.tds 1 = some dst → slotTd c.tds 2 = some idx → idx.elem = 6 → idx.rank = 1 →
      1 ≤ dim → dim < src.rank → alike dim → lies false idx fixed ki →
      (s.hw.Engaged ring index 0x09 c → dst.size dim = idx.size 0 → lies false src fixed ks → lies true dst fixed kd →
        goes (s.hw.gatherRun ring c env).1 →
        ∃ t, exec (.gather ring index env) s = .next t ∧ holds t fun row ch =>
          let k := named (row.getD (dim - 1) 0)
          if 0 ≤ k ∧ k < src.size dim then s.hw.elemAt src ks (row.set (dim - 1) k.toNat) ch else fill (c.f 0x32 2)) ∧
      (s.hw.Engaged ring index 0x0A c → src.size dim = idx.size 0 → goes (s.hw.scatterRun ring c env).1 → (s.hw.scatterRun ring c env).2 = false →
        let hits (row : List Nat) : List Nat := (List.range (src.size dim)).filter fun i => named i = row.getD (dim - 1) 0
        let elem (row : List Nat) (ch i : Nat) : Nat := s.hw.elemAt src ks (row.set (dim - 1) i) ch
        (op = 0 → lies false src fixed ks → lies true dst fixed kd →
          ∃ t, exec (.scatter ring index env) s = .next t ∧ holds t fun row ch =>
            match (hits row).getLast? with
            | some i => elem row ch i
            | none => s.hw.elemAt dst kd row ch) ∧
        (adderTakes op dst.elem = true → lies false src inDst ks → lies true dst inDst kd → (∀ a, src.covers ks a → ¬ inDst a) →
          (∀ a, inDst a → keySpace a = 0) →
          ∃ t, exec (.scatter ring index env) s = .next t ∧ holds t fun row ch =>
            (hits row).foldl (fun old i => (addElem op dst.elem ((c.f 0x31 1).testBit 1) old (elem row ch i)).code % 2 ^ elemBits dst.elem)
              (s.hw.elemAt dst kd row ch))))

/-- The movers (04). -/
def Obligations.MoversEndWithTheirRun : Prop := Sys2Proof.Claims.MoversEnd ∧ Sys2Proof.Claims.MoversWriteElements

/-- ENGINE_ACQUIRE (R111): a command that waits takes the free engine with the lowest number once no earlier command of the kind waits
on that die; until then it waits on, for any engine of the kind, and nothing else changes. -/
def Obligations.EngineGoesInStartOrder : Prop :=
  ∀ (ring : Nat) (index : W32) (s : State) (c : Cmd) (e : EngineId),
    let d := engineDie e
    let first := ∀ x ∈ s.hw.engineWaiters (isCopy e) d, c.order ≤ x
    s.hw.ks2.powered = true → s.hw.cmd ring index = some c → c.engine = some e → c.wantsEngine = true → d < s.hw.aux.length →
    (∀ g, s.hw.freeEngine (isCopy e) d = some g → first →
      ∃ t, exec (.engineAcquire ring index) s = .next t ∧ t.pending = s.pending ∧ s.hw.OnlyCmd t.hw ring index ∧
        t.hw = { s.hw with rings := t.hw.rings, aux := t.hw.aux } ∧
        t.hw.cmd ring index = some { c with engine := some g, wantsEngine := false } ∧
        (t.hw.dieAux d).holders = (s.hw.dieAux d).holders ++ [(engineNumber g, (ring, index))]) ∧
    (s.hw.freeEngine (isCopy e) d = none ∨ ¬ first →
      ∃ t, exec (.engineAcquire ring index) s = .next t ∧ t.pending = s.pending ∧ t.hw = { s.hw with rings := t.hw.rings } ∧
        s.hw.OnlyCmd t.hw ring index ∧
        t.hw.cmd ring index = some { c with engine := some (if isCopy e then .copy d 0 else .gather d 0), wantsEngine := true })

/-- OWNER_BLOCK_TRANSFER and MEMORY_ACCESS_RECEIVE (R37, R110, R219): a block or an access for this module is carried out at its home. A
read answers with the bytes there and changes no memory; a write leaves exactly its bytes in memory, and it is acknowledged; an add that a
memory-side adder performs changes no byte beside its own. An access that names no memory of this module is refused, and so is an add
that no adder performs; one that the HBM controllers make wait is held (R213, R216). -/
def Obligations.OtherModulesReadAndWrite : Prop :=
  (∀ (q : BlockReq) (env : Env) (n : Nat) (s : State),
    let w := (Run.start s.hw q.die n true false env).writeGroups q.addr.toNat q.bytes q.poisoned
    let x := (Run.start s.hw q.die n true false env).readGroups q.addr.toNat q.count
    s.hw.ks2.powered = true → s.hw.jobContext q.job = some n → q.twinStep = none →
    (q.write = true → w.Goes →
      ∃ t, exec (.ownerBlockTransfer (q, env)) s = .next t ∧ t.pending = s.pending ∧ t.hw.rings = s.hw.rings ∧
        s.hw.WroteOnly t.hw w ∧
        t.hw.out.head? = some (.blockReply q.peer q.addr [] w.fail.isNone [])) ∧
    (q.write = true → ¬ w.Goes →
      exec (.ownerBlockTransfer (q, env)) s =
        .next { s with hw := { s.hw with heldAccesses := s.hw.heldAccesses ++ [{ what := .block n q, env := env }] } }) ∧
    (q.write = false → x.2.Goes →
      ∃ t, exec (.ownerBlockTransfer (q, env)) s = .next t ∧ t.pending = s.pending ∧ t.hw.rings = s.hw.rings ∧ t.hw.mem = s.hw.mem ∧
        t.hw.out.head? = some (.blockReply q.peer q.addr x.1.1 x.2.fail.isNone x.1.2))) ∧
  (∀ (src : Coord) (da : W64) (n op e : Nat) (grad : Bool) (bytes : List Byte) (po : List Nat) (env : Env) (s : State),
    let k := da.toNat % 2 ^ 52
    let hbm := bits da.toNat 51 50 = 0
    s.hw.ks2.powered = true →
    (s.hw.accessWaits da = true → ∀ x : MemAccess, accessAddr x = da.toNat →
      exec (.memoryAccessReceive src x env) s =
        .next { s with hw := { s.hw.applyEnv env with heldAccesses := s.hw.heldAccesses ++ [{ what := .access src x, env := env }] } }) ∧
    (s.hw.accessWaits da = false →
    (s.hw.ownRange da.toNat n = true →
      ∃ t, exec (.memoryAccessReceive src (.read da n) env) s = .next t ∧ t.pending = s.pending ∧ t.hw.mem = s.hw.mem ∧
        t.hw.rings = s.hw.rings ∧ ∃ po', t.hw.out.head? = some (.accessReply src da (s.hw.memRead k n) po')) ∧
    (s.hw.ownRange da.toNat bytes.length = true →
      ∃ t, exec (.memoryAccessReceive src (.write da bytes po) env) s = .next t ∧ t.pending = s.pending ∧ t.hw.rings = s.hw.rings ∧
        (Memory.wf s.hw.mem = true → t.hw.memRead k bytes.length = bytes) ∧ (∀ a, a < k ∨ k + bytes.length ≤ a → cellGet t.hw.mem a = cellGet s.hw.mem a) ∧
        t.hw.out.head? = some (.accessReply src da [] [])) ∧
    (s.hw.ownRange da.toNat bytes.length = true → hbm → adderTakes op e = true →
      ∃ t, exec (.memoryAccessReceive src (.add da op e grad bytes po) env) s = .next t ∧ t.pending = s.pending ∧ t.hw.rings = s.hw.rings ∧
        (∀ a, a < k ∨ k + bytes.length ≤ a → cellGet t.hw.mem a = cellGet s.hw.mem a) ∧
        t.hw.out.head? = some (.accessReply src da [] [])) ∧
    (s.hw.ownRange da.toNat bytes.length = false ∨ ¬ hbm ∨ adderTakes op e = false →
      ∃ t, exec (.memoryAccessReceive src (.add da op e grad bytes po) env) s = .next t ∧ t.hw.mem = s.hw.mem ∧
        t.hw.out.head? = some (.accessRefused src da)) ∧
    (s.hw.ownRange da.toNat bytes.length = false →
      ∃ t, exec (.memoryAccessReceive src (.write da bytes po) env) s = .next t ∧ t.hw.mem = s.hw.mem ∧
        t.hw.out.head? = some (.accessRefused src da))))

/-! ## Matrix and vector engines (05, 06, 07) -/

/-- STRIP_TAKE (R143, R144): an idle tile takes its strip from the command that started earliest; the strip is no longer offered, and
the tile's registers stand. -/
def Sys2Proof.Claims.StripTakeGivesTheStrip : Prop :=
  ∀ (die tile ring q pages : Nat) (taken drained : List Nat) (s : State) (c : Cmd),
    let best := firstStarted (s.hw.runningWhere fun c => c.opcode == 0x10 && (s.hw.stripFor die tile c).isSome)
    s.hw.ks2.powered = true → s.hw.tileIdle die tile = true → best = some (ring, c) → s.hw.cmd ring c.index = some c →
    s.hw.stripFor die tile c = some q → c.work = .matmul die taken drained pages → 16 * die + tile < s.hw.tiles.length →
    ∃ t, exec (.stripTake die tile) s = .next t ∧ t.pending = s.pending ∧ s.hw.OnlyCmd t.hw ring c.index ∧
      t.hw = { s.hw with rings := t.hw.rings, tiles := t.hw.tiles } ∧
      (∀ d k, 16 * d + k ≠ 16 * die + tile → t.hw.tile d k = s.hw.tile d k) ∧
      (∃ x, (t.hw.tile die tile).strip = some x ∧ x.ring = ring ∧ x.index = c.index ∧ x.number = q ∧ x.pos = 0 ∧ x.panel = []) ∧
      (t.hw.tile die tile).banks = (s.hw.tile die tile).banks ∧
      (t.hw.tile die tile).trgs = (s.hw.tile die tile).trgs ∧
      t.hw.cmd ring c.index = some { c with work := .matmul die (setIns taken q) drained pages }

/-- OUTPUT_TILE_DRAIN and MATMUL (R130, R141, R142, R146, R349), of a tile whose oldest finished output tile is of a started MATMUL on
its die, with its program resident where one is named. The drain leaves module memory with what its run wrote and nothing else, counts
the output tile as drained, and changes no other tile. Where the array has no strip to go on with, a drain that is not the last leaves the
command started with the run's counts; the last one ends it with its run, also when MATMUL makes it as the one move left; and under a
flushing teardown the command ends ABORTED with the last output tile that was being drained. -/
def Sys2Proof.Claims.OutputTilesDrain : Prop :=
  ∀ (die tile : Nat) (env : Env) (s : State) (b : OutTile) (bs : List OutTile) (c : Cmd) (taken drained : List Nat) (pages : Nat),
    let m := c.mat
    let q := m.stripAt b.number
    let n := (s.hw.ring b.ring).ctx
    let im : Option Image := match m.prog with | some p => s.hw.programOf c die tile p n | none => none
    let x := s.hw.tileDrain die tile b c im env
    let r : Run := { x.run with sat := x.run.sat + x.sat }
    let out := setIns drained ((q.1 * m.rowBlocks + q.2.1) * m.colBlocks + (q.2.2.1 + b.pos))
    let others (t : State) : Prop := ∀ d k, 16 * d + k ≠ 16 * die + tile → t.hw.tile d k = s.hw.tile d k
    let still := (s.hw.tile die tile).strip = none ∧ s.hw.runningWhere (fun c => c.opcode == 0x10 && (s.hw.stripFor die tile c).isSome) = []
    (s.hw.tile die tile).banks = b :: bs → s.hw.Ready b.ring b.index 0x10 c → c.work = .matmul die taken drained pages →
    s.hw.tileStands die tile = false → 16 * die + tile < s.hw.tiles.length → (m.prog.isSome = true → im.isSome = true) → x.run.Goes →
    (∃ t, exec (.outputTileDrain die tile env) s = .next t ∧ t.pending = s.pending ∧ others t ∧ s.hw.SameSetup t.hw ∧ s.hw.WroteOnly t.hw x.run ∧
      ∃ c' taken', t.hw.cmd b.ring b.index = some c' ∧ c'.work = .matmul die taken' out pages ∧ ∀ k ∈ taken, k ∈ taken') ∧
    (still → (s.hw.ctx n).flush = false → r.fail = none → out.length < m.outTiles →
      ∃ t, exec (.outputTileDrain die tile env) s = .next t ∧ s.hw.OnlyCmd t.hw b.ring b.index ∧ (t.hw.tile die tile).banks = bs ∧
        ∃ c', t.hw.cmd b.ring b.index = some c' ∧ c'.phase = .started ∧ c'.work = .matmul die taken out pages ∧ c'.sat = r.sat ∧ c'.nan = r.nan) ∧
    (still → (s.hw.ctx n).flush = false → r.fail.isSome = true ∨ m.outTiles ≤ out.length →
      ∃ t, exec (.outputTileDrain die tile env) s = .next t ∧ s.hw.EndsWith t.hw b.ring b.index r (r.ends false)) ∧
    (still → (s.hw.ctx n).flush = false → r.fail = none → m.outTiles ≤ out.length → 0 < m.strips + m.outTiles → bs = [] →
      (∀ k, k < 16 → k ≠ tile → (∀ y, (s.hw.tile die k).strip = some y → ¬ (y.ring = b.ring ∧ y.index = b.index)) ∧
        ∀ y ∈ (s.hw.tile die k).banks, ¬ (y.ring = b.ring ∧ y.index = b.index)) →
      tile ∈ s.hw.workTiles die (c.f 0x38 2) →
      ∃ t, exec (.matmul b.ring b.index env) s = .next t ∧ t.pending = s.pending ∧ others t ∧
        s.hw.EndsWith t.hw b.ring b.index r (r.ends false)) ∧
    (still → (s.hw.ctx n).flush = true →
      ∃ t, exec (.outputTileDrain die tile env) s = .next t ∧ s.hw.OnlyCmd t.hw b.ring b.index ∧
        (t.hw.drains b.ring b.index = true → ∃ c', t.hw.cmd b.ring b.index = some c' ∧ c'.phase = .started) ∧
        (t.hw.drains b.ring b.index = false → t.hw.Ended b.ring b.index 0x1F 0))

/-- OUTPUT_TILE_DRAIN of a tile that holds a strip and no finished output tile (R128, R130): the array first accumulates the strip's next
output tile into a bank, which then drains as one that stood finished would. Accumulating writes no memory; a strip whose last output
tile it was leaves the array. -/
def Sys2Proof.Claims.StripsFillBanks : Prop :=
  ∀ (die tile : Nat) (env : Env) (s : State) (y : Strip) (c : Cmd) (taken drained : List Nat) (pages : Nat),
    let x := s.hw.tileFill die y c pages env
    let h := s.hw.fillTile die tile env
    let last := (c.mat.stripAt y.number).2.2.2 ≤ y.pos + 1
    (s.hw.tile die tile).strip = some y → (s.hw.tile die tile).banks = [] → s.hw.Ready y.ring y.index 0x10 c →
    c.work = .matmul die taken drained pages → s.hw.tileStands die tile = false → 16 * die + tile < s.hw.tiles.length →
    x.2.2.Goes → x.2.2.fail = none →
    exec (.outputTileDrain die tile env) s = exec (.outputTileDrain die tile env) { s with hw := h } ∧ h.mem = s.hw.mem ∧
    (h.tile die tile).banks = [{ ring := y.ring, index := y.index, number := y.number, pos := y.pos, bank := x.1 }] ∧
    (last → (h.tile die tile).strip = none) ∧ (¬ last → (h.tile die tile).strip = some { y with pos := y.pos + 1, panel := x.2.1 }) ∧
    (h.tile die tile).trgs = (s.hw.tile die tile).trgs ∧ ∀ d k, 16 * d + k ≠ 16 * die + tile → h.tile d k = s.hw.tile d k

/-- Strips are taken, and output tiles drain (05). -/
def Obligations.MatrixOutputsDrain : Prop :=
  Sys2Proof.Claims.StripTakeGivesTheStrip ∧ Sys2Proof.Claims.StripsFillBanks ∧ Sys2Proof.Claims.OutputTilesDrain

/-- The four ELEMENT rows and UNIT_TAKE (R194-R199, R349). With one unit left that a tile takes or holds, a command of the row's mode ends
with the run of that unit; a unit that UNIT_TAKE gives a tile, or that the tile holds, is taken, and the command goes on or ends with it.
Module memory holds what the run wrote and nothing else, and no other tile changes. -/
def Obligations.ElementUnitsRun : Prop :=
  ∀ (ring : Nat) (index : W32) (env : Env) (s : State) (c : Cmd) (die u : Nat) (taken : List Nat) (x : UnitOut),
    let units := (c.elem (s.hw.ring ring).ctx).units
    let ts := (s.hw.takingTiles die (c.f 0x38 2)).map fun t => (die, t)
    let row : Instr := match c.f 0x34 1 with
      | 0 => .elementProgram ring index env
      | 1 => .elementReduceRow ring index env
      | 2 => .elementReduceCol ring index env
      | _ => .elementTopk ring index env
    let others (tile : Nat) (t : State) : Prop := ∀ d k, 16 * d + k ≠ 16 * die + tile → t.hw.tile d k = s.hw.tile d k
    s.hw.Ready ring index 0x11 c → c.work = .element [die] taken → u < units → u ∉ taken →
    (∀ k, c.f 0x34 1 < 4 → (∀ j, j < units → j ≠ u → j ∈ taken) → s.hw.unitTile ring index ts u = some (die, k) →
      s.hw.unitOut ring c die k u env = some x → x.run.Goes →
      ∃ t, exec row s = .next t ∧ t.pending = s.pending ∧ others k t ∧
        s.hw.EndsWith t.hw ring index x.run (x.run.ends false)) ∧
    (∀ k, (s.hw.heldUnit die k = some ((ring, c), u) ∧ s.hw.tileStands die k = false) ∨
        (s.hw.heldUnit die k = none ∧ firstStarted ((s.hw.runningWhere fun c => c.opcode == 0x11 || c.opcode == 0x20).filter
          fun w => (s.hw.unitFor die k w).isSome) = some (ring, c) ∧ s.hw.unitFor die k (ring, c) = some u) →
      s.hw.unitOut ring c die k u env = some x → x.run.Goes →
      ∃ t, exec (.unitTake die k env) s = .next t ∧ t.pending = s.pending ∧ others k t ∧
        s.hw.WroteOnly t.hw x.run ∧ s.hw.OnlyCmd t.hw ring index ∧ s.hw.SameSetup t.hw ∧
        ∃ c', t.hw.cmd ring index = some c' ∧ c'.work = .element [die] (setIns taken u) ∧
          (c'.phase = .done ↔ x.run.fail.isSome = true ∨ units ≤ (setIns taken u).length))

/-- LOAD_PROGRAM and PROGRAM_LOAD_TILE (R201, R202): once no earlier command uses the slot and no scrub waits on its tiles, LOAD_PROGRAM
puts its image into the slot on each of them and ends OK; PROGRAM_LOAD_TILE does one tile of the load that started first. Memory and
every other command stand. -/
def Sys2Proof.Claims.LoadsFillProgramSlots : Prop :=
  ∀ (ring : Nat) (index : W32) (s : State) (c : Cmd) (left : List (Nat × Nat)) (im : Image),
    let n := (s.hw.ring ring).ctx
    let slot := c.f 0x20 1
    s.hw.Ready ring index 0x12 c → c.work = .load left → c.image = some im →
    (left ≠ [] → (∀ x ∈ left, s.hw.loadOk c x.1 x.2 = true ∧ 16 * x.1 + x.2 < s.hw.tiles.length) →
      ∃ t, exec (.loadProgram ring index) s = .next t ∧ t.pending = s.pending ∧ t.hw.Ended ring index 0 0 ∧
        s.hw.OnlyCmd t.hw ring index ∧ t.hw = { s.hw with rings := t.hw.rings, tiles := t.hw.tiles } ∧
        ∀ x ∈ left, t.hw.program x.1 x.2 slot n = some im) ∧
    (∀ die tile, (die, tile) ∈ left → s.hw.loadOk c die tile = true → 16 * die + tile < s.hw.tiles.length →
      firstStarted (s.hw.runningWhere fun c => c.opcode == 0x12 && c.phase == .started && (match c.work with
        | .load l => l.contains (die, tile) && s.hw.loadOk c die tile | _ => false)) = some (ring, c) →
      ∃ t, exec (.programLoadTile die tile) s = .next t ∧ t.pending = s.pending ∧ s.hw.OnlyCmd t.hw ring index ∧
        t.hw = { s.hw with rings := t.hw.rings, tiles := t.hw.tiles } ∧ t.hw.program die tile slot n = some im ∧
        ∃ c', t.hw.cmd ring index = some c' ∧ c'.work = .load (left.filter (· != (die, tile))) ∧
          (c'.phase = .done ↔ left.filter (· != (die, tile)) = []))

/-- TRG_SCRUB, SLOT_SCRUB and SCRUB_PERFORM (R203): a requested scrub keeps the tile from taking work until it happens; it happens once
the tile holds no strip, no finished output tile and no unit, while its clock runs, clears exactly the registers or slots asked for, and leaves nothing requested. -/
def Sys2Proof.Claims.ScrubsClearWhatWasAsked : Prop :=
  ∀ (die tile : Nat) (s : State),
    let x := s.hw.tile die tile
    s.hw.ks2.powered = true → 16 * die + tile < s.hw.tiles.length →
    (s.hw.dark (tileOff die tile) = false →
      (∃ t, exec (.trgScrub die tile) s = .next t ∧ t.pending = s.pending ∧ t.hw = { s.hw with tiles := t.hw.tiles } ∧
        t.hw.tile die tile = { x with scrubTrg := true } ∧ t.hw.tileIdle die tile = false) ∧
      (∃ t, exec (.slotScrub die tile) s = .next t ∧ t.pending = s.pending ∧ t.hw = { s.hw with tiles := t.hw.tiles } ∧
        t.hw.tile die tile = { x with scrubSlot := true } ∧ t.hw.tileIdle die tile = false)) ∧
    (x.strip = none → x.banks = [] → x.unit = none → s.hw.tileStands die tile = false →
      ∃ t, exec (.scrubPerform die tile) s = .next t ∧ t.pending = s.pending ∧ t.hw = { s.hw with tiles := t.hw.tiles } ∧
        t.hw.tileIdle die tile = true ∧ (t.hw.tile die tile).slots = (if x.scrubSlot then [] else x.slots) ∧
        (∀ g p tag, (x.scrubTrg = true → g < 8 → ((t.hw.tile die tile).trgs.getD g {}).get tag p = 0) ∧
          (x.scrubTrg = false → (t.hw.tile die tile).trgs = x.trgs)) ∧
        ∀ d k, 16 * d + k ≠ 16 * die + tile → t.hw.tile d k = s.hw.tile d k) ∧
    (x.strip.isSome = true ∨ x.banks ≠ [] ∨ x.unit.isSome = true ∨ s.hw.tileStands die tile = true → exec (.scrubPerform die tile) s = .next s)

/-- The loads of program slots and the scrubs (08). -/
def Obligations.LoadsAndScrubs : Prop := Sys2Proof.Claims.LoadsFillProgramSlots ∧ Sys2Proof.Claims.ScrubsClearWhatWasAsked

/-! ## Collectives (11) -/

/-- REDUCE, ALLGATHER, REDUCE_SCATTER, an AS_TWIN collective and COLL_SLICE_START (R286, R291, R296): a die that can take the slice and
reads its part starts it and grants four message credits to every participant it receives from, but for one that it needs and cannot
reach; the rows of whole collectives begin with
die 1 and take die 0 last, whose slice with STATS waits for all the others. Only the command's ring and nothing of the set-up changes. -/
def Obligations.CollectiveSlicesStart : Prop :=
  ∀ (ring : Nat) (index : W32) (env : Env) (s : State) (c : Cmd) (k : Coll) (l : List Slice),
    let starts (d : Nat) (t : State) : Prop :=
      t.pending = s.pending ∧ s.hw.OnlyCmd t.hw ring index ∧ s.hw.SameSetup t.hw ∧
      (∃ c', t.hw.cmd ring index = some c' ∧ (c'.slice d).started = true) ∧
      ∀ p ∈ k.senders d, (k.needs d p = true → s.hw.reach false p ≠ .gone ∧ s.hw.reach false p ≠ .fenced) → ∃ o ∈ t.hw.outMsgs, o.dst = p ∧ o.msg = .collCredit k.id k.step d false 4
    let ready (d : Nat) : Prop :=
      d < l.length ∧ d < 16 ∧ (c.slice d).started = false ∧ s.hw.sliceTurn k c d = true ∧ s.hw.writesWait = false ∧
      s.hw.stands d [.fabric d] = false ∧
      (k.extra d = true → ∀ e, e < 16 → e ≠ d → (c.slice e).started = true) ∧
      (s.hw.sliceRun k c d env).waits = false ∧ (s.hw.sliceRun k c d env).fail = none
    s.hw.ks2.powered = true → s.hw.cmd ring index = some c → c.phase = .started → s.hw.collOf ring c = some k → c.work = .coll l →
    (∀ d, ready d → ∃ t, exec (.collSliceStart ring index d env) s = .next t ∧ starts d t) ∧
    (ready 1 → c.opcode = 0x18 → ∃ t, exec (.reduce ring index env) s = .next t ∧ starts 1 t) ∧
    (ready 1 → c.opcode = 0x19 → ∃ t, exec (.allgather ring index env) s = .next t ∧ starts 1 t) ∧
    (ready 1 → c.opcode = 0x1A → ∃ t, exec (.reduceScatter ring index env) s = .next t ∧ starts 1 t) ∧
    (ready 1 → c.opcode = 0x33 → c.f 0x18 1 = 3 → c.wantsEngine = false → s.hw.twin.isSome = true →
      fld c.extra 0 1 ∈ [0x18, 0x19, 0x1A] → ∃ t, exec (.twinSyncAsTwin ring index env) s = .next t ∧ starts 1 t)

/-- COLL_PARTIAL_RECEIVE (R289, R291, R293): a tree partial that no collective takes is refused as late and counted. A ring partial of
an axis that the slice has not reached is kept; one of an axis that it has reached gives its credit back, and unless its chunk ends here it
goes on to the next module of that axis, combined with the module's own part. While the HBM controllers take no writes it is held (R213,
R216). -/
def Sys2Proof.Claims.PartialsAreCombined : Prop :=
  ∀ (n : Nat) (m : CollMsg) (src : Coord) (id : W16) (s : State), s.hw.ks2.powered = true →
    (s.hw.writesWait = true → exec (.collPartialReceive n m src id) s =
      .next { s with hw := { s.hw with heldAccesses := s.hw.heldAccesses ++ [{ what := .collPartial n m src id }] } }) ∧
    (s.hw.writesWait = false →
    (s.hw.collFor n m = none → m.tree = true → m.die < s.hw.dies.length →
      ∃ t, exec (.collPartialReceive n m src id) s = .next t ∧ t.pending = s.pending ∧ t.hw.rings = s.hw.rings ∧ t.hw.mem = s.hw.mem ∧
        (t.hw.die m.die).lateSent = satAdd (s.hw.die m.die).lateSent 1) ∧
    (s.hw.collFor n m = none → m.tree = false → exec (.collPartialReceive n m src id) s = .next s) ∧
    (∀ k : Coll,
      let d := m.die
      let x := s.hw.slice k d
      let a := m.axis
      let j := k.axes.idxOf a
      let l := axisSize k.topo a
      let p := Coord.on k.me a
      let own := x.part (m.first, m.units)
      let y := k.combine d m.first m.values own.1
      let po := (m.poisoned.zip own.2).map fun z => z.1 || z.2
      let r := cutRange (k.groupsIn d) (k.range d j k.me) l p
      let nxt := Coord.setOn k.me a (ringNext d l p)
      s.hw.collFor n m = some k → k.tree = false → k.step = m.step → k.op = m.opcode → k.oper = m.op → k.dst.dims = m.destSizes →
      x.started = true → x.waiting = [] →
      (a ∉ k.axes ∨ x.stage < j →
        ∃ t, exec (.collPartialReceive n m src id) s = .next t ∧ t.pending = s.pending ∧ s.hw.OnlyCmd t.hw k.ring k.index ∧
          t.hw = { s.hw with rings := t.hw.rings } ∧ t.hw.slice k d = { x with waiting := [(m, src, id)] }) ∧
      (a ∈ k.axes → j ≤ x.stage → ¬ (r.1 ≤ m.first ∧ m.first < r.2) → s.hw.collLive k = true →
        s.hw.reach false nxt ≠ .gone → s.hw.reach false nxt ≠ .fenced → s.hw.reach false src ≠ .gone → s.hw.reach false src ≠ .fenced →
        ∃ t, exec (.collPartialReceive n m src id) s = .next t ∧ t.pending = s.pending ∧ s.hw.OnlyCmd t.hw k.ring k.index ∧
          s.hw.SameSetup t.hw ∧ ∃ o q, t.hw.outMsgs = s.hw.outMsgs ++ [o, q] ∧ o.dst = src ∧ o.msg = .collCredit k.id k.step d false 1 ∧
            q.dst = nxt ∧ q.msg = .collPartial (k.message d j (m.first, m.units) y.1 po k.p)) ∧
      (a ∈ k.axes → j ≤ x.stage → r.1 ≤ m.first → m.first < r.2 → s.hw.collLive k = true →
        ∃ t, exec (.collPartialReceive n m src id) s = .next t ∧ t.pending = s.pending ∧ s.hw.OnlyCmd t.hw k.ring k.index ∧
          s.hw.SameSetup t.hw ∧ (j, m.first) ∈ (t.hw.slice k d).pieces)))

/-- COLL_RESULT_RECEIVE and TREE_DEADLINE_EXPIRY (R290-R292): the results of a piece not yet had are noted, and their credit goes back;
at the end of its wait an inner node of a tree that has not forwarded does so with the children present. -/
def Sys2Proof.Claims.ResultsAndTrees : Prop :=
  (∀ (n : Nat) (m : CollMsg) (src : Coord) (env : Env) (s : State) (k : Coll),
    let x := s.hw.slice k m.die
    s.hw.ks2.powered = true → s.hw.writesWait = false → s.hw.collFor n m = some k → k.step = m.step → k.op = m.opcode →
    k.dst.dims = m.destSizes → x.started = true → (m.first, m.units) ∉ x.covered →
    ∃ t, exec (.collResultReceive n m src env) s = .next t ∧ t.pending = s.pending ∧ s.hw.OnlyCmd t.hw k.ring k.index ∧
      s.hw.SameSetup t.hw ∧ (m.first, m.units) ∈ (t.hw.slice k m.die).covered ∧
      ((k.needs m.die src = true → s.hw.reach false src ≠ .gone ∧ s.hw.reach false src ≠ .fenced) →
        ∃ o ∈ t.hw.outMsgs, o.dst = src ∧ o.msg = .collCredit k.id k.step m.die false 1)) ∧
  (∀ (ring : Nat) (index : W32) (d : Nat) (s : State) (c : Cmd) (k : Coll),
    let x := s.hw.slice k d
    let a := k.axes.getD x.stage 0
    let p := k.pos d a k.me
    let here := k.present d x
    let mask := ((k.children a p).zipIdx.map fun (y : Nat × Nat) => if here.contains y.1 then 2 ^ y.2 else 0).sum
    let up := k.atPos d a (k.parent p) k.me
    s.hw.ks2.powered = true → s.hw.cmd ring index = some c → s.hw.collOf ring c = some k → k.tree = true →
    fld k.b 0x34 4 ≠ 0xFFFFFFFF → s.hw.writesWait = false → x.started = true → x.forwarded = false → x.stage < k.axes.length → s.hw.collLive k = true →
    k.rootBefore d x.stage k.me = true → p ≠ 0 →
    ∃ t, exec (.treeDeadlineExpiry ring index d) s = .next t ∧ t.pending = s.pending ∧ s.hw.OnlyCmd t.hw k.ring k.index ∧
      s.hw.SameSetup t.hw ∧ (t.hw.slice k d).forwarded = true ∧
      (s.hw.reach false up ≠ .gone → s.hw.reach false up ≠ .fenced → 0 < k.units d →
        ∃ o ∈ t.hw.outMsgs, ∃ m, o.dst = up ∧ o.msg = .collPartial m ∧ m.mask = mask))

/-- Partials are combined, and results and trees end the collectives (11). -/
def Obligations.CollectivesCombineAndEnd : Prop := Sys2Proof.Claims.PartialsAreCombined ∧ Sys2Proof.Claims.ResultsAndTrees

/-! ## Training and streaming (12) -/

/-- SEND and RECV (R311-R314). SEND waits without a grant or a credit; with both it takes one credit; once it holds its engine its
message goes to the peer as the channel's next, not yet counted in MSGS, and its data does not change memory. RECV copies the message that is next in turn into its
destination, frees the slot and returns one credit. A message of another shape ends 0x0C04, and one that does not fit the peer's slot
0x0C03. -/
def Obligations.ChannelsSendAndReceive : Prop :=
  ∀ (ring : Nat) (index : W32) (env : Env) (s : State) (c : Cmd) (e : ChanEntry),
    let n := (s.hw.ring ring).ctx
    let k := c.f 0x20 1
    let ch := (s.hw.ctx n).chan k
    let src := (slotTd c.tds 0).getD {}
    let x := (s.hw.moveRun ring c false env).gatherMessage { td := src }
    let dst := (slotTd c.tds 1).getD {}
    let y := (s.hw.moveRun ring c false env).copyTensor
      { td := dst.inSlot (e.bufCva.toNat + ch.recvSeq % e.slots * e.slotBytes + 64) } { td := dst } (List.range dst.rank)
      ((c.f 0x21 1).testBit 0)
    let stalls (t : State) : Prop :=
      t.pending = s.pending ∧ t.hw = { s.hw with rings := t.hw.rings, ctxs := t.hw.ctxs, freeCtr := t.hw.freeCtr } ∧
      (∀ m, m ≠ n → t.hw.ctx m = s.hw.ctx m) ∧ (t.hw.ctx n).chan k = { ch with stallUs := ((t.hw.ctx n).chan k).stallUs }
    (s.hw.ctx n).plan.chanEntry k = some e → c.wantsEngine = false →
    (s.hw.Ready ring index 0x1B c → s.hw.chanBad n c false = none → s.hw.reach false e.peer ≠ .gone → s.hw.reach false e.peer ≠ .fenced →
      (c.satisfied = false → ch.granted = false ∨ ch.credits = 0 → exec (.send ring index env) s = .next s) ∧
      (c.satisfied = false → ch.granted = true → ch.credits ≠ 0 → ch.peerSlotBytes < src.messageBytes →
        ∃ t, exec (.send ring index env) s = .next t ∧ t.hw.Ended ring index 0x0C 0x0C03 ∧ s.hw.OnlyCmd t.hw ring index ∧ stalls t) ∧
      (c.satisfied = false → ch.granted = true → ch.credits ≠ 0 → src.messageBytes ≤ ch.peerSlotBytes →
        ∃ t c', exec (.send ring index env) s = .next t ∧ t.pending = s.pending ∧ s.hw.OnlyCmd t.hw ring index ∧ s.hw.SameSetup t.hw ∧
          t.hw.mem = s.hw.mem ∧ ((t.hw.ctx n).chan k).credits = ch.credits - 1 ∧ t.hw.cmd ring index = some c' ∧ c'.satisfied = true) ∧
      (c.satisfied = true → x.2.Goes → x.2.fail = none →
        ∃ t o, exec (.send ring index env) s = .next t ∧ t.pending = s.pending ∧ s.hw.OnlyCmd t.hw ring index ∧ s.hw.SameSetup t.hw ∧
          t.hw.mem = s.hw.mem ∧ ((t.hw.ctx n).chan k).sendSeq = ch.sendSeq + 1 ∧ ((t.hw.ctx n).chan k).msgs = ch.msgs ∧
          t.hw.outMsgs.getLast? = some o ∧ o.dst = e.peer ∧ o.cmd = some (ring, index) ∧
          o.msg = .channel e.peerChan ch.sendSeq src.shape (x.1.1 ++ x.1.2.1) x.1.2.2)) ∧
    (∀ seq shape po, s.hw.Ready ring index 0x1C c → s.hw.chanBad n c true = none →
      ch.landed.find? (·.1 == ch.recvSeq) = some (seq, shape, po) →
      (shape ≠ dst.shape → ∃ t, exec (.recv ring index env) s = .next t ∧ t.hw.Ended ring index 0x0C 0x0C04 ∧
        s.hw.OnlyCmd t.hw ring index ∧ stalls t) ∧
      (shape = dst.shape → c.engine.isSome = true → y.Goes → y.fail = none →
        ∃ t o, exec (.recv ring index env) s = .next t ∧ t.pending = s.pending ∧ s.hw.EndsWith t.hw ring index y (y.ends false) ∧
          ((t.hw.ctx n).chan k).recvSeq = ch.recvSeq + 1 ∧ ((t.hw.ctx n).chan k).credits = ch.credits + 1 ∧
          ((t.hw.ctx n).chan k).msgs = satAdd ch.msgs 1 ∧
          ((t.hw.ctx n).chan k).landed = ch.landed.filter (·.1 != ch.recvSeq) ∧
          t.hw.outMsgs.getLast? = some o ∧ o.dst = e.peer ∧ o.msg = .credit e.peerChan 1))

/-- CHANNEL_GRANT, GRANT_RESEND, CHANNEL_MESSAGE_ARRIVE and CHANNEL_CREDIT_RETURN (R311, R313): the first grant that names a SEND
channel gives it its credits, and every one is accepted; a grant not accepted goes again; a message that arrives takes a slot and its
delivery is told, or it is held while the HBM controllers take no writes (R213, R216); credits that return never exceed the slots
granted. -/
def Obligations.ChannelsAreGranted : Prop :=
  (∀ (n k pk slots sb : Nat) (peer : Coord) (s : State) (e : ChanEntry),
    let ch := (s.hw.ctx n).chan pk
    s.hw.ks2.powered = true → n < s.hw.ctxs.length → pk < (s.hw.ctx n).chans.length → (s.hw.ctx n).plan.chanEntry pk = some e →
    e.recv = false → e.peer = peer → e.peerChan = k →
    ∃ t, exec (.channelGrant n peer k pk slots sb) s = .next t ∧ t.pending = s.pending ∧ t.hw.rings = s.hw.rings ∧ t.hw.mem = s.hw.mem ∧
      s.hw.Posts t.hw peer (.accepted k) ∧
      (t.hw.ctx n).chan pk = if ch.granted then ch
        else { ch with granted := true, credits := slots, peerSlots := slots, peerSlotBytes := sb }) ∧
  (∀ (n k : Nat) (s : State) (e : ChanEntry),
    let ch := (s.hw.ctx n).chan k
    s.hw.ks2.powered = true → (s.hw.ctx n).state ≠ .free → ch.valid = true → ch.recv = true → (s.hw.ctx n).plan.chanEntry k = some e →
    e.recv = true →
    (ch.accepted = false → ∃ t, exec (.grantResend n k) s = .next t ∧ t.pending = s.pending ∧ t.hw.rings = s.hw.rings ∧
      t.hw.mem = s.hw.mem ∧ s.hw.Posts t.hw e.peer (.grant k e.peerChan e.slots e.slotBytes)) ∧
    (ch.accepted = true → exec (.grantResend n k) s = .next s)) ∧
  (∀ (n k seq : Nat) (shape : Shape) (bytes : List Byte) (po : List Nat) (env : Env) (s : State) (e : ChanEntry),
    let ch := (s.hw.ctx n).chan k
    s.hw.ks2.powered = true → ch.valid = true → ch.recv = true → (s.hw.ctx n).plan.chanEntry k = some e → e.slots ≠ 0 →
    let written := s.hw.slotWrite n k seq bytes po 0 (64 + bytes.length) env
    (written = none → exec (.channelMessageArrive n k seq shape bytes po env) s =
      .next { s with hw := { s.hw.applyEnv env with heldAccesses := s.hw.heldAccesses ++ [{ what := .landing n k seq shape bytes po 0, env := env }] } }) ∧
    ∀ h', written = some h' →
    ∃ t o, exec (.channelMessageArrive n k seq shape bytes po env) s = .next t ∧ t.pending = s.pending ∧ t.hw.rings = s.hw.rings ∧
      s.hw.SameSetup t.hw ∧ t.hw.mem = h'.mem ∧ ((t.hw.ctx n).chan k).landed = ch.landed ++ [(seq, shape, po)] ∧
      ((t.hw.ctx n).chan k).credits = ch.credits - 1 ∧
      t.hw.outMsgs.getLast? = some o ∧ o.dst = e.peer ∧ o.msg = .delivered e.peerChan seq) ∧
  (∀ (n k count : Nat) (s : State),
    let ch := (s.hw.ctx n).chan k
    s.hw.ks2.powered = true → ch.valid = true → ch.recv = false →
    ∃ t, exec (.channelCreditReturn n k count) s = .next t ∧ t.pending = s.pending ∧ s.hw.OnlyCtx t.hw n ∧
      (t.hw.ctx n).chan k = { ch with credits := min (ch.credits + count) ch.peerSlots })

/-- UPDATE (R321, R325, R326) where the flag that asks for no scan is set and the step is not decided: a pending flag makes the step
skip, with the decision of the loss scale in force, its exponent in DETAIL, and no byte of memory changed. A step already decided ends
0x0C01. With its verdict APPLY, an UPDATE with one unit left that a tile takes or holds ends with the run of that unit. -/
def Obligations.UpdateAppliesOrSkips : Prop :=
  ∀ (ring : Nat) (index : W32) (env : Env) (s : State) (c : Cmd),
    let n := (s.hw.ring ring).ctx
    let x := (s.hw.ctx n).loss
    let u := c.upd
    let new := x.decide (s.hw.ctx n).plan u.step true
    s.hw.Ready ring index 0x20 c →
    (c.satisfied = false → u.step < x.decided →
      ∃ t, exec (.update ring index env) s = .next t ∧ t.hw.Ended ring index 0x0C 0x0C01 ∧ s.hw.OnlyCmd t.hw ring index ∧
        t.hw = { s.hw with rings := t.hw.rings }) ∧
    (c.satisfied = false → x.decided < u.step → (c.f 0x31 1).testBit 0 = true → x.pendStep = u.step → x.pend = true →
      n < s.hw.ctxs.length →
      ∃ t, exec (.update ring index env) s = .next t ∧ t.pending = s.pending ∧ t.hw.Ended ring index 0x03 (expDetail new.exp) ∧
        s.hw.OnlyCmd t.hw ring index ∧ s.hw.SameSetup t.hw ∧ t.hw.mem = s.hw.mem ∧ (t.hw.ctx n).loss = new) ∧
    (∀ dies taken k d t0 y,
      let ts := s.hw.updateTiles u dies
      c.satisfied = true → c.work = .element dies taken → k < u.units → k ∉ taken → (∀ j, j < u.units → j ≠ k → j ∈ taken) →
      s.hw.unitTile ring index ts k = some (d, t0) → s.hw.updateOut ring c d t0 k env = some y → y.run.Goes →
      ∃ t, exec (.update ring index env) s = .next t ∧ t.pending = s.pending ∧ s.hw.EndsWith t.hw ring index y.run (y.run.ends false))

/-- LOSS_SCALE WRITE, SET and AGREE, and STATS_READ (R318, R319, R323). WRITE and STATS_READ end with the run that writes what they
write. SET takes the exponent at EXPERT and ends 0x0105 otherwise. An agreement of one member ends at once with its own bit and the
bits that had come; a member that is not rank 0 sends its bit there. -/
def Obligations.LossScaleCommands : Prop :=
  ∀ (ring : Nat) (index : W32) (s : State) (c : Cmd),
    let n := (s.hw.ring ring).ctx
    let x := (s.hw.ctx n).loss
    let me := s.hw.collSelf false
    let axes := c.f 0x19 1
    let key := collKey c.bytes
    let id : W16 := BitVec.ofNat 16 key.1
    let step : W32 := BitVec.ofNat 32 key.2
    let bit := x.pend && x.pendStep == key.2
    let root := agreeRoot s.hw.topology axes me
    (s.hw.Ready ring index 0x21 c → c.f 0x18 1 = 0 → (s.hw.lossRun ring c).Goes →
      ∃ t, exec (.lossScaleWrite ring index) s = .next t ∧ t.pending = s.pending ∧
        s.hw.EndsWith t.hw ring index (s.hw.lossRun ring c) ((s.hw.lossRun ring c).ends false)) ∧
    (s.hw.Ready ring index 0x22 c → (s.hw.statsRun ring c).Goes →
      ∃ t, exec (.statsRead ring index) s = .next t ∧ t.pending = s.pending ∧
        s.hw.EndsWith t.hw ring index (s.hw.statsRun ring c) ((s.hw.statsRun ring c).ends false)) ∧
    (s.hw.Ready ring index 0x21 c → c.f 0x18 1 = 2 → n < s.hw.ctxs.length →
      ∃ t, exec (.lossScaleSet ring index) s = .next t ∧ t.pending = s.pending ∧ s.hw.OnlyCmd t.hw ring index ∧
        t.hw = { s.hw with rings := t.hw.rings, ctxs := t.hw.ctxs } ∧ (∀ k, k ≠ n → t.hw.ctx k = s.hw.ctx k) ∧
        (if (s.hw.ctx n).plan.expert then t.hw.Ended ring index 0 0 ∧ (t.hw.ctx n).loss = { x with exp := signed 8 (c.f 0x28 1), clean := 0 }
         else t.hw.Ended ring index 0x0C 0x0105 ∧ t.hw.ctxs = s.hw.ctxs)) ∧
    (s.hw.Ready ring index 0x21 c → c.f 0x18 1 = 1 → c.satisfied = false → n < s.hw.ctxs.length → root = me →
      agreeMembers s.hw.topology axes me = [me] →
      ∃ t, exec (.lossScaleAgree ring index) s = .next t ∧ t.pending = s.pending ∧ t.hw.Ended ring index 0 0 ∧
        s.hw.OnlyCmd t.hw ring index ∧ (t.hw.ctx n).loss = { x with
          pendStep := step.toNat
          pend := bit || (s.hw.ctx n).agrees.any fun y => y.collId == id && y.step == step && y.asTwin == false && y.bit }) ∧
    (s.hw.Ready ring index 0x21 c → c.f 0x18 1 = 1 → c.satisfied = false → root ≠ me → s.hw.reach false root ≠ .gone →
      s.hw.reach false root ≠ .fenced →
      ∃ t, exec (.lossScaleAgree ring index) s = .next t ∧ t.pending = s.pending ∧ s.hw.OnlyCmd t.hw ring index ∧
        s.hw.Posts t.hw root (.agree id step false bit false))

/-- WAIT_PREFETCH (R86, R302-R305): on an object of its context the wait begins, satisfied at once or not; an entry's groups are
delivered as its run says, in list order on each die's prefetch unit, and a TRANSLATION ends the command; and once its wait is satisfied
and, with FULL, every entry has ended, the counts and statuses are written back and the command ends, after the answers to its reads.
An advance whose memory cannot take its requests now leaves the entry as it was. -/
def Obligations.WaitPrefetchStreams : Prop :=
  ∀ (ring : Nat) (index : W32) (entry groups : Nat) (env : Env) (s : State) (c : Cmd),
    let p := (s.hw.ctx (s.hw.ring ring).ctx).plan
    let obj := bits (c.f 0x1A 2) 12 0
    let met := decide (c.f 0x20 8 ≤ (s.hw.obj obj).toNat)
    let back := c.prog.zipIdx.foldl (fun (r : Run) x =>
      (r.write (c.f 0x28 8 + 32 * x.2 + 0x18) (toLe 4 x.1.1) false).write (c.f 0x28 8 + 32 * x.2 + 0x1E) (toLe 1 x.1.2) false)
      ((Run.start s.hw 16 (s.hw.ring ring).ctx true false env).resume c)
    s.hw.ks2.powered = true → s.hw.cmd ring index = some c → c.opcode = 0x04 →
    (c.phase = .started → p.ownsObj obj = true → ¬ (c.f 0x1C 4 = 0xFFFFFFFF ∧ p.expert = false) →
      ∃ t, exec (.waitPrefetch ring index entry groups env) s = .next t ∧ t.pending = s.pending ∧ s.hw.OnlyCmd t.hw ring index ∧
        t.hw = { s.hw with rings := t.hw.rings, dies := t.hw.dies } ∧
        t.hw.cmd ring index = some { c with phase := .blocked, satisfied := met, work := .prefetch c.prog }) ∧
    (c.phase = .blocked → c.prefetchReady = true → s.hw.readsOut c.order = false → back.Goes →
      ∃ t, exec (.waitPrefetch ring index entry groups env) s = .next t ∧ t.pending = s.pending ∧
        s.hw.EndsWith t.hw ring index back (back.ends false)) ∧
    (c.phase = .blocked → c.prefetchReady = true → s.hw.readsOut c.order = true →
      exec (.waitPrefetch ring index entry groups env) s = .next s) ∧
    (c.phase = .blocked → c.prefetchReady = false → s.hw.prefTurn ring c entry env = false →
      exec (.waitPrefetch ring index entry groups env) s = .next s) ∧
    (∀ prog, c.phase = .blocked → c.prefetchReady = false → c.prog[entry]? = some prog → entryEnded prog.2 = false → groups ≠ 0 →
      s.hw.prefTurn ring c entry env = true →
      (s.hw.prefAdvance ring c entry groups env = none →
        ∃ t, exec (.waitPrefetch ring index entry groups env) s = .next t ∧ t.pending = s.pending ∧ s.hw.OnlyCmd t.hw ring index ∧
          t.hw = { s.hw with rings := t.hw.rings } ∧ t.hw.cmd ring index = some { c with stalled := true }) ∧
      (∀ a f, s.hw.prefAdvance ring c entry groups env = some a → a.run.fail = some f →
        ∃ t, exec (.waitPrefetch ring index entry groups env) s = .next t ∧ t.hw.Ended ring index f.1 f.2 ∧ s.hw.OnlyCmd t.hw ring index) ∧
      (∀ a, s.hw.prefAdvance ring c entry groups env = some a → a.run.fail = none → a.run.Goes →
        ∃ t c', exec (.waitPrefetch ring index entry groups env) s = .next t ∧ t.pending = s.pending ∧ s.hw.OnlyCmd t.hw ring index ∧
          s.hw.SameSetup t.hw ∧ t.hw.cmd ring index = some c' ∧ c'.phase = .blocked ∧ c'.work = .prefetch (c.prog.set entry (a.done, a.status))))

/-! ## Decode (13) -/

/-- The four SEQ_SET commands and SEQ_RETIRE (R331-R335). At the start all the slots that the command changes change at once: START needs a
FREE slot, PARAMS one that is not FREE; ADVANCE and FINISH change the ACTIVE slots alone, RETIRE those that are not FREE; RETIRE needs
slots that no command holds. A range outside the context's, and the first slot that refuses, end the command and change nothing. Every
slot that does not change stands. The command's own row then ends it with the run that writes the records of the changed slots. -/
def Obligations.SequenceSlotsChange : Prop :=
  ∀ (ring : Nat) (index : W32) (env : Env) (s : State) (c : Cmd) (rest : List Cmd),
    let w := s.hw.ring ring
    let p := (s.hw.ctx w.ctx).plan
    let op := if c.opcode = 0x29 then 4 else c.f 0x18 1
    let slots := (List.range (if op < 2 then 1 else c.f 0x1A 2)).map (c.f 0x19 1 + ·)
    let inside : Prop := ∀ k ∈ slots, p.seqBase ≤ k ∧ k < p.seqBase + p.seqCount
    let refuses (q : SeqSlot) : Option Nat :=
      match op with
      | 0 => if q.state = .free then none else some 0x0D01
      | 1 => if q.state = .free then some 0x0502 else none
      | 4 => if q.holds = [] then none else some 0x0D02
      | _ => none
    let changes (q : SeqSlot) : Prop := op < 2 ∨ op = 4 ∧ q.state ≠ .free ∨ (op = 2 ∨ op = 3) ∧ q.state = .active
    let grown (q : SeqSlot) : Nat := min (q.length + c.f 0x1C 4) q.limit
    let params (q : SeqSlot) : SeqSlot := { q with
      temperature := BitVec.ofNat 32 (c.f 0x2C 4), topK := c.f 0x30 1, seed := BitVec.ofNat 32 (c.f 0x34 4) }
    let after (q : SeqSlot) : SeqSlot :=
      match op with
      | 0 => { params q with
        state := if c.f 0x28 4 = c.f 0x1C 4 then .done else .active, length := c.f 0x28 4, limit := c.f 0x1C 4
        pageList := BitVec.ofNat 64 (c.f 0x20 8) }
      | 1 => params q
      | 2 => { q with length := grown q, state := if grown q = q.limit then .done else .active }
      | 3 => { q with state := .done }
      | _ => { q with state := .free }
    let starts : Prop := w.fetched = c :: rest ∧ s.hw.turnOk ring c = true ∧ c.phase = .fetched ∧ c.fail = none ∧ c.waitEn = false ∧
      s.hw.headerCheck ring c = none ∧ w.module = false
    let refused (t : Hw) (reason : Nat) : Prop :=
      t.seqs = s.hw.seqs ∧ t.mem = s.hw.mem ∧ (∀ k, k ≠ ring → t.ring k = s.hw.ring k) ∧
        t.ring ring = { w with fetched := rest, running := w.running ++
          [{ c with order := s.hw.startSeq, phase := .done, satisfied := false, status := 0x0C, detail := reason }] }
    let row (i : Instr) : Prop :=
      c.opcode = 0x29 ∧ i = .seqRetire ring index ∨ c.opcode = 0x28 ∧
        (op = 0 ∧ i = .seqSetStart ring index ∨ op = 1 ∧ i = .seqSetParams ring index ∨ op = 2 ∧ i = .seqSetAdvance ring index ∨
          op = 3 ∧ i = .seqSetFinish ring index)
    s.hw.ks2.powered = true → p.seqBase + p.seqCount ≤ s.hw.seqs.length →
    (starts → c.opcode = 0x28 ∧ op < 4 ∨ c.opcode = 0x29 →
      (¬ inside → ∃ t, exec (.commandStart ring env) s = .next t ∧ t.pending = s.pending ∧ refused t.hw 0x0501) ∧
      (∀ x, inside → slots.findSome? (fun k => refuses (s.hw.seq k)) = some x →
        ∃ t, exec (.commandStart ring env) s = .next t ∧ t.pending = s.pending ∧ refused t.hw x) ∧
      (inside → (∀ k ∈ slots, refuses (s.hw.seq k) = none) →
        ∃ t ks, exec (.commandStart ring env) s = .next t ∧ t.pending = s.pending ∧
          (∀ k, k ∈ slots → changes (s.hw.seq k) → t.hw.seq k = after (s.hw.seq k)) ∧
          (∀ k, ¬ (k ∈ slots ∧ changes (s.hw.seq k)) → t.hw.seq k = s.hw.seq k) ∧
          (∀ k, k ∈ ks ↔ k ∈ slots ∧ changes (s.hw.seq k)) ∧ t.hw.mem = s.hw.mem ∧ t.hw.objs = s.hw.objs ∧
          (∀ k, k ≠ ring → t.hw.ring k = s.hw.ring k) ∧
          t.hw.ring ring = { w with fetched := rest, running := w.running ++
            [{ c with order := s.hw.startSeq, phase := .started, satisfied := false, work := .seq ks }] })) ∧
    (∀ i ks, row i → s.hw.Ready ring index c.opcode c → c.work = .seq ks →
      let r := (s.hw.writeRecords w.ctx ks).resume c
      r.Goes → ∃ t, exec i s = .next t ∧ t.pending = s.pending ∧ s.hw.EndsWith t.hw ring index r (r.ends false))

/-! ## Capture, fencing and the twin (15) -/

/-- CAPTURE (R367). On a context ring whose samples lie in the context's scratchpads it ends with the run that writes the capture. On a
module ring it ends OK: with no capture area nothing is written (the model's choice, log 32), and with one, no byte changes outside the
pieces of the capture, which wait while the HBM controllers make them wait. Samples that lie elsewhere end 0x0F0A. -/
def Obligations.CaptureWritesItsPieces : Prop :=
  ∀ (ring : Nat) (index : W32) (s : State) (c : Cmd),
    let w := s.hw.ring ring
    let x := s.hw.captureRun w.ctx c c.captureDies c.captureNative c.captureK1
    let f := s.hw.free
    let pieces := f.2.captured f.1 0 0 c.captureDies c.captureNative c.captureK1 none
    let base := s.hw.ks2.capAddr * 2 ^ 21
    s.hw.Ready ring index 0x30 c →
    (w.module = false → (s.hw.ctx w.ctx).captureInside c.captureK1 = true → x.1.Goes →
      ∃ t, exec (.capture ring index) s = .next t ∧ t.pending = s.pending ∧ s.hw.EndsWith t.hw ring index x.1 (x.1.ends false)) ∧
    (w.module = false → (s.hw.ctx w.ctx).captureInside c.captureK1 = false →
      ∃ t, exec (.capture ring index) s = .next t ∧ t.pending = s.pending ∧ t.hw.Ended ring index 0x0C 0x0F0A ∧
        s.hw.OnlyCmd t.hw ring index ∧ t.hw = { s.hw with rings := t.hw.rings }) ∧
    (w.module = true → s.hw.ks2.capValid = true → s.hw.writesWait = true → exec (.capture ring index) s = .next s) ∧
    (w.module = true → (s.hw.ks2.capValid = true → s.hw.writesWait = false) →
      ∃ t, exec (.capture ring index) s = .next t ∧ t.pending = s.pending ∧ t.hw.Ended ring index 0 0 ∧
        s.hw.OnlyCmd t.hw ring index ∧ s.hw.SameSetup t.hw ∧ t.hw.ctxs = s.hw.ctxs ∧
        (s.hw.ks2.capValid = false → t.hw = { s.hw with rings := t.hw.rings }) ∧
        ∀ k, (∀ p ∈ pieces, k < base + p.1 ∨ base + p.1 + p.2.length ≤ k) → cellGet t.hw.mem k = cellGet s.hw.mem k)

/-- PEER_FENCE FENCE and UNFENCE (R376, R377, R403): with no key set, QUORUM_FAIL; then the valid signatures are counted, the token's
epoch must grow, and the table takes the entry where it has room. An UNFENCE clears the fence and the redirect of the entry that is there,
which keeps its epoch and coordinates; the entry it makes for a UID without one is the model's choice (log 34). A fence ends bindings to the
peer and darkens its links; an unfence changes the table alone. Nothing of module memory changes. A token that cannot be read ends the
command TRANSLATION. -/
def Sys2Proof.Claims.PeerFenceChangesTheTable : Prop :=
  ∀ (ring : Nat) (index : W32) (env : Env) (fence : Bool) (s : State) (c : Cmd),
    let row : Instr := if fence then .peerFenceFence ring index env else .peerFenceUnfence ring index env
    let b := s.hw.applyEnv env
    let p := (s.hw.ring ring).port
    let tok := b.hostRead p (c.f 0x18 8) tokenBytes
    let uid : W64 := BitVec.ofNat 64 (fld tok 8 8)
    let coord : Coord := BitVec.ofNat 18 (c.f 0x24 4)
    let n := validSignatures s.hw.flash.keys tok (if fence then 2 else 3)
    let rest := s.hw.fences.filter fun (x : Fence) => x.uid != uid
    let made : Fence :=
      { uid := uid, coord := coord, epoch := BitVec.ofNat 32 (fld tok 4 4), fenced := fence
        redirect := if fence && (c.f 0x28 4).testBit 31 then some (BitVec.ofNat 18 (c.f 0x28 4)) else none }
    let entry : Fence :=
      match s.hw.fences.find? (fun x => x.uid == uid), fence with
      | some x, false => { x with fenced := false, redirect := none }
      | _, _ => made
    let fails (st dt : Nat) : Prop :=
      ∃ t, exec row s = .next t ∧ t.pending = s.pending ∧ t.hw.Ended ring index st dt ∧ s.hw.OnlyCmd t.hw ring index ∧
        t.hw = { s.hw with rings := t.hw.rings, hosts := t.hw.hosts }
    s.hw.Ready ring index 0x31 c → c.f 0x20 1 = b2n (!fence) →
    (s.hw.flash.keys.n = 0 → fails 0x15 0) ∧
    (s.hw.flash.keys.n ≠ 0 → (s.hw.host p).up = true → env.hostPoison = false →
      ((s.hw.host p).barred (c.f 0x18 8) tokenBytes = true ∨ env.hostFail = true ∨ 2 ^ 57 ≤ c.f 0x18 8) →
      fails stTranslation (c.f 0x18 8 / 2 ^ 21 % 2 ^ 32)) ∧
    (s.hw.flash.keys.n ≠ 0 → s.hw.HostOpen p (c.f 0x18 8) tokenBytes → env.hostFail = false → env.hostPoison = false → c.f 0x18 8 < 2 ^ 57 →
      (n < s.hw.flash.keys.m → fails 0x15 n) ∧
      (s.hw.flash.keys.m ≤ n → fld tok 4 4 ≤ s.hw.fenceEpoch uid → fails 0x0C 0x0F05) ∧
      (s.hw.flash.keys.m ≤ n → s.hw.fenceEpoch uid < fld tok 4 4 → 32 ≤ rest.length → (∀ x ∈ rest, x.fenced = true) → fails 0x0C 0x0F06) ∧
      (s.hw.flash.keys.m ≤ n → s.hw.fenceEpoch uid < fld tok 4 4 → rest.length < 32 →
        ∃ t c', exec row s = .next t ∧ t.pending = s.pending ∧ t.hw.fences = rest ++ [entry] ∧ t.hw.mem = s.hw.mem ∧
          t.hw.cmd ring index = some c' ∧ c'.phase = .done ∧
          (fence = true → (∀ y ∈ t.hw.binds, y.peer ≠ coord) ∧
            ∀ q l, q < 48 → l < 4 → (s.hw.link q l).valid = true → (s.hw.link q l).uid = uid → (s.hw.link q l).state ≠ .off →
              (t.hw.link q l).state = .dark) ∧
          (fence = false → t.hw.Ended ring index 0 0 ∧ s.hw.OnlyCmd t.hw ring index ∧
            ({ s.hw with fences := t.hw.fences, rings := t.hw.rings } : Hw).Tells t.hw 1)))

/-- REINSTATE (R375, R403): refused in service, for another cause than 1, and without a quorum of valid signatures; with one, service
begins again with a module reset, the recovery history and the nonce are cleared, and OOS_COUNT stands. -/
def Sys2Proof.Claims.ReinstateEndsOutOfService : Prop :=
  ∀ (ring : Nat) (index : W32) (env : Env) (s : State) (c : Cmd),
    let p := (s.hw.ring ring).port
    let n := s.hw.reinstateValid ((s.hw.applyEnv env).hostRead p (c.f 0x18 8) tokenBytes)
    let fails (st dt : Nat) : Prop :=
      ∃ t, exec (.reinstate ring index env) s = .next t ∧ t.pending = s.pending ∧ t.hw.Ended ring index st dt ∧
        s.hw.OnlyCmd t.hw ring index ∧ t.hw = { s.hw with rings := t.hw.rings, hosts := t.hw.hosts }
    s.hw.Ready ring index 0x34 c →
    (s.hw.flash.keys.n = 0 → fails 0x15 0) ∧
    (s.hw.flash.keys.n ≠ 0 → s.hw.flash.oos = false → fails 0x0C 0x0F03) ∧
    (s.hw.flash.keys.n ≠ 0 → s.hw.flash.oos = true → s.hw.flash.oosCause ≠ 1 → fails 0x0C 0x0F04) ∧
    (s.hw.flash.keys.n ≠ 0 → s.hw.flash.oos = true → s.hw.flash.oosCause = 1 →
      s.hw.HostOpen p (c.f 0x18 8) tokenBytes → env.hostFail = false →
      env.hostPoison = false → c.f 0x18 8 < 2 ^ 57 →
      (n < s.hw.flash.keys.m → fails 0x15 n) ∧
      (s.hw.flash.keys.m ≤ n → (c.cplMode = 1 ∨ ((s.hw.ring ring).records = [] ∧ s.hw.canRecord true p = true)) →
        ∃ t, exec (.reinstate ring index env) s = .next t ∧ t.pending = s.pending ∧ t.hw.flash.oos = false ∧ t.hw.flash.oosCause = 0 ∧
          t.hw.flash.oosNonce = List.replicate 8 0 ∧ t.hw.flash.oosCount = s.hw.flash.oosCount ∧ t.hw.flash.keys = s.hw.flash.keys ∧
          t.hw.ks.history = [] ∧ t.hw.ks.boot = .ready ∧ ∃ r ∈ t.hw.ks.recovery, r.domain = .module))

/-- Peer fences, and the return from OUT_OF_SERVICE (15). -/
def Obligations.FencingAndReinstating : Prop := Sys2Proof.Claims.PeerFenceChangesTheTable ∧ Sys2Proof.Claims.ReinstateEndsOutOfService

/-- TWIN_SYNC MIRROR, PULL, TAKEOVER and HANDBACK (R378-R380). Without a twin each ends 0x0F07. A MIRROR whose run fails ends with it; any
other keeps its run's counts and waits until every group is acknowledged, and then tells the twin its step and ends. A PULL ends with the
run that copies, and one that succeeds raises TWIN_STEP to its step. TAKEOVER needs the twin fenced
with a REDIRECT to this module; HANDBACK ends a stand-in. -/
def Obligations.TwinCommandsRun : Prop :=
  ∀ (ring : Nat) (index : W32) (env : Env) (s : State) (c : Cmd),
    let n := (s.hw.ring ring).ctx
    let row : Nat → Instr := fun op =>
      if op = 0 then .twinSyncMirror ring index env else if op = 1 then .twinSyncPull ring index env
      else if op = 2 then .twinSyncTakeover ring index else .twinSyncHandback ring index
    s.hw.Engaged ring index 0x33 c → n < s.hw.ctxs.length →
    (s.hw.twin = none → (c.f 0x18 1 = 0 ∨ c.f 0x18 1 = 1 ∨ c.f 0x18 1 = 2 ∨ c.f 0x18 1 = 4) →
      ∃ t, exec (row (c.f 0x18 1)) s = .next t ∧ t.pending = s.pending ∧ t.hw.Ended ring index 0x0C 0x0F07 ∧
        s.hw.OnlyCmd t.hw ring index ∧ t.hw = { s.hw with rings := t.hw.rings }) ∧
    ∀ twin, s.hw.twin = some twin →
      let x := s.hw.mirrorRun ring c twin env
      let r := s.hw.pullRun ring c twin env
      let behind := (s.hw.fenceOf twin).bind (·.redirect) = some s.hw.self
      (c.f 0x18 1 = 0 → c.work ≠ .waiting → x.fail ≠ none → ∃ t, exec (row 0) s = .next t ∧ t.pending = s.pending ∧
        s.hw.EndsWith t.hw ring index x (x.ends false)) ∧
      (c.f 0x18 1 = 0 → c.work ≠ .waiting → x.fail = none → x.Goes → ∃ t c', exec (row 0) s = .next t ∧ t.pending = s.pending ∧
        t.hw.cmd ring index = some c' ∧ c'.phase = c.phase ∧ c'.work = .waiting ∧ c'.sat = x.sat ∧ c'.range = x.range ∧ c'.nan = x.nan ∧
        s.hw.WroteOnly t.hw x ∧ s.hw.OnlyCmd t.hw ring index ∧ s.hw.SameSetup t.hw ∧ t.hw.ctxs = s.hw.ctxs) ∧
      (c.f 0x18 1 = 0 → c.work = .waiting → s.hw.awaits c.order = true → exec (row 0) s = .next s) ∧
      (c.f 0x18 1 = 0 → c.work = .waiting → s.hw.awaits c.order = false → ∃ t, exec (row 0) s = .next t ∧ t.pending = s.pending ∧
        s.hw.EndsWith t.hw ring index (s.hw.moveRun ring c false {}) ((s.hw.moveRun ring c false {}).ends false) ∧
        ∃ o, t.hw.outMsgs.getLast? = some o ∧ o.dst = twin ∧ o.msg = .block
          { job := (s.hw.ctx n).plan.jobId, peer := s.hw.self, die := 0, write := true, addr := BitVec.ofNat 64 (c.f 0x28 8), bytes := []
            count := 0, poisoned := [], twinStep := some (BitVec.ofNat 32 (c.f 0x1C 4)) }) ∧
      (c.f 0x18 1 = 1 → r.Goes → ∃ t, exec (row 1) s = .next t ∧ t.pending = s.pending ∧
        s.hw.EndsWith t.hw ring index r (r.ends false) ∧
        (t.hw.ctx n).twinStep = if r.fail = none ∧ (s.hw.ctx n).twinStep.toNat < c.f 0x1C 4 then BitVec.ofNat 32 (c.f 0x1C 4)
          else (s.hw.ctx n).twinStep) ∧
      (c.f 0x18 1 = 2 → behind → ∃ t, exec (row 2) s = .next t ∧ t.pending = s.pending ∧ t.hw.Ended ring index 0 0 ∧
        s.hw.OnlyCmd t.hw ring index ∧ t.hw.ctx n = { s.hw.ctx n with standin := true, stoodIn := true } ∧ (∀ k, k ≠ n → t.hw.ctx k = s.hw.ctx k) ∧
        ({ s.hw with rings := t.hw.rings, ctxs := t.hw.ctxs } : Hw).Tells t.hw 1) ∧
      (c.f 0x18 1 = 2 → ¬ behind → ∃ t, exec (row 2) s = .next t ∧ t.pending = s.pending ∧ t.hw.Ended ring index 0x0C 0x0F08 ∧
        s.hw.OnlyCmd t.hw ring index ∧ t.hw = { s.hw with rings := t.hw.rings }) ∧
      (c.f 0x18 1 = 4 → ∃ t, exec (row 4) s = .next t ∧ t.pending = s.pending ∧ t.hw.Ended ring index 0 0 ∧
        s.hw.OnlyCmd t.hw ring index ∧ t.hw.ctx n = { s.hw.ctx n with standin := false } ∧ (∀ k, k ≠ n → t.hw.ctx k = s.hw.ctx k) ∧
        ({ s.hw with rings := t.hw.rings, ctxs := t.hw.ctxs } : Hw).Tells t.hw (b2n (s.hw.ctx n).standin))

/-! ## Contexts and binding (03) -/

/-- CONTEXT_OPEN and PLAN_READ_DONE (R74, R75, R90): a FREE context in service takes an OPEN from either port and reads its plan; any
other OPEN sets CMD_ERR. A plan that cannot be read, for an Insecure stream or otherwise, or that fails a check, leaves the context as it was, with its status and one event; one
that passes makes it OPEN, owned by the port that wrote it, with its synchronisation objects 0. -/
def Obligations.ContextsOpen : Prop :=
  (∀ (port n : Nat) (s : State),
    let x := s.hw.ctx n
    s.hw.ks2.powered = true → s.hw.dark (ctxOff n) = false → s.hw.reaches port = true → n < s.hw.ctxs.length →
    ∃ t, exec (.contextOpen port n) s = .next t ∧ t.pending = s.pending ∧ s.hw.OnlyCtx t.hw n ∧
      t.hw.ctx n = if x.state = .free ∧ x.busy = none ∧ s.hw.flash.oos = false then { x with busy := some (port, x.planAddr.toNat) }
        else { x with cmdErr := true }) ∧
  (∀ (n port a : Nat) (env : Env) (s : State),
    let b := s.hw.applyEnv env
    let x := s.hw.ctx n
    let bytes := fun o k => b.hostRead port (a + o) k
    let barred := (s.hw.host port).barred a 65536
    let fails (st dt : Nat) : Prop :=
      ∃ t, exec (.planReadDone n env) s = .next t ∧ t.pending = s.pending ∧
        t.hw.ctx n = { x with busy := none, openStatus := st, openDetail := dt } ∧ (∀ k, k ≠ n → t.hw.ctx k = s.hw.ctx k) ∧
        ({ s.hw with ctxs := t.hw.ctxs } : Hw).Tells t.hw (if barred then 1 else 1 + b2n env.hostPoison)
    s.hw.ks2.powered = true → n < s.hw.ctxs.length → x.busy = some (port, a) → (s.hw.host port).up = true →
    ((barred = true ∨ env.hostFail = true ∨ env.hostPoison = true ∨ 2 ^ 57 ≤ a) → fails 0x0C 0x0117) ∧
    (barred = false → env.hostFail = false → env.hostPoison = false → a < 2 ^ 57 →
      (∀ st dt, b.openChecks n bytes = .error (st, dt) → fails st dt) ∧
      (∀ o, b.openChecks n bytes = .ok o →
        ∃ t, exec (.planReadDone n env) s = .next t ∧ t.pending = s.pending ∧ t.hw.mem = s.hw.mem ∧
          (∀ k, k ≠ n → t.hw.ctx k = s.hw.ctx k) ∧ t.hw.topo = s.hw.topo.or (some o.topo) ∧
          (∀ k, t.hw.obj k = if o.plan.ownsObj k then 0 else s.hw.obj k) ∧
          let y := t.hw.ctx n
          y.state = .opened ∧ y.busy = none ∧ y.owner = port ∧ y.openStatus = 0 ∧ y.openDetail = 0 ∧ y.epoch = x.epoch ∧
          y.plan = o.plan ∧ y.loss = { exp := o.plan.lsInit } ∧ y.retained = [] ∧ y.hold = x.hold)))

/-- The ways a context closes (R74, R91, R92): CMD CLOSE and CLOSE_FLUSH of the owning port, CONTEXT_CLOSE of its own ring, and of a
module ring. An OPEN or ACTIVE context is QUIESCING until every ring of it is STOPPED, and CLOSING from then on; none of its rings
keeps a command that was only fetched, and none goes on RUNNING. From FAULTED teardown begins at once, in FLUSH mode. Module memory stays,
but for the entries of a WAIT_PREFETCH that FLUSH mode ends. -/
def Obligations.ContextsClose : Prop :=
  ∀ (n : Nat) (s : State),
    let x := s.hw.ctx n
    let closes (t : State) (flush : Bool) : Prop :=
      (t.hw.ctx n).state = (if t.hw.ctxRings n = [] then .closing else .quiescing) ∧ (t.hw.ctx n).flush = flush ∧
      (flush = false ∨ (∀ r ∈ s.hw.ctxRings n, ∀ d ∈ (s.hw.ring r).running, ∀ l, d.work ≠ .prefetch l) → t.hw.mem = s.hw.mem) ∧
      ∀ r ∈ s.hw.ctxRings n, (t.hw.ring r).fetched = [] ∧ (t.hw.ring r).state ≠ .running
    s.hw.ks2.powered = true → n < s.hw.ctxs.length →
    (∀ (port : Nat) (flush : Bool),
      let row : Instr := if flush then .contextCloseFlush port n else .contextCloseDrain port n
      s.hw.dark (ctxOff n) = false → s.hw.reaches port = true →
      (x.owner = port → (x.state = .opened ∨ x.state = .active) →
        ∃ t, exec row s = .next t ∧ t.pending = s.pending ∧ closes t flush) ∧
      (x.owner = port → x.state = .faulted →
        ∃ t, exec row s = .next t ∧ t.pending = s.pending ∧ t.hw.mem = s.hw.mem ∧ (t.hw.ctx n).state = .closing ∧ (t.hw.ctx n).flush = true) ∧
      ((x.owner ≠ port ∨ x.state = .free ∨ x.state = .quiescing ∨ x.state = .closing) →
        ∃ t, exec row s = .next t ∧ t.pending = s.pending ∧ s.hw.OnlyCtx t.hw n ∧ t.hw.ctx n = { x with cmdErr := true })) ∧
    (∀ (ring : Nat) (index : W32) (c : Cmd),
      let w := s.hw.ring ring
      let flush := (c.f 0x19 1).testBit 0
      s.hw.Ready ring index 0x35 c →
      (w.module = false → w.ctx = n → (x.state = .opened ∨ x.state = .active) →
        ∃ t, exec (.contextClose ring index) s = .next t ∧ t.pending = s.pending ∧ t.hw.Ended ring index 0 0 ∧ closes t flush) ∧
      (w.module = true → c.f 0x18 1 % 16 = n → (x.state = .opened ∨ x.state = .active) → x.epoch.toNat = c.f 0x1A 1 →
        ∃ t, exec (.contextClose ring index) s = .next t ∧ t.pending = s.pending ∧
          t.hw.cmd ring index = some { c with phase := .blocked } ∧ (t.hw.ctx n).closers = x.closers ++ [(ring, index)] ∧ closes t flush) ∧
      (w.module = true → c.f 0x18 1 % 16 = n → (x.state = .free ∨ x.state = .closing ∨ x.epoch.toNat ≠ c.f 0x1A 1) →
        ∃ t, exec (.contextClose ring index) s = .next t ∧ t.pending = s.pending ∧ t.hw.Ended ring index 0x0C 0x0107 ∧
          s.hw.OnlyCmd t.hw ring index ∧ t.hw = { s.hw with rings := t.hw.rings }))

/-- QUIESCE_EXPIRY, TEARDOWN_COMPLETE and NUMBER_HOLD_EXPIRY (R73, R74, R92, R146): the expiry brings a QUIESCING context to CLOSING in
FLUSH mode. A CLOSING context waits until its output tiles that were being drained have finished and every memory operation that it
issued is acknowledged; then, in FLUSH mode, its frames not yet sent
are discarded, and once the rest of teardown is done too the context is FREE with its epoch one higher and its number in hold, and every
CONTEXT_CLOSE that waited has ended; no ring changes its state or loses a record. The hold ends. -/
def Obligations.ContextsEnd : Prop :=
  ∀ (n : Nat) (s : State),
    let x := s.hw.ctx n
    let h := if x.flush then s.hw.flushFrames n else s.hw
    s.hw.ks2.powered = true → n < s.hw.ctxs.length →
    (x.state = .quiescing →
      ∃ t, exec (.quiesceExpiry n) s = .next t ∧ t.pending = s.pending ∧
        ((∀ r ∈ s.hw.ctxRings n, ∀ d ∈ (s.hw.ring r).running, ∀ l, d.work ≠ .prefetch l) → t.hw.mem = s.hw.mem) ∧
        (t.hw.ctx n).state = .closing ∧ (t.hw.ctx n).flush = true ∧ (t.hw.ctx n).expired = true ∧ (t.hw.ctx n).epoch = x.epoch) ∧
    (x.state = .closing → s.hw.accessesDone n = false → exec (.teardownComplete n) s = .next s) ∧
    (x.state = .closing → s.hw.accessesDone n = true → h.tornDown n = true →
      ∃ t, exec (.teardownComplete n) s = .next t ∧ t.pending = s.pending ∧ t.hw.mem = s.hw.mem ∧
        (t.hw.ctx n).state = .free ∧ (t.hw.ctx n).epoch = x.epoch + 1 ∧ (t.hw.ctx n).hold = true ∧ (t.hw.ctx n).owner = x.owner ∧
        (∀ k, k ≠ n → t.hw.ctx k = s.hw.ctx k) ∧
        (∀ r, t.hw.ring r = { s.hw.ring r with running := (t.hw.ring r).running }) ∧
        ∀ y ∈ x.closers, (s.hw.ring y.1).module = true → ∀ c, s.hw.cmd y.1 y.2 = some c →
          ∃ c', t.hw.cmd y.1 y.2 = some c' ∧ c'.phase = .done) ∧
    (x.state = .closing → s.hw.accessesDone n = true → h.tornDown n = false →
      ∃ t, exec (.teardownComplete n) s = .next t ∧ t.pending = s.pending ∧ t.hw = h) ∧
    (x.state = .free →
      ∃ t, exec (.numberHoldExpiry n) s = .next t ∧ t.pending = s.pending ∧ s.hw.OnlyCtx t.hw n ∧ t.hw.ctx n = { x with hold := false })

/-- BIND_REQUEST_RECEIVE, BIND_ANSWER, BIND_RETRY and MSG_NACK (R81, R82, R93, R242): a request is answered with the context that holds
the job, or NOT_FOUND; an answer binds every message of the context toward the peer, and toward each peer for which the answerer stands in (R377), but those that
left and that no command awaits, which are done; a NACK marks the message that was not found, or ends the command that sent it, with
CONTEXT_GONE or FENCED, and no command otherwise than so, where no entry of a WAIT_PREFETCH awaits it; that the first such message queued is
meant is the model's choice (log 50). A message marked is asked about again. A control frame seen before changes nothing but
acknowledgements. -/
def Sys2Proof.Claims.MessagesAreBound : Prop :=
  (∀ (fport link : Nat) (src : Coord) (job : W32) (id : W16) (s : State), s.hw.ks2.powered = true →
    ∃ t, exec (.bindRequestReceive fport link src job id) s = .next t ∧ t.pending = s.pending ∧
      match s.hw.jobContext job with
      | some n => s.hw.Answers t.hw src 0x11 (n + 256 * (s.hw.ctx n).epoch.toNat) job.toNat 0
      | none => s.hw.Answers t.hw src 0x10 (1 + 65536 * id.toNat) 0 (coordNat s.hw.self)) ∧
  (∀ (n : Nat) (s : State) (o : OutMsg), s.hw.ks2.powered = true → s.hw.outMsgs[n]? = some o → o.notFound = true →
    ∃ t, exec (.bindRetry n) s = .next t ∧ t.pending = s.pending ∧ t.hw = { s.hw with outMsgs := t.hw.outMsgs } ∧
      t.hw.outMsgs = s.hw.outMsgs.set n { o with notFound := false, sent := false, queued := 0 }) ∧
  (∀ (p l : Nat) (c : Ctrl) (s : State),
    let k := s.hw.link p l
    let peer : Coord := c.src.setWidth 18
    let job : W32 := c.arg1.setWidth 32
    let b : Nat × Byte := (bits c.arg0.toNat 3 0, BitVec.ofNat 8 (bits c.arg0.toNat 15 8))
    s.hw.ks2.powered = true → c.op = 0x11 → k.carries = true → ctrlCrc c = c.crc → k.speaks c = true → s.hw.ctrlForMe c = true →
    (ctrlNew k.ctrlSeen c.seq = false →
      ∃ t, exec (.bindAnswer p l c) s = .next t ∧ t.pending = s.pending ∧ s.hw.OnlyLink t.hw p l) ∧
    (∀ n, ctrlNew k.ctrlSeen c.seq = true →
      (List.range 16).find? (fun n => (s.hw.ctx n).state != .free && (s.hw.ctx n).plan.jobId == job) = some n →
      ∃ t, exec (.bindAnswer p l c) s = .next t ∧ t.pending = s.pending ∧
        s.hw.OnlyLink { t.hw with binds := s.hw.binds, outMsgs := s.hw.outMsgs, loose := s.hw.loose } p l ∧
        ((∀ o ∈ s.hw.outMsgs, o.srcCtx = n → s.hw.answers peer o.dst = true → o.bound = none → o.dst = peer) →
          t.hw.binds.getLast? = some { ctx := n, peer := peer, peerCtx := b.1, epoch := b.2 }) ∧
        (∀ o ∈ t.hw.outMsgs, o.srcCtx = n → s.hw.answers peer o.dst = true → o.bound ≠ none) ∧
        (∀ o ∈ s.hw.outMsgs, o.srcCtx = n → s.hw.answers peer o.dst = true → o.bound = none → (o.sent = false ∨ o.cmd ≠ none) →
          { o with bound := some b } ∈ t.hw.outMsgs) ∧
        ∀ o ∈ s.hw.outMsgs, (o.srcCtx ≠ n ∨ s.hw.answers peer o.dst = false ∨ o.bound ≠ none) → o ∈ t.hw.outMsgs)) ∧
  (∀ (p l : Nat) (c : Ctrl) (s : State) (o : OutMsg),
    let k := s.hw.link p l
    let id : W16 := BitVec.ofNat 16 (bits c.arg0.toNat 31 16)
    let peer : Coord := c.arg2.setWidth 18
    let reason := bits c.arg0.toNat 7 0
    s.hw.ks2.powered = true → c.op = 0x10 → k.carries = true → ctrlCrc c = c.crc → k.speaks c = true → s.hw.ctrlForMe c = true →
    ctrlNew k.ctrlSeen c.seq = true →
    s.hw.outMsgs.find? (fun o => o.msgId == id && s.hw.answers peer o.dst && !msgIsReply o.msg && (o.sent || o.queued != 0)) = some o →
    (reason = 1 →
      ∃ t, exec (.msgNack p l c) s = .next t ∧ t.pending = s.pending ∧ s.hw.OnlyLink { t.hw with outMsgs := s.hw.outMsgs } p l ∧
        t.hw.outMsgs = s.hw.outMsgs.map fun x => if x = o then { o with notFound := true } else x) ∧
    (∀ r i d, (reason = 2 ∨ reason = 4) → o.cmd = some (r, i) → s.hw.cmd r i = some d → d.phase ≠ .done →
      let status := if reason = 2 then 0x13 else 0x16
      ∃ t, exec (.msgNack p l c) s = .next t ∧ t.pending = s.pending ∧ t.hw.mem = s.hw.mem ∧
        t.hw.Ended r i status (coordNat peer) ∧ o ∉ t.hw.outMsgs ∧
        ((∀ a ∈ s.hw.accesses, a.entry = 0) → ∀ r' i' d', s.hw.cmd r' i' = some d' → t.hw.cmd r' i' = some d' ∨ t.hw.Ended r' i' status (coordNat peer)) ∧
        ((∀ a ∈ s.hw.accesses, a.ctx ≠ o.srcCtx) → (reason = 4 ∨ msgLone o.msg = true) → s.hw.OnlyCmd t.hw r i ∧
          s.hw.OnlyLink { t.hw with rings := s.hw.rings, outMsgs := s.hw.outMsgs, binds := s.hw.binds } p l)))

/-- CONTEXT_MESSAGE_RECEIVE (R82, R85): a context that takes traffic under the epoch named takes the message: a signal in its range goes on
its way to the object, and one beyond it is answered so; any other context discards it, counts it, and answers CONTEXT_GONE. -/
def Sys2Proof.Claims.ContextsTakeMessages : Prop :=
  ∀ (fport link : Nat) (src : Coord) (id : W16) (n : Nat) (epoch : Byte) (step : Option W32) (m : Msg) (s : State),
    let x := s.hw.ctx n
    let row : Instr := .contextMessageReceive fport link src id n epoch step m
    s.hw.ks2.powered = true → n < s.hw.ctxs.length →
    ((x.live = false ∨ x.epoch ≠ epoch) →
      ∃ t, exec row s = .next t ∧ t.pending = s.pending ∧ t.hw.ctx n = { x with discarded := satAdd x.discarded 1 } ∧
        (∀ k, k ≠ n → t.hw.ctx k = s.hw.ctx k) ∧
        ({ s.hw with ctxs := t.hw.ctxs } : Hw).Answers t.hw src 0x10 (2 + 65536 * id.toNat) ((step.getD 0).toNat) (coordNat s.hw.self)) ∧
    (x.live = true → x.epoch = epoch →
      (∀ idx set v, m = .signal idx set v →
        (idx < x.plan.syncCount → ∃ t, exec row s = .next t ∧ t.pending = s.pending ∧ t.hw = { s.hw with syncFlight := s.hw.syncFlight ++
          [{ obj := x.plan.syncBase + idx, set := set, value := v, source := 128, reply := some (src, 0, id) }] }) ∧
        (x.plan.syncCount ≤ idx → ∃ t, exec row s = .next t ∧ t.pending = s.pending ∧ t.hw.syncFlight = s.hw.syncFlight ∧
          t.hw.rings = s.hw.rings ∧ s.hw.SameSetup t.hw ∧ s.hw.Posts t.hw src (.applied id false))) ∧
      (∀ k, m = .accepted k → k < x.chans.length → ∃ t, exec row s = .next t ∧ t.pending = s.pending ∧ s.hw.OnlyCtx t.hw n ∧
        (t.hw.ctx n).chan k = { x.chan k with accepted := true }))

/-- Messages are bound to contexts, and contexts take them (03). -/
def Obligations.MessagesReachContexts : Prop := Sys2Proof.Claims.MessagesAreBound ∧ Sys2Proof.Claims.ContextsTakeMessages

/-! ## Memory (08, 14) -/

/-- XLAT_INV and XLAT_INV_DONE (R226): the owning port's write and its end leave no cached translation of the context on any die; a write
of the other port has no effect. -/
def Sys2Proof.Claims.TranslationsAreDropped : Prop :=
  ∀ (n : Nat) (s : State),
    let x := s.hw.ctx n
    let drops (row : Instr) (busy : Bool) : Prop :=
      ∃ t, exec row s = .next t ∧ t.pending = s.pending ∧ t.hw = { s.hw with ctxs := t.hw.ctxs, dies := t.hw.dies } ∧
        t.hw.ctx n = { x with xlatBusy := busy } ∧ (∀ k, k ≠ n → t.hw.ctx k = s.hw.ctx k) ∧
        ∀ d, (t.hw.die d).xlat = (s.hw.die d).xlat.filter (fun y => y.ctx != n) ∧ t.hw.die d = { s.hw.die d with xlat := (t.hw.die d).xlat }
    s.hw.ks2.powered = true → n < s.hw.ctxs.length →
    (∀ port, s.hw.dark (ctxOff n) = false → s.hw.reaches port = true → x.owner = port → drops (.xlatInv port n) true) ∧
    (∀ port, s.hw.dark (ctxOff n) = false → x.owner ≠ port → exec (.xlatInv port n) s = .next s) ∧
    (x.xlatBusy = true → drops (.xlatInvDone n) false)

/-- HBM_RATE_SET, HBM_LOCAL_SET and HBM_RETRAIN_DONE (R213, R215): with every context FREE a legal rate is taken and every stack trains,
and a legal size is taken and moves no data: what a stack holds at an offset is found at the address that names them under the new size,
poison with it. Any other write has no effect. During start-up a write before step 8 sets its field, and the stacks train at that step; a
later one has no effect until READY (the model's choice, log 35). The end of training lets waiting requests in, in order, and then the accesses that
waited. -/
def Sys2Proof.Claims.RateAndMapAreSet : Prop :=
  ∀ (s : State), s.hw.ks2.powered = true →
    (∀ rate, s.hw.dark 0x108 = false → rate < 3 → s.hw.allFree = true → s.hw.ks.boot ≠ .starting →
      ∃ t, exec (.hbmRateSet rate) s = .next t ∧ t.pending = s.pending ∧
        t.hw = { s.hw with lim := { s.hw.lim with rate := rate }, dies := t.hw.dies } ∧ t.hw.dies.length = s.hw.dies.length ∧
        ∀ d, d < s.hw.dies.length → t.hw.die d = { s.hw.die d with hbm := { s.hw.hbm d with training := true } }) ∧
    (∀ rate, s.hw.dark 0x108 = false → rate < 3 → s.hw.allFree = true → s.hw.ks.boot = .starting → s.hw.ks.step < 8 →
      exec (.hbmRateSet rate) s = .next { s with hw := { s.hw with lim := { s.hw.lim with rate := rate } } }) ∧
    (∀ rate, (3 ≤ rate ∨ s.hw.allFree = false ∨ (s.hw.ks.boot = .starting ∧ 8 ≤ s.hw.ks.step)) → exec (.hbmRateSet rate) s = .next s) ∧
    (∀ gib, s.hw.dark 0x108 = false → gib ≤ 32 → s.hw.allFree = true → (s.hw.ks.boot = .starting → s.hw.ks.step < 8) →
      ∃ t, exec (.hbmLocalSet gib) s = .next t ∧ t.pending = s.pending ∧
        t.hw = { s.hw with lim := { s.hw.lim with localGib := gib }, mem := t.hw.mem, poison := t.hw.poison } ∧
        (Memory.wf s.hw.mem = true → s.hw.lim.localGib ≤ 32 →
          (∀ a b, a < 2 ^ 40 → b < 2 ^ 40 → stackOf s.hw.lim.localGib a = stackOf gib b →
            stackOffset s.hw.lim.localGib a = stackOffset gib b →
            cellGet t.hw.mem b = cellGet s.hw.mem a ∧ (b / 32 ∈ t.hw.poison ↔ a / 32 ∈ s.hw.poison)) ∧
          ∀ a, 2 ^ 40 ≤ a → cellGet t.hw.mem a = cellGet s.hw.mem a ∧ (a / 32 ∈ t.hw.poison ↔ a / 32 ∈ s.hw.poison))) ∧
    (∀ gib, (32 < gib ∨ s.hw.allFree = false ∨ (s.hw.ks.boot = .starting ∧ 8 ≤ s.hw.ks.step)) → exec (.hbmLocalSet gib) s = .next s) ∧
    (∀ micros, s.hw.training = true →
      ∃ (t : State) (u : Hw), exec (.hbmRetrainDone micros none) s = .next t ∧ t.pending = s.pending ∧ t.hw = u.retryHeld ∧
        ({ s.hw with dies := u.dies } : Hw).Tells u 1 ∧ u.dies = ({ s.hw with dies := s.hw.dies.map fun d =>
          { d with hbm := { d.hbm with training := false } } } : Hw).refillSlots.dies)

/-- Translations are dropped, and the HBM rate and the local size are set (08). -/
def Obligations.MemorySetUpChanges : Prop := Sys2Proof.Claims.TranslationsAreDropped ∧ Sys2Proof.Claims.RateAndMapAreSet

/-- HBM_REQUEST, its completion, ageing, and a slow bank (R209, R216-R218, R221, R223): a request, of the class that its requester gives
it, takes a slot where the caps of its bank, requester and class leave one, no request of its requester waits before it in any controller,
and a gather engine has room for its data, and waits otherwise; demand that reaches a read ahead of it moves that read to CRIT, and the
requester's own in place of a second one; a read ahead that R223 does not let its engine make changes nothing. A completed write changes its
32-byte group alone, and the line of the writing die that holds it; a completed read gives the group's bytes and says whether it is poisoned,
a gather engine's only once no earlier read of that engine is out, and that of a requester that was reset to nobody; then the requests and
the accesses that waited come again. Ageing raises one request by one class; a full bank is told and counted. -/
def Obligations.HbmServesRequests : Prop :=
  ∀ (k : Nat) (s : State),
    let b := s.hw.hbm k
    s.hw.ks2.powered = true → s.hw.diesOn = true → k < s.hw.dies.length →
    (∀ requester bank ahead group data,
      let q : HbmSlot := { requester := requester, bank := bank, cls := s.hw.requestClass requester ahead data.isSome, group := group
                           data := data, num := s.hw.requests }
      let up := List.map fun (x : HbmSlot) => if x.reached requester group then { x with cls := .crit } else x
      let b1 : Hbm := if ahead = 0 ∧ data = none then { b with slots := up b.slots, waiting := up b.waiting } else b
      let mine : Prop := ahead = 0 ∧ data = none ∧ ∃ x ∈ b.slots ++ b.waiting, x.requester = requester ∧ x.reached requester group = true
      let goes := !b.training && !(s.hw.dies.any fun d => d.hbm.waiting.any fun w => w.requester == requester) && b1.fits q &&
        s.hw.gatherRoom requester
      let allowed : Prop := ∀ d, ahead ≠ 0 → requesterDie requester = some d → s.hw.aheadOk d group = true
      (group < 2 ^ 35 → s.hw.homeDie (32 * group) = k → ahead ≤ 65536 → allowed →
        ∃ t, exec (.hbmRequest k requester bank ahead group data) s = .next t ∧ t.pending = s.pending ∧
          t.hw = { s.hw with dies := t.hw.dies, requests := t.hw.requests } ∧ (∀ d, d ≠ k → t.hw.die d = s.hw.die d) ∧
          (mine → t.hw.requests = s.hw.requests ∧ t.hw.die k = { s.hw.die k with hbm := b1 }) ∧
          (¬ mine → t.hw.requests = s.hw.requests + 1 ∧ t.hw.die k = { s.hw.die k with hbm :=
            if goes then { b1 with slots := b1.slots ++ [q] } else { b1 with waiting := b1.waiting ++ [q] } })) ∧
      (¬ (group < 2 ^ 35 ∧ s.hw.homeDie (32 * group) = k ∧ ahead ≤ 65536 ∧ allowed) →
        exec (.hbmRequest k requester bank ahead group data) s = .next s)) ∧
    (∀ n q ue corrected, b.slots[n]? = some q → b.mayIssue n = true → b.training = false →
      let gone := s.hw.setHbm k fun b => { b with slots := b.slots.eraseIdx n }
      let bs := s.hw.memRead (32 * q.group) 32
      let out := Out.hbmData (s.hw.homeDie (32 * q.group)) q.requester q.group bs (ue || s.hw.poison.contains q.group)
      let earlier : Prop := ∃ d ∈ gone.dies, ∃ x ∈ d.hbm.slots ++ d.hbm.waiting, x.requester = q.requester ∧ x.data = none ∧ x.gone = false ∧
        x.num ≤ q.num
      ∃ (t : State) (u : Hw), exec (.hbmRequestComplete k n ue corrected) s = .next t ∧ t.pending = s.pending ∧
        t.hw = u.refillSlots.retryHeld ∧
        (∀ bs, q.data = some bs → Memory.wf s.hw.mem = true →
          u = { gone with dies := u.dies, mem := u.mem, poison := u.poison } ∧ u.hbm k = gone.hbm k ∧
          (∀ a, cellGet u.mem a = if 32 * q.group ≤ a ∧ a < 32 * q.group + min 32 bs.length then bs.getD (a - 32 * q.group) 0
            else cellGet s.hw.mem a) ∧
          (∀ g, g ≠ q.group → (g ∈ u.poison ↔ g ∈ s.hw.poison)) ∧ (32 ≤ bs.length → q.group ∉ u.poison) ∧
          ∀ d l i, requesterDie q.requester = some d → l ∈ (u.die d).rcLines → i < min 32 bs.length →
            s.hw.ownDa (32 * q.group + i) / 128 = l.line → l.bytes.length = 128 →
            l.bytes.getD ((32 * q.group + i) % 128) 0 = bs.getD i 0) ∧
        (q.data = none →
          u.mem = s.hw.mem ∧ u.rings = s.hw.rings ∧ u.ctxs = s.hw.ctxs ∧ (ue = true → q.group ∈ u.poison) ∧
          (q.gone = true → ue = false → corrected = false → u = gone) ∧
          (q.gone = false → (∀ d m, q.requester ≠ .gatherEngine d m) → u.out.head? = some out) ∧
          (q.gone = false → (∃ d m, q.requester = .gatherEngine d m) →
            (¬ earlier → out ∈ u.out) ∧
            (earlier → (q.requester, q.num, q.group, bs, ue || s.hw.poison.contains q.group) ∈ u.reorder)))) ∧
    (∀ n q, b.slots[n]? = some q →
      ∃ t, exec (.hbmRequestAgeing k n) s = .next t ∧ t.pending = s.pending ∧ t.hw = { s.hw with dies := t.hw.dies } ∧
        (∀ d, d ≠ k → t.hw.die d = s.hw.die d) ∧ t.hw.die k = { s.hw.die k with hbm := { b with
          slots := b.slots.set n { q with cls := if q.cls = .prefetch then .bulk else .crit } } }) ∧
    (∀ bank, 16 ≤ (b.bank bank).length → (∀ x ∈ b.slowAt, x.1 = bank → x.2 + 1000000000 ≤ s.hw.now) →
      ∃ t, exec (.hbmBankSlow k bank) s = .next t ∧ t.pending = s.pending ∧ ({ s.hw with dies := t.hw.dies } : Hw).Tells t.hw 1 ∧
        (t.hw.hbm k).slow = satAdd b.slow 1 ∧ (t.hw.hbm k).slots = b.slots ∧ (bank, s.hw.now) ∈ (t.hw.hbm k).slowAt)

/-- MEMORY_SIDE_ADD (R219): every element of an addressed range of this module's HBM becomes the sum, maximum or minimum of itself and
the operand's, in the element's format; no other byte changes, poison spreads from a poisoned operand, and the counts are the
command's; poison and errors that the read of the range finds are found first. No line of the range stays present on the die that issued it.
Only ADD on FP32, BF16, INT32 and INT64, and MAX and MIN on FP32 and INT32, are performed, and none while the controller has no room. -/
def Sys2Proof.Claims.AddersCombineElements : Prop :=
  ∀ (die : Nat) (da : W64) (op e : Nat) (grad : Bool) (bytes : List Byte) (po : List Nat) (ring : Nat) (index : W32) (env : Env) (s : State),
    let w := elemBits e / 8
    let k := da.toNat % 2 ^ 52
    let n := bytes.length / w
    let row : Instr := .memorySideAdd die da op e grad bytes po ((ring, index), env)
    let u := s.hw.readErrors env (groupsOf k bytes.length)
    s.hw.ks2.powered = true → s.hw.diesOn = true →
    (((op = 1 ∧ (e = 0 ∨ e = 1 ∨ e = 6 ∨ e = 11)) ∨ ((op = 2 ∨ op = 3) ∧ (e = 0 ∨ e = 6))) → s.hw.ownRange da.toNat bytes.length = true →
      bits da.toNat 51 50 = 0 → s.hw.hbmBusy .bulk k = false → Memory.wf s.hw.mem = true →
      ∃ t, exec row s = .next t ∧ t.pending = s.pending ∧
        t.hw = { u with rings := t.hw.rings, mem := t.hw.mem, poison := t.hw.poison, dies := t.hw.dies } ∧
        s.hw.OnlyCmd t.hw ring index ∧
        (∀ d, t.hw.die d = { u.die d with rcLines := (t.hw.die d).rcLines, poisonWr := (t.hw.die d).poisonWr }) ∧
        (∀ d, d ≠ die → t.hw.die d = u.die d) ∧
        (∀ l, l ∈ (t.hw.die die).rcLines ↔ l ∈ (u.die die).rcLines ∧
          (l.line < s.hw.ownDa k / 128 ∨ s.hw.ownDa (k + bytes.length - 1) / 128 < l.line)) ∧
        (∀ i, i < n → leNat (cellRead t.hw.mem (k + w * i) w) =
          (addElem op e grad (leNat (cellRead s.hw.mem (k + w * i) w)) (fld bytes (w * i) w)).code % 256 ^ w) ∧
        (∀ a, (a < k ∨ k + w * n ≤ a) → cellGet t.hw.mem a = cellGet s.hw.mem a) ∧
        (∀ g ∈ s.hw.poison, g ∈ t.hw.poison) ∧ (∀ g ∈ u.poison, g ∈ t.hw.poison) ∧ (∀ i, i < n → ∀ g ∈ groupsOf (k + w * i) w, g - k / 32 ∈ po → g ∈ t.hw.poison) ∧
        ∀ c, s.hw.cmd ring index = some c → ∃ c', t.hw.cmd ring index = some c' ∧ c'.phase = c.phase ∧ c.sat ≤ c'.sat ∧ c.nan ≤ c'.nan ∧
          ∀ x ∈ c.poison, x ∈ c'.poison) ∧
    ((adderTakes op e = false ∨ s.hw.hbmBusy .bulk k = true) → exec row s = .next s)

/-- SRAM_SCRUB, STACK_LOSS and UE_SUPPRESSED (R207, R208, R228, R350, R352): the scrubber counts what it corrects and poisons the groups
it cannot; a parity error counts in CTRL_CE and empties its program slot, whose running commands go on with their image and are marked,
or drops the translations of its page; an error of an object faults its context with cause 5 (places 3 to 5 are the model's numbers,
log 35); the first loss of a stack takes the module OUT_OF_SERVICE, with cause 2 where it was in service, and a second changes nothing;
the errors held back are told and their number cleared. None of them changes a byte of memory but the loss, and the entries of a
WAIT_PREFETCH that a faulted context ends. -/
def Sys2Proof.Claims.ErrorsAreReported : Prop :=
  ∀ (s : State), s.hw.ks2.powered = true → s.hw.diesOn = true →
    (∀ die place tile row corrected uncorrectable, die < s.hw.dies.length → place < 3 →
      ∃ t, exec (.sramScrub die place tile row corrected uncorrectable) s = .next t ∧ t.pending = s.pending ∧ t.hw.mem = s.hw.mem ∧
        t.hw.rings = s.hw.rings ∧ t.hw.ctxs = s.hw.ctxs ∧ (t.hw.die die).sramCe = satAdd (s.hw.die die).sramCe corrected.length ∧
        (∀ g ∈ s.hw.poison, g ∈ t.hw.poison) ∧
        (place < 2 → ∀ g ∈ uncorrectable, keySpace (32 * g) = 1 → bits (32 * g) 49 46 = die → g ∈ t.hw.poison)) ∧
    (∀ die tile row corrected slots, die < s.hw.dies.length → 16 * die + tile < s.hw.tiles.length →
      ∃ t, exec (.sramScrub die 3 tile row corrected slots) s = .next t ∧ t.pending = s.pending ∧
        t.hw = { s.hw with rings := t.hw.rings, dies := t.hw.dies, tiles := t.hw.tiles } ∧
        (t.hw.die die).ctrlCe = satAdd (s.hw.die die).ctrlCe slots.length ∧
        ∀ k ∈ slots, (∀ n, t.hw.program die tile k n = none) ∧
          ∀ ring index c im, s.hw.cmd ring index = some c → c.usesSlot die tile k = true →
            s.hw.program die tile k (s.hw.ring ring).ctx = some im →
            ∃ c', t.hw.cmd ring index = some c' ∧ c'.phase = c.phase ∧ c'.work = c.work ∧ c'.spoiledOn die tile = true ∧
              t.hw.programOf c' die tile k (s.hw.ring ring).ctx = some im) ∧
    (∀ die tile row corrected pages, die < s.hw.dies.length →
      ∃ t, exec (.sramScrub die 4 tile row corrected pages) s = .next t ∧ t.pending = s.pending ∧
        t.hw = { s.hw with dies := t.hw.dies } ∧ (t.hw.die die).ctrlCe = satAdd (s.hw.die die).ctrlCe pages.length ∧
        (t.hw.die die).xlat = (s.hw.die die).xlat.filter fun x => !pages.contains x.page) ∧
    (∀ die tile row corrected ns,
      ∃ t, exec (.sramScrub die 5 tile row corrected ns) s = .next t ∧ t.pending = s.pending ∧
        ((∀ r, ∀ d ∈ (s.hw.ring r).running, ∀ l, d.work ≠ .prefetch l) → t.hw.mem = s.hw.mem ∧ t.hw.poison = s.hw.poison) ∧ ∀ n ∈ ns, n < 8192 → ∀ m, s.hw.objOwner n = some m → (s.hw.ctx m).live = true →
          (t.hw.ctx m).state = .faulted ∧ (t.hw.ctx m).cause = 5) ∧
    (∀ k cause, k < 16 → s.hw.dies.length = 16 → (s.hw.hbm k).lost = false →
      ∃ t, exec (.stackLoss k cause) s = .next t ∧ t.pending = s.pending ∧ (t.hw.hbm k).lost = true ∧ (t.hw.hbm k).ok = false ∧
        t.hw.flash.oos = true ∧ (s.hw.flash.oos = false → t.hw.flash.oosCause = 2 ∧ t.hw.ks.boot = .outOfService ∧
          t.hw.flash.oosCount = s.hw.flash.oosCount + 1)) ∧
    (∀ k cause, (s.hw.hbm k).lost = true → exec (.stackLoss k cause) s = .next s) ∧
    (∀ die, (s.hw.dieAux die).ueHeld ≠ 0 →
      ∃ t, exec (.ueSuppressed die) s = .next t ∧ t.pending = s.pending ∧ (s.hw.setAux die fun a => { a with ueHeld := 0 }).Tells t.hw 1)

/-- In-memory adders, and memory errors that are found (08, 14). -/
def Obligations.AddersAndErrors : Prop := Sys2Proof.Claims.AddersCombineElements ∧ Sys2Proof.Claims.ErrorsAreReported

/-! ## Mortar (01) -/

/-- FLIT_RECEIVE and MORTAR_NACK (R22, R23, R25) on a lane group in service: the expected flit advances the expected SEQ and is part of a
packet, a header beginning one and the last data delivering it where it is the next of its class; a CRC mismatch, and a gap not yet
answered (the model's choice, log 36), make the receiver discard until the expected flit comes, and send a NACK that names it; the flits
before a NACK's SEQ have arrived and the rest go again. A flit that is discarded does not advance the SEQ, and the window never grows
beyond 32. -/
def Sys2Proof.Claims.FlitsArriveInOrder : Prop :=
  ∀ (die port lg : Nat) (f : Flit) (s : State),
    let l := s.hw.lane die port lg
    let m := s.hw.mort die port
    let nack : Out := .flit die port lg (mkFlit (.raw (zeros 28)) 4 l.expect ((l.expect + 63) % 64))
    let keeps (t : State) (w : List Flit) : Prop :=
      w <+: (t.hw.lane die port lg).window ∧ (w.length ≤ 32 → (t.hw.lane die port lg).window.length ≤ 32) ∧
      t.hw = { s.hw with dies := t.hw.dies, out := t.hw.out } ∧ (t.hw.lane die port lg).disabled = false ∧
      (t.hw.lane die port lg).retraining = false
    s.hw.ks2.powered = true → s.hw.diesOn = true → l.disabled = false → l.retraining = false →
    (f.crc ≠ flitCrc f →
      ∃ t, exec (.flitReceive die port lg f) s = .next t ∧ t.pending = s.pending ∧ t.hw.mem = s.hw.mem ∧ t.hw.rings = s.hw.rings ∧
        t.hw.lane die port lg = { l with discarding := true } ∧
        (t.hw.mort die port).crcErr = satAdd (s.hw.mort die port).crcErr 1 ∧
        nack ∈ t.hw.out) ∧
    (f.crc = flitCrc f → 1 ≤ f.kind → f.kind ≤ 3 → f.seq = l.expect →
      ∃ t, exec (.flitReceive die port lg f) s = .next t ∧ t.pending = s.pending ∧ keeps t (ackFlits f.ack l.window) ∧
        (t.hw.lane die port lg).expect = (l.expect + 1) % 64 ∧ (t.hw.lane die port lg).discarding = false ∧
        (∀ x, f.kind = 1 → f.payload = .head x → (t.hw.lane die port lg).rx = some { head := x, data := [] }) ∧
        ∀ b x, f.kind ≠ 1 → f.payload = .raw b → l.rx = some x →
          let y : Packet := { x with data := (x.data ++ flitBytes (.raw b)).take (32 * x.head.words) }
          (f.kind = 2 → (t.hw.lane die port lg).rx = some y) ∧
          (f.kind = 3 → (t.hw.lane die port lg).rx = none ∧
            (m.early = [] → x.head.order = m.got.getD (x.head.cls % 4) 0 → x.head.dst = die → x.head.exit = none →
              .packet die y ∈ t.hw.out) ∧
            (m.early = [] → m.got.getD (x.head.cls % 4) 0 < x.head.order → (t.hw.mort die port).early = [y]))) ∧
    (f.crc = flitCrc f → 1 ≤ f.kind → f.kind ≤ 3 → f.seq ≠ l.expect → l.discarding = false → 32 < (l.expect + 64 - f.seq) % 64 →
      ∃ t, exec (.flitReceive die port lg f) s = .next t ∧ t.pending = s.pending ∧ keeps t (ackFlits f.ack l.window) ∧
        t.hw.out.head? = some nack ∧ (t.hw.lane die port lg).expect = l.expect ∧ (t.hw.lane die port lg).discarding = true ∧
        (t.hw.lane die port lg).rx = l.rx) ∧
    (∀ seq, (∃ x ∈ l.window, x.seq = seq) →
      let rest := ackFlits ((seq + 63) % 64) l.window
      ∃ t, exec (.mortarNack die port lg seq) s = .next t ∧ t.pending = s.pending ∧ keeps t rest ∧
        (t.hw.lane die port lg).expect = l.expect ∧ (t.hw.lane die port lg).rx = l.rx ∧
        ∀ x ∈ rest, .flit die port lg (mkFlit x.payload x.kind x.seq ((l.expect + 63) % 64)) ∈ t.hw.out)

/-- LANE_RETRAIN, LG_RETRAIN and LANE_RETRAIN_DONE (R27, R28): too many replays, or a write of LG_RETRAIN for the lane group in LGSEL, start a retrain,
which is counted; its end brings the lane group back, with a spare for a wire that failed where one may be used, and disables it otherwise:
the packets that it had not sent whole wait on the port, or are on another of its lane groups. -/
def Sys2Proof.Claims.LaneGroupsRetrain : Prop :=
  ∀ (die port : Nat) (s : State),
    let m := s.hw.mort die port
    let starts (row : Instr) (lg : Nat) : Prop :=
      ∃ t, exec row s = .next t ∧ t.pending = s.pending ∧ t.hw = { s.hw with dies := t.hw.dies, out := t.hw.out } ∧
        t.hw.lane die port lg = { s.hw.lane die port lg with retraining := true, replays := [], times := [] } ∧
        (∀ k, k ≠ lg → t.hw.lane die port k = s.hw.lane die port k) ∧ (t.hw.mort die port).retrains = min (m.retrains + 1) 0xFFFF
    s.hw.ks2.powered = true → s.hw.diesOn = true →
    (∀ lg, (s.hw.lane die port lg).disabled = false → (s.hw.lane die port lg).retraining = false →
      (s.hw.replaysTooMany die port lg = true → starts (.laneRetrain die port lg) lg) ∧
      (s.hw.dark (dieOff die + 0x40 * port) = false → lg = m.lgsel → starts (.lgRetrain die port) lg)) ∧
    ∀ (lg : Nat) (l : LaneGroup), l = s.hw.lane die port lg → l.retraining = true → l.disabled = false →
      let back (t : State) (x : LaneGroup) : Prop :=
        l.window <+: (t.hw.lane die port lg).window ∧
        t.hw.lane die port lg = { x with
          window := (t.hw.lane die port lg).window, queue := (t.hw.lane die port lg).queue
          packets := (t.hw.lane die port lg).packets, nextSeq := (t.hw.lane die port lg).nextSeq }
      (∃ t, exec (.laneRetrainDone die port lg none) s = .next t ∧ t.pending = s.pending ∧
        t.hw = { s.hw with dies := t.hw.dies, out := t.hw.out } ∧ back t { l with retraining := false }) ∧
      (∀ w, l.spares < 2 → l.substDone = false → m.substEn = true →
        ∃ t, exec (.laneRetrainDone die port lg (some w)) s = .next t ∧ t.pending = s.pending ∧
          t.hw = { s.hw with dies := t.hw.dies, out := t.hw.out } ∧
          back t
            { l with
              retraining := false, spares := l.spares + 1, substDone := true
              wire0 := if l.spares = 0 then w else l.wire0, wire1 := if l.spares = 0 then l.wire1 else w }) ∧
      (∀ w, (2 ≤ l.spares ∨ l.substDone = true ∨ m.substEn = false) → (m.failed = true ∨ minLanes port < m.active) →
        ∃ t, exec (.laneRetrainDone die port lg (some w)) s = .next t ∧ t.pending = s.pending ∧
          (t.hw.lane die port lg).disabled = true ∧ (t.hw.lane die port lg).retraining = false ∧
          (t.hw.lane die port lg).window = [] ∧
          (∀ x ∈ l.packets, x ∈ (t.hw.mort die port).waiting ∨ ∃ k, k ≠ lg ∧ x ∈ (t.hw.lane die port k).packets) ∧
          (t.hw.mort die port).disabledInsvc = m.disabledInsvc + 1)

/-- Flits arrive in order, and lane groups are trained again (01). -/
def Obligations.MortarCarriesFlits : Prop := Sys2Proof.Claims.FlitsArriveInOrder ∧ Sys2Proof.Claims.LaneGroupsRetrain

/-! ## Optical links (09) -/

/-- Ports and training (R244, R245, R247, R250, R259). A port that no plan names is enabled, its links DARK, or disabled, its links OFF with
the effects of a dead link, or retrained; a named one ignores the write. A carrier brings a link to TRAINING; λ that identify another
peer are told and not used, and the rest bring a new link to HELLO and one whose state is kept to its RESYNC, where one that came before acts
now, but for a link whose control λ is one of them, which stays down; that the peer of a link no λ of whose old peer is there is the one its
control λ identifies is the model's reading (log 50). A lost carrier and the end of a pause bring it to LOST, and the link-dead limit to DARK. -/
def Obligations.LinksTrainAndDie : Prop :=
  ∀ (p : Nat) (s : State), s.hw.ks2.powered = true →
    (s.hw.dark (portOff p) = false → s.hw.portNamed p = true →
      exec (.portEnable p) s = .next s ∧ exec (.portDisable p) s = .next s ∧ exec (.portRetrain p) s = .next s) ∧
    (s.hw.dark (portOff p) = false → s.hw.portNamed p = false → (s.hw.port p).en = false →
      ∃ t, exec (.portEnable p) s = .next t ∧ t.pending = s.pending ∧ t.hw = { s.hw with ports := t.hw.ports } ∧ (t.hw.port p).en = true ∧
        (∀ q, q ≠ p → t.hw.port q = s.hw.port q) ∧
        ∀ l, l < 4 → (t.hw.link p l).state = if (s.hw.link p l).valid = true ∧ (s.hw.link p l).state = .off ∧ s.hw.flash.oos = false
          then .dark else (s.hw.link p l).state) ∧
    (s.hw.dark (portOff p) = false → s.hw.portNamed p = false → (s.hw.port p).en = true → p < s.hw.ports.length →
      ∃ t, exec (.portDisable p) s = .next t ∧ t.pending = s.pending ∧ t.hw.mem = s.hw.mem ∧ (t.hw.port p).en = false ∧
        (∀ q, q ≠ p → t.hw.port q = s.hw.port q) ∧
        ∀ l, l < 4 → (s.hw.link p l).valid = true → (t.hw.link p l).state = .off ∧
          ((s.hw.link p l).state ≠ .off → (t.hw.link p l).replay = [] ∧ (t.hw.link p l).queue = [] ∧ (t.hw.link p l).peer = none)) ∧
    (s.hw.dark (portOff p) = false → s.hw.portNamed p = false →
      ∃ t, exec (.portRetrain p) s = .next t ∧ t.pending = s.pending ∧ t.hw = { s.hw with ports := t.hw.ports } ∧
        (∀ q, q ≠ p → t.hw.port q = s.hw.port q) ∧
        ∀ l, l < 4 → t.hw.link p l = if (s.hw.link p l).state = .up ∨ (s.hw.link p l).state = .paused
          then { s.hw.link p l with
            state := .training, kept := true, deadTimer := true, pauseFor := none, fromPause := false, change := none, rxNext := none
            resynced := false, heldResync := none }
          else s.hw.link p l) ∧
    ∀ l k, k = s.hw.link p l →
      (∀ present : LambdaSet, present ≠ 0 → k.valid = true → (k.state = .dark ∨ k.state = .lost ∨ k.state = .paused) →
        ∃ t, exec (.carrierDetect p l present) s = .next t ∧ t.pending = s.pending ∧ s.hw.OnlyLink t.hw p l ∧
          (t.hw.link p l).state = .training ∧ (t.hw.link p l).rx = s.hw.steer p l present ∧ (t.hw.link p l).kept = !(k.state == .dark)) ∧
      (∀ (present : LambdaSet) (ids : List (Nat × W64 × Nat)),
        let here := ids.filter fun (x : Nat × W64 × Nat) => present.getLsbD x.1
        let ctrl := if present.getLsbD k.rxCtrl then k.rxCtrl else (lambdas present).headD 0
        let lead := ((here.find? fun (x : Nat × W64 × Nat) => x.1 == ctrl).or here.head?).map (·.2)
        let moved := k.kept && !here.any fun (x : Nat × W64 × Nat) => x.2 == (k.uid, k.peerPort)
        let bad := here.filter fun (x : Nat × W64 × Nat) => k.otherPeer moved lead x.2.1 x.2.2 || s.hw.offPlan p l x.2.1
        let rx := s.hw.steer p l ((bad.map (·.1)).foldl lambdaDel present)
        let down := rx = 0 ∨ ∃ x ∈ bad, x.1 = ctrl
        k.state = .training →
        ∃ t, exec (.trainingComplete p l present ids) s = .next t ∧ t.pending = s.pending ∧
          (down ∨ k.kept = false ∨ k.heldResync = none → ({ s.hw with ports := t.hw.ports } : Hw).Tells t.hw bad.length ∧
            ∀ q m, (q ≠ p ∨ m ≠ l) → t.hw.link q m = s.hw.link q m) ∧
          (down → t.hw.link p l = k) ∧
          (¬ down → k.kept = true → k.heldResync = none →
            (t.hw.link p l).state = .training ∧ (t.hw.link p l).rx = rx ∧ (t.hw.link p l).rxCtrl = ctrl ∧
            (t.hw.link p l).resynced = true ∧ ∃ c ∈ (t.hw.link p l).ctrlOut, c.op = 0x03 ∧ c.arg0 = k.expect.setWidth 32 ∧ c.arg1 = Config.moduleUid) ∧
          (∀ c, ¬ down → k.kept = true → k.heldResync = some c → (t.hw.link p l).heldResync = none ∧
            (t.hw.link p l).state = if k.knows c = true then .up else .hello) ∧
          (¬ down → k.kept = false → (t.hw.link p l).state = .hello ∧ (t.hw.link p l).rx = rx ∧ (t.hw.link p l).rxCtrl = ctrl ∧
            (t.hw.link p l).nextSeq = 0 ∧ (t.hw.link p l).expect = 0 ∧ (t.hw.link p l).replay = [] ∧
            (s.hw.txDark p = false → ∃ c, t.hw.out.head? = some (.ctrl p l c) ∧ c.op = 0x01))) ∧
      (∀ lam x, k.rx.getLsbD lam = true → k.rxNext = some x → x.2.getLsbD lam = false →
        ∃ t, exec (.carrierLoss p l lam) s = .next t ∧ t.pending = s.pending ∧ s.hw.OnlyLink t.hw p l ∧
          t.hw.link p l = { k with rx := x.2, rxLset := x.1, rxNext := none }) ∧
      (∀ lam, k.rx.getLsbD lam = true → k.state = .up → (∀ x, k.rxNext = some x → x.2.getLsbD lam = true) →
        ∃ t, exec (.carrierLoss p l lam) s = .next t ∧ t.pending = s.pending ∧ ({ s.hw with ports := t.hw.ports } : Hw).Tells t.hw 1 ∧
          (∀ q m, (q ≠ p ∨ m ≠ l) → t.hw.link q m = s.hw.link q m) ∧
          t.hw.link p l = { k with state := .lost, kept := true, deadTimer := true, change := none, rxNext := none
                                   counts := { k.counts with carrierLoss := satAdd k.counts.carrierLoss 1 } }) ∧
      (k.deadTimer = true → (k.state = .lost ∨ k.state = .training) →
        ∃ t, exec (.linkDeadExpiry p l) s = .next t ∧ t.pending = s.pending ∧ t.hw.mem = s.hw.mem ∧ t.hw.ctxs = s.hw.ctxs ∧
          t.hw.logSeq = s.hw.logSeq + 1 ∧ (∀ q m, (q ≠ p ∨ m ≠ l) → t.hw.link q m = s.hw.link q m) ∧ (t.hw.link p l).state = .dark ∧
          (t.hw.link p l).replay = [] ∧ (t.hw.link p l).queue = [] ∧ (t.hw.link p l).change = none ∧ (t.hw.link p l).peer = none ∧
          (t.hw.link p l).kept = false ∧ ∀ c, k.toward = some c → ∀ b ∈ t.hw.binds, b.peer ≠ c) ∧
      (∀ us, k.pauseFor = some us → k.state = .paused →
        ∃ t, exec (.pauseExpiry p l) s = .next t ∧ t.pending = s.pending ∧ s.hw.OnlyLink t.hw p l ∧
          t.hw.link p l = { k with state := .lost, kept := true, deadTimer := true, pauseFor := none, noCarrier := false
                                   counts := { k.counts with carrierLoss := satAdd k.counts.carrierLoss 1 } })

/-- Control frames (R236, R238, R241, R243, R245, R248, R250, R252, R265, R267, R269, R377) on a link whose control λ carries them: one
whose CRC fails is counted and not acted on. HELLO is answered, and a peer without a common version told once; HELLO_ACK brings a link from
HELLO to UP, unless its peer is fenced; RESYNC brings one whose state is kept to UP, with what was not received sent again, or starts it
anew; PAUSE, PAUSE_ACK and RESUME; CREDIT; ACK; and the frames that are sent again. Nothing leaves a transmitter that a switchover has
darkened. HELLO, HELLO_ACK and ACK are taken whatever their SEQ (the model's choice, log 19). A HELLO_ACK of another peer than the plan
names is told once and brings the link nowhere; a RESYNC that comes before this side is trained waits for that, and a link that never left
UP resynchronises too (the model's reading, log 50). -/
def Obligations.ControlFramesAct : Prop :=
  ∀ (p l : Nat) (c : Ctrl) (s : State) (k : Link), s.hw.ks2.powered = true → k = s.hw.link p l →
    let sound := ctrlCrc c = c.crc ∧ k.speaks c = true
    let fresh := sound ∧ ctrlNew k.ctrlSeen c.seq = true
    let others (t : State) : Prop := ∀ q m, q / 2 ≠ p / 2 → t.hw.link q m = s.hw.link q m
    (c.op = 0x04 → k.carries = true → ctrlCrc c ≠ c.crc →
      ∃ t, exec (.ack p l c) s = .next t ∧ t.pending = s.pending ∧ t.hw.link p l = { k with counts := { k.counts with crcErr := satAdd k.counts.crcErr 1 } } ∧
        (∀ q m, (q ≠ p ∨ m ≠ l) → t.hw.link q m = s.hw.link q m) ∧ t.hw.mem = s.hw.mem ∧ t.hw.rings = s.hw.rings) ∧
    (c.op = 0x01 → k.carries = true → sound →
      ∃ t, exec (.hello p l c) s = .next t ∧ t.pending = s.pending ∧
        (s.hw.txDark p = false → ∃ f, t.hw.out.head? = some (.ctrl p l f) ∧ f.op = 0x02) ∧
        (t.hw.link p l).state = k.state ∧ (∀ q m, (q ≠ p ∨ m ≠ l) → t.hw.link q m = s.hw.link q m) ∧
        ({ s.hw with ports := t.hw.ports } : Hw).Tells t.hw (b2n (!k.agrees c && !k.mismatchTold))) ∧
    (k.state = .hello → s.hw.txDark p = true → exec (.helloResend p l) s = .next s) ∧
    (k.state = .hello → s.hw.txDark p = false →
      ∃ t f, exec (.helloResend p l) s = .next t ∧ t.pending = s.pending ∧ t.hw = { s.hw with out := .ctrl p l f :: s.hw.out } ∧ f.op = 0x01) ∧
    (c.op = 0x02 → k.state = .hello → sound → k.agrees c = true →
      ∃ t, exec (.helloAck p l c) s = .next t ∧ t.pending = s.pending ∧ others t ∧
        (s.hw.uidFenced c.arg1 = true → s.hw.OnlyLink t.hw p l ∧ (t.hw.link p l).state = .hello) ∧
        (s.hw.uidFenced c.arg1 = false → k.wrongPeer c = true → (t.hw.link p l).state = .hello ∧ (t.hw.link p l).miswireTold = true ∧
          ({ s.hw with ports := t.hw.ports } : Hw).Tells t.hw (b2n (!k.miswireTold))) ∧
        (s.hw.uidFenced c.arg1 = false → k.wrongPeer c = false → (∃ n, 1 ≤ n ∧ n ≤ 3 ∧ ({ s.hw with ports := t.hw.ports } : Hw).Tells t.hw n) ∧
          (t.hw.link p l).state = .up ∧ (t.hw.link p l).kept = true ∧ (t.hw.link p l).uid = c.arg1 ∧
          (t.hw.link p l).rx = s.hw.steer p l (c.arg3.setWidth 34 &&& k.rx) ∧ (t.hw.link p l).credits = bits c.arg2.toNat 63 48 ∧
          (t.hw.link p l).tx = s.hw.minSet p l)) ∧
    (c.op = 0x03 → fresh → k.state = .training → k.kept = true → k.resynced = false →
      ∃ t, exec (.resync p l c) s = .next t ∧ t.pending = s.pending ∧ s.hw.OnlyLink t.hw p l ∧ (t.hw.link p l).state = .training ∧
        (t.hw.link p l).heldResync = some c) ∧
    (c.op = 0x03 → fresh → (k.state = .training ∧ k.kept = true ∧ k.resynced = true ∨ k.state = .up ∨ k.state = .paused) → k.knows c = true →
      let again := ackBefore (BitVec.ofNat 16 (bits c.arg0.toNat 15 0)) (ackFrames c.ack k.replay)
      ∃ t, exec (.resync p l c) s = .next t ∧ t.pending = s.pending ∧ others t ∧ t.hw.mem = s.hw.mem ∧ t.hw.rings = s.hw.rings ∧
        (t.hw.link p l).state = (if k.state = .paused then .paused else .up) ∧ (t.hw.link p l).deadTimer = false ∧
        (t.hw.link p l).pauseFor = (if k.state = .paused then k.pauseFor else none) ∧
        (t.hw.link p l).rx = s.hw.steer p l (if k.state = .training then c.arg3.setWidth 34 &&& k.rx else c.arg3.setWidth 34) ∧
        (k.resynced = false → ∃ f ∈ (t.hw.link p l).ctrlOut, f.op = 0x03 ∧ f.arg1 = Config.moduleUid) ∧
        (t.hw.link p l).replay.map (fun f => (f.seq, f.payload)) = again.map (fun f => (f.seq, f.payload)) ∧
        (s.hw.txDark p = false → ∀ f ∈ (t.hw.link p l).replay, f.crc = frameCrc f ∧ Out.frame p l f ∈ t.hw.out)) ∧
    (c.op = 0x03 → fresh → k.state = .training → k.kept = true → k.resynced = true →
      (c.arg1 ≠ k.uid ∨ bits c.arg2.toNat 47 32 ≠ k.peerIncarnation.toNat) →
      ∃ t, exec (.resync p l c) s = .next t ∧ t.pending = s.pending ∧ t.hw.mem = s.hw.mem ∧ (t.hw.link p l).state = .hello ∧
        (t.hw.link p l).kept = false ∧ (t.hw.link p l).queue = [] ∧ (t.hw.link p l).replay = [] ∧ (t.hw.link p l).expect = 0 ∧
        (t.hw.link p l).rx = k.rx) ∧
    (c.op = 0x04 → k.carries = true → sound →
      ∃ t, exec (.ack p l c) s = .next t ∧ t.pending = s.pending ∧ s.hw.OnlyLink t.hw p l ∧
        t.hw.link p l = { k with
          replay := ackFrames c.ack k.replay
          ctrlOut := if k.ctrlOut.any (·.seq == c.cack) then (k.ctrlOut.dropWhile (·.seq != c.cack)).drop 1 else k.ctrlOut }) ∧
    (∀ n f, (k.ctrlOut.take 8)[n]? = some f → k.carries = true → s.hw.txDark p = false →
      ∃ t g, exec (.controlResend p l n) s = .next t ∧ t.pending = s.pending ∧ t.hw = { s.hw with out := .ctrl p l g :: s.hw.out } ∧
        g = sealCtrl { f with cack := k.ctrlSeen.getD 0xFFFF, ack := k.expect - 1 }) ∧
    (c.op = 0x12 → fresh → k.carries = true →
      ∃ t, exec (.credit p l c) s = .next t ∧ t.pending = s.pending ∧ s.hw.OnlyLink t.hw p l ∧
        (t.hw.link p l).credits = k.credits + c.arg0.toNat) ∧
    (c.op = 0x06 → fresh → k.legacy = false → (k.state = .up ∨ k.state = .paused) →
      ∃ t, exec (.pause p l c) s = .next t ∧ t.pending = s.pending ∧ s.hw.OnlyLink t.hw p l ∧ (t.hw.link p l).state = .paused ∧
        (t.hw.link p l).pauseFor = some c.arg0.toNat ∧ (t.hw.link p l).change = none ∧
        ∃ f ∈ (t.hw.link p l).ctrlOut, f.op = 0x07 ∧ f.arg0 = c.arg0) ∧
    (c.op = 0x07 → fresh → k.carries = true → k.pausing ≠ none →
      ∃ t, exec (.pauseAck p l c) s = .next t ∧ t.pending = s.pending ∧ s.hw.OnlyLink t.hw p l ∧
        (k.darken = none → (t.hw.link p l).pauseAcked = true ∧ (t.hw.link p l).tx = k.tx) ∧
        ∀ i, k.darken = some i → (t.hw.link p l).tx = lambdaDel k.tx i ∧ (t.hw.link p l).pausing = none ∧
          ((k.state = .up ∨ k.state = .paused) → (t.hw.link p l).state = .training ∧ (t.hw.link p l).kept = true)) ∧
    (∀ n, k.pausing = some n → k.darken ≠ none → s.hw.switchStops p = false →
      ∃ t, exec (.pauseAckTimeout p l) s = .next t ∧ t.pending = s.pending ∧ s.hw.OnlyLink t.hw p l ∧
        t.hw.link p l = { k with pausing := none, darken := none, dropping := (t.hw.link p l).dropping } ∧
        ∀ i, k.darken = some i → (t.hw.link p l).dropping = lambdaDel k.dropping i) ∧
    (∀ n, k.pausing = some n → (k.darken = none ∨ s.hw.switchStops p = true) → k.pauseAcked = false → n < 3 →
      ∃ t, exec (.pauseAckTimeout p l) s = .next t ∧ t.pending = s.pending ∧ s.hw.OnlyLink t.hw p l ∧
        (t.hw.link p l).pausing = some (n + 1) ∧ ∃ f ∈ (t.hw.link p l).ctrlOut, f.op = 0x06 ∧ f.arg0 = 1000) ∧
    (k.pausing = some 3 → (k.darken = none ∨ s.hw.switchStops p = true) → k.pauseAcked = false →
      ∃ t, exec (.pauseAckTimeout p l) s = .next t ∧ t.pending = s.pending ∧ t.hw.link p l = { k with pausing := some 4 } ∧
        ({ s.hw with ports := t.hw.ports } : Hw).Tells t.hw 1) ∧
    (c.op = 0x08 → fresh → k.state = .paused → k.noCarrier = false →
      ∃ t, exec (.resume p l c) s = .next t ∧ t.pending = s.pending ∧ others t ∧ t.hw.mem = s.hw.mem ∧ (t.hw.link p l).state = .up ∧
        (t.hw.link p l).pauseFor = none ∧ (t.hw.link p l).tx = k.tx)

/-- Data frames (R12, R235, R236, R238, R248, R249, R254, R257, R281, R283). A receiver takes the frame it expects, and no other: one that
cannot be read, and one beyond a gap, are discarded and named once; one already received is acknowledged; one of another version, and a COLL frame on a
legacy link, are not acted on. The first of a message opens its entry, and the last completes it and returns the credit. A sender sends the frame it picks with
the next SEQ, its CRC and the LSET in force and keeps it until it is acknowledged; a NACK makes it send again from the frame named, and 16
of them for one λ within 1 ms take the λ off the link, once no earlier change is under way; while a drop past its limit is not acknowledged
nothing is sent again (the last is the model's reading, log 50). A message that stays incomplete is discarded and its credit returned. A frame in
transit goes on toward its next hop, which for KIND 1 may be that of a stand-in (R377), or is dropped where none is left or where the next
link cannot carry its length (the last is the model's choice, log 53). -/
def Obligations.DataFramesArriveInOrder : Prop :=
  ∀ (p l : Nat) (s : State) (k : Link), s.hw.ks2.powered = true → k = s.hw.link p l →
    (∀ f env blocks wrong,
      let row : Instr := .dataFrameReceive p l (f, env) blocks wrong
      let errs := blocks.zip wrong
      let good (ts : List Nat) : Prop := (∃ n, k.decode f errs = .ok (n, ts)) ∧ frameCrcOk f = true
      let mine := f.version = k.version ∧ frameShape k.maxLen f = true ∧ (k.legacy = true → f.cls ≠ 3)
      let names (t : State) (lam : Nat) : Prop := ∃ g ∈ (t.hw.link p l).ctrlOut, g.op = 0x05 ∧ g.arg0 = BitVec.ofNat 32 (k.expect.toNat + 65536 * lam)
      (k.state = .up ∨ k.state = .paused) →
      (∀ lam, (k.decode f errs = .error lam ∨ ((∃ x, k.decode f errs = .ok x) ∧ lam = none ∧ frameCrcOk f = false)) →
        ∃ t, exec row s = .next t ∧ t.pending = s.pending ∧ t.hw.mem = s.hw.mem ∧ t.hw.rings = s.hw.rings ∧ t.hw.transit = s.hw.transit ∧
          (t.hw.link p l).expect = k.expect ∧ (t.hw.link p l).discarding = true ∧
          (t.hw.link p l).counts.crcErr = satAdd k.counts.crcErr 1 ∧ names t (lam.getD 0x3F)) ∧
      (∀ ts, good ts → ¬ mine →
        ∃ t, exec row s = .next t ∧ t.pending = s.pending ∧ s.hw.OnlyLink t.hw p l ∧ t.hw.out = s.hw.out ∧
          t.hw.link p l = { k with counts := (t.hw.link p l).counts }) ∧
      (∀ ts, good ts → mine → f.seq ≠ k.expect → (k.discarding = true ∨ (k.expect - f.seq).toNat ≤ 32768) →
        ∃ t, exec row s = .next t ∧ t.pending = s.pending ∧ s.hw.OnlyLink t.hw p l ∧ (t.hw.link p l).expect = k.expect ∧
          (t.hw.link p l).discarding = k.discarding) ∧
      (∀ ts, good ts → mine → f.seq ≠ k.expect → k.discarding = false → 32768 < (k.expect - f.seq).toNat →
        ∃ t, exec row s = .next t ∧ t.pending = s.pending ∧ s.hw.OnlyLink t.hw p l ∧ (t.hw.link p l).expect = k.expect ∧
          (t.hw.link p l).discarding = true ∧ names t 0x3F) ∧
      (∀ ts, good ts → mine → f.seq = k.expect →
        ∃ t b, exec row s = .next t ∧ t.pending = s.pending ∧ s.hw.OnlyLink b p l ∧ (b.link p l).expect = k.expect + 1 ∧
          (b.link p l).discarding = false ∧ (b.link p l).replay = ackFrames f.ack k.replay ∧
          let on : Hw := { b with transit := b.transit ++ [{ fport := p, frame := { f with poison := turnSet f.poison ts } }] }
          (f.kind = 2 → t.hw = if s.hw.forMe f = true then b.deliverFrame f ts env 0 else on) ∧
          (f.kind = 1 → k.entry f ts = none → t.hw = b) ∧
          ∀ e, f.kind = 1 → k.entry f ts = some e →
            (f.last = true → (∀ x ∈ (b.link p l).reasm, x.of f = false) ∧ (∃ g ∈ (b.link p l).ctrlOut, g.op = 0x12 ∧ g.arg0 = 1) ∧
              t.hw = if s.hw.forMe f = true then b.deliverFrame f e.turned env e.done else on) ∧
            (f.last = false → e ∈ (b.link p l).reasm ∧
              t.hw = if s.hw.forMe f = true then
                  (match b.deliverPart f e env with
                   | some h => h.setLink p l fun k => { k with reasm := k.reasm.filter (fun x => !x.of f) ++ [{ e with done := e.bytes }] }
                   | none => b)
                else on))) ∧
    (let b := s.hw.loopback.load p l
     let j := b.link p l
     ((s.hw.loopback.link p l).sends = false → exec (.frameTransmit p l) s = .next { s with hw := s.hw.loopback }) ∧
     ((s.hw.loopback.link p l).sends = true →
      ((b.sendWaits p l = true ∨ j.pick = none) → exec (.frameTransmit p l) s = .next { s with hw := b }) ∧
      (∀ i f, b.sendWaits p l = false → j.pick = some (i, f) →
        ∃ t g, exec (.frameTransmit p l) s = .next t ∧ t.pending = s.pending ∧ b.OnlyLink t.hw p l ∧ t.hw.out = .frame p l g :: b.out ∧
          g.seq = j.nextSeq ∧ g.ack = j.expect - 1 ∧ g.lset = j.force.1 ∧ g.crc = frameCrc g ∧ g.payload = f.payload ∧ g.dst = f.dst ∧
          t.hw.link p l = { j with
            queue := j.queue.eraseIdx i, replay := j.replay ++ [g], nextSeq := j.nextSeq + 1
            oldSet := j.oldSet.filter fun x => x.1 != j.nextSeq + 1, turn := if f.cls = 0 then j.turn else f.cls
            credits := if f.kind = 1 ∧ f.first = true then j.credits - 1 else j.credits }))) ∧
    (∀ c : Ctrl,
      let i := bits c.arg0.toNat 21 16
      let again := ackBefore (BitVec.ofNat 16 (bits c.arg0.toNat 15 0)) (ackFrames c.ack k.replay)
      let sends (t : State) : Prop :=
        (t.hw.link p l).replay.map (fun f => (f.seq, f.payload)) = again.map (fun f => (f.seq, f.payload)) ∧
        (s.hw.txDark p = false → k.unacked = none → ∀ f ∈ (t.hw.link p l).replay, f.crc = frameCrc f ∧ Out.frame p l f ∈ t.hw.out)
      let recent := (k.nacks.filter fun x => decide (s.hw.now < x.2 + 1000000)) ++ [(i, s.hw.now)]
      c.op = 0x05 → k.carries = true → ctrlCrc c = c.crc → k.speaks c = true → ctrlNew k.ctrlSeen c.seq = true →
      ((34 ≤ i ∨ (recent.filter (·.1 == i)).length < 16 ∨ k.tx.getLsbD i = false) →
        ∃ t, exec (.nackCrc p l c) s = .next t ∧ t.pending = s.pending ∧ s.hw.OnlyLink t.hw p l ∧ sends t ∧
          (t.hw.link p l).nacks = (if 34 ≤ i then k.nacks else recent) ∧
          (s.hw.txDark p = false → k.unacked = none → (t.hw.link p l).counts.replays = satAdd k.counts.replays again.length)) ∧
      (i < 34 → 16 ≤ (recent.filter (·.1 == i)).length → k.tx.getLsbD i = true → k.state = .up → k.legacy = false → (k.ctrl ≠ i ∨ k.pausing = none) →
        ∃ t, exec (.nackCrc p l c) s = .next t ∧ t.pending = s.pending ∧ t.hw.logSeq = s.hw.logSeq + 1 ∧ sends t ∧
          (t.hw.link p l).dropping.getLsbD i = true ∧
          (k.ctrl ≠ i → k.dropping = 0 → k.free = true → ∃ x, (t.hw.link p l).change = some x ∧ x.add = false ∧ x.lambda = i)) ∧
      (i < 34 → 16 ≤ (recent.filter (·.1 == i)).length → k.tx.getLsbD i = true → k.state = .up → k.legacy = false → k.ctrl = i →
        k.pausing = none → k.dropping = 0 →
        ∃ t, exec (.nackCrc p l c) s = .next t ∧ t.pending = s.pending ∧ t.hw.logSeq = s.hw.logSeq + 1 ∧ sends t ∧
          (t.hw.link p l).pausing = some 1 ∧ (t.hw.link p l).darken = some i ∧ (t.hw.link p l).tx = k.tx ∧
          ∃ g ∈ (t.hw.link p l).ctrlOut, g.op = 0x06)) ∧
    (∀ n, n < k.reasm.length →
      ∃ t, exec (.reassemblyExpiry p l n) s = .next t ∧ t.pending = s.pending ∧ (t.hw.link p l).reasm = k.reasm.eraseIdx n ∧
        (t.hw.link p l).counts.reasmDiscard = satAdd k.counts.reasmDiscard 1 ∧ (∃ f ∈ (t.hw.link p l).ctrlOut, f.op = 0x12 ∧ f.arg0 = 1) ∧
        ({ s.hw with ports := t.hw.ports } : Hw).Tells t.hw
          (b2n (match k.reasmAt with | some x => decide (x + 1000000000 ≤ s.hw.now) | none => true))) ∧
    (∀ n x, s.hw.transit[n]? = some x →
      let dst : Coord := x.frame.dst.setWidth 18
      let hop := if x.frame.kind = 1 then s.hw.redirect dst else dst
      (s.hw.hopReach hop = .gone → portDie x.fport < s.hw.dies.length →
        ∃ t, exec (.transitForward n) s = .next t ∧ t.pending = s.pending ∧
          t.hw = { s.hw with transit := s.hw.transit.eraseIdx n, dies := t.hw.dies } ∧
          (t.hw.die (portDie x.fport)).transitDrop = satAdd (s.hw.die (portDie x.fport)).transitDrop 1) ∧
      (∀ tp q m, s.hw.hopReach hop = .up → s.hw.topo = some tp →
        s.hw.chooseHop (bits x.frame.src.toNat 21 18) x.frame.cls hop dst (if x.frame.kind = 1 ∧ x.frame.cls ≠ 0 then x.frame.msgId.toNat else 0) = some (q, m) →
        ((s.hw.link q m).maxLen < payloadLen x.frame.payload → portDie x.fport < s.hw.dies.length →
          ∃ t, exec (.transitForward n) s = .next t ∧ t.pending = s.pending ∧
            t.hw = { s.hw with transit := s.hw.transit.eraseIdx n, dies := t.hw.dies } ∧
            (t.hw.die (portDie x.fport)).transitDrop = satAdd (s.hw.die (portDie x.fport)).transitDrop 1) ∧
        (payloadLen x.frame.payload ≤ (s.hw.link q m).maxLen →
        (∀ y ∈ s.hw.transit.take n, frameFlow y.frame ≠ frameFlow x.frame ∨ y.frame.dst ≠ x.frame.dst) →
        s.hw.flowHeld q m dst (frameFlow x.frame) = false → 2 ≤ (s.hw.link q m).slots x.frame.cls →
        ∃ t, exec (.transitForward n) s = .next t ∧ t.pending = s.pending ∧
          t.hw = { s.hw with transit := s.hw.transit.eraseIdx n, ports := t.hw.ports } ∧
          (t.hw.link q m).queue = (s.hw.link q m).queue ++ [{ x.frame with version := if (s.hw.link q m).legacy then 0x81 else 0x01 }])))

/-- Changes of λ (R251-R256). LAMBDA_SET ends with its reason where one applies, ends OK where the link already has the set, and else
starts with the lowest λ to drop. A receiver takes an added λ it acquired and lets a dropped one go, and refuses with reason 3 when it is
not UP, 2 while a change of its own is pending, and 1 for a λ it did not acquire, or where it would pass 32 receive channels (R231); the
frames of the new LSET are striped on the new set. An acknowledgement puts the change in force from its switch SEQ, or at once where the λ is
lent or a change follows (the model's choice, log 50); a refusal leaves the λ as they were, and so does a timeout, but that a λ to
be dropped leaves at once, and that frames wait for its acknowledgement (the model's reading, log 50). A link that borrows takes a λ of the pool first, then of a lender; one with
little to send gives its highest back. -/
def Obligations.LambdaChanges : Prop :=
  ∀ (p l : Nat) (s : State) (k : Link), s.hw.ks2.powered = true → k = s.hw.link p l →
    let starts (t : State) (a : Hw) (q m : Nat) (add : Bool) (i : Nat) (cmd : Option (Nat × W32)) (lend : Option (Nat × Nat)) : Prop :=
      let j := a.link q m
      (t.hw.link q m).change = some { add := add, lambda := i, lset := (j.lset + 1) % 4, switchSeq := j.nextSeq + 16, cmd := cmd, lend := lend } ∧
      (t.hw.link q m).tx = j.tx ∧
      ∃ c ∈ (t.hw.link q m).ctrlOut, c.op = (if add then 0x09 else 0x0B) ∧
        c.arg0 = BitVec.ofNat 32 (i + 256 * ((j.lset + 1) % 4) + 65536 * (j.nextSeq + 16).toNat)
    let quiet : Prop := k.dropping = 0 ∧ lambdaCount k.tx ≤ k.max ∧ (∀ i, 32 ≤ i → k.tx.getLsbD i = false) ∧
      (s.hw.dropChange p l).inUse (p / 2) ≤ (s.hw.oe (p / 2)).cap
    (∀ ring index c,
      let n := (s.hw.ring ring).ctx
      let want := c.lambdaMask
      s.hw.Ready ring index 0x32 c → c.work = .idle →
      (∀ r, s.hw.lambdaReason n c = some r →
        ∃ t, exec (.lambdaSet ring index) s = .next t ∧ t.pending = s.pending ∧ t.hw.Ended ring index 0x0C r ∧
          s.hw.OnlyCmd t.hw ring index ∧ t.hw = { s.hw with rings := t.hw.rings }) ∧
      (s.hw.lambdaReason n c = none → p = c.f 0x18 1 → s.hw.linkOf p (BitVec.ofNat 18 (c.f 0x1C 4)) = some l → k.change = none →
        k.unacked = none →
        (k.tx = want → ∃ t, exec (.lambdaSet ring index) s = .next t ∧ t.pending = s.pending ∧ t.hw.Ended ring index 0 0 ∧
          s.hw.OnlyCmd t.hw ring index ∧ t.hw = { s.hw with rings := t.hw.rings }) ∧
        (∀ i, (lambdas (k.tx &&& ~~~want)).head? = some i →
          ∃ t c', exec (.lambdaSet ring index) s = .next t ∧ t.pending = s.pending ∧ s.hw.OnlyCmd t.hw ring index ∧
            t.hw.cmd ring index = some c' ∧ c'.phase = .blocked ∧ s.hw.OnlyLink { t.hw with rings := s.hw.rings } p l ∧
            starts t s.hw p l false i (some (ring, index)) none))) ∧
    (∀ (c : Ctrl) (acquired : Bool),
      let lam := ctrlLambda c
      let answers (row : Instr) (op reason : Nat) (j : Link) : Prop :=
        ∃ t, exec row s = .next t ∧ t.pending = s.pending ∧ s.hw.OnlyLink t.hw p l ∧ (t.hw.link p l).rx = j.rx ∧
          (t.hw.link p l).rxLset = j.rxLset ∧ (t.hw.link p l).rxNext = j.rxNext ∧ (t.hw.link p l).tx = k.tx ∧
          ∃ f ∈ (t.hw.link p l).ctrlOut, f.op = op ∧ f.arg0 = c.arg0 ∧ f.arg1 = BitVec.ofNat 64 reason
      let lset := bits c.arg0.toNat 9 8
      let others := s.hw.rxOthers p l
      let has := acquired = true ∧ others.getLsbD lam = false ∧ lambdaCount others + lambdaCount (lambdaIns k.rxLast lam) ≤ 32
      k.carries = true → ctrlCrc c = c.crc → k.speaks c = true → ctrlNew k.ctrlSeen c.seq = true →
      (k.legacy = true → (c.op = 0x09 ∨ c.op = 0x0B) →
        ∃ t, exec (if c.op = 0x09 then .lambdaAdd p l c acquired else .lambdaDrop p l c) s = .next t ∧ t.pending = s.pending ∧
          s.hw.OnlyLink t.hw p l ∧ (t.hw.link p l).rx = k.rx ∧ (t.hw.link p l).tx = k.tx) ∧
      (c.op = 0x09 → k.legacy = false →
        (k.state ≠ .up → answers (.lambdaAdd p l c acquired) 0x0D 3 k) ∧
        (k.state = .up → k.change ≠ none → answers (.lambdaAdd p l c acquired) 0x0D 2 k) ∧
        (k.state = .up → k.change = none → ¬ has → answers (.lambdaAdd p l c acquired) 0x0D 1 k) ∧
        (k.state = .up → k.change = none → has → answers (.lambdaAdd p l c acquired) 0x0A 0 (k.nextRx lset (lambdaIns k.rxLast lam)))) ∧
      (c.op = 0x0B → k.legacy = false →
        (k.state ≠ .up → answers (.lambdaDrop p l c) 0x0D 3 k) ∧
        (k.state = .up → answers (.lambdaDrop p l c) 0x0C 0 (k.nextRx lset (lambdaDel k.rxLast lam)))) ∧
      (∀ add x, c.op = (if add then 0x0A else 0x0C) → k.state = .up → k.answered add c = some x →
        ∃ t, exec (if add then .lambdaAddAck p l c else .lambdaDropAck p l c) s = .next t ∧ t.pending = s.pending ∧ t.hw.mem = s.hw.mem ∧
          (t.hw.link p l).tx = (if add then lambdaIns k.tx x.lambda else lambdaDel k.tx x.lambda) ∧ (t.hw.link p l).lset = x.lset ∧
          ((t.hw.link p l).oldSet = none ∨ (t.hw.link p l).oldSet = some (x.switchSeq, k.force)) ∧
          (x.cmd = none → k.dropping = 0 → (t.hw.link p l).change = none →
            (t.hw.link p l).oldSet = if x.lend = none ∧ x.switchSeq ≠ k.nextSeq then some (x.switchSeq, k.force) else none)) ∧
      (∀ x, c.op = 0x0C → k.answered false c = none → k.unacked = some x → x.lambda = lam → lset = x.lset →
        ∃ t, exec (.lambdaDropAck p l c) s = .next t ∧ t.pending = s.pending ∧ t.hw.mem = s.hw.mem ∧ (t.hw.link p l).unacked = none ∧
          (s.hw.txDark p = false → ∀ f ∈ (t.hw.link p l).replay, f.crc = frameCrc f ∧ Out.frame p l f ∈ t.hw.out)) ∧
      (∀ x, c.op = 0x0D → k.state = .up → k.change = some x → (k.answered true c = some x ∨ k.answered false c = some x) →
        ∃ t, exec (.lambdaRefuse p l c) s = .next t ∧ t.pending = s.pending ∧ t.hw.mem = s.hw.mem ∧ (t.hw.link p l).tx = k.tx ∧
          (t.hw.link p l).lset = k.lset ∧ (x.cmd = none → quiet → (t.hw.link p l).change = none ∧ s.hw.OnlyLink t.hw p l))) ∧
    (∀ x, k.change = some x → k.state = .up →
      ∃ t, exec (.lambdaChangeTimeout p l) s = .next t ∧ t.pending = s.pending ∧ t.hw.mem = s.hw.mem ∧
        (t.hw.link p l).tx = (if x.add then k.tx else lambdaDel k.tx x.lambda) ∧ (t.hw.link p l).lset = (if x.add then k.lset else x.lset) ∧
        (t.hw.link p l).counts.lendFail = satAdd k.counts.lendFail 1 ∧
        (x.add = false → ∃ y, (t.hw.link p l).unacked = some y ∧ y.lambda = x.lambda ∧ y.lset = x.lset) ∧
        (x.cmd = none → quiet → (t.hw.link p l).change = none ∧ s.hw.OnlyLink t.hw p l)) ∧
    (s.hw.borrows p l = true →
      (∀ i, s.hw.poolLambda p l = some i →
        ∃ t, exec (.lambdaBorrow p l) s = .next t ∧ t.pending = s.pending ∧ s.hw.OnlyLink t.hw p l ∧ starts t s.hw p l true i none none) ∧
      (∀ q m i, s.hw.poolLambda p l = none → s.hw.lender p l = some ((q, m), i) →
        ∃ t, exec (.lambdaBorrow p l) s = .next t ∧ t.pending = s.pending ∧ s.hw.OnlyLink t.hw q m ∧
          starts t s.hw q m false i none (some (p, l)))) ∧
    (∀ i, k.free = true → s.hw.basicNames p l = true → s.hw.backlog p l < 8 → k.min < k.count → k.highest = some i →
      ∃ t, exec (.lambdaWithdraw p l) s = .next t ∧ t.pending = s.pending ∧ s.hw.OnlyLink t.hw p l ∧ starts t s.hw p l false i none none)

/-! ## Combs (10) -/

/-- The comb sources (R261-R264, R266, R267, R269-R271, R273): an evaluation keeps the deviations of ten samples from the commissioning
values, and a group whose lowest line lies at −1 dB or below is in WATCH; a spare that has settled is READY, and a switchover that waits
starts; a forced one waits for the spare, which another group then loses (the model's choice, log 37), or starts at once, and is refused
without a spare or beside another; step 4 changes the group's source, with the new map in flash; step 7 ends the switchover with no line disabled, and the group's
links that are UP return by RESYNC; a retested source is the spare again, or failed. -/
def Obligations.CombsSwitch : Prop :=
  ∀ (s : State) (m : Comb), s.hw.ks2.powered = true → m = s.hw.comb →
    (∀ power : List (List (List Int)),
      let seen (e : Nat) : List Int := (List.range 34).map fun j =>
        ((((power.getD e []).getD j []).take 10).map fun x => x - s.hw.commissioned (m.source (e / 8)) e j).sum
      ∃ t, exec (.combEvaluation power) s = .next t ∧ t.pending = s.pending ∧
        (t.hw.flash.oos = s.hw.flash.oos → ∀ e, e < 24 → e < s.hw.oes.length → (t.hw.oe e).dev = seen e) ∧
        ((s.hw.ks.boot = .starting ∨ s.hw.ks.boot = .recovery) → t.hw = { s.hw with oes := t.hw.oes }) ∧
        ∀ g j, g < 3 → j < 34 → s.hw.oes.length = 24 → m.watch.length = 3 → s.hw.ks.boot ≠ .starting → s.hw.ks.boot ≠ .recovery →
          t.hw.flash.oos = s.hw.flash.oos → (∀ w, m.switching = some w → w.group ≠ g) →
          median2 ((List.range 8).map fun e => (seen (8 * g + e)).getD j 0) ≤ -2000 → t.hw.comb.watch.getD g false = true) ∧
    (m.spareLit = true →
      (m.wantSwitch.idxOf? true = none → exec .spareReady s = .next { s with hw := { s.hw with comb := { m with spareReady := true } } }) ∧
      (∀ g sp, m.wantSwitch.idxOf? true = some g → m.spare = some sp → m.switching = none →
        ∃ t, exec .spareReady s = .next t ∧ t.pending = s.pending ∧
          t.hw.comb = { m with spareReady := true, wantSwitch := m.wantSwitch.set g false
                               switching := some { group := g, source := m.source g, spare := sp } } ∧
          ({ s.hw with comb := t.hw.comb, ports := t.hw.ports } : Hw).Tells t.hw 1 ∧
          ∀ x ∈ groupLinks g, (s.hw.link x.1 x.2).pauses = true → (t.hw.link x.1 x.2).pausing = some 1)) ∧
    (∀ g sp, g < 3 → s.hw.dark 0x124 = false → m.spare = some sp → m.switching = none → (∀ w ∈ m.wantSwitch, w = false) →
      m.wantSwitch.length = 3 →
      (m.spareLit = false → exec (.combForce g) s = .next { s with hw := { s.hw with comb :=
        { m with ctlGroup := g, wantSwitch := m.wantSwitch.set g true, spareLit := true, spareReady := false } } }) ∧
      (m.spareLit = true → m.spareReady = true →
        ∃ t, exec (.combForce g) s = .next t ∧ t.pending = s.pending ∧
          t.hw.comb.switching = some { group := g, source := m.source g, spare := sp } ∧ t.hw.comb.groupSrc = m.groupSrc ∧
          ({ s.hw with comb := t.hw.comb, ports := t.hw.ports } : Hw).Tells t.hw 1)) ∧
    (∀ g, g < 3 → s.hw.dark 0x124 = false → m.spare ≠ none → m.switching = none → m.spareReady = false →
      ∃ t, exec (.combForce g) s = .next t ∧ t.pending = s.pending ∧ t.hw.mem = s.hw.mem ∧ t.hw.comb.ctlGroup = g ∧
        t.hw.comb.wantSwitch = (List.range 3).map (· == g) ∧ t.hw.comb.spareLit = true ∧ t.hw.comb.switching = none) ∧
    (∀ g, s.hw.dark 0x124 = false → m.spare ≠ none → m.switching = none → 3 ≤ g % 4 →
      exec (.combForce g) s = .next { s with hw := { s.hw with comb := { m with ctlGroup := g % 4 } } }) ∧
    (∀ g, s.hw.dark 0x124 = false → (m.spare = none ∨ m.switching ≠ none) → exec (.combForce g) s = .next s) ∧
    (∀ w, m.switching = some w → w.dark = false →
      (∀ x ∈ groupLinks w.group, ∀ n, (s.hw.link x.1 x.2).pausing = some n → (s.hw.link x.1 x.2).state = .up → n = 4 ∨
        ((s.hw.link x.1 x.2).pauseAcked = true ∧ (s.hw.link x.1 x.2).replay = [])) →
      exec .switchoverSwitch s = .next { s with hw := { s.hw with comb :=
        { m with switching := some { w with dark := true }, groupSrc := m.groupSrc.set w.group w.spare, spare := none, spareLit := false, spareReady := false, retest := some w.source }, flash := s.hw.flash.record recHealth } }) ∧
    (∀ w micros power, m.switching = some w → w.dark = true → s.hw.oes.length = 24 → w.group < 3 →
      ∃ t, exec (.combSwitchDone micros power) s = .next t ∧ t.pending = s.pending ∧
        (∃ n, 1 ≤ n ∧ n ≤ 65 ∧ ({ s.hw with comb := t.hw.comb, ports := t.hw.ports, oes := t.hw.oes } : Hw).Tells t.hw n) ∧
        t.hw.comb = { m with switching := none, groupLost := m.groupLost.set w.group 0, watch := m.watch.set w.group false
                             watchClear := m.watchClear.set w.group none } ∧
        (∀ x ∈ groupLinks w.group, (s.hw.link x.1 x.2).valid = true → (s.hw.link x.1 x.2).state = .up →
          ((s.hw.link x.1 x.2).dropping = 0 → (t.hw.link x.1 x.2).pausing = none) ∧ (t.hw.link x.1 x.2).resynced = true ∧ ∃ c ∈ (t.hw.link x.1 x.2).ctrlOut, c.op = 0x03) ∧
        ∀ e, e < 24 → if e / 8 = w.group then (t.hw.oe e).disabled = 0 ∧
            (t.hw.oe e).dev = s.hw.deviations w.spare e (power.getD (e % 8) [])
          else t.hw.oe e = s.hw.oe e) ∧
    (∀ n (power : List Int), m.retest = some n → m.switching = none →
      let off (j : Nat) : Int := power.getD j 0 - (s.hw.flash.monitorPower.getD n []).getD j 0
      ∃ t, exec (.sourceRetest power) s = .next t ∧ t.pending = s.pending ∧
        ({ s.hw with comb := t.hw.comb, flash := s.hw.flash.record recHealth } : Hw).Tells t.hw 1 ∧
        ((∀ j, j < 34 → -100 < off j) →
          t.hw.comb = { m with retest := none, spare := some n, spareLit := false, spareReady := false }) ∧
        ((∃ j, j < 34 ∧ off j ≤ -100) → t.hw.comb = { m with retest := none, failed := setIns m.failed n }))

/-! ## Recovery (15) -/

/-- Resets (R360-R363, R404): a reset that the host may request, with no other in progress, starts in its domain with its cause, and the
domain loses what it loses; one of a part that is not there, or of a hardware domain below the EXPERT reset level, or beside another, sets
ERR and changes nothing else. A die reset and a module reset count as recoveries while a context is not FREE. -/
def Sys2Proof.Claims.ResetsStart : Prop :=
  ∀ (port k : Nat) (s : State),
    let rows : List (Nat × Instr × Domain × Nat × Bool × Bool) :=
      [(128, .engineReset port k, .engine (k % 16) (k / 16), 2, true, false), (256, .tileReset port k, .tile (k / 16) (k % 16), 3, true, false),
       (48, .portReset port k, .port k, 0, true, false), (24, .opticalEngineReset port k, .optical k, 0, true, false),
       (16, .dieReset port k, .die k, 4, true, !s.hw.allFree), (16, .contextReset port k, .context k, 8, false, false)]
    let starts (row : Instr) (d : Domain) (cause : Nat) (counted : Bool) (P : Hw → Prop) : Prop :=
      ∃ t r, exec row s = .next t ∧ t.pending = s.pending ∧ t.hw.ks.recovery = [r] ∧ r.domain = d ∧ r.cause = cause ∧ r.counted = counted ∧ P t.hw
    s.hw.ks2.powered = true → s.hw.dark 0x204 = false → s.hw.reaches port = true → s.hw.ks.boot ≠ .recovery →
    (∀ x ∈ rows, k < x.1 → s.hw.ks.recovery = [] → (x.2.2.2.2.1 = true → s.hw.expertLevel = true) →
      starts x.2.1 x.2.2.1 x.2.2.2.1 x.2.2.2.2.2 fun _ => True) ∧
    (∀ x ∈ rows, (x.1 ≤ k ∨ s.hw.ks.recovery ≠ [] ∨ (x.2.2.2.2.1 = true ∧ s.hw.expertLevel = false)) →
      exec x.2.1 s = .next { s with hw := { s.hw with ks := { s.hw.ks with resetErr := true } } }) ∧
    (s.hw.ks.recovery = [] → s.hw.expertLevel = true →
      (k < 128 → starts (.engineReset port k) (.engine (k % 16) (k / 16)) 2 false fun h =>
        ∀ w ∈ s.hw.engineWork (k % 16) (k / 16), ∀ c, h.cmd w.1 w.2 = some c → c.phase = .done) ∧
      (k < 256 → k < s.hw.tiles.length → starts (.tileReset port k) (.tile (k / 16) (k % 16)) 3 false fun h =>
        (h.tile (k / 16) (k % 16)).slots = [] ∧ (h.tile (k / 16) (k % 16)).strip = none ∧ (h.tile (k / 16) (k % 16)).banks = [] ∧
        (h.tile (k / 16) (k % 16)).unit = none ∧ (h.tile (k / 16) (k % 16)).drainRegs = {} ∧ (h.tile (k / 16) (k % 16)).elemRegs = {} ∧
        (h.tile (k / 16) (k % 16)).trgs = List.replicate 8 {}) ∧
      (k < 48 → starts (.portReset port k) (.port k) 0 false fun h =>
        h.mem = s.hw.mem ∧ ∀ l, l < 4 → (s.hw.link k l).valid = true → (h.link k l).state = .off) ∧
      (k < 24 → starts (.opticalEngineReset port k) (.optical k) 0 false fun h =>
        ∀ p l, p / 2 = k → l < 4 → (s.hw.link p l).valid = true → (h.link p l).state = .off) ∧
      (k < 16 → s.hw.dies.length = 16 → starts (.dieReset port k) (.die k) 4 (!s.hw.allFree) fun h =>
        (h.die k).rcLines = [] ∧ (h.die k).xlat = [] ∧ (∀ o, o / 512 = k → h.obj o = 0) ∧
        ∀ n, n < 16 → (h.ctx n).state ≠ .opened ∧ (h.ctx n).state ≠ .active ∧ (h.ctx n).state ≠ .quiescing)) ∧
    (s.hw.ks.recovery = [] → k < 16 → starts (.contextReset port k) (.context k) 8 false fun h =>
      (h.ctx k).state ≠ .opened ∧ (h.ctx k).state ≠ .active ∧ (h.ctx k).state ≠ .quiescing) ∧
    (s.hw.ks.recovery = [] → k < 2 → s.hw.ringBound k = true → s.hw.rings.length = 128 →
      starts (.moduleRingReset port k) (.ring k) 0 false fun h =>
        ((∀ r, ∀ d ∈ (s.hw.ring r).running, ∀ l, d.work ≠ .prefetch l) → h.mem = s.hw.mem) ∧
        ∀ r, (s.hw.ring r).module = true → (s.hw.ring r).port = k → (h.ring r).state = .stopped) ∧
    (s.hw.ks.recovery = [] → starts (.moduleReset port k) .module 0 (!s.hw.allFree) fun h =>
      h.rings = State.reset.hw.rings ∧ h.objs = [] ∧ h.topo = none ∧ h.flash.oos = s.hw.flash.oos ∧ (∀ n, n < 16 → (h.ctx n).state = .free) ∧
      ((s.hw.ks2.capAuto && s.hw.ks2.capValid) = false → ∀ a, (keySpace a ≠ 0 → cellGet h.mem a = 0) ∧
        (keySpace a = 0 → cellGet h.mem a = cellGet s.hw.mem a)))

/-- Recoveries that the module makes itself, and their end (R357-R360, R362, R364, R365, R371): a watchdog that has waited as long as
HANG_MS for a busy engine recovers its domain, and does nothing else before; a reset that is done is no longer in progress, and the module
goes OUT_OF_SERVICE in place of its return where the record says so, or its training found a footing fault; a tile is retired once; missed
heartbeats count from step 5 of start-up on, and the tenth makes KS1 lead through a module reset. -/
def Sys2Proof.Claims.RecoveriesEnd : Prop :=
  ∀ (s : State), s.hw.ks2.powered = true →
    (∀ e ms, s.hw.engineBusy e = true → s.hw.lim.hangMs ≤ ms →
      ∃ t, exec (.watchdogTest e ms) s = .next t ∧ t.pending = s.pending ∧
        ∃ r ∈ t.hw.ks.recovery, r.domain.covers (s.hw.atLevel (hangDomain e)) = true) ∧
    (∀ e ms, (s.hw.engineBusy e = false ∨ ms < s.hw.lim.hangMs) → exec (.watchdogTest e ms) s = .next s) ∧
    (∀ micros found r, s.hw.ks.recovery.find? s.hw.canReturn = some r →
      let left := s.hw.ks.recovery.filter (· != r)
      (r.oosCause = 0 → (∀ f ∈ found, f ≠ .footingFault) → (∀ d ∈ r.domain.dieList, ∀ p, p < 6 → ((s.hw.trained found).mort d p).failed = false) →
        ∃ t, exec (.resetDone micros found) s = .next t ∧ t.pending = s.pending ∧ t.hw.ks = { s.hw.ks with recovery := left } ∧
          t.hw.rings = s.hw.rings ∧ t.hw.ctxs = s.hw.ctxs ∧ t.hw.mem = s.hw.mem ∧ t.hw.flash = s.hw.flash) ∧
      (r.oosCause = 0 → (∃ f ∈ found, f = .footingFault) → s.hw.flash.oos = false →
        ∃ t, exec (.resetDone micros found) s = .next t ∧ t.pending = s.pending ∧ t.hw.flash.oos = true ∧ t.hw.flash.oosCause = 4 ∧
          t.hw.ks.boot = .outOfService) ∧
      (r.oosCause ≠ 0 → s.hw.flash.oos = false →
        ∃ t, exec (.resetDone micros found) s = .next t ∧ t.pending = s.pending ∧ t.hw.flash.oos = true ∧ t.hw.flash.oosCause = r.oosCause ∧
          t.hw.flash.oosCount = s.hw.flash.oosCount + 1 ∧ t.hw.ks.boot = .outOfService)) ∧
    (∀ d i, d < s.hw.dies.length → s.hw.dark (dieOff d + 0x704) = false →
      ∃ t, exec (.tileRetire d i) s = .next t ∧ t.pending = s.pending ∧
        if (s.hw.die d).retiredTiles.testBit (i % 16) = true then
          t.hw = { s.hw with dies := t.hw.dies } ∧ t.hw.die d = { s.hw.die d with retireSel := i % 16 }
        else ({ s.hw with dies := t.hw.dies, flash := t.hw.flash } : Hw).Tells t.hw 1 ∧
          t.hw.flash = ({ s.hw.flash with retiredTiles := s.hw.flash.retiredTiles ++ [(d, i % 16)] } : Flash).record recHealth ∧
          t.hw.die d = { s.hw.die d with retireSel := i % 16, retiredTiles := (s.hw.die d).retiredTiles + 2 ^ (i % 16) }) ∧
    (∀ seen, (s.hw.flash.noStandby = true ∨ s.hw.ks.leader ≠ 0 ∨ s.hw.ks.step < 5 ∨ s.hw.ks.boot = .recovery) → exec (.keystoneHeartbeatCheck seen) s = .next s) ∧
    (∀ seen, s.hw.flash.noStandby = false → s.hw.ks.leader = 0 → 5 ≤ s.hw.ks.step → s.hw.ks.boot ≠ .recovery → (seen = true ∨ s.hw.ks2.missed + 1 < 10) →
      exec (.keystoneHeartbeatCheck seen) s =
        .next { s with hw := { s.hw with ks2 := { s.hw.ks2 with missed := if seen then 0 else s.hw.ks2.missed + 1 } } }) ∧
    (s.hw.flash.noStandby = false → s.hw.ks.leader = 0 → 5 ≤ s.hw.ks.step → s.hw.ks.boot ≠ .recovery → 10 ≤ s.hw.ks2.missed + 1 →
      ∃ t, exec (.keystoneHeartbeatCheck false) s = .next t ∧ t.pending = s.pending ∧ t.hw.ks.leader = 1 ∧ t.hw.ks2.missed = 0 ∧
        t.hw.flash.noStandby = true ∧ ∃ r ∈ t.hw.ks.recovery, r.domain = .module)

/-- Resets start, and recoveries end (15). -/
def Obligations.ResetsStartAndEnd : Prop := Sys2Proof.Claims.ResetsStart ∧ Sys2Proof.Claims.RecoveriesEnd

/-! ## Start-up, firmware and keys (16) -/

/-- Start-up (R208, R387-R392, R395, R405): 50 V begins it at step 1 with nothing in memory; a step that finds nothing wrong is complete,
with what steps 4, 6, 7, 8, 9 and 12 do, step 9 giving every row of the flash list its spare, or, where a set has more than its spares, failing
the tile, whose rows leave the list, or the die; a footing fault takes the module OUT_OF_SERVICE, in start-up, in RECOVERY and at READY (R372;
log 39); KS1 leads before KS0 has passed; the counters are calibrated at step 7, and a port's clock is what the row says (R446). -/
def Obligations.StartUpProceeds : Prop :=
  ∀ (s : State),
    (s.hw.ks2.powered = true → exec .powerGood s = .next s) ∧
    (s.hw.ks2.powered = false →
      ∃ t, exec .powerGood s = .next t ∧ t.pending = s.pending ∧ t.hw.ks2.powered = true ∧ t.hw.ks.boot = .starting ∧ t.hw.ks.step = 1 ∧
        t.hw.mem = [] ∧ t.hw.poison = [] ∧ t.hw.rings = State.reset.hw.rings ∧ (∀ n, n < 16 → (t.hw.ctx n).state = .free) ∧
        (s.hw.ks.fwBusy = none → t.hw.flash = s.hw.flash) ∧ (∀ p, p < s.hw.hosts.length → (t.hw.host p).mem = (s.hw.host p).mem)) ∧
    (s.hw.ks2.powered = true →
      (∀ ms n, s.hw.nextStep = some n → n ≠ 4 → n ≠ 6 → n ≠ 7 → n ≠ 8 → n ≠ 9 → n ≠ 12 →
        exec (.startupStepComplete [] ms) s = .next { s with hw := { s.hw with ks := { s.hw.ks with step := n } } }) ∧
      (∀ ms, s.hw.nextStep = some 4 →
        ∃ t, exec (.startupStepComplete [] ms) s = .next t ∧ t.pending = s.pending ∧
          match s.hw.flash.select with
          | none => t.hw = { s.hw with ks := { s.hw.ks with boot := .recovery } }
          | some (k, f, rev) =>
            t.hw.flash = (if f = s.hw.flash then f else f.record recBoot) ∧
            t.hw = { s.hw with flash := t.hw.flash, ks := { s.hw.ks with step := 4, slot := k, reverted := rev, unconfirmed := f.trial && k == f.pref } }) ∧
      (∀ ms, s.hw.nextStep = some 6 →
        ∃ t, exec (.startupStepComplete [] ms) s = .next t ∧ t.pending = s.pending ∧
          t.hw = { s.hw with ks := { s.hw.ks with step := 6 }, hosts := t.hw.hosts } ∧
          ∀ p, p < s.hw.hosts.length → t.hw.host p = { s.hw.host p with configFrom := s.hw.now }) ∧
      (∀ ms, s.hw.nextStep = some 7 → s.hw.ks2.calibrated = true →
        exec (.startupStepComplete [] ms) s = .next { s with hw := { s.hw with ks := { s.hw.ks with step := 7 } } }) ∧
      (∀ ms, s.hw.nextStep = some 8 → exec (.startupStepComplete [] ms) s =
        .next { s with hw := { s.hw with ks := { s.hw.ks with step := 8 }, ks2 := { s.hw.ks2 with bootRate := s.hw.lim.rate } } }) ∧
      (∀ ms, s.hw.nextStep = some 9 →
        (s.hw.overfull = [] → exec (.startupStepComplete [] ms) s =
          .next { s with hw := { s.hw with ks := { s.hw.ks with step := 9 }, spared := s.hw.flash.rows, ks2 := { s.hw.ks2 with bootSpares := s.hw.spares } } }) ∧
        (∀ d tile row, s.hw.overfull = [(d, tile, row)] →
          ∃ t, exec (.startupStepComplete [] ms) s = .next t ∧ t.pending = s.pending ∧ t.hw.ks.step = 9 ∧
            (16 ≤ tile → t.hw.flash.oos = true ∧ t.hw.flash.rows = s.hw.flash.rows) ∧
            (tile < 16 → (s.hw.die d).retiredTiles.testBit tile = false →
              t.hw.flash.rows = s.hw.flash.rows.filter (fun x => !(x.1 == d && x.2.1 == tile)) ∧
              t.hw.flash.retiredTiles = s.hw.flash.retiredTiles ++ [(d, tile)])) ∧
        ∃ t, exec (.startupStepComplete [] ms) s = .next t ∧ t.pending = s.pending ∧ t.hw.ks.step = 9 ∧
          ∀ x ∈ t.hw.flash.rows, x ∈ s.hw.flash.rows) ∧
      (∀ ms, s.hw.nextStep = some 12 →
        ∃ t, exec (.startupStepComplete [] ms) s = .next t ∧ t.pending = s.pending ∧ t.hw = { s.hw with ks := t.hw.ks, ports := t.hw.ports } ∧
          t.hw.ks = { s.hw.ks with step := 12, boot := if s.hw.flash.oos then .outOfService else .ready, readyMs := ms % 65536 }) ∧
      (∀ ms, (s.hw.nextStep ≠ none ∨ s.hw.ks.boot = .ready) → s.hw.flash.oos = false →
        ∃ t, exec (.startupStepComplete [.footingFault] ms) s = .next t ∧ t.pending = s.pending ∧ t.hw.flash.oos = true ∧
          t.hw.flash.oosCause = 4 ∧ t.hw.ks.boot = .outOfService) ∧
      (s.hw.ks.boot = .starting → s.hw.ks.step < 3 →
        exec .ks1LeadsStartup s = .next { s with hw := { s.hw with ks := { s.hw.ks with leader := 1 }, flash := ({ s.hw.flash with noStandby := true } : Flash).record recHealth } }) ∧
      (∀ a b, s.hw.hosts.length = 2 →
        ∃ t, exec (.counterCalibration a b) s = .next t ∧ t.pending = s.pending ∧ t.hw = { s.hw with hosts := t.hw.hosts, ks2 := t.hw.ks2 } ∧
          t.hw.host 0 = { s.hw.host 0 with clock := a } ∧ t.hw.host 1 = { s.hw.host 1 with clock := b } ∧
          t.hw.ks2 = if s.hw.ks.step = 6 ∧ (a || b) = true then { s.hw.ks2 with calibrated := true } else s.hw.ks2))

/-- Firmware commands, debug unlock and manager keys (R394-R397, R402, R403): each command is refused while another runs, or for its own
cause, and else runs until it is done; what it then leaves in flash; a debug token that is right becomes pending; a key block that follows
the set in force is installed, and KEY_CMD.ERR tells of the last INSTALL (R405). A read of the host that fails, would go on an Insecure
stream (R431) or is poisoned (R351) is refused by each. A write that the port does not receive does nothing. -/
def Obligations.FirmwareAndKeysChange : Prop :=
  ∀ (s : State),
    let k := s.hw.ks
    let f := s.hw.flash
    let cmd (row : Instr) (cause : Nat) (b : FwBusy) : Prop :=
      exec row s = .next { s with hw := { s.hw with ks :=
        if k.fwBusy.isSome then { k with fwErr := true, fwCause := 1 } else if cause ≠ 0 then { k with fwErr := true, fwCause := cause }
        else { k with fwBusy := some b } } }
    s.hw.ks2.powered = true →
    (∀ port env row, s.hw.reaches port = false →
      row ∈ [.activate port, .confirm port, .commitSvn port, .stage port env, .debugUnlock port env, .keyInstall port env] → exec row s = .next s) ∧
    (∀ port, s.hw.dark 0x10 = false → s.hw.reaches port = true →
      cmd (.activate port) (if f.slotOk s.hw.target then 0 else 7) .activate ∧ cmd (.confirm port) 0 .confirm ∧
      cmd (.commitSvn port)
        (match s.hw.running with
         | some n => if !s.hw.onTrial && decide (f.rollback < (f.image (n == 1)).svn) then 0 else 8
         | none => 8) .commit) ∧
    (∀ port env, s.hw.dark 0x10 = false → s.hw.reaches port = true → k.fwBusy = none → s.hw.onTrial = false →
      let a := k.fwAddr.toNat
      let b := s.hw.applyEnv env
      let hdr := b.hostRead port a 4096
      let barred := (s.hw.host port).barred a (4096 + fld hdr 8 4)
      ∃ t img cause, exec (.stage port env) s = .next t ∧ t.pending = s.pending ∧
        ({ s.hw with ks := { k with fwBusy := some (.stage img cause) }, freeCtr := s.hw.freeCtr + 2 } : Hw).Tells t.hw
          (if barred then 0 else b2n env.hostPoison) ∧
        (env.hostPoison = false →
          t.hw = { s.hw with ks := { k with fwBusy := some (.stage img cause) }, freeCtr := s.hw.freeCtr + 2, hosts := b.hosts }) ∧
        ((env.hostFail = true ∨ env.hostPoison = true ∨ barred = true ∨ 2 ^ 57 ≤ a) → cause = 5) ∧
        (env.hostFail = false → env.hostPoison = false → barred = false → a < 2 ^ 57 →
          (img, cause) = f.judge hdr (b.hostRead port (a + 4096) (fld hdr 8 4)) s.hw.freeCtr)) ∧
    (∀ port env, s.hw.dark 0x10 = false → s.hw.reaches port = true → (k.fwBusy ≠ none ∨ s.hw.onTrial = true) →
      exec (.stage port env) s = .next { s with hw := { s.hw with ks := { k with fwErr := true, fwCause := if k.fwBusy.isSome then 1 else 6 } } }) ∧
    (∀ b, k.fwBusy = some b →
      ∃ t, exec .firmwareCommandDone s = .next t ∧ t.pending = s.pending ∧ t.hw = { s.hw with ks := t.hw.ks, flash := t.hw.flash } ∧
        t.hw.ks.fwBusy = none ∧
        match b with
        | .stage img cause => t.hw.flash = f.setImage s.hw.target img ∧
            t.hw.ks = if cause = 0 then { k with fwBusy := none } else { k with fwBusy := none, fwErr := true, fwCause := cause }
        | .activate => t.hw.flash = ({ f with pref := b2n s.hw.target, trial := true, trialBooted := false } : Flash).record recBoot ∧
            t.hw.ks = { k with fwBusy := none }
        | .confirm => t.hw.flash = (if s.hw.running = some f.pref then ({ f with trial := false, trialBooted := false } : Flash).record recBoot else f) ∧
            t.hw.ks = { k with fwBusy := none, unconfirmed := k.unconfirmed && s.hw.running.isNone }
        | .commit => t.hw.flash = { f with rollback := (f.image (k.slot == 1)).svn } ∧ t.hw.ks = { k with fwBusy := none }) ∧
    (∀ port env, s.hw.dark 0x28 = false → s.hw.reaches port = true → k.boot ≠ .recovery →
      let a := k.dbgAddr.toNat
      let b := s.hw.applyEnv env
      let t0 := b.hostRead port a 160
      let barred := (s.hw.host port).barred a 160
      let after : Keystone :=
        if barred = false ∧ env.hostFail = false ∧ env.hostPoison = false ∧ a < 2 ^ 57 ∧ s.hw.debugOk t0 = true then { k with dbgPending := fld t0 1 1 }
        else { k with dbgErr := true }
      ∃ t, exec (.debugUnlock port env) s = .next t ∧ t.pending = s.pending ∧
        ({ s.hw with ks := after } : Hw).Tells t.hw (if barred then 0 else b2n env.hostPoison) ∧
        (env.hostPoison = false → t.hw = { s.hw with hosts := b.hosts, ks := after })) ∧
    (∀ port env, s.hw.dark 0x60 = false → s.hw.reaches port = true → k.boot ≠ .recovery →
      let a := k.keyAddr.toNat
      let ta := k.keyToken.toNat
      let b := s.hw.applyEnv env
      let blk := b.hostRead port a (16 + 96 * fld (b.hostRead port a 16) 1 1)
      let barred := (s.hw.host port).barred a (16 + 96 * 8)
      let tok := if f.keys.n = 0 ∨ 2 ^ 57 ≤ ta ∨ (s.hw.host port).barred ta tokenBytes = true then [] else b.hostRead port ta tokenBytes
      let after : Keystone :=
        if k.keyBusy = none ∧ barred = false ∧ env.hostFail = false ∧ env.hostPoison = false ∧ a < 2 ^ 57 ∧ keyBlockOk blk = true ∧
            s.hw.keyNext blk tok = true
        then { k with keyBusy := some (keySetOf blk), keyErr := false } else { k with keyErr := true }
      ∃ t, exec (.keyInstall port env) s = .next t ∧ t.pending = s.pending ∧
        ({ s.hw with ks := after } : Hw).Tells t.hw (if barred then 0 else b2n env.hostPoison) ∧
        (env.hostPoison = false → t.hw = { s.hw with hosts := b.hosts, ks := after })) ∧
    (∀ ks, k.keyBusy = some ks →
      exec .keyInstallDone s =
        .next { s with hw := { s.hw with flash := ({ f with keys := ks } : Flash).record recKeys, ks := { k with keyBusy := none } } })

/-! ## Host ports and attestation (16, 18) -/

/-- Host ports (R390, R424, R426, R432-R436): PERST# and a link that goes down discard the port's configuration state; a link that comes up
writes what waited, and with Bus Master Enable a lost port returns and takes its faulted contexts; a port down as long as HOST_LOSS_MS is
lost: its module rings stop, its live contexts fault with cause 9, and they move to the other port where that one takes them. -/
def Obligations.HostPortsComeAndGo : Prop :=
  ∀ (p : Nat) (s : State) (q : HostPort), p < s.hw.hosts.length → q = s.hw.host p →
    let down : HostPort :=
      { q with up := false, configured := false, busMaster := false, config := [], bar2Log := 6, msix := [], pba := []
               d3 := false, aer := {}, msixOn := false, msixMask := false
               ide := List.replicate 4 {}, spdm := {} }
    let becomes (row : Instr) (x : HostPort) : Prop :=
      ∃ t, exec row s = .next t ∧ t.pending = s.pending ∧ t.hw = { s.hw with hosts := t.hw.hosts } ∧ t.hw.host p = x ∧
        ∀ o, o ≠ p → t.hw.host o = s.hw.host o
    becomes (.perstAssert p) { down with perst := true } ∧
    (q.perst = true → becomes (.perstDeassert p) { q with perst := false, configFrom := s.hw.now }) ∧
    (q.perst = false → exec (.perstDeassert p) s = .next s) ∧
    (s.hw.ks2.powered = true →
      (q.up = true → becomes (.dlDown p) down) ∧ (q.up = false → exec (.dlDown p) s = .next s) ∧
      (∀ value, s.hw.dark (0x20008 + 0x1000 * p) = false → s.hw.reaches p = true → becomes (.apertureWrite p value) { q with apertureBase := bits value.toNat 39 30 }) ∧
      (∀ value, s.hw.reaches p = false → exec (.apertureWrite p value) s = .next s) ∧
      (∀ speed width flit bme, (q.up = true ∨ q.perst = true ∨ s.hw.bridgesOn = false ∨ q.clock = false ∨ linkKindOk speed width flit = false) →
        exec (.dlUp p speed width flit bme) s = .next s) ∧
      (∀ speed width flit bme, q.up = false → q.perst = false → s.hw.bridgesOn = true → q.clock = true → linkKindOk speed width flit = true →
        ∃ t, exec (.dlUp p speed width flit bme) s = .next t ∧ t.pending = s.pending ∧ t.hw.mem = s.hw.mem ∧ t.hw.rings = s.hw.rings ∧
          (t.hw.host p).up = true ∧ (t.hw.host p).speed = speed ∧ (t.hw.host p).width = width ∧ (t.hw.host p).flit = flit ∧ (t.hw.host p).busMaster = bme ∧
          (bme = false → speed = 6 → width = 8 →
            (t.hw.host p).mem = q.waiting.foldl (fun m x => cellWrite m x.1 x.2) q.mem ∧ (t.hw.host p).waiting = []) ∧
          (bme = false → t.hw.ctxs = s.hw.ctxs) ∧ (bme = true → (t.hw.host p).lost = false) ∧
          (bme = true → q.lost = true → ∀ n, n < 16 → (s.hw.ctx n).orphan = true → (s.hw.ctx n).state ≠ .free →
            t.hw.ctx n = { s.hw.ctx n with owner := p, orphan := false })) ∧
      (∀ ms, (q.lost = true ∨ (q.perst = false ∧ q.up = true) ∨ ms < q.lossMs) → exec (.hostLossTest p ms) s = .next s) ∧
      (∀ ms, p < 2 → q.lost = false → (q.perst = true ∨ q.up = false) → q.lossMs ≤ ms →
        ∃ t, exec (.hostLossTest p ms) s = .next t ∧ t.pending = s.pending ∧ (t.hw.host p).lost = true ∧ (t.hw.host p).waiting = [] ∧
          ((∀ r, ∀ d ∈ (s.hw.ring r).running, ∀ l, d.work ≠ .prefetch l) → t.hw.mem = s.hw.mem) ∧
          (t.hw.outRing true p).en = false ∧ (t.hw.outRing true p).everEn = (s.hw.outRing true p).everEn ∧
          (∀ r, r < 128 → (s.hw.ring r).module = true → (s.hw.ring r).port = p → (t.hw.ring r).state = .stopped ∧
            ∃ l, (t.hw.ring r).records = (s.hw.ring r).records ++ l) ∧
          (∀ n a, n < 16 → (t.hw.ctx n).busy ≠ some (p, a)) ∧
          ∀ n, n < 16 → (s.hw.ctx n).state.live = true → (s.hw.ctx n).owner = p →
            (t.hw.ctx n).state = .faulted ∧ (t.hw.ctx n).cause = 9 ∧
            if (s.hw.host (1 - p)).lost = false ∧ (s.hw.host (1 - p)).failover = true then (t.hw.ctx n).owner = 1 - p
            else (t.hw.ctx n).owner = p ∧ (t.hw.ctx n).orphan = true))

/-- BAR2 and configuration requests (R213, R216, R347, R351, R390, R426, R427): a read inside the aperture gives the bytes of HBM there and
says whether they are poisoned, the errors that it finds among them; a write changes those bytes and no other, a poisoned one poisons every
group it touches, and a clean one clears every group it covers whole; either waits while the controller cannot take it; before READY reads
give zeros and writes are dropped. A configuration request is answered with a retry only before
the port is set up, and 200 ms bound it; a read gives the identity of R424, the bits that R424 fixes, and for the rest what was written; a
write sets Bus Master Enable, the size of BAR2, the power state, the MSI-X control and the AER status, whose bits 1 clears (the places of these
registers and bits are the model's, log 14). -/
def Obligations.Bar2ReachesMemory : Prop :=
  ∀ (p : Nat) (s : State) (q : HostPort), s.hw.ks2.powered = true → p < s.hw.hosts.length → q = s.hw.host p →
    (∀ offset count env, s.hw.bar2Takes p offset count = false → exec (.bar2Read p offset count env) s = .next s) ∧
    (∀ offset bytes poisoned env, s.hw.bar2Takes p offset bytes.length = false → exec (.bar2Write p offset bytes poisoned env) s = .next s) ∧
    (∀ offset count env, s.hw.bar2Takes p offset count = true →
      let k := q.aperture + offset
      let po := (s.hw.readErrors env (groupsOf k count)).poisonedAt k count
      let waits := s.hw.bar2Waits k
      ((∃ g ∈ groupsOf k count, g ∈ s.hw.poison ∨ g ∈ env.ue) → po = true) ∧
      ∃ t, exec (.bar2Read p offset count env) s = .next t ∧ t.pending = s.pending ∧ t.hw.mem = s.hw.mem ∧ t.hw.rings = s.hw.rings ∧
        (s.hw.bar2Open = false → t.hw = { s.hw with out := .bar2 p (zeros count) false :: s.hw.out }) ∧
        (s.hw.bar2Open = true → waits = true → t.hw = { s.hw with heldAccesses := s.hw.heldAccesses ++ [{ what := .bar2Read p q.aperture offset count, env := env }] }) ∧
        (s.hw.bar2Open = true → waits = false → t.hw.out.head? = some (.bar2 p (s.hw.memRead k count) po)) ∧
        (s.hw.bar2Open = true → waits = false → env.ue = [] → env.ce = [] → s.hw.Tells t.hw (b2n po))) ∧
    (∀ offset bytes poisoned env, s.hw.bar2Takes p offset bytes.length = true → Memory.wf s.hw.mem = true →
      let k := q.aperture + offset
      let waits := s.hw.bar2Waits k
      ∃ t, exec (.bar2Write p offset bytes poisoned env) s = .next t ∧ t.pending = s.pending ∧ t.hw.rings = s.hw.rings ∧
        t.hw.ctxs = s.hw.ctxs ∧
        (s.hw.bar2Open = false → t.hw.mem = s.hw.mem ∧ t.hw.poison = s.hw.poison) ∧
        (s.hw.bar2Open = true → waits = true → t.hw.mem = s.hw.mem ∧ t.hw.poison = s.hw.poison ∧
          t.hw.heldAccesses = s.hw.heldAccesses ++ [{ what := .bar2Write p q.aperture offset bytes poisoned, env := env }]) ∧
        (s.hw.bar2Open = true → waits = false →
          (∀ a, cellGet t.hw.mem a = if k ≤ a ∧ a < k + bytes.length then bytes.getD (a - k) 0 else cellGet s.hw.mem a) ∧
          (poisoned = true → ∀ i, i < bytes.length → (k + i) / 32 ∈ t.hw.poison) ∧
          (poisoned = false → ∀ g, k ≤ 32 * g → 32 * g + 32 ≤ k + bytes.length → g ∉ t.hw.poison) ∧
          (∀ g ∈ s.hw.poison, (32 * g < k ∨ k + bytes.length < 32 * g + 32) → g ∈ t.hw.poison))) ∧
    (∀ reg write, (s.hw.bridgesOn = false ∨ q.perst = true ∨ q.up = false) → exec (.configRequest p reg write) s = .next s) ∧
    (∀ reg write, s.hw.bridgesOn = true → q.perst = false → q.up = true →
      ∃ t x, exec (.configRequest p reg write) s = .next t ∧ t.pending = s.pending ∧ t.hw.mem = s.hw.mem ∧ t.hw.rings = s.hw.rings ∧
        t.hw.out.head? = some (.configReply p x) ∧
        ((q.configured = true ∨ q.configFrom + 200000000 ≤ s.hw.now) → x ≠ none) ∧
        (x = none → t.hw = { s.hw with freeCtr := s.hw.freeCtr + 1, out := .configReply p none :: s.hw.out }) ∧
        (x ≠ none → (t.hw.host p).configured = true) ∧
        (∀ v, x = some v → write = none → t.hw = { s.hw with freeCtr := s.hw.freeCtr + 1, hosts := t.hw.hosts, out := .configReply p x :: s.hw.out } ∧
          t.hw.host p = { q with configured := true } ∧
          if reg = 0 then v.toNat = Config.vendorId.toNat + 65536 * 0x7640
          else if reg = 8 then v = 0x12000001
          else if reg = Config.serialNumber then v.toNat = Config.moduleUid.toNat % 2 ^ 32
          else if reg = Config.serialNumber + 4 then v.toNat = Config.moduleUid.toNat / 2 ^ 32
          else ∃ u, (∀ a b, q.config.find? (·.1 == reg) = some (a, b) → u = b) ∧ v = putBits u.toNat (q.fixed reg).1 (q.fixed reg).2) ∧
        (∀ v, x ≠ none → write = some v → x = some 0 ∧ (reg, v) ∈ (t.hw.host p).config ∧
          let y := t.hw.host p
          let code := bits v.toNat 13 8
          if reg = 4 then y.busMaster = v.getLsbD 2 ∧ (v.getLsbD 2 = true → y.lost = false)
          else if reg = Config.resizableBar then y.bar2Log = if 10 ≤ code ∧ code ≤ 16 then code - 10 else q.bar2Log
          else if reg = Config.powerCap + 4 then y.d3 = if v.toNat % 4 = 3 then true else if v.toNat % 4 = 0 then false else q.d3
          else if reg = Config.msixCap then y.msixOn = v.getLsbD 31 ∧ y.msixMask = v.getLsbD 30 ∧
            ∀ e ∈ y.pba, e ∈ q.pba ∧ (v.getLsbD 31 = false ∨ v.getLsbD 30 = true ∨ (q.msixDword (4 * e + 3)).getLsbD 0 = true)
          else if reg = Config.aerCap + 4 then y.aer.status = q.aer.status &&& ~~~v
          else y = { q with configured := true, config := y.config }))

/-- The DOE mailbox and IDE (R398-R401, R430, R431): each request that the connection's state allows is answered and moves it; any other is
answered with an error and moves nothing but a session being established; an object larger than the mailbox's buffer sets the error bit
(8,176 bytes of a request is the model's reading of 8 KiB, log 40), which an Abort clears. A stream whose keys are set over a session is Secure, and one
whose check fails Insecure, told, and in the AER status. An answer is announced by entry 0 while bit 1 of the mailbox's control register is
set (R429; the place and the bit are the model's, log 14). -/
def Obligations.MailboxAnswers : Prop :=
  ∀ (p : Nat) (s : State) (q : HostPort), s.hw.ks2.powered = true → p < s.hw.hosts.length → q = s.hw.host p →
    let x := q.spdm
    let moves (row : Instr) (y : HostPort) (r : DoeReply) : Prop :=
      let rings := (q.reg (Config.doeCap + 8)).getLsbD 1
      ∃ t, exec row s = .next t ∧ t.pending = s.pending ∧ t.hw = { s.hw with hosts := t.hw.hosts, out := t.hw.out } ∧
        t.hw.out = (if rings = true ∧ y.msixHeld 0 = false ∧ y.barred (y.msixAddr 0) 4 = false then [.msix p 0] else []) ++ .doe p r :: s.hw.out ∧
        t.hw.host p = (if rings = true ∧ y.msixHeld 0 = true then { y with pba := setIns y.pba 0 } else y) ∧
        ∀ o, o ≠ p → t.hw.host o = s.hw.host o
    let answers (row : Instr) (ok : Prop) (y : Spdm) (r : DoeReply) : Prop :=
      (ok → moves row { q with spdm := y } r) ∧ (¬ ok → moves row q .error)
    let settled := x.settled = true
    (s.hw.mailbox p = true →
      answers (.getVersion p) True { x with version := true, caps := false, algs := false } (.versions [0x12, 0x13]) ∧
      answers (.getCapabilities p) (x.version = true) { x with caps := true } .capabilities ∧
      answers (.negotiateAlgorithms p) (x.version = true ∧ x.caps = true) { x with algs := true }
        (.algorithms ["ECDSA-P384", "SHA-384", "secp384r1", "AES-256-GCM"]) ∧
      answers (.getDigests p) settled x (.digests (Config.sha384 s.hw.chain)) ∧
      (∀ slot off len, answers (.getCertificate p slot off len) (settled ∧ slot = 0) x (.certificate ((s.hw.chain.drop off).take (min len 8176)))) ∧
      (∀ slot nonce, answers (.challenge p slot nonce) (settled ∧ slot = 0) x (.challenge (s.hw.signed (nonce ++ Config.sha384 s.hw.chain)))) ∧
      (∀ i, 1 ≤ i → i ≤ 7 → ∀ nonce, answers (.getMeasurements p i false nonce) settled x (.measurements [(i, s.hw.measure i)] none)) ∧
      (∀ i signed nonce, 7 < i → i ≠ 255 → moves (.getMeasurements p i signed nonce) q .error) ∧
      (∀ e, 8176 < e.length → moves (.keyExchange p e) { q with spdm := { x with refused := true } } .error) ∧
      (∀ e, e.length ≤ 8176 → answers (.keyExchange p e) (settled ∧ x.session = false ∧ x.exchanging = false) { x with exchanging := true }
        (.keyExchange (s.hw.signed e))) ∧
      answers (.finish p true) (x.exchanging = true) { x with exchanging := false, session := true, updates := 0 } .finished ∧
      (x.exchanging = true → moves (.finish p false) { q with spdm := { x with exchanging := false } } .error) ∧
      answers (.keyUpdate p) (x.session = true) { x with updates := x.updates + 1 } .keyUpdated ∧
      answers (.heartbeat p) (x.session = true) x .alive ∧
      answers (.endSession p) (x.session = true) { x with session := false, updates := 0 } .ended ∧
      (∀ k keys, 8176 < keys.length → moves (.ideKm p k keys) { q with spdm := { x with refused := true } } .error) ∧
      (∀ k keys, keys.length ≤ 8176 → k < 4 → k < q.ide.length → x.session = true →
        moves (.ideKm p k keys) { q with ide := q.ide.set k { secure := true, keys := keys } } .keySet) ∧
      (∀ k keys, keys.length ≤ 8176 → (4 ≤ k ∨ x.session = false) → moves (.ideKm p k keys) q .error)) ∧
    (q.up = true → q.configured = true → ∀ i, moves (.doeDiscovery p i) q (.discovery i [0, 1, 2])) ∧
    (∃ t, exec (.doeAbort p) s = .next t ∧ t.pending = s.pending ∧ t.hw = { s.hw with hosts := t.hw.hosts } ∧
      t.hw.host p = { q with spdm := { x with exchanging := false, refused := false } } ∧ ∀ o, o ≠ p → t.hw.host o = s.hw.host o) ∧
    (∀ k, (q.ide.getD k {}).secure = true →
      ∃ t, exec (.ideFail p k) s = .next t ∧ t.pending = s.pending ∧ s.hw.Tells t.hw 1 ∧
        (t.hw.host p).ide = q.ide.set k { q.ide.getD k {} with secure := false, failed := true } ∧ (t.hw.host p).aer.status.getLsbD aerIde = true) ∧
    (∀ k, (q.ide.getD k {}).secure = false → exec (.ideFail p k) s = .next s)

/-! ## Clocks, power, heat and SMBus (17, 19) -/

/-- Clocks, the input and heat (R408, R409, R411, R415-R419): set points from 4 to 16, or 19 with HIGH_CLK, are taken and others refused
whole; the input is told outside its range, stops every island below 42 V and above 58 V, and SUPPLY_HIGH above 60 V is a fault; a droop is
counted by the cycles it stretches and steps a clock; a reading raises the level it asks for, stops an island at 125 °C with a recovery of its
domain, and lets a level fall at 2 °C below its threshold; a die's islands run again once every sensor of it reads below 100 °C; hot coolant
is told. -/
def Sys2Proof.Claims.ClocksPowerAndHeat : Prop :=
  ∀ (s : State),
    (∀ v, 6000 < v → exec (.supplyHigh v) s = .fault .absoluteMaximum) ∧
    (s.hw.ks2.powered = true →
      (∀ d (value : W32), d < s.hw.aux.length → s.hw.dark (dieOff d + 0x800) = false →
        let a := bits value.toNat 4 0
        let b := bits value.toNat 12 8
        let top := if s.hw.ks2.highClk then 19 else 16
        ((4 ≤ a ∧ a ≤ top ∧ 4 ≤ b ∧ b ≤ top) →
          ∃ t, exec (.clockSet d value) s = .next t ∧ t.pending = s.pending ∧ t.hw = { s.hw with aux := t.hw.aux } ∧
            t.hw.dieAux d = { s.hw.dieAux d with tileSet := a, fabSet := b } ∧ ∀ k, k ≠ d → t.hw.dieAux k = s.hw.dieAux k) ∧
        (¬ (4 ≤ a ∧ a ≤ top ∧ 4 ≤ b ∧ b ≤ top) → exec (.clockSet d value) s = .next s)) ∧
      (∀ v, s.hw.dark 0x300 = false → s.hw.allFree = true →
        ∃ t, exec (.highClkSet v) s = .next t ∧ t.pending = s.pending ∧
          t.hw = { s.hw with ks2 := { s.hw.ks2 with highClk := v }, aux := t.hw.aux } ∧
          ∀ d, d < s.hw.aux.length → t.hw.dieAux d = if v then s.hw.dieAux d else
            { s.hw.dieAux d with tileSet := min 16 (s.hw.dieAux d).tileSet, fabSet := min 16 (s.hw.dieAux d).fabSet }) ∧
      (∀ v, s.hw.dark 0x300 = false → s.hw.allFree = false → exec (.highClkSet v) s = .next s) ∧
      (∀ v, 4200 ≤ v → v < 4500 → ∃ t, exec (.supplyLow v) s = .next t ∧ t.pending = s.pending ∧ s.hw.Tells t.hw 1) ∧
      (∀ v, 5500 < v → v ≤ 5800 → ∃ t, exec (.supplyHigh v) s = .next t ∧ t.pending = s.pending ∧ s.hw.Tells t.hw 1) ∧
      (∀ v, (v < 4200 ∨ 5800 < v) →
        exec (.supplyLost v) s = .next { s with hw := { s.hw with ks2 := { s.hw.ks2 with powered := false } } }) ∧
      (∀ i n, (s.hw.diesOn = false ∨ settable i = false) → exec (.droopDetect (i, n)) s = .next s ∧ exec (.droopStep i) s = .next s) ∧
      (∀ i d, s.hw.diesOn = true → settable i = true → islandDie i = some d → d < s.hw.aux.length →
        (∀ n, ∃ t, exec (.droopDetect (i, n)) s = .next t ∧ t.pending = s.pending ∧ (t.hw.dieAux d).droops = satAdd (s.hw.dieAux d).droops n ∧
          t.hw.mem = s.hw.mem ∧ t.hw.rings = s.hw.rings ∧ t.hw.tiles = s.hw.tiles) ∧
        (s.hw.droops i = false → s.hw.tiles.length = 256 → (∀ n, i = .tile d n → d < 16 ∧ n < 16) →
          (∃ t, exec (.droopStep i) s = .next t ∧ t.pending = s.pending ∧ t.hw.droops i = true ∧
            (t.hw.dieAux d).droops = satAdd (s.hw.dieAux d).droops 1 ∧ t.hw.mem = s.hw.mem ∧ t.hw.rings = s.hw.rings))) ∧
      (∀ i, settable i = true →
        ∃ t, exec (.droopStepRaise i) s = .next t ∧ t.pending = s.pending ∧ t.hw = { s.hw with tiles := t.hw.tiles, aux := t.hw.aux } ∧
          t.hw.droops i = false) ∧
      (∀ i x, s.hw.islandOn i = false → exec (.thermalReading i x) s = .next s) ∧
      (∀ i x, s.hw.islandOn i = true → i ∉ s.hw.ks2.stopped → 1250 ≤ x →
        ∃ t, exec (.thermalReading i x) s = .next t ∧ t.pending = s.pending ∧ i ∈ t.hw.ks2.stopped ∧
          ∃ r ∈ t.hw.ks.recovery, r.domain.covers (s.hw.atLevel (islandDomain i)) = true) ∧
      (∀ i x, s.hw.islandOn i = true → islandDie i = none → x < 1250 → exec (.thermalReading i x) s =
        .next { s with hw := { s.hw with ks2 := { s.hw.ks2 with temps := (s.hw.ks2.temps.filter fun y => y.1 != i) ++ [(i, x)] } } }) ∧
      (∀ i d x, s.hw.islandOn i = true → islandDie i = some d → d < s.hw.aux.length → s.hw.tiles.length = 256 → (∀ n, i = .tile d n → d < 16 ∧ n < 16) →
        i ∉ s.hw.ks2.stopped →
        (x < 1250 → ∃ t, exec (.thermalReading i x) s = .next t ∧ t.pending = s.pending ∧ t.hw.ks = s.hw.ks ∧ t.hw.ks2 = s.hw.ks2 ∧
          t.hw.mem = s.hw.mem ∧ t.hw.rings = s.hw.rings ∧ (i, x) ∈ (t.hw.dieAux d).temps ∧
          (settable i = true → t.hw.islandLevel i = max (s.hw.islandLevel i) (levelOf x)))) ∧
      (∀ i x, settable i = true → (s.hw.temps i).find? (·.1 == i) = some x → s.hw.islandLevel i ≠ 0 →
        (x.2 + 20 ≤ 1000 + 50 * s.hw.islandLevel i →
          ∃ t, exec (.thermalLevelFall i) s = .next t ∧ t.pending = s.pending ∧ t.hw = { s.hw with tiles := t.hw.tiles, aux := t.hw.aux } ∧
            t.hw.islandLevel i = s.hw.islandLevel i - 1) ∧
        (1000 + 50 * s.hw.islandLevel i < x.2 + 20 → exec (.thermalLevelFall i) s = .next s)) ∧
      (∀ i,
        let here (j : Island) : Prop := islandPlace j = islandPlace i
        ((∀ x ∈ s.hw.temps i, here x.1 → x.2 < 1000) → (∀ j ∈ s.hw.ks2.stopped, here j → ∃ x ∈ s.hw.temps i, x.1 = j) →
          exec (.thermalRecovery i) s = .next { s with hw := { s.hw with ks2 :=
            { s.hw.ks2 with stopped := s.hw.ks2.stopped.filter fun j => islandPlace j != islandPlace i } } }) ∧
        ((∃ x ∈ s.hw.temps i, here x.1 ∧ 1000 ≤ x.2) → exec (.thermalRecovery i) s = .next s)) ∧
      (∀ x, x ≤ 400 → exec (.coolantHot x) s = .next { s with hw := { s.hw with ks2 := { s.hw.ks2 with hot := false } } }) ∧
      (∀ x, 400 < x → (∀ n, s.hw.ks2.hotAt = some n → n + 60000000000 ≤ s.hw.now) →
        ∃ t, exec (.coolantHot x) s = .next t ∧ t.pending = s.pending ∧
          ({ s.hw with ks2 := { s.hw.ks2 with hot := true, hotAt := some s.hw.now } } : Hw).Tells t.hw 1))

/-- The SMBus targets (R450-R452): from 100 ms after 50 V good each read gives its bytes or its word, with the address of its target and the
PEC; before that, and without 50 V, no address is acknowledged. Nothing else changes. -/
def Sys2Proof.Claims.SmbusReads : Prop :=
  ∀ (s : State),
    let reads (row : Instr) (o : Out) : Prop := exec row s = .next { s with hw := { s.hw with out :=
      (if s.hw.ks2.powered = true ∧ s.hw.ks2.smbusAt ≤ s.hw.now then o else .smbusNak) :: s.hw.out } }
    let word (cmd n : Nat) : Out :=
      .smbusWord (0x58 + Config.slotId.toNat) (BitVec.ofNat 16 n) (pecOf (0x58 + Config.slotId.toNat) [BitVec.ofNat 8 cmd] (toLe 2 n))
    (∀ off n,
      let b := (fruRecord.drop off).take n
      reads (.fruRead off n) (.smbusBytes (0x50 + Config.slotId.toNat) b (pecOf (0x50 + Config.slotId.toNat) (toBe 2 off) b))) ∧
    reads .inputV (word 1 s.hw.ks2.volt) ∧ reads .inputI (word 2 s.hw.ks2.current) ∧ reads .inlet (word 3 s.hw.ks2.inletT) ∧
    reads .outlet (word 4 s.hw.ks2.outletT) ∧
    (s.hw.ks.step < 9 → reads .hot (word 5 0) ∧ reads .state (word 6 0)) ∧
    (9 ≤ s.hw.ks.step →
      (∃ n, reads .hot (word 5 n) ∧ (∀ a ∈ s.hw.aux, a.hottest.1 ≤ n) ∧ (n = 0 ∨ ∃ a ∈ s.hw.aux, a.hottest.1 = n)) ∧
      reads .state (word 6 (s.hw.ks.boot.code + 4 * s.hw.ks.leader + 8 * b2n s.hw.flash.oos)))

/-- The supply, clocks and heat, and what SMBus reads (17, 19). -/
def Obligations.PowerHeatAndSmbus : Prop := Sys2Proof.Claims.ClocksPowerAndHeat ∧ Sys2Proof.Claims.SmbusReads

/-! ## Rules stated whole -/

/-- R63: with CPL_MODE 01 a command that completes, its accesses acknowledged, with OK writes no record, and every other status writes one: into the next slot of the
ring that takes it, or behind the records that wait for a slot. The records of a context's ring go to its completion ring, those of a
module ring, here RUNNING, to the event ring of its port. The record of a WAIT_PREFETCH, whose entries are written first (R305), may wait for
them. -/
def Obligations.OkAloneWritesNoRecord : Prop :=
  ∀ (ring : Nat) (index : W32) (s : State) (c : Cmd),
    let w := s.hw.ring ring
    s.hw.ks2.powered = true → s.hw.cmd ring index = some c → c.phase = .done → c.cplMode = 1 → s.hw.awaits c.order = false →
    (w.module = true → w.state = .running ∧ ∀ l, c.work ≠ .prefetch l) →
    ∃ t, exec (.commandComplete ring index) s = .next t ∧
      ((t.hw.ring ring).lastStatus = stOk → (t.hw.ring ring).records = w.records ∧ t.hw.cpls = s.hw.cpls ∧
        (w.module = true → t.hw.evts = s.hw.evts)) ∧
      ((t.hw.ring ring).lastStatus ≠ stOk →
        (∀ l, c.work = .prefetch l → ∃ rb : List Rec, rb.length ≤ 1 ∧ (t.hw.ring ring).records = w.records ++ rb ∧
          (t.hw.outRing false w.cpl).writeTail = (s.hw.outRing false w.cpl).writeTail + BitVec.ofNat 32 (1 - rb.length)) ∧
        (w.records = [] → w.module = false → (∀ l, c.work ≠ .prefetch l) → s.hw.canRecord false w.cpl = true →
          (t.hw.ring ring).records = [] ∧ (t.hw.outRing false w.cpl).writeTail = (s.hw.outRing false w.cpl).writeTail + 1 ∧
          ∀ k, k ≠ w.cpl → t.hw.outRing false k = s.hw.outRing false k) ∧
        (w.records = [] → w.module = true → s.hw.canRecord true w.port = true →
          (t.hw.ring ring).records = [] ∧ (t.hw.outRing true w.port).writeTail ≠ (s.hw.outRing true w.port).writeTail) ∧
        ((w.records ≠ [] ∨ (w.module = false ∧ s.hw.canRecord false w.cpl = false) ∨ (w.module = true ∧ s.hw.canRecord true w.port = false)) →
          t.hw.cpls = s.hw.cpls ∧ ∃ rb, (t.hw.ring ring).records = w.records ++ [rb]))

/-- R157: an E8M0 code below 0xFF denotes 2^(code − 127), and 0xFF denotes NaN; no code is a zero or has a sign. -/
def Obligations.E8m0ScalesArePowersOfTwo : Prop :=
  (∀ code, code < 255 → ∃ n d : Nat, scaleVal 1 code = (.fin false n d, 0) ∧ 0 < n ∧ 0 < d ∧ (n : ℚ) / d = 2 ^ ((code : ℤ) - 127)) ∧
  scaleVal 1 255 = (.nan, 0)

/-- R361: the reset level is EXPERT only while a context is not FREE and every such context is EXPERT; at the BASIC level every hardware
domain becomes the module, and at the EXPERT level it stays what it is; a context reset stays a context recovery at both. -/
def Obligations.ResetLevelDecidesTheDomain : Prop :=
  (∀ h : Hw, h.expertLevel = true ↔
    (∃ n, n < 16 ∧ (h.ctx n).state ≠ .free) ∧ ∀ n, n < 16 → (h.ctx n).state ≠ .free → (h.ctx n).plan.expert = true) ∧
  (∀ (h : Hw) (d : Domain), (h.expertLevel = false → h.atLevel d = .module) ∧ (h.expertLevel = true → h.atLevel d = d)) ∧
  ∀ (port n : Nat) (s : State), s.hw.dark 0x204 = false → s.hw.reaches port = true → s.hw.ks2.powered = true → s.hw.ks.boot ≠ .recovery → s.hw.ks.recovery = [] → n < 16 →
    ∃ t r, exec (.contextReset port n) s = .next t ∧ t.pending = s.pending ∧ t.hw.ks.recovery = [r] ∧ r.domain = .context n

/-- Every island stops when 50 V is lost (R387, R411): until it returns, a command changes nothing, but for the pins and the standby
registers that `unpowered` names. A reading beyond the absolute maximum is outside the specification (R411). Until step 9 of start-up, and in
RECOVERY, the dies have no power, and what their own commands name does not happen (R388, R392). -/
def Obligations.WithoutPowerNothingRuns : Prop :=
  (∀ (c : Instr) (s : State), s.hw.ks2.powered = false → unpowered c = false →
    (∀ v, c = .supplyHigh v → v ≤ 6000) → exec c s = .next s) ∧
  (∀ (c : Instr) (s : State), s.hw.diesOn = false → ofDies c = true → exec c s = .next s)
end

