-- ==== Sys2Proof/Laws/State.lean ====
section
/-! SUPPORT. What each update of one part of the machine leaves unchanged: one lemma per field and per accessor. -/

namespace Sys2Proof.Machine

section
variable (h : Hw) (n : Nat) (f : WorkRing → WorkRing)

@[simp] theorem Hw.setRing_now : (h.setRing n f).now = h.now := rfl
@[simp] theorem Hw.setRing_freeCtr : (h.setRing n f).freeCtr = h.freeCtr := rfl
@[simp] theorem Hw.setRing_startSeq : (h.setRing n f).startSeq = h.startSeq := rfl
@[simp] theorem Hw.setRing_logSeq : (h.setRing n f).logSeq = h.logSeq := rfl
@[simp] theorem Hw.setRing_out : (h.setRing n f).out = h.out := rfl
@[simp] theorem Hw.setRing_lim : (h.setRing n f).lim = h.lim := rfl
@[simp] theorem Hw.setRing_ks : (h.setRing n f).ks = h.ks := rfl
@[simp] theorem Hw.setRing_ks2 : (h.setRing n f).ks2 = h.ks2 := rfl
@[simp] theorem Hw.setRing_flash : (h.setRing n f).flash = h.flash := rfl
@[simp] theorem Hw.setRing_cpls : (h.setRing n f).cpls = h.cpls := rfl
@[simp] theorem Hw.setRing_evts : (h.setRing n f).evts = h.evts := rfl
@[simp] theorem Hw.setRing_ctxs : (h.setRing n f).ctxs = h.ctxs := rfl
@[simp] theorem Hw.setRing_objs : (h.setRing n f).objs = h.objs := rfl
@[simp] theorem Hw.setRing_syncFlight : (h.setRing n f).syncFlight = h.syncFlight := rfl
@[simp] theorem Hw.setRing_seqs : (h.setRing n f).seqs = h.seqs := rfl
@[simp] theorem Hw.setRing_dies : (h.setRing n f).dies = h.dies := rfl
@[simp] theorem Hw.setRing_aux : (h.setRing n f).aux = h.aux := rfl
@[simp] theorem Hw.setRing_tiles : (h.setRing n f).tiles = h.tiles := rfl
@[simp] theorem Hw.setRing_ports : (h.setRing n f).ports = h.ports := rfl
@[simp] theorem Hw.setRing_oes : (h.setRing n f).oes = h.oes := rfl
@[simp] theorem Hw.setRing_comb : (h.setRing n f).comb = h.comb := rfl
@[simp] theorem Hw.setRing_transit : (h.setRing n f).transit = h.transit := rfl
@[simp] theorem Hw.setRing_outMsgs : (h.setRing n f).outMsgs = h.outMsgs := rfl
@[simp] theorem Hw.setRing_loose : (h.setRing n f).loose = h.loose := rfl
@[simp] theorem Hw.setRing_accesses : (h.setRing n f).accesses = h.accesses := rfl
@[simp] theorem Hw.setRing_requests : (h.setRing n f).requests = h.requests := rfl
@[simp] theorem Hw.setRing_reorder : (h.setRing n f).reorder = h.reorder := rfl
@[simp] theorem Hw.setRing_heldAccesses : (h.setRing n f).heldAccesses = h.heldAccesses := rfl
@[simp] theorem Hw.setRing_binds : (h.setRing n f).binds = h.binds := rfl
@[simp] theorem Hw.setRing_fences : (h.setRing n f).fences = h.fences := rfl
@[simp] theorem Hw.setRing_topo : (h.setRing n f).topo = h.topo := rfl
@[simp] theorem Hw.setRing_hosts : (h.setRing n f).hosts = h.hosts := rfl
@[simp] theorem Hw.setRing_bcast : (h.setRing n f).bcast = h.bcast := rfl
@[simp] theorem Hw.setRing_mem : (h.setRing n f).mem = h.mem := rfl
@[simp] theorem Hw.setRing_poison : (h.setRing n f).poison = h.poison := rfl
@[simp] theorem Hw.setRing_spared : (h.setRing n f).spared = h.spared := rfl
@[simp] theorem Hw.setRing_rings : (h.setRing n f).rings = h.rings.modify (n) f := rfl
@[simp] theorem Hw.setRing_ctx (k : Nat) : (h.setRing n f).ctx k = h.ctx k := rfl
@[simp] theorem Hw.setRing_die (k : Nat) : (h.setRing n f).die k = h.die k := rfl
@[simp] theorem Hw.setRing_dieAux (k : Nat) : (h.setRing n f).dieAux k = h.dieAux k := rfl
@[simp] theorem Hw.setRing_tile (k m : Nat) : (h.setRing n f).tile k m = h.tile k m := rfl
@[simp] theorem Hw.setRing_seq (k : Nat) : (h.setRing n f).seq k = h.seq k := rfl
@[simp] theorem Hw.setRing_host (k : Nat) : (h.setRing n f).host k = h.host k := rfl
@[simp] theorem Hw.setRing_port (k : Nat) : (h.setRing n f).port k = h.port k := rfl
@[simp] theorem Hw.setRing_link (k m : Nat) : (h.setRing n f).link k m = h.link k m := rfl
@[simp] theorem Hw.setRing_oe (k : Nat) : (h.setRing n f).oe k = h.oe k := rfl
@[simp] theorem Hw.setRing_obj (k : Nat) : (h.setRing n f).obj k = h.obj k := rfl
@[simp] theorem Hw.setRing_outRing (e : Bool) (k : Nat) : (h.setRing n f).outRing e k = h.outRing e k := rfl

end

section
variable (h : Hw) (b : Bool) (n : Nat) (f : OutRing → OutRing)

@[simp] theorem Hw.setOutRing_now : (h.setOutRing b n f).now = h.now := by cases b <;> rfl
@[simp] theorem Hw.setOutRing_freeCtr : (h.setOutRing b n f).freeCtr = h.freeCtr := by cases b <;> rfl
@[simp] theorem Hw.setOutRing_startSeq : (h.setOutRing b n f).startSeq = h.startSeq := by cases b <;> rfl
@[simp] theorem Hw.setOutRing_logSeq : (h.setOutRing b n f).logSeq = h.logSeq := by cases b <;> rfl
@[simp] theorem Hw.setOutRing_out : (h.setOutRing b n f).out = h.out := by cases b <;> rfl
@[simp] theorem Hw.setOutRing_lim : (h.setOutRing b n f).lim = h.lim := by cases b <;> rfl
@[simp] theorem Hw.setOutRing_ks : (h.setOutRing b n f).ks = h.ks := by cases b <;> rfl
@[simp] theorem Hw.setOutRing_ks2 : (h.setOutRing b n f).ks2 = h.ks2 := by cases b <;> rfl
@[simp] theorem Hw.setOutRing_flash : (h.setOutRing b n f).flash = h.flash := by cases b <;> rfl
@[simp] theorem Hw.setOutRing_rings : (h.setOutRing b n f).rings = h.rings := by cases b <;> rfl
@[simp] theorem Hw.setOutRing_ctxs : (h.setOutRing b n f).ctxs = h.ctxs := by cases b <;> rfl
@[simp] theorem Hw.setOutRing_objs : (h.setOutRing b n f).objs = h.objs := by cases b <;> rfl
@[simp] theorem Hw.setOutRing_syncFlight : (h.setOutRing b n f).syncFlight = h.syncFlight := by cases b <;> rfl
@[simp] theorem Hw.setOutRing_seqs : (h.setOutRing b n f).seqs = h.seqs := by cases b <;> rfl
@[simp] theorem Hw.setOutRing_dies : (h.setOutRing b n f).dies = h.dies := by cases b <;> rfl
@[simp] theorem Hw.setOutRing_aux : (h.setOutRing b n f).aux = h.aux := by cases b <;> rfl
@[simp] theorem Hw.setOutRing_tiles : (h.setOutRing b n f).tiles = h.tiles := by cases b <;> rfl
@[simp] theorem Hw.setOutRing_ports : (h.setOutRing b n f).ports = h.ports := by cases b <;> rfl
@[simp] theorem Hw.setOutRing_oes : (h.setOutRing b n f).oes = h.oes := by cases b <;> rfl
@[simp] theorem Hw.setOutRing_comb : (h.setOutRing b n f).comb = h.comb := by cases b <;> rfl
@[simp] theorem Hw.setOutRing_transit : (h.setOutRing b n f).transit = h.transit := by cases b <;> rfl
@[simp] theorem Hw.setOutRing_outMsgs : (h.setOutRing b n f).outMsgs = h.outMsgs := by cases b <;> rfl
@[simp] theorem Hw.setOutRing_loose : (h.setOutRing b n f).loose = h.loose := by cases b <;> rfl
@[simp] theorem Hw.setOutRing_accesses : (h.setOutRing b n f).accesses = h.accesses := by cases b <;> rfl
@[simp] theorem Hw.setOutRing_requests : (h.setOutRing b n f).requests = h.requests := by cases b <;> rfl
@[simp] theorem Hw.setOutRing_reorder : (h.setOutRing b n f).reorder = h.reorder := by cases b <;> rfl
@[simp] theorem Hw.setOutRing_heldAccesses : (h.setOutRing b n f).heldAccesses = h.heldAccesses := by cases b <;> rfl
@[simp] theorem Hw.setOutRing_binds : (h.setOutRing b n f).binds = h.binds := by cases b <;> rfl
@[simp] theorem Hw.setOutRing_fences : (h.setOutRing b n f).fences = h.fences := by cases b <;> rfl
@[simp] theorem Hw.setOutRing_topo : (h.setOutRing b n f).topo = h.topo := by cases b <;> rfl
@[simp] theorem Hw.setOutRing_hosts : (h.setOutRing b n f).hosts = h.hosts := by cases b <;> rfl
@[simp] theorem Hw.setOutRing_bcast : (h.setOutRing b n f).bcast = h.bcast := by cases b <;> rfl
@[simp] theorem Hw.setOutRing_mem : (h.setOutRing b n f).mem = h.mem := by cases b <;> rfl
@[simp] theorem Hw.setOutRing_poison : (h.setOutRing b n f).poison = h.poison := by cases b <;> rfl
@[simp] theorem Hw.setOutRing_spared : (h.setOutRing b n f).spared = h.spared := by cases b <;> rfl
@[simp] theorem Hw.setOutRing_ring (k : Nat) : (h.setOutRing b n f).ring k = h.ring k := by cases b <;> rfl
@[simp] theorem Hw.setOutRing_ctx (k : Nat) : (h.setOutRing b n f).ctx k = h.ctx k := by cases b <;> rfl
@[simp] theorem Hw.setOutRing_die (k : Nat) : (h.setOutRing b n f).die k = h.die k := by cases b <;> rfl
@[simp] theorem Hw.setOutRing_dieAux (k : Nat) : (h.setOutRing b n f).dieAux k = h.dieAux k := by cases b <;> rfl
@[simp] theorem Hw.setOutRing_tile (k m : Nat) : (h.setOutRing b n f).tile k m = h.tile k m := by cases b <;> rfl
@[simp] theorem Hw.setOutRing_seq (k : Nat) : (h.setOutRing b n f).seq k = h.seq k := by cases b <;> rfl
@[simp] theorem Hw.setOutRing_host (k : Nat) : (h.setOutRing b n f).host k = h.host k := by cases b <;> rfl
@[simp] theorem Hw.setOutRing_port (k : Nat) : (h.setOutRing b n f).port k = h.port k := by cases b <;> rfl
@[simp] theorem Hw.setOutRing_link (k m : Nat) : (h.setOutRing b n f).link k m = h.link k m := by cases b <;> rfl
@[simp] theorem Hw.setOutRing_oe (k : Nat) : (h.setOutRing b n f).oe k = h.oe k := by cases b <;> rfl
@[simp] theorem Hw.setOutRing_obj (k : Nat) : (h.setOutRing b n f).obj k = h.obj k := by cases b <;> rfl
@[simp] theorem Hw.setOutRing_cmd (k : Nat) (j : W32) : (h.setOutRing b n f).cmd k j = h.cmd k j := by cases b <;> rfl

end

section
variable (h : Hw) (n : Nat) (f : Ctx → Ctx)

@[simp] theorem Hw.setCtx_now : (h.setCtx n f).now = h.now := rfl
@[simp] theorem Hw.setCtx_freeCtr : (h.setCtx n f).freeCtr = h.freeCtr := rfl
@[simp] theorem Hw.setCtx_startSeq : (h.setCtx n f).startSeq = h.startSeq := rfl
@[simp] theorem Hw.setCtx_logSeq : (h.setCtx n f).logSeq = h.logSeq := rfl
@[simp] theorem Hw.setCtx_out : (h.setCtx n f).out = h.out := rfl
@[simp] theorem Hw.setCtx_lim : (h.setCtx n f).lim = h.lim := rfl
@[simp] theorem Hw.setCtx_ks : (h.setCtx n f).ks = h.ks := rfl
@[simp] theorem Hw.setCtx_ks2 : (h.setCtx n f).ks2 = h.ks2 := rfl
@[simp] theorem Hw.setCtx_flash : (h.setCtx n f).flash = h.flash := rfl
@[simp] theorem Hw.setCtx_rings : (h.setCtx n f).rings = h.rings := rfl
@[simp] theorem Hw.setCtx_cpls : (h.setCtx n f).cpls = h.cpls := rfl
@[simp] theorem Hw.setCtx_evts : (h.setCtx n f).evts = h.evts := rfl
@[simp] theorem Hw.setCtx_objs : (h.setCtx n f).objs = h.objs := rfl
@[simp] theorem Hw.setCtx_syncFlight : (h.setCtx n f).syncFlight = h.syncFlight := rfl
@[simp] theorem Hw.setCtx_seqs : (h.setCtx n f).seqs = h.seqs := rfl
@[simp] theorem Hw.setCtx_dies : (h.setCtx n f).dies = h.dies := rfl
@[simp] theorem Hw.setCtx_aux : (h.setCtx n f).aux = h.aux := rfl
@[simp] theorem Hw.setCtx_tiles : (h.setCtx n f).tiles = h.tiles := rfl
@[simp] theorem Hw.setCtx_ports : (h.setCtx n f).ports = h.ports := rfl
@[simp] theorem Hw.setCtx_oes : (h.setCtx n f).oes = h.oes := rfl
@[simp] theorem Hw.setCtx_comb : (h.setCtx n f).comb = h.comb := rfl
@[simp] theorem Hw.setCtx_transit : (h.setCtx n f).transit = h.transit := rfl
@[simp] theorem Hw.setCtx_outMsgs : (h.setCtx n f).outMsgs = h.outMsgs := rfl
@[simp] theorem Hw.setCtx_loose : (h.setCtx n f).loose = h.loose := rfl
@[simp] theorem Hw.setCtx_accesses : (h.setCtx n f).accesses = h.accesses := rfl
@[simp] theorem Hw.setCtx_requests : (h.setCtx n f).requests = h.requests := rfl
@[simp] theorem Hw.setCtx_reorder : (h.setCtx n f).reorder = h.reorder := rfl
@[simp] theorem Hw.setCtx_heldAccesses : (h.setCtx n f).heldAccesses = h.heldAccesses := rfl
@[simp] theorem Hw.setCtx_binds : (h.setCtx n f).binds = h.binds := rfl
@[simp] theorem Hw.setCtx_fences : (h.setCtx n f).fences = h.fences := rfl
@[simp] theorem Hw.setCtx_topo : (h.setCtx n f).topo = h.topo := rfl
@[simp] theorem Hw.setCtx_hosts : (h.setCtx n f).hosts = h.hosts := rfl
@[simp] theorem Hw.setCtx_bcast : (h.setCtx n f).bcast = h.bcast := rfl
@[simp] theorem Hw.setCtx_mem : (h.setCtx n f).mem = h.mem := rfl
@[simp] theorem Hw.setCtx_poison : (h.setCtx n f).poison = h.poison := rfl
@[simp] theorem Hw.setCtx_spared : (h.setCtx n f).spared = h.spared := rfl
@[simp] theorem Hw.setCtx_ctxs : (h.setCtx n f).ctxs = h.ctxs.modify (n) f := rfl
@[simp] theorem Hw.setCtx_ring (k : Nat) : (h.setCtx n f).ring k = h.ring k := rfl
@[simp] theorem Hw.setCtx_die (k : Nat) : (h.setCtx n f).die k = h.die k := rfl
@[simp] theorem Hw.setCtx_dieAux (k : Nat) : (h.setCtx n f).dieAux k = h.dieAux k := rfl
@[simp] theorem Hw.setCtx_tile (k m : Nat) : (h.setCtx n f).tile k m = h.tile k m := rfl
@[simp] theorem Hw.setCtx_seq (k : Nat) : (h.setCtx n f).seq k = h.seq k := rfl
@[simp] theorem Hw.setCtx_host (k : Nat) : (h.setCtx n f).host k = h.host k := rfl
@[simp] theorem Hw.setCtx_port (k : Nat) : (h.setCtx n f).port k = h.port k := rfl
@[simp] theorem Hw.setCtx_link (k m : Nat) : (h.setCtx n f).link k m = h.link k m := rfl
@[simp] theorem Hw.setCtx_oe (k : Nat) : (h.setCtx n f).oe k = h.oe k := rfl
@[simp] theorem Hw.setCtx_obj (k : Nat) : (h.setCtx n f).obj k = h.obj k := rfl
@[simp] theorem Hw.setCtx_cmd (k : Nat) (j : W32) : (h.setCtx n f).cmd k j = h.cmd k j := rfl
@[simp] theorem Hw.setCtx_outRing (e : Bool) (k : Nat) : (h.setCtx n f).outRing e k = h.outRing e k := rfl

end

section
variable (h : Hw) (n : Nat) (f : Die → Die)

@[simp] theorem Hw.setDie_now : (h.setDie n f).now = h.now := rfl
@[simp] theorem Hw.setDie_freeCtr : (h.setDie n f).freeCtr = h.freeCtr := rfl
@[simp] theorem Hw.setDie_startSeq : (h.setDie n f).startSeq = h.startSeq := rfl
@[simp] theorem Hw.setDie_logSeq : (h.setDie n f).logSeq = h.logSeq := rfl
@[simp] theorem Hw.setDie_out : (h.setDie n f).out = h.out := rfl
@[simp] theorem Hw.setDie_lim : (h.setDie n f).lim = h.lim := rfl
@[simp] theorem Hw.setDie_ks : (h.setDie n f).ks = h.ks := rfl
@[simp] theorem Hw.setDie_ks2 : (h.setDie n f).ks2 = h.ks2 := rfl
@[simp] theorem Hw.setDie_flash : (h.setDie n f).flash = h.flash := rfl
@[simp] theorem Hw.setDie_rings : (h.setDie n f).rings = h.rings := rfl
@[simp] theorem Hw.setDie_cpls : (h.setDie n f).cpls = h.cpls := rfl
@[simp] theorem Hw.setDie_evts : (h.setDie n f).evts = h.evts := rfl
@[simp] theorem Hw.setDie_ctxs : (h.setDie n f).ctxs = h.ctxs := rfl
@[simp] theorem Hw.setDie_objs : (h.setDie n f).objs = h.objs := rfl
@[simp] theorem Hw.setDie_syncFlight : (h.setDie n f).syncFlight = h.syncFlight := rfl
@[simp] theorem Hw.setDie_seqs : (h.setDie n f).seqs = h.seqs := rfl
@[simp] theorem Hw.setDie_aux : (h.setDie n f).aux = h.aux := rfl
@[simp] theorem Hw.setDie_tiles : (h.setDie n f).tiles = h.tiles := rfl
@[simp] theorem Hw.setDie_ports : (h.setDie n f).ports = h.ports := rfl
@[simp] theorem Hw.setDie_oes : (h.setDie n f).oes = h.oes := rfl
@[simp] theorem Hw.setDie_comb : (h.setDie n f).comb = h.comb := rfl
@[simp] theorem Hw.setDie_transit : (h.setDie n f).transit = h.transit := rfl
@[simp] theorem Hw.setDie_outMsgs : (h.setDie n f).outMsgs = h.outMsgs := rfl
@[simp] theorem Hw.setDie_loose : (h.setDie n f).loose = h.loose := rfl
@[simp] theorem Hw.setDie_accesses : (h.setDie n f).accesses = h.accesses := rfl
@[simp] theorem Hw.setDie_requests : (h.setDie n f).requests = h.requests := rfl
@[simp] theorem Hw.setDie_reorder : (h.setDie n f).reorder = h.reorder := rfl
@[simp] theorem Hw.setDie_heldAccesses : (h.setDie n f).heldAccesses = h.heldAccesses := rfl
@[simp] theorem Hw.setDie_binds : (h.setDie n f).binds = h.binds := rfl
@[simp] theorem Hw.setDie_fences : (h.setDie n f).fences = h.fences := rfl
@[simp] theorem Hw.setDie_topo : (h.setDie n f).topo = h.topo := rfl
@[simp] theorem Hw.setDie_hosts : (h.setDie n f).hosts = h.hosts := rfl
@[simp] theorem Hw.setDie_bcast : (h.setDie n f).bcast = h.bcast := rfl
@[simp] theorem Hw.setDie_mem : (h.setDie n f).mem = h.mem := rfl
@[simp] theorem Hw.setDie_poison : (h.setDie n f).poison = h.poison := rfl
@[simp] theorem Hw.setDie_spared : (h.setDie n f).spared = h.spared := rfl
@[simp] theorem Hw.setDie_dies : (h.setDie n f).dies = h.dies.modify (n) f := rfl
@[simp] theorem Hw.setDie_ring (k : Nat) : (h.setDie n f).ring k = h.ring k := rfl
@[simp] theorem Hw.setDie_ctx (k : Nat) : (h.setDie n f).ctx k = h.ctx k := rfl
@[simp] theorem Hw.setDie_dieAux (k : Nat) : (h.setDie n f).dieAux k = h.dieAux k := rfl
@[simp] theorem Hw.setDie_tile (k m : Nat) : (h.setDie n f).tile k m = h.tile k m := rfl
@[simp] theorem Hw.setDie_seq (k : Nat) : (h.setDie n f).seq k = h.seq k := rfl
@[simp] theorem Hw.setDie_host (k : Nat) : (h.setDie n f).host k = h.host k := rfl
@[simp] theorem Hw.setDie_port (k : Nat) : (h.setDie n f).port k = h.port k := rfl
@[simp] theorem Hw.setDie_link (k m : Nat) : (h.setDie n f).link k m = h.link k m := rfl
@[simp] theorem Hw.setDie_oe (k : Nat) : (h.setDie n f).oe k = h.oe k := rfl
@[simp] theorem Hw.setDie_obj (k : Nat) : (h.setDie n f).obj k = h.obj k := rfl
@[simp] theorem Hw.setDie_cmd (k : Nat) (j : W32) : (h.setDie n f).cmd k j = h.cmd k j := rfl
@[simp] theorem Hw.setDie_outRing (e : Bool) (k : Nat) : (h.setDie n f).outRing e k = h.outRing e k := rfl

end

section
variable (h : Hw) (n : Nat) (f : DieAux → DieAux)

@[simp] theorem Hw.setAux_now : (h.setAux n f).now = h.now := rfl
@[simp] theorem Hw.setAux_freeCtr : (h.setAux n f).freeCtr = h.freeCtr := rfl
@[simp] theorem Hw.setAux_startSeq : (h.setAux n f).startSeq = h.startSeq := rfl
@[simp] theorem Hw.setAux_logSeq : (h.setAux n f).logSeq = h.logSeq := rfl
@[simp] theorem Hw.setAux_out : (h.setAux n f).out = h.out := rfl
@[simp] theorem Hw.setAux_lim : (h.setAux n f).lim = h.lim := rfl
@[simp] theorem Hw.setAux_ks : (h.setAux n f).ks = h.ks := rfl
@[simp] theorem Hw.setAux_ks2 : (h.setAux n f).ks2 = h.ks2 := rfl
@[simp] theorem Hw.setAux_flash : (h.setAux n f).flash = h.flash := rfl
@[simp] theorem Hw.setAux_rings : (h.setAux n f).rings = h.rings := rfl
@[simp] theorem Hw.setAux_cpls : (h.setAux n f).cpls = h.cpls := rfl
@[simp] theorem Hw.setAux_evts : (h.setAux n f).evts = h.evts := rfl
@[simp] theorem Hw.setAux_ctxs : (h.setAux n f).ctxs = h.ctxs := rfl
@[simp] theorem Hw.setAux_objs : (h.setAux n f).objs = h.objs := rfl
@[simp] theorem Hw.setAux_syncFlight : (h.setAux n f).syncFlight = h.syncFlight := rfl
@[simp] theorem Hw.setAux_seqs : (h.setAux n f).seqs = h.seqs := rfl
@[simp] theorem Hw.setAux_dies : (h.setAux n f).dies = h.dies := rfl
@[simp] theorem Hw.setAux_tiles : (h.setAux n f).tiles = h.tiles := rfl
@[simp] theorem Hw.setAux_ports : (h.setAux n f).ports = h.ports := rfl
@[simp] theorem Hw.setAux_oes : (h.setAux n f).oes = h.oes := rfl
@[simp] theorem Hw.setAux_comb : (h.setAux n f).comb = h.comb := rfl
@[simp] theorem Hw.setAux_transit : (h.setAux n f).transit = h.transit := rfl
@[simp] theorem Hw.setAux_outMsgs : (h.setAux n f).outMsgs = h.outMsgs := rfl
@[simp] theorem Hw.setAux_loose : (h.setAux n f).loose = h.loose := rfl
@[simp] theorem Hw.setAux_accesses : (h.setAux n f).accesses = h.accesses := rfl
@[simp] theorem Hw.setAux_requests : (h.setAux n f).requests = h.requests := rfl
@[simp] theorem Hw.setAux_reorder : (h.setAux n f).reorder = h.reorder := rfl
@[simp] theorem Hw.setAux_heldAccesses : (h.setAux n f).heldAccesses = h.heldAccesses := rfl
@[simp] theorem Hw.setAux_binds : (h.setAux n f).binds = h.binds := rfl
@[simp] theorem Hw.setAux_fences : (h.setAux n f).fences = h.fences := rfl
@[simp] theorem Hw.setAux_topo : (h.setAux n f).topo = h.topo := rfl
@[simp] theorem Hw.setAux_hosts : (h.setAux n f).hosts = h.hosts := rfl
@[simp] theorem Hw.setAux_bcast : (h.setAux n f).bcast = h.bcast := rfl
@[simp] theorem Hw.setAux_mem : (h.setAux n f).mem = h.mem := rfl
@[simp] theorem Hw.setAux_poison : (h.setAux n f).poison = h.poison := rfl
@[simp] theorem Hw.setAux_spared : (h.setAux n f).spared = h.spared := rfl
@[simp] theorem Hw.setAux_aux : (h.setAux n f).aux = h.aux.modify (n) f := rfl
@[simp] theorem Hw.setAux_ring (k : Nat) : (h.setAux n f).ring k = h.ring k := rfl
@[simp] theorem Hw.setAux_ctx (k : Nat) : (h.setAux n f).ctx k = h.ctx k := rfl
@[simp] theorem Hw.setAux_die (k : Nat) : (h.setAux n f).die k = h.die k := rfl
@[simp] theorem Hw.setAux_tile (k m : Nat) : (h.setAux n f).tile k m = h.tile k m := rfl
@[simp] theorem Hw.setAux_seq (k : Nat) : (h.setAux n f).seq k = h.seq k := rfl
@[simp] theorem Hw.setAux_host (k : Nat) : (h.setAux n f).host k = h.host k := rfl
@[simp] theorem Hw.setAux_port (k : Nat) : (h.setAux n f).port k = h.port k := rfl
@[simp] theorem Hw.setAux_link (k m : Nat) : (h.setAux n f).link k m = h.link k m := rfl
@[simp] theorem Hw.setAux_oe (k : Nat) : (h.setAux n f).oe k = h.oe k := rfl
@[simp] theorem Hw.setAux_obj (k : Nat) : (h.setAux n f).obj k = h.obj k := rfl
@[simp] theorem Hw.setAux_cmd (k : Nat) (j : W32) : (h.setAux n f).cmd k j = h.cmd k j := rfl
@[simp] theorem Hw.setAux_outRing (e : Bool) (k : Nat) : (h.setAux n f).outRing e k = h.outRing e k := rfl

end

section
variable (h : Hw) (n t : Nat) (f : Tile → Tile)

@[simp] theorem Hw.setTile_now : (h.setTile n t f).now = h.now := rfl
@[simp] theorem Hw.setTile_freeCtr : (h.setTile n t f).freeCtr = h.freeCtr := rfl
@[simp] theorem Hw.setTile_startSeq : (h.setTile n t f).startSeq = h.startSeq := rfl
@[simp] theorem Hw.setTile_logSeq : (h.setTile n t f).logSeq = h.logSeq := rfl
@[simp] theorem Hw.setTile_out : (h.setTile n t f).out = h.out := rfl
@[simp] theorem Hw.setTile_lim : (h.setTile n t f).lim = h.lim := rfl
@[simp] theorem Hw.setTile_ks : (h.setTile n t f).ks = h.ks := rfl
@[simp] theorem Hw.setTile_ks2 : (h.setTile n t f).ks2 = h.ks2 := rfl
@[simp] theorem Hw.setTile_flash : (h.setTile n t f).flash = h.flash := rfl
@[simp] theorem Hw.setTile_rings : (h.setTile n t f).rings = h.rings := rfl
@[simp] theorem Hw.setTile_cpls : (h.setTile n t f).cpls = h.cpls := rfl
@[simp] theorem Hw.setTile_evts : (h.setTile n t f).evts = h.evts := rfl
@[simp] theorem Hw.setTile_ctxs : (h.setTile n t f).ctxs = h.ctxs := rfl
@[simp] theorem Hw.setTile_objs : (h.setTile n t f).objs = h.objs := rfl
@[simp] theorem Hw.setTile_syncFlight : (h.setTile n t f).syncFlight = h.syncFlight := rfl
@[simp] theorem Hw.setTile_seqs : (h.setTile n t f).seqs = h.seqs := rfl
@[simp] theorem Hw.setTile_dies : (h.setTile n t f).dies = h.dies := rfl
@[simp] theorem Hw.setTile_aux : (h.setTile n t f).aux = h.aux := rfl
@[simp] theorem Hw.setTile_ports : (h.setTile n t f).ports = h.ports := rfl
@[simp] theorem Hw.setTile_oes : (h.setTile n t f).oes = h.oes := rfl
@[simp] theorem Hw.setTile_comb : (h.setTile n t f).comb = h.comb := rfl
@[simp] theorem Hw.setTile_transit : (h.setTile n t f).transit = h.transit := rfl
@[simp] theorem Hw.setTile_outMsgs : (h.setTile n t f).outMsgs = h.outMsgs := rfl
@[simp] theorem Hw.setTile_loose : (h.setTile n t f).loose = h.loose := rfl
@[simp] theorem Hw.setTile_accesses : (h.setTile n t f).accesses = h.accesses := rfl
@[simp] theorem Hw.setTile_requests : (h.setTile n t f).requests = h.requests := rfl
@[simp] theorem Hw.setTile_reorder : (h.setTile n t f).reorder = h.reorder := rfl
@[simp] theorem Hw.setTile_heldAccesses : (h.setTile n t f).heldAccesses = h.heldAccesses := rfl
@[simp] theorem Hw.setTile_binds : (h.setTile n t f).binds = h.binds := rfl
@[simp] theorem Hw.setTile_fences : (h.setTile n t f).fences = h.fences := rfl
@[simp] theorem Hw.setTile_topo : (h.setTile n t f).topo = h.topo := rfl
@[simp] theorem Hw.setTile_hosts : (h.setTile n t f).hosts = h.hosts := rfl
@[simp] theorem Hw.setTile_bcast : (h.setTile n t f).bcast = h.bcast := rfl
@[simp] theorem Hw.setTile_mem : (h.setTile n t f).mem = h.mem := rfl
@[simp] theorem Hw.setTile_poison : (h.setTile n t f).poison = h.poison := rfl
@[simp] theorem Hw.setTile_spared : (h.setTile n t f).spared = h.spared := rfl
@[simp] theorem Hw.setTile_tiles : (h.setTile n t f).tiles = h.tiles.modify (16 * n + t) f := rfl
@[simp] theorem Hw.setTile_ring (k : Nat) : (h.setTile n t f).ring k = h.ring k := rfl
@[simp] theorem Hw.setTile_ctx (k : Nat) : (h.setTile n t f).ctx k = h.ctx k := rfl
@[simp] theorem Hw.setTile_die (k : Nat) : (h.setTile n t f).die k = h.die k := rfl
@[simp] theorem Hw.setTile_dieAux (k : Nat) : (h.setTile n t f).dieAux k = h.dieAux k := rfl
@[simp] theorem Hw.setTile_seq (k : Nat) : (h.setTile n t f).seq k = h.seq k := rfl
@[simp] theorem Hw.setTile_host (k : Nat) : (h.setTile n t f).host k = h.host k := rfl
@[simp] theorem Hw.setTile_port (k : Nat) : (h.setTile n t f).port k = h.port k := rfl
@[simp] theorem Hw.setTile_link (k m : Nat) : (h.setTile n t f).link k m = h.link k m := rfl
@[simp] theorem Hw.setTile_oe (k : Nat) : (h.setTile n t f).oe k = h.oe k := rfl
@[simp] theorem Hw.setTile_obj (k : Nat) : (h.setTile n t f).obj k = h.obj k := rfl
@[simp] theorem Hw.setTile_cmd (k : Nat) (j : W32) : (h.setTile n t f).cmd k j = h.cmd k j := rfl
@[simp] theorem Hw.setTile_outRing (e : Bool) (k : Nat) : (h.setTile n t f).outRing e k = h.outRing e k := rfl

end

section
variable (h : Hw) (n : Nat) (f : SeqSlot → SeqSlot)

@[simp] theorem Hw.setSeq_now : (h.setSeq n f).now = h.now := rfl
@[simp] theorem Hw.setSeq_freeCtr : (h.setSeq n f).freeCtr = h.freeCtr := rfl
@[simp] theorem Hw.setSeq_startSeq : (h.setSeq n f).startSeq = h.startSeq := rfl
@[simp] theorem Hw.setSeq_logSeq : (h.setSeq n f).logSeq = h.logSeq := rfl
@[simp] theorem Hw.setSeq_out : (h.setSeq n f).out = h.out := rfl
@[simp] theorem Hw.setSeq_lim : (h.setSeq n f).lim = h.lim := rfl
@[simp] theorem Hw.setSeq_ks : (h.setSeq n f).ks = h.ks := rfl
@[simp] theorem Hw.setSeq_ks2 : (h.setSeq n f).ks2 = h.ks2 := rfl
@[simp] theorem Hw.setSeq_flash : (h.setSeq n f).flash = h.flash := rfl
@[simp] theorem Hw.setSeq_rings : (h.setSeq n f).rings = h.rings := rfl
@[simp] theorem Hw.setSeq_cpls : (h.setSeq n f).cpls = h.cpls := rfl
@[simp] theorem Hw.setSeq_evts : (h.setSeq n f).evts = h.evts := rfl
@[simp] theorem Hw.setSeq_ctxs : (h.setSeq n f).ctxs = h.ctxs := rfl
@[simp] theorem Hw.setSeq_objs : (h.setSeq n f).objs = h.objs := rfl
@[simp] theorem Hw.setSeq_syncFlight : (h.setSeq n f).syncFlight = h.syncFlight := rfl
@[simp] theorem Hw.setSeq_dies : (h.setSeq n f).dies = h.dies := rfl
@[simp] theorem Hw.setSeq_aux : (h.setSeq n f).aux = h.aux := rfl
@[simp] theorem Hw.setSeq_tiles : (h.setSeq n f).tiles = h.tiles := rfl
@[simp] theorem Hw.setSeq_ports : (h.setSeq n f).ports = h.ports := rfl
@[simp] theorem Hw.setSeq_oes : (h.setSeq n f).oes = h.oes := rfl
@[simp] theorem Hw.setSeq_comb : (h.setSeq n f).comb = h.comb := rfl
@[simp] theorem Hw.setSeq_transit : (h.setSeq n f).transit = h.transit := rfl
@[simp] theorem Hw.setSeq_outMsgs : (h.setSeq n f).outMsgs = h.outMsgs := rfl
@[simp] theorem Hw.setSeq_loose : (h.setSeq n f).loose = h.loose := rfl
@[simp] theorem Hw.setSeq_accesses : (h.setSeq n f).accesses = h.accesses := rfl
@[simp] theorem Hw.setSeq_requests : (h.setSeq n f).requests = h.requests := rfl
@[simp] theorem Hw.setSeq_reorder : (h.setSeq n f).reorder = h.reorder := rfl
@[simp] theorem Hw.setSeq_heldAccesses : (h.setSeq n f).heldAccesses = h.heldAccesses := rfl
@[simp] theorem Hw.setSeq_binds : (h.setSeq n f).binds = h.binds := rfl
@[simp] theorem Hw.setSeq_fences : (h.setSeq n f).fences = h.fences := rfl
@[simp] theorem Hw.setSeq_topo : (h.setSeq n f).topo = h.topo := rfl
@[simp] theorem Hw.setSeq_hosts : (h.setSeq n f).hosts = h.hosts := rfl
@[simp] theorem Hw.setSeq_bcast : (h.setSeq n f).bcast = h.bcast := rfl
@[simp] theorem Hw.setSeq_mem : (h.setSeq n f).mem = h.mem := rfl
@[simp] theorem Hw.setSeq_poison : (h.setSeq n f).poison = h.poison := rfl
@[simp] theorem Hw.setSeq_spared : (h.setSeq n f).spared = h.spared := rfl
@[simp] theorem Hw.setSeq_seqs : (h.setSeq n f).seqs = h.seqs.modify (n) f := rfl
@[simp] theorem Hw.setSeq_ring (k : Nat) : (h.setSeq n f).ring k = h.ring k := rfl
@[simp] theorem Hw.setSeq_ctx (k : Nat) : (h.setSeq n f).ctx k = h.ctx k := rfl
@[simp] theorem Hw.setSeq_die (k : Nat) : (h.setSeq n f).die k = h.die k := rfl
@[simp] theorem Hw.setSeq_dieAux (k : Nat) : (h.setSeq n f).dieAux k = h.dieAux k := rfl
@[simp] theorem Hw.setSeq_tile (k m : Nat) : (h.setSeq n f).tile k m = h.tile k m := rfl
@[simp] theorem Hw.setSeq_host (k : Nat) : (h.setSeq n f).host k = h.host k := rfl
@[simp] theorem Hw.setSeq_port (k : Nat) : (h.setSeq n f).port k = h.port k := rfl
@[simp] theorem Hw.setSeq_link (k m : Nat) : (h.setSeq n f).link k m = h.link k m := rfl
@[simp] theorem Hw.setSeq_oe (k : Nat) : (h.setSeq n f).oe k = h.oe k := rfl
@[simp] theorem Hw.setSeq_obj (k : Nat) : (h.setSeq n f).obj k = h.obj k := rfl
@[simp] theorem Hw.setSeq_cmd (k : Nat) (j : W32) : (h.setSeq n f).cmd k j = h.cmd k j := rfl
@[simp] theorem Hw.setSeq_outRing (e : Bool) (k : Nat) : (h.setSeq n f).outRing e k = h.outRing e k := rfl

end

section
variable (h : Hw) (n : Nat) (f : HostPort → HostPort)

@[simp] theorem Hw.setHost_now : (h.setHost n f).now = h.now := rfl
@[simp] theorem Hw.setHost_freeCtr : (h.setHost n f).freeCtr = h.freeCtr := rfl
@[simp] theorem Hw.setHost_startSeq : (h.setHost n f).startSeq = h.startSeq := rfl
@[simp] theorem Hw.setHost_logSeq : (h.setHost n f).logSeq = h.logSeq := rfl
@[simp] theorem Hw.setHost_out : (h.setHost n f).out = h.out := rfl
@[simp] theorem Hw.setHost_lim : (h.setHost n f).lim = h.lim := rfl
@[simp] theorem Hw.setHost_ks : (h.setHost n f).ks = h.ks := rfl
@[simp] theorem Hw.setHost_ks2 : (h.setHost n f).ks2 = h.ks2 := rfl
@[simp] theorem Hw.setHost_flash : (h.setHost n f).flash = h.flash := rfl
@[simp] theorem Hw.setHost_rings : (h.setHost n f).rings = h.rings := rfl
@[simp] theorem Hw.setHost_cpls : (h.setHost n f).cpls = h.cpls := rfl
@[simp] theorem Hw.setHost_evts : (h.setHost n f).evts = h.evts := rfl
@[simp] theorem Hw.setHost_ctxs : (h.setHost n f).ctxs = h.ctxs := rfl
@[simp] theorem Hw.setHost_objs : (h.setHost n f).objs = h.objs := rfl
@[simp] theorem Hw.setHost_syncFlight : (h.setHost n f).syncFlight = h.syncFlight := rfl
@[simp] theorem Hw.setHost_seqs : (h.setHost n f).seqs = h.seqs := rfl
@[simp] theorem Hw.setHost_dies : (h.setHost n f).dies = h.dies := rfl
@[simp] theorem Hw.setHost_aux : (h.setHost n f).aux = h.aux := rfl
@[simp] theorem Hw.setHost_tiles : (h.setHost n f).tiles = h.tiles := rfl
@[simp] theorem Hw.setHost_ports : (h.setHost n f).ports = h.ports := rfl
@[simp] theorem Hw.setHost_oes : (h.setHost n f).oes = h.oes := rfl
@[simp] theorem Hw.setHost_comb : (h.setHost n f).comb = h.comb := rfl
@[simp] theorem Hw.setHost_transit : (h.setHost n f).transit = h.transit := rfl
@[simp] theorem Hw.setHost_outMsgs : (h.setHost n f).outMsgs = h.outMsgs := rfl
@[simp] theorem Hw.setHost_loose : (h.setHost n f).loose = h.loose := rfl
@[simp] theorem Hw.setHost_accesses : (h.setHost n f).accesses = h.accesses := rfl
@[simp] theorem Hw.setHost_requests : (h.setHost n f).requests = h.requests := rfl
@[simp] theorem Hw.setHost_reorder : (h.setHost n f).reorder = h.reorder := rfl
@[simp] theorem Hw.setHost_heldAccesses : (h.setHost n f).heldAccesses = h.heldAccesses := rfl
@[simp] theorem Hw.setHost_binds : (h.setHost n f).binds = h.binds := rfl
@[simp] theorem Hw.setHost_fences : (h.setHost n f).fences = h.fences := rfl
@[simp] theorem Hw.setHost_topo : (h.setHost n f).topo = h.topo := rfl
@[simp] theorem Hw.setHost_bcast : (h.setHost n f).bcast = h.bcast := rfl
@[simp] theorem Hw.setHost_mem : (h.setHost n f).mem = h.mem := rfl
@[simp] theorem Hw.setHost_poison : (h.setHost n f).poison = h.poison := rfl
@[simp] theorem Hw.setHost_spared : (h.setHost n f).spared = h.spared := rfl
@[simp] theorem Hw.setHost_hosts : (h.setHost n f).hosts = h.hosts.modify (n) f := rfl
@[simp] theorem Hw.setHost_ring (k : Nat) : (h.setHost n f).ring k = h.ring k := rfl
@[simp] theorem Hw.setHost_ctx (k : Nat) : (h.setHost n f).ctx k = h.ctx k := rfl
@[simp] theorem Hw.setHost_die (k : Nat) : (h.setHost n f).die k = h.die k := rfl
@[simp] theorem Hw.setHost_dieAux (k : Nat) : (h.setHost n f).dieAux k = h.dieAux k := rfl
@[simp] theorem Hw.setHost_tile (k m : Nat) : (h.setHost n f).tile k m = h.tile k m := rfl
@[simp] theorem Hw.setHost_seq (k : Nat) : (h.setHost n f).seq k = h.seq k := rfl
@[simp] theorem Hw.setHost_port (k : Nat) : (h.setHost n f).port k = h.port k := rfl
@[simp] theorem Hw.setHost_link (k m : Nat) : (h.setHost n f).link k m = h.link k m := rfl
@[simp] theorem Hw.setHost_oe (k : Nat) : (h.setHost n f).oe k = h.oe k := rfl
@[simp] theorem Hw.setHost_obj (k : Nat) : (h.setHost n f).obj k = h.obj k := rfl
@[simp] theorem Hw.setHost_cmd (k : Nat) (j : W32) : (h.setHost n f).cmd k j = h.cmd k j := rfl
@[simp] theorem Hw.setHost_outRing (e : Bool) (k : Nat) : (h.setHost n f).outRing e k = h.outRing e k := rfl

end

section
variable (h : Hw) (n : Nat) (f : FPort → FPort)

@[simp] theorem Hw.setPort_now : (h.setPort n f).now = h.now := rfl
@[simp] theorem Hw.setPort_freeCtr : (h.setPort n f).freeCtr = h.freeCtr := rfl
@[simp] theorem Hw.setPort_startSeq : (h.setPort n f).startSeq = h.startSeq := rfl
@[simp] theorem Hw.setPort_logSeq : (h.setPort n f).logSeq = h.logSeq := rfl
@[simp] theorem Hw.setPort_out : (h.setPort n f).out = h.out := rfl
@[simp] theorem Hw.setPort_lim : (h.setPort n f).lim = h.lim := rfl
@[simp] theorem Hw.setPort_ks : (h.setPort n f).ks = h.ks := rfl
@[simp] theorem Hw.setPort_ks2 : (h.setPort n f).ks2 = h.ks2 := rfl
@[simp] theorem Hw.setPort_flash : (h.setPort n f).flash = h.flash := rfl
@[simp] theorem Hw.setPort_rings : (h.setPort n f).rings = h.rings := rfl
@[simp] theorem Hw.setPort_cpls : (h.setPort n f).cpls = h.cpls := rfl
@[simp] theorem Hw.setPort_evts : (h.setPort n f).evts = h.evts := rfl
@[simp] theorem Hw.setPort_ctxs : (h.setPort n f).ctxs = h.ctxs := rfl
@[simp] theorem Hw.setPort_objs : (h.setPort n f).objs = h.objs := rfl
@[simp] theorem Hw.setPort_syncFlight : (h.setPort n f).syncFlight = h.syncFlight := rfl
@[simp] theorem Hw.setPort_seqs : (h.setPort n f).seqs = h.seqs := rfl
@[simp] theorem Hw.setPort_dies : (h.setPort n f).dies = h.dies := rfl
@[simp] theorem Hw.setPort_aux : (h.setPort n f).aux = h.aux := rfl
@[simp] theorem Hw.setPort_tiles : (h.setPort n f).tiles = h.tiles := rfl
@[simp] theorem Hw.setPort_oes : (h.setPort n f).oes = h.oes := rfl
@[simp] theorem Hw.setPort_comb : (h.setPort n f).comb = h.comb := rfl
@[simp] theorem Hw.setPort_transit : (h.setPort n f).transit = h.transit := rfl
@[simp] theorem Hw.setPort_outMsgs : (h.setPort n f).outMsgs = h.outMsgs := rfl
@[simp] theorem Hw.setPort_loose : (h.setPort n f).loose = h.loose := rfl
@[simp] theorem Hw.setPort_accesses : (h.setPort n f).accesses = h.accesses := rfl
@[simp] theorem Hw.setPort_requests : (h.setPort n f).requests = h.requests := rfl
@[simp] theorem Hw.setPort_reorder : (h.setPort n f).reorder = h.reorder := rfl
@[simp] theorem Hw.setPort_heldAccesses : (h.setPort n f).heldAccesses = h.heldAccesses := rfl
@[simp] theorem Hw.setPort_binds : (h.setPort n f).binds = h.binds := rfl
@[simp] theorem Hw.setPort_fences : (h.setPort n f).fences = h.fences := rfl
@[simp] theorem Hw.setPort_topo : (h.setPort n f).topo = h.topo := rfl
@[simp] theorem Hw.setPort_hosts : (h.setPort n f).hosts = h.hosts := rfl
@[simp] theorem Hw.setPort_bcast : (h.setPort n f).bcast = h.bcast := rfl
@[simp] theorem Hw.setPort_mem : (h.setPort n f).mem = h.mem := rfl
@[simp] theorem Hw.setPort_poison : (h.setPort n f).poison = h.poison := rfl
@[simp] theorem Hw.setPort_spared : (h.setPort n f).spared = h.spared := rfl
@[simp] theorem Hw.setPort_ports : (h.setPort n f).ports = h.ports.modify (n) f := rfl
@[simp] theorem Hw.setPort_ring (k : Nat) : (h.setPort n f).ring k = h.ring k := rfl
@[simp] theorem Hw.setPort_ctx (k : Nat) : (h.setPort n f).ctx k = h.ctx k := rfl
@[simp] theorem Hw.setPort_die (k : Nat) : (h.setPort n f).die k = h.die k := rfl
@[simp] theorem Hw.setPort_dieAux (k : Nat) : (h.setPort n f).dieAux k = h.dieAux k := rfl
@[simp] theorem Hw.setPort_tile (k m : Nat) : (h.setPort n f).tile k m = h.tile k m := rfl
@[simp] theorem Hw.setPort_seq (k : Nat) : (h.setPort n f).seq k = h.seq k := rfl
@[simp] theorem Hw.setPort_host (k : Nat) : (h.setPort n f).host k = h.host k := rfl
@[simp] theorem Hw.setPort_oe (k : Nat) : (h.setPort n f).oe k = h.oe k := rfl
@[simp] theorem Hw.setPort_obj (k : Nat) : (h.setPort n f).obj k = h.obj k := rfl
@[simp] theorem Hw.setPort_cmd (k : Nat) (j : W32) : (h.setPort n f).cmd k j = h.cmd k j := rfl
@[simp] theorem Hw.setPort_outRing (e : Bool) (k : Nat) : (h.setPort n f).outRing e k = h.outRing e k := rfl

end

section
variable (h : Hw) (n l : Nat) (f : Link → Link)

@[simp] theorem Hw.setLink_now : (h.setLink n l f).now = h.now := rfl
@[simp] theorem Hw.setLink_freeCtr : (h.setLink n l f).freeCtr = h.freeCtr := rfl
@[simp] theorem Hw.setLink_startSeq : (h.setLink n l f).startSeq = h.startSeq := rfl
@[simp] theorem Hw.setLink_logSeq : (h.setLink n l f).logSeq = h.logSeq := rfl
@[simp] theorem Hw.setLink_out : (h.setLink n l f).out = h.out := rfl
@[simp] theorem Hw.setLink_lim : (h.setLink n l f).lim = h.lim := rfl
@[simp] theorem Hw.setLink_ks : (h.setLink n l f).ks = h.ks := rfl
@[simp] theorem Hw.setLink_ks2 : (h.setLink n l f).ks2 = h.ks2 := rfl
@[simp] theorem Hw.setLink_flash : (h.setLink n l f).flash = h.flash := rfl
@[simp] theorem Hw.setLink_rings : (h.setLink n l f).rings = h.rings := rfl
@[simp] theorem Hw.setLink_cpls : (h.setLink n l f).cpls = h.cpls := rfl
@[simp] theorem Hw.setLink_evts : (h.setLink n l f).evts = h.evts := rfl
@[simp] theorem Hw.setLink_ctxs : (h.setLink n l f).ctxs = h.ctxs := rfl
@[simp] theorem Hw.setLink_objs : (h.setLink n l f).objs = h.objs := rfl
@[simp] theorem Hw.setLink_syncFlight : (h.setLink n l f).syncFlight = h.syncFlight := rfl
@[simp] theorem Hw.setLink_seqs : (h.setLink n l f).seqs = h.seqs := rfl
@[simp] theorem Hw.setLink_dies : (h.setLink n l f).dies = h.dies := rfl
@[simp] theorem Hw.setLink_aux : (h.setLink n l f).aux = h.aux := rfl
@[simp] theorem Hw.setLink_tiles : (h.setLink n l f).tiles = h.tiles := rfl
@[simp] theorem Hw.setLink_oes : (h.setLink n l f).oes = h.oes := rfl
@[simp] theorem Hw.setLink_comb : (h.setLink n l f).comb = h.comb := rfl
@[simp] theorem Hw.setLink_transit : (h.setLink n l f).transit = h.transit := rfl
@[simp] theorem Hw.setLink_outMsgs : (h.setLink n l f).outMsgs = h.outMsgs := rfl
@[simp] theorem Hw.setLink_loose : (h.setLink n l f).loose = h.loose := rfl
@[simp] theorem Hw.setLink_accesses : (h.setLink n l f).accesses = h.accesses := rfl
@[simp] theorem Hw.setLink_requests : (h.setLink n l f).requests = h.requests := rfl
@[simp] theorem Hw.setLink_reorder : (h.setLink n l f).reorder = h.reorder := rfl
@[simp] theorem Hw.setLink_heldAccesses : (h.setLink n l f).heldAccesses = h.heldAccesses := rfl
@[simp] theorem Hw.setLink_binds : (h.setLink n l f).binds = h.binds := rfl
@[simp] theorem Hw.setLink_fences : (h.setLink n l f).fences = h.fences := rfl
@[simp] theorem Hw.setLink_topo : (h.setLink n l f).topo = h.topo := rfl
@[simp] theorem Hw.setLink_hosts : (h.setLink n l f).hosts = h.hosts := rfl
@[simp] theorem Hw.setLink_bcast : (h.setLink n l f).bcast = h.bcast := rfl
@[simp] theorem Hw.setLink_mem : (h.setLink n l f).mem = h.mem := rfl
@[simp] theorem Hw.setLink_poison : (h.setLink n l f).poison = h.poison := rfl
@[simp] theorem Hw.setLink_spared : (h.setLink n l f).spared = h.spared := rfl
@[simp] theorem Hw.setLink_ring (k : Nat) : (h.setLink n l f).ring k = h.ring k := rfl
@[simp] theorem Hw.setLink_ctx (k : Nat) : (h.setLink n l f).ctx k = h.ctx k := rfl
@[simp] theorem Hw.setLink_die (k : Nat) : (h.setLink n l f).die k = h.die k := rfl
@[simp] theorem Hw.setLink_dieAux (k : Nat) : (h.setLink n l f).dieAux k = h.dieAux k := rfl
@[simp] theorem Hw.setLink_tile (k m : Nat) : (h.setLink n l f).tile k m = h.tile k m := rfl
@[simp] theorem Hw.setLink_seq (k : Nat) : (h.setLink n l f).seq k = h.seq k := rfl
@[simp] theorem Hw.setLink_host (k : Nat) : (h.setLink n l f).host k = h.host k := rfl
@[simp] theorem Hw.setLink_oe (k : Nat) : (h.setLink n l f).oe k = h.oe k := rfl
@[simp] theorem Hw.setLink_obj (k : Nat) : (h.setLink n l f).obj k = h.obj k := rfl
@[simp] theorem Hw.setLink_cmd (k : Nat) (j : W32) : (h.setLink n l f).cmd k j = h.cmd k j := rfl
@[simp] theorem Hw.setLink_outRing (e : Bool) (k : Nat) : (h.setLink n l f).outRing e k = h.outRing e k := rfl

end

section
variable (h : Hw) (n : Nat) (f : OptEngine → OptEngine)

@[simp] theorem Hw.setOe_now : (h.setOe n f).now = h.now := rfl
@[simp] theorem Hw.setOe_freeCtr : (h.setOe n f).freeCtr = h.freeCtr := rfl
@[simp] theorem Hw.setOe_startSeq : (h.setOe n f).startSeq = h.startSeq := rfl
@[simp] theorem Hw.setOe_logSeq : (h.setOe n f).logSeq = h.logSeq := rfl
@[simp] theorem Hw.setOe_out : (h.setOe n f).out = h.out := rfl
@[simp] theorem Hw.setOe_lim : (h.setOe n f).lim = h.lim := rfl
@[simp] theorem Hw.setOe_ks : (h.setOe n f).ks = h.ks := rfl
@[simp] theorem Hw.setOe_ks2 : (h.setOe n f).ks2 = h.ks2 := rfl
@[simp] theorem Hw.setOe_flash : (h.setOe n f).flash = h.flash := rfl
@[simp] theorem Hw.setOe_rings : (h.setOe n f).rings = h.rings := rfl
@[simp] theorem Hw.setOe_cpls : (h.setOe n f).cpls = h.cpls := rfl
@[simp] theorem Hw.setOe_evts : (h.setOe n f).evts = h.evts := rfl
@[simp] theorem Hw.setOe_ctxs : (h.setOe n f).ctxs = h.ctxs := rfl
@[simp] theorem Hw.setOe_objs : (h.setOe n f).objs = h.objs := rfl
@[simp] theorem Hw.setOe_syncFlight : (h.setOe n f).syncFlight = h.syncFlight := rfl
@[simp] theorem Hw.setOe_seqs : (h.setOe n f).seqs = h.seqs := rfl
@[simp] theorem Hw.setOe_dies : (h.setOe n f).dies = h.dies := rfl
@[simp] theorem Hw.setOe_aux : (h.setOe n f).aux = h.aux := rfl
@[simp] theorem Hw.setOe_tiles : (h.setOe n f).tiles = h.tiles := rfl
@[simp] theorem Hw.setOe_ports : (h.setOe n f).ports = h.ports := rfl
@[simp] theorem Hw.setOe_comb : (h.setOe n f).comb = h.comb := rfl
@[simp] theorem Hw.setOe_transit : (h.setOe n f).transit = h.transit := rfl
@[simp] theorem Hw.setOe_outMsgs : (h.setOe n f).outMsgs = h.outMsgs := rfl
@[simp] theorem Hw.setOe_loose : (h.setOe n f).loose = h.loose := rfl
@[simp] theorem Hw.setOe_accesses : (h.setOe n f).accesses = h.accesses := rfl
@[simp] theorem Hw.setOe_requests : (h.setOe n f).requests = h.requests := rfl
@[simp] theorem Hw.setOe_reorder : (h.setOe n f).reorder = h.reorder := rfl
@[simp] theorem Hw.setOe_heldAccesses : (h.setOe n f).heldAccesses = h.heldAccesses := rfl
@[simp] theorem Hw.setOe_binds : (h.setOe n f).binds = h.binds := rfl
@[simp] theorem Hw.setOe_fences : (h.setOe n f).fences = h.fences := rfl
@[simp] theorem Hw.setOe_topo : (h.setOe n f).topo = h.topo := rfl
@[simp] theorem Hw.setOe_hosts : (h.setOe n f).hosts = h.hosts := rfl
@[simp] theorem Hw.setOe_bcast : (h.setOe n f).bcast = h.bcast := rfl
@[simp] theorem Hw.setOe_mem : (h.setOe n f).mem = h.mem := rfl
@[simp] theorem Hw.setOe_poison : (h.setOe n f).poison = h.poison := rfl
@[simp] theorem Hw.setOe_spared : (h.setOe n f).spared = h.spared := rfl
@[simp] theorem Hw.setOe_oes : (h.setOe n f).oes = h.oes.modify (n) f := rfl
@[simp] theorem Hw.setOe_ring (k : Nat) : (h.setOe n f).ring k = h.ring k := rfl
@[simp] theorem Hw.setOe_ctx (k : Nat) : (h.setOe n f).ctx k = h.ctx k := rfl
@[simp] theorem Hw.setOe_die (k : Nat) : (h.setOe n f).die k = h.die k := rfl
@[simp] theorem Hw.setOe_dieAux (k : Nat) : (h.setOe n f).dieAux k = h.dieAux k := rfl
@[simp] theorem Hw.setOe_tile (k m : Nat) : (h.setOe n f).tile k m = h.tile k m := rfl
@[simp] theorem Hw.setOe_seq (k : Nat) : (h.setOe n f).seq k = h.seq k := rfl
@[simp] theorem Hw.setOe_host (k : Nat) : (h.setOe n f).host k = h.host k := rfl
@[simp] theorem Hw.setOe_port (k : Nat) : (h.setOe n f).port k = h.port k := rfl
@[simp] theorem Hw.setOe_link (k m : Nat) : (h.setOe n f).link k m = h.link k m := rfl
@[simp] theorem Hw.setOe_obj (k : Nat) : (h.setOe n f).obj k = h.obj k := rfl
@[simp] theorem Hw.setOe_cmd (k : Nat) (j : W32) : (h.setOe n f).cmd k j = h.cmd k j := rfl
@[simp] theorem Hw.setOe_outRing (e : Bool) (k : Nat) : (h.setOe n f).outRing e k = h.outRing e k := rfl

end

section
variable (h : Hw) (o : Out)

@[simp] theorem Hw.emit_now : (h.emit o).now = h.now := rfl
@[simp] theorem Hw.emit_freeCtr : (h.emit o).freeCtr = h.freeCtr := rfl
@[simp] theorem Hw.emit_startSeq : (h.emit o).startSeq = h.startSeq := rfl
@[simp] theorem Hw.emit_logSeq : (h.emit o).logSeq = h.logSeq := rfl
@[simp] theorem Hw.emit_lim : (h.emit o).lim = h.lim := rfl
@[simp] theorem Hw.emit_ks : (h.emit o).ks = h.ks := rfl
@[simp] theorem Hw.emit_ks2 : (h.emit o).ks2 = h.ks2 := rfl
@[simp] theorem Hw.emit_flash : (h.emit o).flash = h.flash := rfl
@[simp] theorem Hw.emit_rings : (h.emit o).rings = h.rings := rfl
@[simp] theorem Hw.emit_cpls : (h.emit o).cpls = h.cpls := rfl
@[simp] theorem Hw.emit_evts : (h.emit o).evts = h.evts := rfl
@[simp] theorem Hw.emit_ctxs : (h.emit o).ctxs = h.ctxs := rfl
@[simp] theorem Hw.emit_objs : (h.emit o).objs = h.objs := rfl
@[simp] theorem Hw.emit_syncFlight : (h.emit o).syncFlight = h.syncFlight := rfl
@[simp] theorem Hw.emit_seqs : (h.emit o).seqs = h.seqs := rfl
@[simp] theorem Hw.emit_dies : (h.emit o).dies = h.dies := rfl
@[simp] theorem Hw.emit_aux : (h.emit o).aux = h.aux := rfl
@[simp] theorem Hw.emit_tiles : (h.emit o).tiles = h.tiles := rfl
@[simp] theorem Hw.emit_ports : (h.emit o).ports = h.ports := rfl
@[simp] theorem Hw.emit_oes : (h.emit o).oes = h.oes := rfl
@[simp] theorem Hw.emit_comb : (h.emit o).comb = h.comb := rfl
@[simp] theorem Hw.emit_transit : (h.emit o).transit = h.transit := rfl
@[simp] theorem Hw.emit_outMsgs : (h.emit o).outMsgs = h.outMsgs := rfl
@[simp] theorem Hw.emit_loose : (h.emit o).loose = h.loose := rfl
@[simp] theorem Hw.emit_accesses : (h.emit o).accesses = h.accesses := rfl
@[simp] theorem Hw.emit_requests : (h.emit o).requests = h.requests := rfl
@[simp] theorem Hw.emit_reorder : (h.emit o).reorder = h.reorder := rfl
@[simp] theorem Hw.emit_heldAccesses : (h.emit o).heldAccesses = h.heldAccesses := rfl
@[simp] theorem Hw.emit_binds : (h.emit o).binds = h.binds := rfl
@[simp] theorem Hw.emit_fences : (h.emit o).fences = h.fences := rfl
@[simp] theorem Hw.emit_topo : (h.emit o).topo = h.topo := rfl
@[simp] theorem Hw.emit_hosts : (h.emit o).hosts = h.hosts := rfl
@[simp] theorem Hw.emit_bcast : (h.emit o).bcast = h.bcast := rfl
@[simp] theorem Hw.emit_mem : (h.emit o).mem = h.mem := rfl
@[simp] theorem Hw.emit_poison : (h.emit o).poison = h.poison := rfl
@[simp] theorem Hw.emit_spared : (h.emit o).spared = h.spared := rfl
@[simp] theorem Hw.emit_out : (h.emit o).out = o :: h.out := rfl
@[simp] theorem Hw.emit_ring (k : Nat) : (h.emit o).ring k = h.ring k := rfl
@[simp] theorem Hw.emit_ctx (k : Nat) : (h.emit o).ctx k = h.ctx k := rfl
@[simp] theorem Hw.emit_die (k : Nat) : (h.emit o).die k = h.die k := rfl
@[simp] theorem Hw.emit_dieAux (k : Nat) : (h.emit o).dieAux k = h.dieAux k := rfl
@[simp] theorem Hw.emit_tile (k m : Nat) : (h.emit o).tile k m = h.tile k m := rfl
@[simp] theorem Hw.emit_seq (k : Nat) : (h.emit o).seq k = h.seq k := rfl
@[simp] theorem Hw.emit_host (k : Nat) : (h.emit o).host k = h.host k := rfl
@[simp] theorem Hw.emit_port (k : Nat) : (h.emit o).port k = h.port k := rfl
@[simp] theorem Hw.emit_link (k m : Nat) : (h.emit o).link k m = h.link k m := rfl
@[simp] theorem Hw.emit_oe (k : Nat) : (h.emit o).oe k = h.oe k := rfl
@[simp] theorem Hw.emit_obj (k : Nat) : (h.emit o).obj k = h.obj k := rfl
@[simp] theorem Hw.emit_cmd (k : Nat) (j : W32) : (h.emit o).cmd k j = h.cmd k j := rfl
@[simp] theorem Hw.emit_outRing (e : Bool) (k : Nat) : (h.emit o).outRing e k = h.outRing e k := rfl

end

section
variable (h : Hw) (n : Nat) (i : W32) (f : Cmd → Cmd)

@[simp] theorem Hw.setCmd_now : (h.setCmd n i f).now = h.now := rfl
@[simp] theorem Hw.setCmd_freeCtr : (h.setCmd n i f).freeCtr = h.freeCtr := rfl
@[simp] theorem Hw.setCmd_startSeq : (h.setCmd n i f).startSeq = h.startSeq := rfl
@[simp] theorem Hw.setCmd_logSeq : (h.setCmd n i f).logSeq = h.logSeq := rfl
@[simp] theorem Hw.setCmd_out : (h.setCmd n i f).out = h.out := rfl
@[simp] theorem Hw.setCmd_lim : (h.setCmd n i f).lim = h.lim := rfl
@[simp] theorem Hw.setCmd_ks : (h.setCmd n i f).ks = h.ks := rfl
@[simp] theorem Hw.setCmd_ks2 : (h.setCmd n i f).ks2 = h.ks2 := rfl
@[simp] theorem Hw.setCmd_flash : (h.setCmd n i f).flash = h.flash := rfl
@[simp] theorem Hw.setCmd_cpls : (h.setCmd n i f).cpls = h.cpls := rfl
@[simp] theorem Hw.setCmd_evts : (h.setCmd n i f).evts = h.evts := rfl
@[simp] theorem Hw.setCmd_ctxs : (h.setCmd n i f).ctxs = h.ctxs := rfl
@[simp] theorem Hw.setCmd_objs : (h.setCmd n i f).objs = h.objs := rfl
@[simp] theorem Hw.setCmd_syncFlight : (h.setCmd n i f).syncFlight = h.syncFlight := rfl
@[simp] theorem Hw.setCmd_seqs : (h.setCmd n i f).seqs = h.seqs := rfl
@[simp] theorem Hw.setCmd_dies : (h.setCmd n i f).dies = h.dies := rfl
@[simp] theorem Hw.setCmd_aux : (h.setCmd n i f).aux = h.aux := rfl
@[simp] theorem Hw.setCmd_tiles : (h.setCmd n i f).tiles = h.tiles := rfl
@[simp] theorem Hw.setCmd_ports : (h.setCmd n i f).ports = h.ports := rfl
@[simp] theorem Hw.setCmd_oes : (h.setCmd n i f).oes = h.oes := rfl
@[simp] theorem Hw.setCmd_comb : (h.setCmd n i f).comb = h.comb := rfl
@[simp] theorem Hw.setCmd_transit : (h.setCmd n i f).transit = h.transit := rfl
@[simp] theorem Hw.setCmd_outMsgs : (h.setCmd n i f).outMsgs = h.outMsgs := rfl
@[simp] theorem Hw.setCmd_loose : (h.setCmd n i f).loose = h.loose := rfl
@[simp] theorem Hw.setCmd_accesses : (h.setCmd n i f).accesses = h.accesses := rfl
@[simp] theorem Hw.setCmd_requests : (h.setCmd n i f).requests = h.requests := rfl
@[simp] theorem Hw.setCmd_reorder : (h.setCmd n i f).reorder = h.reorder := rfl
@[simp] theorem Hw.setCmd_heldAccesses : (h.setCmd n i f).heldAccesses = h.heldAccesses := rfl
@[simp] theorem Hw.setCmd_binds : (h.setCmd n i f).binds = h.binds := rfl
@[simp] theorem Hw.setCmd_fences : (h.setCmd n i f).fences = h.fences := rfl
@[simp] theorem Hw.setCmd_topo : (h.setCmd n i f).topo = h.topo := rfl
@[simp] theorem Hw.setCmd_hosts : (h.setCmd n i f).hosts = h.hosts := rfl
@[simp] theorem Hw.setCmd_bcast : (h.setCmd n i f).bcast = h.bcast := rfl
@[simp] theorem Hw.setCmd_mem : (h.setCmd n i f).mem = h.mem := rfl
@[simp] theorem Hw.setCmd_poison : (h.setCmd n i f).poison = h.poison := rfl
@[simp] theorem Hw.setCmd_spared : (h.setCmd n i f).spared = h.spared := rfl
@[simp] theorem Hw.setCmd_ctx (k : Nat) : (h.setCmd n i f).ctx k = h.ctx k := rfl
@[simp] theorem Hw.setCmd_die (k : Nat) : (h.setCmd n i f).die k = h.die k := rfl
@[simp] theorem Hw.setCmd_dieAux (k : Nat) : (h.setCmd n i f).dieAux k = h.dieAux k := rfl
@[simp] theorem Hw.setCmd_tile (k m : Nat) : (h.setCmd n i f).tile k m = h.tile k m := rfl
@[simp] theorem Hw.setCmd_seq (k : Nat) : (h.setCmd n i f).seq k = h.seq k := rfl
@[simp] theorem Hw.setCmd_host (k : Nat) : (h.setCmd n i f).host k = h.host k := rfl
@[simp] theorem Hw.setCmd_port (k : Nat) : (h.setCmd n i f).port k = h.port k := rfl
@[simp] theorem Hw.setCmd_link (k m : Nat) : (h.setCmd n i f).link k m = h.link k m := rfl
@[simp] theorem Hw.setCmd_oe (k : Nat) : (h.setCmd n i f).oe k = h.oe k := rfl
@[simp] theorem Hw.setCmd_obj (k : Nat) : (h.setCmd n i f).obj k = h.obj k := rfl
@[simp] theorem Hw.setCmd_outRing (e : Bool) (k : Nat) : (h.setCmd n i f).outRing e k = h.outRing e k := rfl

end

section
variable (h : Hw) (n : Nat) (v : W64)

@[simp] theorem Hw.setObj_now : (h.setObj n v).now = h.now := rfl
@[simp] theorem Hw.setObj_freeCtr : (h.setObj n v).freeCtr = h.freeCtr := rfl
@[simp] theorem Hw.setObj_startSeq : (h.setObj n v).startSeq = h.startSeq := rfl
@[simp] theorem Hw.setObj_logSeq : (h.setObj n v).logSeq = h.logSeq := rfl
@[simp] theorem Hw.setObj_out : (h.setObj n v).out = h.out := rfl
@[simp] theorem Hw.setObj_lim : (h.setObj n v).lim = h.lim := rfl
@[simp] theorem Hw.setObj_ks : (h.setObj n v).ks = h.ks := rfl
@[simp] theorem Hw.setObj_ks2 : (h.setObj n v).ks2 = h.ks2 := rfl
@[simp] theorem Hw.setObj_flash : (h.setObj n v).flash = h.flash := rfl
@[simp] theorem Hw.setObj_rings : (h.setObj n v).rings = h.rings := rfl
@[simp] theorem Hw.setObj_cpls : (h.setObj n v).cpls = h.cpls := rfl
@[simp] theorem Hw.setObj_evts : (h.setObj n v).evts = h.evts := rfl
@[simp] theorem Hw.setObj_ctxs : (h.setObj n v).ctxs = h.ctxs := rfl
@[simp] theorem Hw.setObj_syncFlight : (h.setObj n v).syncFlight = h.syncFlight := rfl
@[simp] theorem Hw.setObj_seqs : (h.setObj n v).seqs = h.seqs := rfl
@[simp] theorem Hw.setObj_dies : (h.setObj n v).dies = h.dies := rfl
@[simp] theorem Hw.setObj_aux : (h.setObj n v).aux = h.aux := rfl
@[simp] theorem Hw.setObj_tiles : (h.setObj n v).tiles = h.tiles := rfl
@[simp] theorem Hw.setObj_ports : (h.setObj n v).ports = h.ports := rfl
@[simp] theorem Hw.setObj_oes : (h.setObj n v).oes = h.oes := rfl
@[simp] theorem Hw.setObj_comb : (h.setObj n v).comb = h.comb := rfl
@[simp] theorem Hw.setObj_transit : (h.setObj n v).transit = h.transit := rfl
@[simp] theorem Hw.setObj_outMsgs : (h.setObj n v).outMsgs = h.outMsgs := rfl
@[simp] theorem Hw.setObj_loose : (h.setObj n v).loose = h.loose := rfl
@[simp] theorem Hw.setObj_accesses : (h.setObj n v).accesses = h.accesses := rfl
@[simp] theorem Hw.setObj_requests : (h.setObj n v).requests = h.requests := rfl
@[simp] theorem Hw.setObj_reorder : (h.setObj n v).reorder = h.reorder := rfl
@[simp] theorem Hw.setObj_heldAccesses : (h.setObj n v).heldAccesses = h.heldAccesses := rfl
@[simp] theorem Hw.setObj_binds : (h.setObj n v).binds = h.binds := rfl
@[simp] theorem Hw.setObj_fences : (h.setObj n v).fences = h.fences := rfl
@[simp] theorem Hw.setObj_topo : (h.setObj n v).topo = h.topo := rfl
@[simp] theorem Hw.setObj_hosts : (h.setObj n v).hosts = h.hosts := rfl
@[simp] theorem Hw.setObj_bcast : (h.setObj n v).bcast = h.bcast := rfl
@[simp] theorem Hw.setObj_mem : (h.setObj n v).mem = h.mem := rfl
@[simp] theorem Hw.setObj_poison : (h.setObj n v).poison = h.poison := rfl
@[simp] theorem Hw.setObj_spared : (h.setObj n v).spared = h.spared := rfl
@[simp] theorem Hw.setObj_ring (k : Nat) : (h.setObj n v).ring k = h.ring k := rfl
@[simp] theorem Hw.setObj_ctx (k : Nat) : (h.setObj n v).ctx k = h.ctx k := rfl
@[simp] theorem Hw.setObj_die (k : Nat) : (h.setObj n v).die k = h.die k := rfl
@[simp] theorem Hw.setObj_dieAux (k : Nat) : (h.setObj n v).dieAux k = h.dieAux k := rfl
@[simp] theorem Hw.setObj_tile (k m : Nat) : (h.setObj n v).tile k m = h.tile k m := rfl
@[simp] theorem Hw.setObj_seq (k : Nat) : (h.setObj n v).seq k = h.seq k := rfl
@[simp] theorem Hw.setObj_host (k : Nat) : (h.setObj n v).host k = h.host k := rfl
@[simp] theorem Hw.setObj_port (k : Nat) : (h.setObj n v).port k = h.port k := rfl
@[simp] theorem Hw.setObj_link (k m : Nat) : (h.setObj n v).link k m = h.link k m := rfl
@[simp] theorem Hw.setObj_oe (k : Nat) : (h.setObj n v).oe k = h.oe k := rfl
@[simp] theorem Hw.setObj_cmd (k : Nat) (j : W32) : (h.setObj n v).cmd k j = h.cmd k j := rfl
@[simp] theorem Hw.setObj_outRing (e : Bool) (k : Nat) : (h.setObj n v).outRing e k = h.outRing e k := rfl

end

end Sys2Proof.Machine
end

