-- ==== Sys2Proof/Laws/Events.lean ====
section
/-! SUPPORT. Everything that records, events and interrupts can change: event and completion rings, the hosts, what went out, LOG_SEQ, and
the event logs of the dies. -/

namespace Sys2Proof.Machine

/-- The machine without its event rings, its hosts and what went out. -/
def Hw.silent (h : Hw) : Hw := { h with evts := [], hosts := [], out := [] }

theorem Hw.silent_iff {a b : Hw} : b.silent = a.silent ↔ b = { a with evts := b.evts, hosts := b.hosts, out := b.out } := by
  cases a
  cases b
  simp [Hw.silent]

/-- A write of host memory changes the hosts alone. -/
theorem Hw.hostWrite_only (h : Hw) (p a : Nat) (bs : List Byte) : h.hostWrite p a bs = { h with hosts := (h.hostWrite p a bs).hosts } := rfl

@[simp] theorem Hw.hostWrite_silent (h : Hw) (p a : Nat) (bs : List Byte) : (h.hostWrite p a bs).silent = h.silent := rfl
@[simp] theorem Hw.setHost_silent (h : Hw) (p : Nat) (f : HostPort → HostPort) : (h.setHost p f).silent = h.silent := rfl
@[simp] theorem Hw.setEvt_silent (h : Hw) (n : Nat) (f : OutRing → OutRing) : (h.setOutRing true n f).silent = h.silent := rfl
@[simp] theorem Hw.emit_silent (h : Hw) (o : Out) : (h.emit o).silent = h.silent := rfl

@[simp] theorem Hw.msixEmit_silent (h : Hw) (p v : Nat) : (h.msixEmit p v).silent = h.silent := by
  unfold Hw.msixEmit
  split <;> rfl

@[simp] theorem Hw.msixSend_silent (h : Hw) (p v : Nat) : (h.msixSend p v).silent = h.silent := by
  unfold Hw.msixSend
  split <;> simp

@[simp] theorem Hw.noteEvt_silent (h : Hw) (n : Nat) : (h.noteRecord true n).silent = h.silent := by
  unfold Hw.noteRecord
  dsimp only
  split
  · rfl
  · split <;> simp

@[simp] theorem Hw.putEvt_silent (h : Hw) (n : Nat) (rb : List Byte) : (h.putRecord true n rb).silent = h.silent := by
  simp [Hw.putRecord]

@[simp] theorem Hw.deliver_silent (h : Hw) (p : Nat) (rb : List Byte) : (h.deliver p rb).silent = h.silent := by
  unfold Hw.deliver
  dsimp only
  repeat' split
  all_goals simp

theorem Hw.delivers_silent (ps : List Nat) (rb : List Byte) (h : Hw) : (ps.foldl (fun h p => h.deliver p rb) h).silent = h.silent := by
  induction ps generalizing h with
  | nil => rfl
  | cons p r ih => simp [ih]

theorem Hw.keepEvent_log (h : Hw) (src : Nat) (rb : List Byte) (d : Nat) :
    (h.keepEvent src rb).dieAux d = { h.dieAux d with evLog := ((h.keepEvent src rb).dieAux d).evLog } := by
  unfold Hw.keepEvent
  split
  · simp only [Hw.dieAux, Hw.setAux, List.getD_eq_getElem?_getD, List.getElem?_modify]
    cases h.aux[d]? with
    | none => simp
    | some x => by_cases e : (if src / 0x1000 = 1 then src % 0x1000 else src % 0x1000 / 16) = d <;> simp [e]
  · rfl

theorem Hw.keepEvent_only (h : Hw) (src : Nat) (rb : List Byte) :
    h.keepEvent src rb = { h with aux := (h.keepEvent src rb).aux } := by
  unfold Hw.keepEvent
  split <;> rfl

/-- An event tells, and does nothing else. -/
theorem Hw.event_tells (h : Hw) (ps : List Nat) (code src ctx : Nat) (epoch : Byte) (d0 d1 : Nat) :
    h.Tells (h.event ps code src ctx epoch d0 d1) 1 := by
  unfold Hw.event
  dsimp only
  generalize eventBytes code src ctx epoch h.logSeq (h.localNs src) d0 d1 = rb
  have q := Hw.silent_iff.1 (Hw.delivers_silent ps rb { h.keepEvent src rb with logSeq := (h.keepEvent src rb).logSeq + 1 })
  have k := Hw.keepEvent_only h src rb
  have l : (h.keepEvent src rb).logSeq = h.logSeq := by rw [k]
  generalize ps.foldl (fun h p => h.deliver p rb) { h.keepEvent src rb with logSeq := (h.keepEvent src rb).logSeq + 1 } = b at q ⊢
  have a : b.aux = (h.keepEvent src rb).aux := by rw [q]
  refine ⟨?_, fun d => ?_⟩
  · rw [q, l]
    conv_lhs => rw [k]
    simp
  · have e : ∀ n, b.dieAux n = (h.keepEvent src rb).dieAux n := fun n => by simp [Hw.dieAux, a]
    rw [e]
    exact Hw.keepEvent_log h src rb d

section
variable (h : Hw) (ps : List Nat) (code src ctx : Nat) (epoch : Byte) (d0 d1 : Nat)

@[simp] theorem Hw.event_now : (h.event ps code src ctx epoch d0 d1).now = h.now := by rw [(h.event_tells ps code src ctx epoch d0 d1).1]
@[simp] theorem Hw.event_freeCtr : (h.event ps code src ctx epoch d0 d1).freeCtr = h.freeCtr := by rw [(h.event_tells ps code src ctx epoch d0 d1).1]
@[simp] theorem Hw.event_startSeq : (h.event ps code src ctx epoch d0 d1).startSeq = h.startSeq := by rw [(h.event_tells ps code src ctx epoch d0 d1).1]
@[simp] theorem Hw.event_lim : (h.event ps code src ctx epoch d0 d1).lim = h.lim := by rw [(h.event_tells ps code src ctx epoch d0 d1).1]
@[simp] theorem Hw.event_ks : (h.event ps code src ctx epoch d0 d1).ks = h.ks := by rw [(h.event_tells ps code src ctx epoch d0 d1).1]
@[simp] theorem Hw.event_ks2 : (h.event ps code src ctx epoch d0 d1).ks2 = h.ks2 := by rw [(h.event_tells ps code src ctx epoch d0 d1).1]
@[simp] theorem Hw.event_flash : (h.event ps code src ctx epoch d0 d1).flash = h.flash := by rw [(h.event_tells ps code src ctx epoch d0 d1).1]
@[simp] theorem Hw.event_rings : (h.event ps code src ctx epoch d0 d1).rings = h.rings := by rw [(h.event_tells ps code src ctx epoch d0 d1).1]
@[simp] theorem Hw.event_cpls : (h.event ps code src ctx epoch d0 d1).cpls = h.cpls := by rw [(h.event_tells ps code src ctx epoch d0 d1).1]
@[simp] theorem Hw.event_ctxs : (h.event ps code src ctx epoch d0 d1).ctxs = h.ctxs := by rw [(h.event_tells ps code src ctx epoch d0 d1).1]
@[simp] theorem Hw.event_objs : (h.event ps code src ctx epoch d0 d1).objs = h.objs := by rw [(h.event_tells ps code src ctx epoch d0 d1).1]
@[simp] theorem Hw.event_syncFlight : (h.event ps code src ctx epoch d0 d1).syncFlight = h.syncFlight := by rw [(h.event_tells ps code src ctx epoch d0 d1).1]
@[simp] theorem Hw.event_seqs : (h.event ps code src ctx epoch d0 d1).seqs = h.seqs := by rw [(h.event_tells ps code src ctx epoch d0 d1).1]
@[simp] theorem Hw.event_dies : (h.event ps code src ctx epoch d0 d1).dies = h.dies := by rw [(h.event_tells ps code src ctx epoch d0 d1).1]
@[simp] theorem Hw.event_tiles : (h.event ps code src ctx epoch d0 d1).tiles = h.tiles := by rw [(h.event_tells ps code src ctx epoch d0 d1).1]
@[simp] theorem Hw.event_ports : (h.event ps code src ctx epoch d0 d1).ports = h.ports := by rw [(h.event_tells ps code src ctx epoch d0 d1).1]
@[simp] theorem Hw.event_oes : (h.event ps code src ctx epoch d0 d1).oes = h.oes := by rw [(h.event_tells ps code src ctx epoch d0 d1).1]
@[simp] theorem Hw.event_comb : (h.event ps code src ctx epoch d0 d1).comb = h.comb := by rw [(h.event_tells ps code src ctx epoch d0 d1).1]
@[simp] theorem Hw.event_transit : (h.event ps code src ctx epoch d0 d1).transit = h.transit := by rw [(h.event_tells ps code src ctx epoch d0 d1).1]
@[simp] theorem Hw.event_outMsgs : (h.event ps code src ctx epoch d0 d1).outMsgs = h.outMsgs := by rw [(h.event_tells ps code src ctx epoch d0 d1).1]
@[simp] theorem Hw.event_binds : (h.event ps code src ctx epoch d0 d1).binds = h.binds := by rw [(h.event_tells ps code src ctx epoch d0 d1).1]
@[simp] theorem Hw.event_fences : (h.event ps code src ctx epoch d0 d1).fences = h.fences := by rw [(h.event_tells ps code src ctx epoch d0 d1).1]
@[simp] theorem Hw.event_topo : (h.event ps code src ctx epoch d0 d1).topo = h.topo := by rw [(h.event_tells ps code src ctx epoch d0 d1).1]
@[simp] theorem Hw.event_bcast : (h.event ps code src ctx epoch d0 d1).bcast = h.bcast := by rw [(h.event_tells ps code src ctx epoch d0 d1).1]
@[simp] theorem Hw.event_mem : (h.event ps code src ctx epoch d0 d1).mem = h.mem := by rw [(h.event_tells ps code src ctx epoch d0 d1).1]
@[simp] theorem Hw.event_poison : (h.event ps code src ctx epoch d0 d1).poison = h.poison := by rw [(h.event_tells ps code src ctx epoch d0 d1).1]

end

section
variable (h : Hw) (p a : Nat) (bs : List Byte)

@[simp] theorem Hw.hostWrite_now : (h.hostWrite p a bs).now = h.now := rfl
@[simp] theorem Hw.hostWrite_freeCtr : (h.hostWrite p a bs).freeCtr = h.freeCtr := rfl
@[simp] theorem Hw.hostWrite_startSeq : (h.hostWrite p a bs).startSeq = h.startSeq := rfl
@[simp] theorem Hw.hostWrite_lim : (h.hostWrite p a bs).lim = h.lim := rfl
@[simp] theorem Hw.hostWrite_ks : (h.hostWrite p a bs).ks = h.ks := rfl
@[simp] theorem Hw.hostWrite_ks2 : (h.hostWrite p a bs).ks2 = h.ks2 := rfl
@[simp] theorem Hw.hostWrite_flash : (h.hostWrite p a bs).flash = h.flash := rfl
@[simp] theorem Hw.hostWrite_rings : (h.hostWrite p a bs).rings = h.rings := rfl
@[simp] theorem Hw.hostWrite_cpls : (h.hostWrite p a bs).cpls = h.cpls := rfl
@[simp] theorem Hw.hostWrite_ctxs : (h.hostWrite p a bs).ctxs = h.ctxs := rfl
@[simp] theorem Hw.hostWrite_objs : (h.hostWrite p a bs).objs = h.objs := rfl
@[simp] theorem Hw.hostWrite_syncFlight : (h.hostWrite p a bs).syncFlight = h.syncFlight := rfl
@[simp] theorem Hw.hostWrite_seqs : (h.hostWrite p a bs).seqs = h.seqs := rfl
@[simp] theorem Hw.hostWrite_dies : (h.hostWrite p a bs).dies = h.dies := rfl
@[simp] theorem Hw.hostWrite_tiles : (h.hostWrite p a bs).tiles = h.tiles := rfl
@[simp] theorem Hw.hostWrite_ports : (h.hostWrite p a bs).ports = h.ports := rfl
@[simp] theorem Hw.hostWrite_oes : (h.hostWrite p a bs).oes = h.oes := rfl
@[simp] theorem Hw.hostWrite_comb : (h.hostWrite p a bs).comb = h.comb := rfl
@[simp] theorem Hw.hostWrite_transit : (h.hostWrite p a bs).transit = h.transit := rfl
@[simp] theorem Hw.hostWrite_outMsgs : (h.hostWrite p a bs).outMsgs = h.outMsgs := rfl
@[simp] theorem Hw.hostWrite_binds : (h.hostWrite p a bs).binds = h.binds := rfl
@[simp] theorem Hw.hostWrite_fences : (h.hostWrite p a bs).fences = h.fences := rfl
@[simp] theorem Hw.hostWrite_topo : (h.hostWrite p a bs).topo = h.topo := rfl
@[simp] theorem Hw.hostWrite_bcast : (h.hostWrite p a bs).bcast = h.bcast := rfl
@[simp] theorem Hw.hostWrite_mem : (h.hostWrite p a bs).mem = h.mem := rfl
@[simp] theorem Hw.hostWrite_poison : (h.hostWrite p a bs).poison = h.poison := rfl
@[simp] theorem Hw.hostWrite_evts : (h.hostWrite p a bs).evts = h.evts := rfl
@[simp] theorem Hw.hostWrite_out : (h.hostWrite p a bs).out = h.out := rfl
@[simp] theorem Hw.hostWrite_aux : (h.hostWrite p a bs).aux = h.aux := rfl
@[simp] theorem Hw.hostWrite_logSeq : (h.hostWrite p a bs).logSeq = h.logSeq := rfl

end

end Sys2Proof.Machine
end

