-- ==== Sys2Proof/Laws/Parts.lean ====
section
/-! SUPPORT. What each numbered part holds after one of its parts is updated. -/

namespace Sys2Proof.Machine

/-- An entry of a list one entry of which is updated. -/
theorem getD_modify {α : Type} (l : List α) (n k : Nat) (f : α → α) (d : α) :
    (l.modify n f).getD k d = if k = n ∧ n < l.length then f (l.getD k d) else l.getD k d := by
  simp only [List.getD_eq_getElem?_getD, List.getElem?_modify]
  by_cases e : n = k
  · subst e
    by_cases hn : n < l.length
    · simp [hn]
    · simp [hn]
  · have e' : ¬ k = n := fun h => e h.symm
    cases l[k]? <;> simp [e, e']

theorem Hw.ring_setRing (h : Hw) (n k : Nat) (f : WorkRing → WorkRing) :
    (h.setRing n f).ring k = if k = n ∧ n < h.rings.length then f (h.ring k) else h.ring k := getD_modify h.rings n k f _
@[simp] theorem Hw.ring_setRing_same (h : Hw) (n : Nat) (f : WorkRing → WorkRing) (l : n < h.rings.length) :
    (h.setRing n f).ring n = f (h.ring n) := by simp [Hw.ring_setRing, l]
@[simp] theorem Hw.ring_setRing_other (h : Hw) (n k : Nat) (f : WorkRing → WorkRing) (e : k ≠ n) :
    (h.setRing n f).ring k = h.ring k := by simp [Hw.ring_setRing, e]

theorem Hw.ctx_setCtx (h : Hw) (n k : Nat) (f : Ctx → Ctx) :
    (h.setCtx n f).ctx k = if k = n ∧ n < h.ctxs.length then f (h.ctx k) else h.ctx k := getD_modify h.ctxs n k f _
@[simp] theorem Hw.ctx_setCtx_same (h : Hw) (n : Nat) (f : Ctx → Ctx) (l : n < h.ctxs.length) :
    (h.setCtx n f).ctx n = f (h.ctx n) := by simp [Hw.ctx_setCtx, l]
@[simp] theorem Hw.ctx_setCtx_other (h : Hw) (n k : Nat) (f : Ctx → Ctx) (e : k ≠ n) :
    (h.setCtx n f).ctx k = h.ctx k := by simp [Hw.ctx_setCtx, e]

theorem Hw.die_setDie (h : Hw) (n k : Nat) (f : Die → Die) :
    (h.setDie n f).die k = if k = n ∧ n < h.dies.length then f (h.die k) else h.die k := getD_modify h.dies n k f _
@[simp] theorem Hw.die_setDie_same (h : Hw) (n : Nat) (f : Die → Die) (l : n < h.dies.length) :
    (h.setDie n f).die n = f (h.die n) := by simp [Hw.die_setDie, l]
@[simp] theorem Hw.die_setDie_other (h : Hw) (n k : Nat) (f : Die → Die) (e : k ≠ n) :
    (h.setDie n f).die k = h.die k := by simp [Hw.die_setDie, e]

theorem Hw.dieAux_setAux (h : Hw) (n k : Nat) (f : DieAux → DieAux) :
    (h.setAux n f).dieAux k = if k = n ∧ n < h.aux.length then f (h.dieAux k) else h.dieAux k := getD_modify h.aux n k f _
@[simp] theorem Hw.dieAux_setAux_same (h : Hw) (n : Nat) (f : DieAux → DieAux) (l : n < h.aux.length) :
    (h.setAux n f).dieAux n = f (h.dieAux n) := by simp [Hw.dieAux_setAux, l]
@[simp] theorem Hw.dieAux_setAux_other (h : Hw) (n k : Nat) (f : DieAux → DieAux) (e : k ≠ n) :
    (h.setAux n f).dieAux k = h.dieAux k := by simp [Hw.dieAux_setAux, e]

theorem Hw.seq_setSeq (h : Hw) (n k : Nat) (f : SeqSlot → SeqSlot) :
    (h.setSeq n f).seq k = if k = n ∧ n < h.seqs.length then f (h.seq k) else h.seq k := getD_modify h.seqs n k f _
@[simp] theorem Hw.seq_setSeq_same (h : Hw) (n : Nat) (f : SeqSlot → SeqSlot) (l : n < h.seqs.length) :
    (h.setSeq n f).seq n = f (h.seq n) := by simp [Hw.seq_setSeq, l]
@[simp] theorem Hw.seq_setSeq_other (h : Hw) (n k : Nat) (f : SeqSlot → SeqSlot) (e : k ≠ n) :
    (h.setSeq n f).seq k = h.seq k := by simp [Hw.seq_setSeq, e]

theorem Hw.host_setHost (h : Hw) (n k : Nat) (f : HostPort → HostPort) :
    (h.setHost n f).host k = if k = n ∧ n < h.hosts.length then f (h.host k) else h.host k := getD_modify h.hosts n k f _
@[simp] theorem Hw.host_setHost_same (h : Hw) (n : Nat) (f : HostPort → HostPort) (l : n < h.hosts.length) :
    (h.setHost n f).host n = f (h.host n) := by simp [Hw.host_setHost, l]
@[simp] theorem Hw.host_setHost_other (h : Hw) (n k : Nat) (f : HostPort → HostPort) (e : k ≠ n) :
    (h.setHost n f).host k = h.host k := by simp [Hw.host_setHost, e]

theorem Hw.port_setPort (h : Hw) (n k : Nat) (f : FPort → FPort) :
    (h.setPort n f).port k = if k = n ∧ n < h.ports.length then f (h.port k) else h.port k := getD_modify h.ports n k f _
@[simp] theorem Hw.port_setPort_same (h : Hw) (n : Nat) (f : FPort → FPort) (l : n < h.ports.length) :
    (h.setPort n f).port n = f (h.port n) := by simp [Hw.port_setPort, l]
@[simp] theorem Hw.port_setPort_other (h : Hw) (n k : Nat) (f : FPort → FPort) (e : k ≠ n) :
    (h.setPort n f).port k = h.port k := by simp [Hw.port_setPort, e]

theorem Hw.oe_setOe (h : Hw) (n k : Nat) (f : OptEngine → OptEngine) :
    (h.setOe n f).oe k = if k = n ∧ n < h.oes.length then f (h.oe k) else h.oe k := getD_modify h.oes n k f _
@[simp] theorem Hw.oe_setOe_same (h : Hw) (n : Nat) (f : OptEngine → OptEngine) (l : n < h.oes.length) :
    (h.setOe n f).oe n = f (h.oe n) := by simp [Hw.oe_setOe, l]
@[simp] theorem Hw.oe_setOe_other (h : Hw) (n k : Nat) (f : OptEngine → OptEngine) (e : k ≠ n) :
    (h.setOe n f).oe k = h.oe k := by simp [Hw.oe_setOe, e]

theorem Hw.tile_setTile (h : Hw) (d t e k : Nat) (f : Tile → Tile) :
    (h.setTile d t f).tile e k = if 16 * e + k = 16 * d + t ∧ 16 * d + t < h.tiles.length then f (h.tile e k) else h.tile e k :=
  getD_modify h.tiles (16 * d + t) (16 * e + k) f _
@[simp] theorem Hw.tile_setTile_same (h : Hw) (d t : Nat) (f : Tile → Tile) (l : 16 * d + t < h.tiles.length) :
    (h.setTile d t f).tile d t = f (h.tile d t) := by simp [Hw.tile_setTile, l]
@[simp] theorem Hw.tile_setTile_other (h : Hw) (d t e k : Nat) (f : Tile → Tile) (n : 16 * e + k ≠ 16 * d + t) :
    (h.setTile d t f).tile e k = h.tile e k := by simp [Hw.tile_setTile, n]

theorem Hw.outRing_setOutRing (h : Hw) (b e : Bool) (n k : Nat) (f : OutRing → OutRing) :
    (h.setOutRing b n f).outRing e k =
      if e = b ∧ k = n ∧ n < (if b then h.evts.length else h.cpls.length) then f (h.outRing e k) else h.outRing e k := by
  cases b <;> cases e
  · exact (getD_modify h.cpls n k f _).trans (by simp [Hw.outRing])
  · simp [Hw.outRing, Hw.setOutRing]
  · simp [Hw.outRing, Hw.setOutRing]
  · exact (getD_modify h.evts n k f _).trans (by simp [Hw.outRing])

@[simp] theorem Hw.port_setLink_other (h : Hw) (p l q : Nat) (f : Link → Link) (e : q ≠ p) : (h.setLink p l f).port q = h.port q := by
  simp [Hw.setLink, e]

theorem Hw.link_setLink (h : Hw) (p l q m : Nat) (f : Link → Link) :
    (h.setLink p l f).link q m =
      if q = p ∧ m = l ∧ p < h.ports.length ∧ l < (h.port p).links.length then f (h.link q m) else h.link q m := by
  unfold Hw.setLink Hw.link
  rw [Hw.port_setPort]
  by_cases e : q = p ∧ p < h.ports.length
  · obtain ⟨rfl, l1⟩ := e
    rw [if_pos ⟨rfl, l1⟩]
    exact (getD_modify (h.port q).links l m f _).trans (by simp [l1])
  · have e' : ¬ (q = p ∧ m = l ∧ p < h.ports.length ∧ l < (h.port p).links.length) := fun x => e ⟨x.1, x.2.2.1⟩
    rw [if_neg e, if_neg e']
@[simp] theorem Hw.link_setLink_other (h : Hw) (p l q m : Nat) (f : Link → Link) (e : q ≠ p ∨ m ≠ l) :
    (h.setLink p l f).link q m = h.link q m := by
  rw [Hw.link_setLink]
  have : ¬ (q = p ∧ m = l ∧ p < h.ports.length ∧ l < (h.port p).links.length) := fun x => e.elim (· x.1) (· x.2.1)
  rw [if_neg this]

/-! ## Running commands -/

/-- A search by index in commands one of which is updated without changing its index. -/
theorem find_map_index (l : List Cmd) (i j : W32) (f : Cmd → Cmd) (keep : ∀ c, (f c).index = c.index) :
    (l.map fun c => if c.index == i then f c else c).find? (·.index == j) =
      if j = i then (l.find? (·.index == j)).map f else l.find? (·.index == j) := by
  have q : ∀ c : Cmd, (if c.index == i then f c else c).index = c.index := fun c => by split <;> simp [keep]
  induction l with
  | nil => simp
  | cons c r ih =>
    rw [List.map_cons, List.find?_cons, List.find?_cons, q, ih]
    by_cases k : c.index = j
    · subst k
      by_cases e : c.index = i <;> simp [e]
    · simp only [show (c.index == j) = false from by simpa using k]

theorem Hw.cmd_setCmd (h : Hw) (r k : Nat) (i j : W32) (f : Cmd → Cmd) (keep : ∀ c, (f c).index = c.index) :
    (h.setCmd r i f).cmd k j = if k = r ∧ j = i then (h.cmd k j).map f else h.cmd k j := by
  unfold Hw.setCmd Hw.cmd
  rw [Hw.ring_setRing]
  by_cases e : k = r
  · subst e
    by_cases l : k < h.rings.length
    · simp only [true_and, l, and_self, if_true]
      exact find_map_index _ _ _ _ keep
    · have z : h.ring k = {} := by simp [Hw.ring, List.getD_eq_getElem?_getD, List.getElem?_eq_none (Nat.le_of_not_lt l)]
      simp [l, z]
  · simp [e]

/-- The fields of a ring other than its running commands stand when one of them is updated. -/
theorem Hw.ring_setCmd (h : Hw) (r k : Nat) (i : W32) (f : Cmd → Cmd) :
    (h.setCmd r i f).ring k = { h.ring k with running := ((h.setCmd r i f).ring k).running } := by
  unfold Hw.setCmd
  rw [Hw.ring_setRing]
  split <;> rfl
@[simp] theorem Hw.ring_setCmd_other (h : Hw) (r k : Nat) (i : W32) (f : Cmd → Cmd) (e : k ≠ r) : (h.setCmd r i f).ring k = h.ring k := by
  simp [Hw.setCmd, e]

/-! ## Synchronisation objects -/

theorem Hw.obj_setObj (h : Hw) (n k : Nat) (v : W64) : (h.setObj n v).obj k = if k = n then v else h.obj k := by
  have drop (l : List (Nat × W64)) (e : k ≠ n) : (l.filter (·.1 != n)).find? (·.1 == k) = l.find? (·.1 == k) := by
    induction l with
    | nil => rfl
    | cons x r ih =>
      by_cases a : x.1 = n
      · have : ¬ x.1 = k := fun b => e (b.symm.trans a)
        simp [a, ih, show ¬ n = k from fun b => e b.symm]
      · by_cases b : x.1 = k <;> simp_all
  have gone (l : List (Nat × W64)) : (l.filter (·.1 != n)).find? (·.1 == n) = none := by
    simp [List.find?_eq_none]
  unfold Hw.setObj Hw.obj
  dsimp only
  by_cases e : k = n
  · subst e
    by_cases z : v = 0
    · rw [if_pos z, gone]; simp [z]
    · rw [if_neg z]
      have : ((h.objs.filter (·.1 != k)).takeWhile fun x => decide (x.1 < k)).find? (·.1 == k) = none := by
        simp only [List.find?_eq_none]
        intro x hx
        have := (List.takeWhile_subset _) hx
        simp at this ⊢
        exact this.2
      simp [List.find?_append, this]
  · by_cases z : v = 0
    · rw [if_pos z, drop _ e, if_neg e]
    · rw [if_neg z, if_neg e]
      have s (l : List (Nat × W64)) (p : Nat × W64 → Bool) :
          (l.takeWhile p ++ (n, v) :: l.dropWhile p).find? (·.1 == k) = l.find? (·.1 == k) := by
        conv_rhs => rw [← List.takeWhile_append_dropWhile (p := p) (l := l)]
        rw [List.find?_append, List.find?_append, List.find?_cons]
        simp only [show (n == k) = false from by simpa using fun b : n = k => e b.symm]
      rw [s, drop _ e]

end Sys2Proof.Machine
end

