-- ==== Sys2Proof/Laws/Links.lean ====
section
/-! SUPPORT. What is made with a CRC has the right one; everything that sending a control frame can change: its link, and what goes out. -/

namespace Sys2Proof.Machine

/-- A flit that is made has the CRC of its bits. -/
theorem mkFlit_crc (b : FlitBody) (kind seq ack : Nat) : (mkFlit b kind seq ack).crc = flitCrc (mkFlit b kind seq ack) := rfl

/-- A control frame that is sealed has the CRC of its bits. -/
theorem sealCtrl_crc (c : Ctrl) : ctrlCrc (sealCtrl c) = (sealCtrl c).crc := rfl

theorem Hw.OnlyLink.refl (h : Hw) (p l : Nat) : h.OnlyLink h p l := ⟨rfl, fun _ => rfl, fun _ _ _ => rfl⟩

theorem Hw.OnlyLink.trans {a b c : Hw} {p l : Nat} (h : a.OnlyLink b p l) (k : b.OnlyLink c p l) : a.OnlyLink c p l := by
  refine ⟨?_, fun q => (k.2.1 q).trans (h.2.1 q), fun q m e => (k.2.2 q m e).trans (h.2.2 q m e)⟩
  have h1 := h.1
  have k1 := k.1
  generalize b.ports = x at h1
  generalize b.out = y at h1
  subst h1
  exact k1

theorem Hw.setLink_only (h : Hw) (p l : Nat) (f : Link → Link) : h.OnlyLink (h.setLink p l f) p l := by
  refine ⟨rfl, fun q => ?_, fun q m e => Hw.link_setLink_other h p l q m f e⟩
  simp only [Hw.setLink, Hw.port_setPort]
  split <;> rfl

theorem Hw.emit_onlyLink (h : Hw) (o : Out) (p l : Nat) : h.OnlyLink (h.emit o) p l := ⟨rfl, fun _ => rfl, fun _ _ _ => rfl⟩

/-- A control frame waits on its link, where its operation is one that is acknowledged, and goes out; nothing else changes. -/
theorem Hw.sendCtrlTo_only (h : Hw) (p l : Nat) (dst : W32) (op a0 a1 a2 a3 : Nat) :
    h.OnlyLink (h.sendCtrlTo p l dst op a0 a1 a2 a3) p l := by
  unfold Hw.sendCtrlTo
  dsimp only
  generalize q : (if ctrlQueued op then h.setLink p l _ else h) = g
  have k : h.OnlyLink g p l := by
    subst q
    split
    · exact Hw.setLink_only h p l _
    · exact Hw.OnlyLink.refl h p l
  split
  · exact k.trans (Hw.emit_onlyLink _ _ p l)
  · exact k

theorem Hw.sendCtrl_only (h : Hw) (p l op a0 a1 a2 a3 : Nat) : h.OnlyLink (h.sendCtrl p l op a0 a1 a2 a3) p l :=
  Hw.sendCtrlTo_only h p l _ op a0 a1 a2 a3

/-- What a link that sends an acknowledged operation keeps and queues. -/
theorem Hw.sendCtrlTo_link (h : Hw) (p l : Nat) (dst : W32) (op a0 a1 a2 a3 : Nat) (q : ctrlQueued op = true)
    (hp : p < h.ports.length) (hl : l < (h.port p).links.length) :
    ∃ c : Ctrl, c.op = op ∧ c.dst = dst ∧ c.arg0 = BitVec.ofNat 32 a0 ∧ c.arg1 = BitVec.ofNat 64 a1 ∧ c.arg2 = BitVec.ofNat 64 a2 ∧
      (h.sendCtrlTo p l dst op a0 a1 a2 a3).link p l =
        { h.link p l with ctrlSeq := (h.link p l).ctrlSeq + 1, ctrlOut := (h.link p l).ctrlOut ++ [c] } := by
  unfold Hw.sendCtrlTo
  dsimp only
  simp only [q, if_true]
  refine ⟨sealCtrl { version := (h.link p l).version, op := op, src := h.self.setWidth 32, dst := dst, seq := (h.link p l).ctrlSeq
                     cack := (h.link p l).ctrlSeen.getD 0xFFFF, ack := (h.link p l).expect - 1, arg0 := BitVec.ofNat 32 a0
                     arg1 := BitVec.ofNat 64 a1, arg2 := BitVec.ofNat 64 a2, arg3 := BitVec.ofNat 64 a3 }, rfl, rfl, rfl, rfl, rfl, ?_⟩
  split
  · rw [Hw.emit_link, Hw.link_setLink, if_pos ⟨rfl, rfl, hp, hl⟩]
  · rw [Hw.link_setLink, if_pos ⟨rfl, rfl, hp, hl⟩]

end Sys2Proof.Machine
end

