-- ==== Sys2Proof/Laws/Memory.lean ====
section
/-! SUPPORT. The sparse memories: what a read gives after a write, and that every write keeps the canonical form. -/

namespace Sys2Proof.Machine

theorem cellsFrom_mono {l n : Nat} {m : List Host.Cell} (h : cellsFrom n m = true) (k : l ≤ n) : cellsFrom l m = true := by
  cases m with
  | nil => rfl
  | cons x r =>
    obtain ⟨a, b⟩ := x
    simp only [cellsFrom, Bool.and_eq_true, decide_eq_true_eq] at h ⊢
    exact ⟨⟨by omega, h.1.2⟩, h.2⟩

/-- Below its first address a canonical memory reads as zero. -/
theorem cellGet_below {n k : Nat} {m : List Host.Cell} (h : cellsFrom n m = true) (l : k < n) : cellGet m k = 0 := by
  induction m generalizing n with
  | nil => rfl
  | cons x r ih =>
    obtain ⟨a, b⟩ := x
    simp only [cellsFrom, Bool.and_eq_true, decide_eq_true_eq] at h
    have : a ≠ k := by omega
    simpa [cellGet, this] using ih h.2 (by omega)

theorem cellsFrom_set {n k : Nat} {m : List Host.Cell} (v : Byte) (h : cellsFrom n m = true) (l : n ≤ k) :
    cellsFrom n (cellSet m k v) = true := by
  induction m generalizing n with
  | nil => by_cases hv : v = 0#8 <;> simp [cellSet, cellsFrom, hv, l]
  | cons x r ih =>
    obtain ⟨a, b⟩ := x
    simp only [cellsFrom, Bool.and_eq_true, decide_eq_true_eq, bne_iff_ne, ne_eq, BitVec.ofNat_eq_ofNat] at h
    simp only [cellSet, BitVec.ofNat_eq_ofNat]
    split
    · split
      · simp [cellsFrom, h]
      · rename_i hk hv
        simp [cellsFrom, h, l, hv, Nat.succ_le_of_lt hk]
    · split
      · split
        · exact cellsFrom_mono h.2 (by omega)
        · rename_i _ _ hv
          simp [cellsFrom, h, hv]
      · have : cellsFrom (a + 1) (cellSet r k v) = true := ih h.2 (by omega)
        simp [cellsFrom, h, this]

/-- Writing a byte keeps the canonical form. -/
theorem Memory.wf_set {m : List Host.Cell} (k : Nat) (v : Byte) (h : Memory.wf m = true) : Memory.wf (cellSet m k v) = true :=
  cellsFrom_set v h (Nat.zero_le k)

/-- Writing bytes keeps the canonical form. -/
theorem Memory.wf_write {m : List Host.Cell} (a : Nat) (bs : List Byte) (h : Memory.wf m = true) :
    Memory.wf (cellWrite m a bs) = true := by
  induction bs generalizing m a with
  | nil => exact h
  | cons b r ih => exact ih (a + 1) (Memory.wf_set a b h)

theorem Memory.wf_foldl_set (l : List (Nat × Byte)) {m : List Host.Cell} (h : Memory.wf m = true) :
    Memory.wf (l.foldl (fun m x => cellSet m x.1 x.2) m) = true := by
  induction l generalizing m with
  | nil => exact h
  | cons x r ih => exact ih (Memory.wf_set x.1 x.2 h)

/-- Dropping entries keeps the canonical form. -/
theorem cellsFrom_filter {n : Nat} {m : List Host.Cell} (p : Host.Cell → Bool) (h : cellsFrom n m = true) :
    cellsFrom n (m.filter p) = true := by
  induction m generalizing n with
  | nil => rfl
  | cons x r ih =>
    obtain ⟨a, b⟩ := x
    simp only [cellsFrom, Bool.and_eq_true, decide_eq_true_eq] at h
    simp only [List.filter_cons]
    split
    · simpa [cellsFrom, h.1.1] using ⟨by simpa using h.1.2, ih h.2⟩
    · exact cellsFrom_mono (ih h.2) (by omega)

theorem Memory.wf_filter {m : List Host.Cell} (p : Host.Cell → Bool) (h : Memory.wf m = true) : Memory.wf (m.filter p) = true :=
  cellsFrom_filter p h

/-- A byte just written reads back, and every other stands. -/
theorem cellGet_set {n : Nat} {m : List Host.Cell} (k j : Nat) (v : Byte) (h : cellsFrom n m = true) :
    cellGet (cellSet m k v) j = if k = j then v else cellGet m j := by
  induction m generalizing n with
  | nil =>
    by_cases hv : v = 0#8 <;> by_cases hk : k = j <;> simp [cellSet, cellGet, hv, hk]
  | cons x r ih =>
    obtain ⟨a, b⟩ := x
    simp only [cellsFrom, Bool.and_eq_true, decide_eq_true_eq] at h
    simp only [cellSet]
    split
    · rename_i hk
      split
      · rename_i hv
        by_cases hj : k = j
        · subst hj
          have ha : a ≠ k := by omega
          simp [cellGet, ha, hv, cellGet_below h.2 (show k < a + 1 by omega)]
        · simp [hj]
      · simp [cellGet]
    · split
      · rename_i hk
        subst hk
        split
        · rename_i hv
          by_cases hj : k = j
          · subst hj
            simp [hv, cellGet_below h.2 (show k < k + 1 by omega)]
          · simp [cellGet, hj]
        · by_cases hj : k = j <;> simp [cellGet, hj]
      · rename_i hlt hne
        by_cases ha : a = j
        · have : k ≠ j := by omega
          simp [cellGet, ha, this]
        · simp [cellGet, ha, ih h.2]

theorem cellGet_set_wf {m : List Host.Cell} (k j : Nat) (v : Byte) (h : Memory.wf m = true) :
    cellGet (cellSet m k v) j = if k = j then v else cellGet m j := cellGet_set k j v h

/-- Bytes just written read back, and every other byte stands. -/
theorem cellGet_write {m : List Host.Cell} (a j : Nat) (bs : List Byte) (h : Memory.wf m = true) :
    cellGet (cellWrite m a bs) j = if a ≤ j ∧ j < a + bs.length then bs.getD (j - a) 0 else cellGet m j := by
  induction bs generalizing m a with
  | nil =>
    simp [cellWrite]
  | cons b r ih =>
    simp only [cellWrite, ih (a + 1) (Memory.wf_set a b h), cellGet_set_wf a j b h, List.length_cons]
    by_cases h1 : a = j
    · subst h1
      simp
    · by_cases h2 : a + 1 ≤ j ∧ j < a + 1 + r.length
      · have h3 : a ≤ j ∧ j < a + (r.length + 1) := by omega
        have h4 : j - a = (j - (a + 1)) + 1 := by omega
        simp [h2, h3, h4]
      · have h3 : ¬ (a ≤ j ∧ j < a + (r.length + 1)) := by omega
        rw [if_neg h2, if_neg h1, if_neg h3]

@[simp] theorem cellRead_length (m : List Host.Cell) (a n : Nat) : (cellRead m a n).length = n := by
  induction n generalizing a with
  | zero => rfl
  | succ n ih => simp [cellRead, ih]

theorem cellRead_getD (m : List Host.Cell) (a n i : Nat) (h : i < n) : (cellRead m a n).getD i 0 = cellGet m (a + i) := by
  induction n generalizing a i with
  | zero => omega
  | succ n ih =>
    cases i with
    | zero => simp [cellRead]
    | succ i => simpa [cellRead, Nat.add_assoc, Nat.add_comm 1 i] using ih (a + 1) i (by omega)

/-- Two memories that agree on a range read alike there. -/
theorem cellRead_congr {m m' : List Host.Cell} (a n : Nat) (h : ∀ j, a ≤ j → j < a + n → cellGet m' j = cellGet m j) :
    cellRead m' a n = cellRead m a n := by
  induction n generalizing a with
  | zero => rfl
  | succ n ih =>
    simp only [cellRead]
    rw [h a (by omega) (by omega), ih (a + 1) fun j h1 h2 => h j (by omega) (by omega)]

/-- Bytes just written are read back as a block. -/
theorem cellRead_write {m : List Host.Cell} (a : Nat) (bs : List Byte) (h : Memory.wf m = true) :
    cellRead (cellWrite m a bs) a bs.length = bs := by
  apply List.ext_getElem (by simp)
  intro i h1 h2
  have hi : i < bs.length := h2
  have e := cellRead_getD (cellWrite m a bs) a bs.length i hi
  rw [cellGet_write a (a + i) bs h] at e
  have c : a ≤ a + i ∧ a + i < a + bs.length := by omega
  simpa [c, List.getD_eq_getElem?_getD, List.getElem?_eq_getElem h1, List.getElem?_eq_getElem h2] using e

/-! ## Ascending lists -/

@[simp] theorem mem_setIns (l : List Nat) (k x : Nat) : x ∈ setIns l k ↔ x = k ∨ x ∈ l := by
  induction l with
  | nil => simp [setIns]
  | cons a r ih =>
    simp only [setIns]
    split
    · simp
    · split
      · rename_i h; subst h; simp
      · simp only [List.mem_cons, ih]; tauto

theorem pairwise_setIns {l : List Nat} (k : Nat) (h : l.Pairwise (· < ·)) : (setIns l k).Pairwise (· < ·) := by
  induction l with
  | nil => simp [setIns]
  | cons a r ih =>
    obtain ⟨h1, h2⟩ := List.pairwise_cons.1 h
    simp only [setIns]
    split
    · rename_i hk
      refine List.pairwise_cons.2 ⟨?_, h⟩
      intro x hx
      rcases List.mem_cons.1 hx with rfl | hx
      · exact hk
      · exact Nat.lt_trans hk (h1 x hx)
    · split
      · exact h
      · refine List.pairwise_cons.2 ⟨?_, ih h2⟩
        intro x hx
        rcases (mem_setIns r k x).1 hx with rfl | hx
        · omega
        · exact h1 x hx

theorem pairwise_foldl_setIns {α : Type} (f : α → Nat) (ks : List α) {l : List Nat} (h : l.Pairwise (· < ·)) :
    (ks.foldl (fun p k => setIns p (f k)) l).Pairwise (· < ·) := by
  induction ks generalizing l with
  | nil => exact h
  | cons k r ih => exact ih (pairwise_setIns (f k) h)

/-! ## The writes of a command -/

/-- Module memory and the list of poisoned groups keep their canonical forms over a command's writes. -/
theorem Hw.applyWrites_wf (h : Hw) (w : Writes) (m : Memory.wf h.mem = true) : Memory.wf (h.applyWrites w).mem = true :=
  Memory.wf_foldl_set w.bytes m

theorem Hw.applyWrites_poison (h : Hw) (w : Writes) (p : h.poison.Pairwise (· < ·)) : (h.applyWrites w).poison.Pairwise (· < ·) :=
  pairwise_foldl_setIns (· / 32) w.marks (p.filter _)

/-- What the writes of a command leave at a byte of module memory. -/
theorem cellGet_foldl_set (l : List (Nat × Byte)) {m : List Host.Cell} (k : Nat) (h : Memory.wf m = true) :
    cellGet (l.foldl (fun m x => cellSet m x.1 x.2) m) k =
      match (l.filter (·.1 == k)).getLast? with | some x => x.2 | none => cellGet m k := by
  induction l generalizing m with
  | nil => rfl
  | cons x r ih =>
    simp only [List.foldl_cons, ih (Memory.wf_set x.1 x.2 h), cellGet_set_wf x.1 k x.2 h, List.filter_cons]
    by_cases e : x.1 = k
    · cases hr : (r.filter (·.1 == k)) with
      | nil => simp [e]
      | cons y t =>
        obtain ⟨z, hz⟩ : ∃ z, (y :: t).getLast? = some z := ⟨_, List.getLast?_eq_getLast_of_ne_nil (List.cons_ne_nil y t)⟩
        simp [e, hz, List.getLast?_cons_cons]
    · simp [e]

/-- Everything `applyWrites` changes: module memory and the poisoned groups. -/
theorem Hw.applyWrites_only (h : Hw) (w : Writes) :
    h.applyWrites w = { h with mem := (h.applyWrites w).mem, poison := (h.applyWrites w).poison } := rfl

end Sys2Proof.Machine
end

