-- ==== Sys2Proof/Laws/Maps.lean ====
section
/-! SUPPORT. The address map of HBM (R214, R215): a stack and an offset name one address, so that a change of LOCAL_GIB moves every byte
to one address and no two bytes to the same. -/

namespace Sys2Proof.Machine

/-- The part of the interleaving that the bits above the low 16 give. -/
def interleaveHigh (n : Nat) : Nat :=
  n % 16 ^^^ n / 16 % 16 ^^^ n / 256 % 16 ^^^ n / 4096 % 16 ^^^ n / 65536 % 16 ^^^ n / 1048576 % 16

theorem interleave_split (a : Nat) : interleave a = a / 4096 % 16 ^^^ interleaveHigh (a / 65536) := by
  simp only [interleave, interleaveHigh, bits, Nat.shiftRight_eq_div_pow, Nat.div_div_eq_div_mul, Nat.xor_assoc]
  norm_num

theorem interleaveHigh_lt (n : Nat) : interleaveHigh n < 16 := by
  simp only [interleaveHigh]
  exact Nat.xor_lt_two_pow (n := 4) (Nat.xor_lt_two_pow (Nat.xor_lt_two_pow (Nat.xor_lt_two_pow (Nat.xor_lt_two_pow
    (Nat.mod_lt _ (by decide)) (Nat.mod_lt _ (by decide))) (Nat.mod_lt _ (by decide))) (Nat.mod_lt _ (by decide)))
    (Nat.mod_lt _ (by decide))) (Nat.mod_lt _ (by decide))

theorem interleave_lt (a : Nat) : interleave a < 16 := by
  rw [interleave_split]
  exact Nat.xor_lt_two_pow (n := 4) (Nat.mod_lt _ (by decide)) (interleaveHigh_lt _)

/-- The interleaved address that a stack and an offset name. -/
theorem stackAddr_low {l s o : Nat} (h : o < (64 - l) * gib) :
    stackAddr l s o = o / 4096 * 65536 + 4096 * (interleaveHigh (o / 4096) ^^^ s) + o % 4096 := by
  have e : o / 4096 * 65536 / 4096 % 16 = 0 := by omega
  simp [stackAddr, h, interleave_split, e]

theorem interleave_stackAddr {l s o : Nat} (h : o < (64 - l) * gib) (hs : s < 16) : interleave (stackAddr l s o) = s := by
  have hx : interleaveHigh (o / 4096) ^^^ s < 16 := Nat.xor_lt_two_pow (n := 4) (interleaveHigh_lt _) hs
  rw [stackAddr_low h, interleave_split]
  generalize hy : interleaveHigh (o / 4096) ^^^ s = x at hx ⊢
  have e1 : (o / 4096 * 65536 + 4096 * x + o % 4096) / 4096 % 16 = x := by omega
  have e2 : (o / 4096 * 65536 + 4096 * x + o % 4096) / 65536 = o / 4096 := by omega
  rw [e1, e2, ← hy, Nat.xor_comm (interleaveHigh _) s, Nat.xor_assoc, Nat.xor_self, Nat.xor_zero]

/-- A stack's address names it and its offset again. -/
theorem stackAddr_spec {l s o : Nat} (hl : l ≤ 32) (hs : s < 16) (ho : o < 64 * gib) :
    stackOf l (stackAddr l s o) = s ∧ stackOffset l (stackAddr l s o) = o ∧ stackAddr l s o < 2 ^ 40 := by
  by_cases h : o < (64 - l) * gib
  · have hx : interleaveHigh (o / 4096) ^^^ s < 16 := Nat.xor_lt_two_pow (n := 4) (interleaveHigh_lt _) hs
    have hi := interleave_stackAddr h hs
    rw [stackAddr_low h] at hi ⊢
    generalize interleaveHigh (o / 4096) ^^^ s = x at hx hi ⊢
    simp only [gib] at h ho
    have lt : o / 4096 * 65536 + 4096 * x + o % 4096 < 16 * (64 - l) * gib := by simp only [gib]; omega
    refine ⟨by simp [stackOf, lt, hi], ?_, by simp only [gib] at lt; omega⟩
    simp only [stackOffset, lt, if_true]; omega
  · have l0 : 0 < l := by rcases Nat.eq_zero_or_pos l with rfl | q; · simp_all [gib]
                          · exact q
    have e : stackAddr l s o = 16 * (64 - l) * gib + s * (l * gib) + (o - (64 - l) * gib) := by simp [stackAddr, h]
    have hg : 0 < l * gib := by simp only [gib]; omega
    have hd : o - (64 - l) * gib < l * gib := by simp only [gib] at *; omega
    have hq : (s * (l * gib) + (o - (64 - l) * gib)) / (l * gib) = s := by
      rw [Nat.add_comm, Nat.add_mul_div_right _ _ hg, Nat.div_eq_of_lt hd, Nat.zero_add]
    have hb : ¬ 16 * (64 - l) * gib + s * (l * gib) + (o - (64 - l) * gib) < 16 * (64 - l) * gib := by omega
    have hm : s * (l * gib) ≤ 15 * (l * gib) := Nat.mul_le_mul_right _ (by omega)
    rw [e]
    refine ⟨?_, ?_, ?_⟩
    · simp only [stackOf, hb, if_false]; rw [Nat.add_assoc, Nat.add_sub_cancel_left, hq]
    · simp only [stackOffset, hb, if_false]; rw [Nat.add_assoc, Nat.add_sub_cancel_left, hq, Nat.add_sub_cancel_left]; omega
    · simp only [gib] at *; omega

/-- An address lies in one of the 16 stacks, at an offset below their size, and the two name it. -/
theorem stackAddr_of {l a : Nat} (hl : l ≤ 32) (ha : a < 2 ^ 40) :
    stackOf l a < 16 ∧ stackOffset l a < 64 * gib ∧ stackAddr l (stackOf l a) (stackOffset l a) = a := by
  by_cases h : a < 16 * (64 - l) * gib
  · have e1 : stackOf l a = interleave a := by simp [stackOf, h]
    have e2 : stackOffset l a = a / 65536 * 4096 + a % 4096 := by simp [stackOffset, h]
    have ho : a / 65536 * 4096 + a % 4096 < (64 - l) * gib := by simp only [gib] at *; omega
    refine ⟨e1 ▸ interleave_lt a, by rw [e2]; exact lt_of_lt_of_le ho (Nat.mul_le_mul_right _ (Nat.sub_le _ _)), ?_⟩
    rw [e1, e2, stackAddr_low ho, interleave_split]
    have q1 : (a / 65536 * 4096 + a % 4096) / 4096 = a / 65536 := by clear * -; omega
    have q2 : (a / 65536 * 4096 + a % 4096) % 4096 = a % 4096 := by clear * -; omega
    rw [q1, q2, Nat.xor_comm (a / 4096 % 16), ← Nat.xor_assoc, Nat.xor_self, Nat.zero_xor]
    omega
  · have hg : 0 < l * gib := by
      rcases Nat.eq_zero_or_pos l with rfl | q
      · simp only [gib] at h; omega
      · simp only [gib]; omega
    have hd : (a - 16 * (64 - l) * gib) / (l * gib) < 16 := by
      rw [Nat.div_lt_iff_lt_mul hg]; simp only [gib] at *; omega
    have hm := Nat.div_add_mod (a - 16 * (64 - l) * gib) (l * gib)
    have hr := Nat.mod_lt (a - 16 * (64 - l) * gib) hg
    have e1 : stackOf l a = (a - 16 * (64 - l) * gib) / (l * gib) := by simp [stackOf, h]
    have e2 : stackOffset l a = (64 - l) * gib + (a - 16 * (64 - l) * gib) % (l * gib) := by
      simp only [stackOffset, h, if_false, Nat.mul_comm _ (l * gib)]; omega
    refine ⟨e1 ▸ hd, by rw [e2]; simp only [gib] at *; omega, ?_⟩
    have n : ¬ (64 - l) * gib + (a - 16 * (64 - l) * gib) % (l * gib) < (64 - l) * gib := by omega
    rw [e1, e2, stackAddr, if_neg n, Nat.add_sub_cancel_left, Nat.mul_comm _ (l * gib)]
    omega

/-- What `remap` does: an address goes to the address of the same stack and offset. -/
theorem remap_spec {old new a b : Nat} (h2 : new ≤ 32) (ha : a < 2 ^ 40) (hb : b < 2 ^ 40)
    (hs : stackOf old a = stackOf new b) (ho : stackOffset old a = stackOffset new b) : remap old new a = b := by
  simp only [remap, if_pos ha]
  rw [hs, ho]
  exact (stackAddr_of h2 hb).2.2

theorem remap_lt {old new a : Nat} (h1 : old ≤ 32) (h2 : new ≤ 32) : remap old new a < 2 ^ 40 ↔ a < 2 ^ 40 := by
  by_cases ha : a < 2 ^ 40
  · have := stackAddr_of h1 ha
    simp only [remap, ha, if_true, iff_true]
    exact (stackAddr_spec h2 this.1 this.2.1).2.2
  · rw [remap, if_neg ha]

/-- No two addresses go to the same one. -/
theorem remap_inj {old new a b : Nat} (h1 : old ≤ 32) (h2 : new ≤ 32) (e : remap old new a = remap old new b) : a = b := by
  have iff : a < 2 ^ 40 ↔ b < 2 ^ 40 := by rw [← remap_lt h1 h2 (a := a), ← remap_lt h1 h2 (a := b), e]
  by_cases ha : a < 2 ^ 40
  · have hb := iff.1 ha
    have qa := stackAddr_of h1 ha
    have qb := stackAddr_of h1 hb
    simp only [remap, ha, hb, if_true] at e
    have ra := stackAddr_spec h2 qa.1 qa.2.1
    have rb := stackAddr_spec h2 qb.1 qb.2.1
    rw [e] at ra
    rw [← qa.2.2, ← qb.2.2, ← ra.1, ← ra.2.1, rb.1, rb.2.1]
  · have hb : ¬ b < 2 ^ 40 := fun q => ha (iff.2 q)
    rwa [remap, if_neg ha, remap, if_neg hb] at e


/-- The bytes of a 32-byte group stay together, in their order. -/
theorem stackAddr_group {l s o : Nat} : stackAddr l s o / 32 = stackAddr l s (32 * (o / 32)) / 32 := by
  by_cases h : o < (64 - l) * gib
  · have h' : 32 * (o / 32) < (64 - l) * gib := by omega
    have e : 32 * (o / 32) / 4096 = o / 4096 := by omega
    rw [stackAddr_low h, stackAddr_low h', e]
    omega
  · have h' : ¬ 32 * (o / 32) < (64 - l) * gib := by simp only [gib] at *; omega
    have m : s * (l * gib) = 32 * (s * l * 2 ^ 25) := by simp only [gib]; ring
    simp only [stackAddr, h, h', if_false, m]
    simp only [gib] at *
    omega

theorem stackOf_group {l a : Nat} : stackOf l (32 * (a / 32)) = stackOf l a ∧
    stackOffset l (32 * (a / 32)) / 32 = stackOffset l a / 32 := by
  have hi : interleave (32 * (a / 32)) = interleave a := by
    rw [interleave_split, interleave_split, show 32 * (a / 32) / 4096 = a / 4096 by omega, show 32 * (a / 32) / 65536 = a / 65536 by omega]
  by_cases h : a < 16 * (64 - l) * gib
  · have h' : 32 * (a / 32) < 16 * (64 - l) * gib := by omega
    refine ⟨by simp only [stackOf, h, h', if_true, hi], ?_⟩
    simp only [stackOffset, h, h', if_true]; omega
  · have h' : ¬ 32 * (a / 32) < 16 * (64 - l) * gib := by simp only [gib] at *; omega
    have m : l * gib = 32 * (l * 2 ^ 25) := by simp only [gib]; ring
    have q : (32 * (a / 32) - 16 * (64 - l) * gib) / (l * gib) = (a - 16 * (64 - l) * gib) / (l * gib) := by
      have g : (32 * (a / 32) - 16 * (64 - l) * gib) / 32 = (a - 16 * (64 - l) * gib) / 32 := by simp only [gib] at *; omega
      rw [m, ← Nat.div_div_eq_div_mul _ 32, ← Nat.div_div_eq_div_mul _ 32, g]
    refine ⟨by simp only [stackOf, h, h', if_false, q], ?_⟩
    simp only [stackOffset, h, h', if_false, q]
    generalize (a - 16 * (64 - l) * gib) / (l * gib) = d
    have e : d * (l * gib) = 32 * (d * l * 2 ^ 25) := by rw [m]; ring
    rw [e]
    simp only [gib] at *; omega

/-- The bytes of a 32-byte group go to one group. -/
theorem remap_group {old new a : Nat} : remap old new (32 * (a / 32)) / 32 = remap old new a / 32 := by
  by_cases ha : a < 2 ^ 40
  · have h' : 32 * (a / 32) < 2 ^ 40 := by omega
    have q := @stackOf_group old a
    simp only [remap, if_pos ha, if_pos h']
    rw [q.1, stackAddr_group, q.2, ← stackAddr_group]
  · have h' : ¬ 32 * (a / 32) < 2 ^ 40 := by omega
    simp only [remap, if_neg ha, if_neg h']; omega

/-- The change back undoes a change. -/
theorem remap_back {old new a : Nat} (h1 : old ≤ 32) (h2 : new ≤ 32) : remap new old (remap old new a) = a := by
  by_cases ha : a < 2 ^ 40
  · have q := stackAddr_of h1 ha
    have r := stackAddr_spec h2 q.1 q.2.1
    have e : remap old new a = stackAddr new (stackOf old a) (stackOffset old a) := by rw [remap, if_pos ha]
    rw [e, remap, if_pos r.2.2, r.1, r.2.1, q.2.2]
  · rw [remap.eq_1 old, if_neg ha, remap, if_neg ha]

/-- Bytes that move by an injective map keep their values. -/
theorem cellGet_moved {f : Nat → Nat} (hf : ∀ a b, f a = f b → a = b) (k : Nat) (m : List Host.Cell) {n : Nat} (hm : cellsFrom n m = true)
    {acc : List Host.Cell} (ha : Memory.wf acc = true) :
    cellGet (m.foldl (fun q (x : Host.Cell) => cellSet q (f x.1) x.2) acc) (f k) =
      if k ∈ m.map (·.1) then cellGet m k else cellGet acc (f k) := by
  induction m generalizing n acc with
  | nil => simp
  | cons x r ih =>
    obtain ⟨a, b⟩ := x
    simp only [cellsFrom, Bool.and_eq_true, decide_eq_true_eq] at hm
    have low : ∀ j ∈ r.map (·.1), a + 1 ≤ j := by
      clear ih
      have : ∀ (r : List Host.Cell) (n : Nat), cellsFrom n r = true → ∀ j ∈ r.map (·.1), n ≤ j := by
        intro r
        induction r with
        | nil => simp
        | cons y t ih =>
          intro n h j hj
          simp only [cellsFrom, Bool.and_eq_true, decide_eq_true_eq] at h
          rcases List.mem_cons.1 hj with e | e
          · exact e ▸ h.1.1
          · have := ih _ h.2 j e; omega
      exact this r _ hm.2
    rw [List.foldl_cons, ih hm.2 (Memory.wf_set _ _ ha), cellGet_set_wf _ _ _ ha]
    by_cases e : a = k
    · subst e
      have : a ∉ r.map (·.1) := fun q => by have := low a q; omega
      simp [this, cellGet]
    · have e' : f a ≠ f k := fun q => e (hf _ _ q)
      simp [e, e', cellGet, Ne.symm e]

/-- A change of LOCAL_GIB moves every byte to the address of its stack and offset. -/
theorem cellGet_remap {old new : Nat} (h1 : old ≤ 32) (h2 : new ≤ 32) (k : Nat) {m : List Host.Cell} (hm : Memory.wf m = true) :
    cellGet (m.foldl (fun q (x : Host.Cell) => cellSet q (remap old new x.1) x.2) []) (remap old new k) = cellGet m k := by
  rw [cellGet_moved (fun a b => remap_inj h1 h2) k m hm (acc := []) rfl]
  split
  · rfl
  · rename_i h
    have : ∀ m : List Host.Cell, k ∉ m.map (·.1) → cellGet m k = 0 := by
      intro m
      induction m with
      | nil => intro _; rfl
      | cons x r ih =>
        intro h
        obtain ⟨a, b⟩ := x
        simp only [List.map_cons, List.mem_cons, not_or] at h
        simp [cellGet, Ne.symm h.1, ih h.2]
    rw [this m h]; rfl

/-- And every poisoned group. -/
theorem mem_poison_remap {old new : Nat} (h1 : old ≤ 32) (h2 : new ≤ 32) (a : Nat) (p : List Nat) :
    remap old new a / 32 ∈ p.foldl (fun q g => setIns q (remap old new (32 * g) / 32)) [] ↔ a / 32 ∈ p := by
  have fold : ∀ (p acc : List Nat) (j : Nat), j ∈ p.foldl (fun q g => setIns q (remap old new (32 * g) / 32)) acc ↔
      j ∈ acc ∨ ∃ g ∈ p, remap old new (32 * g) / 32 = j := by
    intro p
    induction p with
    | nil => simp
    | cons g r ih =>
      intro acc j
      rw [List.foldl_cons, ih]
      simp only [mem_setIns, List.mem_cons, exists_eq_or_imp, eq_comm (a := j)]
      tauto
  rw [fold]
  constructor
  · rintro (h | ⟨g, hg, e⟩)
    · simp at h
    · have b := @remap_group new old (remap old new (32 * g))
      rw [e, remap_group, remap_back h1 h2, remap_back h1 h2] at b
      rwa [show a / 32 = g by omega]
  · intro h
    exact .inr ⟨a / 32, h, remap_group⟩

end Sys2Proof.Machine
end

