-- ==== Sys2Proof/Laws/Outcome.lean ====
section
/-! SUPPORT. How a meaning answers: always a next state, with the queue as it was. -/

namespace Sys2Proof.Machine

/-- A meaning made with `act` answers a next state whose hardware is `f` of the old, and keeps the queue. -/
theorem act_on {f : Hw → Hw} {s : State} (p : s.hw.ks2.powered = true) : act f s = .next { s with hw := f s.hw } := by
  simp [act, actPin, p]

/-- Without 50 V a meaning made with `act` changes nothing. -/
theorem act_off {f : Hw → Hw} {s : State} (p : s.hw.ks2.powered = false) : act f s = .next s := by
  simp [act, actPin, p]

/-- Whatever holds of every result of `f` and of the state itself holds after `act f`. -/
theorem act_keeps {f : Hw → Hw} {s t : State} {P : Hw → Prop} (a : act f s = .next t) (h0 : P s.hw) (h1 : P (f s.hw)) :
    P t.hw ∧ t.pending = s.pending := by
  cases p : s.hw.ks2.powered with
  | false =>
    rw [act_off p] at a
    cases a
    exact ⟨h0, rfl⟩
  | true =>
    rw [act_on p] at a
    cases a
    exact ⟨h1, rfl⟩

/-- A register write that its block takes. -/
theorem actReg_on {o : Nat} {f : Hw → Hw} {s : State} (p : s.hw.ks2.powered = true) (d : s.hw.dark o = false) :
    actReg o f s = .next { s with hw := f s.hw } := by
  simp [actReg, act_on p, d]

/-- A register write that its block ignores. -/
theorem actReg_dark {o : Nat} {f : Hw → Hw} {s : State} (d : s.hw.dark o = true) : actReg o f s = .next s := by
  cases p : s.hw.ks2.powered with
  | false => exact act_off p
  | true => simp [actReg, act_on p, d]

theorem actReg_off {o : Nat} {f : Hw → Hw} {s : State} (p : s.hw.ks2.powered = false) : actReg o f s = .next s := act_off p

theorem actReg_keeps {o : Nat} {f : Hw → Hw} {s t : State} {P : Hw → Prop} (a : actReg o f s = .next t) (h0 : P s.hw)
    (h1 : P (f s.hw)) : P t.hw ∧ t.pending = s.pending := by
  refine act_keeps a h0 ?_
  by_cases d : s.hw.dark o = true <;> simp [d, h0, h1]

/-- A meaning of the dies while they have power. -/
theorem actDie_on {f : Hw → Hw} {s : State} (p : s.hw.ks2.powered = true) (d : s.hw.diesOn = true) :
    actDie f s = .next { s with hw := f s.hw } := by
  simp [actDie, act_on p, d]

/-- Without power of the dies such a meaning changes nothing. -/
theorem actDie_off {f : Hw → Hw} {s : State} (d : s.hw.diesOn = false) : actDie f s = .next s := by
  cases p : s.hw.ks2.powered with
  | false => exact act_off p
  | true => simp [actDie, act_on p, d]

theorem actDie_keeps {f : Hw → Hw} {s t : State} {P : Hw → Prop} (a : actDie f s = .next t) (h0 : P s.hw) (h1 : P (f s.hw)) :
    P t.hw ∧ t.pending = s.pending := by
  refine act_keeps a h0 ?_
  by_cases d : s.hw.diesOn = true <;> simp [d, h0, h1]

/-- A host write of a register that its port receives and its block takes. -/
theorem actFrom_on {p o : Nat} {f : Hw → Hw} {s : State} (w : s.hw.ks2.powered = true) (d : s.hw.dark o = false) (g : s.hw.reaches p = true) :
    actFrom p o f s = .next { s with hw := f s.hw } := by
  simp [actFrom, actReg_on w d, g]

/-- A write that the port does not receive changes nothing. -/
theorem actFrom_off {p o : Nat} {f : Hw → Hw} {s : State} (g : s.hw.reaches p = false) : actFrom p o f s = .next s := by
  cases w : s.hw.ks2.powered with
  | false => exact actReg_off w
  | true =>
    cases d : s.hw.dark o with
    | true => exact actReg_dark d
    | false => simp [actFrom, actReg_on w d, g]

theorem actFrom_keeps {p o : Nat} {f : Hw → Hw} {s t : State} {P : Hw → Prop} (a : actFrom p o f s = .next t) (h0 : P s.hw)
    (h1 : P (f s.hw)) : P t.hw ∧ t.pending = s.pending := by
  refine actReg_keeps a h0 ?_
  by_cases d : s.hw.reaches p = true <;> simp [d, h0, h1]

/-- Time that passes changes the time and the telemetry registers alone. -/
theorem tick_only (s : State) :
    tick s = { s with hw := { s.hw with now := s.hw.now + 1, ks2 := (tick s).hw.ks2 } } := rfl

end Sys2Proof.Machine
end

