-- ==== Sys2Proof/Laws/PerInstr.lean ====
section
/-! SUPPORT. Per command: the numbers of parts that a well-formed command names are numbers of parts that the T64 has. -/

namespace Sys2Proof.Laws.WellFormed

/-- The numbers of parts that a command names, each with how many such parts there are: rings, host and mortar ports, contexts, dies,
tiles, fibre ports, links, channels and lane groups. -/
def named : Instr → List (Nat × Nat)
  | .workDoorbellPoll ring _ => [(ring, 128)]
  | .cplDoorbellPoll evt ring _ => [(ring, if evt then 2 else 16)]
  | .descriptorFetch ring _ => [(ring, 128)]
  | .commandStart ring _ => [(ring, 128)]
  | .headerWaitTimeout ring => [(ring, 128)]
  | .commandComplete ring _ => [(ring, 128)]
  | .cplRecordWrite ring => [(ring, 128)]
  | .irqDelayExpiry evt ring => [(ring, if evt then 2 else 16)]
  | .ringStart port ring _ => [(port, 2), (ring, 128)]
  | .ringStop port ring => [(port, 2), (ring, 128)]
  | .ringDrain port ring _ => [(port, 2), (ring, 128)]
  | .drainPoll ring _ => [(ring, 128)]
  | .ringResume port ring => [(port, 2), (ring, 128)]
  | .ringEnSet evt ring _ => [(ring, if evt then 2 else 16)]
  | .ringEnClear evt ring _ => [(ring, if evt then 2 else 16)]
  | .registerWrite port _ _ _ => [(port, 2)]
  | .nop ring _ => [(ring, 128)]
  | .fence ring _ => [(ring, 128)]
  | .signal ring _ => [(ring, 128)]
  | .wait ring _ => [(ring, 128)]
  | .commandTimeout ring _ => [(ring, 128)]
  | .waitPrefetch ring _ _ _ _ => [(ring, 128)]
  | .copy ring _ _ => [(ring, 128)]
  | .gather ring _ _ => [(ring, 128)]
  | .scatter ring _ _ => [(ring, 128)]
  | .fill ring _ _ => [(ring, 128)]
  | .engineAcquire ring _ => [(ring, 128)]
  | .matmul ring _ _ => [(ring, 128)]
  | .stripTake die tile => [(die, 16), (tile, 16)]
  | .outputTileDrain die tile _ => [(die, 16), (tile, 16)]
  | .elementProgram ring _ _ => [(ring, 128)]
  | .elementReduceRow ring _ _ => [(ring, 128)]
  | .elementReduceCol ring _ _ => [(ring, 128)]
  | .elementTopk ring _ _ => [(ring, 128)]
  | .unitTake die tile _ => [(die, 16), (tile, 16)]
  | .loadProgram ring _ => [(ring, 128)]
  | .programLoadTile die tile => [(die, 16), (tile, 16)]
  | .trgScrub die tile => [(die, 16), (tile, 16)]
  | .slotScrub die tile => [(die, 16), (tile, 16)]
  | .scrubPerform die tile => [(die, 16), (tile, 16)]
  | .reduce ring _ _ => [(ring, 128)]
  | .allgather ring _ _ => [(ring, 128)]
  | .reduceScatter ring _ _ => [(ring, 128)]
  | .collSliceStart ring _ die _ => [(ring, 128), (die, 16)]
  | .collPartialReceive ctx _ _ _ => [(ctx, 16)]
  | .collResultReceive ctx _ _ _ => [(ctx, 16)]
  | .treeDeadlineExpiry ring _ die => [(ring, 128), (die, 16)]
  | .collectiveTimeout ring _ => [(ring, 128)]
  | .send ring _ _ => [(ring, 128)]
  | .recv ring _ _ => [(ring, 128)]
  | .channelGrant ctx _ chan peerChan _ _ => [(ctx, 16), (chan, 8), (peerChan, 8)]
  | .grantResend ctx chan => [(ctx, 16), (chan, 8)]
  | .channelMessageArrive ctx chan _ _ _ _ _ => [(ctx, 16), (chan, 8)]
  | .channelCreditReturn ctx chan _ => [(ctx, 16), (chan, 8)]
  | .update ring _ _ => [(ring, 128)]
  | .lossScaleWrite ring _ => [(ring, 128)]
  | .lossScaleAgree ring _ => [(ring, 128)]
  | .lossScaleSet ring _ => [(ring, 128)]
  | .statsRead ring _ => [(ring, 128)]
  | .seqSetStart ring _ => [(ring, 128)]
  | .seqSetParams ring _ => [(ring, 128)]
  | .seqSetAdvance ring _ => [(ring, 128)]
  | .seqSetFinish ring _ => [(ring, 128)]
  | .seqRetire ring _ => [(ring, 128)]
  | .capture ring _ => [(ring, 128)]
  | .peerFenceFence ring _ _ => [(ring, 128)]
  | .peerFenceUnfence ring _ _ => [(ring, 128)]
  | .lambdaSet ring _ => [(ring, 128)]
  | .twinSyncMirror ring _ _ => [(ring, 128)]
  | .twinSyncPull ring _ _ => [(ring, 128)]
  | .twinSyncTakeover ring _ => [(ring, 128)]
  | .twinSyncAsTwin ring _ _ => [(ring, 128)]
  | .twinSyncHandback ring _ => [(ring, 128)]
  | .reinstate ring _ _ => [(ring, 128)]
  | .contextClose ring _ => [(ring, 128)]
  | .contextOpen port ctx => [(port, 2), (ctx, 16)]
  | .planReadDone ctx _ => [(ctx, 16)]
  | .contextCloseDrain port ctx => [(port, 2), (ctx, 16)]
  | .contextCloseFlush port ctx => [(port, 2), (ctx, 16)]
  | .quiesceExpiry ctx => [(ctx, 16)]
  | .teardownComplete ctx => [(ctx, 16)]
  | .numberHoldExpiry ctx => [(ctx, 16)]
  | .bindRequestReceive fport link _ _ _ => [(fport, 48), (link, 4)]
  | .contextMessageReceive fport link _ _ ctx _ _ _ => [(fport, 48), (link, 4), (ctx, 16)]
  | .xlatInv port ctx => [(port, 2), (ctx, 16)]
  | .xlatInvDone ctx => [(ctx, 16)]
  | .hbmRequest stack _ _ _ _ _ => [(stack, 16)]
  | .hbmRequestComplete stack _ _ _ => [(stack, 16)]
  | .hbmRequestAgeing stack _ => [(stack, 16)]
  | .hbmBankSlow stack _ => [(stack, 16)]
  | .memorySideAdd die _ _ _ _ _ _ _ => [(die, 16)]
  | .sramScrub die _ tile _ _ _ => [(die, 16), (tile, 16)]
  | .stackLoss stack _ => [(stack, 16)]
  | .flitReceive die port lg _ => [(die, 16), (port, 8), (lg, 256)]
  | .mortarNack die port lg _ => [(die, 16), (port, 8), (lg, 256)]
  | .laneRetrain die port lg => [(die, 16), (port, 8), (lg, 256)]
  | .lgRetrain die port => [(die, 16), (port, 8)]
  | .laneRetrainDone die port lg _ => [(die, 16), (port, 8), (lg, 256)]
  | .portEnable fport => [(fport, 48)]
  | .portDisable fport => [(fport, 48)]
  | .portRetrain fport => [(fport, 48)]
  | .carrierDetect fport link _ => [(fport, 48), (link, 4)]
  | .trainingComplete fport link _ _ => [(fport, 48), (link, 4)]
  | .carrierLoss fport link _ => [(fport, 48), (link, 4)]
  | .linkDeadExpiry fport link => [(fport, 48), (link, 4)]
  | .pauseExpiry fport link => [(fport, 48), (link, 4)]
  | .hello fport link _ => [(fport, 48), (link, 4)]
  | .helloResend fport link => [(fport, 48), (link, 4)]
  | .helloAck fport link _ => [(fport, 48), (link, 4)]
  | .resync fport link _ => [(fport, 48), (link, 4)]
  | .dataFrameReceive fport link _ _ _ => [(fport, 48), (link, 4)]
  | .frameTransmit fport link => [(fport, 48), (link, 4)]
  | .ack fport link _ => [(fport, 48), (link, 4)]
  | .nackCrc fport link _ => [(fport, 48), (link, 4)]
  | .controlResend fport link _ => [(fport, 48), (link, 4)]
  | .pause fport link _ => [(fport, 48), (link, 4)]
  | .pauseAck fport link _ => [(fport, 48), (link, 4)]
  | .pauseAckTimeout fport link => [(fport, 48), (link, 4)]
  | .resume fport link _ => [(fport, 48), (link, 4)]
  | .lambdaAdd fport link _ _ => [(fport, 48), (link, 4)]
  | .lambdaAddAck fport link _ => [(fport, 48), (link, 4)]
  | .lambdaDrop fport link _ => [(fport, 48), (link, 4)]
  | .lambdaDropAck fport link _ => [(fport, 48), (link, 4)]
  | .lambdaRefuse fport link _ => [(fport, 48), (link, 4)]
  | .lambdaChangeTimeout fport link => [(fport, 48), (link, 4)]
  | .lambdaBorrow fport link => [(fport, 48), (link, 4)]
  | .lambdaWithdraw fport link => [(fport, 48), (link, 4)]
  | .msgNack fport link _ => [(fport, 48), (link, 4)]
  | .bindAnswer fport link _ => [(fport, 48), (link, 4)]
  | .credit fport link _ => [(fport, 48), (link, 4)]
  | .reassemblyExpiry fport link _ => [(fport, 48), (link, 4)]
  | .engineReset port _ => [(port, 2)]
  | .tileReset port _ => [(port, 2)]
  | .portReset port _ => [(port, 2)]
  | .opticalEngineReset port _ => [(port, 2)]
  | .dieReset port _ => [(port, 2)]
  | .contextReset port _ => [(port, 2)]
  | .moduleRingReset port _ => [(port, 2)]
  | .moduleReset port _ => [(port, 2)]
  | .tileRetire die tile => [(die, 16), (tile, 16)]
  | .configRequest port _ _ => [(port, 2)]
  | .stage port _ => [(port, 2)]
  | .activate port => [(port, 2)]
  | .confirm port => [(port, 2)]
  | .commitSvn port => [(port, 2)]
  | .debugUnlock port _ => [(port, 2)]
  | .keyInstall port _ => [(port, 2)]
  | .getVersion port => [(port, 2)]
  | .getCapabilities port => [(port, 2)]
  | .negotiateAlgorithms port => [(port, 2)]
  | .getDigests port => [(port, 2)]
  | .getCertificate port _ _ _ => [(port, 2)]
  | .challenge port _ _ => [(port, 2)]
  | .getMeasurements port _ _ _ => [(port, 2)]
  | .keyExchange port _ => [(port, 2)]
  | .finish port _ => [(port, 2)]
  | .keyUpdate port => [(port, 2)]
  | .heartbeat port => [(port, 2)]
  | .endSession port => [(port, 2)]
  | .doeAbort port => [(port, 2)]
  | .ideFail port _ => [(port, 2)]
  | .clockSet die _ => [(die, 16)]
  | .perstAssert port => [(port, 2)]
  | .perstDeassert port => [(port, 2)]
  | .dlDown port => [(port, 2)]
  | .dlUp port _ _ _ _ => [(port, 2)]
  | .hostLossTest port _ => [(port, 2)]
  | .bar2Read port _ _ _ => [(port, 2)]
  | .bar2Write port _ _ _ _ => [(port, 2)]
  | .apertureWrite port _ => [(port, 2)]
  | .aliasWrite port _ _ _ => [(port, 2)]
  | .aliasRead port _ _ => [(port, 2)]
  | .bar0InvalidAccess port _ _ => [(port, 2)]
  | .msixUnmask port _ => [(port, 2)]
  | .ideKm port _ _ => [(port, 2)]
  | .doeDiscovery port _ => [(port, 2)]
  | .ueSuppressed die => [(die, 16)]
  | .syncOperation _ _ | .ownerBlockTransfer _ | .bindRetry _ | .memoryAccessReceive _ _ _ | .hbmRateSet _
  | .hbmRetrainDone _ _ | .hbmLocalSet _ | .transitForward _ | .combEvaluation _ | .spareReady | .combForce _
  | .switchoverSwitch | .combSwitchDone _ _ | .sourceRetest _ | .watchdogTest _ _ | .resetDone _ _ | .keystoneHeartbeatCheck _
  | .powerGood | .startupStepComplete _ _ | .ks1LeadsStartup | .counterCalibration _ _ | .firmwareCommandDone | .keyInstallDone
  | .highClkSet _ | .supplyLow _ | .supplyHigh _ | .supplyLost _ | .droopDetect _ | .droopStep _ | .droopStepRaise _
  | .thermalReading _ _ | .thermalLevelFall _ | .thermalRecovery _ | .coolantHot _ | .fruRead _ _ | .inputV | .inputI | .inlet
  | .outlet | .hot | .state => []

/-- In a well-formed command each such number is in its range. -/
def Statement (i : Instr) : Prop := i.wf = true → ∀ x ∈ named i, x.1 < x.2

/-- The case split of the lemmas below. -/
theorem all (i : Instr) : Statement i := by
  intro h
  cases i <;> simp_all [named, Instr.wf, ringOk, cplOk, hostPortOk, ctxOk, dieOk, tileOk, fibreOk, mortarOk, chanOk, accessOperandOk]

theorem workDoorbellPoll (x0 : Nat) (x1 : Env) : Statement (.workDoorbellPoll x0 x1) := all _
theorem cplDoorbellPoll (x0 : Bool) (x1 : Nat) (x2 : Env) : Statement (.cplDoorbellPoll x0 x1 x2) := all _
theorem descriptorFetch (x0 : Nat) (x1 : Env) : Statement (.descriptorFetch x0 x1) := all _
theorem commandStart (x0 : Nat) (x1 : Env) : Statement (.commandStart x0 x1) := all _
theorem headerWaitTimeout (x0 : Nat) : Statement (.headerWaitTimeout x0) := all _
theorem commandComplete (x0 : Nat) (x1 : W32) : Statement (.commandComplete x0 x1) := all _
theorem cplRecordWrite (x0 : Nat) : Statement (.cplRecordWrite x0) := all _
theorem irqDelayExpiry (x0 : Bool) (x1 : Nat) : Statement (.irqDelayExpiry x0 x1) := all _
theorem ringStart (x0 : Nat) (x1 : Nat) (x2 : Env) : Statement (.ringStart x0 x1 x2) := all _
theorem ringStop (x0 : Nat) (x1 : Nat) : Statement (.ringStop x0 x1) := all _
theorem ringDrain (x0 : Nat) (x1 : Nat) (x2 : Env) : Statement (.ringDrain x0 x1 x2) := all _
theorem drainPoll (x0 : Nat) (x1 : Env) : Statement (.drainPoll x0 x1) := all _
theorem ringResume (x0 : Nat) (x1 : Nat) : Statement (.ringResume x0 x1) := all _
theorem ringEnSet (x0 : Bool) (x1 : Nat) (x2 : W32) : Statement (.ringEnSet x0 x1 x2) := all _
theorem ringEnClear (x0 : Bool) (x1 : Nat) (x2 : W32) : Statement (.ringEnClear x0 x1 x2) := all _
theorem registerWrite (x0 : Nat) (x1 : Nat) (x2 : Nat) (x3 : W64) : Statement (.registerWrite x0 x1 x2 x3) := all _
theorem nop (x0 : Nat) (x1 : W32) : Statement (.nop x0 x1) := all _
theorem fence (x0 : Nat) (x1 : W32) : Statement (.fence x0 x1) := all _
theorem signal (x0 : Nat) (x1 : W32) : Statement (.signal x0 x1) := all _
theorem wait (x0 : Nat) (x1 : W32) : Statement (.wait x0 x1) := all _
theorem syncOperation (x0 : Nat) (x1 : Bool) : Statement (.syncOperation x0 x1) := all _
theorem commandTimeout (x0 : Nat) (x1 : W32) : Statement (.commandTimeout x0 x1) := all _
theorem waitPrefetch (x0 : Nat) (x1 : W32) (x2 : Nat) (x3 : Nat) (x4 : Env) : Statement (.waitPrefetch x0 x1 x2 x3 x4) := all _
theorem copy (x0 : Nat) (x1 : W32) (x2 : Env) : Statement (.copy x0 x1 x2) := all _
theorem gather (x0 : Nat) (x1 : W32) (x2 : Env) : Statement (.gather x0 x1 x2) := all _
theorem scatter (x0 : Nat) (x1 : W32) (x2 : Env) : Statement (.scatter x0 x1 x2) := all _
theorem fill (x0 : Nat) (x1 : W32) (x2 : Env) : Statement (.fill x0 x1 x2) := all _
theorem engineAcquire (x0 : Nat) (x1 : W32) : Statement (.engineAcquire x0 x1) := all _
theorem ownerBlockTransfer (x0 : BlockReq × Env) : Statement (.ownerBlockTransfer x0) := all _
theorem matmul (x0 : Nat) (x1 : W32) (x2 : Env) : Statement (.matmul x0 x1 x2) := all _
theorem stripTake (x0 : Nat) (x1 : Nat) : Statement (.stripTake x0 x1) := all _
theorem outputTileDrain (x0 : Nat) (x1 : Nat) (x2 : Env) : Statement (.outputTileDrain x0 x1 x2) := all _
theorem elementProgram (x0 : Nat) (x1 : W32) (x2 : Env) : Statement (.elementProgram x0 x1 x2) := all _
theorem elementReduceRow (x0 : Nat) (x1 : W32) (x2 : Env) : Statement (.elementReduceRow x0 x1 x2) := all _
theorem elementReduceCol (x0 : Nat) (x1 : W32) (x2 : Env) : Statement (.elementReduceCol x0 x1 x2) := all _
theorem elementTopk (x0 : Nat) (x1 : W32) (x2 : Env) : Statement (.elementTopk x0 x1 x2) := all _
theorem unitTake (x0 : Nat) (x1 : Nat) (x2 : Env) : Statement (.unitTake x0 x1 x2) := all _
theorem loadProgram (x0 : Nat) (x1 : W32) : Statement (.loadProgram x0 x1) := all _
theorem programLoadTile (x0 : Nat) (x1 : Nat) : Statement (.programLoadTile x0 x1) := all _
theorem trgScrub (x0 : Nat) (x1 : Nat) : Statement (.trgScrub x0 x1) := all _
theorem slotScrub (x0 : Nat) (x1 : Nat) : Statement (.slotScrub x0 x1) := all _
theorem scrubPerform (x0 : Nat) (x1 : Nat) : Statement (.scrubPerform x0 x1) := all _
theorem reduce (x0 : Nat) (x1 : W32) (x2 : Env) : Statement (.reduce x0 x1 x2) := all _
theorem allgather (x0 : Nat) (x1 : W32) (x2 : Env) : Statement (.allgather x0 x1 x2) := all _
theorem reduceScatter (x0 : Nat) (x1 : W32) (x2 : Env) : Statement (.reduceScatter x0 x1 x2) := all _
theorem collSliceStart (x0 : Nat) (x1 : W32) (x2 : Nat) (x3 : Env) : Statement (.collSliceStart x0 x1 x2 x3) := all _
theorem collPartialReceive (x0 : Nat) (x1 : CollMsg) (x2 : Coord) (x3 : W16) : Statement (.collPartialReceive x0 x1 x2 x3) := all _
theorem collResultReceive (x0 : Nat) (x1 : CollMsg) (x2 : Coord) (x3 : Env) : Statement (.collResultReceive x0 x1 x2 x3) := all _
theorem treeDeadlineExpiry (x0 : Nat) (x1 : W32) (x2 : Nat) : Statement (.treeDeadlineExpiry x0 x1 x2) := all _
theorem collectiveTimeout (x0 : Nat) (x1 : W32) : Statement (.collectiveTimeout x0 x1) := all _
theorem send (x0 : Nat) (x1 : W32) (x2 : Env) : Statement (.send x0 x1 x2) := all _
theorem recv (x0 : Nat) (x1 : W32) (x2 : Env) : Statement (.recv x0 x1 x2) := all _
theorem channelGrant (x0 : Nat) (x1 : Coord) (x2 : Nat) (x3 : Nat) (x4 : Nat) (x5 : Nat) : Statement (.channelGrant x0 x1 x2 x3 x4 x5) := all _
theorem grantResend (x0 : Nat) (x1 : Nat) : Statement (.grantResend x0 x1) := all _
theorem channelMessageArrive (x0 : Nat) (x1 : Nat) (x2 : Nat) (x3 : Shape) (x4 : List Byte) (x5 : List Nat) (x6 : Env) : Statement (.channelMessageArrive x0 x1 x2 x3 x4 x5 x6) := all _
theorem channelCreditReturn (x0 : Nat) (x1 : Nat) (x2 : Nat) : Statement (.channelCreditReturn x0 x1 x2) := all _
theorem update (x0 : Nat) (x1 : W32) (x2 : Env) : Statement (.update x0 x1 x2) := all _
theorem lossScaleWrite (x0 : Nat) (x1 : W32) : Statement (.lossScaleWrite x0 x1) := all _
theorem lossScaleAgree (x0 : Nat) (x1 : W32) : Statement (.lossScaleAgree x0 x1) := all _
theorem lossScaleSet (x0 : Nat) (x1 : W32) : Statement (.lossScaleSet x0 x1) := all _
theorem statsRead (x0 : Nat) (x1 : W32) : Statement (.statsRead x0 x1) := all _
theorem seqSetStart (x0 : Nat) (x1 : W32) : Statement (.seqSetStart x0 x1) := all _
theorem seqSetParams (x0 : Nat) (x1 : W32) : Statement (.seqSetParams x0 x1) := all _
theorem seqSetAdvance (x0 : Nat) (x1 : W32) : Statement (.seqSetAdvance x0 x1) := all _
theorem seqSetFinish (x0 : Nat) (x1 : W32) : Statement (.seqSetFinish x0 x1) := all _
theorem seqRetire (x0 : Nat) (x1 : W32) : Statement (.seqRetire x0 x1) := all _
theorem capture (x0 : Nat) (x1 : W32) : Statement (.capture x0 x1) := all _
theorem peerFenceFence (x0 : Nat) (x1 : W32) (x2 : Env) : Statement (.peerFenceFence x0 x1 x2) := all _
theorem peerFenceUnfence (x0 : Nat) (x1 : W32) (x2 : Env) : Statement (.peerFenceUnfence x0 x1 x2) := all _
theorem lambdaSet (x0 : Nat) (x1 : W32) : Statement (.lambdaSet x0 x1) := all _
theorem twinSyncMirror (x0 : Nat) (x1 : W32) (x2 : Env) : Statement (.twinSyncMirror x0 x1 x2) := all _
theorem twinSyncPull (x0 : Nat) (x1 : W32) (x2 : Env) : Statement (.twinSyncPull x0 x1 x2) := all _
theorem twinSyncTakeover (x0 : Nat) (x1 : W32) : Statement (.twinSyncTakeover x0 x1) := all _
theorem twinSyncAsTwin (x0 : Nat) (x1 : W32) (x2 : Env) : Statement (.twinSyncAsTwin x0 x1 x2) := all _
theorem twinSyncHandback (x0 : Nat) (x1 : W32) : Statement (.twinSyncHandback x0 x1) := all _
theorem reinstate (x0 : Nat) (x1 : W32) (x2 : Env) : Statement (.reinstate x0 x1 x2) := all _
theorem contextClose (x0 : Nat) (x1 : W32) : Statement (.contextClose x0 x1) := all _
theorem contextOpen (x0 : Nat) (x1 : Nat) : Statement (.contextOpen x0 x1) := all _
theorem planReadDone (x0 : Nat) (x1 : Env) : Statement (.planReadDone x0 x1) := all _
theorem contextCloseDrain (x0 : Nat) (x1 : Nat) : Statement (.contextCloseDrain x0 x1) := all _
theorem contextCloseFlush (x0 : Nat) (x1 : Nat) : Statement (.contextCloseFlush x0 x1) := all _
theorem quiesceExpiry (x0 : Nat) : Statement (.quiesceExpiry x0) := all _
theorem teardownComplete (x0 : Nat) : Statement (.teardownComplete x0) := all _
theorem numberHoldExpiry (x0 : Nat) : Statement (.numberHoldExpiry x0) := all _
theorem bindRequestReceive (x0 : Nat) (x1 : Nat) (x2 : Coord) (x3 : W32) (x4 : W16) : Statement (.bindRequestReceive x0 x1 x2 x3 x4) := all _
theorem bindRetry (x0 : Nat) : Statement (.bindRetry x0) := all _
theorem contextMessageReceive (x0 : Nat) (x1 : Nat) (x2 : Coord) (x3 : W16) (x4 : Nat) (x5 : Byte) (x6 : Option W32) (x7 : Msg) : Statement (.contextMessageReceive x0 x1 x2 x3 x4 x5 x6 x7) := all _
theorem memoryAccessReceive (x0 : Coord) (x1 : MemAccess) (x2 : Env) : Statement (.memoryAccessReceive x0 x1 x2) := all _
theorem xlatInv (x0 : Nat) (x1 : Nat) : Statement (.xlatInv x0 x1) := all _
theorem xlatInvDone (x0 : Nat) : Statement (.xlatInvDone x0) := all _
theorem hbmRateSet (x0 : Nat) : Statement (.hbmRateSet x0) := all _
theorem hbmRetrainDone (x0 : Nat) (x1 : Option Nat) : Statement (.hbmRetrainDone x0 x1) := all _
theorem hbmLocalSet (x0 : Nat) : Statement (.hbmLocalSet x0) := all _
theorem hbmRequest (x0 : Nat) (x1 : HbmRequester) (x2 : Nat) (x3 : Nat) (x4 : Nat) (x5 : Option (List Byte)) : Statement (.hbmRequest x0 x1 x2 x3 x4 x5) := all _
theorem hbmRequestComplete (x0 : Nat) (x1 : Nat) (x2 : Bool) (x3 : Bool) : Statement (.hbmRequestComplete x0 x1 x2 x3) := all _
theorem hbmRequestAgeing (x0 : Nat) (x1 : Nat) : Statement (.hbmRequestAgeing x0 x1) := all _
theorem hbmBankSlow (x0 : Nat) (x1 : Nat) : Statement (.hbmBankSlow x0 x1) := all _
theorem memorySideAdd (x0 : Nat) (x1 : W64) (x2 : Nat) (x3 : Nat) (x4 : Bool) (x5 : List Byte) (x6 : List Nat) (x7 : (Nat × W32) × Env) : Statement (.memorySideAdd x0 x1 x2 x3 x4 x5 x6 x7) := all _
theorem sramScrub (x0 : Nat) (x1 : Nat) (x2 : Nat) (x3 : Nat) (x4 : List Nat) (x5 : List Nat) : Statement (.sramScrub x0 x1 x2 x3 x4 x5) := all _
theorem stackLoss (x0 : Nat) (x1 : Nat) : Statement (.stackLoss x0 x1) := all _
theorem flitReceive (x0 : Nat) (x1 : Nat) (x2 : Nat) (x3 : Flit) : Statement (.flitReceive x0 x1 x2 x3) := all _
theorem mortarNack (x0 : Nat) (x1 : Nat) (x2 : Nat) (x3 : Nat) : Statement (.mortarNack x0 x1 x2 x3) := all _
theorem laneRetrain (x0 : Nat) (x1 : Nat) (x2 : Nat) : Statement (.laneRetrain x0 x1 x2) := all _
theorem lgRetrain (x0 : Nat) (x1 : Nat) : Statement (.lgRetrain x0 x1) := all _
theorem laneRetrainDone (x0 : Nat) (x1 : Nat) (x2 : Nat) (x3 : Option Nat) : Statement (.laneRetrainDone x0 x1 x2 x3) := all _
theorem portEnable (x0 : Nat) : Statement (.portEnable x0) := all _
theorem portDisable (x0 : Nat) : Statement (.portDisable x0) := all _
theorem portRetrain (x0 : Nat) : Statement (.portRetrain x0) := all _
theorem carrierDetect (x0 : Nat) (x1 : Nat) (x2 : LambdaSet) : Statement (.carrierDetect x0 x1 x2) := all _
theorem trainingComplete (x0 : Nat) (x1 : Nat) (x2 : LambdaSet) (x3 : List (Nat × W64 × Nat)) : Statement (.trainingComplete x0 x1 x2 x3) := all _
theorem carrierLoss (x0 : Nat) (x1 : Nat) (x2 : Nat) : Statement (.carrierLoss x0 x1 x2) := all _
theorem linkDeadExpiry (x0 : Nat) (x1 : Nat) : Statement (.linkDeadExpiry x0 x1) := all _
theorem pauseExpiry (x0 : Nat) (x1 : Nat) : Statement (.pauseExpiry x0 x1) := all _
theorem hello (x0 : Nat) (x1 : Nat) (x2 : Ctrl) : Statement (.hello x0 x1 x2) := all _
theorem helloResend (x0 : Nat) (x1 : Nat) : Statement (.helloResend x0 x1) := all _
theorem helloAck (x0 : Nat) (x1 : Nat) (x2 : Ctrl) : Statement (.helloAck x0 x1 x2) := all _
theorem resync (x0 : Nat) (x1 : Nat) (x2 : Ctrl) : Statement (.resync x0 x1 x2) := all _
theorem dataFrameReceive (x0 : Nat) (x1 : Nat) (x2 : Frame × Env) (x3 : List Nat) (x4 : List (List Nat)) : Statement (.dataFrameReceive x0 x1 x2 x3 x4) := all _
theorem frameTransmit (x0 : Nat) (x1 : Nat) : Statement (.frameTransmit x0 x1) := all _
theorem ack (x0 : Nat) (x1 : Nat) (x2 : Ctrl) : Statement (.ack x0 x1 x2) := all _
theorem nackCrc (x0 : Nat) (x1 : Nat) (x2 : Ctrl) : Statement (.nackCrc x0 x1 x2) := all _
theorem controlResend (x0 : Nat) (x1 : Nat) (x2 : Nat) : Statement (.controlResend x0 x1 x2) := all _
theorem pause (x0 : Nat) (x1 : Nat) (x2 : Ctrl) : Statement (.pause x0 x1 x2) := all _
theorem pauseAck (x0 : Nat) (x1 : Nat) (x2 : Ctrl) : Statement (.pauseAck x0 x1 x2) := all _
theorem pauseAckTimeout (x0 : Nat) (x1 : Nat) : Statement (.pauseAckTimeout x0 x1) := all _
theorem resume (x0 : Nat) (x1 : Nat) (x2 : Ctrl) : Statement (.resume x0 x1 x2) := all _
theorem lambdaAdd (x0 : Nat) (x1 : Nat) (x2 : Ctrl) (x3 : Bool) : Statement (.lambdaAdd x0 x1 x2 x3) := all _
theorem lambdaAddAck (x0 : Nat) (x1 : Nat) (x2 : Ctrl) : Statement (.lambdaAddAck x0 x1 x2) := all _
theorem lambdaDrop (x0 : Nat) (x1 : Nat) (x2 : Ctrl) : Statement (.lambdaDrop x0 x1 x2) := all _
theorem lambdaDropAck (x0 : Nat) (x1 : Nat) (x2 : Ctrl) : Statement (.lambdaDropAck x0 x1 x2) := all _
theorem lambdaRefuse (x0 : Nat) (x1 : Nat) (x2 : Ctrl) : Statement (.lambdaRefuse x0 x1 x2) := all _
theorem lambdaChangeTimeout (x0 : Nat) (x1 : Nat) : Statement (.lambdaChangeTimeout x0 x1) := all _
theorem lambdaBorrow (x0 : Nat) (x1 : Nat) : Statement (.lambdaBorrow x0 x1) := all _
theorem lambdaWithdraw (x0 : Nat) (x1 : Nat) : Statement (.lambdaWithdraw x0 x1) := all _
theorem msgNack (x0 : Nat) (x1 : Nat) (x2 : Ctrl) : Statement (.msgNack x0 x1 x2) := all _
theorem bindAnswer (x0 : Nat) (x1 : Nat) (x2 : Ctrl) : Statement (.bindAnswer x0 x1 x2) := all _
theorem credit (x0 : Nat) (x1 : Nat) (x2 : Ctrl) : Statement (.credit x0 x1 x2) := all _
theorem reassemblyExpiry (x0 : Nat) (x1 : Nat) (x2 : Nat) : Statement (.reassemblyExpiry x0 x1 x2) := all _
theorem transitForward (x0 : Nat) : Statement (.transitForward x0) := all _
theorem combEvaluation (x0 : List (List (List Int))) : Statement (.combEvaluation x0) := all _
theorem spareReady : Statement (.spareReady) := all _
theorem combForce (x0 : Nat) : Statement (.combForce x0) := all _
theorem switchoverSwitch : Statement (.switchoverSwitch) := all _
theorem combSwitchDone (x0 : Nat) (x1 : List (List (List Int))) : Statement (.combSwitchDone x0 x1) := all _
theorem sourceRetest (x0 : List Int) : Statement (.sourceRetest x0) := all _
theorem watchdogTest (x0 : EngineId) (x1 : Nat) : Statement (.watchdogTest x0 x1) := all _
theorem engineReset (x0 : Nat) (x1 : Nat) : Statement (.engineReset x0 x1) := all _
theorem tileReset (x0 : Nat) (x1 : Nat) : Statement (.tileReset x0 x1) := all _
theorem portReset (x0 : Nat) (x1 : Nat) : Statement (.portReset x0 x1) := all _
theorem opticalEngineReset (x0 : Nat) (x1 : Nat) : Statement (.opticalEngineReset x0 x1) := all _
theorem dieReset (x0 : Nat) (x1 : Nat) : Statement (.dieReset x0 x1) := all _
theorem contextReset (x0 : Nat) (x1 : Nat) : Statement (.contextReset x0 x1) := all _
theorem moduleRingReset (x0 : Nat) (x1 : Nat) : Statement (.moduleRingReset x0 x1) := all _
theorem moduleReset (x0 : Nat) (x1 : Nat) : Statement (.moduleReset x0 x1) := all _
theorem resetDone (x0 : Nat) (x1 : List StepReport) : Statement (.resetDone x0 x1) := all _
theorem tileRetire (x0 : Nat) (x1 : Nat) : Statement (.tileRetire x0 x1) := all _
theorem keystoneHeartbeatCheck (x0 : Bool) : Statement (.keystoneHeartbeatCheck x0) := all _
theorem powerGood : Statement (.powerGood) := all _
theorem startupStepComplete (x0 : List StepReport) (x1 : Nat) : Statement (.startupStepComplete x0 x1) := all _
theorem ks1LeadsStartup : Statement (.ks1LeadsStartup) := all _
theorem counterCalibration (x0 : Bool) (x1 : Bool) : Statement (.counterCalibration x0 x1) := all _
theorem configRequest (x0 : Nat) (x1 : Nat) (x2 : Option W32) : Statement (.configRequest x0 x1 x2) := all _
theorem stage (x0 : Nat) (x1 : Env) : Statement (.stage x0 x1) := all _
theorem activate (x0 : Nat) : Statement (.activate x0) := all _
theorem confirm (x0 : Nat) : Statement (.confirm x0) := all _
theorem commitSvn (x0 : Nat) : Statement (.commitSvn x0) := all _
theorem firmwareCommandDone : Statement (.firmwareCommandDone) := all _
theorem debugUnlock (x0 : Nat) (x1 : Env) : Statement (.debugUnlock x0 x1) := all _
theorem keyInstall (x0 : Nat) (x1 : Env) : Statement (.keyInstall x0 x1) := all _
theorem keyInstallDone : Statement (.keyInstallDone) := all _
theorem getVersion (x0 : Nat) : Statement (.getVersion x0) := all _
theorem getCapabilities (x0 : Nat) : Statement (.getCapabilities x0) := all _
theorem negotiateAlgorithms (x0 : Nat) : Statement (.negotiateAlgorithms x0) := all _
theorem getDigests (x0 : Nat) : Statement (.getDigests x0) := all _
theorem getCertificate (x0 : Nat) (x1 : Nat) (x2 : Nat) (x3 : Nat) : Statement (.getCertificate x0 x1 x2 x3) := all _
theorem challenge (x0 : Nat) (x1 : Nat) (x2 : List Byte) : Statement (.challenge x0 x1 x2) := all _
theorem getMeasurements (x0 : Nat) (x1 : Nat) (x2 : Bool) (x3 : List Byte) : Statement (.getMeasurements x0 x1 x2 x3) := all _
theorem keyExchange (x0 : Nat) (x1 : List Byte) : Statement (.keyExchange x0 x1) := all _
theorem finish (x0 : Nat) (x1 : Bool) : Statement (.finish x0 x1) := all _
theorem keyUpdate (x0 : Nat) : Statement (.keyUpdate x0) := all _
theorem heartbeat (x0 : Nat) : Statement (.heartbeat x0) := all _
theorem endSession (x0 : Nat) : Statement (.endSession x0) := all _
theorem doeAbort (x0 : Nat) : Statement (.doeAbort x0) := all _
theorem ideFail (x0 : Nat) (x1 : Nat) : Statement (.ideFail x0 x1) := all _
theorem clockSet (x0 : Nat) (x1 : W32) : Statement (.clockSet x0 x1) := all _
theorem highClkSet (x0 : Bool) : Statement (.highClkSet x0) := all _
theorem supplyLow (x0 : Nat) : Statement (.supplyLow x0) := all _
theorem supplyHigh (x0 : Nat) : Statement (.supplyHigh x0) := all _
theorem supplyLost (x0 : Nat) : Statement (.supplyLost x0) := all _
theorem droopDetect (x0 : Island × Nat) : Statement (.droopDetect x0) := all _
theorem droopStep (x0 : Island) : Statement (.droopStep x0) := all _
theorem droopStepRaise (x0 : Island) : Statement (.droopStepRaise x0) := all _
theorem thermalReading (x0 : Island) (x1 : Nat) : Statement (.thermalReading x0 x1) := all _
theorem thermalLevelFall (x0 : Island) : Statement (.thermalLevelFall x0) := all _
theorem thermalRecovery (x0 : Island) : Statement (.thermalRecovery x0) := all _
theorem coolantHot (x0 : Nat) : Statement (.coolantHot x0) := all _
theorem perstAssert (x0 : Nat) : Statement (.perstAssert x0) := all _
theorem perstDeassert (x0 : Nat) : Statement (.perstDeassert x0) := all _
theorem dlDown (x0 : Nat) : Statement (.dlDown x0) := all _
theorem dlUp (x0 : Nat) (x1 : Nat) (x2 : Nat) (x3 : Bool) (x4 : Bool) : Statement (.dlUp x0 x1 x2 x3 x4) := all _
theorem hostLossTest (x0 : Nat) (x1 : Nat) : Statement (.hostLossTest x0 x1) := all _
theorem bar2Read (x0 : Nat) (x1 : Nat) (x2 : Nat) (x3 : Env) : Statement (.bar2Read x0 x1 x2 x3) := all _
theorem bar2Write (x0 : Nat) (x1 : Nat) (x2 : List Byte) (x3 : Bool) (x4 : Env) : Statement (.bar2Write x0 x1 x2 x3 x4) := all _
theorem apertureWrite (x0 : Nat) (x1 : W64) : Statement (.apertureWrite x0 x1) := all _
theorem aliasWrite (x0 : Nat) (x1 : Nat) (x2 : Nat) (x3 : W64) : Statement (.aliasWrite x0 x1 x2 x3) := all _
theorem aliasRead (x0 : Nat) (x1 : Nat) (x2 : Nat) : Statement (.aliasRead x0 x1 x2) := all _
theorem bar0InvalidAccess (x0 : Nat) (x1 : Nat) (x2 : Nat) : Statement (.bar0InvalidAccess x0 x1 x2) := all _
theorem msixUnmask (x0 : Nat) (x1 : Nat) : Statement (.msixUnmask x0 x1) := all _
theorem fruRead (x0 : Nat) (x1 : Nat) : Statement (.fruRead x0 x1) := all _
theorem inputV : Statement (.inputV) := all _
theorem inputI : Statement (.inputI) := all _
theorem inlet : Statement (.inlet) := all _
theorem outlet : Statement (.outlet) := all _
theorem hot : Statement (.hot) := all _
theorem state : Statement (.state) := all _
theorem ideKm (x0 : Nat) (x1 : Nat) (x2 : List Byte) : Statement (.ideKm x0 x1 x2) := all _
theorem doeDiscovery (x0 : Nat) (x1 : Nat) : Statement (.doeDiscovery x0 x1) := all _
theorem ueSuppressed (x0 : Nat) : Statement (.ueSuppressed x0) := all _

end Sys2Proof.Laws.WellFormed
end

