-- ==== Sys2Proof/Laws/Runs.lean ====
section
/-! SUPPORT. What carrying out a run and ending a command can change. -/

namespace Sys2Proof.Machine

/-! ## Ends of commands -/

@[simp] theorem Cmd.finish_index (c : Cmd) (st dt : Nat) : (c.finish st dt).index = c.index := by
  unfold Cmd.finish
  split <;> rfl

/-- A started command that is finished has its status and its DETAIL. -/
theorem Cmd.finish_started (c : Cmd) (st dt : Nat) (p : c.phase ≠ .done) :
    c.finish st dt = { c with phase := .done, status := st, detail := dt } := by
  unfold Cmd.finish
  simp [p]

theorem Hw.setCmd_onlyCmd (h : Hw) (r : Nat) (i : W32) (f : Cmd → Cmd) (keep : ∀ c, (f c).index = c.index) :
    h.OnlyCmd (h.setCmd r i f) r i := by
  refine ⟨fun k e => Hw.ring_setCmd_other h r k i f e, Hw.ring_setCmd h r r i f, fun j e => ?_⟩
  rw [Hw.cmd_setCmd h r r i j f keep, if_neg fun x => e x.2]

/-- Ending a command changes nothing but that command. -/
theorem Hw.finishCmd_only (h : Hw) (r : Nat) (i : W32) (st dt : Nat) :
    h.finishCmd r i st dt = { h with rings := (h.finishCmd r i st dt).rings } ∧ h.OnlyCmd (h.finishCmd r i st dt) r i :=
  ⟨rfl, Hw.setCmd_onlyCmd h r i _ fun c => Cmd.finish_index c st dt⟩

theorem Hw.finishCmd_ended (h : Hw) (r : Nat) (i : W32) (st dt : Nat) (c : Cmd) (k : h.cmd r i = some c) (p : c.phase ≠ .done) :
    (h.finishCmd r i st dt).Ended r i st dt := by
  refine ⟨{ c with phase := .done, status := st, detail := dt }, ?_, rfl, rfl, rfl⟩
  unfold Hw.finishCmd
  rw [Hw.cmd_setCmd h r r i i _ fun c => Cmd.finish_index c st dt, if_pos ⟨rfl, rfl⟩, k]
  simp [Cmd.finish_started c st dt p]

/-! ## Runs -/

/-- The machine without what carrying out a run can change beside module memory: dies, contexts (their message numbers), hosts, events,
what went out, messages and the accesses that await their answers, the use of bindings, and the record of errors: poisoned groups and the
list of rows in flash. -/
def Hw.still (h : Hw) : Hw :=
  { h with
    dies := [], ctxs := [], hosts := [], evts := [], out := [], aux := [], outMsgs := [], binds := [], accesses := [], logSeq := 0
    poison := [], flash := {} }

theorem foldl_still {α : Type} (f : Hw → α → Hw) (k : ∀ h x, (f h x).still = h.still) (l : List α) (h : Hw) :
    (l.foldl f h).still = h.still := by
  induction l generalizing h with
  | nil => rfl
  | cons x r ih => exact (ih (f h x)).trans (k h x)

theorem Hw.event_still (h : Hw) (ps : List Nat) (code src ctx : Nat) (epoch : Byte) (d0 d1 : Nat) :
    (h.event ps code src ctx epoch d0 d1).still = h.still := by
  rw [(h.event_tells ps code src ctx epoch d0 d1).1]
  rfl

theorem Hw.evMod_still (h : Hw) (code src d0 d1 : Nat) : (h.evMod code src d0 d1).still = h.still := Hw.event_still h _ _ _ _ _ _ _

/-! What the errors found by reads and writes can change. -/

theorem Hw.ueFound_still (h : Hw) (die place tile da : Nat) : (h.ueFound die place tile da).still = h.still := by
  unfold Hw.ueFound
  dsimp only
  split
  · exact Hw.evMod_still _ _ _ _ _
  · rfl

theorem Hw.recordRow_still (h : Hw) (die place row : Nat) : (h.recordRow die place row).still = h.still := by
  unfold Hw.recordRow
  dsimp only
  rw [Hw.evMod_still]
  split <;> rfl

theorem Hw.foundUe_still (h : Hw) (g : Nat) : (h.foundUe g).still = h.still := by
  unfold Hw.foundUe
  dsimp only
  split
  · exact Hw.ueFound_still _ _ _ _ _
  · rw [Hw.recordRow_still, Hw.ueFound_still]
    rfl

theorem Hw.noteCe_still (h : Hw) (die place n : Nat) : (h.noteCe die place n).still = h.still := by
  unfold Hw.noteCe
  dsimp only
  split
  · rfl
  · split
    · exact Hw.evMod_still _ _ _ _ _
    · rfl

theorem Hw.foundCe_still (h : Hw) (g : Nat) : (h.foundCe g).still = h.still := by
  unfold Hw.foundCe
  dsimp only
  split <;> exact Hw.noteCe_still _ _ _ _

theorem Hw.readErrors_still (h : Hw) (e : Env) (gs : List Nat) : (h.readErrors e gs).still = h.still := by
  unfold Hw.readErrors
  split
  · rfl
  · exact (foldl_still _ Hw.foundCe_still _ _).trans (foldl_still _ Hw.foundUe_still _ _)

theorem Hw.writeErrors_still (h : Hw) (e : Env) (w : Writes) : (h.writeErrors e w).still = h.still := by
  unfold Hw.writeErrors
  split
  · rfl
  · exact Hw.readErrors_still h e _

/-- What the writes of a run leave, of two machines that differ in what `still` leaves out. -/
theorem Hw.applyWrites_still {a b : Hw} (w : Writes) (k : a.still = b.still) : (a.applyWrites w).still = (b.applyWrites w).still := by
  have m : a.mem = b.mem := (congrArg (fun h : Hw => h.mem) k :)
  have e (h : Hw) : (h.applyWrites w).still = { h.still with mem := w.bytes.foldl (fun m x => cellSet m x.1 x.2) h.mem } := rfl
  rw [e, e, k, m]

/-! What a run sends. -/

theorem Hw.sendAs_still (h : Hw) (src : Coord) (n : Nat) (dst : Coord) (cls : Nat) (cmd : Option (Nat × W32)) (m : Msg) :
    (h.sendAs src n dst cls cmd m).still = h.still := by
  unfold Hw.sendAs Hw.msgId
  dsimp only
  generalize Hw.binding _ n dst = b
  cases b <;> rfl

theorem Hw.emit_still (h : Hw) (o : Out) : (h.emit o).still = h.still := rfl
theorem Hw.setHost_still (h : Hw) (p : Nat) (f : HostPort → HostPort) : (h.setHost p f).still = h.still := rfl

theorem Run.toHost_still (r : Run) (h : Hw) (x : Nat × Nat × List Byte × Bool) : (r.toHost h x).still = h.still := by
  unfold Run.toHost
  dsimp only
  have e : (if ((h.hostWrite x.1 x.2.1 x.2.2.1).host x.1).up then h.hostWrite x.1 x.2.1 x.2.2.1
      else r.note (h.hostWrite x.1 x.2.1 x.2.2.1) (.host x.1) x.2.1 true).still = h.still := by
    split <;> rfl
  split
  · refine (foldl_still _ (fun h y => ?_) _ _).trans e
    rw [Hw.emit_still, Hw.evMod_still, Hw.setHost_still]
  · exact e

theorem Run.toModule_still (r : Run) (h : Hw) (slot da : Nat) (write : Bool) (a : MemAccess) :
    (r.toModule h slot da write a).still = h.still := by
  unfold Run.toModule
  split <;> rfl

theorem Run.writeModule_still (r : Run) (h : Hw) (x : Nat × Nat × List Byte × Bool) : (r.writeModule h x).still = h.still :=
  foldl_still _ (fun h _ => r.toModule_still h _ _ _ _) _ _

theorem Run.readModule_still (r : Run) (h : Hw) (x : Nat × Nat × Nat) : (r.readModule h x).still = h.still :=
  foldl_still _ (fun h _ => r.toModule_still h _ _ _ _) _ _

theorem Run.toContext_still (r : Run) (h : Hw) (c : Coord) (die a : Nat) (write po : Bool) (bs : List Byte) (n : Nat) :
    (r.toContext h c die a write po bs n).still = h.still := Hw.sendAs_still _ _ _ _ _ _ _

/-- Carrying out a run changes module memory as the run's writes say, and beside it only what `still` leaves out. -/
theorem Run.finish_still (r : Run) : r.finish.still = (r.h.applyWrites r.w).still := by
  unfold Run.finish
  dsimp only
  show Hw.still (List.foldl _ _ _) = _
  rw [foldl_still, foldl_still, foldl_still, foldl_still, foldl_still, foldl_still, foldl_still]
  · exact Hw.applyWrites_still r.w (Hw.writeErrors_still r.h r.env r.w)
  · exact fun _ _ => rfl
  · exact r.toHost_still
  · exact r.writeModule_still
  · exact r.readModule_still
  · exact fun h x => r.toContext_still h x.1 x.2.1 x.2.2.1 false false [] x.2.2.2
  · exact fun h x => r.toContext_still h x.1 x.2.1 x.2.2.1 true x.2.2.2.2 x.2.2.2.1 x.2.2.2.1.length
  · exact fun _ _ => rfl

@[simp] theorem Run.finish_mem (r : Run) : r.finish.mem = (r.h.applyWrites r.w).mem := (congrArg (fun h : Hw => h.mem) r.finish_still :)
@[simp] theorem Run.finish_now (r : Run) : r.finish.now = r.h.now := (congrArg (fun h : Hw => h.now) r.finish_still :)
@[simp] theorem Run.finish_freeCtr (r : Run) : r.finish.freeCtr = r.h.freeCtr := (congrArg (fun h : Hw => h.freeCtr) r.finish_still :)
@[simp] theorem Run.finish_startSeq (r : Run) : r.finish.startSeq = r.h.startSeq := (congrArg (fun h : Hw => h.startSeq) r.finish_still :)
@[simp] theorem Run.finish_lim (r : Run) : r.finish.lim = r.h.lim := (congrArg (fun h : Hw => h.lim) r.finish_still :)
@[simp] theorem Run.finish_ks (r : Run) : r.finish.ks = r.h.ks := (congrArg (fun h : Hw => h.ks) r.finish_still :)
@[simp] theorem Run.finish_ks2 (r : Run) : r.finish.ks2 = r.h.ks2 := (congrArg (fun h : Hw => h.ks2) r.finish_still :)
@[simp] theorem Run.finish_rings (r : Run) : r.finish.rings = r.h.rings := (congrArg (fun h : Hw => h.rings) r.finish_still :)
@[simp] theorem Run.finish_cpls (r : Run) : r.finish.cpls = r.h.cpls := (congrArg (fun h : Hw => h.cpls) r.finish_still :)
@[simp] theorem Run.finish_objs (r : Run) : r.finish.objs = r.h.objs := (congrArg (fun h : Hw => h.objs) r.finish_still :)
@[simp] theorem Run.finish_syncFlight (r : Run) : r.finish.syncFlight = r.h.syncFlight := (congrArg (fun h : Hw => h.syncFlight) r.finish_still :)
@[simp] theorem Run.finish_seqs (r : Run) : r.finish.seqs = r.h.seqs := (congrArg (fun h : Hw => h.seqs) r.finish_still :)
@[simp] theorem Run.finish_tiles (r : Run) : r.finish.tiles = r.h.tiles := (congrArg (fun h : Hw => h.tiles) r.finish_still :)
@[simp] theorem Run.finish_ports (r : Run) : r.finish.ports = r.h.ports := (congrArg (fun h : Hw => h.ports) r.finish_still :)
@[simp] theorem Run.finish_oes (r : Run) : r.finish.oes = r.h.oes := (congrArg (fun h : Hw => h.oes) r.finish_still :)
@[simp] theorem Run.finish_comb (r : Run) : r.finish.comb = r.h.comb := (congrArg (fun h : Hw => h.comb) r.finish_still :)
@[simp] theorem Run.finish_transit (r : Run) : r.finish.transit = r.h.transit := (congrArg (fun h : Hw => h.transit) r.finish_still :)
@[simp] theorem Run.finish_fences (r : Run) : r.finish.fences = r.h.fences := (congrArg (fun h : Hw => h.fences) r.finish_still :)
@[simp] theorem Run.finish_topo (r : Run) : r.finish.topo = r.h.topo := (congrArg (fun h : Hw => h.topo) r.finish_still :)
@[simp] theorem Run.finish_bcast (r : Run) : r.finish.bcast = r.h.bcast := (congrArg (fun h : Hw => h.bcast) r.finish_still :)

/-- Module memory after a run is carried out holds what the run wrote, and nothing else, where the run began with the memory of `a`. -/
theorem Run.finish_wrote (a : Hw) (r : Run) (m : r.h.mem = a.mem) : a.WroteOnly r.finish r := by
  intro wf k
  rw [Run.finish_mem]
  show cellGet (r.w.bytes.foldl _ r.h.mem) k = _
  rw [m]
  exact cellGet_foldl_set r.w.bytes k wf

/-- A command ends with its run, where the run began with the memory and the rings of `a`. -/
theorem Hw.endRun_ends (h a : Hw) (ring : Nat) (i : W32) (r : Run) (po : Bool) (c : Cmd) (go : r.Goes) (k : a.cmd ring i = some c)
    (p : c.phase ≠ .done) (m : r.h.mem = a.mem) (g : r.h.rings = a.rings) : a.EndsCmd (h.endRun ring i r po) ring i r (r.ends po) := by
  generalize rr : ({ r with ring := ring } : Run) = x
  have e : h.endRun ring i r po = x.finish.setCmd ring i fun c =>
      { c.finish (r.ends po).1 (r.ends po).2 with
        held := false, stalled := false, sat := r.sat, range := r.range, nan := r.nan, poison := r.poisonOut } := by
    unfold Hw.endRun
    rw [if_neg (by rw [show (r.waits && r.fail.isNone) = false from go]; decide), ← rr]
  have keep (c : Cmd) : ({ c.finish (r.ends po).1 (r.ends po).2 with
      held := false, stalled := false, sat := r.sat, range := r.range, nan := r.nan, poison := r.poisonOut } : Cmd).index = c.index :=
    Cmd.finish_index c _ _
  have fr : x.finish.rings = a.rings := (Run.finish_rings x).trans (by rw [← rr]; exact g)
  have fcmd (n : Nat) (j : W32) : x.finish.cmd n j = a.cmd n j := by unfold Hw.cmd Hw.ring; rw [fr]
  have fring (n : Nat) : x.finish.ring n = a.ring n := by unfold Hw.ring; rw [fr]
  have wrote : a.WroteOnly x.finish r := by
    have := Run.finish_wrote a x (by rw [← rr]; exact m)
    rw [← rr] at this ⊢
    exact this
  rw [e]
  refine ⟨⟨_, by rw [Hw.cmd_setCmd _ _ _ _ _ _ keep, if_pos ⟨rfl, rfl⟩, fcmd, k]; rfl, ?_⟩, wrote, ?_⟩
  · dsimp only
    rw [Cmd.finish_started c _ _ p]
    exact ⟨rfl, rfl, rfl, rfl, rfl, rfl⟩
  · have o := Hw.setCmd_onlyCmd x.finish ring i _ keep
    exact ⟨fun n x => (o.1 n x).trans (fring n), by rw [← fring]; exact o.2.1, fun j x => (o.2.2 j x).trans (fcmd ring j)⟩

/-! ## Captures -/

theorem cellsFrom_append {n k : Nat} {a b : List Host.Cell} (ha : cellsFrom n a = true) (l : ∀ x ∈ a, x.1 < k) (nk : n ≤ k)
    (hb : cellsFrom k b = true) : cellsFrom n (a ++ b) = true := by
  induction a generalizing n with
  | nil => exact cellsFrom_mono hb nk
  | cons x r ih =>
    obtain ⟨i, v⟩ := x
    simp only [cellsFrom, Bool.and_eq_true, decide_eq_true_eq] at ha
    have hi : i < k := l (i, v) (List.mem_cons_self ..)
    have := ih ha.2 (fun x hx => l x (List.mem_cons_of_mem _ hx)) (Nat.succ_le_of_lt hi)
    simp [cellsFrom, ha.1.1, this]
    simpa using ha.1.2

theorem cellsFrom_high {n k : Nat} {m : List Host.Cell} (h : cellsFrom n m = true) :
    cellsFrom k (m.filter fun x => decide (k ≤ x.1)) = true := by
  induction m generalizing n with
  | nil => rfl
  | cons x r ih =>
    obtain ⟨i, v⟩ := x
    simp only [cellsFrom, Bool.and_eq_true, decide_eq_true_eq] at h
    by_cases e : k ≤ i
    · have := cellsFrom_filter (fun x => decide (k ≤ x.1)) h.2
      simp [e, cellsFrom, this]
      simpa using h.1.2
    · simpa [List.filter_cons, e] using ih h.2

theorem cellsFrom_bytes (bs : List Byte) (a j : Nat) :
    cellsFrom (a + j) (((bs.zipIdx j).map fun x => ((a + x.2, x.1) : Host.Cell)).filter fun x => x.2 != 0) = true := by
  induction bs generalizing j with
  | nil => rfl
  | cons b r ih =>
    simp only [List.zipIdx_cons, List.map_cons, List.filter_cons]
    split
    · rename_i hb
      simp only [cellsFrom, Bool.and_eq_true, decide_eq_true_eq, Nat.le_refl, true_and]
      exact ⟨hb, ih (j + 1)⟩
    · exact cellsFrom_mono (ih (j + 1)) (by omega)

/-- Overwriting a range keeps the canonical form. -/
theorem Memory.wf_blit {m : List Host.Cell} (a : Nat) (bs : List Byte) (h : Memory.wf m = true) : Memory.wf (cellBlit m a bs) = true := by
  unfold Memory.wf cellBlit
  rw [List.append_assoc]
  refine cellsFrom_append (cellsFrom_filter _ h) (k := a) ?_ (Nat.zero_le a) ?_
  · intro x hx
    simpa using (List.mem_filter.1 hx).2
  · refine cellsFrom_append (by simpa using cellsFrom_bytes bs a 0) (k := a + bs.length) ?_ (by omega) (cellsFrom_high h)
    intro x hx
    obtain ⟨y, hy, rfl⟩ := List.mem_map.1 (List.mem_filter.1 hx).1
    have := (List.mem_zipIdx hy).2.1
    simp only
    omega

end Sys2Proof.Machine
end

