-- ==== Sys2Proof/Tests/Slice0.lean ====
section
/-! SUPPORT. Tests: ill-formed commands that WellFormed refuses, single steps against values of the manual, and for every statement with
hypotheses a state and operands that meet them. -/

namespace Sys2Proof.Tests

open Sys2Proof Sys2Proof.Machine

set_option Elab.async false

/-! ## Builders -/

def hw0 : Hw := State.reset.hw
def st (h : Hw) : State := { hw := h }

/-- n bytes, zero but for fields given as offset, length and value. -/
def bytesOf (n : Nat) (fs : List (Nat × Nat × Nat)) : List Byte :=
  fs.foldl (fun b x => b.take x.1 ++ toLe x.2.1 x.2.2 ++ b.drop (x.1 + x.2.1)) (zeros n)

/-- A started command with an opcode and body fields. -/
def cmdOf (op : Nat) (fs : List (Nat × Nat × Nat)) : Cmd := { index := 4, bytes := bytesOf 64 ((0, 1, op) :: fs), phase := .started }

/-- The machine with one work ring. -/
def withRing (r : Nat) (w : WorkRing) : Hw := { hw0 with rings := hw0.rings.set r w }

/-- The machine with an ACTIVE context 1, and one command running on its RUNNING ring 3. -/
def running (c : Cmd) (plan : Plan := {}) : Hw :=
  { withRing 3 { state := .running, log2 := 6, ctx := 1, head := 5, tailSeen := 5, running := [c] } with
    ctxs := hw0.ctxs.set 1 { state := .active, plan := plan } }

/-- The same on a module ring of port 0. -/
def runningMod (c : Cmd) : Hw := withRing 3 { state := .running, log2 := 6, module := true, head := 5, tailSeen := 5, running := [c] }

/-- A doorbell record. -/
def bell (seq idx check : Nat) : List Byte := toLe 4 seq ++ toLe 4 idx ++ zeros 20 ++ toLe 4 check

/-- Bytes in the memory of the host at port 0. -/
def hosting (h : Hw) (a : Nat) (bs : List Byte) : Hw := h.setHost 0 fun q => { q with mem := cellWrite q.mem a bs }

def after (i : Instr) (h : Hw) : Hw := match exec i (st h) with | .next t => t.hw | _ => hw0

/-! ## Ill-formed commands are refused -/

theorem test_wf_ring : (Instr.nop 127 0).wf = true ∧ (Instr.nop 128 0).wf = false := by decide
theorem test_wf_outRing : (Instr.irqDelayExpiry false 15).wf = true ∧ (Instr.irqDelayExpiry false 16).wf = false ∧
    (Instr.irqDelayExpiry true 1).wf = true ∧ (Instr.irqDelayExpiry true 2).wf = false := by decide
theorem test_wf_port : (Instr.ringStop 1 0).wf = true ∧ (Instr.ringStop 2 0).wf = false := by decide
theorem test_wf_ctx : (Instr.quiesceExpiry 15).wf = true ∧ (Instr.quiesceExpiry 16).wf = false := by decide
theorem test_wf_die : (Instr.ueSuppressed 15).wf = true ∧ (Instr.ueSuppressed 16).wf = false := by decide
theorem test_wf_tile : (Instr.stripTake 15 15).wf = true ∧ (Instr.stripTake 0 16).wf = false := by decide
theorem test_wf_fibre : (Instr.helloResend 47 3).wf = true ∧ (Instr.helloResend 48 0).wf = false ∧ (Instr.helloResend 0 4).wf = false := by
  decide
theorem test_wf_mortar : (Instr.laneRetrain 15 7 255).wf = true ∧ (Instr.laneRetrain 0 8 0).wf = false ∧
    (Instr.laneRetrain 0 0 256).wf = false := by decide
theorem test_wf_wire : (Instr.laneRetrainDone 0 0 0 (some 33)).wf = true ∧ (Instr.laneRetrainDone 0 0 0 (some 34)).wf = false := by decide
theorem test_wf_chan : (Instr.grantResend 0 7).wf = true ∧ (Instr.grantResend 0 8).wf = false := by decide
theorem test_wf_access : (Instr.aliasRead 0 0x3FFFFC 4).wf = true ∧ (Instr.aliasRead 0 2 4).wf = false ∧
    (Instr.aliasRead 0 0 2).wf = false ∧ (Instr.aliasRead 0 0x400000 4).wf = false := by decide
theorem test_wf_invalidAccess : (Instr.bar0InvalidAccess 0 2 4).wf = true ∧ (Instr.bar0InvalidAccess 0 4 4).wf = false := by decide
theorem test_wf_da : (Instr.memorySideAdd 0 0x8000000000000000#64 1 0 false [] [] ((0, 0), {})).wf = true ∧
    (Instr.memorySideAdd 0 0x0010000000000000#64 1 0 false [] [] ((0, 0), {})).wf = false := by decide
theorem test_wf_entry : (Instr.waitPrefetch 0 0 7 1 {}).wf = true ∧ (Instr.waitPrefetch 0 0 8 1 {}).wf = false := by decide
theorem test_wf_lambda : (Instr.carrierLoss 0 0 33).wf = true ∧ (Instr.carrierLoss 0 0 34).wf = false := by decide
theorem test_wf_lines : (Instr.sourceRetest (List.replicate 34 0)).wf = true ∧ (Instr.sourceRetest (List.replicate 35 0)).wf = false := by decide
theorem test_wf_group : (Instr.combForce 2).wf = true ∧ (Instr.combForce 3).wf = false := by decide
theorem test_wf_engine : (Instr.watchdogTest (.copy 0 1) 0).wf = true ∧ (Instr.watchdogTest (.copy 0 2) 0).wf = false ∧
    (Instr.watchdogTest (.gather 0 4) 0).wf = false ∧ (Instr.watchdogTest (.prefetch 16) 0).wf = false := by decide
theorem test_wf_island : (Instr.droopStep (.optical 23)).wf = true ∧ (Instr.droopStep (.optical 24)).wf = false ∧
    (Instr.droopStep (.mortar 0 8)).wf = false ∧ (Instr.droopStep (.keystone 2)).wf = false ∧ (Instr.droopDetect (.fabric 15, 9)).wf = true ∧
    (Instr.droopDetect (.fabric 16, 9)).wf = false := by decide
theorem test_wf_report : (Instr.resetDone 0 [.lanes 0 0 0 33 33 34]).wf = true ∧ (Instr.resetDone 0 [.lanes 0 0 0 34 0 1]).wf = false ∧
    (Instr.resetDone 0 [.combDark 3]).wf = false ∧ (Instr.resetDone 0 [.dieFailed 16]).wf = false := by decide
theorem test_wf_index : (Instr.moduleReset 0 255).wf = true ∧ (Instr.moduleReset 0 256).wf = false := by decide
theorem test_wf_config : (Instr.configRequest 0 4092 none).wf = true ∧ (Instr.configRequest 0 4096 none).wf = false ∧
    (Instr.configRequest 0 2 none).wf = false := by decide
theorem test_wf_spdm : (Instr.challenge 0 7 (zeros 32)).wf = true ∧ (Instr.challenge 0 8 (zeros 32)).wf = false ∧
    (Instr.challenge 0 7 (zeros 31)).wf = false := by decide
theorem test_wf_ide : (Instr.ideKm 0 3 [1]).wf = true ∧ (Instr.ideKm 0 4 [1]).wf = false ∧ (Instr.ideKm 0 3 []).wf = false := by decide
theorem test_wf_supply : (Instr.supplyLow 65535).wf = true ∧ (Instr.supplyLow 65536).wf = false := by decide
theorem test_wf_bar2 : (Instr.bar2Read 0 0 1 {}).wf = true ∧ (Instr.bar2Read 0 0 0 {}).wf = false ∧ (Instr.bar2Write 0 0 [] false {}).wf = false := by
  decide
theorem test_wf_entryNumber : (Instr.msixUnmask 0 2047).wf = true ∧ (Instr.msixUnmask 0 2048).wf = false := by decide
theorem test_wf_fru : (Instr.fruRead 511 1).wf = true ∧ (Instr.fruRead 512 1).wf = false := by decide

/-! ## Hypotheses that states meet: the machine and the rings -/

theorem witness_StepRunsFrontCommand : (({ pending := [.powerGood, .hot] } : State)).pending = .powerGood :: [.hot] := by decide
/-- What holds of the default and of every element of a list holds of every place. -/
theorem getD_all {α : Type} {P : α → Prop} {l : List α} {d : α} (h0 : P d) (h : ∀ x ∈ l, P x) (n : Nat) : P (l.getD n d) := by
  rw [List.getD_eq_getElem?_getD]
  cases e : l[n]? with
  | none => exact h0
  | some x => exact h x (List.mem_of_getElem? e)

/-- The queue is empty, and no link holds a discard back. -/
theorem witness_StepTakesOneCommand : State.reset.pending = [] ∧ (∀ p l, (hw0.link p l).reasmHeld = 0) ∧
    ({ hw0 with ks2 := { hw0.ks2 with powered := false } } : Hw).ks2.powered = false := by
  refine ⟨rfl, fun p l => ?_, rfl⟩
  refine getD_all (P := fun k : Link => k.reasmHeld = 0) rfl (fun k m => ?_) l
  exact getD_all (P := fun q : FPort => ∀ k ∈ q.links, k.reasmHeld = 0) (l := hw0.ports) (by decide +kernel) (by decide +kernel) p k m

theorem witness_StepKeepsLegal : Limits.Legal State.reset.hw.lim ∧ ∃ t, step State.reset = .next t :=
  ⟨⟨by decide, by decide, by decide, by decide, by decide, by decide, by decide, by decide⟩, _, rfl⟩

def polled (idx check : Nat) : Hw :=
  hosting { withRing 3 { state := .running, log2 := 6, ctx := 1, dbAddr := 64, head := 5, tailSeen := 7 } with
            ctxs := hw0.ctxs.set 1 { state := .active } } 64 (bell 9 idx check)
/-- A TAIL exactly SIZE beyond HEAD is accepted, and one more is not. -/
theorem witness_WorkDoorbellPoll :
    (∀ k ∈ [69, 70], let s := st (polled k 9); let w := s.hw.ring 3; let r := s.hw.hostRead (s.hw.ringPort w) w.dbAddr.toNat 32
      s.hw.ks2.powered = true ∧ w.state = .running ∧ w.drainWait = false ∧ s.hw.HostOpen (s.hw.ringPort w) 64 32 ∧
      Memory.wf (s.hw.host (s.hw.ringPort w)).mem = true ∧ fld r 0 4 = fld r 0x1C 4 ∧ w.seqSeen ≠ some (BitVec.ofNat 32 (fld r 0 4)) ∧ fld r 4 4 = k) ∧
    ((69#32 - 5#32).toNat ≤ 2 ^ 6 ∧ 2 ^ 6 < (70#32 - 5#32).toNat) := by
  unfold Hw.HostOpen
  decide +kernel

def headed (idx : Nat) : Hw :=
  hosting { hw0 with cpls := hw0.cpls.set 2 { en := true, dbAddr := 64, ctx := 1, writeTail := 50, headSeen := 2 } } 64 (bell 9 idx 9)
theorem witness_CplDoorbellPoll :
    (∀ k ∈ [50, 51], let s := st (headed k); let o := s.hw.outRing false 2; let r := s.hw.hostRead (s.hw.outPort false 2) o.dbAddr.toNat 32
      s.hw.ks2.powered = true ∧ o.en = true ∧ 4 * (o.size - o.used) ≤ o.size ∧ s.hw.HostOpen (s.hw.outPort false 2) 64 32 ∧
      fld r 0 4 = fld r 0x1C 4 ∧ fld r 4 4 = k ∧ o.seqSeen ≠ some 9 ∧ o.badSeq ≠ some 9) ∧
    ((50#32 - 50#32).toNat ≤ 64 ∧ (50#32 - 2#32).toNat ≤ 64 ∧ ¬ (50#32 - 51#32).toNat ≤ 64) := by
  unfold Hw.HostOpen
  decide +kernel

/-- A NOP in slot 5 is fetched; a read that fails. -/
def fetchable : Hw :=
  hosting { withRing 3 { state := .running, log2 := 6, ctx := 1, base := 4096, head := 5, tailSeen := 7 } with
            ctxs := hw0.ctxs.set 1 { state := .active } } (4096 + 64 * 5) (bytesOf 64 [(1, 1, 1)])
theorem witness_DescriptorFetch :
    fetchable.ks2.powered = true ∧ 3 < fetchable.rings.length ∧ (fetchable.ring 3).canFetch = true ∧
    (fetchable.host (fetchable.ringPort (fetchable.ring 3))).up = true ∧
    ((fetchable.checkDescriptor 3 5 (fetchable.hostRead 0 (4096 + 64 * 5) 64) false {}).map fun x => (x.1.fail, x.1.opcode)) = some (none, 0) ∧
    (fetchable.ring 3).told = false ∧ fetchable.HostOpen 0 ((fetchable.ring 3).dbAddr.toNat + 0x20) 32 ∧
    Memory.wf (fetchable.host 0).mem = true ∧ (fetchable.host 0).barred (4096 + 64 * 5) 64 = false ∧
    (let e : Env := { hostFail := true }; e.hostFail = true ∧ e.hostPoison = false) := by
  unfold Hw.HostOpen
  decide +kernel
/-- A stream that is enabled and has no keys takes every request: nothing goes to the host (R431). -/
theorem test_insecure_stream :
    let q : HostPort := { config := [(Config.ideStream 0 + 4, 0x400001)] }
    q.barred 4096 64 = true ∧ ({ q with ide := [{ secure := true, keys := [1] }] } : HostPort).insecure 0 = false := by
  have e (k : Nat) (l : List IdeStream) : HostPort.reg { config := [(k, 0x400001)], ide := l } k = 0x400001#32 := by
    simp [HostPort.reg]
  refine ⟨?_, rfl⟩
  simp only [HostPort.barred, HostPort.insecure, HostPort.onStream, List.any_eq_true]
  exact ⟨0, by simp, by rw [e]; decide +kernel⟩

def atTurn (c : Cmd) : Hw :=
  { withRing 3 { state := .running, log2 := 6, ctx := 1, head := 5, tailSeen := 5, fetched := [c] } with
    ctxs := hw0.ctxs.set 1 { state := .active, plan := { syncBase := 8, syncCount := 4 } } }
/-- A refused command; a wait on object 9 that is not met at 1, and met at 0; one that waits at its turn, and one whose wait was met there. -/
theorem witness_CommandStart :
    let f (fail : Option (Nat × Nat)) (level : Nat) : Cmd :=
      { bytes := bytesOf 64 [(2, 2, 3), (8, 8, level), (0x14, 2, 9)], fail := fail }
    (∀ c ∈ [f (some (8, 0)) 1, f none 1, f none 0], (atTurn c).ks2.powered = true ∧ ((atTurn c).ring 3).fetched = [c] ∧
      (atTurn c).turnOk 3 c = true ∧ c.phase = .fetched ∧ c.phase ≠ .done ∧ (atTurn c).headerCheck 3 c = none ∧ c.waitEn = true ∧ c.waitAcq = true ∧ c.opcode ≤ 4) ∧
    (((atTurn (f none 1)).obj (f none 1).waitObj).toNat < (f none 1).threshold ∧
      (f none 0).threshold ≤ ((atTurn (f none 0)).obj (f none 0).waitObj).toNat) ∧
    (∀ met ∈ [false, true], let c : Cmd := { f none 1 with phase := .turn, satisfied := met }
      ((atTurn c).ring 3).fetched = [c] ∧ (atTurn c).turnOk 3 c = true ∧ ((atTurn c).ring 3).module = false ∧ c.opcode ≤ 4) := by decide +kernel

def doneCmd (status flags : Nat) : Cmd := { bytes := bytesOf 64 [(2, 2, flags), (0x16, 2, 9)], index := 4, phase := .done, status := status }
/-- A write of the command of start order `n` of ring 3 that module 1 has not acknowledged. -/
def owing (n : Nat) : Access := { home := .module 1, addr := 64, write := true, ring := 3, order := n, ctx := 1 }
def completing (status flags : Nat) : Hw :=
  { running (doneCmd status flags) { syncBase := 8, syncCount := 4 } with cpls := hw0.cpls.set 0 { en := true, ctx := 1 } }
/-- OK with a signal and no record; TRANSLATION, which halts; the same while a write of the command is out. -/
theorem witness_CommandComplete :
    (∀ x ∈ [(0, 0x84), (0x08, 0)], let h := completing x.1 x.2
      h.ks2.powered = true ∧ h.cmd 3 4 = some (doneCmd x.1 x.2) ∧ (h.ring 3).state = .running ∧ h.awaits 0 = false ∧
      (doneCmd x.1 x.2).work = .idle) ∧
    (∀ x ∈ [0x84, 0x8C], let c := { doneCmd 0 x with order := 7 }
      let h := { running c { syncBase := 8, syncCount := 4 } with accesses := [owing 7] }
      h.cmd 3 4 = some c ∧ h.awaits c.order = true ∧ c.sigRel = (x == 0x8C) ∧ c.signalled = false ∧ h.mayLose c.order = true) ∧
    (let c := { doneCmd 0 0x84 with order := 7 }
     let h := { running c { syncBase := 8, syncCount := 4 } with accesses := [{ owing 7 with home := .host 0 }] }
     h.cmd 3 4 = some c ∧ h.awaits c.order = true ∧ c.sigRel = false ∧ c.signalled = false ∧ h.mayLose c.order = false) ∧
    (let c := { doneCmd 0 0 with work := .prefetch [(64, 1)] }
     (running c).cmd 3 4 = some c ∧ c.work = .prefetch [(64, 1)] ∧ (running c).awaits c.order = false) ∧
    ((completing 0 0x84).ctx 1).plan.ownsObj 9 = true ∧ (doneCmd 0 0x84).sigEn = true ∧ (doneCmd 0 0x84).cplMode = 1 ∧
    signalsOn 0 = true ∧ haltsOn 0x08 = true ∧ haltsOn 0 = false ∧ (completing 0x08 0).skips 3 0x08 = false := by decide +kernel
theorem witness_RecordsGoToTheirSlot :
    (let h := completing 0 0
     h.cmd 3 4 = some (doneCmd 0 0) ∧ (doneCmd 0 0).cplMode ≠ 1 ∧ (doneCmd 0 0).sigEn = false ∧ (h.ring 3).records = [] ∧
     h.canRecord false 0 = true ∧ h.outPort false 0 < h.hosts.length ∧ Memory.wf (h.host 0).mem = true ∧ (h.host 0).barred 0 32 = false ∧
     (h.outRing false 0).base = 0 ∧ (doneCmd 0 0).work = .idle) ∧
    (let h := (completing 0 0).setRing 3 fun w => { w with records := [⟨zeros 32, 0⟩, ⟨zeros 32, 0⟩] }
     (h.ring 3).records = ⟨zeros 32, 0⟩ :: [⟨zeros 32, 0⟩] ∧ (h.ring 3).recordRing = (false, 0) ∧ h.canRecord false 0 = true ∧ h.awaits 0 = false ∧ (h.ring 3).state ≠ .draining) ∧
    ({ completing 0 0 with accesses := [owing 7] } : Hw).awaits (⟨zeros 32, 7⟩ : Rec).order = true := by decide +kernel
theorem witness_InterruptsGoOut :
    (let h := { hw0 with cpls := hw0.cpls.set 2 { irqTimer := true, vector := 5 } }
     h.ks2.powered = true ∧ (h.outRing false 2).irqTimer = true ∧ h.outPort false 2 < h.hosts.length) ∧
    (let h := hw0.setHost 1 fun q => { q with pba := [2047] }
     h.reaches 1 = true ∧ h.dark (0x38000C + 16 * 2047) = false ∧ 2047 ∈ (h.host 1).pba ∧ 1 < h.hosts.length ∧ (h.host 1).msixOn = true ∧
       (h.host 1).msixMask = false ∧ (h.host 1).barred ((h.host 1).msixAddr 2047) 4 = false) ∧
    ((hw0.setHost 1 fun q => { q with msixMask := true }).host 1).msixMask = true := by decide +kernel

/-- A ring that can start, with a TAIL exactly SIZE beyond HEAD; the same without its context. -/
def startable (state : RingState) (c : CtxState) : Hw :=
  hosting { withRing 3 { state := state, log2 := 6, ctx := 1, dbAddr := 64, head := 5 } with
            ctxs := hw0.ctxs.set 1 { state := c }, cpls := hw0.cpls.set 0 { en := true, ctx := 1 } } 64 (bell 9 69 9)
theorem witness_RingStart :
    (startable .stopped .opened).dark (ringOff 3) = false ∧ (startable .stopped .opened).startCause 0 3 = 0 ∧
    (startable .stopped .free).startCause 0 3 = 3 ∧ ((startable .halted .active).ring 3).state ≠ .stopped ∧
    (let h := startable .stopped .opened; let r := h.hostRead 0 64 32
     h.reaches 0 = true ∧ h.HostOpen 0 64 32 ∧ Memory.wf (h.host 0).mem = true ∧ fld r 0 4 = fld r 0x1C 4 ∧ fld r 4 4 = 69 ∧
       (69#32 - 5#32).toNat ≤ 2 ^ 6) ∧ ((startable .stopped .opened).setHost 0 fun q => { q with d3 := true }).reaches 0 = false := by
  unfold Hw.HostOpen
  decide +kernel
theorem witness_RingStopAndResume :
    (∀ x ∈ [RingState.running, .halted, .stopped, .draining], let h := startable x .active
      h.ks2.powered = true ∧ h.dark (ringOff 3) = false ∧ h.reaches 0 = true ∧ (h.ring 3).state = x ∧ (h.ctx 1).state ≠ .quiescing) := by
  decide +kernel
/-- A new TAIL, the one seen before, and one too far. -/
theorem witness_DrainTakesItsLimit :
    (∀ x ∈ [(69, none), (69, some 9), (70, none)],
      let h : Hw := hosting { withRing 3 { state := .running, log2 := 6, ctx := 1, dbAddr := 64, head := 5, seqSeen := x.2, drainWait := true
                                           running := [cmdOf 0x08 []] } with
                              ctxs := hw0.ctxs.set 1 { state := .active } } 64 (bell 9 x.1 9)
      let r := h.hostRead (h.ringPort (h.ring 3)) 64 32
      h.dark (ringOff 3) = false ∧ (h.ring 3).state = .running ∧ (h.ring 3).running ≠ [] ∧ (h.ring 3).drainWait = true ∧ h.HostOpen 0 64 32 ∧ h.reaches 0 = true ∧
      fld r 0 4 = fld r 0x1C 4 ∧ fld r 4 4 = x.1) ∧
    (let h := (startable .running .active).setHost 0 fun q => { q with up := false }
     h.reaches 1 = true ∧ (h.ring 3).state = .running ∧ (h.host (h.ringPort (h.ring 3))).up = false) := by
  unfold Hw.HostOpen
  decide +kernel
theorem witness_RingEnables :
    hw0.dark (outOff false 15) = false ∧ 15 < hw0.cpls.length ∧ hw0.enOk false 15 0x8101 = true ∧ (0x8101#32).getLsbD 0 = true ∧
    (hw0.outRing false 15).en = false ∧ hw0.enOk true 1 0x1001 = false ∧ hw0.dark (outOff true 1) = false ∧ 1 < hw0.evts.length ∧
    (0x8100#32).getLsbD 0 = false := by decide +kernel

/-! ## Registers, aliases and synchronisation -/

/-- Rings in each state; the counters of the last die and link; the limited registers while every context is FREE and while one is not; a read of
no register, and an access that BAR0 refuses. -/
theorem witness_RegisterWrites :
    (hw0.ks2.powered = true ∧ hw0.reaches 1 = true ∧ hw0.rings.length = 128 ∧ (∀ k, k < 0x24 → hw0.dark (ringOff 127 + k) = false) ∧
      (hw0.ring 127).state = .stopped ∧ (∀ x ∈ [RingState.running, .halted, .draining], ((startable x .active).ring 3).state = x)) ∧
    (hw0.dies.length = 16 ∧ (∀ c ∈ dieCounters, hw0.dark (dieOff 15 + c.1) = false) ∧
      (∀ c ∈ linkCounters, hw0.dark (portOff 47 + 0x40 + 0x40 * 3 + c.1) = false) ∧ hw0.dark (outOff false 15 + 0x18) = false) ∧
    ((∀ o ∈ [0x100, 0x104, 0x10C, 0x200, 0x208], hw0.dark o = false) ∧ hw0.allFree = true ∧ hw0.noneBusy = true ∧
      (startable .stopped .opened).allFree = false) ∧
    (accessOk 2 4 = false ∧ accessOk 0x22000 8 = true ∧ accessOk 0x100 4 = true ∧ aliasAt 0x100 = none ∧ 1 < hw0.hosts.length) := by decide +kernel
/-- R71, R259: CE_LIMIT takes a write, OPT_LIMITS 2 ms and 10,001 ms are refused. -/
theorem test_limited : let f (v : Nat) := (after (.registerWrite 0 0x10C 4 (BitVec.ofNat 64 v)) hw0).lim
    (f 0x00640032, f 0x00020002, f 0x30002711) = ({ hw0.lim with linkDeadMs := 50, reasmMs := 100 }, hw0.lim, hw0.lim) := by decide +kernel
theorem witness_Aliases :
    hw0.reaches 1 = true ∧ accessOk 0x200600 4 = true ∧ aliasAt 0x200600 = some (0, 0, 0x600) ∧ assigned 0 0x600 = true ∧ (hw0.membersOf 0 0).head? = some 0 ∧
    hw0.dies.length = 16 ∧ (∀ d, d < 16 → hw0.dark (dieOff d + 0x600) = false) ∧ aliasAt 0x210600 = some (0, 1, 0x600) ∧
    hw0.membersOf 0 1 = [] ∧ assigned 0 0x6F0 = false ∧
    (let h : Hw := { hw0 with bcast := { hw0.bcast with die := hw0.bcast.die.set 0 0x8000 } }
     h.membersOf 0 1 = [15] ∧ accessOk (memberOff 0 15 + 0x600) 4 = true ∧ aliasAt (memberOff 0 15 + 0x600) = none) := by decide +kernel

/-- The first running command of its ring, and one behind it. -/
theorem witness_NopAndFence :
    (∀ op ∈ [0, 1], (running (cmdOf op [])).ks2.powered = true ∧ (running (cmdOf op [])).cmd 3 4 = some (cmdOf op []) ∧
      (cmdOf op []).phase = .started ∧ (cmdOf op []).opcode = op ∧ ((running (cmdOf op [])).ring 3).records = [] ∧
      ((running (cmdOf op [])).ring 3).running.head? = some (cmdOf op [])) ∧
    (let h := (running (cmdOf 1 [])).setRing 3 fun w => { w with running := [{ index := 3 }, cmdOf 1 []] }
     h.cmd 3 4 = some (cmdOf 1 []) ∧ (h.ring 3).running.head? = some { index := 3 }) := by decide +kernel
def importing (revoked writable : Bool) : Plan :=
  { syncBase := 8, syncCount := 4
    imports := [{ window := 0, exporter := 2, exporterEpoch := 0, writable := writable, sync := true, localBase := 0, base := 100
                  length := 4, revoked := revoked }] }
/-- Objects at the ends of the own range, in a window of each kind, and outside both. -/
theorem witness_Signal :
    (∀ x ∈ [(8, true, true), (11, true, true), (100, false, true), (103, false, false), (100, true, true), (12, false, true)],
      let c := cmdOf 0x02 [(0x18, 1, 1), (0x19, 1, 1), (0x1A, 2, x.1)]
      let h := running c (importing x.2.1 x.2.2)
      h.Ready 3 4 0x02 c ∧ (c.f 0x19 1).testBit 1 = false ∧ (h.ring 3).running.head? = some c) ∧
    (importing false true).ownsObj 8 = true ∧ (importing false true).ownsObj 11 = true ∧ (importing false true).ownsObj 12 = false ∧
    (importing false true).importObj 12 = none ∧ ((importing false true).importObj 100).isSome = true ∧
    ((importing true true).importObj 103).map (·.revoked) = some true ∧ ((importing false false).importObj 103).map (·.writable) = some false ∧
    -- a release, with and without an earlier write that is out
    (∀ l ∈ [[], [owing 4]], let c : Cmd := { cmdOf 0x02 [(0x18, 1, 1), (0x19, 1, 1), (0x1A, 2, 8)] with order := 5 }
      let h := { running c (importing false true) with accesses := l }
      h.Ready 3 4 0x02 c ∧ (h.ring 3).running.head? = some c ∧
      ((∃ a ∈ h.accesses, a.ring = 3 ∧ a.order < c.order ∧ a.write = true) ↔ l = [owing 4])) := by
  unfold Hw.Ready
  decide +kernel
/-- A module that a link leads to, one that nothing reaches, a fenced one, and this one, with an object of its range and the first beyond. -/
theorem witness_RemoteSignals :
    ∀ x ∈ [(1, 0), (5, 0), (2, 0), (0, 3), (0, 4)],
      let c := cmdOf 0x02 [(0x18, 1, 1), (0x19, 1, 2), (0x1A, 2, x.2), (0x1C, 4, x.1)]
      let h : Hw := { (running c (importing false true)).setLink 0 0 fun k => { k with state := .up, peer := some 1, kept := true } with
        fences := [{ uid := 7, coord := 2, epoch := 1, fenced := true, redirect := none }] }
      h.Ready 3 4 0x02 c ∧ (c.f 0x19 1).testBit 1 = true ∧ (c.f 0x19 1).testBit 0 = false ∧ c.f 0x1C 4 = x.1 ∧
      h.reach false (BitVec.ofNat 18 x.1) = (if x.1 = 1 then .up else if x.1 = 5 then .gone else if x.1 = 2 then .fenced else .self) := by
  unfold Hw.Ready
  decide +kernel
/-- A threshold met exactly, and one just missed; a wait without a limit; an object outside. -/
theorem witness_Wait :
    (∀ x ∈ [(8, 7, 5), (11, 8, 5), (8, 0, 0xFFFFFFFF), (12, 0, 5)],
      let c := cmdOf 0x03 [(0x18, 1, 1), (0x1A, 2, x.1), (0x1C, 4, x.2.2), (0x20, 8, x.2.1)]
      let h := { running c (importing false true) with objs := [(8, 7), (11, 7)] }
      h.Ready 3 4 0x03 c ∧ (c.f 0x1C 4 = x.2.2) ∧ c.f 0x20 8 = x.2.1) ∧
    (({ hw0 with objs := [(8, 7), (11, 7)] } : Hw).obj 11).toNat = 7 ∧ (importing false true).expert = false := by
  unfold Hw.Ready
  decide +kernel
def blockedWait (v : Nat) : Cmd := { cmdOf 0x03 [(0x1A, 2, 9), (0x20, 8, v)] with phase := .blocked }
/-- An ADD that saturates, and a WAIT that its result satisfies. -/
theorem witness_SyncOperation :
    let o : SyncOp := { obj := 9, set := false, value := 5, source := 3 }
    let h := { running (blockedWait 7) with syncFlight := [o], objs := [(9, 0xFFFFFFFFFFFFFFFE)] }
    h.syncFlight[0]? = some o ∧ h.syncReady 0 o = true ∧ h.cmd 3 4 = some (blockedWait 7) ∧ (blockedWait 7).satisfied = false ∧
    min ((h.obj 9).toNat + 5) (2 ^ 64 - 1) = 2 ^ 64 - 1 := by decide +kernel
theorem witness_LimitsEndCommands :
    (let c : Cmd := { bytes := bytesOf 64 [(2, 2, 1)], phase := .turn }
     ((atTurn c).ring 3).fetched = c :: [] ∧ c.waitEn = true ∧ c.satisfied = false ∧ c.sigEn = false ∧ ((atTurn c).ring 3).state = .running) ∧
    (let c : Cmd := { bytes := bytesOf 64 [(2, 2, 0x25), (0x16, 2, 9)], phase := .turn }
     c.waitEn = true ∧ c.sigEn = true ∧ c.sigAlways = true ∧ c.fail = none ∧ c.signalled = false ∧
      ((atTurn c).ctx ((atTurn c).ring 3).ctx).plan.ownsObj c.sigObj = true) ∧
    ((running (blockedWait 7)).cmd 3 4 = some (blockedWait 7) ∧ (blockedWait 7).f 0x1C 4 ≠ 0xFFFFFFFF ∧
      (cmdOf 0x03 [(0x1C, 4, 0xFFFFFFFF)]).f 0x1C 4 = 0xFFFFFFFF ∧ (running (blockedWait 7)).awaits (blockedWait 7).order = false) ∧
    ((running (cmdOf 0x18 [])).cmd 3 4 = some (cmdOf 0x18 []) ∧ (cmdOf 0x18 []).collBytes.isSome = true ∧ (cmdOf 0x18 []).phase ≠ .done) := by
  decide +kernel

/-! ## Data movement -/

/-- Die 0 holds a translation of page 0 of context 1 to the first 2 MiB of this module's HBM, writable. -/
def mapped (h : Hw) : Hw :=
  { h.setDie 0 fun d => { d with xlat := [{ ctx := 1, epoch := 0, page := 0, entry := 7, giant := false }] } with
    lim := { h.lim with present := 1 }, mem := [(0, 1), (1, 2), (2, 3)] }
/-- A page table at 8 MiB that maps context 1's first GiB to the first GiB of this module's HBM, writable. -/
def tabled (h : Hw) : Hw :=
  { (mapped h).setCtx 1 fun x => { x with plan := { x.plan with ptRoot := 0x800000 } } with
    mem := [(0, 1), (1, 2), (2, 3), (0x800000, 1), (0x800001, 0x10), (0x800002, 0x80), (0x801000, 7)] }
/-- A row of 32 INT8 elements, or of 32 INT32 indices. -/
def row8 (a : Nat) : TD := { elem := 7, rank := 1, sizes := [32], base := BitVec.ofNat 64 a }
def plane8 (a rows : Nat) : TD := { elem := 7, rank := 2, sizes := [32, rows], strides := [1], base := BitVec.ofNat 64 a }
def index1 (a : Nat) : TD := { elem := 6, rank := 1, sizes := [1], base := BitVec.ofNat 64 a }
def mover (op : Nat) (tds : List TD) (fs : List (Nat × Nat × Nat)) : Cmd :=
  { cmdOf op fs with tds := tds.zipIdx.map fun x => (x.2, x.1), engine := some (.copy 0 0) }
def copyCmd : Cmd := mover 0x08 [row8 0, row8 64] []
def fillCmd : Cmd := mover 0x0B [{}, row8 64] [(0x20, 2, 5)]
def gatherCmd : Cmd := mover 0x09 [plane8 0 2, plane8 64 1, index1 256] [(0x30, 1, 1)]
def scatterCmd (op : Nat) : Cmd := mover 0x0A [plane8 0 1, plane8 64 2, index1 256] [(0x30, 1, 1), (0x32, 1, op)]
theorem witness_Movers :
    ((mapped (running copyCmd)).Engaged 3 4 0x08 copyCmd ∧ ((mapped (running copyCmd)).copyRun 3 copyCmd {}).Goes ∧
      ((mapped (running copyCmd)).copyRun 3 copyCmd {}).fail = none) ∧
    ((mapped (running fillCmd)).Engaged 3 4 0x0B fillCmd ∧ ((mapped (running fillCmd)).fillRun 3 fillCmd {}).Goes ∧
      ((mapped (running fillCmd)).fillRun 3 fillCmd {}).fail = none) ∧
    ((mapped (running gatherCmd)).Engaged 3 4 0x09 gatherCmd ∧ ((mapped (running gatherCmd)).gatherRun 3 gatherCmd {}).1.Goes ∧
      ((mapped (running gatherCmd)).gatherRun 3 gatherCmd {}).1.fail = none) ∧
    ∀ op ∈ [0, 1], (mapped (running (scatterCmd op))).Engaged 3 4 0x0A (scatterCmd op) ∧
      ((mapped (running (scatterCmd op))).scatterRun 3 (scatterCmd op) {}).1.Goes ∧
      ((mapped (running (scatterCmd op))).scatterRun 3 (scatterCmd op) {}).1.fail = none := by
  unfold Hw.Engaged Hw.Ready Run.Goes
  decide +kernel
/-! Tensors that lie in this module's memory, by a translation that die 0 holds: what memory holds changes nothing. -/

theorem hit_translate (h : Hw) (m : List Host.Cell) (die n cva : Nat) (wr : Bool) (x : XEntry)
    (i : (h.ctx n).plan.importAt cva = none) (k : (h.die die).xlatOf n (h.ctx n).epoch cva = some x) :
    ({ h with mem := m } : Hw).translate die n cva wr = h.translate die n cva wr := by
  have i' : (({ h with mem := m } : Hw).ctx n).plan.importAt cva = none := i
  have k' : (({ h with mem := m } : Hw).die die).xlatOf n (({ h with mem := m } : Hw).ctx n).epoch cva = some x := k
  unfold Hw.translate
  simp only [i, i']
  unfold Hw.translate.go
  simp only [k, k']
  rfl

/-- Where a group lies when addresses are the keys. -/
def keyOf (t : TD) (row : List Nat) (k : Nat) : Nat := t.base.toNat + (t.rowGroup row + k) * t.b

def foundAt (h : Hw) (w : Bool) (i : Nat) : Bool :=
  (match h.translate 0 1 i w with | .ok (.own k false, none) => k == i | _ => false) &&
  ((h.ctx 1).plan.importAt i).isNone && ((h.die 0).xlatOf 1 (h.ctx 1).epoch i).isSome

def liesAt (h : Hw) (w : Bool) (t : TD) : Bool :=
  !t.owned && t.scaleFmt == 0 && decide (1 ≤ t.rank) && decide (t.rank ≤ t.sizes.length) && decide (∀ d, d < t.rank → 1 ≤ t.size d) &&
  decide (∀ q, q < t.rows → ∀ k, k < t.cg → ∀ i, i < t.b → foundAt h w (keyOf t (t.row q) k + i) = true)

theorem lies_of (h : Hw) (w : Bool) (t : TD) (free : Nat → Prop) (e : liesAt h w t = true) : h.Lies 0 1 w t free (keyOf t) := by
  unfold liesAt at e
  simp only [Bool.and_eq_true, Bool.not_eq_true', beq_iff_eq, decide_eq_true_eq] at e
  obtain ⟨⟨⟨⟨⟨o, c⟩, r⟩, l⟩, z⟩, f⟩ := e
  refine ⟨⟨o, c⟩, ⟨r, l, z⟩, fun q k i a b d m _ => ?_⟩
  have g := f q a k b i d
  unfold foundAt at g
  simp only [Bool.and_eq_true, Option.isNone_iff_eq_none, Option.isSome_iff_exists] at g
  obtain ⟨⟨g, p⟩, y, x⟩ := g
  show ∃ nc x, ({ h with mem := m } : Hw).translate 0 1 (keyOf t (t.row q) k + i) w = _
  rw [hit_translate h m 0 1 _ w y p x]
  split at g
  · rename_i n e
    exact ⟨false, none, by rw [e]; simp at g; rw [g]⟩
  · cases g

theorem apart_of {t : TD} {key : List Nat → Nat → Nat}
    (e : ∀ x ∈ (List.range t.rows).product (List.range t.cg), ∀ y ∈ (List.range t.rows).product (List.range t.cg), x ≠ y →
      key (t.row x.1) x.2 + t.b ≤ key (t.row y.1) y.2 ∨ key (t.row y.1) y.2 + t.b ≤ key (t.row x.1) x.2) : t.apart key :=
  fun q k p j a b c d => e (q, k) (by simp [List.product, a, b]) (p, j) (by simp [List.product, c, d])

theorem covers_within {t : TD} {key : List Nat → Nat → Nat} {lo hi : Nat}
    (e : ∀ q, q < t.rows → ∀ k, k < t.cg → lo ≤ key (t.row q) k ∧ key (t.row q) k + t.b ≤ hi) {a : Nat} (c : t.covers key a) : lo ≤ a ∧ a < hi := by
  obtain ⟨q, k, hq, hk, l, u⟩ := c
  have := e q hq k hk
  omega

def plane32 (a rows : Nat) : TD := { elem := 6, rank := 2, sizes := [32, rows], strides := [1], base := BitVec.ofNat 64 a }
def addCmd : Cmd := mover 0x0A [plane32 0 1, plane32 128 2, index1 384] [(0x30, 1, 1), (0x32, 1, 1)]
theorem witness_MoversWrite :
    (∀ c ∈ [copyCmd, fillCmd, gatherCmd, scatterCmd 0, addCmd], Memory.wf (mapped (running c)).mem = true ∧ c.engine = some (.copy 0 0) ∧
      ((mapped (running c)).die (engineDie (.copy 0 0))).rcLines = [] ∧ ((mapped (running c)).ring 3).ctx = 1) ∧
    ((row8 64).apart (keyOf (row8 64)) ∧ (plane8 64 1).apart (keyOf (plane8 64 1)) ∧ (plane8 64 2).apart (keyOf (plane8 64 2)) ∧
      (plane32 128 2).apart (keyOf (plane32 128 2))) ∧
    (let h := mapped (running copyCmd)
     slotTd copyCmd.tds 0 = some (row8 0) ∧ slotTd copyCmd.tds 1 = some (row8 64) ∧ (∀ w, ∀ t ∈ [row8 0, row8 64], h.Lies 0 1 w t (fun _ => False) (keyOf t)) ∧
     (∀ m, m < 1 → (copyPerm copyCmd.bytes 1).idxOf m < 1 ∧ (row8 0).size m = (row8 64).size ((copyPerm copyCmd.bytes 1).idxOf m))) ∧
    (slotTd fillCmd.tds 1 = some (row8 64) ∧ (mapped (running fillCmd)).Lies 0 1 true (row8 64) (fun _ => False) (keyOf (row8 64))) ∧
    (let h := mapped (running gatherCmd)
     slotTd gatherCmd.tds 0 = some (plane8 0 2) ∧ slotTd gatherCmd.tds 1 = some (plane8 64 1) ∧ slotTd gatherCmd.tds 2 = some (index1 256) ∧
     gatherCmd.f 0x30 1 = 1 ∧ (plane8 0 2).size 0 = (plane8 64 1).size 0 ∧ (plane8 64 1).size 1 = (index1 256).size 0 ∧
     ∀ w, ∀ t ∈ [plane8 0 2, plane8 64 1, index1 256], h.Lies 0 1 w t (fun _ => False) (keyOf t)) ∧
    (let h := mapped (running (scatterCmd 0))
     slotTd (scatterCmd 0).tds 0 = some (plane8 0 1) ∧ slotTd (scatterCmd 0).tds 1 = some (plane8 64 2) ∧
     slotTd (scatterCmd 0).tds 2 = some (index1 256) ∧ (plane8 0 1).size 1 = (index1 256).size 0 ∧ (h.scatterRun 3 (scatterCmd 0) {}).2 = false ∧
     ∀ w, ∀ t ∈ [plane8 0 1, plane8 64 2, index1 256], h.Lies 0 1 w t (fun _ => False) (keyOf t)) ∧
    (let h := mapped (running addCmd)
     let inDst := (plane32 128 2).covers (keyOf (plane32 128 2))
     h.Engaged 3 4 0x0A addCmd ∧ (h.scatterRun 3 addCmd {}).1.Goes ∧ (h.scatterRun 3 addCmd {}).1.fail = none ∧ (h.scatterRun 3 addCmd {}).2 = false ∧
     slotTd addCmd.tds 0 = some (plane32 0 1) ∧ slotTd addCmd.tds 1 = some (plane32 128 2) ∧ slotTd addCmd.tds 2 = some (index1 384) ∧
     adderTakes (addCmd.f 0x32 1) 6 = true ∧ (∀ w, ∀ t ∈ [plane32 0 1, plane32 128 2], h.Lies 0 1 w t inDst (keyOf t)) ∧
     h.Lies 0 1 false (index1 384) (fun _ => False) (keyOf (index1 384)) ∧
     (∀ a, (plane32 0 1).covers (keyOf (plane32 0 1)) a → ¬ inDst a) ∧ ∀ a, inDst a → keySpace a = 0) := by
  have l (c : Cmd) (ts : List TD) (free : Nat → Prop) (e : ∀ w ∈ [true, false], ∀ t ∈ ts, liesAt (mapped (running c)) w t = true) :
      ∀ w, ∀ t ∈ ts, (mapped (running c)).Lies 0 1 w t free (keyOf t) :=
    fun w t m => lies_of _ w t free (e w (by cases w <;> simp) t m)
  have inDst {a : Nat} (c : (plane32 128 2).covers (keyOf (plane32 128 2)) a) : 128 ≤ a ∧ a < 384 := covers_within (by decide +kernel) c
  refine ⟨by decide +kernel, ⟨apart_of (by decide +kernel), apart_of (by decide +kernel), apart_of (by decide +kernel), apart_of (by decide +kernel)⟩,
    ⟨by decide +kernel, by decide +kernel, l _ _ _ (by decide +kernel), by decide +kernel⟩, ⟨by decide +kernel, lies_of _ _ _ _ (by decide +kernel)⟩,
    ⟨by decide +kernel, by decide +kernel, by decide +kernel, by decide +kernel, by decide +kernel, by decide +kernel, l _ _ _ (by decide +kernel)⟩,
    ⟨by decide +kernel, by decide +kernel, by decide +kernel, by decide +kernel, by decide +kernel, l _ _ _ (by decide +kernel)⟩, ?_⟩
  refine ⟨by unfold Hw.Engaged Hw.Ready; decide +kernel, by unfold Run.Goes; decide +kernel, by decide +kernel, by decide +kernel, by decide +kernel,
    by decide +kernel, by decide +kernel, by decide +kernel, l _ _ _ (by decide +kernel), lies_of _ _ _ _ (by decide +kernel), fun a s d => ?_,
    fun a d => ?_⟩
  · have := covers_within (t := plane32 0 1) (key := keyOf (plane32 0 1)) (lo := 0) (hi := 128) (by decide +kernel) s
    have := inDst d
    omega
  · have k : ∀ x ∈ List.range 384, keySpace x = 0 := by decide +kernel
    exact k a (by have := inDst d; simp; omega)
/-- The copied bytes stand at their destination. -/
theorem test_copy :
    (((mapped (running copyCmd)).copyRun 3 copyCmd {}).w.bytes.map (·.2)).take 4 = [1, 2, 3, 0] ∧
    (((mapped (running copyCmd)).copyRun 3 copyCmd {}).w.bytes.map (·.1)).head? = some 64 := by decide +kernel
theorem witness_EngineAcquire :
    let c : Cmd := { cmdOf 0x08 [] with engine := some (.copy 0 0), wantsEngine := true, order := 2 }
    let h := running c
    h.cmd 3 4 = some c ∧ (h.freeEngine true 0).isSome = true ∧ (∀ x ∈ h.engineWaiters true 0, 2 ≤ x) ∧ 0 < h.aux.length ∧
    (let b := { h with aux := h.aux.set 0 { holders := [(0, (1, 0)), (1, (1, 1))] } }; b.freeEngine true 0 = none) := by decide +kernel
def blockReq (write : Bool) : BlockReq :=
  { job := 7, peer := 1, die := 0, write := write, addr := 64, bytes := [1, 2], count := 2, poisoned := [], twinStep := none }
theorem witness_OtherModules :
    (let h := mapped (running (cmdOf 0 []) { jobId := 7 })
     h.jobContext 7 = some 1 ∧ ((Run.start h 0 1 true false {}).writeGroups 64 [1, 2] []).Goes ∧
     ((Run.start h 0 1 true false {}).writeGroups 64 [1, 2] []).fail = none ∧
     ((Run.start h 0 1 true false {}).readGroups 64 2).2.Goes) ∧
    (let h := (mapped (running (cmdOf 0 []) { jobId := 7 })).setHbm 0 fun b => { b with training := true }
     h.jobContext 7 = some 1 ∧ ¬ ((Run.start h 0 1 true false {}).writeGroups 64 [1, 2] []).Goes ∧ h.accessWaits 64 = true) ∧
    ((mapped hw0).ownRange 64 2 = true ∧ (mapped hw0).ownRange (2 ^ 50) 2 = true ∧ (mapped hw0).ownRange (2 ^ 52) 2 = false) ∧
    ((mapped hw0).accessWaits 64 = false ∧ adderTakes 1 6 = true ∧ adderTakes 2 1 = false) := by
  unfold Run.Goes
  decide +kernel

/-! ## Matrix and vector engines -/

def matCmd (taken : List Nat) : Cmd :=
  { cmdOf 0x10 [(0x38, 2, 0xFFFF), (0x3B, 1, 0xFF)] with
    tds := [(0, plane8 0 1), (4, plane8 0 32), (1, { elem := 6, rank := 2, sizes := [32, 1], strides := [1], base := 4096 })]
    work := .matmul 0 taken [] 0 }
theorem witness_StripTake :
    let h := mapped (running (matCmd []))
    h.tileIdle 0 15 = true ∧ firstStarted (h.runningWhere fun c => c.opcode == 0x10 && (h.stripFor 0 15 c).isSome) = some (3, matCmd []) ∧
    h.cmd 3 4 = some (matCmd []) ∧ h.stripFor 0 15 (matCmd []) = some 0 ∧ 15 < h.tiles.length := by decide +kernel
/-- A tile whose array holds the only strip of a product; its bank then stands finished; and a product of two strips, of which one tile holds
the first finished output tile, under a teardown that flushes or not. -/
def strip0 : Strip := { ring := 3, index := 4, number := 0, pos := 0 }
def filling : Hw := (mapped (running (matCmd [0]))).setTile 0 2 fun t => { t with strip := some strip0 }
def wideCmd (strip : Nat) : Cmd :=
  { cmdOf 0x10 [(0x38, 2, 0xFFFF), (0x3B, 1, 0xFF), (0x3C, 2, strip * 128)] with
    tds := [(0, plane8 0 1), (4, plane8 0 129), (1, { elem := 6, rank := 2, sizes := [129, 1], strides := [2], base := 8192 })]
    work := .matmul 0 (if strip = 1 then [0, 1] else [0]) [] 0 }
def bank0 : AccBank := (filling.tileFill 0 strip0 (matCmd [0]) 0 {}).1
def standing (c : Cmd) (flush other : Bool) : Hw :=
  let b : OutTile := { ring := 3, index := 4, number := 0, pos := 0, bank := bank0 }
  let h := ((mapped (running c)).setTile 0 2 fun t => { t with banks := [b] }).setTile 0 5 fun t =>
    { t with banks := if other then [{ b with number := 1 }] else [] }
  h.setCtx 1 fun x => { x with flush := flush }
theorem witness_StripsFill :
    ((filling.tile 0 2).strip = some strip0 ∧ (filling.tile 0 2).banks = [] ∧ filling.Ready 3 4 0x10 (matCmd [0]) ∧ filling.tileStands 0 2 = false ∧
      ((matCmd [0]).mat.stripAt 0).2.2.2 = 1 ∧ (filling.tileFill 0 strip0 (matCmd [0]) 0 {}).2.2.Goes ∧
      (filling.tileFill 0 strip0 (matCmd [0]) 0 {}).2.2.fail = none) ∧
    (((wideCmd 8).mat.stripAt 0).2.2.2 = 2 ∧ ((wideCmd 1).mat.stripAt 0).2.2.2 = 1 ∧ (wideCmd 1).mat.strips = 2) := by
  unfold Hw.Ready Run.Goes
  decide +kernel
/-- The last output tile, one of two, and both under a flushing teardown, with another bank of the command standing and without. -/
theorem witness_OutputTileDrain : ∀ x ∈ [(matCmd [0], false, false), (wideCmd 1, false, true), (wideCmd 1, true, false), (wideCmd 1, true, true)],
    let h := standing x.1 x.2.1 x.2.2
    let y := h.tileDrain 0 2 { ring := 3, index := 4, number := 0, pos := 0, bank := bank0 } x.1 none {}
    (h.tile 0 2).strip = none ∧ h.Ready 3 4 0x10 x.1 ∧ h.tileStands 0 2 = false ∧ x.1.mat.prog = none ∧ 2 ∈ h.workTiles 0 (x.1.f 0x38 2) ∧
    h.runningWhere (fun c => c.opcode == 0x10 && (h.stripFor 0 2 c).isSome) = [] ∧ (h.ctx 1).flush = x.2.1 ∧ y.run.Goes ∧ y.run.fail = none ∧
    (x.2.2 = false → (h.noteDrain true 64 0 2 y.run y).drains 3 4 = false) ∧ (x.2.2 = true → (h.noteDrain true 64 0 2 y.run y).drains 3 4 = true) ∧
    (x.1.mat.outTiles = if x.1 = matCmd [0] then 1 else 2) := by
  unfold Hw.Ready Run.Goes
  decide +kernel
/-- 1·1 + 2·2 + 3·3 (R129), and the run goes. -/
theorem test_matmul :
    let x := (standing (matCmd [0]) false false).tileDrain 0 2 { ring := 3, index := 4, number := 0, pos := 0, bank := bank0 } (matCmd [0]) none {}
    leNat ((x.run.w.bytes.map (·.2)).take 4) = 14 := by
  decide +kernel
/-- R130: beside the drain of one strip's last output tile the array takes the next strip and accumulates. -/
theorem test_two_banks :
    let h := after (.outputTileDrain 0 2 {}) (standing { wideCmd 1 with work := .matmul 0 [0] [] 0 } false false)
    ((h.tile 0 2).banks.map (·.number)) = [1] ∧ (h.cmd 3 4).map (·.work) = some (.matmul 0 [0, 1] [0] 0) := by decide +kernel

def elemCmd (mode : Nat) : Cmd :=
  { cmdOf 0x11 [(0x34, 1, mode), (0x38, 2, 0xFFFF), (0x35, 1, 0)] with
    tds := [(0, { elem := 0, rank := 2, sizes := [32, 1], strides := [1] }), (1, { elem := 0, rank := 2, sizes := [32, 1], strides := [1], base := 4096 }),
            (2, { elem := 6, rank := 2, sizes := [32, 1], strides := [1], base := 8192 })]
    work := .element [0] [] }
def elementOn (mode : Nat) : Hw :=
  (mapped (running (elemCmd mode))).setTile 0 0 fun t => { t with slots := [(0, { ctx := 1, epoch := 0, image := {} })] }
/-- One unit of each mode. -/
theorem witness_Elements : ∀ mode ∈ [0, 1, 2, 3],
    (elementOn mode).Ready 3 4 0x11 (elemCmd mode) ∧ ((elemCmd mode).elem 1).units = 1 ∧ (elementOn mode).takingTiles 0 0xFFFF ≠ [] ∧
    ((elementOn mode).unitOut 3 (elemCmd mode) 0 0 0 {}).isSome = true ∧
    (elementOn mode).unitTile 3 4 (((elementOn mode).takingTiles 0 0xFFFF).map fun t => (0, t)) 0 = some (0, 0) ∧ (elementOn mode).heldUnit 0 0 = none ∧
    (let h := (elementOn mode).setTile 0 0 fun t => { t with unit := some (3, 4, 0) }
     h.heldUnit 0 0 = some ((3, elemCmd mode), 0) ∧ h.tileStands 0 0 = false ∧ h.unitTile 3 4 [] 0 = some (0, 0)) ∧
    (∀ x ∈ (elementOn mode).unitOut 3 (elemCmd mode) 0 0 0 {}, (x.run.waits && x.run.fail.isNone) = false) ∧
    firstStarted (((elementOn mode).runningWhere fun c => c.opcode == 0x11 || c.opcode == 0x20).filter
      fun w => ((elementOn mode).unitFor 0 0 w).isSome) = some (3, elemCmd mode) ∧ (elementOn mode).unitFor 0 0 (3, elemCmd mode) = some 0 := by
  unfold Hw.Ready
  decide +kernel
def loadCmd : Cmd := { cmdOf 0x12 [(0x20, 1, 5)] with image := some { fill := 7 }, work := .load [(0, 3), (15, 15)] }
theorem witness_Loads :
    (running loadCmd).Ready 3 4 0x12 loadCmd ∧ (∀ x ∈ [(0, 3), (15, 15)], (running loadCmd).loadOk loadCmd x.1 x.2 = true ∧
      16 * x.1 + x.2 < (running loadCmd).tiles.length) ∧
    firstStarted ((running loadCmd).runningWhere fun c => c.opcode == 0x12 && c.phase == .started && (match c.work with
        | .load l => l.contains (15, 15) && (running loadCmd).loadOk c 15 15 | _ => false)) = some (3, loadCmd) := by
  unfold Hw.Ready
  decide +kernel
theorem witness_Scrubs :
    16 * 15 + 15 < hw0.tiles.length ∧ hw0.dark (tileOff 15 15) = false ∧ (hw0.tile 15 15).strip = none ∧ (hw0.tile 15 15).banks = [] ∧
    (hw0.tile 15 15).unit = none ∧ hw0.tileStands 15 15 = false ∧ (filling.tile 0 2).strip.isSome = true ∧
    ((standing (matCmd [0]) false false).tile 0 2).banks ≠ [] := by
  decide +kernel

/-- R350: a parity error of the slot that an ELEMENT runs from: 32 FP32 results fill 4 groups, all marked, and CTRL_CE counts it. -/
theorem test_slot_parity :
    let h := (elementOn 0).breakSlot 0 0 0
    (elemCmd 0).usesSlot 0 0 0 = true ∧ ((elementOn 0).program 0 0 0 1).isSome = true ∧ h.program 0 0 0 1 = none ∧ (h.die 0).ctrlCe = 1 ∧
    h.cmd 3 4 = some { elemCmd 0 with spoiled := [(0, 0)] } ∧
    (h.elementOf 3 4 0 {}).poison.length = 4 ∧ ((h.elementOf 3 4 0 {}).cmd 3 4).map (fun c => (c.status, c.detail)) = some (stPoison, 4) ∧
    16 * 0 + 0 < h.tiles.length ∧ 0 < h.dies.length := by decide +kernel
/-! ## Collectives -/

/-- A collective on a torus of two modules along X, this one at (0, 0, 0), with a twin at (1, 0, 0). -/
def pair : Topology := { lens := (2, 1, 1), portDir := List.replicate 24 1 ++ List.replicate 24 2, twinSet := true, twin := 1 }
def f32row (a : Nat) : TD := { elem := 0, rank := 1, sizes := [32], base := BitVec.ofNat 64 a }
def collCmd (op flags : Nat) (s : Slice) : Cmd :=
  { cmdOf op [(0x28, 2, 7), (0x2A, 1, 1), (0x2B, 1, flags), (0x2C, 4, 3), (0x30, 1, 1), (0x31, 1, 1), (0x33, 1, 2)] with
    tds := [(0, f32row 0), (1, f32row 4096)], work := .coll (List.replicate 15 s ++ [s]) }
def colling (c : Cmd) : Hw :=
  { (mapped (running c)).setLink 0 0 fun k => { k with state := .up, peer := some 1, kept := true } with topo := some pair }
def begun : Slice := { started := true, parts := List.replicate 32 0, marks := List.replicate 32 false }
theorem witness_CollectiveSlices : ∀ op ∈ [0x18, 0x19, 0x1A],
    let c := collCmd op 0 {}
    let h := tabled (colling c)
    h.ks2.powered = true ∧ h.cmd 3 4 = some c ∧ c.phase = .started ∧ c.opcode = op ∧ h.writesWait = false ∧
    h.reach false 1 ≠ .gone ∧ h.reach false 1 ≠ .fenced ∧
    (∀ k ∈ h.collOf 3 c, k.senders 15 = [1] ∧ k.extra 0 = false ∧ ∀ d ∈ [0, 1, 15], (c.slice d).started = false ∧ h.stands d [.fabric d] = false ∧
      h.sliceTurn k c d = true ∧ (h.sliceRun k c d {}).waits = false ∧ (h.sliceRun k c d {}).fail = none) ∧
    (h.collOf 3 c).isSome = true := by decide +kernel
/-- With STATS slice 0 sends the norm, and goes last. -/
theorem witness_CollectiveSlices_stats :
    let c := { collCmd 0x18 8 {} with work := .coll ({} :: List.replicate 15 begun) }
    ((colling c).collOf 3 c).isSome = true ∧
    ∀ k ∈ (colling c).collOf 3 c, k.extra 0 = true ∧ (c.slice 0).started = false ∧ (∀ e, e < 16 → e ≠ 0 → (c.slice e).started = true) ∧
      (colling c).sliceTurn k c 0 = true ∧ ((colling c).sliceRun k c 0 {}).waits = false ∧ ((colling c).sliceRun k c 0 {}).fail = none := by
  decide +kernel
def asTwin : Cmd :=
  { cmdOf 0x33 [(0x18, 1, 3)] with
    extra := (collCmd 0x18 0 {}).bytes, tds := [(0, f32row 0), (1, f32row 4096)], work := .coll (List.replicate 16 {}) }
theorem witness_AsTwin :
    ((colling asTwin).collOf 3 asTwin).isSome = true ∧ (colling asTwin).twin.isSome = true ∧ fld asTwin.extra 0 1 ∈ [0x18, 0x19, 0x1A] ∧
    asTwin.f 0x18 1 = 3 ∧ asTwin.wantsEngine = false ∧ (asTwin.slice 1).started = false ∧ ((tabled (colling asTwin)).collOf 3 asTwin).isSome = true ∧
    ∀ k ∈ (tabled (colling asTwin)).collOf 3 asTwin, (tabled (colling asTwin)).sliceTurn k asTwin 1 = true ∧
      ((tabled (colling asTwin)).sliceRun k asTwin 1 {}).waits = false ∧ ((tabled (colling asTwin)).sliceRun k asTwin 1 {}).fail = none := by decide +kernel
def partialMsg (tree : Bool) (axis first : Nat) : CollMsg :=
  { collId := 7, step := 3, opcode := 0x18, op := 1, tree := tree, destSizes := [32], die := 15, axis := axis, first := first, units := 1
    values := List.replicate 32 0, poisoned := List.replicate 32 false, mask := 0, count := 1, sumSq := 0, nonFinite := false, asTwin := false }
/-- A late tree partial; a ring partial of a later axis, and of this one: one that ends here and one that goes on. -/
theorem witness_Partials :
    let c := collCmd 0x18 0 begun
    (∀ k ∈ (colling c).collFor 1 (partialMsg false 0 0), k.tree = false ∧ k.step = 3 ∧ k.op = 0x18 ∧ k.oper = 1 ∧ k.dst.dims = [32] ∧
      ((colling c).slice k 15).started = true ∧ ((colling c).slice k 15).waiting = [] ∧ k.axes[0]? = some 0 ∧ k.axes[0]? ≠ some 1 ∧
      (colling c).collLive k = true ∧ cutRange (k.groupsIn 15) (k.range 15 0 k.me) 2 0 = (0, 0) ∧
      (colling c).reach false 1 ≠ .gone ∧ (colling c).reach false 1 ≠ .fenced) ∧
    ((colling c).collFor 1 (partialMsg false 0 0)).isSome = true ∧
    ((colling c).collFor 2 (partialMsg true 0 0)).isNone = true ∧ 15 < hw0.dies.length ∧ (colling c).writesWait = false ∧
    ((colling c).setHbm 3 fun b => { b with training := true }).writesWait = true ∧
    -- two groups: each end of the ring keeps one
    (∀ k ∈ (colling { collCmd 0x18 0 begun with tds := [(0, { f32row 0 with sizes := [1024] }), (1, { f32row 4096 with sizes := [1024] })] }).collFor 1
        (partialMsg false 0 0), cutRange (k.groupsIn 15) (k.range 15 0 k.me) 2 0 = (0, 1)) := by decide +kernel
theorem witness_Results :
    let c := collCmd 0x18 0 begun
    ((colling c).collFor 1 (partialMsg false 0 0)).isSome = true ∧ (colling c).writesWait = false ∧
    (∀ k ∈ (colling c).collFor 1 (partialMsg false 0 0), k.step = 3 ∧ k.op = 0x18 ∧ k.dst.dims = [32] ∧
      ((colling c).slice k 15).started = true ∧ (0, 1) ∉ ((colling c).slice k 15).covered) := by decide +kernel
/-- A tree whose position here is not the root. -/
theorem witness_TreeDeadline :
    let c := collCmd 0x18 2 begun
    let h : Hw := ({ colling c with topo := some { pair with self := 1, twin := 0 } } : Hw).setLink 0 0 fun k => { k with peer := some 0 }
    ((colling c).collOf 3 c).isSome = true ∧ (∀ k ∈ (colling c).collOf 3 c, 0 < k.units 15 ∧ k.rootBefore 15 0 k.me = true ∧ k.pos 15 0 k.me ≠ 0) ∧
    (h.collOf 3 c).isSome = true ∧ h.writesWait = false ∧
    ∀ k ∈ h.collOf 3 c, k.tree = true ∧ fld k.b 0x34 4 ≠ 0xFFFFFFFF ∧ (h.slice k 0).started = true ∧ (h.slice k 0).forwarded = false ∧
      (h.slice k 0).stage < k.axes.length ∧ h.collLive k = true ∧ k.rootBefore 0 0 k.me = true ∧ k.pos 0 0 k.me ≠ 0 ∧
      h.reach false (k.atPos 0 0 (k.parent (k.pos 0 0 k.me)) k.me) ≠ .gone := by decide +kernel

/-! ## Training and streaming -/

def chanPlan (recv : Bool) : Plan :=
  { syncBase := 8, syncCount := 4, seqBase := 16, seqCount := 16
    channels := [{ chan := 2, recv := recv, slots := 2, peerChan := 5, peer := 1, slotBytes := 128, bufCva := 0x1000 }] }
def chanOn (c : Cmd) (recv : Bool) (ch : Channel) : Hw :=
  let h := colling c
  { h with ctxs := h.ctxs.set 1 { state := .active, plan := chanPlan recv, chans := (List.replicate 8 {}).set 2 ch } }
def sendCmd (sat : Bool) : Cmd := { mover 0x1B [row8 0] [(0x20, 1, 2)] with satisfied := sat }
def recvCmd : Cmd := mover 0x1C [row8 0, row8 64] [(0x20, 1, 2)]
/-- Without a credit, with a slot just large enough, with one too small, and with the message ready to go. -/
theorem witness_Send :
    (∀ x ∈ [(false, 0, 96), (false, 1, 96), (false, 1, 95), (true, 0, 96)],
      let ch : Channel := { valid := true, granted := true, credits := x.2.1, peerSlots := 2, peerSlotBytes := x.2.2 }
      let h := chanOn (sendCmd x.1) false ch
      h.Ready 3 4 0x1B (sendCmd x.1) ∧ ((h.ctx 1).plan.chanEntry 2).isSome = true ∧ (sendCmd x.1).wantsEngine = false ∧
      h.chanBad 1 (sendCmd x.1) false = none ∧ h.reach false 1 ≠ .gone ∧ h.reach false 1 ≠ .fenced) ∧
    (row8 0).messageBytes = 96 ∧
    (let h := chanOn (sendCmd true) false { valid := true, granted := true, peerSlots := 2, peerSlotBytes := 96 }
     (((h.moveRun 3 (sendCmd true) false {}).gatherMessage { td := row8 0 }).2.waits &&
       ((h.moveRun 3 (sendCmd true) false {}).gatherMessage { td := row8 0 }).2.fail.isNone) = false ∧
     ((h.moveRun 3 (sendCmd true) false {}).gatherMessage { td := row8 0 }).2.fail = none) := by
  unfold Hw.Ready
  decide +kernel
/-- A message that is next, of the right shape and of another. -/
theorem witness_Recv :
    (∀ sizes ∈ [[32], [31]],
      let ch : Channel := { valid := true, recv := true, landed := [(0, { elem := 7, scaleFmt := 0, sizes := sizes }, [])] }
      let h := chanOn recvCmd true ch
      h.Ready 3 4 0x1C recvCmd ∧ h.chanBad 1 recvCmd true = none ∧ (ch.landed.find? (·.1 == ch.recvSeq)).isSome = true) ∧
    (row8 64).shape = { elem := 7, scaleFmt := 0, sizes := [32] } ∧ recvCmd.engine.isSome = true ∧
    (let h := chanOn recvCmd true { valid := true, recv := true }
     let y := (h.moveRun 3 recvCmd false {}).copyTensor { td := (row8 64).inSlot (0x1000 + 64) } { td := row8 64 } (List.range 1) false
     (y.waits && y.fail.isNone) = false ∧ y.fail = none) := by
  unfold Hw.Ready
  decide +kernel
theorem witness_ChannelGrants :
    (∀ granted ∈ [false, true], let h := chanOn {} false { valid := true, granted := granted }
      1 < h.ctxs.length ∧ 2 < (h.ctx 1).chans.length ∧
      ((h.ctx 1).plan.chanEntry 2).map (fun e => (e.recv, e.peer, e.peerChan)) = some (false, 1, 5)) ∧
    (let h := chanOn {} true { valid := true, recv := true }
     (tabled h).slotWrite 1 2 0 (zeros 32) [] 0 96 {} ≠ none ∧
      ((tabled h).setHbm 3 fun b => { b with training := true }).slotWrite 1 2 0 (zeros 32) [] 0 96 {} = none ∧
      ((tabled h).ctx 1).chan 2 = { valid := true, recv := true } ∧ (((tabled h).ctx 1).plan.chanEntry 2).map (·.slots) = some 2) ∧
    (∀ accepted ∈ [false, true], let h := chanOn {} true { valid := true, recv := true, accepted := accepted }
      (h.ctx 1).state ≠ .free ∧ ((h.ctx 1).chan 2).valid = true ∧ ((h.ctx 1).chan 2).recv = true ∧
      ((h.ctx 1).plan.chanEntry 2).map (fun e => (e.recv, e.slots)) = some (true, 2)) := by decide +kernel
/-- A step decided before, one whose flag is set, and a verdict APPLY whose one unit tile 0 of die 0 takes. -/
def updCmd (step : Nat) (sat : Bool) : Cmd :=
  { cmdOf 0x20 [(0x20, 4, step), (0x31, 1, 1), (0x30, 1, 2), (0x32, 2, 0xFFFF)] with
    satisfied := sat, work := .element [0] [], tds := [(4, f32row 0), (0, f32row 4096)] }
def updOn (step : Nat) (sat : Bool) : Hw :=
  let h := mapped (running (updCmd step sat))
  { h with ctxs := h.ctxs.set 1 { state := .active, loss := { decided := 3, pend := true, pendStep := 5 } } }.setTile 0 0 fun t =>
    { t with slots := [(2, { ctx := 1, epoch := 0, image := {} })] }
theorem witness_Update :
    (∀ x ∈ [(2, false), (5, false), (5, true)], (updOn x.1 x.2).Ready 3 4 0x20 (updCmd x.1 x.2)) ∧
    ((updCmd 2 false).upd.step = 2 ∧ ((updOn 2 false).ctx 1).loss.decided = 3) ∧
    ((updCmd 5 false).upd.step = 5 ∧ ((updCmd 5 false).f 0x31 1).testBit 0 = true ∧ ((updOn 5 false).ctx 1).loss.pendStep = 5 ∧
      ((updOn 5 false).ctx 1).loss.pend = true ∧ 1 < (updOn 5 false).ctxs.length) ∧
    ((updCmd 5 true).upd.units = 1 ∧ ((updOn 5 true).updateTiles (updCmd 5 true).upd [0])[0 % ((updOn 5 true).updateTiles (updCmd 5 true).upd [0]).length]?
        = some (0, 0) ∧ ((updOn 5 true).updateOut 3 (updCmd 5 true) 0 0 0 {}).isSome = true ∧
      ∀ y ∈ (updOn 5 true).updateOut 3 (updCmd 5 true) 0 0 0 {}, y.run.Goes) := by
  unfold Hw.Ready Run.Goes
  decide +kernel
/-- R321: a pending flag skips the step and lowers the exponent by one, not below the floor. -/
theorem test_loss_skip : (({ exp := 4, pend := true } : Loss).decide {} 5 true).exp = 3 ∧
    (({ exp := -24 } : Loss).decide {} 5 true).exp = -24 ∧ (({ exp := 4 } : Loss).decide { lsFixed := true } 5 true).exp = 4 := by decide
/-- R321: after LS_INTERVAL clean steps the exponent rises by one. -/
theorem test_loss_clean : (({ exp := 4, clean := 999 } : Loss).decide {} 5 false).exp = 5 ∧
    (({ exp := 4, clean := 998 } : Loss).decide {} 5 false).exp = 4 := by decide

def lossCmd (op : Nat) (fs : List (Nat × Nat × Nat)) : Cmd := cmdOf 0x21 ((0x18, 1, op) :: (0x19, 1, 0x21) :: fs)
/-- Rank 0 among two modules, a member that is not, and one alone. -/
def asModule (c : Cmd) (self : Coord) (alone : Bool) : Hw :=
  let h := colling c
  { h with topo := some { pair with self := self, lens := if alone then (1, 1, 1) else (2, 1, 1), twinSet := !alone, twin := 1 - self } }
theorem witness_LossScale :
    ((tabled (running (lossCmd 0 []))).Ready 3 4 0x21 (lossCmd 0 []) ∧ ((tabled (running (lossCmd 0 []))).lossRun 3 (lossCmd 0 [])).Goes ∧
      ((tabled (running (lossCmd 0 []))).lossRun 3 (lossCmd 0 [])).fail = none) ∧
    (let c := cmdOf 0x22 [(0x21, 1, 2)]
     (tabled (running c)).Ready 3 4 0x22 c ∧ ((tabled (running c)).statsRun 3 c).Goes ∧ ((tabled (running c)).statsRun 3 c).fail = none) ∧
    (∀ e ∈ [false, true], (running (lossCmd 2 [(0x28, 1, 0xF0)]) { expert := e }).Ready 3 4 0x21 (lossCmd 2 [(0x28, 1, 0xF0)])) ∧
    (let h := asModule (lossCmd 1 []) 0 true
     h.Ready 3 4 0x21 (lossCmd 1 []) ∧ (lossCmd 1 []).satisfied = false ∧ agreeRoot h.topology 0x21 (h.collSelf false) = h.collSelf false ∧
      agreeMembers h.topology 0x21 (h.collSelf false) = [h.collSelf false]) ∧
    (let h := (asModule (lossCmd 1 []) 1 false).setLink 0 0 fun k => { k with peer := some 0 }
     h.Ready 3 4 0x21 (lossCmd 1 []) ∧ agreeRoot h.topology 0x21 (h.collSelf false) = 0 ∧ h.collSelf false = 1 ∧
      h.reach false 0 ≠ .gone ∧ h.reach false 0 ≠ .fenced) := by
  unfold Hw.Ready Run.Goes
  decide +kernel

def prefCmd (phase : Phase) (sat : Bool) (st : Nat) : Cmd :=
  { cmdOf 0x04 [(0x19, 1, 1), (0x1A, 2, 9), (0x1C, 4, 5), (0x20, 8, 7), (0x28, 8, 512), (0x18, 1, 2)] with
    phase := phase, satisfied := sat, extra := bytesOf 32 [(0x08, 8, 64)], extraTds := [(16, row8 0), (17, row8 64)]
    work := if phase = .started then .idle else .prefetch [(0, st)] }
def prefOn (c : Cmd) (v : W64) : Hw := { tabled (running c { syncBase := 8, syncCount := 4 }) with objs := [(9, v)] }
/-- A wait met and one not; one whose entries have ended; and an entry that delivers its only group. -/
theorem witness_Prefetch :
    (prefOn (prefCmd .started false 0) 6).Ready 3 4 0x04 (prefCmd .started false 0) ∧
    (prefOn (prefCmd .started false 0) 7).Ready 3 4 0x04 (prefCmd .started false 0) ∧
    (((prefOn (prefCmd .started false 0) 7).ctx 1).plan.ownsObj 9 = true ∧ (prefCmd .started false 0).f 0x1C 4 = 5) ∧
    (let c := prefCmd .blocked true 1
     let h := prefOn c 7
     h.cmd 3 4 = some c ∧ c.opcode = 0x04 ∧ c.prefetchReady = true ∧ h.readsOut c.order = false ∧
     ({ prefOn { c with order := 2 } 7 with accesses := [{ owing 2 with write := false }] } : Hw).readsOut 2 = true ∧ ((((Run.start h 16 1 true false {}).resume c).write (512 + 0x18) (toLe 4 0) false).write
       (512 + 0x1E) (toLe 1 1) false).Goes) ∧
    (let c := prefCmd .blocked true 0
     let h := prefOn c 7
     h.cmd 3 4 = some c ∧ c.prefetchReady = false ∧ c.prog[0]? = some (0, 0) ∧ entryEnded 0 = false ∧ (h.prefAdvance 3 c 0 1 {}).isSome = true ∧ h.prefTurn 3 c 0 {} = true ∧
     ∀ y ∈ h.prefAdvance 3 c 0 1 {}, y.run.fail = none ∧ y.run.Goes ∧ (y.done, y.status) = (1, 1)) ∧
    -- the second entry of a die waits for the first, and one that leads beyond the page table ends the command
    (let c : Cmd := { prefCmd .blocked true 0 with work := .prefetch [(0, 0), (0, 0)], extra := bytesOf 64 [(0x08, 8, 64), (0x28, 8, 64)] }
     let h := prefOn c 7
     h.cmd 3 4 = some c ∧ c.prefetchReady = false ∧ h.prefTurn 3 c 1 {} = false) ∧
    -- no advance while the stacks train
    (let c := prefCmd .blocked true 0
     let h := (prefOn c 7).setHbm 0 fun b => { b with training := true }
     h.cmd 3 4 = some c ∧ c.prefetchReady = false ∧ h.prefTurn 3 c 0 {} = true ∧ (h.prefAdvance 3 c 0 1 {}).isNone = true) ∧
    (let c : Cmd := { prefCmd .blocked true 0 with extraTds := [(16, row8 0), (17, row8 (2 ^ 40))] }
     let h := prefOn c 7
     h.cmd 3 4 = some c ∧ c.prefetchReady = false ∧ c.prog[0]? = some (0, 0) ∧ h.prefTurn 3 c 0 {} = true ∧
     (h.prefAdvance 3 c 0 1 {}).isSome = true ∧ ∀ y ∈ h.prefAdvance 3 c 0 1 {}, (y.run.fail.map (·.1)) = some stTranslation) := by
  unfold Hw.Ready Run.Goes
  decide +kernel

/-! ## Decode -/

def seqCmd (op : Nat) (fs : List (Nat × Nat × Nat)) : Cmd :=
  cmdOf op ([(0x19, 1, 20), (0x1A, 2, 4), (0x1C, 4, 9)] ++ fs)
def seqOn (c : Cmd) (state : SeqState) (holds : List (Nat × W32)) : Hw :=
  { mapped (running c { seqBase := 20, seqCount := 4 }) with
    seqs := (hw0.seqs.set 20 { state := state, length := 5, limit := 9, holds := holds }).set 23 { state := .active, length := 1, limit := 40 } }
/-- A sequence command at its turn, slot 20 as given. -/
def seqTurn (c : Cmd) (state : SeqState) (holds : List (Nat × W32)) : Hw :=
  let h := seqOn {} state holds
  { h with rings := h.rings.set 3 { state := .running, log2 := 6, ctx := 1, head := 5, tailSeen := 5, fetched := [{ c with phase := .fetched }] } }
/-- The slots 20 to 23, the first of them FREE, ACTIVE, DONE or held; a range that leaves the context's; and a command that rewrites records. -/
theorem witness_Sequences :
    (∀ x ∈ [(0x28, 0, SeqState.free, []), (0x28, 0, .active, []), (0x28, 1, .done, []), (0x28, 1, .free, []), (0x28, 2, .active, []),
            (0x28, 3, .active, []), (0x29, 0, .active, []), (0x29, 0, .active, [(3, 4#32)])],
      let c := { seqCmd x.1 [(0x18, 1, x.2.1), (0x28, 4, 9)] with phase := .fetched }
      let h := seqTurn c x.2.2.1 x.2.2.2
      (h.ring 3).fetched = [c] ∧ h.turnOk 3 c = true ∧ c.fail = none ∧ c.waitEn = false ∧ h.headerCheck 3 c = none ∧ (h.ring 3).module = false ∧
      (h.ctx 1).plan.seqBase + (h.ctx 1).plan.seqCount ≤ h.seqs.length ∧ (h.ctx 1).plan.seqBase = 20 ∧ (h.ctx 1).plan.seqCount = 4 ∧
      c.f 0x19 1 = 20 ∧ c.f 0x1A 2 = 4 ∧ (h.seq 20).state = x.2.2.1 ∧ (h.seq 20).holds = x.2.2.2) ∧
    (seqCmd 0x29 [(0x1A, 2, 5)]).f 0x1A 2 = 5 ∧
    (∀ x ∈ [(0x28, 0), (0x28, 1), (0x28, 2), (0x28, 3), (0x29, 0)],
      let c := { seqCmd x.1 [(0x18, 1, x.2)] with work := .seq [20, 23] }
      let h := seqOn c .active []
      h.Ready 3 4 x.1 c ∧ ((h.writeRecords 1 [20, 23]).resume c).Goes ∧ ((h.writeRecords 1 [20, 23]).resume c).fail = none) := by
  unfold Hw.Ready Run.Goes
  decide +kernel
/-- R334: ADVANCE stops at the limit, where the slot is DONE, from the start of the command on. -/
theorem test_advance :
    let h := after (.commandStart 3 {}) (seqTurn (seqCmd 0x28 [(0x18, 1, 2)]) .active [])
    (h.seq 20).length = 9 ∧ (h.seq 20).state = .done ∧ (h.seq 23).length = 10 ∧ (h.seq 23).state = .active ∧
      (h.ring 3).running.map (·.work) = [.seq [20, 23]] := by decide +kernel

/-! ## Capture, fencing and the twin -/

def capCmd (fs : List (Nat × Nat × Nat)) : Cmd := cmdOf 0x30 fs
/-- A sample of die 0 alone, inside its context's part of the scratchpads, at its first unit beyond it, and on a module ring. -/
theorem witness_Capture :
    let c := capCmd [(0x18, 1, 2), (0x1A, 2, 1), (0x1C, 4, 65536)]
    let h := { tabled (running c { spReserve := 1 }) with lim := hw0.lim }
    let g := h.setCtx 1 fun x => { x with spBase := 1 }
    (h.Ready 3 4 0x30 c ∧ (h.ring 3).module = false ∧ (h.ctx (h.ring 3).ctx).captureInside c.captureK1 = false) ∧
    (g.Ready 3 4 0x30 c ∧ (g.ctx (g.ring 3).ctx).captureInside c.captureK1 = true) ∧
    ((runningMod c).Ready 3 4 0x30 c ∧ ((runningMod c).ring 3).module = true ∧ (runningMod c).ks2.capValid = false) := by
  unfold Hw.Ready
  decide +kernel
/-- A capture that stores nothing: neither native records nor samples. -/
theorem witness_Capture_goes :
    let c := capCmd []
    let h := running c
    h.Ready 3 4 0x30 c ∧ (h.ring 3).module = false ∧ (h.ctx 1).captureInside c.captureK1 = true ∧
    (h.captureRun 1 c c.captureDies c.captureNative c.captureK1).1.Goes := by
  unfold Hw.Ready Run.Goes
  decide +kernel

def fenceCmd (op : Nat) : Cmd := cmdOf 0x31 [(0x20, 1, op), (0x18, 8, 256), (0x24, 4, 1)]
/-- Port 0's host holds a token of epoch 2 that names module 7; the key set wants no signature, or one of one. -/
def tokened (c : Cmd) (n m : Nat) (fs : List Fence) : Hw :=
  hosting { runningMod c with flash := { hw0.flash with keys := { n := n, m := m } }, fences := fs } 256
    (bytesOf 64 [(0, 1, 1), (2, 1, 1), (4, 4, 2), (8, 8, 7)])
def fenceOf7 (e : Nat) : Fence := { uid := 7, coord := 1, epoch := BitVec.ofNat 32 e, fenced := true, redirect := none }
/-- No key set; a missing quorum (no signature in the token); an epoch that grows by one and one that does not; a full table of fences.
`ecdsaVerify` is free, so a quorum is shown with a set that asks for none. -/
theorem witness_PeerFence : ∀ op ∈ [0, 1],
    (∀ h ∈ [tokened (fenceCmd op) 0 0 [], tokened (fenceCmd op) 1 1 [], tokened (fenceCmd op) 1 0 [fenceOf7 1], tokened (fenceCmd op) 1 0 [fenceOf7 2],
            tokened (fenceCmd op) 1 0 ((List.range 32).map fun k => { fenceOf7 0 with uid := BitVec.ofNat 64 (100 + k) })],
      h.Ready 3 4 0x31 (fenceCmd op) ∧ (h.host (h.ring 3).port).up = true ∧ (fenceCmd op).f 0x20 1 = b2n (op == 1) ∧
      (h.host (h.ring 3).port).barred 256 tokenBytes = false ∧ ({ fenceCmd op with bytes := bytesOf 64 [(0x18, 8, 2 ^ 57)] } : Cmd).f 0x18 8 = 2 ^ 57 ∧
      (fenceCmd op).f 0x18 8 < 2 ^ 57 ∧ fld (h.hostRead 0 256 tokenBytes) 4 4 = 2 ∧ fld (h.hostRead 0 256 tokenBytes) 8 8 = 7) ∧
    (∀ h ∈ [tokened (fenceCmd op) 1 1 []], h.flash.keys.n ≠ 0 ∧
      validSignatures h.flash.keys (bytesOf 64 []) 2 < h.flash.keys.m) ∧
    (tokened (fenceCmd op) 1 0 [fenceOf7 1]).fenceEpoch 7 = 1 ∧ (tokened (fenceCmd op) 1 0 [fenceOf7 2]).fenceEpoch 7 = 2 := by
  unfold Hw.Ready
  decide +kernel
def oosCmd : Cmd := cmdOf 0x34 [(0x18, 8, 256), (2, 2, 0x80)]
def outOf (n m cause : Nat) : Hw :=
  { tokened oosCmd n m [] with flash := { hw0.flash with keys := { n := n, m := m }, oos := cause != 0, oosCause := cause, oosCount := 3 } }
/-- No key set; in service; cause 2; cause 1 with a token that names another module, where one signature is needed, and none. -/
theorem witness_Reinstate :
    (∀ h ∈ [outOf 0 0 1, outOf 1 1 0, outOf 1 1 2, outOf 1 1 1, outOf 1 0 1],
      h.Ready 3 4 0x34 oosCmd ∧ h.HostOpen (h.ring 3).port 256 tokenBytes ∧ oosCmd.f 0x18 8 < 2 ^ 57 ∧ oosCmd.cplMode = 1) ∧
    fld ((outOf 1 1 1).hostRead 0 256 tokenBytes) 4 4 ≠ (outOf 1 1 1).flash.oosCount % 65536 := by
  unfold Hw.Ready Hw.HostOpen
  decide +kernel

def twinCmd (op : Nat) : Cmd :=
  { cmdOf 0x33 [(0x18, 1, op), (0x1C, 4, 9), (0x20, 8, 4096), (0x28, 8, 4096)] with
    tds := [(0, row8 0), (1, row8 64)], engine := some (.copy 0 0) }
def noTwin (c : Cmd) : Hw := { colling c with topo := none }
/-- The twin's tensor as this module reads it, when it answers. -/
def twinEnv : Env := 
  { remote := (bytesOf 64 [(0, 1, 1), (1, 1, 7), (2, 1, 1), (8, 8, 64), (0x2E, 3, 32)]).zipIdx.map fun x => (2 ^ 18 + 1, 4096 + x.2, x.1) }
theorem witness_Twin :
    (∀ op ∈ [0, 1, 2, 4], (noTwin (twinCmd op)).Engaged 3 4 0x33 (twinCmd op) ∧ (noTwin (twinCmd op)).twin = none ∧ (twinCmd op).f 0x18 1 = op ∧
      (colling (twinCmd op)).Engaged 3 4 0x33 (twinCmd op) ∧ (colling (twinCmd op)).twin = some 1 ∧ 1 < (colling (twinCmd op)).ctxs.length) ∧
    (twinCmd 0).work ≠ .waiting ∧
    ((colling (twinCmd 0)).mirrorRun 3 (twinCmd 0) 1 twinEnv).Goes ∧ ((colling (twinCmd 0)).mirrorRun 3 (twinCmd 0) 1 twinEnv).fail = none ∧
    (let c := { twinCmd 0 with tds := [(0, row8 (2 ^ 40)), (1, row8 64)] }
     (tabled (colling c)).Engaged 3 4 0x33 c ∧ ((tabled (colling c)).mirrorRun 3 c 1 twinEnv).fail ≠ none) ∧
    (∀ l ∈ [[], [owing 2]], let c := { twinCmd 0 with work := .waiting, order := 2 }
      ({ colling c with accesses := l } : Hw).Engaged 3 4 0x33 c ∧ ({ colling c with accesses := l } : Hw).awaits 2 = !l.isEmpty) ∧
    ((colling (twinCmd 1)).pullRun 3 (twinCmd 1) 1 twinEnv).Goes ∧ ((colling (twinCmd 1)).pullRun 3 (twinCmd 1) 1 twinEnv).fail = none ∧
    (let h := { colling (twinCmd 2) with fences := [{ uid := 7, coord := 1, epoch := 1, fenced := true, redirect := some 0 }] }
     (h.fenceOf 1).bind (·.redirect) = some h.self) ∧
    (colling (twinCmd 2)).fenceOf 1 = none := by
  unfold Hw.Engaged Hw.Ready Run.Goes
  decide +kernel
/-! ## Contexts and messages -/

/-- A context that reads its plan: 256 bytes at 65536, JOB_ID 1, objects 0 to 63. -/
def opening (fs : List (Nat × Nat × Nat)) : Hw :=
  let h := hosting hw0 65536 (bytesOf 256 ([(0, 1, 1), (4, 4, 1), (0x22, 2, 64)] ++ fs))
  { h.setCtx 1 fun _ => { busy := some (0, 65536) } with lim := { h.lim with slotValid := true, present := 1 } }
/-- The plan passes; with another version it does not; a FREE context, one already BUSY, and one that is not FREE. -/
theorem witness_ContextsOpen :
    (hw0.dark (ctxOff 15) = false ∧ 15 < hw0.ctxs.length ∧ (hw0.ctx 15).state = .free ∧ (hw0.ctx 15).busy = none ∧
      (opening []).dark (ctxOff 1) = false ∧ ((opening []).ctx 1).busy = some (0, 65536) ∧ ((opening []).host 0).up = true ∧
      hw0.reaches 0 = true ∧ hw0.reaches 1 = true ∧ ((opening []).host 0).barred 65536 65536 = false ∧ ((running {}).ctx 1).state ≠ .free) ∧
    ((opening []).openChecks 1 (fun o k => (opening []).hostRead 0 (65536 + o) k)).toOption.isSome = true ∧
    (∀ x ∈ [[(0, 1, 2)], [(3, 1, 1)], [(0x22, 2, 65)], [(0x20, 2, 8192)]],
      ((opening x).openChecks 1 (fun o k => (opening x).hostRead 0 (65536 + o) k)).toOption.isSome = false) := by decide +kernel
def closeCmd : Cmd := cmdOf 0x35 [(0x18, 1, 1), (0x19, 1, 1)]
def inState (x : CtxState) (module : Bool) : Hw :=
  let h := if module then runningMod closeCmd else running closeCmd
  h.setCtx 1 fun _ => { state := x }
theorem witness_ContextsClose :
    (∀ x ∈ [CtxState.free, .opened, .active, .quiescing, .closing, .faulted], (inState x false).dark (ctxOff 1) = false ∧ (inState x false).reaches 0 = true ∧
      1 < (inState x false).ctxs.length ∧ ((inState x false).ctx 1).owner = 0 ∧ ((inState x false).ctx 1).state = x ∧
      (inState x true).Ready 3 4 0x35 closeCmd ∧ ((inState x true).ring 3).module = true ∧ ((inState x true).ctx 1).epoch.toNat = closeCmd.f 0x1A 1) ∧
    (inState .active false).Ready 3 4 0x35 closeCmd ∧ ((inState .active false).ring 3).ctx = 1 ∧ closeCmd.f 0x18 1 % 16 = 1 ∧
    (inState .active false).ctxRings 1 = [3] ∧ (inState .active true).ctxRings 1 = [] := by
  unfold Hw.Ready
  decide +kernel
def tearing (flush : Bool) (left : List SyncOp) : Hw :=
  { (inState .closing true).setCtx 1 fun x => { x with flush := flush, closers := [(3, 4)] } with
    syncFlight := left, rings := (runningMod closeCmd).rings.set 5 { ctx := 1 } }
def waitingMsg : OutMsg :=
  { dst := 1, src := 0, cls := 0, srcCtx := 1, job := 5, msgId := 3, bound := none, queued := 0, cmd := none, msg := .delivered 0 0 }
theorem witness_ContextsEnd :
    ((inState .quiescing false).ctx 1).state = .quiescing ∧ ((inState .free false).ctx 1).state = .free ∧
    (∀ flush ∈ [false, true], let h := if flush then (tearing flush []).flushFrames 1 else tearing flush []
      ((tearing flush []).ctx 1).state = .closing ∧ (tearing flush []).accessesDone 1 = true ∧ h.tornDown 1 = true ∧
      (h.ring 3).module = true ∧ (h.cmd 3 4).isSome = true) ∧
    (tearing false [{ obj := 9, set := true, value := 0, source := 5 }]).accessesDone 1 = false ∧
    ({ tearing true [] with accesses := [owing 4] } : Hw).accessesDone 1 = false ∧
    (let h : Hw := { tearing false [] with outMsgs := [waitingMsg] }
     h.accessesDone 1 = true ∧ h.tornDown 1 = false) := by decide +kernel

/-- A control frame of module 1, with its CRC. -/
def frameOf (op a0 : Nat) (a1 a2 : Nat) (seq : Nat) : Ctrl :=
  sealCtrl { seq := BitVec.ofNat 16 seq, op := op, src := 1, dst := 0, arg0 := BitVec.ofNat 32 a0, arg1 := BitVec.ofNat 64 a1, arg2 := BitVec.ofNat 64 a2, arg3 := 0, cack := 0, ack := 0 }
def asking : OutMsg :=
  { dst := 1, src := 0, cls := 0, srcCtx := 1, job := 5, msgId := 3, bound := none, queued := 1, cmd := some (3, 4), msg := .delivered 0 0 }
def bindOn : Hw := { colling (cmdOf 0x1B []) with outMsgs := [asking, { asking with notFound := true }] }
/-- A job that a context holds and one that none does; an answer seen before, and a new one; a NACK of each reason. -/
theorem witness_MessagesAreBound :
    (bindOn.jobContext 0 = some 1 ∧ bindOn.jobContext 6 = none) ∧ bindOn.outMsgs[1]? = some { asking with notFound := true } ∧
    (∀ c ∈ [frameOf 0x11 1 0 0 1, frameOf 0x10 0x30001 0 1 1, frameOf 0x10 0x30002 0 1 1, frameOf 0x10 0x30004 0 1 1],
      ((bindOn.link 0 0).carries = true ∧ ctrlCrc c = c.crc ∧ (bindOn.link 0 0).speaks c = true ∧ bindOn.ctrlForMe c = true ∧ ctrlNew (bindOn.link 0 0).ctrlSeen c.seq = true)) ∧
    ctrlNew (some 1) (frameOf 0x11 1 0 0 1).seq = false ∧
    (List.range 16).find? (fun n => (bindOn.ctx n).state != .free && (bindOn.ctx n).plan.jobId == 0) = some 1 ∧
    bindOn.outMsgs.find? (fun o => o.msgId == 3 && bindOn.answers 1 o.dst && !msgIsReply o.msg && (o.sent || o.queued != 0)) = some asking ∧
    asking.bound = none ∧ asking.cmd ≠ none ∧ asking.srcCtx = 1 ∧ bindOn.answers 2 1 = false ∧
    bindOn.cmd 3 4 = some (cmdOf 0x1B []) ∧ (cmdOf 0x1B []).phase ≠ .done ∧ bindOn.accesses = [] ∧ msgLone (.signal 0 true 0) = true := by decide +kernel
/-- A FREE context and an ACTIVE one under another epoch and its own; the last object of its range, and the first beyond. -/
theorem witness_ContextsTakeMessages :
    let h := running {} { syncBase := 8, syncCount := 4 }
    (h.ctx 2).live = false ∧ (h.ctx 1).live = true ∧ (h.ctx 1).epoch = 0 ∧ (h.ctx 1).epoch ≠ 1 ∧ 3 < (h.ctx 1).plan.syncCount ∧
    ¬ 4 < (h.ctx 1).plan.syncCount ∧ 7 < (h.ctx 1).chans.length ∧ 1 < h.ctxs.length := by decide +kernel
/-! ## Memory -/

theorem witness_MemorySetUp :
    (running {}).dark (ctxOff 1) = false ∧ ((running {}).ctx 1).owner = 0 ∧ ((running {}).ctx 1).owner ≠ 1 ∧ 1 < (running {}).ctxs.length ∧
    ((hw0.setCtx 1 fun x => { x with xlatBusy := true }).ctx 1).xlatBusy = true ∧
    hw0.reaches 0 = true ∧ hw0.dark 0x108 = false ∧ hw0.allFree = true ∧ (running {}).allFree = false ∧ hw0.ks.boot ≠ .starting ∧
    (∀ n ∈ [7, 8], let h : Hw := { hw0 with ks := { hw0.ks with boot := .starting, step := n } }
      h.dark 0x108 = false ∧ h.ks.boot = .starting ∧ h.allFree = true ∧ h.ks.step = n) ∧
    (hw0.setHbm 3 fun b => { b with training := true }).training = true := by decide +kernel
def reqAt (bank port group : Nat) (data : Option (List Byte)) : HbmSlot :=
  { requester := .operandPort 0 port, bank := bank, cls := .prefetch, group := group, data := data }
def hbmOn (slots : List HbmSlot) : Hw := hw0.setHbm 0 fun b => { b with slots := slots }
/-- A bank with 15 requests and with 16; a write and a read in the first slot; the last group of the map; a read ahead that demand reaches. -/
theorem witness_HbmRequests :
    (∀ n ∈ [15, 16], let h := hbmOn ((List.range n).map fun k => reqAt 7 k (128 * k) none)
      (h.hbm 0).training = false ∧ (h.hbm 0).fits (reqAt 7 200 0 none) = decide (n < 16) ∧ hw0.homeDie (32 * 0) = 0) ∧
    (∀ data ∈ [some (List.replicate 32 1), none], let h := hbmOn [reqAt 7 3 5 data]
      (h.hbm 0).slots[0]? = some (reqAt 7 3 5 data) ∧ (h.hbm 0).mayIssue 0 = true ∧ (h.hbm 0).training = false ∧ Memory.wf h.mem = true) ∧
    (let q : HbmSlot := { reqAt 7 0 5 none with requester := .gatherEngine 0 1 }
     ((hbmOn [q]).hbm 0).slots = [q] ∧ q.reached (.gatherEngine 0 1) 5 = true ∧ hw0.homeDie (32 * 5) = 0 ∧ hw0.gatherRoom (.gatherEngine 0 1) = true ∧
     (hbmOn (List.replicate 128 q)).gatherRoom (.gatherEngine 0 1) = false ∧ hw0.aheadOk 0 5 = false ∧ (mapped (running copyCmd)).aheadOk 0 2 = true ∧ (mapped (running copyCmd)).aheadOk 0 1 = false ∧
     (∀ x ∈ [q, { q with gone := true }], ((hbmOn [x]).hbm 0).mayIssue 0 = true) ∧
     ∃ d ∈ (hbmOn [q]).dies, ∃ x ∈ d.hbm.slots ++ d.hbm.waiting, x.requester = .gatherEngine 0 1 ∧ x.data = none ∧ x.gone = false ∧ x.num ≤ 0) ∧
    hw0.diesOn = true ∧
    hw0.homeDie (32 * (2 ^ 35 - 1)) = 15 ∧ 16 ≤ (((hbmOn ((List.range 16).map fun k => reqAt 7 k k none)).hbm 0).bank 7).length := by
  decide +kernel
theorem witness_Adders :
    (mapped hw0).ownRange 64 8 = true ∧ bits (64#64).toNat 51 50 = 0 ∧ Memory.wf (mapped hw0).mem = true ∧ adderTakes 2 1 = false ∧ adderTakes 3 6 = true ∧
    (mapped hw0).hbmBusy .bulk 64 = false ∧ ((mapped hw0).setHbm 0 fun b => { b with training := true }).hbmBusy .bulk 64 = true ∧
    (mapped (running (cmdOf 0x0A []))).cmd 3 4 = some (cmdOf 0x0A []) := by decide +kernel
theorem witness_Errors :
    15 < hw0.dies.length ∧ (keySpace (32 * (2 ^ 45 + 2 ^ 41)) = 1 ∧ bits (32 * (2 ^ 45 + 2 ^ 41)) 49 46 = 1) ∧ (hw0.hbm 15).lost = false ∧
    hw0.dies.length = 16 ∧ hw0.flash.oos = false ∧ ((hw0.setHbm 3 fun b => { b with lost := true }).hbm 3).lost = true ∧
    ((hw0.setAux 2 fun a => { a with ueHeld := 7 }).dieAux 2).ueHeld ≠ 0 ∧
    (running {} { syncBase := 8, syncCount := 4 }).objOwner 9 = some 1 ∧ ((running {}).ctx 1).live = true ∧
    hw0.lim.localGib ≤ 32 ∧ stackOf 0 4096 = stackOf 0 4096 := by decide +kernel
/-- R214: addresses 4 KiB apart lie on neighbouring stacks, and 64 KiB further the next stack of the permutation. -/
theorem test_interleave : interleave 0 = 0 ∧ interleave 4096 = 1 ∧ interleave 65536 = 1 ∧ interleave 69632 = 0 := by decide

/-! ## Mortar -/

def flitOn (f : LaneGroup → LaneGroup) : Hw := hw0.setLane 1 1 0 f
def dataFlit (seq : Nat) : Flit := mkFlit (.raw (zeros 28)) 1 seq 63
/-- The header of a packet of class REQ for die 1, the `n`-th of its class at its port. -/
def headOf (n : Nat) : PacketHead := { cls := 1, src := 0, dst := 1, exit := none, order := n, words := 1, poison := [] }
/-- The expected flit, of each kind: a header, and data of a packet that is next in its class or ahead; one changed on the way; the 31st behind, which is a gap, and the 32nd, which is a repeat; a NACK that names the second
flit of the window. -/
theorem witness_Flits :
    ((hw0.lane 1 1 0).disabled = false ∧ (hw0.lane 1 1 0).retraining = false ∧ (hw0.lane 1 1 0).discarding = false) ∧
    ((dataFlit 0).crc = flitCrc (dataFlit 0) ∧ (dataFlit 0).seq = (hw0.lane 1 1 0).expect ∧ (dataFlit 0).kind = 1) ∧
    (∀ n ∈ [0, 1], ∀ kind ∈ [2, 3], let f := mkFlit (.raw (zeros 28)) kind 0 63
      let h := flitOn fun l => { l with rx := some { head := headOf n, data := [] } }
      f.crc = flitCrc f ∧ f.kind = kind ∧ (h.mort 1 1).early = [] ∧ (h.mort 1 1).got.getD (1 % 4) 0 = 0 ∧
      (h.lane 1 1 0).rx = some { head := headOf n, data := [] } ∧ (headOf n).order = n) ∧
    (let f := { dataFlit 0 with seq := 1 }; f.crc ≠ flitCrc f) ∧
    (32 < ((hw0.lane 1 1 0).expect + 64 - (dataFlit 31).seq) % 64 ∧ ¬ 32 < ((hw0.lane 1 1 0).expect + 64 - (dataFlit 32).seq) % 64) ∧
    (∃ x ∈ ((flitOn fun l => { l with window := [dataFlit 4, dataFlit 5] }).lane 1 1 0).window, x.seq = 5) := by decide +kernel
theorem witness_Flits_header :
    let f := mkFlit (.head (headOf 0)) 1 0 63
    f.crc = flitCrc f ∧ f.seq = (hw0.lane 1 1 0).expect ∧ f.kind = 1 ∧ f.payload = .head (headOf 0) :=
  ⟨mkFlit_crc _ _ _ _, by decide +kernel, rfl, rfl⟩
/-- REPLAY_LIMIT replays; a write of LG_RETRAIN; a wire that a spare replaces, one for which none is left, and one where none may be used. -/
theorem witness_LaneGroups :
    (flitOn fun l => { l with replays := List.replicate 16 0 }).replaysTooMany 1 1 0 = true ∧
    (flitOn fun l => { l with replays := List.replicate 15 0 }).replaysTooMany 1 1 0 = false ∧
    hw0.dark (dieOff 1 + 0x40 * 1) = false ∧ (hw0.mort 1 1).lgsel = 0 ∧
    (∀ l ∈ [({ retraining := true } : LaneGroup), { retraining := true, spares := 1 }, { retraining := true, spares := 2 },
            { retraining := true, substDone := true }],
      let h := flitOn fun _ => l
      h.lane 1 1 0 = l ∧ l.disabled = false ∧ (h.mort 1 1).substEn = true ∧ minLanes 1 < (h.mort 1 1).active) ∧
    (let p : Packet := { head := headOf 0, data := zeros 32 }
     let h := flitOn fun l => { l with retraining := true, spares := 2, packets := [p] }
     (h.lane 1 1 0).packets = [p] ∧ (h.lane 1 1 0).window = []) := by decide +kernel
/-! ## Optical links -/

def ctl (op : Nat) (a0 : Nat) (a1 a2 : Nat) : Ctrl := sealCtrl { frameOf op a0 a1 a2 1 with arg3 := 0xFFFF }
/-- Port 0, link 0 as given; a plan that names port 0. -/
def linkOn (f : Link → Link) : Hw := hw0.setLink 0 0 f
def naming (h : Hw) (expert : Bool) (mask : LambdaSet) : Hw :=
  h.setCtx 1 fun x => { x with state := .active, plan := { x.plan with expert := expert, lambda :=
    [{ port := 0, legacy := false, min := 16, max := 18, peer := some 1, mask := mask }] } }
/-- Ports that are named, disabled and enabled; a link in each state that an event acts on; λ that identify one peer, and two, where the
control λ is of the first or of the other. -/
theorem witness_LinksTrainAndDie :
    (∀ p ∈ [0, 47], hw0.dark (portOff p) = false ∧ hw0.portNamed p = false ∧ (hw0.port p).en = true ∧ p < hw0.ports.length ∧
      (hw0.link p 0).valid = true ∧ (hw0.link p 0).state = .dark ∧ (hw0.link p 0).kept = false) ∧
    (naming hw0 false 1).portNamed 0 = true ∧ ((hw0.setPort 0 fun q => { q with en := false }).port 0).en = false ∧
    (∀ st ∈ [LinkState.lost, .training, .up, .paused, .hello], ((linkOn fun k => { k with state := st }).link 0 0).state = st) ∧
    ((linkOn fun k => { k with state := .paused, pauseFor := some 5 }).link 0 0).pauseFor = some 5 ∧
    ((linkOn fun k => { k with state := .lost, deadTimer := true }).link 0 0).deadTimer = true ∧
    ((linkOn fun k => { k with state := .up, rx := 1 }).link 0 0).rx.getLsbD 0 = true ∧
    (∀ x ∈ ([(false, 9, 9, [], false), (false, 9, 8, [1], false), (false, 8, 9, [1], false), (true, 9, 9, [], false), (true, 9, 8, [1], false),
             (true, 8, 9, [0], true), (true, 8, 8, [], false)] : List (Bool × W64 × W64 × List Nat × Bool)),
      let h := linkOn fun k => { k with state := .training, kept := x.1, uid := 9, peerPort := 5, rxCtrl := 0 }
      let k := h.link 0 0
      let ids : List (Nat × W64 × Nat) := [(0, x.2.1, 5), (1, x.2.2.1, 5)]
      let moved := k.kept && !ids.any fun (x : Nat × W64 × Nat) => x.2 == (k.uid, k.peerPort)
      let lead := (ids.find? fun y => y.1 == 0).map (·.2)
      let bad := ids.filter fun y => k.otherPeer moved lead y.2.1 y.2.2 || h.offPlan 0 0 y.2.1
      k.state = .training ∧ k.kept = x.1 ∧ k.heldResync = none ∧ (3#34).getLsbD k.rxCtrl = true ∧ (∀ y ∈ ids, (3#34).getLsbD y.1 = true) ∧
      bad.map (·.1) = x.2.2.2.1 ∧ bad.any (·.1 == 0) = x.2.2.2.2 ∧ (x.2.2.2.2 = false → h.steer 0 0 ((bad.map (·.1)).foldl lambdaDel 3) ≠ 0)) ∧
    (∀ arg ∈ [9, 8], let c := ctl 0x03 0 arg 0
      let k := (linkOn fun k => { k with state := .training, kept := true, uid := 9, heldResync := some c }).link 0 0
      k.kept = true ∧ k.heldResync = some c ∧ k.knows c = decide (arg = 9)) ∧
    (let k := (linkOn fun k => { k with state := .up, rx := 3, rxNext := some (1, 1), rxCtrl := 0 }).link 0 0
     k.rx.getLsbD 1 = true ∧ k.rxNext = some (1, 1) ∧ (1#34).getLsbD 1 = false ∧ (1#34).getLsbD 0 = true) := by
  decide +kernel

/-- A link in each state, and the frames that it takes, and one whose CRC is wrong; the least gap of SEQ that is new, and the first that is
not; a link that a λ waits to leave; a transmitter that a switchover darkens. -/
theorem witness_ControlFrames :
    (∀ st ∈ [LinkState.hello, .up, .paused, .training], ((linkOn fun k => { k with state := st, kept := true, uid := 9 }).link 0 0).carries = true ∧
      ((linkOn fun k => { k with state := st, kept := true, uid := 9 }).link 0 0).state = st ∧
      ctrlNew ((linkOn fun k => { k with state := st }).link 0 0).ctrlSeen 1 = true) ∧
    (ctrlNew (some 1) 2 = true ∧ ctrlNew (some 1) 32768 = true ∧ ctrlNew (some 1) 32769 = false ∧ ctrlNew (some 1) 1 = false) ∧
    (∀ op ∈ [0x01, 0x02, 0x03, 0x04, 0x06, 0x07, 0x08, 0x12], let c := ctl op 1 9 0
      ctrlCrc c = c.crc ∧ (hw0.link 0 0).speaks c = true ∧ c.op = op) ∧
    (let c : Ctrl := { ctl 0x04 0 0 0 with crc := 0 }
     ctrlCrc c ≠ c.crc ∧ c.op = 0x04) ∧
    (∀ x ∈ [(none, false), (some 3, false), (some 3, true)],
      let h : Hw := (linkOn fun k => { k with pausing := some 2, darken := x.1, state := .up }).setComb fun m =>
        { m with switching := if x.2 then some { group := 0, source := 0, spare := 3, dark := true } else none }
      (h.link 0 0).pausing = some 2 ∧ (h.link 0 0).darken = x.1 ∧ (h.link 0 0).pauseAcked = false ∧ h.switchStops 0 = x.2 ∧ h.txDark 0 = x.2) ∧
    ((hw0.link 0 0).agrees (ctl 0x02 2 9 0) = true ∧ (hw0.link 0 0).agrees (ctl 0x02 1 9 0) = false ∧ hw0.uidFenced 9 = false ∧
      ({ hw0 with fences := [fenceOf7 1] } : Hw).uidFenced 7 = true) ∧
    (∀ x ∈ [(5, true), (9, false), (0xFFFFFFFF, false)],
      ((linkOn fun k => { k with state := .hello, named := some 9 }).link 0 0).wrongPeer (ctl 0x02 2 9 x.1) = x.2) ∧
    ((linkOn fun k => { k with state := .training, kept := true, uid := 9, resynced := true }).link 0 0).knows (ctl 0x03 0 9 0) = true ∧
    ((linkOn fun k => { k with state := .training, kept := true, uid := 9, resynced := true }).link 0 0).knows (ctl 0x03 0 8 0) = false ∧
    (bits (ctl 0x03 0 9 0).arg2.toNat 47 32 = (hw0.link 0 0).peerIncarnation.toNat ∧ (ctl 0x03 0 8 0).arg1 ≠ 9 ∧ (hw0.link 0 0).legacy = false) ∧
    (let k := (linkOn fun k => { k with state := .up, ctrlOut := [ctl 0x12 1 0 0], pausing := some 2 }).link 0 0
     (k.ctrlOut.take 8)[0]? = some (ctl 0x12 1 0 0) ∧ k.pausing ≠ none ∧ k.pauseAcked = false ∧ k.noCarrier = false) ∧
    ((linkOn fun k => { k with pausing := some 3 }).link 0 0).pausing = some 3 := by decide +kernel

def rawFrame (seq : Nat) : Frame :=
  let f : Frame :=
    { kind := 1, version := 1, seq := BitVec.ofNat 16 seq, ack := 0, cls := 1, first := true, last := true, bound := false, lset := 0, src := 1
      dst := 0, binding := 0, srcCtx := 1, srcEpoch := 0, msgId := 3, frameIdx := 0, payload := .raw (zeros 32), crc := 0 }
  sealFrame f
/-- Where decoding failed. -/
def failedAt : Except (Option Nat) (Nat × List Nat) → Option (Option Nat)
  | .error e => some e
  | .ok _ => none
def framesOn (f : Link → Link) : Hw := (colling {}).setLink 0 0 f
/-- A frame with and without an error that is corrected, one that cannot be read, and one of another version; a message that begins, one with
no entry, and one for another module. -/
theorem witness_DataFrames_read :
    let k := (framesOn id).link 0 0
    (k.decode (rawFrame 0) []).toOption = some (0, []) ∧ (k.decode (rawFrame 0) [(1, [30, 70])]).toOption = some (1, []) ∧
      failedAt (k.decode (rawFrame 0) [(1, [30, 70, 90, 110])]) = some (some 0) ∧ failedAt (k.decode { rawFrame 0 with lset := 2 } []) = some none ∧
      (rawFrame 0).version = k.version ∧ frameShape k.maxLen (rawFrame 0) = true ∧ (sealFrame { rawFrame 0 with version := 0x81 }).version ≠ k.version ∧
      frameShape k.maxLen (sealFrame { rawFrame 0 with cls := 4 }) = false ∧ frameShape k.maxLen { rawFrame 0 with kind := 2 } = true ∧
      (framesOn id).forMe (rawFrame 0) = true ∧ (framesOn id).forMe { rawFrame 0 with dst := 1 } = false ∧
      (∀ last ∈ [false, true], (k.entry { rawFrame 0 with last := last } []).isSome = true) ∧
      k.entry { rawFrame 0 with first := false } [] = none := by decide +kernel
/-- The frame expected; the nearest and farthest gaps and repeats; a queue with a frame, and an empty one; 16 NACKs
that name a λ, and 15, and 16 that name the control λ; an incomplete message; a frame in transit with a next hop and without, and one too
long for it. -/
theorem witness_DataFrames :
    (frameCrcOk (rawFrame 0) = true ∧ frameCrcOk { rawFrame 0 with seq := 1 } = false ∧
      (rawFrame 0).seq = ((framesOn id).link 0 0).expect ∧ ((framesOn id).link 0 0).state = .up ∧ ((framesOn id).link 0 0).discarding = false) ∧
    (32768 < (((framesOn id).link 0 0).expect - (rawFrame 32767).seq).toNat ∧
      (((framesOn id).link 0 0).expect - (rawFrame 32768).seq).toNat ≤ 32768) ∧
    (let h := framesOn fun k => { k with queue := [rawFrame 0], credits := 1 }
     (h.loopback.link 0 0).sends = true ∧ (h.loopback.load 0 0).sendWaits 0 0 = false ∧
      ((h.loopback.load 0 0).link 0 0).pick = some (0, rawFrame 0)) ∧
    ((((framesOn id).loopback.load 0 0).link 0 0).pick = none ∧ ((framesOn id).loopback.link 0 0).sends = true) ∧
    (∀ n ∈ [14, 15], let k := (framesOn fun k => { k with nacks := List.replicate n (5, 0), tx := 0x3F, ctrl := 0 }).link 0 0
      k.carries = true ∧ ctrlNew k.ctrlSeen 1 = true ∧ k.tx.getLsbD 5 = true ∧ k.state = .up ∧ k.legacy = false ∧ k.ctrl ≠ 5 ∧
      (((k.nacks.filter fun (x : Nat × Nat) => decide ((framesOn id).now < x.2 + 1000000)) ++ [(5, 0)]).filter fun (x : Nat × Nat) => x.1 == 5).length = n + 1) ∧
    (let k := (framesOn fun k => { k with nacks := List.replicate 15 (0, 0), tx := 0x3F, ctrl := 0 }).link 0 0
     k.tx.getLsbD 0 = true ∧ k.ctrl = 0 ∧ k.pausing = none ∧ k.dropping = 0 ∧ k.free = true ∧ k.unacked = none ∧ (framesOn id).txDark 0 = false) ∧
    (let c := ctl 0x05 (5 * 65536) 0 0
     ctrlCrc c = c.crc ∧ ((framesOn id).link 0 0).speaks c = true ∧ c.op = 0x05) ∧
    0 < ((framesOn fun k => { k with reasm := [{ src := 1, ctx := 1, msgId := 3, frames := 1 }] }).link 0 0).reasm.length ∧
    (let h : Hw := { framesOn id with transit := [{ fport := 4, frame := { rawFrame 0 with dst := 1 } }] }
     h.transit[0]? = some { fport := 4, frame := { rawFrame 0 with dst := 1 } } ∧ portDie 4 < h.dies.length ∧ h.hopReach (h.redirect 1) = .up) ∧
    (framesOn fun k => { k with state := .dark, peer := none }).hopReach 2 = .gone ∧
    (let h := framesOn id
     h.chooseHop 0 1 1 1 3 = some (0, 0) ∧ h.topo = some pair ∧ (h.redirect 1) = 1 ∧ h.flowHeld 0 0 1 (frameFlow { rawFrame 0 with dst := 1 }) = false ∧ 2 ≤ (h.link 0 0).slots 1 ∧
      payloadLen (rawFrame 0).payload ≤ (h.link 0 0).maxLen) ∧
    ((framesOn fun k => { k with legacy := true }).link 0 0).maxLen < payloadLen (.raw (zeros 2048)) := by
  decide +kernel

def lamCmd (mask : Nat) : Cmd := cmdOf 0x32 [(0x18, 1, 0), (0x1C, 4, 1), (0x20, 8, mask)]
def lamOn (c : Cmd) (expert : Bool) (f : Link → Link) : Hw := (naming (colling c) expert 0x30000FFFF).setLink 0 0 f
/-- LAMBDA_SET refused, with nothing to do, and with a λ to drop; a link that adds, refuses and lets go; an answer that fits its change; a link
that borrows from the pool, and one that borrows from another; one that gives back. -/
theorem witness_LambdaChanges :
    ((lamOn (lamCmd 0xFFFF) false id).Ready 3 4 0x32 (lamCmd 0xFFFF) ∧ (lamOn (lamCmd 0xFFFF) false id).lambdaReason 1 (lamCmd 0xFFFF) = some 0x0105 ∧
      (lamCmd 0xFFFF).work = .idle) ∧
    (∀ m ∈ [0xFFFF, 0x10000FFFE], (lamOn (lamCmd m) true id).Ready 3 4 0x32 (lamCmd m) ∧ (lamOn (lamCmd m) true id).lambdaReason 1 (lamCmd m) = none ∧
      (lamOn (lamCmd m) true id).linkOf 0 1 = some 0 ∧ ((lamOn (lamCmd m) true id).link 0 0).change = none) ∧
    (((lamOn {} true id).link 0 0).tx = (lamCmd 0xFFFF).lambdaMask ∧
      (lambdas (((lamOn {} true id).link 0 0).tx &&& ~~~(lamCmd 0x10000FFFE).lambdaMask)).head? = some 0) ∧
    (∀ x ∈ [(false, 0x09), (false, 0x0B), (true, 0x09)], let c := ctl x.2 (16 + 256) 0 0
      let h := lamOn {} true fun k => { k with legacy := x.1 }
      ctrlCrc c = c.crc ∧ (x.1 = false → (h.link 0 0).speaks c = true) ∧ c.op = x.2 ∧ (h.link 0 0).legacy = x.1 ∧
      ctrlNew (h.link 0 0).ctrlSeen c.seq = true ∧ (h.link 0 0).state = .up ∧ (h.rxOthers 0 0).getLsbD (ctrlLambda c) = false ∧
      lambdaCount (h.rxOthers 0 0) + lambdaCount (lambdaIns (h.link 0 0).rxLast (ctrlLambda c)) ≤ 32) ∧
    (let c := sealCtrl { ctl 0x09 (16 + 256) 0 0 with version := 0x81 }
     ctrlCrc c = c.crc ∧ ({ (lamOn {} true id).link 0 0 with legacy := true } : Link).speaks c = true) ∧
    (let ch : Change := { add := true, lambda := 5, lset := 1, switchSeq := 16 }
     let k := (lamOn {} true fun k => { k with change := some ch }).link 0 0
     k.carries = true ∧ k.state = .up ∧ k.change = some ch ∧ k.answered true (ctl 0x0A (5 + 256) 0 0) = some ch ∧
     k.answered true (ctl 0x0D (5 + 256) 0 0) = some ch ∧ (ctl 0x0D (5 + 256) 0 0).op = 0x0D ∧
     ((lamOn {} true id).link 0 0).change = none ∧ ((lamOn {} true fun k => { k with state := .paused }).link 0 0).state ≠ .up) ∧
    (let full : Link → Link := fun k => { k with queue := List.replicate 64 (rawFrame 0), min := 16, max := 18 }
     let h := lamOn {} false full
     let a := (h.setLink 0 0 fun k => { k with mask := 0x1FFFF }).setLink 1 0 fun k => { k with tx := 0xFFFE0000 }
     let b := ((h.setLink 0 0 fun k => { k with mask := 0x3FFFF }).setLink 1 0 fun k =>
       { k with state := .up, valid := true, tx := 0x30001, ctrl := 0, min := 1, peer := some 2 }).setCtx 1 fun x => { x with plan := { x.plan with lambda :=
         x.plan.lambda ++ [{ port := 1, legacy := false, min := 1, max := 18, peer := some 2, mask := 0x30001 }] } }
     a.borrows 0 0 = true ∧ a.poolLambda 0 0 = some 16 ∧ b.borrows 0 0 = true ∧ b.poolLambda 0 0 = none ∧ b.lender 0 0 = some ((1, 0), 16)) ∧
    (let h := lamOn {} false fun k => { k with tx := 0x1FFFF }
     (h.link 0 0).free = true ∧ h.basicNames 0 0 = true ∧ h.backlog 0 0 < 8 ∧ (h.link 0 0).min < (h.link 0 0).count ∧
     (h.link 0 0).highest = some 16) := by
  unfold Hw.Ready
  decide +kernel
/-- A λ that the engine's other link has, and one too many for its 32 receivers; an acknowledgement that comes after its limit; a link that
needs no further change. -/
theorem witness_LambdaChanges_limits :
    (let h := (lamOn {} true fun k => { k with rx := 0xFFFF }).setLink 1 0 fun k => { k with rx := 0xFFFF0000 }
     (h.rxOthers 0 0).getLsbD 16 = true ∧ (h.rxOthers 0 0).getLsbD 32 = false ∧
      32 < lambdaCount (h.rxOthers 0 0) + lambdaCount (lambdaIns (h.link 0 0).rxLast 32)) ∧
    (let x : Change := { add := false, lambda := 5, lset := 1, switchSeq := 16 }
     let k := (lamOn {} true fun k => { k with unacked := some x, tx := 0xFFDF }).link 0 0
     k.unacked = some x ∧ k.answered false (ctl 0x0C (5 + 256) 0 0) = none ∧ k.speaks (ctl 0x0C (5 + 256) 0 0) = true ∧
      ctrlLambda (ctl 0x0C (5 + 256) 0 0) = 5) ∧
    (let h := lamOn {} true fun k => { k with tx := 0xFFFF, min := 16, max := 32 }
     let k := h.link 0 0
     k.dropping = 0 ∧ lambdaCount k.tx ≤ k.max ∧ (∀ i ∈ [32, 33], k.tx.getLsbD i = false) ∧ (h.dropChange 0 0).inUse 0 ≤ (h.oe 0).cap ∧
      ((lamOn (lamCmd 0xFFFF) true id).link 0 0).unacked = none) := by
  decide +kernel
/-! ## Combs -/

def combOn (m : Comb) : Hw := { hw0 with comb := m }
def sw0 : Switch := { group := 0, source := 0, spare := 3 }
/-- Seven engines at −1.000 dB and one at −0.999 put the group's median at the limit; a spare that is dark, lit and READY; a forced switchover
that takes the spare from another group; a switchover in each of its steps; a retest whose lowest line lies just above −1.00 dB and at it. -/
theorem witness_Combs :
    (median2 [-1000, -1000, -1000, -1000, -1000, -1000, -1000, -999] ≤ -2000 ∧ hw0.oes.length = 24 ∧ hw0.comb.watch.length = 3 ∧
      hw0.ks.boot ≠ .starting ∧ hw0.ks.boot ≠ .recovery ∧ hw0.flash.oos = false ∧ hw0.comb.switching = none) ∧
    (({} : Comb).wantSwitch.idxOf? true = none ∧ ([false, true, false] : List Bool).idxOf? true = some 1 ∧ ({} : Comb).spare = some 3 ∧
      ((combOn { spareLit := true, wantSwitch := [true, false, false] }).setLink 0 0 fun k => { k with state := .up }).comb.wantSwitch.idxOf? true = some 0 ∧
      (((combOn {}).setLink 0 0 fun k => { k with state := .up }).link 0 0).pauses = true ∧ (0, 0) ∈ groupLinks 0 ∧
      (combOn { wantSwitch := [true, false, false] }).comb.spareReady = false) ∧
    (hw0.dark 0x124 = false ∧ (∀ w ∈ ({} : Comb).wantSwitch, w = false) ∧ ({} : Comb).wantSwitch.length = 3 ∧ 3 ≤ 7 % 4) ∧
    (let h := (combOn { switching := some sw0, spareLit := true, spareReady := true }).setLink 0 0 fun k => { k with state := .up, pausing := some 1, pauseAcked := true }
     ∀ x ∈ groupLinks sw0.group, ∀ n, (h.link x.1 x.2).pausing = some n → (h.link x.1 x.2).state = .up → n = 4 ∨
       ((h.link x.1 x.2).pauseAcked = true ∧ (h.link x.1 x.2).replay = [])) ∧
    ((combOn { switching := some { sw0 with dark := true } }).comb.switching = some { sw0 with dark := true } ∧ sw0.group < 3 ∧
      (((combOn {}).setLink 0 0 fun k => { k with state := .up }).link 0 0).state = .up) ∧
    ((combOn { retest := some 0 }).comb.retest = some 0 ∧ (∀ j, j < 34 → -100 < (List.replicate 34 (-99 : Int)).getD j 0) ∧
      ∃ j, j < 34 ∧ ((List.replicate 33 (-99 : Int)) ++ [-100]).getD j 0 ≤ -100) := by
  refine ⟨by decide +kernel, by decide +kernel, by decide +kernel, ?_, by decide +kernel, by decide +kernel⟩
  intro h x hx n hn hs
  by_cases e : x = (0, 0)
  · subst e; exact .inr (by decide +kernel)
  · exfalso
    have : ∀ x ∈ groupLinks sw0.group, x ≠ (0, 0) → (h.link x.1 x.2).pausing = none := by decide +kernel
    rw [this x hx e] at hn
    cases hn

/-! ## Recovery, start-up and firmware -/

/-- An EXPERT context, which lets every domain be reset. -/
def expertOn : Hw := running {} { expert := true }
theorem witness_ResetsStart :
    (∀ h ∈ [expertOn, running {}], h.ks2.powered = true ∧ h.dark 0x204 = false ∧ h.reaches 0 = true ∧ h.reaches 1 = true ∧ h.ks.boot ≠ .recovery ∧ h.ks.recovery = [] ∧
      h.dies.length = 16 ∧ 255 < h.tiles.length ∧ h.rings.length = 128) ∧
    expertOn.expertLevel = true ∧ (running {}).expertLevel = false ∧ expertOn.allFree = false ∧ hw0.allFree = true ∧
    (runningMod {}).ringBound 0 = true ∧ (hw0.ks2.capAuto && hw0.ks2.capValid) = false ∧
    ({ hw0 with ks := { hw0.ks with recovery := [{ domain := .module, cause := 0, counted := false }] } } : Hw).ks.recovery ≠ [] := by
  decide +kernel
def recovering (c : Nat) : Hw :=
  { hw0 with ks := { hw0.ks with recovery := [{ domain := .tile 1 2, cause := 3, counted := false, oosCause := c }] } }
theorem witness_RecoveriesEnd :
    (let h := { running copyCmd with aux := hw0.aux.set 0 { holders := [(0, (3, 4))] } }
     h.engineBusy (.copy 0 0) = true ∧ h.lim.hangMs ≤ 100 ∧ ¬ h.lim.hangMs ≤ 99 ∧ hw0.engineBusy (.copy 0 0) = false) ∧
    (∀ c ∈ [0, 1], ((recovering c).ks.recovery.find? (recovering c).canReturn).map (·.oosCause) = some c ∧ (recovering c).flash.oos = false ∧
      ∀ d ∈ (Domain.tile 1 2).dieList, ∀ p, p < 6 → (((recovering c).trained []).mort d p).failed = false) ∧
    (hw0.dark (dieOff 15 + 0x704) = false ∧ (hw0.die 15).retiredTiles.testBit 5 = false ∧
      ((hw0.setDie 15 fun d => { d with retiredTiles := 32 }).die 15).retiredTiles.testBit 5 = true) ∧
    ((∀ f ∈ [StepReport.stackLost 3], f ≠ .footingFault) ∧ ∃ f ∈ [StepReport.footingFault], f = .footingFault) ∧
    (hw0.flash.noStandby = false ∧ hw0.ks.leader = 0 ∧ 5 ≤ hw0.ks.step ∧ hw0.ks.boot ≠ .recovery ∧ hw0.ks2.missed + 1 < 10 ∧
      10 ≤ ({ hw0.ks2 with missed := 9 } : Keystone2).missed + 1 ∧ ¬ 10 ≤ ({ hw0.ks2 with missed := 8 } : Keystone2).missed + 1) := by
  decide +kernel
def atStep (n : Nat) : Hw := { hw0 with ks := { hw0.ks with boot := .starting, step := n } }
/-- A set of rows on a tile with more than its spares. -/
def overfullAt8 : Hw :=
  { atStep 8 with flash := { hw0.flash with rows := [(2, 3, 0), (2, 3, 1), (2, 3, 2)] } }
theorem witness_StartUp_overfull :
    overfullAt8.overfull = [(2, 3, 0)] ∧ overfullAt8.nextStep = some 9 ∧ (overfullAt8.die 2).retiredTiles.testBit 3 = false := by
  refine ⟨?_, by decide +kernel, by decide +kernel⟩
  have e : decide (2 < 3 + Config.fuseRows 2 3 0) = true := by simp; omega
  simp [Hw.overfull, overfullAt8, atStep, e]
/-- Without 50 V; before each step; the last moment at which KS1 may lead. -/
theorem witness_StartUp :
    ({ hw0 with ks2 := { hw0.ks2 with powered := false } } : Hw).ks2.powered = false ∧ hw0.ks2.powered = true ∧
    (∀ n, n < 12 → (atStep n).nextStep = some (n + 1)) ∧ (atStep 6).ks2.calibrated = true ∧ (atStep 2).ks.step < 3 ∧ ¬ (atStep 3).ks.step < 3 ∧
    (atStep 6).flash.oos = false ∧ hw0.overfull = [] ∧ hw0.ks.boot = .ready ∧ hw0.hosts.length = 2 := by decide +kernel
def busyWith (b : Option FwBusy) : Hw := { hw0 with ks := { hw0.ks with fwBusy := b } }
/-- No command, and one of each kind; on trial; a token block that cannot be read, and a key block. -/
theorem witness_Firmware :
    hw0.dark 0x10 = false ∧ hw0.dark 0x28 = false ∧ hw0.dark 0x60 = false ∧ hw0.ks.boot ≠ .recovery ∧ hw0.ks.fwBusy = none ∧
    hw0.onTrial = false ∧ hw0.ks.fwAddr.toNat < 2 ^ 57 ∧ hw0.running = some 0 ∧ hw0.reaches 0 = true ∧ (hw0.host 0).barred 0 (4096 + 2 ^ 32) = false ∧
    (hw0.setHost 0 fun q => { q with d3 := true }).reaches 0 = false ∧
    (∀ b ∈ [FwBusy.activate, .confirm, .commit, .stage {} 7], (busyWith (some b)).ks.fwBusy = some b) ∧
    ({ hw0 with ks := { hw0.ks with unconfirmed := true } } : Hw).onTrial = true ∧
    ({ hw0.ks with keyBusy := some {} } : Keystone).keyBusy = some {} := by decide +kernel

/-! ## Host ports, attestation, power and heat -/

theorem witness_HostPorts :
    1 < hw0.hosts.length ∧ (hw0.host 1).up = true ∧ (hw0.host 1).perst = false ∧ hw0.reaches 1 = true ∧ hw0.bridgesOn = true ∧ (hw0.host 1).clock = true ∧
    linkKindOk 6 8 true = true ∧ linkKindOk 6 8 false = false ∧ (hw0.setHost 1 fun q => { q with d3 := true }).reaches 1 = false ∧ hw0.dark (0x20008 + 0x1000 * 1) = false ∧
    (let h := hw0.setHost 1 fun q => { q with up := false, perst := true }
     (h.host 1).up = false ∧ (h.host 1).perst = true ∧ (h.host 1).lost = false ∧ (h.host 1).lossMs ≤ 100 ∧ ¬ (h.host 1).lossMs ≤ 99) ∧
    (let h := (hw0.setHost 1 fun q => { q with up := false, lost := true }).setCtx 3 fun _ => { state := .faulted, orphan := true }
     (h.host 1).up = false ∧ (h.host 1).perst = false ∧ (h.host 1).lost = true ∧ (h.ctx 3).orphan = true ∧ (h.ctx 3).state ≠ .free) ∧
    (running {}).host 0 = hw0.host 0 ∧ ((running {}).ctx 1).state.live = true ∧ ((running {}).ctx 1).owner = 0 ∧
    ((running {}).host 1).lost = false ∧ ((running {}).host 1).failover = true := by decide +kernel
/-- The last bytes of the aperture, and those just beyond; before READY and at it. -/
theorem witness_Bar2 :
    hw0.bar2Takes 0 (2 ^ 36 - 64) 64 = true ∧ hw0.bar2Open = true ∧ (atStep 8).bar2Open = false ∧ Memory.wf hw0.mem = true ∧
    hw0.bar2Takes 0 (2 ^ 36 - 63) 64 = false ∧ hw0.bar2Waits 0 = false ∧
    (hw0.setHbm 3 fun b => { b with training := true }).bar2Waits 0 = true ∧
    (hw0.bridgesOn = true ∧ (hw0.host 0).perst = false ∧ (hw0.host 0).up = true ∧ (hw0.host 0).configured = true) ∧
    (let h := { hw0 with now := 200000000 }.setHost 0 fun q => { q with configured := false }
     (h.host 0).configured = false ∧ (h.host 0).configFrom + 200000000 ≤ h.now) := by decide +kernel
def spdmOn (x : Spdm) : Hw := hw0.setHost 0 fun q => { q with spdm := x, ide := q.ide.set 3 { secure := true } }
/-- A connection before and after each request it may make. -/
theorem witness_Mailbox :
    hw0.mailbox 0 = true ∧ (hw0.host 0).up = true ∧ (hw0.host 0).configured = true ∧
    (∀ x ∈ [({} : Spdm), { version := true }, { version := true, caps := true }, { version := true, caps := true, algs := true },
            { version := true, caps := true, algs := true, exchanging := true }, { version := true, caps := true, algs := true, session := true }],
      (spdmOn x).mailbox 0 = true ∧ ((spdmOn x).host 0).spdm = x ∧ x.settled = x.algs) ∧
    3 < ((spdmOn {}).host 0).ide.length ∧ (((spdmOn {}).host 0).ide.getD 3 {}).secure = true ∧
    8176 < (zeros 8177).length ∧ (zeros 8176).length ≤ 8176 := by decide +kernel
/-- A dword of configuration space that was written. -/
theorem witness_ConfigWritten :
    let reg := Config.serialNumber + 16
    (({ ({} : HostPort) with config := [(reg, 5)] }).config.find? (·.1 == reg)) = some (reg, 5) ∧ reg ≠ 0 ∧ reg ≠ 8 ∧
      reg ≠ Config.serialNumber ∧ reg ≠ Config.serialNumber + 4 := by
  refine ⟨by simp, ?_, ?_, ?_, ?_⟩ <;> simp
/-- The edges of the set points and of the input; a tile that steps, warms and cools. -/
theorem witness_Clocks :
    15 < hw0.aux.length ∧ hw0.dark (dieOff 15 + 0x800) = false ∧
    ((bits (0x1004#32).toNat 4 0 = 4 ∧ bits (0x1004#32).toNat 12 8 = 16) ∧ bits (0x1003#32).toNat 4 0 = 3 ∧ bits (0x1104#32).toNat 12 8 = 17) ∧
    hw0.dark 0x300 = false ∧ hw0.allFree = true ∧ (running {}).allFree = false ∧
    (settable (.tile 15 3) = true ∧ islandDie (.tile 15 3) = some 15 ∧ hw0.droops (.tile 15 3) = false ∧ hw0.tiles.length = 256 ∧
      Island.tile 15 3 ∉ hw0.ks2.stopped ∧ ∀ n, Island.tile 15 3 = .tile 15 n → 15 < 16 ∧ n < 16) ∧
    (let h := (hw0.setTile 15 3 fun t => { t with level := 1 }).setAux 15 fun a => { a with temps := [(.tile 15 3, 1030)] }
     (h.temps (.tile 15 3)).find? (·.1 == .tile 15 3) = some (.tile 15 3, 1030) ∧ h.islandLevel (.tile 15 3) = 1 ∧
      1030 + 20 ≤ 1000 + 50 * h.islandLevel (.tile 15 3)) ∧
    hw0.diesOn = true ∧ (∀ i ∈ [Island.tile 15 3, .optical 2], hw0.islandOn i = true ∧ i ∉ hw0.ks2.stopped) ∧ islandDie (.optical 2) = none ∧
    (atStep 3).islandOn (.tile 15 3) = false ∧
    (let h := { hw0 with ks2 := { hw0.ks2 with stopped := [.optical 2], temps := [(.optical 2, 999)] } }
     ∀ j ∈ h.ks2.stopped, islandPlace j = islandPlace (.optical 2) → ∃ x ∈ h.temps (.optical 2), x.1 = j) ∧
    (∀ x ∈ hw0.temps (.tile 15 3), islandPlace x.1 = islandPlace (.tile 15 3) → x.2 < 1000) ∧
    (∀ n, hw0.ks2.hotAt = some n → n + 60000000000 ≤ hw0.now) := by
  refine ⟨by decide +kernel, by decide +kernel, by decide +kernel, by decide +kernel, by decide +kernel, by decide +kernel,
    ⟨by decide +kernel, by decide +kernel, by decide +kernel, by decide +kernel, by decide +kernel, ?_⟩, by decide +kernel, by decide +kernel, by decide +kernel, by decide +kernel, by decide +kernel,
    by decide +kernel, by decide +kernel, ?_⟩
  · rintro n h; cases h; omega
  · intro n h; cases h

/-! ## Rules stated whole -/

/-- OK and POISON on a ring of a context and a module ring, with a slot for the record and behind one that waits. -/
theorem witness_OkAlone :
    (∀ st ∈ [0, 0x10], let h := completing st 0x80
      h.cmd 3 4 = some (doneCmd st 0x80) ∧ (doneCmd st 0x80).phase = .done ∧ (doneCmd st 0x80).cplMode = 1 ∧ (h.ring 3).records = [] ∧
      (h.ring 3).module = false ∧ h.canRecord false (h.ring 3).cpl = true ∧ (doneCmd st 0x80).work = .idle ∧ h.awaits (doneCmd st 0x80).order = false) ∧
    (let h := { runningMod (doneCmd 0x10 0x80) with evts := hw0.evts.set 0 { en := true } }
     (h.ring 3).module = true ∧ (h.ring 3).state = .running ∧ h.canRecord true (h.ring 3).port = true ∧ (runningMod {}).canRecord true 0 = false) ∧
    (((completing 0x10 0x80).setRing 3 fun w => { w with records := [⟨zeros 32, 0⟩] }).ring 3).records ≠ [] := by decide +kernel
theorem witness_ResetLevel :
    expertOn.dark 0x204 = false ∧ expertOn.reaches 0 = true ∧ expertOn.ks2.powered = true ∧ expertOn.ks.boot ≠ .recovery ∧ expertOn.ks.recovery = [] := by decide +kernel
theorem witness_WithoutPower :
    ({ hw0 with ks2 := { hw0.ks2 with powered := false } } : Hw).ks2.powered = false ∧ unpowered (.nop 0 0) = false ∧
    unpowered (.supplyHigh 6000) = false ∧ unpowered .powerGood = true ∧ (atStep 8).diesOn = false ∧ (atStep 9).diesOn = true ∧
    ofDies (.droopStep (.tile 0 0)) = true ∧ ofDies (.nop 0 0) = false := by decide +kernel
/-- The words before step 9 and from it on, and the targets before and after 100 ms of power. -/
theorem witness_Smbus :
    (atStep 8).ks.step < 9 ∧ 9 ≤ (atStep 9).ks.step ∧ hw0.ks2.smbusAt ≤ hw0.now ∧ hw0.aux.all (fun a => decide (a.hottest.1 ≤ 0)) = true ∧
    ({ hw0 with ks2 := { hw0.ks2 with smbusAt := 100000000 } } : Hw).now < 100000000 := by decide +kernel

end Sys2Proof.Tests
end

section
/-! SUPPORT. Legal states: what `Hw.Legal` speaks of, and the updates of the parts that keep it. -/

namespace Sys2Proof.Machine

/-! ## What a legal state depends on -/

/-- How many parts of each kind the module has. -/
def Hw.sizes (h : Hw) : List Nat :=
  [h.rings.length, h.cpls.length, h.evts.length, h.ctxs.length, h.seqs.length, h.dies.length, h.aux.length, h.tiles.length, h.ports.length,
   h.oes.length, h.hosts.length]

/-- All that `Hw.Legal` speaks of. -/
def Hw.kept (h : Hw) : List Nat × Limits × List Host.Cell × List HostPort × List Nat := (h.sizes, h.lim, h.mem, h.hosts, h.poison)

theorem Hw.parts_iff (h : Hw) : h.Parts ↔ h.sizes = [128, 16, 2, 16, 256, 16, 16, 256, 48, 24, 2] := by
  simp only [Hw.sizes, List.cons.injEq, and_true]
  constructor
  · rintro ⟨⟩
    simp only [*, and_self]
  · rintro ⟨h1, h2, h3, h4, h5, h6, h7, h8, h9, h10, h11⟩
    exact ⟨h1, h2, h3, h4, h5, h6, h7, h8, h9, h10, h11⟩

/-- A state with as many parts as a legal one is legal if its limits, memories and poisoned groups are. -/
theorem Hw.Legal.of_sizes {a b : Hw} (ok : a.Legal) (n : b.sizes = a.sizes) (lim : b.lim.Legal) (mem : Memory.wf b.mem = true)
    (hosts : ∀ q ∈ b.hosts, Memory.wf q.mem = true) (poison : b.poison.Pairwise (· < ·)) : b.Legal :=
  ⟨lim, (Hw.parts_iff b).2 (n.trans ((Hw.parts_iff a).1 ok.parts)), mem, hosts, poison⟩

/-- A state that agrees with a legal one in all of it is legal. -/
theorem Hw.Legal.of_kept {a b : Hw} (ok : a.Legal) (e : b.kept = a.kept) : b.Legal := by
  simp only [Hw.kept, Prod.mk.injEq] at e
  obtain ⟨n, lim, mem, hosts, poison⟩ := e
  exact ok.of_sizes n (lim ▸ ok.lim) (mem ▸ ok.mem) (hosts ▸ ok.hostMem) (poison ▸ ok.poison)

/-! ## Choices and folds -/

/-- What an optional answer holds has a property. -/
def Gives {α : Type} (P : α → Prop) (o : Option α) : Prop := ∀ ⦃x⦄, o = some x → P x

section
variable {α β : Type} {P : α → Prop} {Q : β → Prop} {c : Prop} [Decidable c]

theorem Gives.none : Gives P none := nofun
theorem Gives.some {x : α} (k : P x) : Gives P (some x) := fun _ e => Option.some.inj e ▸ k
theorem Gives.ite {a b : Option α} (k : Gives P a) (l : Gives P b) : Gives P (if c then a else b) := by split <;> assumption
theorem Gives.map {f : β → α} {o : Option β} (k : ∀ x, P (f x)) : Gives P (o.map f) := by
  cases o with
  | none => exact .none
  | some x => exact .some (k x)

end

section
variable {h g : Hw} {c : Prop} [Decidable c] {α : Type}

theorem Hw.Legal.ite (ok : h.Legal) (ok2 : g.Legal) : (if c then h else g).Legal := by split <;> assumption

/-- A legal state that is used more than once. -/
theorem Hw.Legal.after {p : Prop} (ok : p) (k : p → h.Legal) : h.Legal := k ok

theorem Hw.Legal.foldl {f : Hw → α → Hw} {l : List α} (ok : h.Legal) (k : ∀ h x, h.Legal → (f h x).Legal) : (l.foldl f h).Legal :=
  List.foldlRecOn l f ok fun _ ok x _ => k _ x ok

theorem Hw.Legal.forN {f : Hw → Nat → Hw} {n : Nat} (ok : h.Legal) (k : ∀ h x, h.Legal → (f h x).Legal) : (forN n h f).Legal := ok.foldl k

theorem Hw.Legal.getD {o : Option Hw} (gives : Gives Hw.Legal o) (ok : h.Legal) : (o.getD h).Legal := by
  cases o with
  | none => exact ok
  | some g => exact gives rfl

end

/-! ## Updates of one part -/

section
variable {h : Hw} {n : Nat}

theorem Hw.Legal.setRing {f : WorkRing → WorkRing} (ok : h.Legal) : (h.setRing n f).Legal := ok.of_kept (by simp [Hw.kept, Hw.sizes])
theorem Hw.Legal.setCtx {f : Ctx → Ctx} (ok : h.Legal) : (h.setCtx n f).Legal := ok.of_kept (by simp [Hw.kept, Hw.sizes])
theorem Hw.Legal.setDie {f : Die → Die} (ok : h.Legal) : (h.setDie n f).Legal := ok.of_kept (by simp [Hw.kept, Hw.sizes])
theorem Hw.Legal.setAux {f : DieAux → DieAux} (ok : h.Legal) : (h.setAux n f).Legal := ok.of_kept (by simp [Hw.kept, Hw.sizes])
theorem Hw.Legal.setTile {t : Nat} {f : Tile → Tile} (ok : h.Legal) : (h.setTile n t f).Legal := ok.of_kept (by simp [Hw.kept, Hw.sizes])
theorem Hw.Legal.setSeq {f : SeqSlot → SeqSlot} (ok : h.Legal) : (h.setSeq n f).Legal := ok.of_kept (by simp [Hw.kept, Hw.sizes])
theorem Hw.Legal.setPort {f : FPort → FPort} (ok : h.Legal) : (h.setPort n f).Legal := ok.of_kept (by simp [Hw.kept, Hw.sizes])
theorem Hw.Legal.setOe {f : OptEngine → OptEngine} (ok : h.Legal) : (h.setOe n f).Legal := ok.of_kept (by simp [Hw.kept, Hw.sizes])
theorem Hw.Legal.emit {o : Out} (ok : h.Legal) : (h.emit o).Legal := ok.of_kept rfl

/-- The rings and the tiles are changed, none added or removed. -/
theorem Hw.Legal.setRings {rs : List WorkRing} (ok : h.Legal) (same : rs.length = h.rings.length) : ({ h with rings := rs } : Hw).Legal :=
  ok.of_kept (by simp [Hw.kept, Hw.sizes, same])
theorem Hw.Legal.setTiles {ts : List Tile} (ok : h.Legal) (same : ts.length = h.tiles.length) : ({ h with tiles := ts } : Hw).Legal :=
  ok.of_kept (by simp [Hw.kept, Hw.sizes, same])
theorem Hw.Legal.setOutMsgs {os : List OutMsg} (ok : h.Legal) : ({ h with outMsgs := os } : Hw).Legal := ok.of_kept rfl
theorem Hw.Legal.setLim {l : Limits} (ok : h.Legal) (lim : l.Legal) : ({ h with lim := l } : Hw).Legal :=
  ok.of_sizes rfl lim ok.mem ok.hostMem ok.poison
theorem Hw.Legal.setFreeCtr {f : Nat} (ok : h.Legal) : ({ h with freeCtr := f } : Hw).Legal := ok.of_kept rfl
theorem Hw.Legal.setKeystone {k : Keystone} (ok : h.Legal) : ({ h with ks := k } : Hw).Legal := ok.of_kept rfl
theorem Hw.Legal.setLeader {k : Keystone} {k2 : Keystone2} (ok : h.Legal) : ({ h with ks := k, ks2 := k2 } : Hw).Legal := ok.of_kept rfl

theorem Hw.Legal.setOutRing {e : Bool} {f : OutRing → OutRing} (ok : h.Legal) : (h.setOutRing e n f).Legal := by
  cases e <;> exact ok.of_kept (by simp [Hw.kept, Hw.sizes, Hw.setOutRing])

/-- An update of a host port that keeps the form of its host's memory. -/
theorem Hw.Legal.setHost_mem {f : HostPort → HostPort} (ok : h.Legal)
    (k : ∀ q : HostPort, Memory.wf q.mem = true → Memory.wf (f q).mem = true) : (h.setHost n f).Legal := by
  refine ok.of_sizes (by simp [Hw.sizes]) ok.lim ok.mem (fun q hq => ?_) ok.poison
  obtain ⟨i, hi, rfl⟩ := List.getElem_of_mem hq
  simp only [Hw.setHost, List.getElem_modify]
  split
  · exact k _ (ok.hostMem _ (List.getElem_mem _))
  · exact ok.hostMem _ (List.getElem_mem _)

/-- An update of a host port that leaves its host's memory alone. -/
theorem Hw.Legal.setHost {f : HostPort → HostPort} (ok : h.Legal) (keep : ∀ q, (f q).mem = q.mem := by intro; rfl) : (h.setHost n f).Legal :=
  ok.setHost_mem fun q wf => keep q ▸ wf

/-- The same of all host ports. -/
theorem Hw.Legal.mapHosts {f : HostPort → HostPort} (ok : h.Legal) (keep : ∀ q, (f q).mem = q.mem := by intro; rfl) :
    ({ h with hosts := h.hosts.map f } : Hw).Legal := by
  refine ok.of_sizes (by simp [Hw.sizes]) ok.lim ok.mem (fun q hq => ?_) ok.poison
  obtain ⟨p, hp, rfl⟩ := List.mem_map.1 hq
  exact keep p ▸ ok.hostMem p hp

/-! ## Writes of memory -/

theorem Hw.Legal.applyEnv {e : Env} (ok : h.Legal) : (h.applyEnv e).Legal :=
  .foldl ok fun _ x ok => ok.setHost_mem fun _ => Memory.wf_set x.2.1 x.2.2

theorem Hw.Legal.hostWrite {a : Nat} {bs : List Byte} (ok : h.Legal) : (h.hostWrite n a bs).Legal := by
  refine ok.setHost_mem fun q wf => ?_
  split
  · exact wf
  · split
    · exact Memory.wf_write a bs wf
    · exact wf

/-- Module memory and the poisoned groups change to others of canonical form. -/
theorem Hw.Legal.setMem {m : List Host.Cell} {p : List Nat} (ok : h.Legal) (wf : Memory.wf m = true) (up : p.Pairwise (· < ·)) :
    ({ h with mem := m, poison := p } : Hw).Legal := ok.of_sizes rfl ok.lim wf ok.hostMem up

theorem Hw.Legal.applyWrites {w : Writes} (ok : h.Legal) : (h.applyWrites w).Legal :=
  ok.setMem (h.applyWrites_wf w ok.mem) (h.applyWrites_poison w ok.poison)

theorem Hw.Legal.storeAt {bs : List Byte} (ok : h.Legal) : (h.storeAt n bs).Legal := ok.setMem (Memory.wf_blit n bs ok.mem) (ok.poison.filter _)

end

theorem Memory.wf_foldl_write (ws : List (Nat × List Byte)) {m : List Host.Cell} (wf : Memory.wf m = true) :
    Memory.wf (ws.foldl (fun m x => cellWrite m x.1 x.2) m) = true :=
  List.foldlRecOn (motive := fun m => Memory.wf m = true) ws _ wf fun _ wf x _ => Memory.wf_write x.1 x.2 wf

/-! ## Runs -/

/-- A run of a legal state. -/
def Run.Legal (r : Run) : Prop := r.h.Legal

section
variable {r g : Run} {c : Prop} [Decidable c] {α β : Type}

theorem Run.Legal.ite (ok : r.Legal) (ok2 : g.Legal) : (if c then r else g).Legal := by split <;> assumption
theorem Run.Legal.ite_2 {x y : α × Run} (ok : x.2.Legal) (ok2 : y.2.Legal) : (if c then x else y).2.Legal := by split <;> assumption
theorem Run.Legal.ite_Chk {x y : α × Chk} (ok : x.2.r.Legal) (ok2 : y.2.r.Legal) : (if c then x else y).2.r.Legal := by split <;> assumption
theorem Run.Legal.ite_Delivery {x y : Delivery} (ok : x.run.Legal) (ok2 : y.run.Legal) : (if c then x else y).run.Legal := by
  split <;> assumption
theorem Run.Legal.same {q : Run} (ok : r.Legal) (e : q.h = r.h) : q.Legal := by unfold Run.Legal; exact e ▸ ok
theorem Run.Legal.of_eq {x : α × Run} {a : α} (ok : x.2.Legal) (e : x = (a, r)) : r.Legal := by subst e; exact ok

theorem Run.Legal.foldl {f : Run → α → Run} {l : List α} (ok : r.Legal) (k : ∀ r x, r.Legal → (f r x).Legal) : (l.foldl f r).Legal :=
  List.foldlRecOn l f ok fun _ ok x _ => k _ x ok

theorem Run.Legal.foldl_2 {x : β × Run} {f : β × Run → α → β × Run} {l : List α} (ok : x.2.Legal)
    (k : ∀ (x : β × Run) y, x.2.Legal → (f x y).2.Legal) : (l.foldl f x).2.Legal :=
  List.foldlRecOn (motive := fun x => x.2.Legal) l f ok fun _ ok y _ => k _ y ok

theorem Run.Legal.foldl_DrainOut {x : DrainOut} {f : DrainOut → α → DrainOut} {l : List α} (ok : x.run.Legal)
    (k : ∀ (x : DrainOut) y, x.run.Legal → (f x y).run.Legal) : (l.foldl f x).run.Legal :=
  List.foldlRecOn (motive := fun x => x.run.Legal) l f ok fun _ ok y _ => k _ y ok

theorem Run.Legal.foldl_Chk {x : Chk} {f : Chk → α → Chk} {l : List α} (ok : x.r.Legal)
    (k : ∀ (x : Chk) y, x.r.Legal → (f x y).r.Legal) : (l.foldl f x).r.Legal :=
  List.foldlRecOn (motive := fun x => x.r.Legal) l f ok fun _ ok y _ => k _ y ok

theorem Run.Legal.foldl_2_2 {γ : Type} {x : β × γ × Run} {f : β × γ × Run → α → β × γ × Run} {l : List α} (ok : x.2.2.Legal)
    (k : ∀ (x : β × γ × Run) y, x.2.2.Legal → (f x y).2.2.Legal) : (l.foldl f x).2.2.Legal :=
  List.foldlRecOn (motive := fun x => x.2.2.Legal) l f ok fun _ ok y _ => k _ y ok

theorem Run.Legal.foldl_UnitOut {x : UnitOut} {f : UnitOut → α → UnitOut} {l : List α} (ok : x.run.Legal)
    (k : ∀ (x : UnitOut) y, x.run.Legal → (f x y).run.Legal) : (l.foldl f x).run.Legal :=
  List.foldlRecOn (motive := fun x => x.run.Legal) l f ok fun _ ok y _ => k _ y ok

theorem Run.Legal.foldl_VRow {x : VRow} {f : VRow → α → VRow} {l : List α} (ok : x.run.Legal)
    (k : ∀ (x : VRow) y, x.run.Legal → (f x y).run.Legal) : (l.foldl f x).run.Legal :=
  List.foldlRecOn (motive := fun x => x.run.Legal) l f ok fun _ ok y _ => k _ y ok

theorem Run.Legal.forN {f : Run → Nat → Run} {n : Nat} (ok : r.Legal) (k : ∀ r x, r.Legal → (f r x).Legal) : (forN n r f).Legal := ok.foldl k

theorem Run.Legal.forN_2 {x : β × Run} {f : β × Run → Nat → β × Run} {n : Nat} (ok : x.2.Legal)
    (k : ∀ (x : β × Run) y, x.2.Legal → (f x y).2.Legal) : (Machine.forN n x f).2.Legal := ok.foldl_2 k

theorem Run.Legal.forN_run {x : UnitOut} {f : UnitOut → Nat → UnitOut} {n : Nat} (ok : x.run.Legal)
    (k : ∀ (x : UnitOut) y, x.run.Legal → (f x y).run.Legal) : (Machine.forN n x f).run.Legal := ok.foldl_UnitOut k

end

theorem Run.Legal.failing {r : Run} {f : Option (Nat × Nat)} (ok : r.Legal) : ({ r with fail := f } : Run).Legal := ok
theorem Run.Legal.critical {r : Run} (ok : r.Legal) : ({ r with supply := true, cls := .crit } : Run).Legal := ok

/-! ## Meanings of commands -/

/-- A meaning that answers a next state answers a legal one to a legal one. -/
def Keeps (m : State → Host.Outcome State Fault Refusal) : Prop := ∀ s t : State, s.hw.Legal → m s = .next t → t.hw.Legal

section
variable {f : Hw → Hw} {p o : Nat} {m : State → Host.Outcome State Fault Refusal}

theorem Keeps.actPin (k : ∀ h, h.Legal → (f h).Legal) : Keeps (actPin f) := fun s t ok e => by cases e; exact k _ ok
theorem Keeps.act (k : ∀ h, h.Legal → (f h).Legal) : Keeps (act f) := fun _ _ ok e => (act_keeps (P := Hw.Legal) e ok (k _ ok)).1
theorem Keeps.actReg (k : ∀ h, h.Legal → (f h).Legal) : Keeps (actReg o f) :=
  fun _ _ ok e => (actReg_keeps (P := Hw.Legal) e ok (k _ ok)).1
theorem Keeps.actDie (k : ∀ h, h.Legal → (f h).Legal) : Keeps (actDie f) :=
  fun _ _ ok e => (actDie_keeps (P := Hw.Legal) e ok (k _ ok)).1
theorem Keeps.actFrom (k : ∀ h, h.Legal → (f h).Legal) : Keeps (actFrom p o f) :=
  fun _ _ ok e => (actFrom_keeps (P := Hw.Legal) e ok (k _ ok)).1

/-- A register write that starts a command keeps what the command keeps. -/
theorem Hw.Legal.via {h : Hw} (ok : h.Legal) (k : Keeps m) : (via m h).Legal := by
  unfold Machine.via
  split
  · exact k _ _ ok ‹_›
  · exact ok

end

end Sys2Proof.Machine
end

section
/-! SUPPORT. Every operation of the model keeps a legal state legal: one lemma for each, in the order of the model's files. -/

namespace Sys2Proof.Machine

-- One proof at a time: those that run at once wait for one another, each with a stack of its own.
set_option Elab.async false

section
variable {h : Hw}

/-! ## Machine/Ops.lean -/

theorem Hw.Legal.setLink {p l : Nat} {f : Link → Link} (ok : h.Legal) : (h.setLink p l f).Legal := ok.setPort
theorem Hw.Legal.setCmd {r : Nat} {i : W32} {f : Cmd → Cmd} (ok : h.Legal) : (h.setCmd r i f).Legal := ok.setRing
theorem Hw.Legal.free (ok : h.Legal) : h.free.2.Legal := .of_kept ok rfl
theorem Hw.Legal.setObj {n : Nat} {v : W64} (ok : h.Legal) : (h.setObj n v).Legal := .of_kept ok rfl
theorem Hw.Legal.flashWrite {r : Nat} {f : Flash → Flash} (ok : h.Legal) : (h.flashWrite r f).Legal := .of_kept ok rfl

/-! ## Machine/Events.lean -/

theorem Hw.Legal.msixEmit {p v : Nat} (ok : h.Legal) : (h.msixEmit p v).Legal := .ite ok ok.emit
theorem Hw.Legal.msixSend {p v : Nat} (ok : h.Legal) : (h.msixSend p v).Legal := .ite ok.setHost ok.msixEmit
theorem Hw.Legal.msixFlush {p : Nat} (ok : h.Legal) : (h.msixFlush p).Legal := .foldl ok.setHost fun _ _ ok => ok.msixEmit
theorem Hw.Legal.reportAer {p bit : Nat} (ok : h.Legal) : (h.reportAer p bit).Legal := .ite ok.setHost ok.setHost.msixSend
theorem Hw.Legal.noteRecord {evt : Bool} {n : Nat} (ok : h.Legal) : (h.noteRecord evt n).Legal :=
  .ite ok (.ite ok.setOutRing ok.setOutRing.msixSend)
theorem Hw.Legal.putRecord {evt : Bool} {n : Nat} {rb : List Byte} (ok : h.Legal) : (h.putRecord evt n rb).Legal :=
  ok.hostWrite.setOutRing.noteRecord
theorem Hw.Legal.devOut {evt : Bool} {n : Nat} (ok : h.Legal) : (h.devOut evt n).Legal := ok.hostWrite
theorem Hw.Legal.devRing {r : Nat} (ok : h.Legal) : (h.devRing r).Legal := ok.hostWrite
theorem Hw.Legal.deliver {p : Nat} {rb : List Byte} (ok : h.Legal) : (h.deliver p rb).Legal :=
  .ite (.ite ok.setOutRing ok.putRecord) (.ite ok (.ite ok.setOutRing ok.setOutRing))
theorem Hw.Legal.keepEvent {src : Nat} {rb : List Byte} (ok : h.Legal) : (h.keepEvent src rb).Legal := .ite ok.setAux ok
theorem Hw.Legal.event {ps : List Nat} {code src ctx : Nat} {epoch : Byte} {d0 d1 : Nat} (ok : h.Legal) :
    (h.event ps code src ctx epoch d0 d1).Legal := .foldl (.of_kept ok.keepEvent rfl) fun _ _ ok => ok.deliver
theorem Hw.Legal.evMod {code src d0 d1 : Nat} (ok : h.Legal) : (h.evMod code src d0 d1).Legal := ok.event
theorem Hw.Legal.evPort {p code src d0 d1 : Nat} (ok : h.Legal) : (h.evPort p code src d0 d1).Legal := ok.event
theorem Hw.Legal.evCtx {n code src d0 d1 : Nat} (ok : h.Legal) : (h.evCtx n code src d0 d1).Legal := ok.event
theorem Hw.Legal.evRing {r code d0 d1 : Nat} (ok : h.Legal) : (h.evRing r code d0 d1).Legal := .ite ok.evPort ok.evCtx
theorem Hw.Legal.flushLost {p : Nat} (ok : h.Legal) : (h.flushLost p).Legal := .ite (.putRecord (.setOutRing (.of_kept ok rfl))) ok

/-! ## Machine/Integrity.lean -/

theorem Hw.Legal.noteCe {die place n : Nat} (ok : h.Legal) : (h.noteCe die place n).Legal := .ite ok (.ite ok.setAux.setAux.evMod ok.setAux)
theorem Hw.Legal.noteCrc {die kind port : Nat} (ok : h.Legal) : (h.noteCrc die kind port).Legal := .ite ok.setAux.setAux.evMod ok.setAux
theorem execUeSuppressed_keeps {die : Nat} : Keeps (execUeSuppressed die) := .act fun _ ok => .ite ok ok.setAux.evMod

/-! ## Machine/Memory.lean -/

theorem Hw.Legal.ueFound {die place tile da : Nat} (ok : h.Legal) : (h.ueFound die place tile da).Legal :=
  .ite ok.setAux.evMod ok.setAux.setDie
theorem Hw.Legal.recordRow {die place row : Nat} (ok : h.Legal) : (h.recordRow die place row).Legal := .evMod (.ite ok ok.flashWrite)
theorem Hw.Legal.foundUe {g : Nat} (ok : h.Legal) : (h.foundUe g).Legal :=
  have ok : ({ h with poison := setIns h.poison g } : Hw).Legal := ok.setMem ok.mem (pairwise_setIns g ok.poison)
  .ite ok.setDie.ueFound ok.setDie.ueFound.recordRow
theorem Hw.Legal.foundCe {g : Nat} (ok : h.Legal) : (h.foundCe g).Legal := .ite ok.setDie.noteCe ok.setDie.noteCe
theorem Hw.Legal.readErrors {e : Env} {gs : List Nat} (ok : h.Legal) : (h.readErrors e gs).Legal :=
  .ite ok (.foldl (.foldl ok fun _ _ ok => ok.foundUe) fun _ _ ok => ok.foundCe)
theorem Hw.Legal.writeErrors {e : Env} {w : Writes} (ok : h.Legal) : (h.writeErrors e w).Legal := .ite ok ok.readErrors
theorem Hw.Legal.start {die ctx : Nat} {look alloc : Bool} {e : Env} (ok : h.Legal) : (Run.start h die ctx look alloc e).Legal :=
  ok.applyEnv
theorem Run.Legal.toSlot {r : Run} {slot : Nat} (ok : r.Legal) : (r.toSlot slot).Legal := by
  unfold Run.toSlot
  split
  · exact ok
  · split
    exacts [ok, ok, .ite ok ok, ok]
theorem Run.Legal.meets {r : Run} {gs : List Nat} (ok : r.Legal) : (r.meets gs).Legal := .ite ok ok.readErrors
theorem Run.Legal.meetsWalk {r : Run} {cva : Nat} (ok : r.Legal) : (r.meetsWalk cva).Legal := .ite ok ok.meets
theorem Run.Legal.locate {r : Run} {cva : Nat} {wr : Bool} (ok : r.Legal) : (r.locate cva wr).2.Legal := by
  unfold Run.locate
  split
  · exact ok
  · dsimp only
    split
    · exact ok.meetsWalk
    · exact .ite_2 ok.meetsWalk ok.meetsWalk
theorem Run.Legal.readPoison {r : Run} {place : Nat} {gs : List Nat} (ok : r.Legal) : (r.readPoison place gs).Legal := .ite ok ok
theorem Hw.Legal.lineUe {die row g : Nat} (ok : h.Legal) : (h.lineUe die row g).Legal := ok.setDie.ueFound.recordRow
theorem Hw.Legal.lineErrors {die : Nat} {e : Env} {gs : List Nat} (ok : h.Legal) : (h.lineErrors die e gs).Legal :=
  .ite ok (.noteCe (.setDie (.foldl ok fun _ _ ok => ok.lineUe)))
theorem Run.Legal.meetsLines {r : Run} {gs : List Nat} (ok : r.Legal) : (r.meetsLines gs).Legal := .ite ok ok.lineErrors
theorem Run.Legal.readIn {r : Run} {cva n : Nat} (ok : r.Legal) : (r.readIn cva n).2.Legal := by
  unfold Run.readIn
  split
  · exact ok
  split
  next e => exact .of_eq ok.locate e
  next e =>
    have ok := ok.locate.of_eq e
    split
    · exact ok
    split
    · dsimp only
      split
      exacts [.readPoison (.same ok.meets.meetsLines rfl), ok.meets.readPoison]
    · split
      · exact ok
      split
      · exact ok
      split
      exacts [.readPoison (.reportAer (.evMod ok.setHost)), ok]
    · extract_lets d look all gone tag r1 r2
      have ok1 : r1.Legal := .ite ok (.ite (r := { gone with remoteR := _ }) ok.toSlot ok.toSlot)
      have ok2 : r2.Legal := .ite ok1.meetsLines ok1
      exact .ite_2 ok1 (.readPoison (.same ok2 rfl))
theorem Run.Legal.readN {f cva n : Nat} {r : Run} (ok : r.Legal) : (Run.readN f r cva n).2.Legal := by
  induction f generalizing r cva n with
  | zero => exact ok
  | succ f ih =>
    unfold Run.readN
    dsimp only
    split
    exacts [ok.readIn, ih ok.readIn]
theorem Run.Legal.readGroups {r : Run} {cva n : Nat} (ok : r.Legal) : (r.readGroups cva n).2.Legal := ok.readN
theorem Run.Legal.read {r : Run} {cva n : Nat} (ok : r.Legal) : (r.read cva n).2.Legal := ok.readGroups
theorem Run.Legal.write {r : Run} {cva : Nat} {bs : List Byte} {po : Bool} (ok : r.Legal) : (r.write cva bs po).Legal := by
  unfold Run.write
  split
  · exact ok
  split
  next e => exact .of_eq ok.locate e
  next e =>
    have ok := ok.locate.of_eq e
    split
    exacts [ok, ok, .ite ok.toSlot ok.toSlot]
theorem Run.Legal.writeGroups {r : Run} {a : Nat} {bs : List Byte} {po : List Nat} (ok : r.Legal) : (r.writeGroups a bs po).Legal :=
  .ite ok.write (.foldl ok fun _ _ ok => ok.write)
theorem Hw.Legal.post {m : OutMsg} (ok : h.Legal) : (h.post m).Legal := .of_kept ok rfl
theorem Hw.Legal.msgId {n : Nat} (ok : h.Legal) : (h.msgId n).2.Legal := ok.setCtx
theorem Hw.Legal.sendAs {src : Coord} {n : Nat} {dst : Coord} {cls : Nat} {cmd : Option (Nat × W32)} {m : Msg} (ok : h.Legal) :
    (h.sendAs src n dst cls cmd m).Legal :=
  .post (by split; exacts [.of_kept ok.msgId rfl, ok.msgId])
theorem Hw.Legal.sendCtx {n : Nat} {dst : Coord} {cls : Nat} {cmd : Option (Nat × W32)} {m : Msg} (ok : h.Legal) :
    (h.sendCtx n dst cls cmd m).Legal := ok.sendAs
theorem Hw.Legal.fillLine {die : Nat} {tag : Nat × Byte} {alloc : Bool} {e : Env} {l : Nat} (ok : h.Legal) :
    (h.fillLine die tag alloc e l).Legal := ok.setDie
theorem Hw.Legal.touchLines {die : Nat} {w : Writes} (ok : h.Legal) : (h.touchLines die w).Legal := ok.setDie
theorem Hw.Legal.touchRemote {die : Nat} {x : Nat × Nat × List Byte × Bool} (ok : h.Legal) : (h.touchRemote die x).Legal := ok.setDie
theorem Hw.Legal.note {r : Run} {home : Home} {addr : Nat} {write : Bool} (ok : h.Legal) : (r.note h home addr write).Legal :=
  .of_kept ok rfl
theorem Hw.Legal.toHost {r : Run} {x : Nat × Nat × List Byte × Bool} (ok : h.Legal) : (r.toHost h x).Legal :=
  .ite (.foldl (.ite ok.hostWrite ok.hostWrite.note) fun _ _ ok => ok.setHost.evMod.emit) (.ite ok.hostWrite ok.hostWrite.note)
theorem Hw.Legal.toModule {r : Run} {slot da : Nat} {write : Bool} {a : MemAccess} (ok : h.Legal) : (r.toModule h slot da write a).Legal := by
  unfold Run.toModule
  split
  exacts [ok, ok.note.post]
theorem Hw.Legal.toContext {r : Run} {c : Coord} {die a : Nat} {write po : Bool} {bs : List Byte} {n : Nat} (ok : h.Legal) :
    (r.toContext h c die a write po bs n).Legal := ok.note.sendCtx
theorem Hw.Legal.writeModule {r : Run} {x : Nat × Nat × List Byte × Bool} (ok : h.Legal) : (r.writeModule h x).Legal :=
  .foldl ok fun _ _ ok => ok.toModule
theorem Hw.Legal.readModule {r : Run} {x : Nat × Nat × Nat} (ok : h.Legal) : (r.readModule h x).Legal := .foldl ok fun _ _ ok => ok.toModule
theorem Run.Legal.finish {r : Run} (ok : r.Legal) : r.finish.Legal :=
  .setDie
    (.setDie
      (.foldl
        (.foldl
          (.foldl
            (.foldl
              (.foldl (.foldl (.foldl ok.writeErrors.applyWrites.touchLines fun _ _ ok => ok.touchRemote) fun _ _ ok => ok.toHost) fun _ _ ok =>
                ok.writeModule) fun _ _ ok =>
              ok.readModule) fun _ _ ok =>
            ok.toContext) fun _ _ ok =>
          ok.toContext) fun _ _ ok =>
        ok.fillLine))

/-! ## Machine/Control.lean -/

theorem Hw.Legal.sendCtrlTo {p l : Nat} {dst : W32} {op a0 a1 a2 a3 : Nat} (ok : h.Legal) : (h.sendCtrlTo p l dst op a0 a1 a2 a3).Legal :=
  .ite (.emit (.ite ok.setLink ok)) (.ite ok.setLink ok)
theorem Hw.Legal.sendCtrl {p l op a0 a1 a2 a3 : Nat} (ok : h.Legal) : (h.sendCtrl p l op a0 a1 a2 a3).Legal := ok.sendCtrlTo
theorem Hw.Legal.answer {dst : Coord} {op a0 a1 a2 : Nat} (ok : h.Legal) : (h.answer dst op a0 a1 a2).Legal := by
  unfold Hw.answer
  split
  exacts [ok.sendCtrlTo, ok]
theorem Hw.Legal.nack {dst : Coord} {reason : Nat} {msgId : W16} {step : Nat} (ok : h.Legal) : (h.nack dst reason msgId step).Legal :=
  ok.answer

/-! ## Machine/RingCore.lean -/

theorem Hw.Legal.giveRecord {r : Nat} {c : Cmd} (ok : h.Legal) : (h.giveRecord r c).Legal := .ite ok (.ite ok.putRecord ok.setRing)
theorem Hw.Legal.release {r : Nat} {i : W32} (ok : h.Legal) : (h.release r i).Legal := .of_kept ok (by simp [Hw.kept, Hw.sizes, Hw.release])
theorem Hw.Legal.sendSync {o : SyncOp} (ok : h.Legal) : (h.sendSync o).Legal := .of_kept ok rfl
theorem Hw.Legal.headerSignal {r : Nat} {c : Cmd} (ok : h.Legal) : (h.headerSignal r c).2.Legal := by
  unfold Hw.headerSignal
  dsimp only
  split
  · exact ok
  · split
    · exact ok.sendSync
    · split
      · split
        · exact ok
        · split
          exacts [ok.sendSync, ok]
      · exact ok
theorem Hw.Legal.setRingState {r : Nat} {st : RingState} (ok : h.Legal) : (h.setRingState r st).Legal := ok.setRing.devRing
theorem Hw.Legal.haltOn {r : Nat} {c : Cmd} (ok : h.Legal) : (h.haltOn r c).Legal := .ite ok.setRing.setRingState.evRing ok
theorem Hw.Legal.ackAccess {p : Access → Bool} (ok : h.Legal) : (h.ackAccess p).Legal := .of_kept ok rfl
theorem Hw.Legal.loseAccess {a : Access} {status detail : Nat} (ok : h.Legal) : (h.loseAccess a status detail).Legal :=
  .of_kept ok (by simp [Hw.kept, Hw.sizes, Hw.loseAccess])
theorem Hw.Legal.endRevokedWaits {n : Nat} {i : Machine.Import} (ok : h.Legal) : (h.endRevokedWaits n i).Legal :=
  .of_kept ok (by simp [Hw.kept, Hw.sizes, Hw.endRevokedWaits])
theorem Hw.Legal.revoke {ex : Nat} (ok : h.Legal) : (h.revoke ex).Legal :=
  .foldl ok fun _ _ ok => .ite ok (.foldl ok fun _ _ ok => .ite ok.setCtx.evCtx.endRevokedWaits ok)
theorem Hw.Legal.enterClosing {n : Nat} (ok : h.Legal) : (h.enterClosing n).Legal := .revoke (.ite ok.setCtx.evCtx ok.setCtx)
theorem Hw.Legal.closeIfStopped {n : Nat} (ok : h.Legal) : (h.closeIfStopped n).Legal := .ite ok.enterClosing ok
theorem Hw.Legal.stopIfDrained {r : Nat} (ok : h.Legal) : (h.stopIfDrained r).Legal :=
  .ite (.ite ok.setRingState.evRing ok.setRingState.evRing.closeIfStopped) ok
theorem Run.Legal.writeEntries {r : Run} {c : Cmd} {l : List (Nat × Nat)} (ok : r.Legal) : (r.writeEntries c l).Legal :=
  .foldl ok fun _ _ ok => ok.write.write
theorem Hw.Legal.writeBack {r : Nat} {c : Cmd} (ok : h.Legal) : (h.writeBack r c).Legal := by
  unfold Hw.writeBack
  split
  exacts [Run.Legal.finish (.writeEntries ok.applyEnv), ok]
theorem Hw.Legal.complete {r : Nat} {c : Cmd} (ok : h.Legal) : (h.complete r c).Legal :=
  .stopIfDrained
    (.ite ok.writeBack.setRing.release.headerSignal.setRing.giveRecord.haltOn ok.writeBack.setRing.release.headerSignal.setRing.giveRecord)
theorem Hw.Legal.abortRunning {r : Nat} {keep : W32 → Bool} (ok : h.Legal) : (h.abortRunning r keep).Legal :=
  .foldl ok fun _ _ ok => .ite ok ok.complete
theorem Hw.Legal.flushRunning {r : Nat} {self : Option (Nat × W32)} (ok : h.Legal) : (h.flushRunning r self).Legal :=
  .setTiles ok.abortRunning (by simp)
theorem Hw.Legal.abortRing {r : Nat} (ok : h.Legal) : (h.abortRing r).Legal := ok.setRing.abortRunning.devRing
theorem Hw.Legal.drainStarted {r : Nat} (ok : h.Legal) : (h.drainStarted r).Legal := ok.setRing.setRingState.stopIfDrained
theorem Hw.Legal.faultCtx {n cause : Nat} (ok : h.Legal) : (h.faultCtx n cause).Legal :=
  .ite (.revoke (.evCtx (.foldl ok.setCtx fun _ _ ok => ok.abortRing))) (.ite ok.setCtx ok)
theorem Hw.Legal.closeCtx {n : Nat} {flush : Bool} {self : Option (Nat × W32)} (ok : h.Legal) : (h.closeCtx n flush self).Legal :=
  .ite
    (.closeIfStopped
      (.foldl
        (.ite
          (.foldl (.foldl (.foldl ok.setCtx.evCtx fun _ _ ok => ok.setRing) fun _ _ ok => ok.setRingState) fun _ _ ok => ok.flushRunning)
          (.foldl (.foldl ok.setCtx.evCtx fun _ _ ok => ok.setRing) fun _ _ ok => ok.setRingState)) fun _ _ ok =>
        ok.stopIfDrained))
    (.ite ok.setCtx.enterClosing ok)

/-! ## Machine/Operands.lean -/

theorem Run.Legal.get {c : Chk} {cva n : Nat} (ok : c.r.Legal) : (c.get cva n).2.r.Legal := by
  unfold Chk.get
  split
  · exact ok
  · dsimp only
    split
    · exact ok.read
    · split
      · exact ok.read
      · split <;> exact ok.read
theorem Run.Legal.version {c : Chk} {bs : List Byte} (ok : c.r.Legal) : (c.version bs).r.Legal := by
  unfold Chk.version
  split <;> exact ok
theorem Run.Legal.td {c : Chk} {k cva detail : Nat} (ok : c.r.Legal) : (c.td k cva detail).r.Legal := by
  unfold Chk.td
  split
  · exact ok
  · dsimp only
    split <;> exact ok.get.version
theorem Run.Legal.ownerHdrs {c : Chk} (ok : c.r.Legal) : c.ownerHdrs.r.Legal :=
  .foldl_Chk ok fun _ _ ok => by split; exacts [by dsimp only; split <;> exact ok.get.version, ok]
theorem Run.Legal.structures {c : Chk} {jf1 : Bool} {bs : List Byte} (ok : c.r.Legal) : (c.structures jf1 bs).r.Legal := by
  unfold Chk.structures
  dsimp only
  split
  · split
    · exact ok
    · split
      exacts [ok.get.version, ok.get.version.get]
  · split
    · split
      exacts [ok.get, .ownerHdrs (.foldl_Chk ok.get fun _ _ ok => ok.td)]
    · split
      · split
        · exact ok
        · split
          · exact ok.get
          · exact .ownerHdrs (.foldl_Chk ok.get fun _ _ ok => by split; exacts [ok.td, ok.td.td])
      · split
        · split
          all_goals
            split
            · exact ok.get
            · split
              · exact ok.get
              · split
                exacts [.ownerHdrs (.foldl_Chk ok.get fun _ _ ok => ok.td), ok.get]
        · exact .ownerHdrs (.foldl_Chk ok fun _ _ ok => ok.td)
/-- The state that a descriptor's checks leave. -/
theorem Hw.Legal.checkDescriptor {ring : Nat} {index : W32} {raw : List Byte} {poisoned : Bool} {e : Env} (ok : h.Legal) :
    Gives (fun x : Cmd × Hw => x.2.Legal) (h.checkDescriptor ring index raw poisoned e) := by
  unfold Hw.checkDescriptor
  extract_lets w p op bs0 cmd want c ext a y bs c2 cmd2 r0 h1 l
  have oky : y.2.r.Legal := .ite_Chk (.get ok) ok
  have ok2 : c2.r.Legal := by
    dsimp only [c2]
    split
    exacts [oky, oky.structures]
  have ok1 : h1.Legal := Run.Legal.finish (.same ok2 rfl)
  refine .ite (.some ok) (.ite (.some ok) (.ite (.some ok) (.ite .none ?_)))
  split
  · exact .some ok1
  split
  · exact .some ok1
  split
  exacts [.some ok1, .some ok1]

/-! ## Machine/Rings.lean -/

theorem Hw.Legal.hostPoisonRead {p a : Nat} {e : Env} (ok : h.Legal) : (h.hostPoisonRead p a e).Legal := .ite ok.setHost.evMod.reportAer ok
theorem Hw.Legal.takeTail {r : Nat} {db : W32 × W32} (ok : h.Legal) : (h.takeTail r db).Legal :=
  .ite ok.setRing (.ite ok.setRing.devRing ok.setRing.setRingState.evRing)
theorem Hw.Legal.pollTells {r : Nat} (ok : h.Legal) : (h.pollTells r).Legal := .ite ok.setRing.devRing ok.setRing
theorem Hw.Legal.pollWork {r : Nat} {e : Env} (ok : h.Legal) : (h.pollWork r e).Legal := by
  unfold Hw.pollWork
  dsimp only
  split
  exacts [ok.pollTells.applyEnv.hostPoisonRead.setRing, ok.pollTells.applyEnv.hostPoisonRead.takeTail]
theorem execWorkDoorbellPoll_keeps {ring : Nat} {env : Env} : Keeps (execWorkDoorbellPoll ring env) := .act fun _ ok => .ite ok.pollWork ok
theorem Hw.Legal.takeHead {evt : Bool} {n : Nat} {db : W32 × W32} (ok : h.Legal) : (h.takeHead evt n db).Legal :=
  .ite ok.setOutRing (.ite (.ite ok.setOutRing.devOut.flushLost ok.setOutRing.devOut) (.ite ok.setOutRing.evPort ok.setOutRing.evCtx))
theorem execCplDoorbellPoll_keeps {evt : Bool} {ring : Nat} {env : Env} : Keeps (execCplDoorbellPoll evt ring env) := .act fun _ ok =>
  .ite (by dsimp only; split; exacts [ok.applyEnv.hostPoisonRead, ok.applyEnv.hostPoisonRead.takeHead]) ok
theorem execHeaderWaitTimeout_keeps {ring : Nat} : Keeps (execHeaderWaitTimeout ring) := .act fun _ ok => by
  split
  exacts [.ite ok.setRing.complete ok, ok]
theorem Hw.Legal.signalEarly {r : Nat} {c : Cmd} (ok : h.Legal) : (h.signalEarly r c).Legal := .ite ok ok.headerSignal.setCmd
theorem execCplRecordWrite_keeps {ring : Nat} : Keeps (execCplRecordWrite ring) := .act fun _ ok => by
  dsimp only
  split
  exacts [.ite ok.setRing.putRecord.stopIfDrained ok, ok]
theorem execIrqDelayExpiry_keeps {evt : Bool} {ring : Nat} : Keeps (execIrqDelayExpiry evt ring) := .act fun _ ok =>
  .ite ok.setOutRing.msixSend ok
theorem Hw.Legal.ringCmdErr {r : Nat} (ok : h.Legal) : (h.ringCmdErr r).Legal := ok.setRing
theorem execRingStart_keeps {port ring : Nat} {env : Env} : Keeps (execRingStart port ring env) := .actFrom fun _ ok =>
  .ite ok.ringCmdErr
    (.ite ok.setRing
      (.ite (.pollWork (.ite ok.setRing.setRingState.setCtx ok.setRing.setRingState))
        (.applyEnv (.ite ok.setRing.setRingState.setCtx ok.setRing.setRingState))))
theorem execRingStop_keeps {port ring : Nat} : Keeps (execRingStop port ring) := .actFrom fun _ ok => .ite ok.drainStarted ok.ringCmdErr
theorem Hw.Legal.drainRead {r : Nat} {e : Env} (ok : h.Legal) : (h.drainRead r e).Legal := by
  unfold Hw.drainRead
  dsimp only
  split
  · exact ok.applyEnv.hostPoisonRead.setRing
  · exact .ite ok.applyEnv.hostPoisonRead.takeTail.setRing.setRingState.stopIfDrained ok.applyEnv.hostPoisonRead.takeTail
theorem execRingDrain_keeps {port ring : Nat} {env : Env} : Keeps (execRingDrain port ring env) := .actFrom fun _ ok =>
  .ite ok.ringCmdErr (.ite ok.drainRead ok.setRing)
theorem execDrainPoll_keeps {ring : Nat} {env : Env} : Keeps (execDrainPoll ring env) := .act fun _ ok => .ite ok.drainRead ok
theorem execRingResume_keeps {port ring : Nat} : Keeps (execRingResume port ring) := .actFrom fun _ ok =>
  .ite ok.setRing.setRingState ok.ringCmdErr
theorem Hw.Legal.enableOut {evt : Bool} {n v : Nat} (ok : h.Legal) : (h.enableOut evt n v).Legal :=
  .ite ok (.ite (.flushLost (.foldl ok.setOutRing.devOut fun _ _ ok => ok.putRecord)) ok.setOutRing.devOut)
theorem execRingEnSet_keeps {evt : Bool} {ring : Nat} {value : W32} : Keeps (execRingEnSet evt ring value) := .actReg fun _ ok =>
  .ite ok ok.enableOut
theorem Hw.Legal.cfgNoEn {evt : Bool} {n v : Nat} (ok : h.Legal) : (h.cfgNoEn evt n v).Legal := .ite ok.setOutRing.devOut ok.setOutRing
theorem execRingEnClear_keeps {evt : Bool} {ring : Nat} {value : W32} : Keeps (execRingEnClear evt ring value) := .actReg fun _ ok =>
  .ite ok ok.cfgNoEn
theorem Hw.Legal.onCmd {r : Nat} {i : W32} {op : Nat} {f : Cmd → Hw} (ok : h.Legal) (keep : ∀ x, (f x).Legal) : (h.onCmd r i op f).Legal := by
  unfold Hw.onCmd
  split
  exacts [.ite (keep  _) ok, ok]
theorem Hw.Legal.finishCmd {r : Nat} {i : W32} {status detail : Nat} (ok : h.Legal) : (h.finishCmd r i status detail).Legal := ok.setCmd
theorem execNop_keeps {ring : Nat} {index : W32} : Keeps (execNop ring index) := .act fun _ ok => .onCmd ok fun _ => ok.finishCmd
theorem execFence_keeps {ring : Nat} {index : W32} : Keeps (execFence ring index) := .act fun _ ok =>
  .onCmd ok fun _ => .ite ok.finishCmd ok

/-! ## Machine/Issue.lean -/

theorem Hw.Legal.putFetched {r : Nat} {c : Cmd} (ok : h.Legal) : (h.putFetched r c).Legal := .ite ok.setRing ok.setRing.devRing
theorem Hw.Legal.fetchOne {r : Nat} {e : Env} (ok : h.Legal) : Gives Hw.Legal (h.fetchOne r e) := by
  unfold Hw.fetchOne
  extract_lets w p n a e1 h1 put
  have ok1 : h1.Legal := ok.applyEnv.hostPoisonRead
  refine .ite (.some ok1.putFetched) ?_
  split
  next q => exact .some (Hw.Legal.putFetched (ok1.checkDescriptor q))
  · exact .none
theorem execDescriptorFetch_keeps {ring : Nat} {env : Env} : Keeps (execDescriptorFetch ring env) := .act fun _ ok =>
  .ite (.getD ok.fetchOne ok) ok
theorem Hw.Legal.takeEngine {r : Nat} {c : Cmd} {copy : Bool} {die : Nat} (ok : h.Legal) : (h.takeEngine r c copy die).2.Legal := by
  unfold Hw.takeEngine
  dsimp only
  split
  · split
    exacts [ok, ok.setAux]
  · exact ok
theorem execEngineAcquire_keeps {ring : Nat} {index : W32} : Keeps (execEngineAcquire ring index) := .act fun _ ok => by
  split
  · split
    exacts [.ite ok.takeEngine.setCmd ok, ok]
  · exact ok
theorem Hw.Legal.changeSlots {c : Cmd} (ok : h.Legal) : (h.changeSlots c).Legal := by
  unfold Hw.changeSlots
  split
  exacts [.foldl ok fun _ _ ok => ok.setSeq, ok]
theorem Hw.Legal.acquire (ok : h.Legal) : h.acquire.Legal := .of_kept ok (by simp [Hw.kept, Hw.sizes, Hw.acquire])
theorem Hw.Legal.launch {r : Nat} {c : Cmd} (ok : h.Legal) : (h.launch r c).Legal := ok.setRing
theorem Hw.Legal.startCmd {r : Nat} {c : Cmd} {e : Env} (ok : h.Legal) : (h.startCmd r c e).Legal := by
  unfold Hw.startCmd
  dsimp only
  split
  · exact ok
  · exact .launch (.of_kept ok.applyEnv rfl)
  · exact .launch (.of_kept ok.applyEnv rfl)
  · exact .launch (.of_kept ok.applyEnv rfl)
  · split
    · exact .launch
        (.takeEngine (by split; exacts [.setSeq (.changeSlots (.of_kept ok.applyEnv rfl)), .changeSlots (.of_kept ok.applyEnv rfl)]))
    · exact .launch (by split; exacts [.setSeq (.changeSlots (.of_kept ok.applyEnv rfl)), .changeSlots (.of_kept ok.applyEnv rfl)])
theorem Hw.Legal.atTurn {r : Nat} {c : Cmd} {satisfied : Bool} (ok : h.Legal) : (h.atTurn r c satisfied).Legal := ok.setRing
theorem execCommandStart_keeps {ring : Nat} {env : Env} : Keeps (execCommandStart ring env) := .act fun _ ok => by
  split
  · exact ok
  · exact .ite ok
      (by
        split
        · exact ok.launch
        · exact .ite (.ite ok.startCmd ok)
            (by split; exacts [ok.launch, .ite ok.startCmd (.ite (.startCmd (.atTurn (.ite ok.acquire ok))) ok.atTurn)]))

/-! ## Machine/Tensor.lean -/

theorem Run.Legal.view {r : Run} {t : TD} {o : Option OwnerHdr} (ok : r.Legal) : (r.view t o).2.Legal := by
  unfold Run.view
  split
  exacts [ok, ok.read]
theorem Run.Legal.slotView {r : Run} {c : Cmd} {k : Nat} (ok : r.Legal) : (r.slotView c k).2.Legal := ok.view
theorem Run.Legal.toPeer {r : Run} {c : Coord} {a n : Nat} (ok : r.Legal) : (r.toPeer c a n).Legal :=
  .ite ok (by split; exacts [ok, ok, ok, by split <;> exact ok])
theorem Run.Legal.readPeer {r : Run} {c : Coord} {die a n : Nat} (ok : r.Legal) : (r.readPeer c die a n).2.Legal := by
  unfold Run.readPeer
  dsimp only
  split
  exacts [ok.toPeer, .readPoison ok.toPeer]
theorem Run.Legal.rawGrp {r : Run} {v : View} {idx : List Nat} {k : Nat} (ok : r.Legal) : (r.rawGrp v idx k).2.Legal := by
  unfold Run.rawGrp
  dsimp only
  split
  · split
    exacts [ok.readGroups.read, ok.readGroups]
  · split
    exacts [ok.readPeer.readPeer, ok.readPeer]
  · exact ok
theorem Run.Legal.grp {r : Run} {v : View} {idx : List Nat} {k : Nat} (ok : r.Legal) : (r.grp v idx k).2.Legal := ok.rawGrp
theorem Run.Legal.writePeer {r : Run} {c : Coord} {die a : Nat} {bs : List Byte} {po : Bool} (ok : r.Legal) :
    (r.writePeer c die a bs po).Legal := .ite ok.toPeer ok.toPeer
theorem Run.Legal.writePeerGroups {r : Run} {c : Coord} {die a : Nat} {bs : List Byte} {po : List Nat} (ok : r.Legal) :
    (r.writePeerGroups c die a bs po).Legal := .ite ok.writePeer (.foldl ok fun _ _ ok => ok.writePeer)
theorem Run.Legal.put {r : Run} {v : View} {idx : List Nat} {k : Nat} {cells : List (Option Nat)} {scale : Option Nat} {po : List Bool}
    (ok : r.Legal) :
    (r.put v idx k cells scale po).Legal := by
  unfold Run.put
  dsimp only
  split
  · exact .write (.foldl ok fun _ _ ok => ok.writeGroups)
  · exact .ite (.foldl ok fun _ _ ok => ok.writePeerGroups) (.writePeer (.foldl ok fun _ _ ok => ok.writePeerGroups))
  · exact ok
theorem Run.Legal.padRow {r : Run} {v : View} {padw : Bool} {q : Nat} (ok : r.Legal) : (r.padRow v padw q).Legal := .ite ok ok.put
theorem Run.Legal.padRows {r : Run} {v : View} {padw : Bool} (ok : r.Legal) : (r.padRows v padw).Legal := .forN ok fun _ _ ok => ok.padRow
theorem Run.Legal.byBlocks {r : Run} {v : View} {padw : Bool} {key : Nat → Nat → Nat} {put : Run → Nat → Nat → Run} (ok : r.Legal)
    (keep : ∀ x y z, x.Legal → (put x y z).Legal) :
    (r.byBlocks v padw key put).Legal :=
  .ite (.forN ok.padRows fun _ _ ok => .forN ok fun _ _ ok => keep _ _ _ ok)
    (.foldl ok fun _ _ ok => .foldl (.foldl ok fun _ _ ok => .ite ok.padRow ok) fun _ _ ok => keep _ _ _ ok)
theorem Run.Legal.resume {r : Run} {c : Cmd} (ok : r.Legal) : (r.resume c).Legal := ok
theorem Run.Legal.spoil {r : Run} {c : Cmd} {die tile : Nat} (ok : r.Legal) : (r.spoil c die tile).Legal := .ite ok ok
theorem Hw.Legal.stallCmd {ring : Nat} {i : W32} (ok : h.Legal) : (h.stallCmd ring i).Legal := ok.setCmd
theorem Hw.Legal.holdCmd {ring : Nat} {i : W32} {r : Run} (ok : h.Legal) : (h.holdCmd ring i r).Legal := ok.setCmd
theorem Hw.Legal.keepRun {ring : Nat} {i : W32} {r : Run} {f : Cmd → Cmd} (ok : h.Legal) (ok2 : r.Legal) : (h.keepRun ring i r f).Legal :=
  .ite ok.holdCmd (.setCmd (Run.Legal.finish ok2))
theorem Hw.Legal.endRun {ring : Nat} {i : W32} {r : Run} {indexPoison : Bool} (ok : h.Legal) (ok2 : r.Legal) :
    (h.endRun ring i r indexPoison).Legal := .ite ok.holdCmd (.setCmd (Run.Legal.finish ok2))

/-! ## Machine/DataMove.lean -/

theorem Hw.Legal.moveRun {ring : Nat} {c : Cmd} {alloc : Bool} {e : Env} (ok : h.Legal) : (h.moveRun ring c alloc e).Legal :=
  ok.start.resume
theorem Hw.Legal.onMover {r : Nat} {i : W32} {op : Nat} {f : Cmd → Hw} (ok : h.Legal) (keep : ∀ x, (f x).Legal) :
    (h.onMover r i op f).Legal := .onCmd ok fun _ => .ite ok (keep  _)
theorem Run.Legal.copyGroup {s d : View} {perm : List Nat} {r : Run} {q k : Nat} (ok : r.Legal) : (Run.copyGroup s d perm r q k).Legal :=
  .ite ok (.ite ok.grp ok.grp.put)
theorem Run.Legal.copyElems {s d : View} {perm : List Nat} {r : Run} {q k : Nat} (ok : r.Legal) : (Run.copyElems s d perm r q k).Legal :=
  .ite (.put (.foldl_2_2 ok fun _ _ ok => ok.grp)) (.foldl_2_2 ok fun _ _ ok => ok.grp)
theorem Run.Legal.copyTensor {r : Run} {s d : View} {perm : List Nat} {padw : Bool} (ok : r.Legal) : (r.copyTensor s d perm padw).Legal :=
  .byBlocks ok fun _ _ _ ok => by
    split
    exacts [ok.copyGroup, ok.copyElems]
theorem Hw.Legal.copyRun {ring : Nat} {c : Cmd} {env : Env} (ok : h.Legal) : (h.copyRun ring c env).Legal :=
  ok.moveRun.slotView.slotView.copyTensor
theorem execCopy_keeps {ring : Nat} {index : W32} {env : Env} : Keeps (execCopy ring index env) := .act fun _ ok =>
  .onMover ok fun _ => .endRun ok ok.copyRun
theorem Hw.Legal.fillRun {ring : Nat} {c : Cmd} {env : Env} (ok : h.Legal) : (h.fillRun ring c env).Legal :=
  .byBlocks ok.moveRun.slotView fun _ _ _ ok => ok.put
theorem execFill_keeps {ring : Nat} {index : W32} {env : Env} : Keeps (execFill ring index env) := .act fun _ ok =>
  .onMover ok fun _ => .endRun ok ok.fillRun
theorem Run.Legal.indices {r : Run} {t : TD} (ok : r.Legal) : (r.indices t).2.Legal := .forN_2 ok fun _ _ ok => ok.read
theorem Hw.Legal.gatherRun {ring : Nat} {c : Cmd} {env : Env} (ok : h.Legal) : (h.gatherRun ring c env).1.Legal :=
  .forN (.padRows ok.moveRun.slotView.slotView.indices) fun _ _ ok => .forN ok fun _ _ ok => .ite ok.put (.ite ok.grp ok.grp.put)
theorem execGather_keeps {ring : Nat} {index : W32} {env : Env} : Keeps (execGather ring index env) := .act fun _ ok =>
  .onMover ok fun _ => .endRun ok ok.gatherRun
theorem Hw.Legal.addAt {k op e : Nat} {grad : Bool} {cells : List (Option Nat)} {po : List Nat} (ok : h.Legal) :
    (h.addAt k op e grad cells po).h.Legal := by
  unfold Hw.addAt
  extract_lets w step y gs gs2
  have wf : Memory.wf y.1 = true := by
    refine List.foldlRecOn (motive := fun y : List Host.Cell × Nat × Nat => Memory.wf y.1 = true) _ step (b := (h.mem, 0, 0)) ok.mem ?_
    intro y wf c _
    dsimp only [step]
    split
    exacts [wf, Memory.wf_write _ _ wf]
  exact ok.setMem wf (pairwise_foldl_setIns (fun g => g) gs2 ok.poison)
theorem Hw.Legal.dropLine {die k n : Nat} (ok : h.Legal) : (h.dropLine die k n).Legal := ok.setDie
theorem Run.Legal.addGroup {r : Run} {k op e : Nat} {grad : Bool} {cells : List (Option Nat)} {po : List Bool} (ok : r.Legal) :
    (r.addGroup k op e grad cells po).Legal := ok.meets.addAt.dropLine
theorem Run.Legal.scatterStore {r : Run} {s d : View} {dim : Nat} {ks : List (Option Nat)} {padw : Bool} (ok : r.Legal) :
    (r.scatterStore s d dim ks padw).Legal :=
  .forN (.ite ok (.forN ok fun _ _ ok => by split; exacts [ok.put, ok])) fun _ _ ok => by
    split
    exacts [ok, .forN ok fun _ _ ok => .ite ok.grp ok.grp.put]
theorem Run.Legal.scatterAdd {r : Run} {s d : View} {dim op : Nat} {grad : Bool} {ks : List (Option Nat)} (ok : r.Legal) :
    (r.scatterAdd s d dim op grad ks).Legal :=
  .forN ok fun _ _ ok => by
    split
    · exact ok
    · exact .ite ok
        (.ite ok (by dsimp only; split; exacts [ok, .ite ok (.foldl ok fun _ _ ok => by split; exacts [.ite ok.grp ok.grp.addGroup, ok])]))
theorem Hw.Legal.scatterRun {ring : Nat} {c : Cmd} {env : Env} (ok : h.Legal) : (h.scatterRun ring c env).1.Legal :=
  .ite (.scatterStore ok.moveRun.slotView.slotView.indices) (.scatterAdd ok.moveRun.slotView.slotView.indices)
theorem execScatter_keeps {ring : Nat} {index : W32} {env : Env} : Keeps (execScatter ring index env) := .act fun _ ok =>
  .onMover ok fun _ => .endRun ok ok.scatterRun
theorem Hw.Legal.ownerBlock {n : Nat} {q : BlockReq} {env : Env} {done : Nat} (ok : h.Legal) : (h.ownerBlock n q env done).Legal :=
  .ite (.of_kept ok rfl)
    (.sendCtx
      (.emit
        (by
          split
          · exact .ite (.setCtx (Run.Legal.finish (by split; exacts [ok.start.writeGroups, ok.start.readGroups])))
              (Run.Legal.finish (by split; exacts [ok.start.writeGroups, ok.start.readGroups]))
          · exact Run.Legal.finish (by split; exacts [ok.start.writeGroups, ok.start.readGroups]))))
theorem Hw.Legal.ownerPart {n : Nat} {q : BlockReq} {lo hi : Nat} {env : Env} (ok : h.Legal) :
    Gives Hw.Legal (h.ownerPart n q lo hi env) := .ite .none (.some (Run.Legal.finish ok.start.writeGroups))
theorem execOwnerBlockTransfer_keeps {req : BlockReq × Env} : Keeps (execOwnerBlockTransfer req) := .act fun _ ok => by
  split
  exacts [ok.ownerBlock, ok]

/-! ## Machine/Lanes.lean -/

theorem Run.Legal.loadGroup {r : Run} {v : View} {grad : Bool} {coarse : Option W32} {idx : List Nat} {k lim : Nat} (ok : r.Legal) :
    (r.loadGroup v grad coarse idx k lim).2.Legal := ok.grp
theorem Run.Legal.loadElem {r : Run} {v : View} {grad : Bool} {idx : List Nat} {c : Nat} (ok : r.Legal) :
    (r.loadElem v grad idx c).2.Legal := ok.grp
theorem Run.Legal.loadRow {r : Run} {v : View} {grad : Bool} {coarse : Option W32} {idx : List Nat} {j : Nat} {lim : optParam Nat 128}
    (ok : r.Legal) :
    (r.loadRow v grad coarse idx j lim).2.Legal :=
  .foldl_2 ok fun _ _ ok => by split; exacts [ok.loadGroup, ok]
theorem Run.Legal.ldxRow {v : VEnv} {as : List W32} {dst : Nat} {x : VRow} (ok : x.run.Legal) : (v.ldxRow as dst x).run.Legal :=
  .foldl_2 ok fun _ _ ok => .ite_2 ok ok.loadElem
theorem Run.Legal.instr {v : VEnv} {x : VRow} {w : W32} (ok : x.run.Legal) : (v.instr x w).run.Legal := by
  unfold VEnv.instr
  dsimp only
  split
  · exact ok
  · split
    · exact ok
    · split
      · exact ok
      · split
        · exact ok
        · split
          · exact ok.ldxRow
          · split
            · exact ok
            · split <;> exact ok
theorem Run.Legal.startRow {v : VEnv} {ins : List EIn} {x : VRow} (ok : x.run.Legal) : (v.startRow ins x).run.Legal := by
  unfold VEnv.startRow
  dsimp only
  split
  exacts [ok, ok.loadRow]
theorem Run.Legal.putGroup {r : Run} {v : View} {q k : Nat} {codes : List Nat} {po : List Bool} {scale : Option Nat} {padw : Bool} (ok : r.Legal) :
    (r.putGroup v q k codes po scale padw).Legal := ok.put
theorem Run.Legal.putRow {r : Run} {v : View} {q j : Nat} {o : OutRow} {padw : Bool} (ok : r.Legal) : (r.putRow v q j o padw).Legal :=
  .foldl ok fun _ _ ok => .ite ok.putGroup ok
theorem Run.Legal.runRow {v : VEnv} {ins : List EIn} {run : Run} {trgs : List Trg} (ok : run.Legal) : (v.runRow ins run trgs).run.Legal :=
  .foldl_VRow (.startRow ok) fun _ _ ok => ok.instr
theorem Run.Legal.putStats {r : Run} {t : TD} {row j batch : Nat} {rm rs : W32} {po : Bool} (ok : r.Legal) :
    (r.putStats t row j batch rm rs po).Legal := ok.put

/-! ## Machine/Vector.lean -/

theorem Run.Legal.load {e : Elem} {tag : Nat × Byte} {trgs : List Trg} {r : Run} {q j : Nat} (ok : r.Legal) :
    (e.load tag trgs r q j).2.Legal := by
  unfold Elem.load
  split
  · exact ok.loadRow
  · split <;> exact ok
theorem Run.Legal.store {e : Elem} {tag : Nat × Byte} {u : UnitOut} {q j : Nat} {o : OutRow} (ok : u.run.Legal) :
    (e.store tag u q j o).run.Legal := by
  unfold Elem.store
  split
  exacts [ok.putRow, ok]
theorem Run.Legal.progRow {e : Elem} {im : Image} {st : Option TD} {seed : W64} {tag : Nat × Byte} {batch row rb j : Nat} {u : UnitOut}
    (ok : u.run.Legal) :
    (e.progRow im st seed tag batch row rb j u).run.Legal := by
  unfold Elem.progRow
  dsimp only
  split
  exacts [.putStats (.store ok.load.runRow), .store ok.load.runRow]
theorem Run.Legal.progUnit {e : Elem} {im : Image} {st : Option TD} {seed : W64} {tag : Nat × Byte} {n : Nat} {u : UnitOut} (ok : u.run.Legal) :
    (e.progUnit im st seed tag n u).run.Legal :=
  .forN_run (by split <;> exact ok) fun _ _ ok => .forN_run (by split <;> exact ok) fun _ _ ok => ok.progRow
theorem Run.Legal.wholeRow {e : Elem} {tag : Nat × Byte} {trgs : List Trg} {r : Run} {q : Nat} (ok : r.Legal) :
    (e.wholeRow tag trgs r q).2.Legal := .forN_2 ok fun _ _ ok => ok.load
theorem Run.Legal.rowUnit {e : Elem} {tag : Nat × Byte} {n : Nat} {u : UnitOut} (ok : u.run.Legal) : (e.rowUnit tag n u).run.Legal :=
  .forN_run ok fun _ _ ok => .store ok.wholeRow
theorem Run.Legal.colUnit {e : Elem} {tag : Nat × Byte} {n : Nat} {u : UnitOut} (ok : u.run.Legal) : (e.colUnit tag n u).run.Legal :=
  .store (.forN_2 ok fun _ _ ok => ok.load)
theorem Run.Legal.topUnit {e : Elem} {tag : Nat × Byte} {q : Nat} {u : UnitOut} (ok : u.run.Legal) : (e.topUnit tag q u).run.Legal := by
  unfold Elem.topUnit
  dsimp only
  split
  exacts [.putRow (.store ok.wholeRow), .store ok.wholeRow]
theorem Hw.Legal.noteUnit {die tile : Nat} {before : Run} {u : UnitOut} (ok : h.Legal) : (h.noteUnit die tile before u).Legal :=
  ok.free.setTile
theorem Hw.Legal.endUnit {ring : Nat} {c : Cmd} {die tile unit : Nat} {before : Run} {u : UnitOut} {dies taken : List Nat} {units : Nat}
    (ok : h.Legal) (ok2 : u.run.Legal) :
    (h.endUnit ring c die tile unit before u dies taken units).Legal :=
  .ite ok.holdCmd.setTile (.ite (.setCmd (.endRun ok ok2.noteUnit)) (.keepRun ok ok2.noteUnit))
theorem Hw.Legal.unitOut {ring : Nat} {c : Cmd} {die tile unit : Nat} {env : Env} (ok : h.Legal) :
    Gives (fun u : UnitOut => u.run.Legal) (h.unitOut ring c die tile unit env) := by
  unfold Hw.unitOut
  extract_lets n el tag t r u
  have ok0 : u.run.Legal := ok.start.resume.critical
  exact .ite (.map fun _ => .spoil (.progUnit ok0)) (.ite (.some ok0.rowUnit) (.ite (.some ok0.colUnit) (.some ok0.topUnit)))
theorem Hw.Legal.elementUnit {ring : Nat} {c : Cmd} {die tile unit : Nat} {taken : List Nat} {env : Env} (ok : h.Legal) :
    (h.elementUnit ring c die tile unit taken env).Legal := by
  unfold Hw.elementUnit
  dsimp only
  split
  exacts [ok.finishCmd, .endUnit ok (Hw.Legal.unitOut ok ‹_›)]
theorem Hw.Legal.elementAll {ring : Nat} {i : W32} {env : Env} (ok : h.Legal) : (h.elementAll ring i env).Legal := by
  unfold Hw.elementAll
  split
  · exact ok
  · exact .forN ok fun _ _ ok => by split; exacts [ok, by split; exacts [.ite ok (by split; exacts [ok.elementUnit, ok]), ok]]
theorem Hw.Legal.elementOf {ring : Nat} {i : W32} {mode : Nat} {env : Env} (ok : h.Legal) : (h.elementOf ring i mode env).Legal :=
  .onCmd ok fun _ => .ite ok.elementAll ok
theorem execElementProgram_keeps {ring : Nat} {index : W32} {env : Env} : Keeps (execElementProgram ring index env) := .act fun _ ok =>
  ok.elementOf
theorem execElementReduceRow_keeps {ring : Nat} {index : W32} {env : Env} :
    Keeps (execElementReduceRow ring index env) := .act fun _ ok =>
  ok.elementOf
theorem execElementReduceCol_keeps {ring : Nat} {index : W32} {env : Env} :
    Keeps (execElementReduceCol ring index env) := .act fun _ ok =>
  ok.elementOf
theorem execElementTopk_keeps {ring : Nat} {index : W32} {env : Env} : Keeps (execElementTopk ring index env) := .act fun _ ok =>
  ok.elementOf
theorem Hw.Legal.breakSlot {die tile slot : Nat} (ok : h.Legal) : (h.breakSlot die tile slot).Legal :=
  .setRings ok.setDie.setTile (by simp)
theorem Hw.Legal.loadTile {ring : Nat} {c : Cmd} {die tile : Nat} (ok : h.Legal) : (h.loadTile ring c die tile).Legal := by
  unfold Hw.loadTile
  split
  exacts [.ite ok.setTile.setCmd ok, ok]
theorem execLoadProgram_keeps {ring : Nat} {index : W32} : Keeps (execLoadProgram ring index) := .act fun _ ok =>
  .onCmd ok fun _ => by split; exacts [.foldl ok fun _ _ ok => by split; exacts [ok.loadTile, ok], ok]
theorem execProgramLoadTile_keeps {die tile : Nat} : Keeps (execProgramLoadTile die tile) := .act fun _ ok => by
  split
  exacts [ok.loadTile, ok]
theorem execTrgScrub_keeps {die tile : Nat} : Keeps (execTrgScrub die tile) := .actReg fun _ ok => ok.setTile
theorem execSlotScrub_keeps {die tile : Nat} : Keeps (execSlotScrub die tile) := .actReg fun _ ok => ok.setTile
theorem execScrubPerform_keeps {die tile : Nat} : Keeps (execScrubPerform die tile) := .act fun _ ok => .ite ok ok.setTile

/-! ## Machine/Matrix.lean -/

theorem Run.Legal.pagedGrp {r : Run} {t : TD} {dim : Nat} {pages : List (Option (Nat × Nat))} {idx : List Nat} {k : Nat} (ok : r.Legal) :
    (r.pagedGrp t dim pages idx k).2.Legal := by
  unfold Run.pagedGrp
  extract_lets r1 done zero i g half a
  have half_legal : ∀ (r : Run) p, r.Legal → (half r p).2.Legal := by
    intro r p ok
    dsimp only [half]
    split
    · exact ok
    · split
      exacts [ok, ok.readGroups]
  split
  · split
    · exact ok
    · dsimp only
      split
      exacts [Run.Legal.readGroups (r := r1) ok, .read (.readGroups (r := r1) ok)]
  · exact half_legal _ _ (half_legal r1 _ ok)
theorem Run.Legal.operGrp {r : Run} {o : Oper} {idx : List Nat} {k : Nat} (ok : r.Legal) : (r.operGrp o idx k).2.Legal := by
  unfold Run.operGrp
  split
  exacts [ok.grp, ok.pagedGrp]
theorem Run.Legal.pageEntries {r : Run} {t : TD} {dim p list : Nat} {count : Bool} (ok : r.Legal) :
    (r.pageEntries t dim p list count).2.Legal :=
  .ite (.forN_2 ok fun _ _ ok => by dsimp only; split <;> exact .ite ok.read ok.read)
    (.forN_2 ok fun _ _ ok => by dsimp only; split <;> exact .ite ok.read ok.read)
theorem Run.Legal.operGroups {r : Run} {o : Oper} {idx : List Nat} (ok : r.Legal) : (r.operGroups o idx).2.Legal :=
  .forN_2 ok fun _ _ ok => ok.operGrp
theorem Run.Legal.operRow {r : Run} {o : Oper} {idx : List Nat} {count : Bool} (ok : r.Legal) : (r.operRow o idx count).2.Legal :=
  .ite ok.operGroups ok.operGroups
theorem Hw.Legal.giveStrip {ring : Nat} {c : Cmd} {die tile q : Nat} (ok : h.Legal) : (h.giveStrip ring c die tile q).Legal := by
  unfold Hw.giveStrip
  split
  exacts [ok, ok.setTile.setCmd]
theorem Hw.Legal.takeStrip {die tile : Nat} (ok : h.Legal) : (h.takeStrip die tile).Legal :=
  .ite ok (by split; exacts [by split; exacts [ok.giveStrip, ok], ok])
theorem execStripTake_keeps {die tile : Nat} : Keeps (execStripTake die tile) := .act fun _ ok => ok.takeStrip
theorem Run.Legal.fillBank {m : Mat} {pages list batch i j : Nat} {panel : List (List Grp)} {run : Run} (ok : run.Legal) :
    (m.fillBank pages list batch i j panel run).2.2.Legal :=
  .ite
    (by
      split
      · exact .forN_2 (by split; exacts [ok, by split; exacts [ok, ok.pageEntries]]) fun _ _ ok => ok.operRow
      · exact .forN_2 (.forN_2 (by split; exacts [ok, by split; exacts [ok, ok.pageEntries]]) fun _ _ ok => ok.operRow) fun _ _ ok =>
          ok.operGroups)
    (by
      split
      · exact .forN_2 (by split; exacts [ok, by split; exacts [ok, ok.pageEntries]]) fun _ _ ok => ok.operRow
      · exact .forN_2 (.forN_2 (by split; exacts [ok, by split; exacts [ok, ok.pageEntries]]) fun _ _ ok => ok.operRow) fun _ _ ok =>
          ok.operGroups)
theorem Run.Legal.drainRow {m : Mat} {im : Option Image} {st : Option TD} {seed : W64} {tag : Nat × Byte} {t : W32} {batch i j rb : Nat}
    {accs : List Machine.Acc} {po : List Bool} {x : DrainOut} (ok : x.run.Legal) :
    (m.drainRow im st seed tag t batch i j rb accs po x).run.Legal := by
  unfold Mat.drainRow
  dsimp only
  split
  · exact .putRow ok
  · split
    exacts [.putStats (.putRow (.runRow ok)), .putRow (.runRow ok)]
theorem Run.Legal.drainBank {m : Mat} {im : Option Image} {st : Option TD} {seed : W64} {tag : Nat × Byte} {batch i j pos : Nat}
    {b : AccBank} {x : DrainOut} (ok : x.run.Legal) : (m.drainBank im st seed tag batch i j pos b x).run.Legal := by
  unfold Mat.drainBank
  refine .foldl_DrainOut ?_ fun _ _ ok => ok.drainRow
  split <;> split <;> exact ok
theorem Hw.Legal.noteFill {m : Mat} {die tile : Nat} {s : Strip} {last : Bool} {bank : AccBank} {panel : List (List Grp)} (ok : h.Legal) :
    (h.noteFill m die tile s last bank panel).Legal := ok.free.setTile
theorem Hw.Legal.noteDrain {last : Bool} {issue die tile : Nat} {before : Run} {x : DrainOut} (ok : h.Legal) :
    (h.noteDrain last issue die tile before x).Legal := ok.free.setTile
theorem Hw.Legal.tileFill {die : Nat} {s : Strip} {c : Cmd} {pages : Nat} {env : Env} (ok : h.Legal) :
    (h.tileFill die s c pages env).2.2.Legal := .fillBank ok.start.resume.critical
theorem Hw.Legal.fillTile {die tile : Nat} {env : Env} (ok : h.Legal) : (h.fillTile die tile env).Legal := by
  unfold Hw.fillTile
  split
  · exact ok
  · split
    exacts [ok, .ite ok (.ite ok.holdCmd (.ite (.endRun ok ok.tileFill) (.keepRun ok ok.tileFill.noteFill)))]
theorem Hw.Legal.tileDrain {die tile : Nat} {b : OutTile} {c : Cmd} {im : Option Image} {env : Env} (ok : h.Legal) :
    (h.tileDrain die tile b c im env).run.Legal := .spoil (.drainBank ok.start.resume.critical)
theorem Hw.Legal.endDrain {die tile : Nat} {b : OutTile} {c : Cmd} {taken drained : List Nat} {pages : Nat} {im : Option Image} {env : Env}
    (ok : h.Legal) :
    (h.endDrain die tile b c taken drained pages im env).Legal :=
  .ite ok.holdCmd
    (.ite (.ite (.keepRun ok ok.tileDrain.noteDrain) (.finishCmd (.keepRun ok ok.tileDrain.noteDrain)))
      (.ite (.setCmd (.endRun ok ok.tileDrain.noteDrain)) (.keepRun ok ok.tileDrain.noteDrain)))
theorem Hw.Legal.drainBank {die tile : Nat} {env : Env} (ok : h.Legal) : (h.drainBank die tile env).Legal := by
  unfold Hw.drainBank
  split
  · exact ok
  · split
    exacts [ok, .ite ok (.ite ok.finishCmd ok.endDrain)]
theorem Hw.Legal.drainTile {die tile : Nat} {env : Env} (ok : h.Legal) : (h.drainTile die tile env).Legal :=
  ok.fillTile.drainBank.takeStrip.fillTile
theorem execOutputTileDrain_keeps {die tile : Nat} {env : Env} : Keeps (execOutputTileDrain die tile env) := .act fun _ ok => ok.drainTile
theorem Hw.Legal.matmulMove {ring : Nat} {i : W32} {env : Env} (ok : h.Legal) : (h.matmulMove ring i env).Legal := by
  unfold Hw.matmulMove
  split
  · exact ok
  · split
    · exact ok
    · dsimp only
      split
      · exact ok.drainTile
      · split
        · exact ok.takeStrip
        · split
          exacts [ok.drainTile, ok]
theorem execMatmul_keeps {ring : Nat} {index : W32} {env : Env} : Keeps (execMatmul ring index env) := .act fun _ ok =>
  .onCmd ok fun _ => .forN ok fun _ _ ok => ok.matmulMove

/-! ## Machine/Sync.lean -/

theorem Hw.Legal.block {r : Nat} {i : W32} (ok : h.Legal) : (h.block r i).Legal := ok.setCmd
theorem Hw.Legal.conflict {r : Nat} {i : W32} {reason : Nat} (ok : h.Legal) : (h.conflict r i reason).Legal := ok.finishCmd
theorem Hw.Legal.signalOwn {r : Nat} {i : W32} {n idx : Nat} {set : Bool} {v : W64} (ok : h.Legal) : (h.signalOwn r i n idx set v).Legal :=
  .ite ok.conflict ok.sendSync.block
theorem Hw.Legal.signalRemote {r : Nat} {i : W32} {src target : Coord} {idx : Nat} {set : Bool} {v : W64} (ok : h.Legal) :
    (h.signalRemote r i src target idx set v).Legal := by
  unfold Hw.signalRemote
  dsimp only
  split
  exacts [ok.signalOwn, ok.finishCmd, ok.finishCmd, ok.sendAs.block]
theorem Hw.Legal.signalBody {r : Nat} {i : W32} {src : Coord} {b : List Byte} (ok : h.Legal) : (h.signalBody r i src b).Legal :=
  .ite (.ite ok ok.signalRemote)
    (.ite (.ite ok ok.sendSync.block) (by split; exacts [ok.conflict, .ite ok.finishCmd (.ite (.ite ok ok.sendSync.block) ok.conflict)]))
theorem execSignal_keeps {ring : Nat} {index : W32} : Keeps (execSignal ring index) := .act fun _ ok =>
  .onCmd ok fun _ => .ite ok.signalBody ok
theorem execWait_keeps {ring : Nat} {index : W32} : Keeps (execWait ring index) := .act fun _ ok =>
  .onCmd ok fun _ =>
    .ite ok
      (.ite ok.conflict
        (.ite ok.conflict
          (.ite (.ite (.finishCmd (.ite ok.acquire ok)) ok.block)
            (by split; exacts [.ite ok.finishCmd (.ite (.finishCmd (.ite ok.acquire ok)) ok.block), ok]))))
theorem Hw.Legal.setAndSatisfy {o : Nat} {v : W64} (ok : h.Legal) : (h.setAndSatisfy o v).Legal :=
  .forN (.setRings ok.setObj (by simp)) fun _ _ ok => ok.acquire
theorem Hw.Legal.applySync {o : SyncOp} (ok : h.Legal) : (h.applySync o).Legal := by
  unfold Hw.applySync
  dsimp only
  split
  · exact .sendCtx
      (by
        split
        · exact .finishCmd (.setAndSatisfy (.ite (by split; exacts [ok.evCtx, ok]) ok))
        · exact .setAndSatisfy (.ite (by split; exacts [ok.evCtx, ok]) ok))
  · split
    · exact .finishCmd (.setAndSatisfy (.ite (by split; exacts [ok.evCtx, ok]) ok))
    · exact .setAndSatisfy (.ite (by split; exacts [ok.evCtx, ok]) ok)
theorem execSyncOperation_keeps {n : Nat} {ue : Bool} : Keeps (execSyncOperation n ue) := .act fun _ ok => by
  split
  · exact ok
  · exact .ite ok
      (.ite (.applySync (.of_kept ok rfl))
        (by dsimp only; split; exacts [.faultCtx (.ueFound (.free (.of_kept ok rfl))), .ueFound (.free (.of_kept ok rfl))]))

/-! ## Machine/Prefetch.lean -/

theorem Run.Legal.retain {r : Run} {n : Nat} {p : PrefEntry} {d : TD} {got : List (Nat × List Byte × Nat)} (ok : r.Legal) :
    Gives (fun x : Run × Bool => x.1.Legal) (r.retain n p d got) := by
  unfold Run.retain
  dsimp only
  refine .ite .none ?_
  split
  · exact .none
  · exact .ite (.some (Hw.Legal.setCtx ok)) (.ite .none (.some (Hw.Legal.setCtx (Hw.Legal.applyWrites ok))))
theorem Run.Legal.group {x : Delivery} {n : Nat} {p : PrefEntry} {v : View} {hit : Option Retained} (ok : x.run.Legal) :
    (x.group n p v hit).run.Legal := by
  unfold Delivery.group
  extract_lets t q r0 y r1 r
  have oky : y.2.Legal := by
    dsimp only [y]
    split
    exacts [.ite_2 ok ok, ok.grp]
  have okr : r.Legal := by
    dsimp only [r]
    split
    exacts [oky, oky.put]
  exact .ite_Delivery ok (.ite_Delivery oky (.ite_Delivery oky okr))
theorem Run.Legal.groups {n : Nat} {p : PrefEntry} {v : View} {hit : Option Retained} {k : Nat} {x : Delivery} (ok : x.run.Legal) :
    (Delivery.groups n p v hit k x).run.Legal := by
  induction k generalizing x with
  | zero => exact ok
  | succ k ih =>
    unfold Delivery.groups
    dsimp only
    split
    exacts [ok.group, ih ok.group]
theorem Hw.Legal.prefAdvance {ring : Nat} {c : Cmd} {e groups : Nat} {env : Env} (ok : h.Legal) :
    Gives (fun a : Advance => a.run.Legal) (h.prefAdvance ring c e groups env) := by
  unfold Hw.prefAdvance
  extract_lets n p s r0 r first hit r1 st v r2 v1 total r3 x got r4 h1 all
  have ok0 : r0.Legal := ok.start.resume
  have ok1 : r1.Legal := .ite (r := { r with h := _ }) (Hw.Legal.setCtx ok0) ok0
  have okv : v.2.Legal := .ite_2 ok1 ok1.view
  have okv1 : v1.2.Legal := .ite_2 okv okv
  have okx : x.run.Legal := .groups okv1
  refine .ite .none (.ite (.some okv1) (.ite .none (.ite (.some okx) (.ite (.some okx) (.ite (.some okx) ?_)))))
  split
  · exact .ite (.ite (.some okx) (.some (Hw.Legal.setCtx okx))) (.some okx)
  · refine .ite ?_ (.some okx)
    split
    · exact .none
    next e => exact .some (okx.retain e)
  · exact .some okx
theorem Hw.Legal.prefetchEnd {ring : Nat} {c : Cmd} {fail : Option (Nat × Nat)} {env : Env} (ok : h.Legal) :
    (h.prefetchEnd ring c fail env).Legal := .setCmd (.endRun ok ok.start.resume.writeEntries)
theorem Hw.Legal.prefetchBegin {ring : Nat} {c : Cmd} (ok : h.Legal) : (h.prefetchBegin ring c).Legal :=
  .ite ok.conflict (.ite ok.conflict (by split; exacts [.ite ok.finishCmd (.setCmd (.ite ok.acquire ok)), .setCmd (.ite ok.acquire ok)]))
theorem execWaitPrefetch_keeps {ring : Nat} {index : W32} {entry groups : Nat} {env : Env} :
    Keeps (execWaitPrefetch ring index entry groups env) := .act fun _ ok =>
  .onCmd ok fun _ =>
    .ite ok.prefetchBegin
      (.ite (.ite ok ok.prefetchEnd)
        (by
          split
          · exact ok
          · exact .ite ok
              (by
                split
                · exact ok.stallCmd
                · dsimp only
                  split
                  · exact .prefetchEnd (.keepRun ok (Hw.Legal.prefAdvance ok ‹_›))
                  · exact .keepRun ok (Hw.Legal.prefAdvance ok ‹_›))))

/-! ## Machine/Channels.lean -/

theorem Hw.Legal.setChan {n k : Nat} {f : Channel → Channel} (ok : h.Legal) : (h.setChan n k f).Legal := ok.setCtx
theorem Hw.Legal.stall {n k : Nat} (ok : h.Legal) : (h.stall n k).Legal := ok.free.setChan
theorem Hw.Legal.noteSent {o : OutMsg} (ok : h.Legal) : (h.noteSent o).Legal := by
  unfold Hw.noteSent
  split
  · split
    exacts [ok.setChan, ok]
  · exact ok
theorem Hw.Legal.chanGone {n : Nat} {peer : Coord} (ok : h.Legal) : (h.chanGone n peer).Legal :=
  .foldl ok fun _ _ ok => .ite ok (.foldl ok fun _ _ ok => .ite ok.stall.finishCmd ok)
theorem Hw.Legal.grant {n k : Nat} (ok : h.Legal) : (h.grant n k).Legal := by
  unfold Hw.grant
  split
  exacts [.ite ok.sendCtx ok, ok]
theorem execGrantResend_keeps {ctx chan : Nat} : Keeps (execGrantResend ctx chan) := .act fun _ ok => .ite ok.grant ok
theorem Hw.Legal.takeGrant {n : Nat} {peer : Coord} {chan peerChan slots slotBytes : Nat} (ok : h.Legal) :
    (h.takeGrant n peer chan peerChan slots slotBytes).Legal := by
  unfold Hw.takeGrant
  split
  exacts [.ite (.sendCtx (.ite ok ok.setChan)) ok, ok]
theorem execChannelGrant_keeps {ctx : Nat} {peer : Coord} {chan peerChan slots slotBytes : Nat} :
    Keeps (execChannelGrant ctx peer chan peerChan slots slotBytes) := .act fun _ ok =>
  ok.takeGrant
theorem Hw.Legal.takeCredit {n k count : Nat} (ok : h.Legal) : (h.takeCredit n k count).Legal := ok.setChan
theorem execChannelCreditReturn_keeps {ctx chan count : Nat} : Keeps (execChannelCreditReturn ctx chan count) := .act fun _ ok =>
  ok.takeCredit
theorem Hw.Legal.slotWrite {n k seq : Nat} {bytes : List Byte} {poisoned : List Nat} {lo hi : Nat} {env : Env} (ok : h.Legal) :
    Gives Hw.Legal (h.slotWrite n k seq bytes poisoned lo hi env) := by
  unfold Hw.slotWrite
  dsimp only
  split
  · exact .some ok
  · exact .ite (.some ok) (.ite .none (.some (Run.Legal.finish (.failing
      (.forN (.ite ok.free.start.write ok.free.start) fun _ _ ok => .ite ok.write ok)))))
theorem Hw.Legal.landMessage {n k seq : Nat} {shape : Shape} {bytes : List Byte} {poisoned : List Nat} {env : Env} {done : Nat} (ok : h.Legal) :
    (h.landMessage n k seq shape bytes poisoned env done).Legal := by
  unfold Hw.landMessage
  dsimp only
  split
  · exact ok
  · exact .ite ok (by split; exacts [.of_kept ok.applyEnv rfl, .sendCtx (.setChan (.slotWrite ok ‹_›))])
theorem execChannelMessageArrive_keeps {ctx chan seq : Nat} {shape : Shape} {bytes : List Byte} {poisoned : List Nat} {env : Env} :
    Keeps (execChannelMessageArrive ctx chan seq shape bytes poisoned env) := .act fun _ ok =>
  ok.landMessage
theorem Hw.Legal.sendBegin {ring : Nat} {c : Cmd} {k : Nat} (ok : h.Legal) : (h.sendBegin ring c k).Legal :=
  ok.stall.setChan.takeEngine.setCmd
theorem Run.Legal.gatherMessage {r : Run} {v : View} (ok : r.Legal) : (r.gatherMessage v).2.Legal := .forN_2 ok fun _ _ ok => ok.grp
theorem Hw.Legal.sendMessage {ring : Nat} {c : Cmd} {k : Nat} {e : ChanEntry} {env : Env} (ok : h.Legal) :
    (h.sendMessage ring c k e env).Legal :=
  .ite ok (.ite (.setChan (.endRun ok ok.moveRun.gatherMessage)) ok.moveRun.gatherMessage.finish.setChan.setCmd.sendCtx)
theorem execSend_keeps {ring : Nat} {index : W32} {env : Env} : Keeps (execSend ring index env) := .act fun _ ok =>
  .onCmd ok fun _ =>
    .ite ok
      (by
        split
        · exact ok.conflict
        · exact ok.conflict
        · split
          · exact .finishCmd (.ite ok ok.stall)
          · exact .finishCmd (.ite ok ok.stall)
          · exact .ite ok.sendMessage (.ite ok (.ite ok.stall.conflict ok.sendBegin)))
theorem Hw.Legal.sendDelivered {n k seq : Nat} (ok : h.Legal) : (h.sendDelivered n k seq).Legal := by
  unfold Hw.sendDelivered
  dsimp only
  split
  · exact ok
  · split
    exacts [.setCmd (.of_kept ok rfl), .of_kept ok rfl]
theorem Hw.Legal.recvCopy {ring : Nat} {c : Cmd} {k : Nat} {e : ChanEntry} {seq : Nat} {env : Env} (ok : h.Legal) :
    (h.recvCopy ring c k e seq env).Legal :=
  .ite ok (.ite (.endRun ok ok.moveRun.copyTensor) (.sendCtx (.setChan (.endRun ok ok.moveRun.copyTensor))))
theorem execRecv_keeps {ring : Nat} {index : W32} {env : Env} : Keeps (execRecv ring index env) := .act fun _ ok =>
  .onCmd ok fun _ =>
    .ite ok
      (by
        split
        · exact ok.conflict
        · exact ok.conflict
        · split
          · split
            exacts [ok.stall.finishCmd, ok.stall.finishCmd, ok]
          · exact .ite ok.stall.conflict (.ite ok.stall.takeEngine.setCmd ok.recvCopy))
theorem Hw.Legal.fetchTimeout {r : Nat} (ok : h.Legal) : (h.fetchTimeout r).Legal := by
  unfold Hw.fetchTimeout
  dsimp only
  split
  exacts [ok, ok.putFetched]
theorem Hw.Legal.withdraw {m : OutMsg} {chan seq : Nat} (ok : h.Legal) : (h.withdraw m chan seq).Legal := .of_kept ok rfl
theorem Hw.Legal.sendTimeout {n ring : Nat} {c : Cmd} (ok : h.Legal) : (h.sendTimeout n ring c).Legal :=
  .ite (.finishCmd (.ite ok.setChan ok.stall)) (by split; exacts [by split; exacts [.ite ok ok.withdraw.setChan.finishCmd, ok], ok])
theorem Hw.Legal.accessTimeout {c : Cmd} (ok : h.Legal) : (h.accessTimeout c).Legal := .foldl ok fun _ _ ok => .ite ok.loseAccess ok
theorem execCommandTimeout_keeps {ring : Nat} {index : W32} : Keeps (execCommandTimeout ring index) := .act fun _ ok => by
  split
  · exact .ite ok.prefetchEnd
      (.ite ok.accessTimeout
        (.ite ok
          (.ite (.ite ok.finishCmd ok)
            (.ite ok (.ite ok.sendTimeout (.ite (.ite ok ok.stall.finishCmd) (.ite (.ite ok.finishCmd ok) (.ite ok.finishCmd ok))))))))
  · exact .ite ok.fetchTimeout ok

/-! ## Machine/Training.lean -/

theorem Run.Legal.scan {r : Run} {t : TD} (ok : r.Legal) : (r.scan t).2.Legal := .forN_2 ok fun _ _ ok => ok.loadGroup
theorem Run.Legal.gradRow {r : Run} {t : TD} {k : Int} {idx : List Nat} {j : Nat} (ok : r.Legal) : (r.gradRow t k idx j).2.Legal :=
  .foldl_2 ok fun _ _ ok => by dsimp only; split; exacts [ok.grp, ok]
theorem Run.Legal.stateRow {u : Upd} {r : Run} {idx : List Nat} {k j : Nat} (ok : r.Legal) : (u.stateRow r idx k j).2.Legal := by
  unfold Upd.stateRow
  split
  · split
    exacts [ok.loadRow, ok]
  · exact ok
theorem Run.Legal.row {u : Upd} {im : Image} {stepExp : Int} {seed : W64} {tag : Nat × Byte} {batch row rb j : Nat} {x : UnitOut}
    (ok : x.run.Legal) : (u.row im stepExp seed tag batch row rb j x).run.Legal := by
  unfold Upd.row
  dsimp only
  split
  · exact .putRow
      (by
        split
        · exact .forN (.putRow (.foldl_VRow ok.loadRow.gradRow.stateRow.stateRow fun _ _ ok => ok.instr)) fun _ _ ok => ok.putRow
        · exact .putRow (.foldl_VRow ok.loadRow.gradRow.stateRow.stateRow fun _ _ ok => ok.instr))
  · split
    · exact .forN (.putRow (.foldl_VRow ok.loadRow.gradRow.stateRow.stateRow fun _ _ ok => ok.instr)) fun _ _ ok => ok.putRow
    · exact .putRow (.foldl_VRow ok.loadRow.gradRow.stateRow.stateRow fun _ _ ok => ok.instr)
theorem Run.Legal.unit {u : Upd} {im : Image} {stepExp : Int} {seed : W64} {tag : Nat × Byte} {n : Nat} {x : UnitOut} (ok : x.run.Legal) :
    (u.unit im stepExp seed tag n x).run.Legal := .forN_run ok fun _ _ ok => .forN_run ok fun _ _ ok => ok.row
theorem Hw.Legal.updateOut {ring : Nat} {c : Cmd} {die tile unit : Nat} {env : Env} (ok : h.Legal) :
    Gives (fun u : UnitOut => u.run.Legal) (h.updateOut ring c die tile unit env) := .map fun _ => .spoil (.unit ok.start.resume.critical)
theorem Hw.Legal.updateUnit {ring : Nat} {c : Cmd} {die tile unit : Nat} {dies taken : List Nat} {env : Env} (ok : h.Legal) :
    (h.updateUnit ring c die tile unit dies taken env).Legal := by
  unfold Hw.updateUnit
  split
  exacts [ok.finishCmd, .endUnit ok (Hw.Legal.updateOut ok ‹_›)]
theorem Hw.Legal.updateVerdict {ring : Nat} {c : Cmd} {env : Env} (ok : h.Legal) : (h.updateVerdict ring c env).Legal := by
  unfold Hw.updateVerdict
  extract_lets n u x r0 r y
  have ok2 : y.2.Legal := .ite_2 ok.start.resume.critical ok.start.resume.critical.scan
  exact .ite ok.conflict
    (.ite ok.holdCmd
      (.ite (.endRun ok ok2)
        (.ite (.setCmd (Run.Legal.finish (.ite (.setCtx ok2) ok2)))
          (.ite (.setCmd (Run.Legal.finish (.ite (.setCtx ok2) ok2))) (.setCmd (.keepRun ok (.ite (.setCtx ok2) ok2)))))))
theorem execUpdate_keeps {ring : Nat} {index : W32} {env : Env} : Keeps (execUpdate ring index env) := .act fun _ ok =>
  .onCmd ok fun _ =>
    .forN (.ite ok ok.updateVerdict) fun _ _ ok => by
      split
      · exact ok
      · split
        · exact .ite ok (by split; exacts [ok.updateUnit, ok])
        · exact ok
theorem Hw.Legal.runUnit {ring : Nat} {c : Cmd} {die tile unit : Nat} {env : Env} (ok : h.Legal) :
    (h.runUnit ring c die tile unit env).Legal := by
  unfold Hw.runUnit
  split
  exacts [.ite ok.updateUnit ok.elementUnit, ok]
theorem execUnitTake_keeps {die tile : Nat} {env : Env} : Keeps (execUnitTake die tile env) := .act fun _ ok => by
  split
  · exact .ite ok.runUnit ok
  · split
    · exact ok
    · split
      exacts [ok.runUnit, ok]
theorem Hw.Legal.lossRun {ring : Nat} {c : Cmd} (ok : h.Legal) : (h.lossRun ring c).Legal := ok.start.resume.write
theorem execLossScaleWrite_keeps {ring : Nat} {index : W32} : Keeps (execLossScaleWrite ring index) := .act fun _ ok =>
  .onCmd ok fun _ => .ite ok (.endRun ok ok.lossRun)
theorem execLossScaleSet_keeps {ring : Nat} {index : W32} : Keeps (execLossScaleSet ring index) := .act fun _ ok =>
  .onCmd ok fun _ => .ite ok (.ite ok.conflict ok.setCtx.finishCmd)
theorem Hw.Legal.statsRun {ring : Nat} {c : Cmd} (ok : h.Legal) : (h.statsRun ring c).Legal := .forN ok.start.resume fun _ _ ok => ok.write
theorem execStatsRead_keeps {ring : Nat} {index : W32} : Keeps (execStatsRead ring index) := .act fun _ ok =>
  .onCmd ok fun _ => .endRun ok ok.statsRun

/-! ## Machine/CollShape.lean -/

theorem Run.Legal.readRow {k : Coll} {r : Run} {idx : List Nat} {c0 n : Nat} (ok : r.Legal) : (k.readRow r idx c0 n).2.Legal :=
  .foldl_2 ok fun _ _ ok => ok.grp
theorem Run.Legal.readLocal {k : Coll} {r : Run} {g l : Nat} (ok : r.Legal) : (k.readLocal r g l).2.Legal := ok.readRow
theorem Run.Legal.readGroup {k : Coll} {r : Run} {g : Nat} (ok : r.Legal) : (k.readGroup r g).2.Legal :=
  .foldl_2 ok.readLocal fun _ _ ok => ok.readLocal
theorem Run.Legal.readSlice {k : Coll} {r : Run} {d : Nat} (ok : r.Legal) : (k.readSlice r d).2.Legal :=
  .forN_2 ok fun _ _ ok => ok.readGroup

/-! ## Machine/Collective.lean -/

theorem Hw.Legal.setSlice {k : Coll} {d : Nat} {f : Slice → Slice} (ok : h.Legal) : (h.setSlice k d f).Legal := ok.setCmd
theorem Hw.Legal.countSat {k : Coll} {n : Nat} (ok : h.Legal) : (h.countSat k n).Legal := ok.setCmd
theorem Hw.Legal.countRange {k : Coll} {n : Nat} (ok : h.Legal) : (h.countRange k n).Legal := ok.setCmd
theorem Hw.Legal.collSend {k : Coll} {d : Nat} {dst : Coord} {must : Bool} {m : Msg} (ok : h.Legal) : (h.collSend k d dst must m).Legal := by
  unfold Hw.collSend
  split
  · exact ok
  · split
    exacts [.ite ok.finishCmd ok, .ite ok.finishCmd ok, .setOutMsgs (.sendAs (by split; exacts [ok.setCtx, ok]))]
theorem Hw.Legal.giveCredit {k : Coll} {d : Nat} {peer : Coord} {count : Nat} (ok : h.Legal) : (h.giveCredit k d peer count).Legal :=
  .ite ok.finishCmd (.ite ok.finishCmd ok.sendAs)
theorem Hw.Legal.collDone {k : Coll} (ok : h.Legal) : (h.collDone k).Legal := by
  unfold Hw.collDone
  split
  · exact ok
  · split
    exacts [.ite ok (.finishCmd (.ite (.setCtx (.ite ok.setCtx ok)) (.ite ok.setCtx ok))), ok]
theorem Hw.Legal.sliceEnd {k : Coll} {d : Nat} (ok : h.Legal) : (h.sliceEnd k d).Legal := .ite ok.setSlice.setDie.collDone ok
theorem Hw.Legal.takeCollCredits {n : Nat} {peer : Coord} {id : W16} {step : W32} {d : Nat} {twin : Bool} {count : Nat} (ok : h.Legal) :
    (h.takeCollCredits n peer id step d twin count).Legal :=
  .ite (by split; exacts [.ite (.sliceEnd (.setSlice (.of_kept ok rfl))) (.of_kept ok rfl), .of_kept ok rfl])
    (.setCtx (by split; exacts [.ite (.sliceEnd (.setSlice (.of_kept ok rfl))) (.of_kept ok rfl), .of_kept ok rfl]))
theorem Hw.Legal.writeResults {k : Coll} {d : Nat} {us : List (Nat × List W64 × List Bool)} {env : Env} (ok : h.Legal) :
    (h.writeResults k d us env).Legal := by
  unfold Hw.writeResults
  split
  · exact ok
  · extract_lets r0 r1 r mine
    have ok2 : r.Legal := .foldl (r := r1) ok.applyEnv fun _ _ ok => .ite ok ok.putGroup
    exact .ite (.endRun ok ok2) (.ite (.setSlice (.keepRun ok ok2)) (.keepRun ok ok2))
theorem Hw.Legal.applyResults {k : Coll} {d : Nat} {m : CollMsg} {us : List (Nat × List W64 × List Bool)} {via : Option Nat} {env : Env}
    (ok : h.Legal) :
    (h.applyResults k d m us via env).Legal := .sliceEnd (.setSlice (.writeResults (.foldl ok fun _ _ ok => ok.collSend)))
theorem Hw.Legal.finishUnits {k : Coll} {d : Nat} {r : Nat × Nat} (ok : h.Legal) : (h.finishUnits k d r).Legal :=
  .foldl ok fun _ _ ok => ok.setCmd.applyResults
theorem Hw.Legal.ringBegin {k : Coll} {d : Nat} (ok : h.Legal) : (h.ringBegin k d).Legal := .foldl ok fun _ _ ok => ok.collSend
theorem Hw.Legal.ringAdvance {f : Nat} {k : Coll} {d : Nat} (ok : h.Legal) : (Hw.ringAdvance f h k d).Legal := by
  induction f generalizing h with
  | zero => exact ok
  | succ f ih => exact .ite ok (.ite (.ite ok.setSlice.finishUnits (ih ok.setSlice.ringBegin)) ok)
theorem Hw.Legal.ringTake {k : Coll} {d : Nat} {m : CollMsg} {src : Coord} (ok : h.Legal) : (h.ringTake k d m src).Legal :=
  .ite ok.countSat.giveCredit.setSlice.ringAdvance ok.countSat.giveCredit.collSend
theorem Hw.Legal.treeAdd {k : Coll} {d q : Nat} (ok : h.Legal) : (h.treeAdd k d q).Legal :=
  .setSlice (.foldl ok fun _ _ ok => ok.countSat.setSlice)
theorem Hw.Legal.treeStep {f : Nat} {k : Coll} {d : Nat} {expired : Bool} (ok : h.Legal) : (Hw.treeStep f h k d expired).Legal := by
  induction f generalizing h expired with
  | zero => exact ok
  | succ f ih =>
    unfold Hw.treeStep
    extract_lets s a p kids here h1 s1
    have ok1 : h1.Legal := .foldl ok fun _ _ ok => ok.treeAdd
    exact .ite ok
      (.ite ok
        (.ite (.sliceEnd (.foldl ok1.setSlice fun _ _ ok => ok.collSend)) (.ite ok1.setSlice.finishUnits (ih ok1.setSlice))))
theorem Hw.Legal.lateAnswer {src : Coord} {m : CollMsg} {msgId : W16} {step : W32} (ok : h.Legal) : (h.lateAnswer src m msgId step).Legal :=
  ok.nack.setDie
theorem Hw.Legal.takeWaiting {f : Nat} {k : Coll} {d : Nat} (ok : h.Legal) : (Hw.takeWaiting f h k d).Legal := by
  induction f generalizing h with
  | zero => exact ok
  | succ f ih =>
    unfold Hw.takeWaiting
    dsimp only
    split
    exacts [ok, ih (.ite ok.setSlice.setSlice.giveCredit.treeStep ok.setSlice.ringTake)]
theorem Hw.Legal.takePartial {n : Nat} {m : CollMsg} {src : Coord} {msgId : W16} (ok : h.Legal) : (h.takePartial n m src msgId).Legal :=
  .ite (.of_kept ok rfl)
    (by split; exacts [.ite ok.lateAnswer ok, .ite (.ite ok.lateAnswer ok) (.ite ok (.ite ok.lateAnswer ok.setSlice.takeWaiting))])
theorem execCollPartialReceive_keeps {ctx : Nat} {m : CollMsg} {src : Coord} {msgId : W16} :
    Keeps (execCollPartialReceive ctx m src msgId) := .act fun _ ok =>
  ok.takePartial
theorem Hw.Legal.takeResult {n : Nat} {m : CollMsg} {src : Coord} {env : Env} (ok : h.Legal) : (h.takeResult n m src env).Legal :=
  .ite (.of_kept ok.applyEnv rfl) (by split; exacts [ok, .ite ok ok.giveCredit.applyResults])
theorem execCollResultReceive_keeps {ctx : Nat} {m : CollMsg} {src : Coord} {env : Env} :
    Keeps (execCollResultReceive ctx m src env) := .act fun _ ok =>
  ok.takeResult
theorem execTreeDeadlineExpiry_keeps {ring : Nat} {index : W32} {die : Nat} :
    Keeps (execTreeDeadlineExpiry ring index die) := .act fun _ ok => by
  split
  · exact ok
  · split
    exacts [ok, .ite ok.treeStep.takeWaiting ok]
theorem Hw.Legal.dropCarry {k : Coll} {d cause : Nat} (ok : h.Legal) : (h.dropCarry k d cause).Legal := ok.countRange.setDie.evCtx
theorem Hw.Legal.storeCarry {k : Coll} {d : Nat} (ok : h.Legal) : (h.storeCarry k d).Legal :=
  .ite ok.dropCarry (by split; exacts [.ite ok.countSat.setCtx ok.dropCarry, .ite ok.dropCarry ok.setCtx])
theorem Hw.Legal.sliceLate {k : Coll} {d : Nat} {dst : Coord} (ok : h.Legal) : (h.sliceLate k d dst).Legal :=
  .ite (.of_kept ok rfl) (.sliceEnd (.ite (.storeCarry (.setSlice (.of_kept ok rfl))) (.setSlice (.of_kept ok rfl))))
theorem Hw.Legal.takeLate {o : OutMsg} (ok : h.Legal) : (h.takeLate o).Legal := by
  unfold Hw.takeLate
  split
  · dsimp only
    split
    exacts [.sliceLate (.setDie (.of_kept ok rfl)), .setDie (.of_kept ok rfl)]
  · exact ok
theorem Hw.Legal.useCarry {k : Coll} {d : Nat} {xs : List (W64 × Bool)} (ok : h.Legal) : (h.useCarry k d xs).2.Legal := by
  unfold Hw.useCarry
  split
  · exact ok
  · dsimp only
    split
    exacts [ok.setCtx.countSat, ok.setCtx.dropCarry]
theorem Hw.Legal.sliceBegin {k : Coll} {d : Nat} (ok : h.Legal) : (h.sliceBegin k d).Legal :=
  .ite ok.sliceEnd (.ite ok.finishUnits (.ite ok.treeStep ok.ringBegin.ringAdvance))
theorem Hw.Legal.gatherSlice {k : Coll} {c : Cmd} {d : Nat} {env : Env} (ok : h.Legal) : (h.gatherSlice k c d env).2.Legal :=
  .foldl_2 ok.start.resume fun _ _ ok => ok.grp
theorem Hw.Legal.gatherBegin {k : Coll} {c : Cmd} {d : Nat} {env : Env} (ok : h.Legal) : (h.gatherBegin k c d env).Legal :=
  .ite ok
    (.ite (.endRun ok ok.gatherSlice)
      (.sliceEnd
        (.foldl (.foldl (.setDie (.setSlice (.keepRun ok ok.gatherSlice))) fun _ _ ok => ok.giveCredit) fun _ _ ok => ok.applyResults)))
theorem Hw.Legal.startSlice {ring : Nat} {index : W32} {d : Nat} {env : Env} (ok : h.Legal) : (h.startSlice ring index d env).Legal := by
  unfold Hw.startSlice
  split
  · exact ok
  · split
    · exact ok
    · exact .ite ok
        (.ite ok.gatherBegin
          (.ite ok
            (.ite (.endRun ok ok.start.resume.readSlice)
              (.sliceBegin (.foldl (.setDie (.setSlice (.useCarry (.keepRun ok ok.start.resume.readSlice)))) fun _ _ ok => ok.giveCredit)))))
theorem execCollSliceStart_keeps {ring : Nat} {index : W32} {die : Nat} {env : Env} :
    Keeps (execCollSliceStart ring index die env) := .act fun _ ok =>
  ok.startSlice
theorem Hw.Legal.startSlices {ring : Nat} {index : W32} {env : Env} (ok : h.Legal) : (h.startSlices ring index env).Legal :=
  .forN ok fun _ _ ok => ok.startSlice
theorem execReduce_keeps {ring : Nat} {index : W32} {env : Env} : Keeps (execReduce ring index env) := .act fun _ ok =>
  .onCmd ok fun _ => ok.startSlices
theorem execAllgather_keeps {ring : Nat} {index : W32} {env : Env} : Keeps (execAllgather ring index env) := .act fun _ ok =>
  .onCmd ok fun _ => ok.startSlices
theorem execReduceScatter_keeps {ring : Nat} {index : W32} {env : Env} : Keeps (execReduceScatter ring index env) := .act fun _ ok =>
  .onCmd ok fun _ => ok.startSlices
theorem execCollectiveTimeout_keeps {ring : Nat} {index : W32} : Keeps (execCollectiveTimeout ring index) := .act fun _ ok => by
  split
  exacts [.ite ok.finishCmd ok, ok]
theorem Hw.Legal.collSettle {ring : Nat} {index : W32} (ok : h.Legal) : (h.collSettle ring index).Legal := by
  unfold Hw.collSettle
  split
  exacts [.foldl ok fun _ _ ok => ok.sliceEnd, ok]
theorem execCommandComplete_keeps {ring : Nat} {index : W32} : Keeps (execCommandComplete ring index) := .act fun _ ok => by
  dsimp only
  split
  exacts [.ite ok.collSettle (.ite ok.collSettle.signalEarly ok.collSettle.complete), ok.collSettle]
theorem Hw.Legal.agreed {ring : Nat} {index : W32} {step : Nat} {bit : Bool} (ok : h.Legal) : (h.agreed ring index step bit).Legal :=
  ok.setCtx.finishCmd
theorem Hw.Legal.agreeSend {ring : Nat} {index : W32} {me dst : Coord} {m : Msg} (ok : h.Legal) : (h.agreeSend ring index me dst m).Legal := by
  unfold Hw.agreeSend
  split
  exacts [ok.finishCmd, ok.finishCmd, ok.sendAs]
theorem Hw.Legal.agreeCheck {ring : Nat} {c : Cmd} {b : List Byte} {twin : Bool} (ok : h.Legal) : (h.agreeCheck ring c b twin).Legal :=
  .ite ok (.agreed (.foldl ok.setCtx fun _ _ ok => ok.agreeSend))
theorem Hw.Legal.agreeBegin {ring : Nat} {c : Cmd} {b : List Byte} {twin : Bool} (ok : h.Legal) : (h.agreeBegin ring c b twin).Legal :=
  .ite ok.setCmd.setCtx.agreeCheck ok.setCmd.agreeSend
theorem execLossScaleAgree_keeps {ring : Nat} {index : W32} : Keeps (execLossScaleAgree ring index) := .act fun _ ok =>
  .onCmd ok fun _ => .ite ok ok.agreeBegin
theorem Hw.Legal.takeAgree {n : Nat} {peer : Coord} {id : W16} {step : W32} {twin bit final : Bool} (ok : h.Legal) :
    (h.takeAgree n peer id step twin bit final).Legal :=
  .ite (by split; exacts [ok.agreed, ok]) (by dsimp only; split; exacts [ok.setCtx.agreeCheck, ok.setCtx])

/-! ## Machine/Messages.lean -/

theorem Hw.Legal.takeApplied {n : Nat} {id : W16} {applied : Bool} (ok : h.Legal) : (h.takeApplied n id applied).Legal := by
  unfold Hw.takeApplied
  dsimp only
  split
  · exact ok
  · split
    exacts [.ite (.finishCmd (.of_kept ok rfl)) (.conflict (.of_kept ok rfl)), .of_kept ok rfl]
theorem Hw.Legal.takeBlockReply {n : Nat} {src : Coord} {addr : W64} {served : Bool} (ok : h.Legal) :
    (h.takeBlockReply n src addr served).Legal := by
  unfold Hw.takeBlockReply
  dsimp only
  split
  exacts [.ite (.ackAccess (.of_kept ok rfl)) (.loseAccess (.of_kept ok rfl)), .of_kept ok rfl]
theorem Hw.Legal.takeAccessReply {src : Coord} {da : W64} (ok : h.Legal) : (h.takeAccessReply src da).Legal := ok.ackAccess
theorem Hw.Legal.takeMessage {n : Nat} {src : Coord} {srcCtx : Nat} {id : W16} {m : Msg} {env : Env} {done : Nat} (ok : h.Legal) :
    (h.takeMessage n src srcCtx id m env done).Legal := by
  unfold Hw.takeMessage
  dsimp only
  split
  · exact .ite ok.sendCtx ok.sendSync
  · exact ok.takeApplied
  · exact ok.landMessage
  · exact ok.takeGrant
  · exact ok.takeCredit
  · exact ok.sendDelivered
  · exact ok.setChan
  · exact ok.takePartial
  · exact ok.takeResult
  · exact ok.takeCollCredits
  · exact ok.takeAgree
  · exact ok.ownerBlock
  · exact ok.takeBlockReply
  · exact ok
  · exact ok.takeAccessReply
theorem Hw.Legal.takePart {n : Nat} {m : Msg} {lo hi : Nat} {env : Env} (ok : h.Legal) : Gives Hw.Legal (h.takePart n m lo hi env) := by
  unfold Hw.takePart
  split
  exacts [ok.slotWrite, .ite ok.ownerPart .none, .none]
theorem Hw.Legal.boundMessage {n : Nat} {ep : Byte} {src : Coord} {srcCtx : Nat} {id : W16} {m : Msg} {env : Env} {done : Nat} (ok : h.Legal) :
    (h.boundMessage n ep src srcCtx id m env done).Legal := .ite ok.takeMessage ok.setCtx.nack
theorem execContextMessageReceive_keeps {fport link : Nat} {src : Coord} {msgId : W16} {ctx : Nat} {epoch : Byte} {step : Option W32} {m : Msg} :
    Keeps (execContextMessageReceive fport link src msgId ctx epoch step m) := .act fun _ ok =>
  .ite ok.takeMessage ok.setCtx.nack
theorem Hw.Legal.bindRequest {src : Coord} {job : W32} {id : W16} (ok : h.Legal) : (h.bindRequest src job id).Legal := by
  unfold Hw.bindRequest
  split
  exacts [ok.answer, ok.nack]
theorem execBindRequestReceive_keeps {fport link : Nat} {src : Coord} {job : W32} {msgId : W16} :
    Keeps (execBindRequestReceive fport link src job msgId) := .act fun _ ok =>
  ok.bindRequest
theorem Hw.Legal.jobMessage {src : Coord} {srcCtx : Nat} {job : W32} {id : W16} {m : Msg} {env : Env} {done : Nat} (ok : h.Legal) :
    (h.jobMessage src srcCtx job id m env done).Legal := by
  unfold Hw.jobMessage
  dsimp only
  split
  exacts [ok.bindRequest.takeMessage, ok.bindRequest]
theorem Hw.Legal.bind {b : Binding} (ok : h.Legal) : (h.bind b).Legal := .of_kept ok rfl
theorem Hw.Legal.keepLoose {os : List OutMsg} (ok : h.Legal) : (h.keepLoose os).Legal := .of_kept ok rfl
theorem Hw.Legal.takeBindAnswer {peer : Coord} {n' : Nat} {ep : Byte} {job : W32} (ok : h.Legal) :
    (h.takeBindAnswer peer n' ep job).Legal := by
  unfold Hw.takeBindAnswer
  split
  exacts [ok, .setOutMsgs (.keepLoose (.foldl ok fun _ _ ok => ok.bind))]
theorem execBindRetry_keeps {n : Nat} : Keeps (execBindRetry n) := .act fun _ ok => .of_kept ok rfl
theorem Hw.Legal.endSender {o : OutMsg} {status : Nat} {c : Coord} (ok : h.Legal) : (h.endSender o status c).Legal := by
  unfold Hw.endSender
  dsimp only
  split
  · exact .finishCmd (by split; exacts [.loseAccess (.of_kept ok rfl), .of_kept ok rfl])
  · split
    exacts [.loseAccess (.of_kept ok rfl), .of_kept ok rfl]
theorem Hw.Legal.looseGone {o : OutMsg} {peer : Coord} (ok : h.Legal) : (h.looseGone o peer).Legal := by
  unfold Hw.looseGone
  split
  · split
    exacts [.ite ok.finishCmd ok, ok]
  · exact ok.chanGone
  · exact ok.chanGone
  · exact ok.chanGone
  · exact ok.chanGone
  · exact ok.chanGone
  · exact ok
theorem Hw.Legal.takeNack {reason : Nat} {id : W16} {peer : Coord} (ok : h.Legal) : (h.takeNack reason id peer).Legal := by
  unfold Hw.takeNack
  dsimp only
  split
  · exact .ite (.of_kept ok rfl) ok
  · exact .ite (.setOutMsgs (.ite (.of_kept ok rfl) ok))
      (.ite (.looseGone (.endSender (.ite (.of_kept ok rfl) ok)))
        (.ite (.takeLate (.ite (.of_kept ok rfl) ok)) (.ite (.endSender (.ite (.of_kept ok rfl) ok)) (.ite (.of_kept ok rfl) ok))))
theorem Hw.Legal.accessAnswer {dst : Coord} {da : W64} {bytes : List Byte} {po : List Nat} (ok : h.Legal) :
    (h.accessAnswer dst da bytes po).Legal := .foldl ok.emit fun _ _ ok => ok.post
theorem Hw.Legal.memAccess {src : Coord} {a : MemAccess} {env : Env} (ok : h.Legal) : (h.memAccess src a env).Legal :=
  .ite (.of_kept ok.applyEnv rfl)
    (by
      split
      · exact .ite ok.applyEnv.readErrors.accessAnswer ok.applyEnv.emit
      · exact .ite ok.applyEnv.writeErrors.applyWrites.accessAnswer ok.applyEnv.emit
      · exact .ite ok.applyEnv.readErrors.addAt.accessAnswer ok.applyEnv.emit)
theorem execMemoryAccessReceive_keeps {src : Coord} {a : MemAccess} {env : Env} :
    Keeps (execMemoryAccessReceive src a env) := .act fun _ ok =>
  ok.memAccess

/-! ## Machine/Links.lean -/

theorem Hw.Legal.endUnreachable {p l : Nat} {lost : List Frame} (ok : h.Legal) : (h.endUnreachable p l lost).Legal :=
  .foldl (.foldl ok fun _ _ ok => .ite ok.loseAccess ok) fun _ _ ok => .ite ok.endSender ok
theorem Hw.Legal.dropChange {p l : Nat} (ok : h.Legal) : (h.dropChange p l).Legal := ok.setLink
theorem Hw.Legal.drawIncarnation (ok : h.Legal) : h.drawIncarnation.2.Legal := ok.free
theorem Hw.Legal.deadEffects {p l : Nat} (ok : h.Legal) : (h.deadEffects p l).Legal :=
  .endUnreachable
    (by
      split
      · exact .of_kept (.setLink (.drawIncarnation (.foldl ok fun _ _ ok => ok.finishCmd))) rfl
      · exact .setLink (.drawIncarnation (.foldl ok fun _ _ ok => ok.finishCmd)))
theorem Hw.Legal.light {p l : Nat} (ok : h.Legal) : (h.light p l).Legal := ok.setLink
theorem Hw.Legal.declareDead {p l : Nat} (ok : h.Legal) : (h.declareDead p l).Legal := ok.setLink.deadEffects.light
theorem Hw.Legal.sendHello {p l op : Nat} (ok : h.Legal) : (h.sendHello p l op).Legal := ok.sendCtrl
theorem Hw.Legal.enterHello {p l : Nat} (ok : h.Legal) : (h.enterHello p l).Legal := ok.setLink.sendHello
theorem Hw.Legal.adoptRx {p l : Nat} {s : LambdaSet} {lset ctrl : Nat} (ok : h.Legal) : (h.adoptRx p l s lset ctrl).Legal := ok.setLink
theorem Hw.Legal.notePeer {p l : Nat} {c : Ctrl} (ok : h.Legal) : (h.notePeer p l c).Legal := ok.adoptRx.setLink
theorem Hw.Legal.mismatch {p l : Nat} {c : Ctrl} (ok : h.Legal) : (h.mismatch p l c).Legal := .ite ok ok.setLink.evMod
theorem Hw.Legal.miswired {p l : Nat} (ok : h.Legal) : (h.miswired p l).Legal := by
  unfold Hw.miswired
  split
  exacts [ok, .ite ok ok.setLink.evMod]
theorem Hw.Legal.ackCtrl {p l : Nat} {a : W16} (ok : h.Legal) : (h.ackCtrl p l a).Legal :=
  .ite (.ite ok.setLink (.foldl ok.setLink fun _ _ ok => ok.emit)) ok
theorem Hw.Legal.hear {p l : Nat} {c : Ctrl} (ok : h.Legal) : (h.hear p l c).Legal := ok.ackCtrl.setLink
theorem Hw.Legal.hearNew {p l : Nat} {c : Ctrl} (ok : h.Legal) : (h.hearNew p l c).Legal := ok.hear.setLink
theorem Hw.Legal.sendAck {p l : Nat} (ok : h.Legal) : (h.sendAck p l).Legal := ok.sendCtrl
theorem Hw.Legal.ctrlIn {p l op : Nat} {c : Ctrl} {f : Hw → Hw} (ok : h.Legal) (keep : ∀ x, x.Legal → (f x).Legal) :
    (h.ctrlIn p l op c f).Legal :=
  .ite ok (.ite ok.setLink.noteCrc (.ite ok (.ite (keep _ ok.hear) (.ite (.sendAck (keep _ ok.hearNew)) ok.hear.sendAck))))
theorem execHello_keeps {fport link : Nat} {c : Ctrl} : Keeps (execHello fport link c) := .act fun _ ok =>
  .ctrlIn ok fun _ ok => .sendHello (.ite ok ok.mismatch)
theorem execHelloResend_keeps {fport link : Nat} : Keeps (execHelloResend fport link) := .act fun _ ok => .ite ok.sendHello ok
theorem Hw.Legal.resend {p l : Nat} (ok : h.Legal) : (h.resend p l).Legal := .ite ok (.foldl ok.setLink fun _ _ ok => ok.emit)
theorem execAck_keeps {fport link : Nat} {c : Ctrl} : Keeps (execAck fport link c) := .act fun _ ok => .ctrlIn ok fun _ ok => ok
theorem execControlResend_keeps {fport link n : Nat} : Keeps (execControlResend fport link n) := .act fun _ ok => by
  dsimp only
  split
  exacts [.ite ok.emit ok, ok]
theorem execCarrierDetect_keeps {fport link : Nat} {present : LambdaSet} :
    Keeps (execCarrierDetect fport link present) := .act fun _ ok =>
  .ite ok (.ite ok.setLink (.ite ok.setLink (.ite ok.setLink ok)))
theorem Hw.Legal.sendResync {p l : Nat} (ok : h.Legal) : (h.sendResync p l).Legal := ok.setLink.sendCtrl
theorem execCarrierLoss_keeps {fport link lambda : Nat} : Keeps (execCarrierLoss fport link lambda) := .act fun _ ok =>
  .ite ok (.ite ok.setLink (.ite ok.dropChange.setLink.evMod (.ite ok.setLink ok)))
theorem execLinkDeadExpiry_keeps {fport link : Nat} : Keeps (execLinkDeadExpiry fport link) := .act fun _ ok => .ite ok.declareDead.evMod ok
theorem execPauseExpiry_keeps {fport link : Nat} : Keeps (execPauseExpiry fport link) := .act fun _ ok =>
  .ite ok (.ite ok.setLink (.ite ok.setLink ok))
theorem Hw.Legal.retrainLink {p l : Nat} (ok : h.Legal) : (h.retrainLink p l).Legal := .ite ok.dropChange.setLink ok
theorem execPause_keeps {fport link : Nat} {c : Ctrl} : Keeps (execPause fport link c) := .act fun _ ok =>
  .ctrlIn ok fun _ ok => .ite ok (.ite ok.dropChange.setLink.sendCtrl ok)
theorem Hw.Legal.darkLambda {p l i : Nat} (ok : h.Legal) : (h.darkLambda p l i).Legal := ok.setLink
theorem execPauseAck_keeps {fport link : Nat} {c : Ctrl} : Keeps (execPauseAck fport link c) := .act fun _ ok =>
  .ctrlIn ok fun _ ok => by dsimp only; split; exacts [ok, ok.setLink, ok.setLink.darkLambda.retrainLink]
theorem execPortEnable_keeps {fport : Nat} : Keeps (execPortEnable fport) := .actReg fun _ ok =>
  .ite ok (.forN ok.setPort fun _ _ ok => .ite ok.setLink.light ok)
theorem execPortDisable_keeps {fport : Nat} : Keeps (execPortDisable fport) := .actReg fun _ ok =>
  .ite ok (.forN ok.setPort fun _ _ ok => .ite ok.setLink.deadEffects ok)
theorem execPortRetrain_keeps {fport : Nat} : Keeps (execPortRetrain fport) := .actReg fun _ ok =>
  .ite ok (.forN ok fun _ _ ok => ok.retrainLink)
theorem Hw.Legal.enqueue {p l i : Nat} (ok : h.Legal) : (h.enqueue p l i).Legal := by
  unfold Hw.enqueue
  split
  exacts [ok, .ite ok (.of_kept (.of_kept (.setLink (.ite ok.noteSent ok)) rfl) rfl)]
theorem Hw.Legal.withhold {p l : Nat} (ok : h.Legal) : (h.withhold p l).Legal :=
  .ite ok
    (.foldl ok fun _ _ ok =>
      .ite
        (by
          dsimp only
          split
          · exact .finishCmd (by split; exacts [.loseAccess (.of_kept ok rfl), .of_kept ok rfl])
          · split
            exacts [.loseAccess (.of_kept ok rfl), .of_kept ok rfl])
        ok)
theorem Hw.Legal.loopback (ok : h.Legal) : h.loopback.Legal := by
  unfold Hw.loopback
  split
  · exact ok
  · dsimp only
    split
    · exact .memAccess (.of_kept ok.noteSent rfl)
    · exact .takeAccessReply (.of_kept ok.noteSent rfl)
    · split
      exacts [.boundMessage (.of_kept ok.noteSent rfl), .jobMessage (.of_kept ok.noteSent rfl)]
theorem Hw.Legal.load {p l : Nat} (ok : h.Legal) : (h.load p l).Legal :=
  .setOutMsgs (.keepLoose (.forN ok.withhold fun _ _ ok => ok.enqueue))
theorem execFrameTransmit_keeps {fport link : Nat} : Keeps (execFrameTransmit fport link) := .act fun _ ok =>
  .ite ok.loopback (.ite ok.loopback.load (by split; exacts [ok.loopback.load, ok.loopback.load.setLink.emit]))
theorem Hw.Legal.deliverFrame {f : Frame} {turned : List Nat} {env : Env} {done : Nat} (ok : h.Legal) :
    (h.deliverFrame f turned env done).Legal := by
  unfold Hw.deliverFrame
  dsimp only
  split
  · exact ok
  · exact .ite (by split; exacts [ok.memAccess, ok.takeAccessReply, ok]) (.ite ok.boundMessage ok.jobMessage)
theorem Hw.Legal.deliverPart {f : Frame} {x : Reasm} {env : Env} (ok : h.Legal) : Gives Hw.Legal (h.deliverPart f x env) := by
  unfold Hw.deliverPart
  split
  exacts [.ite ok.takePart .none, .none]
theorem Hw.Legal.takeIn {p : Nat} {f : Frame} {turned : List Nat} {deliver : Hw → Hw} (ok : h.Legal) (keep : ∀ x, x.Legal → (deliver x).Legal) :
    (h.takeIn p f turned deliver).Legal := .ite (keep _ ok) (.of_kept ok rfl)
theorem Hw.Legal.reassemble {p l : Nat} {f : Frame} {turned : List Nat} {env : Env} (ok : h.Legal) :
    (h.reassemble p l f turned env).Legal :=
  .ite (.takeIn ok fun _ ok => ok.deliverFrame)
    (by
      split
      · exact ok
      · exact .ite (.takeIn ok.setLink.sendCtrl fun _ ok => ok.deliverFrame)
          (.takeIn ok.setLink fun _ ok => by split; exacts [.setLink (.deliverPart ok ‹_›), ok]))
theorem Hw.Legal.discardFrame {p l lambda : Nat} {bad : Bool} (ok : h.Legal) : (h.discardFrame p l lambda bad).Legal :=
  .ite (.ite ok.setLink.noteCrc ok) (.sendCtrl (.setLink (.ite ok.setLink.noteCrc ok)))
theorem execDataFrameReceive_keeps {fport link : Nat} {x : Frame × Env} {blocks : List Nat} {wrong : List (List Nat)} :
    Keeps (execDataFrameReceive fport link x blocks wrong) := .act fun _ ok =>
  .ite ok
    (by
      dsimp only
      split
      · exact .discardFrame (.ite ok ok.setLink)
      · exact .ite (.discardFrame (.ite ok ok.setLink))
          (.ite (.ite ok ok.setLink)
            (.ite (.ite (.sendCtrl (.ite ok ok.setLink)) (.discardFrame (.ite ok ok.setLink)))
              (.reassemble (.ite (.setLink (.ite ok ok.setLink)) (.sendCtrl (.setLink (.ite ok ok.setLink))))))))
theorem Hw.Legal.noteNack {p l lambda : Nat} (ok : h.Legal) : (h.noteNack p l lambda).2.Legal := ok.setLink
theorem execCredit_keeps {fport link : Nat} {c : Ctrl} : Keeps (execCredit fport link c) := .act fun _ ok =>
  .ctrlIn ok fun _ ok => ok.setLink
theorem Hw.Legal.relay {c : Ctrl} (ok : h.Legal) : (h.relay c).Legal := by
  unfold Hw.relay
  split
  exacts [ok, .ite ok.setLink.emit ok.setLink]
theorem execMsgNack_keeps {fport link : Nat} {c : Ctrl} : Keeps (execMsgNack fport link c) := .act fun _ ok =>
  .ctrlIn ok fun _ ok => .ite ok.takeNack ok.relay
theorem execBindAnswer_keeps {fport link : Nat} {c : Ctrl} : Keeps (execBindAnswer fport link c) := .act fun _ ok =>
  .ctrlIn ok fun _ ok => .ite ok.takeBindAnswer ok.relay
theorem execReassemblyExpiry_keeps {fport link n : Nat} : Keeps (execReassemblyExpiry fport link n) := .act fun _ ok =>
  .ite ok (.ite ok.setLink.sendCtrl.setLink.evMod ok.setLink.sendCtrl)
theorem Hw.Legal.tellHeld {x : Nat × Nat} (ok : h.Legal) : (h.tellHeld x).Legal := ok.setLink.evMod
theorem execTransitForward_keeps {n : Nat} : Keeps (execTransitForward n) := .act fun _ ok => by
  split
  · exact ok
  · dsimp only
    split
    · exact .setDie (.of_kept ok rfl)
    · exact .setDie (.of_kept ok rfl)
    · split
      · exact .ite (.setDie (.of_kept ok rfl)) ok
      · exact .ite (.setDie (.of_kept ok rfl)) (.ite ok (.setLink (.of_kept ok rfl)))
    · exact ok

/-! ## Machine/Lambda.lean -/

theorem Hw.Legal.startChange {p l : Nat} {add : Bool} {i : Nat} {cmd : Option (Nat × W32)} {lend : Option (Nat × Nat)} (ok : h.Legal) :
    (h.startChange p l add i cmd lend).Legal := ok.setLink.sendCtrl
theorem Hw.Legal.shed {p l : Nat} (ok : h.Legal) : (h.shed p l).Legal := by
  unfold Hw.shed
  dsimp only
  split
  exacts [ok, .ite ok.startChange (.ite ok ok.setLink)]
theorem Hw.Legal.capStep {e : Nat} (ok : h.Legal) : (h.capStep e).Legal :=
  .ite ok (by dsimp only; split; exacts [ok, .ite ok (.ite ok.shed.evMod ok.shed)])
theorem Hw.Legal.boundStep {p l : Nat} (ok : h.Legal) : (h.boundStep p l).Legal := .ite ok.shed ok
theorem Hw.Legal.refill {p l : Nat} {except : Option Nat} (ok : h.Legal) : (h.refill p l except).Legal :=
  .ite ok (by split; exacts [ok.startChange, ok])
theorem Hw.Legal.lossStep {p l : Nat} (ok : h.Legal) : (h.lossStep p l).Legal := by
  unfold Hw.lossStep
  dsimp only
  split
  exacts [ok, .ite ok (.ite ok.dropChange.setLink.sendCtrl (.ite ok.startChange ok))]
theorem Hw.Legal.setCap {e cap : Nat} (ok : h.Legal) : (h.setCap e cap).Legal :=
  .foldl (.forN ok.setOe fun _ _ ok => ok.capStep) fun _ _ ok => ok.refill
theorem Hw.Legal.trim {p l : Nat} (ok : h.Legal) : (h.trim p l).Legal := ok.lossStep.boundStep.capStep
theorem Hw.Legal.settle {p l : Nat} (ok : h.Legal) : (h.settle p l).Legal := ok.trim.refill
theorem Hw.Legal.lambdaNext {f ring : Nat} {index : W32} (ok : h.Legal) : (Hw.lambdaNext f h ring index).Legal := by
  induction f generalizing h with
  | zero => exact ok
  | succ f ih =>
    unfold Hw.lambdaNext
    split
    · exact ok
    · dsimp only
      split
      · split
        · exact ok
        split
        · exact .ite ok ok.startChange
        split
        · exact ok.setCmd.finishCmd
        split
        · exact ok
        split
        · exact ih ok.setCmd
        split
        · exact .ite ok.startChange (ih ok.setCmd)
        · exact .ite (ih ok.setCmd) ok.startChange
      · exact ok.finishCmd
theorem Hw.Legal.lambdaFailed {p l : Nat} {c : Change} (ok : h.Legal) : (h.lambdaFailed p l c).Legal := by
  unfold Hw.lambdaFailed
  split
  exacts [ok.trim, ok.setCmd.lambdaNext]
theorem execLambdaSet_keeps {ring : Nat} {index : W32} : Keeps (execLambdaSet ring index) := .act fun _ ok =>
  .onCmd ok fun _ => .ite (.ite ok ok.lambdaNext) (by split; exacts [ok.conflict, by split; exacts [ok, .ite ok ok.setCmd.lambdaNext]])
theorem Hw.Legal.echo {p l op : Nat} {c : Ctrl} {reason : Nat} (ok : h.Legal) : (h.echo p l op c reason).Legal := ok.sendCtrl
theorem execLambdaAdd_keeps {fport link : Nat} {c : Ctrl} {acquired : Bool} :
    Keeps (execLambdaAdd fport link c acquired) := .act fun _ ok =>
  .ctrlIn ok fun _ ok => .ite ok (.ite ok.echo (.ite ok.echo (.ite ok.echo ok.setLink.echo)))
theorem execLambdaDrop_keeps {fport link : Nat} {c : Ctrl} : Keeps (execLambdaDrop fport link c) := .act fun _ ok =>
  .ctrlIn ok fun _ ok => .ite ok (.ite ok.echo ok.setLink.echo)
theorem Hw.Legal.applyChange {p l : Nat} {c : Change} (ok : h.Legal) : (h.applyChange p l c).Legal := ok.setLink
theorem Hw.Legal.afterChange {p l : Nat} {c : Change} (ok : h.Legal) : (h.afterChange p l c).Legal := by
  unfold Hw.afterChange
  split
  · exact .ite ok.startChange.trim ok.lambdaFailed.trim
  · split
    exacts [ok.lambdaNext.trim, ok.trim.refill]
theorem execLambdaAddAck_keeps {fport link : Nat} {c : Ctrl} : Keeps (execLambdaAddAck fport link c) := .act fun _ ok =>
  .ctrlIn ok fun _ ok => by split; exacts [ok.applyChange.afterChange, ok]
theorem Hw.Legal.lateAck {p l : Nat} {c : Ctrl} (ok : h.Legal) : (h.lateAck p l c).Legal := by
  unfold Hw.lateAck
  split
  · exact .ite (.settle (by split; exacts [ok.setLink.resend.lambdaNext, ok.setLink.resend])) ok
  · exact ok
theorem execLambdaDropAck_keeps {fport link : Nat} {c : Ctrl} : Keeps (execLambdaDropAck fport link c) := .act fun _ ok =>
  .ctrlIn ok fun _ ok => by split; exacts [ok.applyChange.afterChange, ok.lateAck]
theorem execLambdaRefuse_keeps {fport link : Nat} {c : Ctrl} : Keeps (execLambdaRefuse fport link c) := .act fun _ ok =>
  .ctrlIn ok fun _ ok => by dsimp only; split; exacts [ok.dropChange.lambdaFailed, ok]
theorem execLambdaChangeTimeout_keeps {fport link : Nat} : Keeps (execLambdaChangeTimeout fport link) := .act fun _ ok => by
  split
  exacts [ok, .lambdaFailed (.setLink (.dropChange (.ite ok ok.setLink)))]
theorem execLambdaBorrow_keeps {fport link : Nat} : Keeps (execLambdaBorrow fport link) := .act fun _ ok =>
  .ite ok (by split; exacts [ok.startChange, by split; exacts [ok.startChange, ok]])
theorem execLambdaWithdraw_keeps {fport link : Nat} : Keeps (execLambdaWithdraw fport link) := .act fun _ ok =>
  .ite (by split; exacts [ok.startChange, ok]) ok
theorem Hw.Legal.loseLambda {p l i : Nat} (ok : h.Legal) : (h.loseLambda p l i).Legal :=
  .ite (by split; exacts [.ite ok.dropChange ok, ok]) (.ite ok.darkLambda (.ite ok.dropChange.setLink ok.setLink.lossStep))
theorem execNackCrc_keeps {fport link : Nat} {c : Ctrl} : Keeps (execNackCrc fport link c) := .act fun _ ok =>
  .ctrlIn ok fun _ ok => .ite ok.setLink.resend (.ite ok.setLink.resend.noteNack ok.setLink.resend.noteNack.setLink.evMod.loseLambda)
theorem execHelloAck_keeps {fport link : Nat} {c : Ctrl} : Keeps (execHelloAck fport link c) := .act fun _ ok =>
  .ctrlIn ok fun _ ok =>
    .ite ok (.ite ok.mismatch (.ite ok (.ite (.ite ok ok.setLink.evMod) ok.notePeer.light.setLink.evMod.miswired.settle)))
theorem Hw.Legal.resync {p l : Nat} {c : Ctrl} (ok : h.Legal) : (h.resync p l c).Legal :=
  .settle (.resend (.ite ok.adoptRx.setLink ok.adoptRx.setLink.sendResync))
theorem Hw.Legal.takeResync {p l : Nat} {c : Ctrl} (ok : h.Legal) : (h.takeResync p l c).Legal :=
  .ite ok.resync ok.setLink.deadEffects.setLink.light.enterHello
theorem execResync_keeps {fport link : Nat} {c : Ctrl} : Keeps (execResync fport link c) := .act fun _ ok =>
  .ctrlIn ok fun _ ok => .ite (.ite ok.takeResync ok.setLink) (.ite ok.resync ok)
theorem execTrainingComplete_keeps {fport link : Nat} {present : LambdaSet} {ids : List (Nat × W64 × Nat)} :
    Keeps (execTrainingComplete fport link present ids) := .act fun _ ok =>
  .ite ok
    (.ite (.foldl ok fun _ _ ok => ok.evMod)
      (.ite (.enterHello (.setLink (.foldl ok fun _ _ ok => ok.evMod)))
        (by
          dsimp only
          split
          · exact .takeResync (.setLink (.sendResync (.setLink (.foldl ok fun _ _ ok => ok.evMod))))
          · exact .setLink (.sendResync (.setLink (.foldl ok fun _ _ ok => ok.evMod))))))
theorem execResume_keeps {fport link : Nat} {c : Ctrl} : Keeps (execResume fport link c) := .act fun _ ok =>
  .ctrlIn ok fun _ ok => .ite ok.setLink.settle ok

/-! ## Machine/Contexts.lean -/

theorem Hw.Legal.relinkPort {p : Nat} (ok : h.Legal) : (h.relinkPort p).Legal :=
  .foldl (.foldl (.forN ok fun _ _ ok => .ite ok.setLink.deadEffects.setLink ok) fun _ _ ok => by split; exacts [ok.setLink, ok]) fun _ _ ok => by
    split
    exacts [.ite ok.drawIncarnation.setLink.light ok.drawIncarnation.setLink, ok]
theorem Hw.Legal.relink (ok : h.Legal) : h.relink.Legal := .foldl (.forN ok fun _ _ ok => ok.relinkPort) fun _ _ ok => .ite ok.settle ok
theorem Hw.Legal.ctxCmdErr {n : Nat} (ok : h.Legal) : (h.ctxCmdErr n).Legal := ok.setCtx
theorem execContextOpen_keeps {port ctx : Nat} : Keeps (execContextOpen port ctx) := .actFrom fun _ ok => .ite ok.setCtx ok.ctxCmdErr
theorem Hw.Legal.openFails {n port : Nat} {st : Nat × Nat} (ok : h.Legal) : (h.openFails n port st).Legal := ok.setCtx.event
theorem Hw.Legal.openAs {n port : Nat} {o : Opened} (ok : h.Legal) : (h.openAs n port o).Legal := by
  unfold Hw.openAs
  extract_lets p bytes sp pool h1 h2 fresh h3 h4 h5 h6
  have ok2 : h2.Legal := .of_kept (a := h1) ok.setCtx (by simp [h2, Hw.kept, Hw.sizes])
  have ok5 : h5.Legal := .relink (.evCtx (.of_kept ok2 rfl))
  exact .foldl (.ite (.foldl ok5 fun _ _ ok => .ite ok.miswired ok) ok5) fun _ _ ok => .ite ok.grant ok
theorem execPlanReadDone_keeps {ctx : Nat} {env : Env} : Keeps (execPlanReadDone ctx env) := .act fun _ ok => by
  split
  · exact ok
  · exact .ite ok
      (.ite ok.applyEnv.hostPoisonRead.openFails
        (by split; exacts [ok.applyEnv.hostPoisonRead.openFails, ok.applyEnv.hostPoisonRead.openAs]))
theorem Hw.Legal.cmdClose {port n : Nat} {flush : Bool} (ok : h.Legal) : (h.cmdClose port n flush).Legal := .ite ok.closeCtx ok.ctxCmdErr
theorem execContextCloseDrain_keeps {port ctx : Nat} : Keeps (execContextCloseDrain port ctx) := .actFrom fun _ ok => ok.cmdClose
theorem execContextCloseFlush_keeps {port ctx : Nat} : Keeps (execContextCloseFlush port ctx) := .actFrom fun _ ok => ok.cmdClose
theorem execContextClose_keeps {ring : Nat} {index : W32} : Keeps (execContextClose ring index) := .act fun _ ok =>
  .onCmd ok fun _ => .ite ok (.ite (.ite ok.conflict ok.setCmd.setCtx.closeCtx) (.ite ok.closeCtx.finishCmd ok.conflict))
theorem execQuiesceExpiry_keeps {ctx : Nat} : Keeps (execQuiesceExpiry ctx) := .act fun _ ok =>
  .ite ok
    (.ite (.enterClosing (.foldl (.foldl ok.setCtx fun _ _ ok => ok.flushRunning) fun _ _ ok => ok.stopIfDrained))
      (.foldl (.foldl ok.setCtx fun _ _ ok => ok.flushRunning) fun _ _ ok => ok.stopIfDrained))
theorem Hw.Legal.flushFrames {n : Nat} (ok : h.Legal) : (h.flushFrames n).Legal := by
  unfold Hw.flushFrames
  exact .setCtx (.setOutMsgs (.foldl ok fun _ _ ok => ok.setLink))
theorem Hw.Legal.freeCtx {n : Nat} (ok : h.Legal) : (h.freeCtx n).Legal := by
  unfold Hw.freeCtx
  extract_lets closers p h1 h2 h3
  have ok1 : h1.Legal := .of_kept ok (by simp [h1, Hw.kept, Hw.sizes])
  have ok3 : h3.Legal := .ite (.of_kept (a := h2) ok1.setCtx rfl) ok1.setCtx
  exact .foldl ok3.evCtx.relink fun _ _ ok => ok.finishCmd
theorem execTeardownComplete_keeps {ctx : Nat} : Keeps (execTeardownComplete ctx) := .act fun _ ok =>
  .ite ok (.ite (.freeCtx (.ite ok.flushFrames ok)) (.ite ok.flushFrames ok))
theorem execNumberHoldExpiry_keeps {ctx : Nat} : Keeps (execNumberHoldExpiry ctx) := .act fun _ ok => .ite ok.setCtx ok

/-! ## Machine/Sequence.lean -/

theorem Hw.Legal.writeRecords {n : Nat} {slots : List Nat} (ok : h.Legal) : (h.writeRecords n slots).Legal :=
  .ite ok.start (.foldl ok.start fun _ _ ok => ok.write)
theorem Hw.Legal.seqRecords {ring : Nat} {index : W32} {c : Cmd} (ok : h.Legal) : (h.seqRecords ring index c).Legal := by
  unfold Hw.seqRecords
  split
  exacts [.endRun ok ok.writeRecords.resume, ok]
theorem Hw.Legal.onSeqSet {ring : Nat} {index : W32} {op : Nat} (ok : h.Legal) : (h.onSeqSet ring index op).Legal :=
  .onCmd ok fun _ => .ite ok.seqRecords ok
theorem execSeqSetStart_keeps {ring : Nat} {index : W32} : Keeps (execSeqSetStart ring index) := .act fun _ ok => ok.onSeqSet
theorem execSeqSetParams_keeps {ring : Nat} {index : W32} : Keeps (execSeqSetParams ring index) := .act fun _ ok => ok.onSeqSet
theorem execSeqSetAdvance_keeps {ring : Nat} {index : W32} : Keeps (execSeqSetAdvance ring index) := .act fun _ ok => ok.onSeqSet
theorem execSeqSetFinish_keeps {ring : Nat} {index : W32} : Keeps (execSeqSetFinish ring index) := .act fun _ ok => ok.onSeqSet
theorem execSeqRetire_keeps {ring : Nat} {index : W32} : Keeps (execSeqRetire ring index) := .act fun _ ok =>
  .onCmd ok fun _ => ok.seqRecords

/-! ## Machine/Capture.lean -/

theorem Hw.Legal.captureDone {trigger : Nat} {dies : List Nat} {bytes : Nat} (ok : h.Legal) : (h.captureDone trigger dies bytes).Legal :=
  ok.evMod
theorem Hw.Legal.captureArea {trigger fault : Nat} {dies : List Nat} {native : Bool} {k1 : Option Nat} (ok : h.Legal) :
    (h.captureArea trigger fault dies native k1).Legal := .captureDone (.foldl ok.free fun _ _ ok => ok.storeAt)
theorem Hw.Legal.autoCapture {trigger fault : Nat} {dies : List Nat} (ok : h.Legal) : (h.autoCapture trigger fault dies).Legal :=
  .ite ok.captureArea ok
theorem Hw.Legal.captureRun {n : Nat} {c : Cmd} {dies : List Nat} {native : Bool} {k1 : Option Nat} (ok : h.Legal) :
    (h.captureRun n c dies native k1).1.Legal := .foldl ok.free.start.resume fun _ _ ok => ok.write
theorem execCapture_keeps {ring : Nat} {index : W32} : Keeps (execCapture ring index) := .act fun _ ok =>
  .onCmd ok fun _ =>
    .ite (.ite ok (.finishCmd (.ite ok.captureArea ok)))
      (.ite ok.conflict (.ite ok (.ite (.endRun ok.free ok.captureRun) (.captureDone (.endRun ok.free ok.captureRun)))))

/-! ## Machine/Firmware.lean -/

theorem Hw.Legal.interruptFw (ok : h.Legal) : h.interruptFw.Legal := by
  unfold Hw.interruptFw
  dsimp only
  split
  · exact ok
  · exact .of_kept (.of_kept ok rfl) rfl
  · exact .ite (.of_kept (.of_kept ok rfl) rfl) (.of_kept (.of_kept ok rfl) rfl)
  · exact .ite (.of_kept ok rfl) (.ite (.of_kept (.of_kept ok rfl) rfl) (.of_kept (.of_kept ok rfl) rfl))
  · exact .of_kept (.of_kept ok rfl) rfl
theorem Hw.Legal.fwError {cause : Nat} (ok : h.Legal) : (h.fwError cause).Legal := .of_kept ok rfl
theorem Hw.Legal.fwCommand {cause : Nat} {go : Hw → Hw} (ok : h.Legal) (keep : ∀ x, x.Legal → (go x).Legal) :
    (h.fwCommand cause go).Legal := .ite ok.fwError (.ite ok.fwError (keep _ ok))
theorem Hw.Legal.fwStart {b : FwBusy} (ok : h.Legal) : (h.fwStart b).Legal := .of_kept ok rfl
theorem execStage_keeps {port : Nat} {env : Env} : Keeps (execStage port env) := .actFrom fun _ ok =>
  .fwCommand ok fun _ ok => .ite (.fwStart (.of_kept ok.applyEnv.hostPoisonRead rfl)) (.fwStart (.of_kept ok.applyEnv.hostPoisonRead rfl))
theorem execActivate_keeps {port : Nat} : Keeps (execActivate port) := .actFrom fun _ ok => .fwCommand ok fun _ ok => ok.fwStart
theorem execConfirm_keeps {port : Nat} : Keeps (execConfirm port) := .actFrom fun _ ok => .fwCommand ok fun _ ok => ok.fwStart
theorem execCommitSvn_keeps {port : Nat} : Keeps (execCommitSvn port) := .actFrom fun _ ok => .fwCommand ok fun _ ok => ok.fwStart
theorem execFirmwareCommandDone_keeps : Keeps execFirmwareCommandDone := .act fun _ ok => by
  dsimp only
  split
  · exact ok
  · exact .ite (.of_kept (.of_kept ok rfl) rfl) (.fwError (.of_kept (.of_kept ok rfl) rfl))
  · exact .of_kept (.of_kept ok rfl) rfl
  · exact .of_kept (.of_kept ok rfl) rfl
  · exact .of_kept (.of_kept ok rfl) rfl

/-! ## Machine/Recovery.lean -/

theorem Hw.Legal.setMort {d p : Nat} {f : MortPort → MortPort} (ok : h.Legal) : (h.setMort d p f).Legal := ok.setDie
theorem Hw.Legal.capEngine {d p : Nat} (ok : h.Legal) : (h.capEngine d p).Legal := by
  unfold Hw.capEngine
  split
  exacts [ok.setCap, ok]
theorem Hw.Legal.retrainPort {d p : Nat} (ok : h.Legal) : (h.retrainPort d p).Legal := by
  unfold Hw.retrainPort
  dsimp only
  split
  exacts [ok.setMort.capEngine.setMort, ok.setMort.capEngine]
theorem Hw.Legal.trainLane {d p lg w0 w1 count : Nat} (ok : h.Legal) : (h.trainLane d p lg w0 w1 count).Legal := ok.setMort.capEngine
theorem Hw.Legal.faultAll {l : List Nat} {cause : Nat} (ok : h.Legal) : (h.faultAll l cause).Legal := .foldl ok fun _ _ ok => ok.faultCtx
theorem Hw.Legal.dropRequests {p : HbmRequester → Bool} (ok : h.Legal) : (h.dropRequests p).Legal :=
  .of_kept ok (by simp [Hw.kept, Hw.sizes, Hw.dropRequests])
theorem Hw.Legal.darkenPort {p : Nat} (ok : h.Legal) : (h.darkenPort p).Legal := .forN ok fun _ _ ok => .ite ok.setLink.deadEffects ok
theorem Hw.Legal.relightPort {p : Nat} (ok : h.Legal) : (h.relightPort p).Legal := .ite ok (.forN ok fun _ _ ok => .ite ok.setLink.light ok)
theorem Hw.Legal.dieLost {d : Nat} (ok : h.Legal) : (h.dieLost d).Legal := by
  unfold Hw.dieLost
  extract_lets h1 h2 h3 h4
  have ok1 : h1.Legal :=
    .of_kept (ok.setMem (m := h1.mem) (p := h1.poison) (Memory.wf_filter _ ok.mem) (ok.poison.filter _)) (by simp [h1, Hw.kept, Hw.sizes])
  exact .forN ok1.setDie.setAux.dropRequests fun _ _ ok => ok.retrainPort
/-- The state of a module whose power came on is legal. -/
theorem reset_legal : State.reset.hw.Legal where
  lim := ⟨by decide, by decide, by decide, by decide, by decide, by decide, by decide, by decide⟩
  parts := (Hw.parts_iff _).2 (by decide +kernel)
  mem := rfl
  hostMem := by decide +kernel
  poison := .nil

theorem Hw.Legal.moduleLost (ok : h.Legal) : h.moduleLost.Legal := by
  unfold Hw.moduleLost
  extract_lets h1 b f p
  have ok1 : h1.Legal := ok.interruptFw
  obtain ⟨_, _, evts, _, _, _, aux, _, _, _, hosts⟩ := ok1.parts
  refine reset_legal.of_sizes (by simp [Hw.sizes, evts, aux, hosts]; decide +kernel) ?_ (Memory.wf_filter _ ok1.mem) ?_ (ok1.poison.filter _)
  · exact { reset_legal.lim with rate := ok1.lim.rate, localGib := ok1.lim.localGib }
  · intro q hq
    obtain ⟨p, hp, rfl⟩ := List.mem_map.1 hq
    exact ok1.hostMem p hp
theorem Hw.Legal.powerUp (ok : h.Legal) : h.powerUp.Legal := by
  unfold Hw.powerUp
  extract_lets h1 b f
  have ok1 : h1.Legal := ok.interruptFw
  refine reset_legal.of_sizes (by simp [Hw.sizes, ok1.parts.hosts]; decide +kernel) reset_legal.lim rfl ?_ .nil
  intro q hq
  obtain ⟨p, hp, rfl⟩ := List.mem_map.1 hq
  exact ok1.hostMem p hp
theorem Hw.Legal.startReset {d : Domain} {cause : Nat} (ok : h.Legal) : (h.startReset d cause).Legal := by
  unfold Hw.startReset
  split
  · exact .faultAll (.foldl ok.dropRequests fun _ _ ok => ok.finishCmd)
  · exact ok.faultAll.setTile
  · exact ok.darkenPort
  · exact .retrainPort (.foldl ok fun _ _ ok => ok.darkenPort)
  · exact .ite ok.faultCtx.closeCtx ok.faultCtx
  · exact .foldl ok fun _ _ ok => .ite ok.abortRing ok
  · exact ok.autoCapture.moduleLost
  · exact .foldl (.foldl ok.faultAll.autoCapture fun _ _ ok => ok.dieLost) fun _ _ ok => ok.darkenPort
theorem Hw.Legal.noteRecovery (ok : h.Legal) : h.noteRecovery.2.Legal := .of_kept ok rfl
theorem Hw.Legal.recover {d : Domain} {cause : Nat} {counted cool : Bool} (ok : h.Legal) : (h.recover d cause counted cool).Legal :=
  .ite (.of_kept ok rfl) (.of_kept (.startReset (by split; exacts [ok.noteRecovery, ok])) rfl)
theorem Hw.Legal.bridgesFrom (ok : h.Legal) : h.bridgesFrom.Legal := .ite ok ok.mapHosts
theorem Hw.Legal.enterOos {cause : Nat} (ok : h.Legal) : (h.enterOos cause).Legal :=
  .ite ok (.setKeystone (.bridgesFrom (.moduleLost (.evMod (.setFreeCtr (.flashWrite (.autoCapture (.faultAll ok))))))))
theorem Hw.Legal.partRetired {kind index src : Nat} (ok : h.Legal) : (h.partRetired kind index src).Legal := ok.evMod
theorem Hw.Legal.dieFails {d : Nat} (ok : h.Legal) : (h.dieFails d).Legal := ok.partRetired.enterOos
theorem Hw.Legal.retireEngine {d n : Nat} (ok : h.Legal) : (h.retireEngine d n).Legal := .ite ok ok.flashWrite.setDie.partRetired
theorem Hw.Legal.retireTile {d t : Nat} (ok : h.Legal) : (h.retireTile d t).Legal := .ite ok ok.flashWrite.setDie.partRetired
theorem execTileRetire_keeps {die tile : Nat} : Keeps (execTileRetire die tile) := .actReg fun _ ok => ok.setDie.retireTile
theorem Hw.Legal.hangRepeat {e : EngineId} (ok : h.Legal) : (h.hangRepeat e).Legal := by
  unfold Hw.hangRepeat
  split
  exacts [ok, .ite ok.setAux (.ite ok.setAux.retireTile ok.setAux.retireEngine)]
theorem Hw.Legal.endHeld {e : EngineId} {x : Nat × W32} (ok : h.Legal) : (h.endHeld e x).Legal := by
  unfold Hw.endHeld
  split
  exacts [ok.launch, ok.finishCmd]
theorem Hw.Legal.noteHang {e : EngineId} {ms : Nat} (ok : h.Legal) : (h.noteHang e ms).Legal := by
  unfold Hw.noteHang
  split
  exacts [.ite ok ok.free.setAux, ok]
theorem Hw.Legal.hang {e : EngineId} {ms : Nat} (ok : h.Legal) : (h.hang e ms).Legal := by
  unfold Hw.hang
  dsimp only
  split
  · exact .ite (.dieFails (.recover (.hangRepeat (.faultAll (.foldl ok.noteHang.evMod fun _ _ ok => ok.endHeld)))))
      (.recover (.hangRepeat (.faultAll (.foldl ok.noteHang.evMod fun _ _ ok => ok.endHeld))))
  · exact .recover (.hangRepeat (.faultAll (.foldl ok.noteHang.evMod fun _ _ ok => ok.endHeld)))
theorem execWatchdogTest_keeps {e : EngineId} {ms : Nat} : Keeps (execWatchdogTest e ms) := .act fun _ ok => .ite ok.hang ok
theorem Hw.Legal.request {domain index : Nat} {there hardware : Bool} {go : Hw → Hw} (ok : h.Legal) (keep : ∀ x, x.Legal → (go x).Legal) :
    (h.request domain index there hardware go).Legal := .ite ok (.ite (.of_kept ok rfl) (keep _ (.of_kept ok rfl)))
theorem execEngineReset_keeps {port index : Nat} : Keeps (execEngineReset port index) := .actFrom fun _ ok =>
  .request ok fun _ ok => ok.recover
theorem execTileReset_keeps {port index : Nat} : Keeps (execTileReset port index) := .actFrom fun _ ok => .request ok fun _ ok => ok.recover
theorem execPortReset_keeps {port index : Nat} : Keeps (execPortReset port index) := .actFrom fun _ ok => .request ok fun _ ok => ok.recover
theorem execOpticalEngineReset_keeps {port index : Nat} : Keeps (execOpticalEngineReset port index) := .actFrom fun _ ok =>
  .request ok fun _ ok => ok.recover
theorem execDieReset_keeps {port index : Nat} : Keeps (execDieReset port index) := .actFrom fun _ ok => .request ok fun _ ok => ok.recover
theorem execContextReset_keeps {port index : Nat} : Keeps (execContextReset port index) := .actFrom fun _ ok =>
  .request ok fun _ ok => ok.recover
theorem execModuleRingReset_keeps {port index : Nat} : Keeps (execModuleRingReset port index) := .actFrom fun _ ok =>
  .request ok fun _ ok => ok.recover
theorem execModuleReset_keeps {port index : Nat} : Keeps (execModuleReset port index) := .actFrom fun _ ok =>
  .ite (.of_kept ok.powerUp rfl) (.request ok fun _ ok => ok.recover)
theorem Hw.Legal.trained {found : List StepReport} (ok : h.Legal) : (h.trained found).Legal :=
  .foldl ok fun _ _ ok => by split; exacts [ok.trainLane, ok.enterOos, ok]
theorem Hw.Legal.unhang {d : Domain} (ok : h.Legal) : (h.unhang d).Legal := by
  unfold Hw.unhang
  split
  exacts [ok.setAux, ok]
theorem execResetDone_keeps {micros : Nat} {found : List StepReport} : Keeps (execResetDone micros found) := .act fun _ ok => by
  split
  · exact ok
  · exact .ite (.enterOos (.unhang (.of_kept ok rfl)))
      (.ite (.trained (.unhang (.of_kept ok rfl)))
        (by
          dsimp only
          split
          · exact .dieFails
              (.foldl (.foldl (.trained (.unhang (.of_kept ok rfl))) fun _ _ ok => ok.relightPort) fun _ _ ok => .ite ok.evCtx ok.evMod)
          · exact .foldl (.foldl (.trained (.unhang (.of_kept ok rfl))) fun _ _ ok => ok.relightPort) fun _ _ ok => .ite ok.evCtx ok.evMod))
theorem execKeystoneHeartbeatCheck_keeps {seen : Bool} : Keeps (execKeystoneHeartbeatCheck seen) := .act fun _ ok =>
  .ite ok (.ite (.of_kept ok rfl) (.ite (.of_kept ok rfl) (.recover (.evMod (.setLeader ok.flashWrite)))))

/-! ## Machine/HostLink.lean -/

theorem Hw.Legal.portDown {p : Nat} (ok : h.Legal) : (h.portDown p).Legal := ok.setHost
theorem execPerstAssert_keeps {port : Nat} : Keeps (execPerstAssert port) := .actPin fun _ ok => ok.setHost.portDown
theorem execPerstDeassert_keeps {port : Nat} : Keeps (execPerstDeassert port) := .actPin fun _ ok => .ite ok.setHost ok
theorem execDlDown_keeps {port : Nat} : Keeps (execDlDown port) := .act fun _ ok => .ite ok.portDown ok
theorem Hw.Legal.hostWritesDone {p : Nat} (ok : h.Legal) : (h.hostWritesDone p).Legal := .of_kept ok rfl
theorem Hw.Legal.moveOwner {p o n : Nat} (ok : h.Legal) : (h.moveOwner p o n).Legal := ok.setCtx.evCtx
theorem Hw.Legal.portReturns {p : Nat} (ok : h.Legal) : (h.portReturns p).Legal :=
  .ite ok (.foldl ok.setHost.evMod fun _ _ ok => .ite ok.moveOwner.evCtx ok)
theorem execDlUp_keeps {port speed width : Nat} {flit busMaster : Bool} :
    Keeps (execDlUp port speed width flit busMaster) := .act fun h ok => by
  extract_lets q h1 h2 h3
  have ok2 : h2.Legal := .msixFlush (.hostWritesDone (ok.setHost_mem fun q wf => Memory.wf_foldl_write q.waiting wf))
  exact .ite ok (.ite (.portReturns (.ite ok2.evMod ok2)) (.ite ok2.evMod ok2))
theorem Hw.Legal.stopSilently {n : Nat} (ok : h.Legal) : (h.stopSilently n).Legal := .foldl ok fun _ _ ok => ok.abortRing.setRing
theorem Hw.Legal.portLost {p : Nat} (ok : h.Legal) : (h.portLost p).Legal :=
  .foldl
    (.ite
      (.foldl
        (.ite
          (.foldl (.hostWritesDone (.setHost (.foldl ok.setHost.evMod.startReset.setOutRing fun _ _ ok => ok.stopSilently))) fun _ _ ok =>
            ok.moveOwner)
          (.hostWritesDone (.setHost (.foldl ok.setHost.evMod.startReset.setOutRing fun _ _ ok => ok.stopSilently)))) fun _ _ ok =>
        ok.faultCtx)
      (.foldl
        (.foldl
          (.ite
            (.foldl (.hostWritesDone (.setHost (.foldl ok.setHost.evMod.startReset.setOutRing fun _ _ ok => ok.stopSilently))) fun _ _ ok =>
              ok.moveOwner)
            (.hostWritesDone (.setHost (.foldl ok.setHost.evMod.startReset.setOutRing fun _ _ ok => ok.stopSilently)))) fun _ _ ok =>
          ok.faultCtx) fun _ _ ok =>
        ok.setCtx)) fun _ _ ok => by
    split
    exacts [.ite ok.openFails ok, ok]
theorem execHostLossTest_keeps {port downMs : Nat} : Keeps (execHostLossTest port downMs) := .act fun _ ok => .ite ok.portLost ok
theorem Hw.Legal.pciePoison {p dir addr : Nat} (ok : h.Legal) : (h.pciePoison p dir addr).Legal := by
  unfold Hw.pciePoison
  extract_lets h1
  have ok1 : h1.Legal := .evMod (ok.setHost (by intro; split <;> rfl))
  exact .ite ok1.reportAer ok1
theorem Hw.Legal.bar2Read {port base offset count : Nat} {env : Env} (ok : h.Legal) : (h.bar2Read port base offset count env).Legal :=
  .ite (.of_kept ok rfl) (.emit (.ite ok.readErrors.pciePoison ok.readErrors))
theorem Hw.Legal.bar2Write {port base offset : Nat} {bytes : List Byte} {poisoned : Bool} {env : Env} (ok : h.Legal) :
    (h.bar2Write port base offset bytes poisoned env).Legal := .ite (.of_kept ok rfl) ok.writeErrors.applyWrites
theorem execBar2Read_keeps {port offset count : Nat} {env : Env} : Keeps (execBar2Read port offset count env) := .act fun _ ok =>
  .ite ok (.ite ok.emit ok.bar2Read)
theorem execBar2Write_keeps {port offset : Nat} {bytes : List Byte} {poisoned : Bool} {env : Env} :
    Keeps (execBar2Write port offset bytes poisoned env) := .act fun _ ok =>
  .ite ok (.ite (.ite ok.pciePoison ok) (.bar2Write (.ite ok.pciePoison ok)))
theorem execApertureWrite_keeps {port : Nat} {value : W64} : Keeps (execApertureWrite port value) := .actFrom fun _ ok => ok.setHost
theorem Hw.Legal.msixWrite {p i : Nat} {v : W32} (ok : h.Legal) : (h.msixWrite p i v).Legal := .ite ok.setHost.msixFlush ok.setHost
theorem execMsixUnmask_keeps {port entry : Nat} : Keeps (execMsixUnmask port entry) := .actFrom fun _ ok => .ite ok.msixWrite ok

/-! ## Machine/CombSource.lean -/

theorem Hw.Legal.setComb {f : Comb → Comb} (ok : h.Legal) : (h.setComb f).Legal := .of_kept ok rfl
theorem Hw.Legal.watchStep {g : Nat} (ok : h.Legal) : (h.watchStep g).Legal :=
  .ite (.ite ok.setComb.evMod ok.setComb) (.ite ok (.ite ok.setComb (.ite ok.setComb ok.setComb)))
theorem Hw.Legal.loseLine {e j : Nat} (ok : h.Legal) : (h.loseLine e j).Legal :=
  .foldl ok.setOe fun _ _ ok => .ite ok.setLink.loseLambda.refill ok
theorem Hw.Legal.lostStep {g j : Nat} (ok : h.Legal) : (h.lostStep g j).Legal :=
  .ite (.ite ok (.forN ok.setComb.evMod fun _ _ ok => .ite ok ok.loseLine)) (.forN ok fun _ _ ok => .ite ok.evMod.loseLine ok)
theorem Hw.Legal.darkGroup {g : Nat} (ok : h.Legal) : (h.darkGroup g).Legal := ok.evMod.enterOos
theorem Hw.Legal.startSwitch {g spare : Nat} (ok : h.Legal) : (h.startSwitch g spare).Legal :=
  .foldl ok.evMod.setComb fun _ _ ok => .ite ok.dropChange.setLink.sendCtrl ok
theorem Hw.Legal.tryswitch (ok : h.Legal) : h.tryswitch.Legal := by
  unfold Hw.tryswitch
  split
  exacts [.ite ok.startSwitch ok, ok]
theorem Hw.Legal.noSpare {g : Nat} (ok : h.Legal) : (h.noSpare g).Legal := .ite ok.setComb.evMod ok
theorem Hw.Legal.switchStep {g : Nat} (ok : h.Legal) : (h.switchStep g).Legal := .ite ok (.ite ok.noSpare ok.setComb)
theorem Hw.Legal.evalGroup {g : Nat} (ok : h.Legal) : (h.evalGroup g).Legal :=
  .ite ok
    (.ite (.darkGroup (.forN ok.watchStep.switchStep fun _ _ ok => ok.lostStep)) (.forN ok.watchStep.switchStep fun _ _ ok => ok.lostStep))
theorem execCombEvaluation_keeps {power : List (List (List Int))} : Keeps (execCombEvaluation power) := .act fun _ ok =>
  .ite (.forN ok fun _ _ ok => ok.setOe) (.tryswitch (.forN (.forN ok fun _ _ ok => ok.setOe) fun _ _ ok => ok.evalGroup))
theorem execSpareReady_keeps : Keeps execSpareReady := .act fun _ ok => .ite ok.setComb.tryswitch ok
theorem execCombForce_keeps {group : Nat} : Keeps (execCombForce group) := .actReg fun _ ok =>
  .ite ok (.ite ok.setComb (.tryswitch (.setComb (.foldl ok.setComb fun _ _ ok => ok.noSpare))))
theorem execPauseAckTimeout_keeps {fport link : Nat} : Keeps (execPauseAckTimeout fport link) := .act fun _ ok => by
  dsimp only
  split
  exacts [ok, .ite ok.setLink (.ite ok (.ite ok.setLink.sendCtrl ok.setLink.evMod))]
theorem execSwitchoverSwitch_keeps : Keeps execSwitchoverSwitch := .act fun _ ok => by
  split
  exacts [ok, .ite ok ok.flashWrite.setComb]
theorem Hw.Legal.relight {p l : Nat} (ok : h.Legal) : (h.relight p l).Legal :=
  .ite (.ite ok.setLink.sendAck ok.setLink) (.sendAck (.ite ok.setLink.sendResync.setLink.sendCtrl ok.setLink.sendResync.setLink))
theorem execCombSwitchDone_keeps {micros : Nat} {power : List (List (List Int))} :
    Keeps (execCombSwitchDone micros power) := .act fun _ ok => by
  split
  · exact ok
  · exact .ite ok
      (.foldl (.evMod (.foldl (.setComb (.forN (.foldl ok fun _ _ ok => ok.setLink) fun _ _ ok => ok.setOe)) fun _ _ ok => ok.relight)) fun _ _ ok =>
        .ite ok.settle ok)
theorem execSourceRetest_keeps {power : List Int} : Keeps (execSourceRetest power) := .act fun _ ok => by
  split
  exacts [ok, .ite ok ok.flashWrite.setComb.evMod]

/-! ## Machine/Hbm.lean -/

theorem Hw.Legal.setHbm {d : Nat} {f : Hbm → Hbm} (ok : h.Legal) : (h.setHbm d f).Legal := ok.setDie
theorem Hw.Legal.dropXlat {n : Nat} (ok : h.Legal) : (h.dropXlat n).Legal := .of_kept ok (by simp [Hw.kept, Hw.sizes, Hw.dropXlat])
theorem execXlatInv_keeps {port ctx : Nat} : Keeps (execXlatInv port ctx) := .actFrom fun _ ok => .ite ok ok.setCtx.dropXlat
theorem execXlatInvDone_keeps {ctx : Nat} : Keeps (execXlatInvDone ctx) := .act fun _ ok => .ite ok.setCtx.dropXlat ok
theorem execHbmRateSet_keeps {rate : Nat} : Keeps (execHbmRateSet rate) := .actReg fun h ok => by
  by_cases c : 3 ≤ rate ∨ h.hbmCfgOk = false
  · rw [if_pos c]
    exact ok
  · have lim : ({ h.lim with rate := rate } : Limits).Legal := { ok.lim with rate := by dsimp only; omega }
    rw [if_neg c]
    exact .ite (ok.setLim lim) (ok.of_sizes (by simp [Hw.sizes]) lim ok.mem ok.hostMem ok.poison)
theorem execHbmLocalSet_keeps {gib : Nat} : Keeps (execHbmLocalSet gib) := .actReg fun h ok => by
  by_cases c : 32 < gib ∨ h.hbmCfgOk = false
  · rw [if_pos c]
    exact ok
  · rw [if_neg c]
    exact ok.of_sizes rfl { ok.lim with localGib := by dsimp only; omega }
      (List.foldlRecOn (motive := fun m => Memory.wf m = true) _ _ rfl fun _ wf x _ => Memory.wf_set _ x.2 wf) ok.hostMem
      (pairwise_foldl_setIns _ _ .nil)
theorem Hw.Legal.offer {stack : Nat} {q : HbmSlot} (ok : h.Legal) : (h.offer stack q).Legal := .ite ok.setHbm ok.setHbm
theorem Hw.Legal.refillSlots (ok : h.Legal) : h.refillSlots.Legal :=
  .foldl (.of_kept ok (by simp [Hw.kept, Hw.sizes])) fun _ _ ok => ok.offer
theorem execHbmRequest_keeps {stack : Nat} {requester : HbmRequester} {bank ahead group : Nat} {data : Option (List Byte)} :
    Keeps (execHbmRequest stack requester bank ahead group data) := .actDie fun _ ok =>
  .ite ok (.ite ok (.ite (.ite ok.setHbm ok) (.offer (.of_kept (.ite ok.setHbm ok) rfl))))
theorem Hw.Legal.retryHeld (ok : h.Legal) : h.retryHeld.Legal :=
  .foldl (.of_kept ok rfl) fun _ _ ok => by
    dsimp only
    split
    · exact ok.memAccess
    · exact ok.ownerBlock
    · exact ok.bar2Read
    · exact ok.bar2Write
    · exact ok.landMessage
    · exact ok.takePartial
    · exact ok.takeResult
theorem Hw.Legal.deliverData {q : HbmSlot} {bs : List Byte} {po : Bool} (ok : h.Legal) : (h.deliverData q bs po).Legal := by
  unfold Hw.deliverData
  split
  exacts [.foldl (.of_kept ok rfl) fun _ _ ok => ok.emit, ok.emit]
theorem execHbmRequestComplete_keeps {stack n : Nat} {ue corrected : Bool} :
    Keeps (execHbmRequestComplete stack n ue corrected) := .actDie fun _ ok => by
  split
  · exact ok
  · exact .ite ok
      (.retryHeld
        (.refillSlots
          (by
            split
            · dsimp only
              split
              exacts [ok.setHbm.applyWrites.touchLines, ok.setHbm.applyWrites]
            · exact .ite (.ite (.foundCe (.ite ok.setHbm.foundUe ok.setHbm)) (.ite ok.setHbm.foundUe ok.setHbm))
                (.deliverData (.ite (.foundCe (.ite ok.setHbm.foundUe ok.setHbm)) (.ite ok.setHbm.foundUe ok.setHbm))))))
theorem execHbmRequestAgeing_keeps {stack n : Nat} : Keeps (execHbmRequestAgeing stack n) := .actDie fun _ ok => ok.setHbm
theorem execHbmBankSlow_keeps {stack bank : Nat} : Keeps (execHbmBankSlow stack bank) := .actDie fun _ ok => .ite ok ok.setHbm.evMod
theorem Hw.Legal.stackLost {k cause : Nat} (ok : h.Legal) : (h.stackLost k cause).Legal := .ite ok ok.setHbm.evMod.faultAll.enterOos
theorem execStackLoss_keeps {stack cause : Nat} : Keeps (execStackLoss stack cause) := .actDie fun _ ok => ok.stackLost
theorem execHbmRetrainDone_keeps {micros : Nat} {failed : Option Nat} : Keeps (execHbmRetrainDone micros failed) := .act fun _ ok =>
  .ite ok
    (.retryHeld
      (by
        split
        · exact .stackLost (.evMod (.refillSlots (.of_kept ok (by simp [Hw.kept, Hw.sizes]))))
        · exact .evMod (.refillSlots (.of_kept ok (by simp [Hw.kept, Hw.sizes])))))
theorem execMemorySideAdd_keeps {die : Nat} {da : W64} {op elem : Nat} {grad : Bool} {bytes : List Byte} {poisoned : List Nat} {cmd :
    (Nat × W32) × Env} :
    Keeps (execMemorySideAdd die da op elem grad bytes poisoned cmd) := .actDie fun _ ok =>
  .ite ok ok.readErrors.addAt.dropLine.setDie.setCmd
theorem Hw.Legal.scrubUe {die place row g : Nat} (ok : h.Legal) : (h.scrubUe die place row g).Legal :=
  .ite (.ite ok.foundUe ok) ok.setDie.ueFound.recordRow
theorem Hw.Legal.stateUe {die n : Nat} (ok : h.Legal) : (h.stateUe die n).Legal := by
  unfold Hw.stateUe
  dsimp only
  split
  exacts [ok.free.ueFound.faultCtx, ok.free.ueFound]
theorem Hw.Legal.breakXlat {die page : Nat} (ok : h.Legal) : (h.breakXlat die page).Legal := ok.setDie
theorem execSramScrub_keeps {die place tile row : Nat} {corrected uncorrectable : List Nat} :
    Keeps (execSramScrub die place tile row corrected uncorrectable) := .actDie fun _ ok =>
  .ite (.foldl ok.setDie.noteCe fun _ _ ok => ok.scrubUe)
    (.ite (.foldl ok fun _ _ ok => ok.breakSlot) (.ite (.foldl ok fun _ _ ok => ok.breakXlat) (.foldl ok.noteCe fun _ _ ok => ok.stateUe)))

/-! ## Machine/Peers.lean -/

theorem Hw.Legal.reinstated (ok : h.Legal) : h.reinstated.Legal := .evMod (.setKeystone ok.flashWrite)
theorem execReinstate_keeps {ring : Nat} {index : W32} {env : Env} : Keeps (execReinstate ring index env) := .act fun _ ok =>
  .onCmd ok fun _ =>
    .ite ok.finishCmd
      (.ite ok.conflict
        (.ite ok.conflict
          (.ite ok
            (by
              dsimp only
              split
              · exact ok.applyEnv.hostPoisonRead.finishCmd
              · exact .ite ok.applyEnv.hostPoisonRead.finishCmd
                  (.ite ok.applyEnv.hostPoisonRead ok.applyEnv.hostPoisonRead.reinstated.complete.recover)))))
theorem Hw.Legal.putFence {f : Fence} (ok : h.Legal) : Gives Hw.Legal (h.putFence f) := by
  refine .ite (.some (.of_kept ok rfl)) ?_
  split
  exacts [.some (.of_kept ok rfl), .none]
theorem Hw.Legal.fencePeer {f : Fence} (ok : h.Legal) : (h.fencePeer f).Legal :=
  .foldl (.foldl (.foldl (.of_kept ok rfl) fun _ _ ok => .ite ok.endSender ok) fun _ _ ok => .ite ok.loseAccess ok) fun _ _ ok =>
    .ite ok.declareDead ok
theorem Hw.Legal.peerFence {ring : Nat} {index : W32} {c : Cmd} {fence : Bool} {env : Env} (ok : h.Legal) :
    (h.peerFence ring index c fence env).Legal :=
  .ite ok.finishCmd
    (.ite ok
      (by
        dsimp only
        split
        · exact ok.applyEnv.hostPoisonRead.finishCmd
        · exact .ite ok.applyEnv.hostPoisonRead.finishCmd
            (.ite ok.applyEnv.hostPoisonRead.conflict
              (by
                split
                · exact ok.applyEnv.hostPoisonRead.conflict
                · exact .finishCmd
                    (.evMod (.ite (.fencePeer (.putFence ok.applyEnv.hostPoisonRead ‹_›)) (.putFence ok.applyEnv.hostPoisonRead ‹_›)))))))
theorem execPeerFenceFence_keeps {ring : Nat} {index : W32} {env : Env} : Keeps (execPeerFenceFence ring index env) := .act fun _ ok =>
  .onCmd ok fun _ => .ite ok.peerFence ok
theorem execPeerFenceUnfence_keeps {ring : Nat} {index : W32} {env : Env} :
    Keeps (execPeerFenceUnfence ring index env) := .act fun _ ok =>
  .onCmd ok fun _ => .ite ok.peerFence ok
theorem Hw.Legal.onTwin {ring : Nat} {index : W32} {op : Nat} {f : Cmd → Coord → Hw} (ok : h.Legal) (keep : ∀ x y, (f x y).Legal) :
    (h.onTwin ring index op f).Legal :=
  .onCmd ok fun _ => .ite ok (by split; exacts [keep _ _, ok.conflict])
theorem Run.Legal.twinBytes {r : Run} {twin : Coord} {cva n : Nat} {versioned : Bool} (ok : r.Legal) :
    (r.twinBytes twin cva n versioned).2.Legal := by
  unfold Run.twinBytes
  dsimp only
  split
  · exact ok.readPeer
  · split
    · exact ok.readPeer
    · split <;> exact ok.readPeer
theorem Run.Legal.twinView {r : Run} {twin : Coord} {cva k : Nat} {mine : TD} (ok : r.Legal) : (r.twinView twin cva k mine).2.Legal := by
  unfold Run.twinView
  extract_lets x t aligned y o v fail hd parts
  have ok2 : y.2.Legal := .ite_2 ok.twinBytes.twinBytes ok.twinBytes
  split
  · exact ok2
  · split
    · exact ok2
    · split
      · exact ok2
      · split
        exacts [ok2, ok2.readPeer]
theorem Hw.Legal.mirrorRun {ring : Nat} {c : Cmd} {twin : Coord} {env : Env} (ok : h.Legal) : (h.mirrorRun ring c twin env).Legal :=
  ok.moveRun.slotView.twinView.copyTensor
theorem Hw.Legal.mirrorStep {n : Nat} {c : Cmd} {twin : Coord} (ok : h.Legal) : (h.mirrorStep n c twin).Legal := ok.sendCtx
theorem execTwinSyncMirror_keeps {ring : Nat} {index : W32} {env : Env} : Keeps (execTwinSyncMirror ring index env) := .act fun _ ok =>
  .onTwin ok fun _ _ =>
    .ite (.ite ok (.endRun ok.mirrorStep ok.mirrorStep.moveRun)) (.ite (.endRun ok ok.mirrorRun) (.keepRun ok ok.mirrorRun))
theorem Hw.Legal.pullRun {ring : Nat} {c : Cmd} {twin : Coord} {env : Env} (ok : h.Legal) : (h.pullRun ring c twin env).Legal :=
  ok.moveRun.slotView.twinView.copyTensor
theorem execTwinSyncPull_keeps {ring : Nat} {index : W32} {env : Env} : Keeps (execTwinSyncPull ring index env) := .act fun _ ok =>
  .onTwin ok fun _ _ => .ite ok.holdCmd (.ite (.endRun ok ok.pullRun) (.setCtx (.endRun ok ok.pullRun)))
theorem Hw.Legal.standinEvent {n : Nat} {takeover : Bool} {twin : Coord} (ok : h.Legal) : (h.standinEvent n takeover twin).Legal := ok.evCtx
theorem execTwinSyncTakeover_keeps {ring : Nat} {index : W32} : Keeps (execTwinSyncTakeover ring index) := .act fun _ ok =>
  .onTwin ok fun _ _ => .ite ok.setCtx.standinEvent.finishCmd ok.conflict
theorem execTwinSyncAsTwin_keeps {ring : Nat} {index : W32} {env : Env} : Keeps (execTwinSyncAsTwin ring index env) := .act fun _ ok =>
  .onTwin ok fun _ _ => .ite (.ite ok.signalBody ok) (.ite (.ite ok ok.agreeBegin) ok.startSlices)
theorem execTwinSyncHandback_keeps {ring : Nat} {index : W32} : Keeps (execTwinSyncHandback ring index) := .act fun _ ok =>
  .onTwin ok fun _ _ => .finishCmd (.ite ok.setCtx.standinEvent ok)

/-! ## Machine/Startup.lean -/

theorem execPowerGood_keeps : Keeps execPowerGood := .actPin fun _ ok => .ite ok ok.powerUp
theorem Hw.Legal.unrepairable {d tile row : Nat} (ok : h.Legal) : (h.unrepairable d tile row).Legal :=
  .ite ok.evMod.dieFails ok.evMod.retireTile.flashWrite.setDie
theorem Hw.Legal.assignSpares (ok : h.Legal) : h.assignSpares.Legal := .foldl (.of_kept ok rfl) fun _ _ ok => .ite ok.unrepairable ok
theorem Hw.Legal.trainedAtStart {d p lg w0 w1 n : Nat} (ok : h.Legal) : (h.trainedAtStart d p lg w0 w1 n).Legal :=
  .ite ok.trainLane.dieFails ok.trainLane
theorem Hw.Legal.finding {n : Nat} {f : StepReport} (ok : h.Legal) : (h.finding n f).Legal :=
  .ite (by split; exacts [ok.enterOos, ok])
    (.ite ok
      (by
        split
        · exact ok
        · exact .ite ok.trainedAtStart ok
        · exact .ite ok.stackLost ok
        · exact .ite ok.unrepairable ok
        · exact .ite ok.dieFails ok
        · exact ok.enterOos
        · exact .ite ok.darkGroup ok))
theorem Hw.Legal.stepped {n : Nat} (ok : h.Legal) : (h.stepped n).Legal := .of_kept ok rfl
theorem Hw.Legal.bootSlot (ok : h.Legal) : h.bootSlot.Legal := by
  unfold Hw.bootSlot
  split
  exacts [.of_kept ok rfl, .of_kept (a := h.stepped 4) ok.stepped rfl]
theorem Hw.Legal.stacksUp (ok : h.Legal) : h.stacksUp.Legal := .of_kept (a := h.stepped 8) ok.stepped rfl
theorem Hw.Legal.diesUp (ok : h.Legal) : h.diesUp.Legal := .of_kept (a := h.assignSpares.stepped 9) ok.assignSpares.stepped rfl
theorem Hw.Legal.bridgesUp (ok : h.Legal) : h.bridgesUp.Legal := .mapHosts ok.stepped
theorem Hw.Legal.reachReady {ms : Nat} (ok : h.Legal) : (h.reachReady ms).Legal :=
  .forN (.setKeystone ok.stepped) fun _ _ ok => ok.relightPort
theorem execStartupStepComplete_keeps {found : List StepReport} {ms : Nat} :
    Keeps (execStartupStepComplete found ms) := .act fun _ ok => by
  split
  · exact .ite ok.enterOos ok
  · exact .after (.foldl ok fun _ _ ok => ok.finding) fun ok =>
      .ite ok
        (.ite ok.bootSlot
          (.ite ok.bridgesUp (.ite (.ite ok.stepped ok) (.ite ok.stacksUp (.ite ok.diesUp (.ite ok.reachReady ok.stepped))))))
theorem execKs1LeadsStartup_keeps : Keeps execKs1LeadsStartup := .act fun _ ok => .ite (.setKeystone ok.flashWrite) ok
theorem execCounterCalibration_keeps {clock0 clock1 : Bool} : Keeps (execCounterCalibration clock0 clock1) := .act fun _ ok =>
  .ite (.of_kept ok.setHost.setHost rfl) ok.setHost.setHost
theorem execDebugUnlock_keeps {port : Nat} {env : Env} : Keeps (execDebugUnlock port env) := .actFrom fun _ ok =>
  .ite ok
    (by
      dsimp only
      split
      · exact .of_kept ok.applyEnv.hostPoisonRead rfl
      · exact .ite (.of_kept ok.applyEnv.hostPoisonRead rfl) (.of_kept ok.applyEnv.hostPoisonRead rfl))
theorem execKeyInstall_keeps {port : Nat} {env : Env} : Keeps (execKeyInstall port env) := .actFrom fun _ ok =>
  .ite ok
    (.ite (.of_kept ok.applyEnv.hostPoisonRead rfl)
      (by
        split
        · exact .of_kept ok.applyEnv.hostPoisonRead rfl
        · exact .ite (.of_kept ok.applyEnv.hostPoisonRead rfl) (.of_kept ok.applyEnv.hostPoisonRead rfl)))
theorem execKeyInstallDone_keeps : Keeps execKeyInstallDone := .act fun _ ok => by
  split
  exacts [.setKeystone ok.flashWrite, ok]

/-! ## Machine/Attest.lean -/

theorem Hw.Legal.configWrite {p reg : Nat} {v : W32} (ok : h.Legal) : (h.configWrite p reg v).Legal :=
  .ite (.ite ok.setHost.setHost.portReturns ok.setHost.setHost)
    (.ite (.ite ok.setHost.setHost ok.setHost)
      (.ite ok.setHost.setHost (.ite ok.setHost.setHost.msixFlush (.ite ok.setHost.setHost ok.setHost))))
theorem execConfigRequest_keeps {port reg : Nat} {write : Option W32} : Keeps (execConfigRequest port reg write) := .act fun _ ok =>
  .ite ok
    (.ite (.emit (.of_kept ok rfl)) (.emit (by split; exacts [.setHost (.of_kept ok rfl), .configWrite (.setHost (.of_kept ok rfl))])))
theorem Hw.Legal.doeReply {p : Nat} {r : DoeReply} (ok : h.Legal) : (h.doeReply p r).Legal := .ite ok.emit.msixSend ok.emit
theorem Hw.Legal.spdm {p : Nat} {accepted : Bool} {f : Spdm → Spdm} {r : DoeReply} (ok : h.Legal) : (h.spdm p accepted f r).Legal :=
  .ite ok (.ite ok.setHost.doeReply ok.doeReply)
theorem Hw.Legal.oversized {p : Nat} (ok : h.Legal) : (h.oversized p).Legal := .ite ok.setHost.doeReply ok
theorem execDoeDiscovery_keeps {port index : Nat} : Keeps (execDoeDiscovery port index) := .act fun _ ok => .ite ok.doeReply ok
theorem execGetVersion_keeps {port : Nat} : Keeps (execGetVersion port) := .act fun _ ok => ok.spdm
theorem execGetCapabilities_keeps {port : Nat} : Keeps (execGetCapabilities port) := .act fun _ ok => ok.spdm
theorem execNegotiateAlgorithms_keeps {port : Nat} : Keeps (execNegotiateAlgorithms port) := .act fun _ ok => ok.spdm
theorem execGetDigests_keeps {port : Nat} : Keeps (execGetDigests port) := .act fun _ ok => ok.spdm
theorem execGetCertificate_keeps {port slot offset length : Nat} :
    Keeps (execGetCertificate port slot offset length) := .act fun _ ok =>
  ok.spdm
theorem execChallenge_keeps {port slot : Nat} {nonce : List Byte} : Keeps (execChallenge port slot nonce) := .act fun _ ok => ok.spdm
theorem execGetMeasurements_keeps {port index : Nat} {signed : Bool} {nonce : List Byte} :
    Keeps (execGetMeasurements port index signed nonce) := .act fun _ ok =>
  ok.spdm
theorem execKeyExchange_keeps {port : Nat} {exchange : List Byte} : Keeps (execKeyExchange port exchange) := .act fun _ ok =>
  .ite ok.oversized ok.spdm
theorem execFinish_keeps {port : Nat} {verified : Bool} : Keeps (execFinish port verified) := .act fun _ ok =>
  .ite ok.setHost.doeReply ok.spdm
theorem execKeyUpdate_keeps {port : Nat} : Keeps (execKeyUpdate port) := .act fun _ ok => ok.spdm
theorem execHeartbeat_keeps {port : Nat} : Keeps (execHeartbeat port) := .act fun _ ok => ok.spdm
theorem execEndSession_keeps {port : Nat} : Keeps (execEndSession port) := .act fun _ ok => ok.spdm
theorem execDoeAbort_keeps {port : Nat} : Keeps (execDoeAbort port) := .act fun _ ok => ok.setHost
theorem execIdeKm_keeps {port stream : Nat} {keys : List Byte} : Keeps (execIdeKm port stream keys) := .act fun _ ok =>
  .ite ok (.ite ok.oversized (.ite ok.setHost.doeReply ok.doeReply))
theorem execIdeFail_keeps {port stream : Nat} : Keeps (execIdeFail port stream) := .act fun _ ok => .ite ok.setHost.evMod.reportAer ok

/-! ## Machine/Mortar.lean -/

theorem Hw.Legal.setLane {d p lg : Nat} {f : LaneGroup → LaneGroup} (ok : h.Legal) : (h.setLane d p lg f).Legal := ok.setMort
theorem Hw.Legal.resendWindow {d p lg : Nat} (ok : h.Legal) : (h.resendWindow d p lg).Legal := .foldl ok fun _ _ ok => ok.emit
theorem Hw.Legal.sendFlitNack {d p lg : Nat} (ok : h.Legal) : (h.sendFlitNack d p lg).Legal := ok.emit
theorem Hw.Legal.fillWindow {d p lg : Nat} (ok : h.Legal) : (h.fillWindow d p lg).Legal := .ite ok (.foldl ok.setLane fun _ _ ok => ok.emit)
theorem Hw.Legal.assignPacket {d p : Nat} (ok : h.Legal) : (h.assignPacket d p).Legal := by
  unfold Hw.assignPacket
  dsimp only
  split
  · split
    exacts [ok, ok.setMort.setLane.fillWindow]
  · exact ok
theorem Hw.Legal.pumpPort {d p : Nat} (ok : h.Legal) : (h.pumpPort d p).Legal := .forN ok fun _ _ ok => ok.assignPacket
theorem Hw.Legal.enterPort {d p : Nat} {x : Packet} (ok : h.Legal) : (h.enterPort d p x).Legal := .ite ok ok.setMort.pumpPort
theorem Hw.Legal.deliverPacket {d : Nat} {x : Packet} (ok : h.Legal) : (h.deliverPacket d x).Legal :=
  .ite (by split; exacts [ok.enterPort, ok.emit]) ok.enterPort
theorem Hw.Legal.deliverEarly {d p : Nat} (ok : h.Legal) : (h.deliverEarly d p).Legal :=
  .forN ok fun _ _ ok => by dsimp only; split; exacts [ok, ok.setMort.deliverPacket]
theorem Hw.Legal.packetIn {d p : Nat} {x : Packet} (ok : h.Legal) : (h.packetIn d p x).Legal := .ite ok ok.setMort.deliverEarly
theorem Hw.Legal.takeFlit {d p lg : Nat} {f : Flit} (ok : h.Legal) : (h.takeFlit d p lg f).Legal := by
  unfold Hw.takeFlit
  split
  exacts [.ite ok.setLane ok, .ite ok (.ite ok.setLane.packetIn ok.setLane), ok]
theorem Hw.Legal.flitNack {d p lg seq : Nat} (ok : h.Legal) : (h.flitNack d p lg seq).Legal :=
  .ite ok ok.setLane.resendWindow.fillWindow.pumpPort
theorem execMortarNack_keeps {die port lg seq : Nat} : Keeps (execMortarNack die port lg seq) := .actDie fun _ ok => ok.flitNack
theorem Hw.Legal.startRetrain {d p lg : Nat} {ask : Bool} (ok : h.Legal) : (h.startRetrain d p lg ask).Legal :=
  .ite ok (.ite ok.setMort.setLane.emit ok.setMort.setLane)
theorem execLaneRetrain_keeps {die port lg : Nat} : Keeps (execLaneRetrain die port lg) := .actDie fun _ ok => .ite ok.startRetrain ok
theorem execLgRetrain_keeps {die port : Nat} : Keeps (execLgRetrain die port) := .actReg fun _ ok => ok.startRetrain
theorem execFlitReceive_keeps {die port lg : Nat} {f : Flit} : Keeps (execFlitReceive die port lg f) := .actDie fun _ ok =>
  .ite ok
    (.ite ok.setMort.setLane.sendFlitNack.noteCrc
      (.ite ok.setLane.fillWindow.pumpPort.flitNack
        (.ite ok.setLane.fillWindow.pumpPort.startRetrain
          (.ite ok.setLane.fillWindow.pumpPort
            (.ite ok.setLane.fillWindow.pumpPort.setLane.takeFlit
              (.ite ok.setLane.fillWindow.pumpPort ok.setLane.fillWindow.pumpPort.setLane.sendFlitNack))))))
theorem Hw.Legal.moveWindow {d p lg : Nat} (ok : h.Legal) : (h.moveWindow d p lg).Legal := ok.setLane.setMort.pumpPort
theorem Hw.Legal.carryOn {d p : Nat} {m : MortPort} (ok : h.Legal) : (h.carryOn d p m).Legal :=
  .ite ok (.foldl (.foldl ok fun _ _ ok => ok.deliverPacket) fun _ _ ok => ok.enterPort)
theorem Hw.Legal.checkPort {d p : Nat} (ok : h.Legal) : (h.checkPort d p).Legal :=
  .ite ok.capEngine (by split; exacts [ok.setMort.carryOn.recover, by split; exacts [ok.setMort.carryOn.recover, ok.setMort.carryOn]])
theorem execLaneRetrainDone_keeps {die port lg : Nat} {failedWire : Option Nat} :
    Keeps (execLaneRetrainDone die port lg failedWire) := .actDie fun _ ok =>
  .ite ok
    (by
      split
      · exact ok.setLane.resendWindow.fillWindow.pumpPort
      · exact .ite ok.setLane.resendWindow.fillWindow.pumpPort ok.setLane.setMort.moveWindow.checkPort)

/-! ## Machine/Power.lean -/

theorem execClockSet_keeps {die : Nat} {value : W32} : Keeps (execClockSet die value) := .actReg fun _ ok => .ite ok.setAux ok
theorem execHighClkSet_keeps {value : Bool} : Keeps (execHighClkSet value) := .actReg fun _ ok =>
  .ite ok (.ite (.of_kept ok rfl) (.of_kept (.of_kept ok rfl) (by simp [Hw.kept, Hw.sizes])))
theorem execSupplyLow_keeps {lowest : Nat} : Keeps (execSupplyLow lowest) := .act fun _ ok => .ite ok.evMod ok
theorem execSupplyHigh_keeps {highest : Nat} : Keeps (execSupplyHigh highest) := by
  intro s t ok e
  unfold execSupplyHigh at e
  split at e
  · cases e
  · exact Keeps.act (fun _ ok => .ite ok.evMod ok) s t ok e
theorem execSupplyLost_keeps {reading : Nat} : Keeps (execSupplyLost reading) := .act fun _ ok => .ite (.of_kept ok rfl) ok
theorem Hw.Legal.setLevel {i : Island} {n : Nat} (ok : h.Legal) : (h.setLevel i n).Legal := by
  unfold Hw.setLevel
  split
  exacts [ok.setTile, ok.setAux, ok]
theorem Hw.Legal.setDroop {i : Island} {v : Bool} (ok : h.Legal) : (h.setDroop i v).Legal := by
  unfold Hw.setDroop
  split
  exacts [ok.setTile, ok.setAux, ok]
theorem Hw.Legal.countDroop {d n : Nat} (ok : h.Legal) : (h.countDroop d n).Legal := .ite ok.setAux.setAux.evMod ok.setAux
theorem execDroopDetect_keeps {x : Island × Nat} : Keeps (execDroopDetect x) := .actDie fun _ ok => by
  split
  exacts [ok.countDroop, ok]
theorem execDroopStep_keeps {i : Island} : Keeps (execDroopStep i) := .actDie fun _ ok => by
  split
  exacts [ok.setDroop.countDroop, ok]
theorem execDroopStepRaise_keeps {i : Island} : Keeps (execDroopStepRaise i) := .act fun _ ok => ok.setDroop
theorem Hw.Legal.keepReading {i : Island} {t : Nat} (ok : h.Legal) : (h.keepReading i t).Legal := by
  unfold Hw.keepReading
  dsimp only
  split
  · exact .setTile (by split; exacts [ok.setAux, .of_kept ok rfl])
  · split
    exacts [ok.setAux, .of_kept ok rfl]
theorem Hw.Legal.thermalStep {i : Island} {d n t : Nat} (ok : h.Legal) : (h.thermalStep i d n t).Legal :=
  .ite ok.setLevel.setAux ok.setLevel.setAux.setAux.evMod
theorem Hw.Legal.thermalStop {i : Island} {t : Nat} (ok : h.Legal) : (h.thermalStop i t).Legal := by
  unfold Hw.thermalStop
  dsimp only
  refine .recover ?_
  split
  · exact .ite (.evMod (.setKeystone (.flashWrite (.evMod (.of_kept ok rfl))))) (.evMod (.of_kept ok rfl))
  · exact .evMod (.of_kept ok rfl)
theorem execThermalReading_keeps {i : Island} {tenths : Nat} : Keeps (execThermalReading i tenths) := .act fun _ ok =>
  .ite ok (.ite ok.keepReading (.ite ok.keepReading.thermalStop (by split; exacts [ok.keepReading.thermalStep, ok.keepReading])))
theorem execThermalLevelFall_keeps {i : Island} : Keeps (execThermalLevelFall i) := .act fun _ ok => .ite ok.setLevel ok
theorem execThermalRecovery_keeps {i : Island} : Keeps (execThermalRecovery i) := .act fun _ ok => .ite (.of_kept ok rfl) ok
theorem execCoolantHot_keeps {tenths : Nat} : Keeps (execCoolantHot tenths) := .act fun _ ok =>
  .ite (.of_kept ok rfl) (.ite (.of_kept ok rfl) (.evMod (.of_kept (.of_kept ok rfl) rfl)))

/-! ## Machine/RegWrite.lean -/

theorem Hw.Legal.ringWrite {port r o v : Nat} (ok : h.Legal) : (h.ringWrite port r o v).Legal :=
  .ite (.ite ok.setRing ok)
    (.ite (.ite ok.setRing ok)
      (.ite (.ite ok.setRing ok)
        (.ite ok.setRing
          (.ite
            (.ite ok
              (.ite (.via ok execRingStart_keeps)
                (.ite (.via ok execRingStop_keeps) (.ite (.via ok execRingDrain_keeps) (.ite (.via ok execRingResume_keeps) ok.ringCmdErr)))))
            (.ite ok.setRing (.ite (.ite ok.setRing ok) ok))))))
theorem Hw.Legal.outRingWrite {evt : Bool} {n o v : Nat} (ok : h.Legal) : (h.outRingWrite evt n o v).Legal :=
  .ite (.ite ok ok.setOutRing)
    (.ite (.ite ok ok.setOutRing)
      (.ite (.ite (.via ok execRingEnSet_keeps) (.via ok execRingEnClear_keeps))
        (.ite ok.setOutRing (.ite ok.setOutRing (.ite ok.setOutRing ok)))))
theorem Hw.Legal.ringsWrite {port o v : Nat} (ok : h.Legal) : (h.ringsWrite port o v).Legal :=
  .ite ok.ringWrite (.ite ok.outRingWrite (.ite ok.outRingWrite ok))
theorem Hw.Legal.ctxWrite {port n o v : Nat} (ok : h.Legal) : (h.ctxWrite port n o v).Legal :=
  .ite (.ite ok.setCtx ok)
    (.ite
      (.ite (.ite ok ok.ctxCmdErr)
        (.ite (.via ok execContextOpen_keeps) (.ite (.via ok execContextCloseDrain_keeps) (.via ok execContextCloseFlush_keeps))))
      (.ite ok.setCtx
        (.ite ok.setCtx
          (.ite ok.setCtx
            (.ite (.ite (.via ok execXlatInv_keeps) ok)
              (.ite ok.setCtx (.ite ok.setCtx (.ite ok.setCtx (.ite ok.setCtx (.ite ok.setCtx ok))))))))))
theorem Hw.Legal.bcastWrite {o v : Nat} (ok : h.Legal) : (h.bcastWrite o v).Legal :=
  .ite (.of_kept ok rfl) (.ite (.of_kept ok rfl) (.ite (.of_kept ok rfl) ok))
theorem Hw.Legal.bridgeWrite {p o v : Nat} (ok : h.Legal) : (h.bridgeWrite p o v).Legal :=
  .ite (.ite ok ok.setHost) (.ite (.via ok execApertureWrite_keeps) (.ite ok.setHost (.ite ok.setHost ok)))
theorem Hw.Legal.portWrite {p o v : Nat} (ok : h.Legal) : (h.portWrite p o v).Legal :=
  .ite
    (.ite (.via (.ite (.via ok execPortEnable_keeps) (.via ok execPortDisable_keeps)) execPortRetrain_keeps)
      (.ite (.via ok execPortEnable_keeps) (.via ok execPortDisable_keeps)))
    (.ite ok.setLink ok)
theorem Hw.Legal.oeWrite {e o v : Nat} (ok : h.Legal) : (h.oeWrite e o v).Legal := .ite ok.portWrite (.ite ok.portWrite ok)
theorem Hw.Legal.mortWrite {d p o v : Nat} (ok : h.Legal) : (h.mortWrite d p o v).Legal :=
  .ite ok (.ite (.ite (.via ok.setMort execLgRetrain_keeps) ok.setMort) (.ite ok.setMort (.ite ok.setMort (.ite ok.setMort ok))))
theorem Hw.Legal.tileWrite {d t o v : Nat} (ok : h.Legal) : (h.tileWrite d t o v).Legal :=
  .ite ok.setTile
    (.ite ok.setTile
      (.ite ok.setTile
        (.ite (.ite (.via (.ite (.via ok execTrgScrub_keeps) ok) execSlotScrub_keeps) (.ite (.via ok execTrgScrub_keeps) ok))
          (.ite ok.setTile (.ite ok.setTile (.ite ok.setTile ok))))))
theorem Hw.Legal.dieWrite {d o v : Nat} (ok : h.Legal) : (h.dieWrite d o v).Legal :=
  .ite ok.mortWrite
    (.ite (.ite (.via ok execTileRetire_keeps) ok.setDie)
      (.ite (.via ok execClockSet_keeps) (.ite ok.setAux (.ite ok.setAux (.ite ok.tileWrite ok.setDie)))))
theorem Hw.Legal.setKs {f : Keystone → Keystone} (ok : h.Legal) : (h.setKs f).Legal := .of_kept ok rfl
theorem Hw.Legal.startWrite {port o v : Nat} (ok : h.Legal) : (h.startWrite port o v).Legal :=
  .ite ok.setKs
    (.ite
      (.ite (.via ok execStage_keeps)
        (.ite (.via ok execActivate_keeps) (.ite (.via ok execConfirm_keeps) (.ite (.via ok execCommitSvn_keeps) ok))))
      (.ite ok.setKs
        (.ite ok
          (.ite (.ite (.via ok.setKs execDebugUnlock_keeps) ok.setKs)
            (.ite ok.setKs (.ite (.ite (.via ok.setKs execKeyInstall_keeps) ok.setKs) (.ite ok.setKs (.ite ok.setKs ok))))))))
theorem resetRow_keeps {port domain index : Nat} : Keeps (resetRow port domain index) := by
  unfold resetRow
  split
  exacts [execEngineReset_keeps, execTileReset_keeps, execPortReset_keeps, execOpticalEngineReset_keeps, execDieReset_keeps,
    execContextReset_keeps, execModuleRingReset_keeps, execModuleReset_keeps]
theorem Hw.Legal.resetWrite {port v : Nat} (ok : h.Legal) : (h.resetWrite port v).Legal :=
  .ite (.ite (.via ok execModuleReset_keeps) ok) (.ite (.via ok.setKs resetRow_keeps) ok.setKs.setKs)
theorem Hw.Legal.limWrite {o v : Nat} (ok : h.Legal) : (h.limWrite o v).Legal := by
  have lim := ok.lim
  unfold Hw.limWrite
  dsimp only
  split
  · split
    · exact ok.setLim { lim with slot := by dsimp only; omega }
    · exact ok
  split
  · exact .ite (ok.setLim { lim with present := by dsimp only; omega }) ok
  split
  · exact .ite ok (.ite (.via ok execHbmLocalSet_keeps) (.via (.via ok execHbmLocalSet_keeps) execHbmRateSet_keeps))
  split
  · split
    · exact ok.setLim { lim with linkDead := by dsimp only; omega, reasm := by dsimp only; omega }
    · exact ok
  split
  · split
    · exact ok.setLim { lim with hang := ‹_› }
    · exact ok
  split
  · split
    next c => exact ok.setLim { lim with window := ⟨c.1, by dsimp only; omega⟩ }
    · exact ok
  · exact ok
theorem Hw.Legal.keystoneWrite {port o v : Nat} (ok : h.Legal) : (h.keystoneWrite port o v).Legal :=
  .ite ok.startWrite
    (.ite (.ite (.via ok execCombForce_keeps) (.of_kept ok rfl))
      (.ite ok.resetWrite
        (.ite (.ite (.of_kept ok rfl) ok) (.ite (.ite (.of_kept ok rfl) ok) (.ite (.via ok execHighClkSet_keeps) ok.limWrite)))))
theorem Hw.Legal.wordWrite {port o v : Nat} (ok : h.Legal) : (h.wordWrite port o v).Legal :=
  .ite ok
    (.ite ok.keystoneWrite
      (.ite ok.ringsWrite
        (.ite ok.ctxWrite (.ite ok (.ite ok.bcastWrite (.ite ok.bridgeWrite (.ite ok.oeWrite (.ite ok.dieWrite (.ite ok.msixWrite ok)))))))))
theorem Hw.Legal.regWrite {port o width v : Nat} (ok : h.Legal) : (h.regWrite port o width v).Legal :=
  .ite ok.wordWrite.wordWrite ok.wordWrite
theorem Hw.Legal.aliasWrite {port o width v : Nat} (ok : h.Legal) : (h.aliasWrite port o width v).Legal := by
  unfold Hw.aliasWrite
  split
  exacts [ok, .ite ok (.foldl ok fun _ _ ok => ok.regWrite)]
theorem Hw.Legal.setAgree {port : Nat} {valid agree : Bool} {members first : Nat} (ok : h.Legal) :
    (h.setAgree port valid agree members first).Legal := ok.setHost
theorem Hw.Legal.aliasRead {port o width : Nat} (ok : h.Legal) : (h.aliasRead port o width).Legal := by
  unfold Hw.aliasRead
  split
  · exact ok
  · dsimp only
    split <;> exact ok.setAgree.emit
theorem Hw.Legal.unsupported {p : Nat} (ok : h.Legal) : (h.unsupported p).Legal := ok.emit.reportAer
theorem execRegisterWrite_keeps {port offset width : Nat} {value : W64} :
    Keeps (execRegisterWrite port offset width value) := .act fun _ ok =>
  .ite ok (.ite ok.unsupported (.ite ok.aliasWrite ok.regWrite))
theorem execAliasWrite_keeps {port offset width : Nat} {value : W64} :
    Keeps (execAliasWrite port offset width value) := .act fun _ ok =>
  .ite ok.aliasWrite ok
theorem execAliasRead_keeps {port offset width : Nat} : Keeps (execAliasRead port offset width) := .act fun _ ok => .ite ok.aliasRead ok
theorem execBar0InvalidAccess_keeps {port offset length : Nat} : Keeps (execBar0InvalidAccess port offset length) := .act fun _ ok =>
  .ite ok.unsupported ok

/-! ## Machine/Smbus.lean -/

theorem Hw.Legal.smbus {o : Out} (ok : h.Legal) : (h.smbus o).Legal := ok.emit
theorem Hw.Legal.smbusWord {cmd n : Nat} (ok : h.Legal) : (h.smbusWord cmd n).Legal := ok.smbus
theorem execFruRead_keeps {offset count : Nat} : Keeps (execFruRead offset count) := .actPin fun _ ok => ok.smbus
theorem execInputV_keeps : Keeps execInputV := .actPin fun _ ok => ok.smbusWord
theorem execInputI_keeps : Keeps execInputI := .actPin fun _ ok => ok.smbusWord
theorem execInlet_keeps : Keeps execInlet := .actPin fun _ ok => ok.smbusWord
theorem execOutlet_keeps : Keeps execOutlet := .actPin fun _ ok => ok.smbusWord
theorem execHot_keeps : Keeps execHot := .actPin fun _ ok => ok.smbusWord
theorem execState_keeps : Keeps execState := .actPin fun _ ok => ok.smbusWord

/-! ## Machine/Step.lean -/

theorem exec_keeps (i : Instr) : Keeps (exec i) := by
  cases i
  exacts [
    execWorkDoorbellPoll_keeps, execCplDoorbellPoll_keeps, execDescriptorFetch_keeps, execCommandStart_keeps, execHeaderWaitTimeout_keeps,
    execCommandComplete_keeps, execCplRecordWrite_keeps, execIrqDelayExpiry_keeps, execRingStart_keeps, execRingStop_keeps, execRingDrain_keeps,
    execDrainPoll_keeps, execRingResume_keeps, execRingEnSet_keeps, execRingEnClear_keeps, execRegisterWrite_keeps, execNop_keeps,
    execFence_keeps, execSignal_keeps, execWait_keeps, execSyncOperation_keeps, execCommandTimeout_keeps, execWaitPrefetch_keeps,
    execCopy_keeps, execGather_keeps, execScatter_keeps, execFill_keeps, execEngineAcquire_keeps, execOwnerBlockTransfer_keeps,
    execMatmul_keeps, execStripTake_keeps, execOutputTileDrain_keeps, execElementProgram_keeps, execElementReduceRow_keeps,
    execElementReduceCol_keeps, execElementTopk_keeps, execUnitTake_keeps, execLoadProgram_keeps, execProgramLoadTile_keeps, execTrgScrub_keeps,
    execSlotScrub_keeps, execScrubPerform_keeps, execReduce_keeps, execAllgather_keeps, execReduceScatter_keeps, execCollSliceStart_keeps,
    execCollPartialReceive_keeps, execCollResultReceive_keeps, execTreeDeadlineExpiry_keeps, execCollectiveTimeout_keeps, execSend_keeps,
    execRecv_keeps, execChannelGrant_keeps, execGrantResend_keeps, execChannelMessageArrive_keeps, execChannelCreditReturn_keeps,
    execUpdate_keeps, execLossScaleWrite_keeps, execLossScaleAgree_keeps, execLossScaleSet_keeps, execStatsRead_keeps, execSeqSetStart_keeps,
    execSeqSetParams_keeps, execSeqSetAdvance_keeps, execSeqSetFinish_keeps, execSeqRetire_keeps, execCapture_keeps, execPeerFenceFence_keeps,
    execPeerFenceUnfence_keeps, execLambdaSet_keeps, execTwinSyncMirror_keeps, execTwinSyncPull_keeps, execTwinSyncTakeover_keeps,
    execTwinSyncAsTwin_keeps, execTwinSyncHandback_keeps, execReinstate_keeps, execContextClose_keeps, execContextOpen_keeps,
    execPlanReadDone_keeps, execContextCloseDrain_keeps, execContextCloseFlush_keeps, execQuiesceExpiry_keeps, execTeardownComplete_keeps,
    execNumberHoldExpiry_keeps, execBindRequestReceive_keeps (fport := 0) (link := 0), execBindRetry_keeps,
    execContextMessageReceive_keeps (fport := 0) (link := 0),
    execMemoryAccessReceive_keeps, execXlatInv_keeps, execXlatInvDone_keeps, execHbmRateSet_keeps, execHbmRetrainDone_keeps,
    execHbmLocalSet_keeps, execHbmRequest_keeps, execHbmRequestComplete_keeps, execHbmRequestAgeing_keeps, execHbmBankSlow_keeps,
    execMemorySideAdd_keeps, execSramScrub_keeps, execStackLoss_keeps, execFlitReceive_keeps, execMortarNack_keeps, execLaneRetrain_keeps,
    execLgRetrain_keeps, execLaneRetrainDone_keeps, execPortEnable_keeps, execPortDisable_keeps, execPortRetrain_keeps, execCarrierDetect_keeps,
    execTrainingComplete_keeps, execCarrierLoss_keeps, execLinkDeadExpiry_keeps, execPauseExpiry_keeps, execHello_keeps, execHelloResend_keeps,
    execHelloAck_keeps, execResync_keeps, execDataFrameReceive_keeps, execFrameTransmit_keeps, execAck_keeps, execNackCrc_keeps,
    execControlResend_keeps, execPause_keeps, execPauseAck_keeps, execPauseAckTimeout_keeps, execResume_keeps, execLambdaAdd_keeps,
    execLambdaAddAck_keeps, execLambdaDrop_keeps, execLambdaDropAck_keeps, execLambdaRefuse_keeps, execLambdaChangeTimeout_keeps,
    execLambdaBorrow_keeps, execLambdaWithdraw_keeps, execMsgNack_keeps, execBindAnswer_keeps, execCredit_keeps, execReassemblyExpiry_keeps,
    execTransitForward_keeps, execCombEvaluation_keeps, execSpareReady_keeps, execCombForce_keeps, execSwitchoverSwitch_keeps,
    execCombSwitchDone_keeps, execSourceRetest_keeps, execWatchdogTest_keeps, execEngineReset_keeps, execTileReset_keeps, execPortReset_keeps,
    execOpticalEngineReset_keeps, execDieReset_keeps, execContextReset_keeps, execModuleRingReset_keeps, execModuleReset_keeps,
    execResetDone_keeps, execTileRetire_keeps, execKeystoneHeartbeatCheck_keeps, execPowerGood_keeps, execStartupStepComplete_keeps,
    execKs1LeadsStartup_keeps, execCounterCalibration_keeps, execConfigRequest_keeps, execStage_keeps, execActivate_keeps, execConfirm_keeps,
    execCommitSvn_keeps, execFirmwareCommandDone_keeps, execDebugUnlock_keeps, execKeyInstall_keeps, execKeyInstallDone_keeps,
    execGetVersion_keeps, execGetCapabilities_keeps, execNegotiateAlgorithms_keeps, execGetDigests_keeps, execGetCertificate_keeps,
    execChallenge_keeps, execGetMeasurements_keeps, execKeyExchange_keeps, execFinish_keeps, execKeyUpdate_keeps, execHeartbeat_keeps,
    execEndSession_keeps, execDoeAbort_keeps, execIdeFail_keeps, execClockSet_keeps, execHighClkSet_keeps, execSupplyLow_keeps,
    execSupplyHigh_keeps, execSupplyLost_keeps, execDroopDetect_keeps, execDroopStep_keeps, execDroopStepRaise_keeps, execThermalReading_keeps,
    execThermalLevelFall_keeps, execThermalRecovery_keeps, execCoolantHot_keeps, execPerstAssert_keeps, execPerstDeassert_keeps,
    execDlDown_keeps, execDlUp_keeps, execHostLossTest_keeps, execBar2Read_keeps, execBar2Write_keeps, execApertureWrite_keeps,
    execAliasWrite_keeps, execAliasRead_keeps, execBar0InvalidAccess_keeps, execMsixUnmask_keeps, execFruRead_keeps, execInputV_keeps,
    execInputI_keeps, execInlet_keeps, execOutlet_keeps, execHot_keeps, execState_keeps, execIdeKm_keeps, execDoeDiscovery_keeps,
    execUeSuppressed_keeps]

theorem Hw.Legal.tick {s : State} (ok : s.hw.Legal) : (tick s).hw.Legal := .of_kept ok rfl
theorem Hw.Legal.idle {s : State} (ok : s.hw.Legal) : (idle s).hw.Legal := by
  unfold Machine.idle
  dsimp only
  split
  exacts [.foldl ok.tick fun _ _ ok => ok.tellHeld, ok.tick]

end

end Sys2Proof.Machine

namespace Sys2Proof

/-- Settles O5: the queue's front command keeps a legal state legal (`exec_keeps`), and so does the time that passes over an empty one. -/
theorem stepKeepsLegal : Obligations.StepKeepsLegal := by
  unfold Obligations.StepKeepsLegal
  rintro ⟨hw, pending⟩ t ok next
  cases pending with
  | nil =>
    cases next
    exact Machine.Hw.Legal.idle ok
  | cons c rest => exact Machine.exec_keeps c ⟨hw, rest⟩ t ok next

end Sys2Proof
end

section
/-! SUPPORT. Writes of BAR0 as requests: where the words of a block lie, and what its registers take. -/

namespace Sys2Proof.Machine

/-! ## Requests -/

theorem Hw.dark_congr {a b : Hw} (e : a.ks = b.ks) (o : Nat) : a.dark o = b.dark o := by unfold Hw.dark; rw [e]

section
variable {s : State} {port o w : Nat} {v : W64}

theorem exec_registerWrite : exec (.registerWrite port o w v) s = execRegisterWrite port o w v s := rfl

theorem execRegisterWrite_on (p : s.hw.ks2.powered = true) (g : s.hw.reaches port = true) (ok : accessOk o w = true)
    (plain : aliasAt o = none) : exec (.registerWrite port o w v) s = .next { s with hw := s.hw.regWrite port o w v.toNat } := by
  rw [exec_registerWrite, execRegisterWrite, act_on p]
  simp [g, ok, plain]

theorem execRegisterWrite_unreached (p : s.hw.ks2.powered = true) (g : s.hw.reaches port = false) :
    exec (.registerWrite port o w v) s = .next s := by
  rw [exec_registerWrite, execRegisterWrite, act_on p]
  simp [g]

theorem execRegisterWrite_bad (p : s.hw.ks2.powered = true) (g : s.hw.reaches port = true) (bad : accessOk o w = false) :
    exec (.registerWrite port o w v) s = .next { s with hw := s.hw.unsupported port } := by
  rw [exec_registerWrite, execRegisterWrite, act_on p]
  simp [g, bad]

theorem exec_bar0InvalidAccess : exec (.bar0InvalidAccess port o w) s = execBar0InvalidAccess port o w s := rfl

theorem execBar0InvalidAccess_bad (p : s.hw.ks2.powered = true) (g : s.hw.reaches port = true) (bad : accessOk o w = false) :
    exec (.bar0InvalidAccess port o w) s = .next { s with hw := s.hw.unsupported port } := by
  rw [exec_bar0InvalidAccess, execBar0InvalidAccess, act_on p]
  simp [g, bad]

end

theorem accessOk_four {o : Nat} (a : o % 4 = 0) (l : o + 4 ≤ 0x400000) : accessOk o 4 = true := by simp [accessOk, a, l]
theorem accessOk_eight {o : Nat} (a : o % 8 = 0) (l : o + 8 ≤ 0x400000) : accessOk o 8 = true := by simp [accessOk, a, l]

/-- Below the windows on other blocks no offset lies in one. -/
theorem aliasAt_below {o : Nat} (l : o < 0x200000) : aliasAt o = none := by
  unfold aliasAt
  rw [if_neg (by omega), if_neg (by omega), if_neg (by omega)]

theorem Hw.regWrite_four (h : Hw) (port o v : Nat) : h.regWrite port o 4 v = h.wordWrite port o (v % 2 ^ 32) := rfl
theorem Hw.regWrite_eight (h : Hw) (port o v : Nat) :
    h.regWrite port o 8 v = (h.wordWrite port o (v % 2 ^ 32)).wordWrite port (o + 4) (v / 2 ^ 32 % 2 ^ 32) := rfl

/-- A 4-byte write of a register below those windows. -/
theorem execRegisterWrite_four {s : State} {port o : Nat} {v : W64} (p : s.hw.ks2.powered = true) (g : s.hw.reaches port = true)
    (a : o % 4 = 0) (l : o < 0x200000) :
    exec (.registerWrite port o 4 v) s = .next { s with hw := s.hw.wordWrite port o (v.toNat % 2 ^ 32) } :=
  execRegisterWrite_on p g (accessOk_four a (by omega)) (aliasAt_below l)

/-! ## Where the words of a block lie -/

section
variable {h : Hw} {port v : Nat}

theorem Hw.wordWrite_keystone {o : Nat} (lit : h.dark o = false) (l : o < 0x10000) : h.wordWrite port o v = h.keystoneWrite port o v := by
  unfold Hw.wordWrite
  rw [lit, if_neg Bool.false_ne_true, if_pos l]

theorem Hw.wordWrite_ring {r k : Nat} (lit : h.dark (ringOff r + k) = false) (hr : r < 128) (hk : k < 0x40) :
    h.wordWrite port (ringOff r + k) v = h.ringWrite port r k v := by
  have block : (ringOff r + k - 0x10000) / 0x40 = r := by unfold ringOff; omega
  have place : (ringOff r + k - 0x10000) % 0x40 = k := by unfold ringOff; omega
  have up : 0x10000 ≤ ringOff r + k := by unfold ringOff; omega
  unfold Hw.wordWrite Hw.ringsWrite
  rw [lit, if_neg Bool.false_ne_true, if_neg (by omega), if_pos (by omega), if_pos (by omega), block, place]

theorem Hw.wordWrite_outRing {n k : Nat} (lit : h.dark (outOff false n + k) = false) (hn : n < 16) (hk : k < 0x40) :
    h.wordWrite port (outOff false n + k) v = h.outRingWrite false n k v := by
  have block : (outOff false n + k - 0x10000 - 0x2000) / 0x40 = n := by simp only [outOff, Bool.false_eq_true, if_false]; omega
  have place : (outOff false n + k - 0x10000) % 0x40 = k := by simp only [outOff, Bool.false_eq_true, if_false]; omega
  have up : 0x12000 ≤ outOff false n + k := by simp only [outOff, Bool.false_eq_true, if_false]; omega
  unfold Hw.wordWrite Hw.ringsWrite
  rw [lit, if_neg Bool.false_ne_true, if_neg (by omega), if_pos (by omega), if_neg (by omega), if_pos (by omega), block, place]

theorem Hw.wordWrite_die {d k : Nat} (lit : h.dark (dieOff d + k) = false) (hd : d < 16) (hk : k < 0x10000) :
    h.wordWrite port (dieOff d + k) v = h.dieWrite d k v := by
  have block : (dieOff d + k - 0x100000) / 0x10000 = d := by unfold dieOff; omega
  have place : (dieOff d + k) % 0x10000 = k := by unfold dieOff; omega
  have up : 0x100000 ≤ dieOff d + k := by unfold dieOff; omega
  unfold Hw.wordWrite
  rw [lit, if_neg Bool.false_ne_true, if_neg (by omega), if_neg (by omega), if_neg (by omega), if_neg (by omega), if_neg (by omega),
    if_neg (by omega), if_neg (by omega), if_pos (by omega), block, place]

theorem Hw.wordWrite_port {p k : Nat} (lit : h.dark (portOff p + k) = false) (hp : p < 48) (hk : k < 0x200) :
    h.wordWrite port (portOff p + k) v = h.portWrite p k v := by
  have engine : (portOff p + k - 0x40000) / 0x1000 = p / 2 := by unfold portOff; omega
  have place : (portOff p + k) % 0x1000 = 0x200 * (p % 2) + k := by unfold portOff; omega
  have up : 0x40000 ≤ portOff p + k := by unfold portOff; omega
  unfold Hw.wordWrite Hw.oeWrite
  rw [lit, if_neg Bool.false_ne_true, if_neg (by omega), if_neg (by omega), if_neg (by omega), if_neg (by omega), if_neg (by omega),
    if_neg (by omega), if_pos (by omega), engine, place]
  rcases Nat.mod_two_eq_zero_or_one p with e | e
  · have first : 2 * (p / 2) = p := by omega
    rw [if_pos (by omega), first, e, Nat.mul_zero, Nat.zero_add]
  · have second : 2 * (p / 2) + 1 = p := by omega
    rw [if_neg (by omega), if_pos (by omega), second, e, Nat.mul_one, Nat.add_sub_cancel_left]

/-- No register lies between the host bridges and the engines, or between the engines and the dies. -/
theorem Hw.wordWrite_gap {o : Nat} (gap : (0x22000 ≤ o ∧ o < 0x40000) ∨ (0x58000 ≤ o ∧ o < 0x100000)) : h.wordWrite port o v = h := by
  unfold Hw.wordWrite
  split
  · rfl
  · rw [if_neg (by omega), if_neg (by omega), if_neg (by omega), if_neg (by omega), if_neg (by omega), if_neg (by omega), if_neg (by omega),
      if_neg (by omega), if_neg (by omega)]

theorem Hw.word_gap {o : Nat} (gap : (0x22000 ≤ o ∧ o < 0x40000) ∨ (0x58000 ≤ o ∧ o < 0x100000)) : h.word port o = 0 := by
  unfold Hw.word
  by_cases d : (h.dark o || (h.ks.boot == .recovery && o == 0x204)) = true
  · rw [if_pos d]
  · rw [if_neg d, if_neg (by omega), if_neg (by omega), if_neg (by omega), if_neg (by omega), if_neg (by omega), if_neg (by omega),
      if_neg (by omega), if_neg (by omega), if_neg (by omega), if_neg (by omega)]

theorem Hw.word_ring {r k : Nat} (lit : h.dark (ringOff r + k) = false) (hr : r < 128) (hk : k < 0x40) :
    h.word port (ringOff r + k) = (h.ring r).word k := by
  have block : (ringOff r + k - 0x10000) / 0x40 = r := by unfold ringOff; omega
  have place : (ringOff r + k - 0x10000) % 0x40 = k := by unfold ringOff; omega
  have up : 0x10000 ≤ ringOff r + k := by unfold ringOff; omega
  have other : ¬ (h.dark (ringOff r + k) || (h.ks.boot == .recovery && ringOff r + k == 0x204)) = true := by
    have : ringOff r + k ≠ 0x204 := by omega
    simp [lit, this]
  unfold Hw.word Hw.ringsWord
  rw [if_neg other, if_neg (by omega), if_pos (by omega), if_pos (by omega), block, place]

end

/-! ## 64-bit registers -/

theorem testBit_upper {n j : Nat} (hn : n ≤ 64) : (upper n).testBit j = (decide (n ≤ j) && decide (j < 64)) := by
  have e : upper n = 2 ^ n * (2 ^ (64 - n) - 1) := by
    unfold upper
    rw [Nat.mul_sub, ← Nat.pow_add, Nat.mul_one, Nat.add_sub_cancel' hn]
  rw [e, Nat.testBit_two_pow_mul, Nat.testBit_two_pow_sub_one]
  by_cases l : n ≤ j <;> simp [l]
  omega

theorem testBit_putHalf_low (old v m j : Nat) :
    (putHalf old 0 v m).testBit j = ((if j < 32 then v.testBit j else old.testBit j) && m.testBit j) := by
  have e : old / 2 ^ 32 * 2 ^ 32 + v % 2 ^ 32 = 2 ^ 32 * (old / 2 ^ 32) + v % 2 ^ 32 := by omega
  unfold putHalf
  rw [if_pos rfl, Nat.testBit_and, e, Nat.testBit_two_pow_mul_add _ (Nat.mod_lt _ (by decide)), Nat.testBit_mod_two_pow,
    Nat.testBit_div_two_pow]
  by_cases l : j < 32
  · simp [l]
  · have back : j - 32 + 32 = j := by omega
    simp [l, back]

theorem testBit_putHalf_high (old v m j : Nat) :
    (putHalf old 4 v m).testBit j = ((if j < 32 then old.testBit j else decide (j < 64) && v.testBit (j - 32)) && m.testBit j) := by
  have e : v % 2 ^ 32 * 2 ^ 32 + old % 2 ^ 32 = 2 ^ 32 * (v % 2 ^ 32) + old % 2 ^ 32 := by omega
  unfold putHalf
  rw [if_neg (by decide), Nat.testBit_and, e, Nat.testBit_two_pow_mul_add _ (Nat.mod_lt _ (by decide)), Nat.testBit_mod_two_pow,
    Nat.testBit_mod_two_pow]
  by_cases l : j < 32
  · simp [l]
  · have top : j - 32 < 32 ↔ j < 64 := by omega
    simp [l, top]

/-- Both words of a register written one after the other put the whole value there, in the bits that the register has. -/
theorem putHalf_both (old v : W64) {n : Nat} (hn : n ≤ 64) :
    BitVec.ofNat 64 (putHalf (BitVec.ofNat 64 (putHalf old.toNat 0 (v.toNat % 2 ^ 32) (upper n))).toNat 4 (v.toNat / 2 ^ 32 % 2 ^ 32)
      (upper n)) = v &&& BitVec.ofNat 64 (upper n) := by
  refine BitVec.eq_of_getLsbD_eq fun j hj => ?_
  rw [BitVec.getLsbD_and, BitVec.getLsbD_ofNat, BitVec.getLsbD_ofNat, testBit_putHalf_high, testBit_upper hn, BitVec.toNat_ofNat,
    Nat.testBit_mod_two_pow, testBit_putHalf_low, testBit_upper hn, Nat.testBit_mod_two_pow, Nat.testBit_mod_two_pow, Nat.testBit_div_two_pow,
    BitVec.getLsbD]
  by_cases l : j < 32
  · simp [hj, l, Bool.and_comm]
  · have back : j - 32 + 32 = j := by omega
    have top : j - 32 < 32 := by omega
    simp [hj, l, back, top]

/-- The words of a register make its value. -/
theorem half_both (x : W64) : half x.toNat 0 + 2 ^ 32 * half x.toNat 4 = x.toNat := by
  have := x.isLt
  unfold half
  rw [if_pos rfl, if_neg (by decide)]
  omega

/-! ## Work rings -/

section
variable {h : Hw} {port r : Nat}

theorem Hw.setRing_setRing (h : Hw) (n : Nat) (f g : WorkRing → WorkRing) : (h.setRing n f).setRing n g = h.setRing n (g ∘ f) := by
  simp [Hw.setRing, List.modify_modify_eq]

/-- An 8-byte write of a ring's register is one of each of its words. -/
theorem Hw.regWrite_ring_eight {k : Nat} (v : Nat) (hr : r < 128) (hk : k + 4 < 0x40) (lit : ∀ j, j < 0x24 → h.dark (ringOff r + j) = false)
    (low : k + 4 < 0x24) (ks : (h.ringWrite port r k (v % 2 ^ 32)).ks = h.ks) :
    h.regWrite port (ringOff r + k) 8 v = (h.ringWrite port r k (v % 2 ^ 32)).ringWrite port r (k + 4) (v / 2 ^ 32 % 2 ^ 32) := by
  rw [Hw.regWrite_eight, Hw.wordWrite_ring (lit k (by omega)) hr (by omega), Nat.add_assoc,
    Hw.wordWrite_ring ((Hw.dark_congr ks _).trans (lit (k + 4) low)) hr hk]

theorem Hw.regWrite_base (v : W64) (hr : r < 128) (there : r < h.rings.length) (lit : ∀ j, j < 0x24 → h.dark (ringOff r + j) = false)
    (idle : (h.ring r).state = .stopped) :
    h.regWrite port (ringOff r + 0) 8 v.toNat = h.setRing r fun w => { w with base := v &&& ~~~ 0xFFF#64 } := by
  have low (x : Nat) : h.ringWrite port r 0 x = h.setRing r fun w => { w with base := BitVec.ofNat 64 (putHalf w.base.toNat 0 x (upper 12)) } := by
    simp [Hw.ringWrite, idle]
  rw [Hw.regWrite_ring_eight v.toNat hr (by omega) lit (by omega) (by rw [low]; rfl), low]
  simp only [Hw.ringWrite, Hw.ring_setRing_same _ _ _ there, idle]
  rw [if_pos (by decide), if_pos (by decide), Hw.setRing_setRing]
  exact congrArg (h.setRing r) (funext fun w => congrArg (fun b => { w with base := b }) (putHalf_both w.base v (by decide)))

theorem Hw.regWrite_base_busy (v : Nat) (hr : r < 128) (lit : ∀ j, j < 0x24 → h.dark (ringOff r + j) = false)
    (busy : (h.ring r).state ≠ .stopped) : h.regWrite port (ringOff r + 0) 8 v = h := by
  have low (x k : Nat) (hk : k < 8) : h.ringWrite port r k x = h := by simp [Hw.ringWrite, hk, busy]
  rw [Hw.regWrite_ring_eight v hr (by omega) lit (by omega) (by rw [low _ _ (by omega)]), low _ _ (by omega), low _ _ (by omega)]

theorem Hw.regWrite_doorbell (v : W64) (hr : r < 128) (there : r < h.rings.length) (lit : ∀ j, j < 0x24 → h.dark (ringOff r + j) = false)
    (idle : (h.ring r).state = .stopped) :
    h.regWrite port (ringOff r + 8) 8 v.toNat = h.setRing r fun w => { w with dbAddr := v &&& ~~~ 0x3F#64 } := by
  have low (x : Nat) : h.ringWrite port r 8 x = h.setRing r fun w => { w with dbAddr := BitVec.ofNat 64 (putHalf w.dbAddr.toNat 0 x (upper 6)) } := by
    simp [Hw.ringWrite, idle, putHalf]
  rw [Hw.regWrite_ring_eight v.toNat hr (by omega) lit (by omega) (by rw [low]; rfl), low]
  simp only [Hw.ringWrite, Hw.ring_setRing_same _ _ _ there, idle]
  rw [if_neg (by decide), if_pos (by decide), if_pos (by decide), Hw.setRing_setRing]
  exact congrArg (h.setRing r) (funext fun w => congrArg (fun b => { w with dbAddr := b }) (putHalf_both w.dbAddr v (by decide)))

theorem Hw.regWrite_doorbell_busy (v : Nat) (hr : r < 128) (lit : ∀ j, j < 0x24 → h.dark (ringOff r + j) = false)
    (busy : (h.ring r).state ≠ .stopped) : h.regWrite port (ringOff r + 8) 8 v = h := by
  have low (x k : Nat) (hk : 8 ≤ k) (hk' : k < 0x10) : h.ringWrite port r k x = h := by
    simp [Hw.ringWrite, Nat.not_lt.2 hk, hk', busy]
  rw [Hw.regWrite_ring_eight v hr (by omega) lit (by omega) (by rw [low _ _ (by omega) (by omega)]), low _ _ (by omega) (by omega),
    low _ _ (by omega) (by omega)]

theorem Hw.regRead_ring_eight {k : Nat} (hr : r < 128) (hk : k + 4 < 0x24) (lit : ∀ j, j < 0x24 → h.dark (ringOff r + j) = false) :
    h.regRead port (ringOff r + k) 8 = (h.ring r).word k + 2 ^ 32 * (h.ring r).word (k + 4) := by
  unfold Hw.regRead
  rw [if_pos rfl, Nat.add_assoc, Hw.word_ring (lit _ (by omega)) hr (by omega), Hw.word_ring (lit _ (by omega)) hr (by omega)]

end

/-! ## Claims -/

theorem ringRegistersTakeWrites : Sys2Proof.Claims.RingRegistersTakeWrites := by
  intro port r v s o x page line st wrote ignored p g hr len lit
  have there : r < s.hw.rings.length := by omega
  have lit' (f : WorkRing → WorkRing) (j : Nat) (hj : j < 0x24) : (s.hw.setRing r f).dark (o + j) = false :=
    (Hw.dark_congr rfl _).trans (lit j hj)
  have up : o % 8 = 0 ∧ o + 0x40 ≤ 0x12000 := by simp only [o, ringOff]; omega
  have eight (k : Nat) (a : k % 8 = 0) (l : k < 0x40) :
      exec (.registerWrite port (o + k) 8 v) s = .next { s with hw := s.hw.regWrite port (o + k) 8 v.toNat } :=
    execRegisterWrite_on p g (accessOk_eight (by omega) (by omega)) (aliasAt_below (by omega))
  have four (k : Nat) (a : k % 4 = 0) (l : k < 0x24) :
      exec (.registerWrite port (o + k) 4 v) s = .next { s with hw := s.hw.ringWrite port r k x } := by
    rw [execRegisterWrite_four p g (by omega) (by omega), Hw.wordWrite_ring (lit k l) hr (by omega)]
  refine ⟨fun idle => ⟨?_, ?_, ?_, ?_, ?_⟩, fun busy => ⟨?_, ?_, ?_⟩, fun free => ?_, fun runs => ?_, four 0x1C (by decide) (by decide)⟩
  · exact (eight 0 (by decide) (by decide)).trans (by rw [Hw.regWrite_base v hr there lit idle])
  · refine (Hw.regRead_ring_eight (k := 0) hr (by decide) (lit' _)).trans ?_
    rw [Hw.ring_setRing_same _ _ _ there]
    exact half_both _
  · exact (eight 8 (by decide) (by decide)).trans (by rw [Hw.regWrite_doorbell v hr there lit idle])
  · refine (Hw.regRead_ring_eight hr (by decide) (lit' _)).trans ?_
    rw [Hw.ring_setRing_same _ _ _ there]
    exact half_both _
  · exact (four 0x10 (by decide) (by decide)).trans (by simp [Hw.ringWrite, st, idle, bits] )
  · exact (eight 0 (by decide) (by decide)).trans (by rw [Hw.regWrite_base_busy v.toNat hr lit busy])
  · exact (eight 8 (by decide) (by decide)).trans (by rw [Hw.regWrite_doorbell_busy v.toNat hr lit busy])
  · exact (four 0x10 (by decide) (by decide)).trans (by simp [Hw.ringWrite, st, busy])
  · exact (four 0x20 (by decide) (by decide)).trans (by rcases free with e | e <;> simp [Hw.ringWrite, show (s.hw.ring r).state = _ from e])
  · exact (four 0x20 (by decide) (by decide)).trans (by rcases runs with e | e <;> simp [Hw.ringWrite, show (s.hw.ring r).state = _ from e])

theorem dieCounters_places : ∀ c ∈ dieCounters, 0x400 ≤ c.1 ∧ c.1 < 0x700 ∧ c.1 % 4 = 0 := by decide
theorem linkCounters_places : ∀ c ∈ linkCounters, c.1 < 0x40 ∧ c.1 % 4 = 0 := by decide

/-- A write of a die's counter clears it where the word is not 0. -/
theorem Die.wiped_counter (d : Die) (v : Nat) : ∀ c ∈ dieCounters, c.2 (d.wiped c.1 v) = if v = 0 then c.2 d else 0 := by
  simp [dieCounters, Die.wiped, wipe]

theorem Die.wiped_others (d : Die) (v : Nat) : ∀ c ∈ dieCounters, ∀ e ∈ dieCounters, e.1 ≠ c.1 → e.2 (d.wiped c.1 v) = e.2 d := by
  simp [dieCounters, Die.wiped]

theorem LinkCounts.wiped_counter (k : LinkCounts) (v : Nat) : ∀ c ∈ linkCounters, c.2 (k.wiped c.1 v) = if v = 0 then c.2 k else 0 := by
  simp [linkCounters, LinkCounts.wiped, wipe]

theorem LinkCounts.wiped_others (k : LinkCounts) (v : Nat) :
    ∀ c ∈ linkCounters, ∀ e ∈ linkCounters, e.1 ≠ c.1 → e.2 (k.wiped c.1 v) = e.2 k := by
  simp [linkCounters, LinkCounts.wiped]

theorem linkCounters_fresh : ∀ c ∈ linkCounters, c.2 {} = 0 := by decide

theorem Hw.dieWrite_counter (h : Hw) (d v : Nat) {o : Nat} (l : 0x400 ≤ o) (u : o < 0x700) :
    h.dieWrite d o v = h.setDie d fun x => x.wiped o v := by
  unfold Hw.dieWrite
  rw [if_neg (by omega), if_neg (by omega), if_neg (by omega), if_neg (by omega), if_neg (by omega), if_neg (by omega)]

/-- A link after a write of one of its counters. -/
def Link.wiped (k : Link) (o v : Nat) : Link := { k with counts := k.counts.wiped o v }

theorem Hw.portWrite_counter (h : Hw) (p v : Nat) {l o : Nat} (hl : l < 4) (ho : o < 0x40) :
    h.portWrite p (0x40 + 0x40 * l + o) v = h.setLink p l fun k => k.wiped o v := by
  have block : (0x40 + 0x40 * l + o - 0x40) / 0x40 = l := by omega
  have place : (0x40 + 0x40 * l + o) % 0x40 = o := by omega
  unfold Hw.portWrite
  rw [if_neg (by omega), if_pos (by omega), block, place]
  rfl

/-- A link that no port has counts nothing. -/
theorem Hw.link_absent {h : Hw} {p l : Nat} (gone : ¬ (p < h.ports.length ∧ l < (h.port p).links.length)) : (h.link p l).counts = {} := by
  by_cases there : p < h.ports.length
  · unfold Hw.link
    rw [List.getD_eq_default _ _ (Nat.le_of_not_lt fun k => gone ⟨there, k⟩)]
  · unfold Hw.link Hw.port
    rw [List.getD_eq_default _ _ (Nat.le_of_not_lt there)]
    rfl

theorem countersClear : Sys2Proof.Claims.CountersClear := by
  intro port d l v s x p g
  refine ⟨fun c hc hd len lit => ?_, fun c hc hd hl lit => ?_, fun hd lit => ?_⟩
  · obtain ⟨low, high, four⟩ := dieCounters_places c hc
    have place : (dieOff d + c.1) % 4 = 0 ∧ dieOff d + c.1 < 0x200000 := by unfold dieOff; omega
    have same : (s.hw.setDie d fun y => y.wiped c.1 x).die d = (s.hw.die d).wiped c.1 x := Hw.die_setDie_same _ _ _ (by omega)
    refine ⟨{ s with hw := s.hw.setDie d fun y => y.wiped c.1 x }, ?_, rfl, rfl, fun k hk => Hw.die_setDie_other _ _ _ _ hk, ?_,
      fun e he ne => ?_⟩
    · rw [execRegisterWrite_four p g place.1 place.2, Hw.wordWrite_die lit hd (by omega), Hw.dieWrite_counter _ _ _ low high]
    · exact (congrArg c.2 same).trans (Die.wiped_counter _ x c hc)
    · exact (congrArg e.2 same).trans (Die.wiped_others _ x c hc e he ne)
  · obtain ⟨high, four⟩ := linkCounters_places c hc
    have place : (portOff d + 0x40 + 0x40 * l + c.1) % 4 = 0 ∧ portOff d + 0x40 + 0x40 * l + c.1 < 0x200000 := by unfold portOff; omega
    have off : portOff d + 0x40 + 0x40 * l + c.1 = portOff d + (0x40 + 0x40 * l + c.1) := by omega
    have same : ((s.hw.setLink d l fun k => k.wiped c.1 x).link d l).counts = (s.hw.link d l).counts.wiped c.1 x ∨
        ((s.hw.setLink d l fun k => k.wiped c.1 x).link d l).counts = {} ∧ (s.hw.link d l).counts = {} := by
      rw [Hw.link_setLink]
      by_cases there : d < s.hw.ports.length ∧ l < (s.hw.port d).links.length
      · exact .inl (by rw [if_pos ⟨rfl, rfl, there⟩]; rfl)
      · rw [if_neg fun k => there k.2.2]
        exact .inr ⟨Hw.link_absent there, Hw.link_absent there⟩
    refine ⟨{ s with hw := s.hw.setLink d l fun k => k.wiped c.1 x }, ?_, rfl, rfl, fun q m ne => Hw.link_setLink_other _ _ _ _ _ _ ne, ?_,
      fun e he ne => ?_⟩
    · rw [execRegisterWrite_four p g place.1 place.2, off, Hw.wordWrite_port (off ▸ lit) hd (by omega), Hw.portWrite_counter _ _ _ hl high]
    · rcases same with e | ⟨a, b⟩
      · exact (congrArg c.2 e).trans (LinkCounts.wiped_counter _ x c hc)
      · simp only [a, b, linkCounters_fresh c hc, ite_self]
    · rcases same with e' | ⟨a, b⟩
      · exact (congrArg e.2 e').trans (LinkCounts.wiped_others _ x c hc e he ne)
      · simp only [a, b]
  · have place : (outOff false d + 0x18) % 4 = 0 ∧ outOff false d + 0x18 < 0x200000 := by
      simp only [outOff, Bool.false_eq_true, if_false]
      omega
    rw [execRegisterWrite_four p g place.1 place.2, Hw.wordWrite_outRing lit hd (by omega)]
    rfl

section
variable (h : Hw) (v : Nat)

theorem Hw.limWrite_slot : h.limWrite 0x100 v =
    if v % 32 < 8 ∧ h.allFree = true ∧ h.noneBusy = true then
      { h with lim := { h.lim with slot := v % 32, slotValid := v.testBit 31 } }
    else h := rfl
theorem Hw.limWrite_map : h.limWrite 0x104 v =
    if h.allFree = true ∧ h.noneBusy = true then { h with lim := { h.lim with present := v % 256 } } else h := rfl
theorem Hw.limWrite_optical : h.limWrite 0x10C v =
    if h.allFree = true ∧ 1 ≤ v % 65536 ∧ v % 65536 ≤ 10000 ∧ 2 ≤ v / 65536 ∧ v / 65536 < 65536 ∧ v % 65536 < v / 65536 then
      { h with lim := { h.lim with linkDeadMs := v % 65536, reasmMs := v / 65536 } }
    else h := rfl
theorem Hw.limWrite_hang : h.limWrite 0x200 v =
    if 10 ≤ v % 2 ^ 14 ∧ v % 2 ^ 14 ≤ 10000 then { h with lim := { h.lim with hangMs := v % 2 ^ 14 } } else h := rfl
theorem Hw.limWrite_window : h.limWrite 0x208 v =
    if 60 ≤ v % 65536 ∧ h.allFree = true then { h with lim := { h.lim with windowS := v % 65536 } } else h := rfl

end

theorem bits_low (x hi : Nat) : bits x hi 0 = x % 2 ^ (hi + 1) := by simp [bits]
theorem bits_high {x : Nat} (short : x < 2 ^ 32) : bits x 31 16 = x / 65536 := by
  simp only [bits, Nat.shiftRight_eq_div_pow]
  exact Nat.mod_eq_of_lt (by omega)

theorem limitedRegistersTakeWrites : Sys2Proof.Claims.LimitedRegistersTakeWrites := by
  intro port v s x quiet dead reasm takes p g
  have short : x < 2 ^ 32 := Nat.mod_lt _ (by decide)
  have takes_of {o : Nat} {ok c : Prop} [Decidable c] {l : Limits}
      (place : o % 4 = 0 ∧ 0x100 ≤ o ∧ (o < 0x124 ∨ 0x204 < o ∧ o < 0x230 ∨ o = 0x200))
      (w : s.hw.limWrite o x = if c then { s.hw with lim := l } else s.hw) (e : ok ↔ c) : takes o ok fun _ => l := by
    intro lit
    obtain ⟨a, low, high⟩ := place
    have key : s.hw.keystoneWrite port o x = s.hw.limWrite o x := by
      unfold Hw.keystoneWrite
      rw [if_neg (by omega), if_neg (by omega), if_neg (by omega), if_neg (by omega), if_neg (by omega), if_neg (by omega)]
    rw [execRegisterWrite_four p g a (by omega), Hw.wordWrite_keystone lit (by omega), key, w]
    exact ⟨fun k => by rw [if_pos (e.1 k)], fun k => by rw [if_neg fun q => k (e.2 q)]⟩
  have high : reasm = x / 65536 := bits_high short
  have optical := s.hw.limWrite_optical x
  rw [← high] at optical
  have slot := takes_of (by decide) (s.hw.limWrite_slot x) (ok := quiet ∧ bits x 4 0 < 8) (by simp only [quiet, bits_low]; tauto)
  have map := takes_of (by decide) (s.hw.limWrite_map x) Iff.rfl
  have limits := takes_of (by decide) optical (ok := s.hw.allFree = true ∧ 1 ≤ dead ∧ dead ≤ 10000 ∧ 2 ≤ reasm ∧ dead < reasm) (by
    have : reasm < 65536 := by omega
    simp only [dead, bits_low]
    tauto)
  exact ⟨slot, map, limits, takes_of (by decide) (s.hw.limWrite_hang x) Iff.rfl, takes_of (by decide) (s.hw.limWrite_window x) Iff.rfl⟩

/-! ## Requests that BAR0 refuses -/

section
variable {h : Hw}

/-- What is told of a refused request changes the port that it came to. -/
theorem Hw.msixSend_only (h : Hw) (p v : Nat) :
    h.msixSend p v = { h with hosts := (h.msixSend p v).hosts, out := (h.msixSend p v).out } ∧
    (∀ q, q ≠ p → (h.msixSend p v).host q = h.host q) ∧ (∀ q, ((h.msixSend p v).host q).aer = (h.host q).aer) ∧
    h.out <:+ (h.msixSend p v).out := by
  unfold Hw.msixSend Hw.msixEmit
  split
  · refine ⟨rfl, fun q ne => Hw.host_setHost_other _ _ _ _ ne, fun q => ?_, List.suffix_refl _⟩
    rw [Hw.host_setHost]
    split <;> rfl
  · split
    · exact ⟨rfl, fun _ _ => rfl, fun _ => rfl, List.suffix_refl _⟩
    · exact ⟨rfl, fun _ _ => rfl, fun _ => rfl, List.suffix_cons _ _⟩

theorem Hw.reportAer_only (h : Hw) (p bit : Nat) :
    h.reportAer p bit = { h with hosts := (h.reportAer p bit).hosts, out := (h.reportAer p bit).out } ∧
    (∀ q, q ≠ p → (h.reportAer p bit).host q = h.host q) ∧ h.out <:+ (h.reportAer p bit).out ∧
    (p < h.hosts.length → ((h.reportAer p bit).host p).aer.status = (h.host p).aer.status ||| (1 <<< bit)) := by
  unfold Hw.reportAer
  extract_lets masked h1
  have told (l : p < h.hosts.length) : (h1.host p).aer.status = (h.host p).aer.status ||| (1 <<< bit) := by
    simp only [h1, Hw.host_setHost_same _ _ _ l]
  have other (q : Nat) (ne : q ≠ p) : h1.host q = h.host q := Hw.host_setHost_other _ _ _ _ ne
  split
  · exact ⟨rfl, other, List.suffix_refl _, told⟩
  · obtain ⟨only, others, aer, out⟩ := h1.msixSend_only p 0
    refine ⟨?_, fun q ne => (others q ne).trans (other q ne), out, fun l => (congrArg _ (aer p)).trans (told l)⟩
    rw [only]
    rfl

theorem barRequestsEnd : Sys2Proof.Claims.BarRequestsEnd := by
  intro port w o v s p
  refine ⟨execRegisterWrite_unreached p, fun g => ⟨execRegisterWrite_on p g, fun ok gap => ?_, fun bad => ?_⟩⟩
  · have width : w = 8 ∧ o % 8 = 0 ∨ w = 4 := by
      simp only [accessOk, Bool.and_eq_true, Bool.or_eq_true, beq_iff_eq] at ok
      obtain ⟨⟨rfl | rfl, a⟩, -⟩ := ok
      · exact .inr rfl
      · exact .inl ⟨rfl, a⟩
    have plain : aliasAt o = none := aliasAt_below (by omega)
    rw [execRegisterWrite_on p g ok plain]
    rcases width with ⟨rfl, a⟩ | rfl
    · have next : (0x22000 ≤ o + 4 ∧ o + 4 < 0x40000) ∨ (0x58000 ≤ o + 4 ∧ o + 4 < 0x100000) := by omega
      rw [Hw.regWrite_eight, Hw.wordWrite_gap gap, Hw.wordWrite_gap next, Hw.regRead, if_pos rfl, Hw.word_gap gap, Hw.word_gap next]
      exact ⟨rfl, rfl⟩
    · rw [Hw.regWrite_four, Hw.wordWrite_gap gap, Hw.regRead, if_neg (by decide), Hw.word_gap gap]
      exact ⟨rfl, rfl⟩
  · obtain ⟨only, others, out, told⟩ := (s.hw.emit (.unsupported port)).reportAer_only port aerUnsupported
    refine ⟨_, execRegisterWrite_bad p g bad, execBar0InvalidAccess_bad p g bad, rfl, only.trans rfl, others, ?_, fun l => ?_⟩
    · exact out.subset (List.mem_cons_self)
    · refine (congrArg (BitVec.getLsbD · aerUnsupported) (told l)).trans ?_
      simp [aerUnsupported]

end

end Sys2Proof.Machine

namespace Sys2Proof

/-- Settles O14, by where the words of BAR0 lie and what each register takes. -/
theorem registerWritesOfBar0 : Obligations.RegisterWritesOfBar0 :=
  ⟨Machine.ringRegistersTakeWrites, Machine.countersClear, Machine.limitedRegistersTakeWrites, Machine.barRequestsEnd⟩

end Sys2Proof
end

section
/-! SUPPORT. What the reads and the writes of a run leave of the machine, and what an access from another module leaves. -/

namespace Sys2Proof.Machine

/-! ## Reads of a run -/

theorem Hw.msixSend_still (h : Hw) (p v : Nat) : (h.msixSend p v).still = h.still := by
  unfold Hw.msixSend Hw.msixEmit
  split
  · rfl
  · split <;> rfl

theorem Hw.reportAer_still (h : Hw) (p bit : Nat) : (h.reportAer p bit).still = h.still := by
  unfold Hw.reportAer
  dsimp only
  split
  · rfl
  · exact Hw.msixSend_still _ p 0

theorem Hw.lineUe_still (h : Hw) (die row g : Nat) : (h.lineUe die row g).still = h.still := by
  unfold Hw.lineUe
  rw [Hw.recordRow_still, Hw.ueFound_still]
  rfl

theorem Hw.lineErrors_still (h : Hw) (die : Nat) (e : Env) (gs : List Nat) : (h.lineErrors die e gs).still = h.still := by
  unfold Hw.lineErrors
  split
  · rfl
  · exact (Hw.noteCe_still _ die 2 _).trans (foldl_still _ (fun h g => h.lineUe_still die _ g) _ h)

/-- The environment changes the hosts alone. -/
theorem Hw.applyEnv_only (h : Hw) (e : Env) : h.applyEnv e = { h with hosts := (h.applyEnv e).hosts } :=
  List.foldlRecOn (motive := fun g : Hw => g = { h with hosts := g.hosts }) e.host _ rfl fun g k x _ => by rw [k]; rfl

theorem Hw.applyEnv_still (h : Hw) (e : Env) : (h.applyEnv e).still = h.still := by
  rw [h.applyEnv_only e]
  rfl

/-- A run that is to make the writes `w`, from a machine that is `a` but for what `Hw.still` leaves out. -/
def Run.From (a : Hw) (w : Writes) (r : Run) : Prop := r.h.still = a.still ∧ r.w = w

section
variable {a : Hw} {w : Writes} {r q : Run} {c : Prop} [Decidable c]

theorem Run.From.ite (k : r.From a w) (l : q.From a w) : (if c then r else q).From a w := by split <;> assumption
theorem Run.From.ite_2 {α : Type} {x y : α × Run} (k : x.2.From a w) (l : y.2.From a w) : (if c then x else y).2.From a w := by
  split <;> assumption
theorem Run.From.same (k : r.From a w) (e : q.h = r.h) (f : q.w = r.w) : q.From a w := ⟨e ▸ k.1, f ▸ k.2⟩

theorem Run.From.start {die ctx : Nat} {look alloc : Bool} {e : Env} : (Run.start a die ctx look alloc e).From a {} := ⟨a.applyEnv_still e, rfl⟩

theorem Run.From.meets {gs : List Nat} (k : r.From a w) : (r.meets gs).From a w :=
  .ite k ⟨(Hw.readErrors_still r.h r.env gs).trans k.1, k.2⟩
theorem Run.From.meetsWalk {cva : Nat} (k : r.From a w) : (r.meetsWalk cva).From a w := .ite k k.meets
theorem Run.From.meetsLines {gs : List Nat} (k : r.From a w) : (r.meetsLines gs).From a w :=
  .ite k ⟨(Hw.lineErrors_still r.h r.die r.env gs).trans k.1, k.2⟩
theorem Run.From.readPoison {place : Nat} {gs : List Nat} (k : r.From a w) : (r.readPoison place gs).From a w := .ite k k

theorem Run.From.toSlot {slot : Nat} (k : r.From a w) : (r.toSlot slot).From a w := by
  unfold Run.toSlot
  split
  · exact k
  · split
    exacts [k, k, .ite k k, k]

theorem Run.From.locate {cva : Nat} {wr : Bool} (k : r.From a w) : (r.locate cva wr).2.From a w := by
  unfold Run.locate
  split
  · exact k
  · dsimp only
    split
    exacts [k.meetsWalk, .ite_2 k.meetsWalk k.meetsWalk]

/-- The run after the place of an address was found. -/
theorem Run.From.of_locate {cva : Nat} {wr : Bool} {p : Option Place} (k : r.From a w) (e : r.locate cva wr = (p, q)) : q.From a w := by
  have l := k.locate (cva := cva) (wr := wr)
  rwa [e] at l

theorem Run.From.readIn {cva n : Nat} (k : r.From a w) : (r.readIn cva n).2.From a w := by
  unfold Run.readIn
  split
  · exact k
  split
  next e => exact k.of_locate e
  next e =>
    have k := k.of_locate e
    split
    · exact k
    split
    · dsimp only
      split
      exacts [.readPoison (.same k.meets.meetsLines rfl rfl), k.meets.readPoison]
    · split
      · exact k
      split
      · exact k
      split
      · refine .readPoison ⟨?_, k.2⟩
        rw [Hw.reportAer_still, Hw.evMod_still, Hw.setHost_still]
        exact k.1
      · exact k
    · extract_lets d look all gone tag r1 r2
      have k1 : r1.From a w := .ite k (.ite (r := { gone with remoteR := _ }) k.toSlot k.toSlot)
      have k2 : r2.From a w := .ite k1.meetsLines k1
      exact .ite_2 k1 (.readPoison (.same k2 rfl rfl))

theorem Run.From.readN {f cva n : Nat} (k : r.From a w) : (Run.readN f r cva n).2.From a w := by
  induction f generalizing r cva n with
  | zero => exact k
  | succ f ih =>
    unfold Run.readN
    dsimp only
    split
    exacts [k.readIn, ih k.readIn]

theorem Run.From.readGroups {cva n : Nat} (k : r.From a w) : (r.readGroups cva n).2.From a w := k.readN

end

/-! ## Writes of a run -/

theorem Run.write_still (r : Run) (cva : Nat) (bs : List Byte) (po : Bool) : (r.write cva bs po).h.still = r.h.still := by
  have k : r.From r.h r.w := ⟨rfl, rfl⟩
  unfold Run.write
  split
  · rfl
  split
  next e => exact (k.of_locate e).1
  next q e =>
    have k := k.of_locate e
    split
    · exact k.1
    · exact k.1
    · dsimp only
      split <;> exact k.toSlot.1

theorem Run.writeGroups_still (r : Run) (a : Nat) (bs : List Byte) (po : List Nat) : (r.writeGroups a bs po).h.still = r.h.still := by
  unfold Run.writeGroups
  split
  · exact r.write_still a bs false
  · exact List.foldlRecOn (motive := fun q : Run => q.h.still = r.h.still) _ _ rfl fun q k x _ => (q.write_still _ _ _).trans k

/-! ## Memory beside a write -/

/-- A write of one byte leaves every other, in whatever form the memory is. -/
theorem cellGet_set_other {k j : Nat} (v : Byte) (ne : k ≠ j) (m : List Host.Cell) : cellGet (cellSet m k v) j = cellGet m j := by
  induction m with
  | nil =>
    unfold cellSet
    split <;> simp [cellGet, ne]
  | cons x m ih =>
    obtain ⟨a, b⟩ := x
    unfold cellSet
    split
    · split <;> simp [cellGet, ne]
    · split
      next e =>
        subst e
        split <;> simp [cellGet, ne]
      · simp [cellGet, ih]

theorem cellGet_write_other {j : Nat} (bs : List Byte) {a : Nat} (out : j < a ∨ a + bs.length ≤ j) (m : List Host.Cell) :
    cellGet (cellWrite m a bs) j = cellGet m j := by
  induction bs generalizing a m with
  | nil => rfl
  | cons b bs ih =>
    rw [List.length_cons] at out
    exact (ih (by omega) _).trans (cellGet_set_other b (by omega) m)

/-- The bytes that `Writes.add` lists, written one after the other, are written as a block. -/
theorem foldl_set_zipIdx (bs : List Byte) (k i : Nat) (m : List Host.Cell) :
    (bs.zipIdx i |>.map fun x => (k + x.2, x.1)).foldl (fun m x => cellSet m x.1 x.2) m = cellWrite m (k + i) bs := by
  induction bs generalizing i m with
  | nil => rfl
  | cons b bs ih => exact ih (i + 1) _

theorem Writes.add_mem (k : Nat) (bs : List Byte) (marks : List Nat) (h : Hw) :
    (h.applyWrites { ({} : Writes).add k bs with marks := marks }).mem = cellWrite h.mem k bs := foldl_set_zipIdx bs k 0 h.mem

/-! ## Blocks of an owner -/

theorem Hw.sendAs_out (h : Hw) (src : Coord) (n : Nat) (dst : Coord) (cls : Nat) (cmd : Option (Nat × W32)) (m : Msg) :
    (h.sendAs src n dst cls cmd m).out = h.out := by
  unfold Hw.sendAs Hw.msgId
  dsimp only
  generalize Hw.binding _ n dst = b
  cases b <;> rfl

theorem Hw.still_mem {a b : Hw} (k : a.still = b.still) : a.mem = b.mem := (congrArg (fun h : Hw => h.mem) k :)
theorem Hw.still_rings {a b : Hw} (k : a.still = b.still) : a.rings = b.rings := (congrArg (fun h : Hw => h.rings) k :)

/-- What a run over a block and its result come to: the block is held, or the run is carried out and answered. -/
def Hw.blockEnd (h : Hw) (n : Nat) (q : BlockReq) (env : Env) (x : (List Byte × List Nat) × Run) : Hw :=
  if x.2.waits && x.2.fail.isNone then { h with heldAccesses := h.heldAccesses ++ [{ what := .block n q, env := env }] }
  else (x.2.finish.emit (.blockReply q.peer q.addr x.1.1 x.2.fail.isNone x.1.2)).sendCtx n q.peer 2 none
    (.blockReply q.addr x.1.1 x.2.fail.isNone x.1.2)

theorem Hw.ownerBlock_write {h : Hw} {n : Nat} {q : BlockReq} {env : Env} (write : q.write = true) (twin : q.twinStep = none) :
    h.ownerBlock n q env = h.blockEnd n q env (([], []), (Run.start h q.die n true false env).writeGroups q.addr.toNat q.bytes q.poisoned) := by
  simp [Hw.ownerBlock, Hw.blockEnd, write, twin]

theorem Hw.ownerBlock_read {h : Hw} {n : Nat} {q : BlockReq} {env : Env} (read : q.write = false) (twin : q.twinStep = none) :
    h.ownerBlock n q env = h.blockEnd n q env ((Run.start h q.die n true false env).readGroups q.addr.toNat q.count) := by
  simp [Hw.ownerBlock, Hw.blockEnd, read, twin]

section
variable {h : Hw} {n : Nat} {q : BlockReq} {env : Env} {x : (List Byte × List Nat) × Run}

theorem Hw.blockEnd_held (waits : ¬ x.2.Goes) :
    h.blockEnd n q env x = { h with heldAccesses := h.heldAccesses ++ [{ what := .block n q, env := env }] } :=
  if_pos (Bool.not_eq_false _ ▸ waits)

theorem Hw.blockEnd_goes (goes : x.2.Goes) :
    (h.blockEnd n q env x).still = (x.2.h.applyWrites x.2.w).still ∧
    (h.blockEnd n q env x).out.head? = some (.blockReply q.peer q.addr x.1.1 x.2.fail.isNone x.1.2) := by
  have e : h.blockEnd n q env x = _ := if_neg (Bool.not_eq_true _ ▸ goes)
  rw [e]
  exact ⟨(Hw.sendAs_still _ _ _ _ _ _ _).trans ((Hw.emit_still _ _).trans (Run.finish_still _)), by rw [Hw.sendCtx, Hw.sendAs_out]; rfl⟩

end

theorem exec_ownerBlockTransfer (q : BlockReq × Env) (s : State) : exec (.ownerBlockTransfer q) s = execOwnerBlockTransfer q s := rfl

theorem execOwnerBlockTransfer_on {s : State} {q : BlockReq} {env : Env} {n : Nat} (p : s.hw.ks2.powered = true)
    (job : s.hw.jobContext q.job = some n) :
    exec (.ownerBlockTransfer (q, env)) s = .next { s with hw := s.hw.ownerBlock n q env } := by
  rw [exec_ownerBlockTransfer, execOwnerBlockTransfer, act_on p]
  simp only [job]

/-- Blocks of an owner are read and written. -/
theorem ownerBlocksMove (q : BlockReq) (env : Env) (n : Nat) (s : State) :
    let w := (Run.start s.hw q.die n true false env).writeGroups q.addr.toNat q.bytes q.poisoned
    let x := (Run.start s.hw q.die n true false env).readGroups q.addr.toNat q.count
    s.hw.ks2.powered = true → s.hw.jobContext q.job = some n → q.twinStep = none →
    (q.write = true → w.Goes →
      ∃ t, exec (.ownerBlockTransfer (q, env)) s = .next t ∧ t.pending = s.pending ∧ t.hw.rings = s.hw.rings ∧
        s.hw.WroteOnly t.hw w ∧
        t.hw.out.head? = some (.blockReply q.peer q.addr [] w.fail.isNone [])) ∧
    (q.write = true → ¬ w.Goes →
      exec (.ownerBlockTransfer (q, env)) s =
        .next { s with hw := { s.hw with heldAccesses := s.hw.heldAccesses ++ [{ what := .block n q, env := env }] } }) ∧
    (q.write = false → x.2.Goes →
      ∃ t, exec (.ownerBlockTransfer (q, env)) s = .next t ∧ t.pending = s.pending ∧ t.hw.rings = s.hw.rings ∧ t.hw.mem = s.hw.mem ∧
        t.hw.out.head? = some (.blockReply q.peer q.addr x.1.1 x.2.fail.isNone x.1.2)) := by
  intro w x p job twin
  refine ⟨fun write goes => ?_, fun write waits => ?_, fun read goes => ?_⟩
  · have began : w.h.still = s.hw.still := (Run.writeGroups_still _ _ _ _).trans Run.From.start.1
    obtain ⟨still, out⟩ := Hw.blockEnd_goes (h := s.hw) (n := n) (q := q) (env := env) (x := (([], []), w)) goes
    refine ⟨_, execOwnerBlockTransfer_on p job, rfl, ?_⟩
    rw [Hw.ownerBlock_write write twin]
    refine ⟨(Hw.still_rings still).trans (Hw.still_rings began :), fun wf k => ?_, out⟩
    rw [Hw.still_mem still, ← Run.finish_mem]
    exact Run.finish_wrote s.hw w (Hw.still_mem began) wf k
  · rw [execOwnerBlockTransfer_on p job, Hw.ownerBlock_write write twin, Hw.blockEnd_held waits]
  · obtain ⟨began, none⟩ : x.2.From s.hw {} := Run.From.start.readGroups
    obtain ⟨still, out⟩ := Hw.blockEnd_goes (h := s.hw) (n := n) (q := q) (env := env) goes
    refine ⟨_, execOwnerBlockTransfer_on p job, rfl, ?_⟩
    rw [Hw.ownerBlock_read read twin]
    refine ⟨(Hw.still_rings still).trans (Hw.still_rings began :), ?_, out⟩
    rw [Hw.still_mem still, none]
    exact Hw.still_mem began

/-! ## Accesses from another module -/

theorem exec_memoryAccessReceive (src : Coord) (a : MemAccess) (env : Env) (s : State) :
    exec (.memoryAccessReceive src a env) s = execMemoryAccessReceive src a env s := rfl

theorem execMemoryAccessReceive_on {s : State} {src : Coord} {a : MemAccess} {env : Env} (p : s.hw.ks2.powered = true) :
    exec (.memoryAccessReceive src a env) s = .next { s with hw := s.hw.memAccess src a env } := by
  rw [exec_memoryAccessReceive, execMemoryAccessReceive, act_on p]

theorem Hw.accessWaits_applyEnv (h : Hw) (e : Env) (da : W64) : (h.applyEnv e).accessWaits da = h.accessWaits da := by
  rw [h.applyEnv_only e]
  rfl

theorem Hw.ownRange_applyEnv (h : Hw) (e : Env) (da n : Nat) : (h.applyEnv e).ownRange da n = h.ownRange da n := by
  rw [h.applyEnv_only e]
  rfl

/-- An answer goes out, and beside the messages nothing changes. -/
theorem Hw.accessAnswer_only (h : Hw) (dst : Coord) (da : W64) (bytes : List Byte) (po : List Nat) :
    h.accessAnswer dst da bytes po =
      { h with out := .accessReply dst da bytes po :: h.out, outMsgs := (h.accessAnswer dst da bytes po).outMsgs } :=
  List.foldlRecOn (motive := fun g : Hw => g = { h with out := .accessReply dst da bytes po :: h.out, outMsgs := g.outMsgs }) _ _ rfl
    fun g k x _ => by
      rw [k]
      rfl

section
variable {h : Hw} {src : Coord} {da : W64} {n : Nat} {env : Env} {bytes : List Byte} {po : List Nat} {op e : Nat} {grad : Bool}

theorem Hw.memAccess_waits {a : MemAccess} (addr : accessAddr a = da.toNat) (waits : h.accessWaits da = true) :
    h.memAccess src a env = { h.applyEnv env with heldAccesses := h.heldAccesses ++ [{ what := .access src a, env := env }] } := by
  have w : (h.applyEnv env).accessWaits (BitVec.ofNat 64 (accessAddr a)) = true := by
    rw [Hw.accessWaits_applyEnv, addr, BitVec.ofNat_toNat, BitVec.setWidth_eq, waits]
  have held : (h.applyEnv env).heldAccesses = h.heldAccesses := by
    rw [h.applyEnv_only env]
  unfold Hw.memAccess
  rw [if_pos w, held]

/-- An access that does not wait is carried out. -/
theorem Hw.access_goes {a : MemAccess} (addr : accessAddr a = da.toNat) (goes : h.accessWaits da = false) :
    ¬ (h.applyEnv env).accessWaits (BitVec.ofNat 64 (accessAddr a)) = true := by
  rw [Hw.accessWaits_applyEnv, addr, BitVec.ofNat_toNat, BitVec.setWidth_eq, goes]
  exact Bool.false_ne_true

theorem Hw.memAccess_read (goes : h.accessWaits da = false) (own : h.ownRange da.toNat n = true) :
    h.memAccess src (.read da n) env =
      let g := (h.applyEnv env).readErrors env (groupsOf (da.toNat % 2 ^ 52) n)
      g.accessAnswer src da (g.memRead (da.toNat % 2 ^ 52) n) (g.poisonOf (da.toNat % 2 ^ 52) n) := by
  unfold Hw.memAccess
  rw [if_neg (Hw.access_goes (da := da) rfl goes)]
  dsimp only
  rw [if_pos ((h.ownRange_applyEnv env _ _).trans own)]

theorem Hw.memAccess_write (goes : h.accessWaits da = false) (own : h.ownRange da.toNat bytes.length = true) :
    h.memAccess src (.write da bytes po) env =
      let k := da.toNat % 2 ^ 52
      let w : Writes := { ({} : Writes).add k bytes with marks := marksOf k bytes.length po }
      (((h.applyEnv env).writeErrors env w).applyWrites w).accessAnswer src da [] [] := by
  unfold Hw.memAccess
  rw [if_neg (Hw.access_goes (da := da) rfl goes)]
  dsimp only
  rw [if_pos ((h.ownRange_applyEnv env _ _).trans own)]

theorem Hw.memAccess_write_refused (goes : h.accessWaits da = false) (other : h.ownRange da.toNat bytes.length = false) :
    h.memAccess src (.write da bytes po) env = (h.applyEnv env).emit (.accessRefused src da) := by
  unfold Hw.memAccess
  rw [if_neg (Hw.access_goes (da := da) rfl goes)]
  dsimp only
  rw [if_neg (by rw [h.ownRange_applyEnv, other]; exact Bool.false_ne_true)]

theorem Hw.memAccess_add (goes : h.accessWaits da = false)
    (done : (h.ownRange da.toNat bytes.length && bits da.toNat 51 50 == 0 && adderTakes op e) = true) :
    h.memAccess src (.add da op e grad bytes po) env =
      let k := da.toNat % 2 ^ 52
      let w := elemBits e / 8
      let cells := (List.range (bytes.length / w)).map fun i => some (fld bytes (w * i) w)
      (((h.applyEnv env).readErrors env (groupsOf k bytes.length)).addAt k op e grad cells po).h.accessAnswer src da [] [] := by
  unfold Hw.memAccess
  rw [if_neg (Hw.access_goes (da := da) rfl goes)]
  dsimp only
  rw [if_pos (by rw [h.ownRange_applyEnv]; exact done)]

theorem Hw.memAccess_add_refused (goes : h.accessWaits da = false)
    (refused : (h.ownRange da.toNat bytes.length && bits da.toNat 51 50 == 0 && adderTakes op e) = false) :
    h.memAccess src (.add da op e grad bytes po) env = (h.applyEnv env).emit (.accessRefused src da) := by
  unfold Hw.memAccess
  rw [if_neg (Hw.access_goes (da := da) rfl goes)]
  dsimp only
  rw [if_neg (by rw [h.ownRange_applyEnv, refused]; exact Bool.false_ne_true)]

end

theorem toLe_length (n x : Nat) : (toLe n x).length = n := by
  induction n generalizing x with
  | zero => rfl
  | succ n ih => simp [toLe, ih]

/-- An add changes no byte beside those of its elements. -/
theorem Hw.addAt_other (h : Hw) {k op e : Nat} {grad : Bool} {cells : List (Option Nat)} {po : List Nat} {a : Nat}
    (out : a < k ∨ k + elemBits e / 8 * cells.length ≤ a) : cellGet (h.addAt k op e grad cells po).h.mem a = cellGet h.mem a := by
  unfold Hw.addAt
  extract_lets w step y gs gs2
  refine List.foldlRecOn (motive := fun y : List Host.Cell × Nat × Nat => cellGet y.1 a = cellGet h.mem a) cells.zipIdx step rfl ?_
  intro y same c hc
  dsimp only [step]
  split
  · exact same
  · have inside : c.2 < cells.length := by
      obtain ⟨-, l, -⟩ := List.mem_zipIdx hc
      omega
    have : w * (c.2 + 1) ≤ w * cells.length := Nat.mul_le_mul_left w inside
    refine (cellGet_write_other _ ?_ _).trans same
    rw [toLe_length]
    rw [Nat.mul_succ] at this
    rcases out with l | l
    · exact .inl (by omega)
    · exact .inr (by simp only [w] at this ⊢; omega)

/-- Accesses from another module are carried out, held or refused. -/
theorem accessesAreServed (src : Coord) (da : W64) (n op e : Nat) (grad : Bool) (bytes : List Byte) (po : List Nat) (env : Env) (s : State) :
    let k := da.toNat % 2 ^ 52
    let hbm := bits da.toNat 51 50 = 0
    s.hw.ks2.powered = true →
    (s.hw.accessWaits da = true → ∀ x : MemAccess, accessAddr x = da.toNat →
      exec (.memoryAccessReceive src x env) s =
        .next { s with hw := { s.hw.applyEnv env with heldAccesses := s.hw.heldAccesses ++ [{ what := .access src x, env := env }] } }) ∧
    (s.hw.accessWaits da = false →
    (s.hw.ownRange da.toNat n = true →
      ∃ t, exec (.memoryAccessReceive src (.read da n) env) s = .next t ∧ t.pending = s.pending ∧ t.hw.mem = s.hw.mem ∧
        t.hw.rings = s.hw.rings ∧ ∃ po', t.hw.out.head? = some (.accessReply src da (s.hw.memRead k n) po')) ∧
    (s.hw.ownRange da.toNat bytes.length = true →
      ∃ t, exec (.memoryAccessReceive src (.write da bytes po) env) s = .next t ∧ t.pending = s.pending ∧ t.hw.rings = s.hw.rings ∧
        (Memory.wf s.hw.mem = true → t.hw.memRead k bytes.length = bytes) ∧
        (∀ a, a < k ∨ k + bytes.length ≤ a → cellGet t.hw.mem a = cellGet s.hw.mem a) ∧
        t.hw.out.head? = some (.accessReply src da [] [])) ∧
    (s.hw.ownRange da.toNat bytes.length = true → hbm → adderTakes op e = true →
      ∃ t, exec (.memoryAccessReceive src (.add da op e grad bytes po) env) s = .next t ∧ t.pending = s.pending ∧ t.hw.rings = s.hw.rings ∧
        (∀ a, a < k ∨ k + bytes.length ≤ a → cellGet t.hw.mem a = cellGet s.hw.mem a) ∧
        t.hw.out.head? = some (.accessReply src da [] [])) ∧
    (s.hw.ownRange da.toNat bytes.length = false ∨ ¬ hbm ∨ adderTakes op e = false →
      ∃ t, exec (.memoryAccessReceive src (.add da op e grad bytes po) env) s = .next t ∧ t.hw.mem = s.hw.mem ∧
        t.hw.out.head? = some (.accessRefused src da)) ∧
    (s.hw.ownRange da.toNat bytes.length = false →
      ∃ t, exec (.memoryAccessReceive src (.write da bytes po) env) s = .next t ∧ t.hw.mem = s.hw.mem ∧
        t.hw.out.head? = some (.accessRefused src da))) := by
  intro k hbm p
  have refused (h : Hw) (e : h = (s.hw.applyEnv env).emit (.accessRefused src da)) :
      h.mem = s.hw.mem ∧ h.out.head? = some (.accessRefused src da) := by
    rw [e, s.hw.applyEnv_only env]
    exact ⟨rfl, rfl⟩
  refine ⟨fun waits x addr => ?_, fun goes => ⟨fun own => ?_, fun own => ?_, fun own hbm takes => ?_, fun not => ?_, fun other => ?_⟩⟩
  · rw [execMemoryAccessReceive_on p, Hw.memAccess_waits addr waits]
  · refine ⟨_, execMemoryAccessReceive_on p, rfl, ?_⟩
    have still : ((s.hw.applyEnv env).readErrors env (groupsOf k n)).still = s.hw.still :=
      (Hw.readErrors_still _ _ _).trans (s.hw.applyEnv_still env)
    rw [Hw.memAccess_read goes own]
    dsimp only
    rw [Hw.accessAnswer_only]
    exact ⟨Hw.still_mem still, Hw.still_rings still, _, by unfold Hw.memRead; rw [Hw.still_mem still]; rfl⟩
  · refine ⟨_, execMemoryAccessReceive_on p, rfl, ?_⟩
    let w : Writes := { ({} : Writes).add k bytes with marks := marksOf k bytes.length po }
    have still : ((s.hw.applyEnv env).writeErrors env w).still = s.hw.still := (Hw.writeErrors_still _ _ _).trans (s.hw.applyEnv_still env)
    have mem : (((s.hw.applyEnv env).writeErrors env w).applyWrites w).mem = cellWrite s.hw.mem k bytes := by
      rw [Writes.add_mem, Hw.still_mem still]
    rw [Hw.memAccess_write goes own]
    dsimp only
    rw [Hw.accessAnswer_only]
    refine ⟨(Hw.still_rings still :), fun wf => ?_, fun a out => ?_, rfl⟩
    · exact (congrArg (cellRead · k bytes.length) mem).trans (cellRead_write k bytes wf)
    · exact (congrArg (cellGet · a) mem).trans (cellGet_write_other bytes out _)
  · refine ⟨_, execMemoryAccessReceive_on p, rfl, ?_⟩
    have still : ((s.hw.applyEnv env).readErrors env (groupsOf k bytes.length)).still = s.hw.still :=
      (Hw.readErrors_still _ _ _).trans (s.hw.applyEnv_still env)
    rw [Hw.memAccess_add goes (by simp only [own, takes, Bool.and_true, Bool.true_and, beq_iff_eq]; exact hbm)]
    dsimp only
    rw [Hw.accessAnswer_only]
    refine ⟨(Hw.still_rings still :), fun a out => ?_, rfl⟩
    refine (Hw.addAt_other (po := po) (a := a) _ ?_).trans (congrArg (cellGet · a) (Hw.still_mem still))
    rw [List.length_map, List.length_range]
    have := Nat.mul_div_le bytes.length (elemBits e / 8)
    omega
  · refine ⟨_, execMemoryAccessReceive_on p, refused _ (Hw.memAccess_add_refused goes ?_)⟩
    rcases not with other | far | no
    · simp [other]
    · have : (bits da.toNat 51 50 == 0) = false := beq_eq_false_iff_ne.2 far
      simp [this]
    · simp [no]
  · exact ⟨_, execMemoryAccessReceive_on p, refused _ (Hw.memAccess_write_refused goes other)⟩

end Sys2Proof.Machine

namespace Sys2Proof

/-- Settles O22, by what a run over a block leaves and by the cases of an access. -/
theorem otherModulesReadAndWrite : Obligations.OtherModulesReadAndWrite := ⟨Machine.ownerBlocksMove, Machine.accessesAreServed⟩

end Sys2Proof
end
section
/-! PROOFS. Mortar: what a port sends changes only what waits to be sent, so flits arrive in order and a lane group comes back or is disabled
with no packet lost (01 R22-R28). -/

namespace Sys2Proof.Machine

/-! ## Ports and lane groups of the state -/

/-- A lane group of a port; one that the port does not have is disabled. -/
def MortPort.lane (m : MortPort) (lg : Nat) : LaneGroup := m.lanes.getD lg { disabled := true }

theorem Hw.lane_eq (h : Hw) (d p lg : Nat) : h.lane d p lg = (h.mort d p).lane lg := rfl

/-- A port that has a lane group is a port of a die. -/
theorem Hw.mort_present {h : Hw} {d p lg : Nat} (has : lg < (h.mort d p).lanes.length) : d < h.dies.length ∧ p < (h.die d).mort.length := by
  have inPort : p < (h.die d).mort.length := by
    by_contra out
    rw [Hw.mort, List.getD_eq_default _ _ (Nat.le_of_not_lt out)] at has
    exact Nat.not_lt_zero _ has
  refine ⟨?_, inPort⟩
  by_contra out
  rw [Hw.die, List.getD_eq_default _ _ (Nat.le_of_not_lt out)] at inPort
  exact Nat.not_lt_zero _ inPort

/-- An entry of a list of which one was changed is as before, or the one changed. -/
theorem getD_modify_or {α : Type} (l : List α) (i k : Nat) (f : α → α) (x : α) :
    (l.modify i f).getD k x = l.getD k x ∨ (k = i ∧ (l.modify i f).getD k x = f (l.getD i x)) := by
  rw [getD_modify]
  split
  case isTrue here =>
    obtain ⟨rfl, -⟩ := here
    exact .inr ⟨rfl, rfl⟩
  case isFalse => exact .inl rfl

/-- Writing a port changes that port alone. -/
theorem Hw.mort_setMort (h : Hw) (d p : Nat) (f : MortPort → MortPort) (d' p' : Nat) :
    (h.setMort d p f).mort d' p' = h.mort d' p' ∨ (d' = d ∧ p' = p ∧ (h.setMort d p f).mort d' p' = f (h.mort d p)) := by
  unfold Hw.setMort Hw.setDie Hw.mort Hw.die
  obtain same | ⟨rfl, die⟩ := getD_modify_or h.dies d d' (fun x => { x with mort := x.mort.modify p f }) {}
  · exact .inl (by rw [same])
  · rw [die]
    obtain same | ⟨rfl, port⟩ := getD_modify_or (h.dies.getD d' {}).mort p p' f {}
    · exact .inl same
    · exact .inr ⟨rfl, rfl, port⟩

/-- What a write of a port leaves there. -/
theorem Hw.mort_setMort_same {h : Hw} {d p lg : Nat} (f : MortPort → MortPort) (has : lg < (h.mort d p).lanes.length) :
    (h.setMort d p f).mort d p = f (h.mort d p) := by
  obtain ⟨inDies, inPorts⟩ := Hw.mort_present has
  unfold Hw.die at inPorts
  rw [List.getD_eq_getElem _ _ inDies] at inPorts
  simp [Hw.setMort, Hw.setDie, Hw.mort, Hw.die, inDies, inPorts]

/-- A lane group that a write of one reads back. -/
theorem MortPort.lane_modify {m : MortPort} {lg : Nat} (f : LaneGroup → LaneGroup) (has : lg < m.lanes.length) :
    MortPort.lane { m with lanes := m.lanes.modify lg f } lg = f (m.lane lg) := by
  simp [MortPort.lane, has]

theorem MortPort.lane_modify_other (m : MortPort) {lg k : Nat} (f : LaneGroup → LaneGroup) (other : k ≠ lg) :
    MortPort.lane { m with lanes := m.lanes.modify lg f } k = m.lane k := by
  simp [MortPort.lane, List.getD_eq_getElem?_getD, other.symm]

theorem Hw.lane_setLane {h : Hw} {d p lg : Nat} (f : LaneGroup → LaneGroup) (has : lg < (h.mort d p).lanes.length) :
    (h.setLane d p lg f).lane d p lg = f (h.lane d p lg) := by
  rw [Hw.lane_eq, Hw.setLane, Hw.mort_setMort_same _ has, MortPort.lane_modify f has, Hw.lane_eq]

/-- A lane group in service is one of its port's. -/
theorem Hw.lane_present {h : Hw} {d p lg : Nat} (on : (h.lane d p lg).disabled = false) : lg < (h.mort d p).lanes.length := by
  by_contra out
  rw [Hw.lane, List.getD_eq_default _ _ (Nat.le_of_not_lt out)] at on
  cases on

section
variable {h : Hw} {d p lg : Nat} {f : LaneGroup → LaneGroup} (has : lg < (h.mort d p).lanes.length)
include has

theorem Hw.setLane_early : ((h.setLane d p lg f).mort d p).early = (h.mort d p).early := by rw [Hw.setLane, Hw.mort_setMort_same _ has]
theorem Hw.setLane_got : ((h.setLane d p lg f).mort d p).got = (h.mort d p).got := by rw [Hw.setLane, Hw.mort_setMort_same _ has]
theorem Hw.setLane_present : lg < ((h.setLane d p lg f).mort d p).lanes.length := by
  rw [Hw.setLane, Hw.mort_setMort_same _ has]
  simpa using has

end

/-! ## What sending can change -/

/-- A lane group without what sending changes. -/
def LaneGroup.rest (l : LaneGroup) : LaneGroup := { l with window := [], queue := [], packets := [], nextSeq := 0 }

/-- A port without what sending, and the order of delivery, change. -/
def MortPort.rest (m : MortPort) : MortPort :=
  { m with lanes := m.lanes.map LaneGroup.rest, waiting := [], sent := [], turn := 0, early := [], got := [] }

/-- The machine without the dies and what went out. -/
def Hw.rest (h : Hw) : Hw := { h with dies := [], out := [] }

theorem Hw.eq_of_rest {h h' : Hw} (same : h'.rest = h.rest) : h' = { h with dies := h'.dies, out := h'.out } := by
  change ({ h'.rest with dies := h'.dies, out := h'.out } : Hw) = { h.rest with dies := h'.dies, out := h'.out }
  rw [same]

theorem LaneGroup.eq_of_rest {l l' : LaneGroup} (same : l'.rest = l.rest) :
    l' = { l with window := l'.window, queue := l'.queue, packets := l'.packets, nextSeq := l'.nextSeq } := by
  change ({ l'.rest with window := l'.window, queue := l'.queue, packets := l'.packets, nextSeq := l'.nextSeq } : LaneGroup) =
    { l.rest with window := l'.window, queue := l'.queue, packets := l'.packets, nextSeq := l'.nextSeq }
  rw [same]

/-- A lane group sends more: its window grows at its end, to no more than 32 flits, and nothing but what it sends changes. -/
structure LaneGroup.Grows (l l' : LaneGroup) : Prop where
  rest : l'.rest = l.rest
  window : l.window <+: l'.window
  room : l.window.length ≤ 32 → l'.window.length ≤ 32

theorem LaneGroup.Grows.refl (l : LaneGroup) : l.Grows l := ⟨rfl, List.prefix_refl _, id⟩

theorem LaneGroup.Grows.trans {a b c : LaneGroup} (ab : a.Grows b) (bc : b.Grows c) : a.Grows c :=
  ⟨bc.rest.trans ab.rest, ab.window.trans bc.window, bc.room ∘ ab.room⟩

/-- Each lane group of a port sends more, and beside it only the packets that wait, their numbers and the turn change. -/
structure MortPort.Grows (m m' : MortPort) : Prop where
  rest : m'.rest = m.rest
  lane : ∀ lg, (m.lane lg).Grows (m'.lane lg)

theorem MortPort.Grows.refl (m : MortPort) : m.Grows m := ⟨rfl, fun _ => .refl _⟩

theorem MortPort.Grows.trans {a b c : MortPort} (ab : a.Grows b) (bc : b.Grows c) : a.Grows c :=
  ⟨bc.rest.trans ab.rest, fun lg => (ab.lane lg).trans (bc.lane lg)⟩

/-- A port of which one lane group sends more. -/
theorem MortPort.Grows.modify {m : MortPort} {lg : Nat} {f : LaneGroup → LaneGroup} (grows : (m.lane lg).Grows (f (m.lane lg))) :
    m.Grows { m with lanes := m.lanes.modify lg f } := by
  by_cases has : lg < m.lanes.length
  · have lane : m.lane lg = m.lanes[lg] := List.getD_eq_getElem _ _ has
    have lanes : (m.lanes.modify lg f).map LaneGroup.rest = m.lanes.map LaneGroup.rest := by
      refine List.ext_getElem (by simp) fun k _ inLanes => ?_
      by_cases same : lg = k
      · subst same
        simpa [lane] using grows.rest
      · simp [same]
    refine ⟨by simp only [MortPort.rest, lanes], fun k => ?_⟩
    by_cases same : k = lg
    · rw [same, MortPort.lane_modify f has]
      exact grows
    · rw [MortPort.lane_modify_other m f same]
      exact .refl _
  · rw [List.modify_eq_self (Nat.le_of_not_lt has)]
    exact .refl m

/-- A step of the ports: lane groups send more, and what went out is told after what was told before. -/
structure Hw.Moves (h h' : Hw) : Prop where
  rest : h'.rest = h.rest
  told : h.out <:+ h'.out
  port : ∀ d p, (h.mort d p).Grows (h'.mort d p)

theorem Hw.Moves.refl (h : Hw) : h.Moves h := ⟨rfl, List.suffix_refl _, fun _ _ => .refl _⟩

theorem Hw.Moves.trans {a b c : Hw} (ab : a.Moves b) (bc : b.Moves c) : a.Moves c :=
  ⟨bc.rest.trans ab.rest, ab.told.trans bc.told, fun d p => (ab.port d p).trans (bc.port d p)⟩

theorem Hw.Moves.lane {h h' : Hw} (moves : h.Moves h') (d p lg : Nat) : (h.lane d p lg).Grows (h'.lane d p lg) := (moves.port d p).lane lg

theorem Hw.Moves.emit (h : Hw) (o : Out) : h.Moves (h.emit o) := ⟨rfl, List.suffix_cons _ _, fun _ _ => .refl _⟩

theorem Hw.Moves.setMort {h : Hw} {d p : Nat} {f : MortPort → MortPort} (grows : (h.mort d p).Grows (f (h.mort d p))) :
    h.Moves (h.setMort d p f) := by
  refine ⟨rfl, List.suffix_refl _, fun d' p' => ?_⟩
  obtain same | ⟨rfl, rfl, changed⟩ := h.mort_setMort d p f d' p'
  · rw [same]
    exact .refl _
  · rw [changed]
    exact grows

theorem Hw.Moves.foldl {α : Type} {f : Hw → α → Hw} (step : ∀ (h : Hw) x, h.Moves (f h x)) (xs : List α) (h : Hw) : h.Moves (xs.foldl f h) :=
  List.foldlRecOn (motive := h.Moves) xs f (.refl h) fun g moves x _ => moves.trans (step g x)

/-- A step of the ports that delivers nothing. -/
structure Hw.Sends (h h' : Hw) : Prop extends h.Moves h' where
  early : ∀ d p, (h'.mort d p).early = (h.mort d p).early
  got : ∀ d p, (h'.mort d p).got = (h.mort d p).got

theorem Hw.Sends.refl (h : Hw) : h.Sends h := ⟨.refl h, fun _ _ => rfl, fun _ _ => rfl⟩

theorem Hw.Sends.trans {a b c : Hw} (ab : a.Sends b) (bc : b.Sends c) : a.Sends c :=
  ⟨ab.toMoves.trans bc.toMoves, fun d p => (bc.early d p).trans (ab.early d p), fun d p => (bc.got d p).trans (ab.got d p)⟩

theorem Hw.Sends.emit (h : Hw) (o : Out) : h.Sends (h.emit o) := ⟨.emit h o, fun _ _ => rfl, fun _ _ => rfl⟩

theorem Hw.Sends.setMort {h : Hw} {d p : Nat} {f : MortPort → MortPort} (grows : (h.mort d p).Grows (f (h.mort d p)))
    (early : (f (h.mort d p)).early = (h.mort d p).early) (got : (f (h.mort d p)).got = (h.mort d p).got) : h.Sends (h.setMort d p f) := by
  refine ⟨.setMort grows, fun d' p' => ?_, fun d' p' => ?_⟩ <;>
    obtain same | ⟨rfl, rfl, changed⟩ := h.mort_setMort d p f d' p'
  · rw [same]
  · rw [changed, early]
  · rw [same]
  · rw [changed, got]

theorem Hw.Sends.setLane {h : Hw} {d p lg : Nat} {f : LaneGroup → LaneGroup} (grows : (h.lane d p lg).Grows (f (h.lane d p lg))) :
    h.Sends (h.setLane d p lg f) := .setMort (.modify grows) rfl rfl

theorem Hw.Sends.foldl {α : Type} {f : Hw → α → Hw} (step : ∀ (h : Hw) x, h.Sends (f h x)) (xs : List α) (h : Hw) : h.Sends (xs.foldl f h) :=
  List.foldlRecOn (motive := h.Sends) xs f (.refl h) fun g sends x _ => sends.trans (step g x)

/-! ## Sending -/

theorem Hw.fillWindow_sends (h : Hw) (d p lg : Nat) : h.Sends (h.fillWindow d p lg) := by
  unfold Hw.fillWindow
  extract_lets l n fs h1
  split
  · exact .refl h
  · refine Hw.Sends.trans (.setLane ⟨rfl, List.prefix_append _ _, fun room => ?_⟩) (.foldl (fun g _ => .emit g _) _ _)
    have : fs.length ≤ 32 - l.window.length := by simp [fs, n]
    simp only [List.length_append]
    change l.window.length ≤ 32 at room
    change l.window.length + fs.length ≤ 32
    omega

theorem Hw.resendWindow_sends (h : Hw) (d p lg : Nat) : h.Sends (h.resendWindow d p lg) := .foldl (fun g _ => .emit g _) _ _

theorem Hw.assignPacket_sends (h : Hw) (d p : Nat) : h.Sends (h.assignPacket d p) := by
  unfold Hw.assignPacket
  extract_lets m
  split
  · split
    · exact .refl h
    · exact Hw.Sends.trans (.setMort ⟨rfl, fun _ => .refl _⟩ rfl rfl)
        (Hw.Sends.trans (.setLane ⟨rfl, List.prefix_refl _, id⟩) (Hw.fillWindow_sends _ _ _ _))
  · exact .refl h

theorem Hw.pumpPort_sends (h : Hw) (d p : Nat) : h.Sends (h.pumpPort d p) := .foldl (fun g _ => g.assignPacket_sends d p) _ _

/-- What follows every change of a lane group. -/
theorem Hw.sendMore_sends (h : Hw) (d p lg : Nat) : h.Sends ((h.fillWindow d p lg).pumpPort d p) :=
  (h.fillWindow_sends d p lg).trans (Hw.pumpPort_sends _ _ _)

theorem Hw.enterPort_moves (h : Hw) (d p : Nat) (x : Packet) : h.Moves (h.enterPort d p x) := by
  unfold Hw.enterPort
  extract_lets e y q m c z
  split
  · exact .refl h
  · exact Hw.Moves.trans (.setMort ⟨rfl, fun _ => .refl _⟩) (Hw.pumpPort_sends _ _ _).toMoves

theorem Hw.deliverPacket_moves (h : Hw) (d : Nat) (x : Packet) : h.Moves (h.deliverPacket d x) := by
  unfold Hw.deliverPacket
  split
  · split
    · exact h.enterPort_moves _ _ _
    · exact .emit h _
  · exact h.enterPort_moves _ _ _

/-! ## Arrivals -/

theorem Hw.deliverEarly_moves (h : Hw) (d p : Nat) : h.Moves (h.deliverEarly d p) := by
  refine Hw.Moves.foldl (fun g _ => ?_) _ _
  dsimp only
  split
  · exact .refl g
  · exact Hw.Moves.trans (.setMort ⟨rfl, fun _ => .refl _⟩) (Hw.deliverPacket_moves _ _ _)

theorem Hw.packetIn_moves (h : Hw) (d p : Nat) (x : Packet) : h.Moves (h.packetIn d p x) := by
  unfold Hw.packetIn
  split
  · exact .refl h
  · exact Hw.Moves.trans (.setMort ⟨rfl, fun _ => .refl _⟩) (Hw.deliverEarly_moves _ _ _)

/-- A packet that waits alone, at the port at which it arrived. -/
def Hw.waitsFor (h : Hw) (d p : Nat) (x : Packet) : Hw := h.setMort d p fun m => { m with early := m.early ++ [x] }

theorem Hw.waitsFor_early {h : Hw} {d p lg : Nat} {x : Packet} (has : lg < (h.mort d p).lanes.length) (none : (h.mort d p).early = []) :
    ((h.waitsFor d p x).mort d p).early = [x] := by
  rw [Hw.waitsFor, Hw.mort_setMort_same _ has]
  simp [none]

theorem Hw.waitsFor_got {h : Hw} {d p lg : Nat} {x : Packet} (has : lg < (h.mort d p).lanes.length) :
    ((h.waitsFor d p x).mort d p).got = (h.mort d p).got := by
  rw [Hw.waitsFor, Hw.mort_setMort_same _ has]

/-- The next packet of its class that ends at this die is delivered at once. -/
theorem Hw.packetIn_delivers {h : Hw} {d p lg : Nat} {x : Packet} (has : lg < (h.mort d p).lanes.length) (none : (h.mort d p).early = [])
    (next : x.head.order = (h.mort d p).got.getD (x.head.cls % 4) 0) (here : x.head.dst = d) (ends : x.head.exit = .none) :
    .packet d x ∈ (h.packetIn d p x).out := by
  have early : ((h.waitsFor d p x).mort d p).early = [x] := Hw.waitsFor_early has none
  have got : ((h.waitsFor d p x).mort d p).got = (h.mort d p).got := Hw.waitsFor_got has
  rw [Hw.packetIn, if_neg (by omega)]
  change _ ∈ ((h.waitsFor d p x).deliverEarly d p).out
  unfold Hw.deliverEarly
  rw [early]
  simp [forN, early, got, next, Hw.deliverPacket, here, ends, Hw.emit]

/-- A packet before which another of its class is missing waits. -/
theorem Hw.packetIn_waits {h : Hw} {d p lg : Nat} {x : Packet} (has : lg < (h.mort d p).lanes.length) (none : (h.mort d p).early = [])
    (ahead : (h.mort d p).got.getD (x.head.cls % 4) 0 < x.head.order) : ((h.packetIn d p x).mort d p).early = [x] := by
  have early : ((h.waitsFor d p x).mort d p).early = [x] := Hw.waitsFor_early has none
  have got : ((h.waitsFor d p x).mort d p).got = (h.mort d p).got := Hw.waitsFor_got has
  rw [Hw.packetIn, if_neg (by omega)]
  change (((h.waitsFor d p x).deliverEarly d p).mort d p).early = _
  unfold Hw.deliverEarly
  have later : (x.head.order == (h.mort d p).got.getD (x.head.cls % 4) 0) = false := beq_eq_false_iff_ne.2 ahead.ne'
  rw [early]
  simp only [forN, List.length_singleton, List.range_one, List.foldl_cons, List.foldl_nil, early, got, List.find?_cons, later, List.find?_nil]

/-! ## What an event tells -/

theorem Hw.noteRecord_told (h : Hw) (evt : Bool) (n : Nat) : h.out <:+ (h.noteRecord evt n).out := by
  unfold Hw.noteRecord
  extract_lets o
  split
  · exact List.suffix_refl _
  · split
    · exact (Hw.setOutRing_out ..).symm ▸ List.suffix_refl _
    · obtain ⟨-, -, -, told⟩ := (h.setOutRing evt n fun o => { o with unIrq := 0, irqTimer := false }).msixSend_only (h.outPort evt n) o.vector
      rwa [Hw.setOutRing_out] at told

theorem Hw.putRecord_told (h : Hw) (evt : Bool) (n : Nat) (rb : List Byte) : h.out <:+ (h.putRecord evt n rb).out := by
  unfold Hw.putRecord
  extract_lets o rb g
  have told := (g.setOutRing evt n fun o => { o with writeTail := o.writeTail + 1 }).noteRecord_told evt n
  rwa [Hw.setOutRing_out] at told

theorem Hw.deliver_told (h : Hw) (p : Nat) (rb : List Byte) : h.out <:+ (h.deliver p rb).out := by
  have kept (f : OutRing → OutRing) : h.out <:+ (h.setOutRing true p f).out := List.suffix_refl _
  unfold Hw.deliver
  extract_lets o
  split
  · split
    · exact kept _
    · exact h.putRecord_told true p rb
  · split
    · exact List.suffix_refl _
    · split <;> exact kept _

theorem Hw.event_told (h : Hw) (ps : List Nat) (code src ctx : Nat) (epoch : Byte) (d0 d1 : Nat) :
    h.out <:+ (h.event ps code src ctx epoch d0 d1).out := by
  unfold Hw.event
  extract_lets rb g
  have kept : g.out = h.out := by
    simp only [g]
    rw [Hw.keepEvent_only]
  rw [← kept]
  exact List.foldlRecOn (motive := fun k : Hw => g.out <:+ k.out) ps _ (List.suffix_refl _) fun k told p _ => told.trans (k.deliver_told p rb)

/-- A CRC mismatch that is counted, and told where there are too many, leaves the ports as they are. -/
theorem Hw.noteCrc_only (h : Hw) (die kind port : Nat) :
    (h.noteCrc die kind port).dies = h.dies ∧ (h.noteCrc die kind port).mem = h.mem ∧ (h.noteCrc die kind port).rings = h.rings ∧
      h.out <:+ (h.noteCrc die kind port).out := by
  unfold Hw.noteCrc Hw.evMod
  extract_lets a key l count h1
  split
  · exact ⟨by simp [h1], by simp [h1], by simp [h1], (h1.setAux die fun a => a.tell key h.now).event_told [0, 1] _ _ _ _ _ _⟩
  · exact ⟨rfl, rfl, rfl, List.suffix_refl _⟩

/-! ## Acknowledgements -/

theorem LaneGroup.settle_only (n : Nat) (l : LaneGroup) :
    l.settle n = { l with packets := (l.settle n).packets, acked := (l.settle n).acked } := by
  induction n generalizing l with
  | zero => rfl
  | succ n ih =>
    unfold LaneGroup.settle
    split
    · split
      · rw [ih]
      · rfl
    · rfl

/-- An acknowledgement takes flits off the window, with what is kept of them. -/
theorem LaneGroup.takeAck_only (l : LaneGroup) (a : Nat) :
    l.takeAck a = { l with
      window := ackFlits a l.window, packets := (l.takeAck a).packets, acked := (l.takeAck a).acked
      times := l.times.filter fun x => (ackFlits a l.window).any fun f => f.seq == x.1 } := LaneGroup.settle_only _ _

section
variable (l : LaneGroup) (a : Nat)
theorem LaneGroup.takeAck_window : (l.takeAck a).window = ackFlits a l.window := by rw [l.takeAck_only a]
theorem LaneGroup.takeAck_expect : (l.takeAck a).expect = l.expect := by rw [l.takeAck_only a]
theorem LaneGroup.takeAck_rx : (l.takeAck a).rx = l.rx := by rw [l.takeAck_only a]
theorem LaneGroup.takeAck_disabled : (l.takeAck a).disabled = l.disabled := by rw [l.takeAck_only a]
theorem LaneGroup.takeAck_retraining : (l.takeAck a).retraining = l.retraining := by rw [l.takeAck_only a]
end

namespace LaneGroup.Grows
variable {l l' : LaneGroup} (grows : l.Grows l')
include grows
theorem expect : l'.expect = l.expect := by rw [LaneGroup.eq_of_rest grows.rest]
theorem discarding : l'.discarding = l.discarding := by rw [LaneGroup.eq_of_rest grows.rest]
theorem rx : l'.rx = l.rx := by rw [LaneGroup.eq_of_rest grows.rest]
theorem disabled : l'.disabled = l.disabled := by rw [LaneGroup.eq_of_rest grows.rest]
theorem retraining : l'.retraining = l.retraining := by rw [LaneGroup.eq_of_rest grows.rest]

/-- A lane group that sends more does so whatever it receives. -/
theorem receive (e : Nat) (b : Bool) (r : Option Packet) :
    ({ l with expect := e, discarding := b, rx := r } : LaneGroup).Grows { l' with expect := e, discarding := b, rx := r } :=
  ⟨congrArg (fun k : LaneGroup => { k with expect := e, discarding := b, rx := r }) grows.rest, grows.window, grows.room⟩
end LaneGroup.Grows

/-! ## A lane group in service -/

/-- The state of a lane group is `x`, but for what it has sent since; of the machine, only dies and what went out differ. -/
structure Hw.Serves (h0 : Hw) (d p lg : Nat) (x : LaneGroup) (h : Hw) : Prop where
  rest : h.rest = h0.rest
  lane : x.Grows (h.lane d p lg)

section
variable {h0 h h' : Hw} {d p lg : Nat} {x : LaneGroup}

theorem Hw.Serves.moves (serves : h0.Serves d p lg x h) (moves : h.Moves h') : h0.Serves d p lg x h' :=
  ⟨moves.rest.trans serves.rest, serves.lane.trans (moves.lane d p lg)⟩

theorem Hw.Serves.setLane (f : LaneGroup → LaneGroup) (on : (h0.lane d p lg).disabled = false) :
    h0.Serves d p lg (f (h0.lane d p lg)) (h0.setLane d p lg f) :=
  ⟨rfl, (Hw.lane_setLane f (Hw.lane_present on)).symm ▸ .refl _⟩

/-- What is expected and what is arriving may change while the lane group stays in service. -/
theorem Hw.Serves.receive (serves : h0.Serves d p lg x h) (on : x.disabled = false) (e : Nat) (b : Bool) (r : Option Packet)
    {f : LaneGroup → LaneGroup} (same : f (h.lane d p lg) = { h.lane d p lg with expect := e, discarding := b, rx := r }) :
    h0.Serves d p lg { x with expect := e, discarding := b, rx := r } (h.setLane d p lg f) := by
  have has : lg < (h.mort d p).lanes.length := Hw.lane_present (serves.lane.disabled.trans on)
  refine ⟨serves.rest, ?_⟩
  rw [Hw.lane_setLane f has, same]
  exact serves.lane.receive e b r

theorem Hw.Serves.keeps (serves : h0.Serves d p lg x h) (on : x.disabled = false) (up : x.retraining = false) :
    x.window <+: (h.lane d p lg).window ∧ (x.window.length ≤ 32 → (h.lane d p lg).window.length ≤ 32) ∧
      h = { h0 with dies := h.dies, out := h.out } ∧ (h.lane d p lg).disabled = false ∧ (h.lane d p lg).retraining = false :=
  ⟨serves.lane.window, serves.lane.room, Hw.eq_of_rest serves.rest, serves.lane.disabled.trans on, serves.lane.retraining.trans up⟩

end

/-! ## FLIT_RECEIVE and MORTAR_NACK -/

/-- A packet that data arrived for. -/
def Packet.extend (x : Packet) (b : List Byte) : Packet := { x with data := (x.data ++ flitBytes (.raw b)).take (32 * x.head.words) }

section
variable {h h0 : Hw} {d p lg : Nat} {f : Flit} {x : Packet} {b : List Byte}

theorem Hw.takeFlit_head {y : PacketHead} (first : f.kind = 1) (head : f.payload = .head y) :
    h.takeFlit d p lg f = h.setLane d p lg fun l => { l with rx := some { head := y, data := [] } } := by
  simp [Hw.takeFlit, head, first]

theorem Hw.takeFlit_data (first : f.kind ≠ 1) (last : f.kind ≠ 3) (data : f.payload = .raw b) (rx : (h.lane d p lg).rx = some x) :
    h.takeFlit d p lg f = h.setLane d p lg fun l => { l with rx := some (x.extend b) } := by
  simp [Hw.takeFlit, data, rx, first, last, Packet.extend]

theorem Hw.takeFlit_last (last : f.kind = 3) (data : f.payload = .raw b) (rx : (h.lane d p lg).rx = some x) :
    h.takeFlit d p lg f = (h.setLane d p lg fun l => { l with rx := none }).packetIn d p (x.extend b) := by
  simp [Hw.takeFlit, data, rx, last, Packet.extend]

/-- The flit changes only what is arriving, beside what a delivered packet makes the ports send. -/
theorem Hw.takeFlit_cases (h : Hw) (d p lg : Nat) (f : Flit) :
    h.takeFlit d p lg f = h ∨ (∃ r, h.takeFlit d p lg f = h.setLane d p lg fun l => { l with rx := r }) ∨
      ∃ x, h.takeFlit d p lg f = (h.setLane d p lg fun l => { l with rx := none }).packetIn d p x := by
  unfold Hw.takeFlit
  split
  · split
    · exact .inr (.inl ⟨_, rfl⟩)
    · exact .inl rfl
  · split
    · exact .inl rfl
    · split
      · exact .inr (.inr ⟨_, rfl⟩)
      · exact .inr (.inl ⟨_, rfl⟩)
  · exact .inl rfl

theorem Hw.Serves.takeFlit {l : LaneGroup} (serves : h0.Serves d p lg l h) (on : l.disabled = false) :
    ∃ r, h0.Serves d p lg { l with rx := r } (h.takeFlit d p lg f) := by
  have receive (r : Option Packet) : h0.Serves d p lg { l with rx := r } (h.setLane d p lg fun l => { l with rx := r }) :=
    serves.receive on l.expect l.discarding r (by rw [← serves.lane.expect, ← serves.lane.discarding])
  obtain same | ⟨r, arrives⟩ | ⟨x, ends⟩ := h.takeFlit_cases d p lg f
  · exact ⟨l.rx, by rwa [same]⟩
  · exact ⟨r, arrives ▸ receive r⟩
  · exact ⟨none, ends ▸ (receive none).moves (Hw.packetIn_moves _ _ _ _)⟩

end

/-- An acknowledgement arrives, and the port sends what it can. -/
def Hw.acked (h : Hw) (d p lg a : Nat) : Hw := ((h.setLane d p lg fun l => l.takeAck a).fillWindow d p lg).pumpPort d p

section
variable {h : Hw} {d p lg : Nat}

theorem Hw.acked_serves (a : Nat) (on : (h.lane d p lg).disabled = false) :
    h.Serves d p lg ((h.lane d p lg).takeAck a) (h.acked d p lg a) :=
  (Hw.Serves.setLane (fun l => l.takeAck a) on).moves (Hw.sendMore_sends _ _ _ _).toMoves

theorem Hw.acked_early (a : Nat) (on : (h.lane d p lg).disabled = false) : ((h.acked d p lg a).mort d p).early = (h.mort d p).early :=
  ((Hw.sendMore_sends _ _ _ _).early d p).trans (Hw.setLane_early (Hw.lane_present on))

theorem Hw.acked_got (a : Nat) (on : (h.lane d p lg).disabled = false) : ((h.acked d p lg a).mort d p).got = (h.mort d p).got :=
  ((Hw.sendMore_sends _ _ _ _).got d p).trans (Hw.setLane_got (Hw.lane_present on))

end

theorem exec_flitReceive (die port lg : Nat) (f : Flit) (s : State) :
    exec (.flitReceive die port lg f) s = execFlitReceive die port lg f s := rfl

theorem exec_mortarNack (die port lg seq : Nat) (s : State) : exec (.mortarNack die port lg seq) s = execMortarNack die port lg seq s := rfl

section
variable {die port lg : Nat} {f : Flit} {s : State} (p : s.hw.ks2.powered = true) (dies : s.hw.diesOn = true)
  (on : (s.hw.lane die port lg).disabled = false) (up : (s.hw.lane die port lg).retraining = false)
include p dies on up

/-- A flit changed on the way. -/
theorem execFlitReceive_bad (bad : f.crc ≠ flitCrc f) :
    exec (.flitReceive die port lg f) s = .next { s with
      hw := (((s.hw.setMort die port fun m => { m with crcErr := satAdd m.crcErr 1 }).setLane die port lg fun l =>
        { l with discarding := true }).sendFlitNack die port lg).noteCrc die 0 port } := by
  rw [exec_flitReceive, execFlitReceive, actDie_on p dies]
  simp [on, up, bad]

/-- A flit of a packet. -/
theorem execFlitReceive_good (good : f.crc = flitCrc f) (low : 1 ≤ f.kind) (high : f.kind ≤ 3) :
    exec (.flitReceive die port lg f) s = .next { s with
      hw :=
        let l := s.hw.lane die port lg
        let h := s.hw.acked die port lg f.ack
        if f.seq = l.expect then
          (h.setLane die port lg fun l => { l with expect := (l.expect + 1) % 64, discarding := false }).takeFlit die port lg f
        else if l.discarding || decide ((l.expect + 64 - f.seq) % 64 ≤ 32) then h
        else (h.setLane die port lg fun l => { l with discarding := true }).sendFlitNack die port lg } := by
  rw [exec_flitReceive, execFlitReceive, actDie_on p dies]
  have : f.kind ≠ 4 ∧ f.kind ≠ 5 ∧ ¬ (f.kind = 0 ∨ 6 ≤ f.kind) := by omega
  simp [on, up, good, this, Hw.acked]

/-- A flit with a wrong CRC is discarded, counted and answered with a NACK. -/
theorem corruptFlit_discarded (bad : f.crc ≠ flitCrc f) :
    ∃ t, exec (.flitReceive die port lg f) s = .next t ∧ t.pending = s.pending ∧ t.hw.mem = s.hw.mem ∧ t.hw.rings = s.hw.rings ∧
      t.hw.lane die port lg = { s.hw.lane die port lg with discarding := true } ∧
      (t.hw.mort die port).crcErr = satAdd (s.hw.mort die port).crcErr 1 ∧
      .flit die port lg (mkFlit (.raw (zeros 28)) 4 (s.hw.lane die port lg).expect (((s.hw.lane die port lg).expect + 63) % 64)) ∈ t.hw.out := by
  refine ⟨_, execFlitReceive_bad p dies on up bad, rfl, ?_⟩
  have has := Hw.lane_present on
  let counted := s.hw.setMort die port fun m => { m with crcErr := satAdd m.crcErr 1 }
  have mort : counted.mort die port = { s.hw.mort die port with crcErr := satAdd (s.hw.mort die port).crcErr 1 } := Hw.mort_setMort_same _ has
  have hasC : lg < (counted.mort die port).lanes.length := by rwa [mort]
  let h := counted.setLane die port lg fun l => { l with discarding := true }
  have lane : h.lane die port lg = { s.hw.lane die port lg with discarding := true } := by
    rw [Hw.lane_setLane _ hasC, Hw.lane_eq, mort]
    rfl
  have crcErr : (h.mort die port).crcErr = satAdd (s.hw.mort die port).crcErr 1 :=
    (congrArg MortPort.crcErr (Hw.mort_setMort_same _ hasC)).trans (by rw [mort])
  obtain ⟨ports, mem, rings, told⟩ := (h.sendFlitNack die port lg).noteCrc_only die 0 port
  have same (n : Hw) (e : n.dies = h.dies) (q r : Nat) : n.mort q r = h.mort q r := by simp only [Hw.mort, Hw.die, e]
  refine ⟨mem, rings, ?_, ?_, told.mem ?_⟩
  · rw [← lane, Hw.lane_eq, same _ ports, Hw.lane_eq]
  · rw [← crcErr, same _ ports]
  · unfold Hw.sendFlitNack
    rw [lane]
    exact List.mem_cons_self

/-- The expected flit is taken. -/
theorem expectedFlit_taken (good : f.crc = flitCrc f) (low : 1 ≤ f.kind) (high : f.kind ≤ 3) (next : f.seq = (s.hw.lane die port lg).expect) :
    ∃ t, exec (.flitReceive die port lg f) s = .next t ∧ t.pending = s.pending ∧
      (∃ r, s.hw.Serves die port lg { (s.hw.lane die port lg).takeAck f.ack with
        expect := ((s.hw.lane die port lg).expect + 1) % 64, discarding := false, rx := r } t.hw) ∧
      (∀ x, f.kind = 1 → f.payload = .head x → (t.hw.lane die port lg).rx = some { head := x, data := [] }) ∧
      ∀ b x, f.kind ≠ 1 → f.payload = .raw b → (s.hw.lane die port lg).rx = some x →
        (f.kind = 2 → (t.hw.lane die port lg).rx = some (x.extend b)) ∧
        (f.kind = 3 → (t.hw.lane die port lg).rx = none ∧
          ((s.hw.mort die port).early = [] → x.head.order = (s.hw.mort die port).got.getD (x.head.cls % 4) 0 → x.head.dst = die →
            x.head.exit = none → .packet die (x.extend b) ∈ t.hw.out) ∧
          ((s.hw.mort die port).early = [] → (s.hw.mort die port).got.getD (x.head.cls % 4) 0 < x.head.order →
            (t.hw.mort die port).early = [x.extend b])) := by
  refine ⟨_, execFlitReceive_good p dies on up good low high, rfl, ?_⟩
  dsimp only
  rw [if_pos next]
  let l := s.hw.lane die port lg
  let h := s.hw.acked die port lg f.ack
  have acked : s.hw.Serves die port lg (l.takeAck f.ack) h := Hw.acked_serves f.ack on
  have ackedOn : (l.takeAck f.ack).disabled = false := (l.takeAck_disabled f.ack).trans on
  have has : lg < (h.mort die port).lanes.length := Hw.lane_present (acked.lane.disabled.trans ackedOn)
  have expect : (h.lane die port lg).expect = l.expect := acked.lane.expect.trans (l.takeAck_expect f.ack)
  let g := h.setLane die port lg fun l => { l with expect := (l.expect + 1) % 64, discarding := false }
  have serves : s.hw.Serves die port lg { l.takeAck f.ack with expect := (l.expect + 1) % 64, discarding := false } g :=
    acked.receive ackedOn ((l.expect + 1) % 64) false (l.takeAck f.ack).rx (by rw [expect, acked.lane.rx])
  have hasG : lg < (g.mort die port).lanes.length := Hw.setLane_present has
  have rx : (g.lane die port lg).rx = l.rx := serves.lane.rx.trans (l.takeAck_rx f.ack)
  refine ⟨serves.takeFlit ackedOn, fun x first head => ?_, fun b x notFirst data arriving => ⟨fun more => ?_, fun last => ?_⟩⟩
  · rw [Hw.takeFlit_head first head, Hw.lane_setLane _ hasG]
  · rw [Hw.takeFlit_data notFirst (by omega) data (rx.trans arriving), Hw.lane_setLane _ hasG]
  · rw [Hw.takeFlit_last last data (rx.trans arriving)]
    have hasE := Hw.setLane_present (f := fun l => { l with rx := none }) hasG
    have early : ((g.setLane die port lg fun l => { l with rx := none }).mort die port).early = (s.hw.mort die port).early :=
      (Hw.setLane_early hasG).trans ((Hw.setLane_early has).trans (Hw.acked_early f.ack on))
    have got : ((g.setLane die port lg fun l => { l with rx := none }).mort die port).got = (s.hw.mort die port).got :=
      (Hw.setLane_got hasG).trans ((Hw.setLane_got has).trans (Hw.acked_got f.ack on))
    refine ⟨?_, fun alone next here ends => ?_, fun alone ahead => ?_⟩
    · rw [((Hw.packetIn_moves _ _ _ _).lane die port lg).rx, Hw.lane_setLane _ hasG]
    · exact Hw.packetIn_delivers hasE (early.trans alone) (next.trans (by rw [got]; rfl)) here ends
    · exact Hw.packetIn_waits hasE (early.trans alone) (by rw [got]; exact ahead)

/-- A flit ahead of the expected one is answered with a NACK, and those after it are discarded. -/
theorem gap_answered (good : f.crc = flitCrc f) (low : 1 ≤ f.kind) (high : f.kind ≤ 3) (gap : f.seq ≠ (s.hw.lane die port lg).expect)
    (first : (s.hw.lane die port lg).discarding = false) (ahead : 32 < ((s.hw.lane die port lg).expect + 64 - f.seq) % 64) :
    ∃ t, exec (.flitReceive die port lg f) s = .next t ∧ t.pending = s.pending ∧
      s.hw.Serves die port lg { (s.hw.lane die port lg).takeAck f.ack with discarding := true } t.hw ∧
      t.hw.out.head? = some (.flit die port lg
        (mkFlit (.raw (zeros 28)) 4 (s.hw.lane die port lg).expect (((s.hw.lane die port lg).expect + 63) % 64))) := by
  refine ⟨_, execFlitReceive_good p dies on up good low high, rfl, ?_⟩
  dsimp only
  rw [if_neg gap, if_neg (by simp [first]; omega)]
  let l := s.hw.lane die port lg
  have acked : s.hw.Serves die port lg (l.takeAck f.ack) (s.hw.acked die port lg f.ack) := Hw.acked_serves f.ack on
  have serves := acked.receive ((l.takeAck_disabled f.ack).trans on) (l.takeAck f.ack).expect true (l.takeAck f.ack).rx
    (f := fun l => { l with discarding := true }) (by rw [← acked.lane.expect, ← acked.lane.rx])
  refine ⟨serves.moves (.emit _ _), ?_⟩
  unfold Hw.sendFlitNack
  rw [serves.lane.expect]
  simp only [l.takeAck_expect]
  rfl

end

section
variable {h : Hw} {d p lg : Nat}

/-- What is told for each entry of a list. -/
theorem Hw.mem_emitted {α : Type} (o : α → Out) {x : α} {xs : List α} (inList : x ∈ xs) (h : Hw) :
    o x ∈ (xs.foldl (fun h y => h.emit (o y)) h).out := by
  induction xs generalizing h with
  | nil => cases inList
  | cons y ys ih =>
    obtain same | later := List.mem_cons.1 inList
    · rw [same]
      exact (Hw.Sends.foldl (f := fun g y => g.emit (o y)) (fun g _ => .emit g _) ys (h.emit (o y))).told.mem List.mem_cons_self
    · exact ih later _

/-- A flit of the window goes out when the window is sent again. -/
theorem Hw.resendWindow_told {x : Flit} (inWindow : x ∈ (h.lane d p lg).window) :
    .flit d p lg (mkFlit x.payload x.kind x.seq (((h.lane d p lg).expect + 63) % 64)) ∈ (h.resendWindow d p lg).out :=
  Hw.mem_emitted (fun f : Flit => .flit d p lg (mkFlit f.payload f.kind f.seq (((h.lane d p lg).expect + 63) % 64))) inWindow h

/-- A lane group whose window is replayed from a flit on. -/
def LaneGroup.replayedFrom (l : LaneGroup) (seq now : Nat) : LaneGroup :=
  { l.takeAck ((seq + 63) % 64) with
    times := (l.takeAck ((seq + 63) % 64)).replay
    replays := now :: (l.takeAck ((seq + 63) % 64)).replays.filter fun t => decide (now < t + 1000000) }

theorem LaneGroup.replayedFrom_window (l : LaneGroup) (seq now : Nat) :
    (l.replayedFrom seq now).window = ackFlits ((seq + 63) % 64) l.window := l.takeAck_window _

/-- A lane group that changes sends its window again, and its port what it can. -/
def Hw.resumed (h : Hw) (d p lg : Nat) (f : LaneGroup → LaneGroup) : Hw :=
  (((h.setLane d p lg f).resendWindow d p lg).fillWindow d p lg).pumpPort d p

theorem Hw.resumed_serves (f : LaneGroup → LaneGroup) (on : (h.lane d p lg).disabled = false) :
    h.Serves d p lg (f (h.lane d p lg)) (h.resumed d p lg f) :=
  (Hw.Serves.setLane f on).moves ((Hw.resendWindow_sends _ _ _ _).trans (Hw.sendMore_sends _ _ _ _)).toMoves

/-- A NACK that names a flit of the window acknowledges those before it, and the rest go again. -/
theorem Hw.flitNack_named {seq : Nat} (on : (h.lane d p lg).disabled = false) (up : (h.lane d p lg).retraining = false)
    (named : ∃ x ∈ (h.lane d p lg).window, x.seq = seq) :
    h.flitNack d p lg seq = h.resumed d p lg fun l => l.replayedFrom seq h.now := by
  have found : ((h.lane d p lg).window.any fun f => f.seq == seq) = true := by simpa using named
  simp only [Hw.flitNack, on, up, found, Hw.resumed, LaneGroup.replayedFrom, Bool.or_self, Bool.not_true, if_neg Bool.false_ne_true]

theorem Hw.flitNack_serves {seq : Nat} (on : (h.lane d p lg).disabled = false) (up : (h.lane d p lg).retraining = false)
    (named : ∃ x ∈ (h.lane d p lg).window, x.seq = seq) :
    h.Serves d p lg ((h.lane d p lg).replayedFrom seq h.now) (h.flitNack d p lg seq) ∧
      ∀ x ∈ ((h.lane d p lg).takeAck ((seq + 63) % 64)).window,
        .flit d p lg (mkFlit x.payload x.kind x.seq (((h.lane d p lg).expect + 63) % 64)) ∈ (h.flitNack d p lg seq).out := by
  rw [Hw.flitNack_named on up named]
  have lane := Hw.lane_setLane (fun l => l.replayedFrom seq h.now) (Hw.lane_present on)
  have more := Hw.sendMore_sends ((h.setLane d p lg fun l => l.replayedFrom seq h.now).resendWindow d p lg) d p lg
  refine ⟨Hw.resumed_serves (fun l => l.replayedFrom seq h.now) on, fun x rest => ?_⟩
  rw [← (h.lane d p lg).takeAck_expect ((seq + 63) % 64)]
  have resent := Hw.resendWindow_told (h := h.setLane d p lg fun l => l.replayedFrom seq h.now) (d := d) (p := p) (lg := lg) (x := x)
  rw [lane] at resent
  exact more.told.mem (resent rest)

end

theorem execMortarNack_on {die port lg seq : Nat} {s : State} (p : s.hw.ks2.powered = true) (dies : s.hw.diesOn = true) :
    exec (.mortarNack die port lg seq) s = .next { s with hw := s.hw.flitNack die port lg seq } := by
  rw [exec_mortarNack, execMortarNack, actDie_on p dies]

/-- Flits arrive in order. -/
theorem flitsArriveInOrder : Claims.FlitsArriveInOrder := by
  intro die port lg f s l m nack keeps p dies on up
  have ackOn (a : Nat) : (l.takeAck a).disabled = false := (l.takeAck_disabled a).trans on
  have ackUp (a : Nat) : (l.takeAck a).retraining = false := (l.takeAck_retraining a).trans up
  refine ⟨corruptFlit_discarded p dies on up, fun good low high next => ?_, fun good low high gap first ahead => ?_, fun seq named => ?_⟩
  · obtain ⟨t, runs, pending, ⟨r, serves⟩, head, data⟩ := expectedFlit_taken p dies on up good low high next
    have kept := serves.keeps (ackOn f.ack) (ackUp f.ack)
    rw [LaneGroup.takeAck_window] at kept
    exact ⟨t, runs, pending, kept, serves.lane.expect, serves.lane.discarding, head, data⟩
  · obtain ⟨t, runs, pending, serves, answer⟩ := gap_answered p dies on up good low high gap first ahead
    have kept := serves.keeps (ackOn f.ack) (ackUp f.ack)
    rw [LaneGroup.takeAck_window] at kept
    exact ⟨t, runs, pending, kept, answer, serves.lane.expect.trans (l.takeAck_expect _), serves.lane.discarding,
      serves.lane.rx.trans (l.takeAck_rx _)⟩
  · obtain ⟨serves, again⟩ := Hw.flitNack_serves on up named
    have kept := serves.keeps (ackOn _) (ackUp _)
    rw [LaneGroup.replayedFrom_window] at kept
    rw [LaneGroup.takeAck_window] at again
    exact ⟨_, execMortarNack_on p dies, rfl, kept, serves.lane.expect.trans (l.takeAck_expect _), serves.lane.rx.trans (l.takeAck_rx _), again⟩

/-! ## Retraining -/

section
variable {h : Hw} {d p lg : Nat}

/-- A lane group in service that retrains carries nothing on, and is counted; the others of its port are left as they are. -/
theorem Hw.startRetrain_starts (on : (h.lane d p lg).disabled = false) (up : (h.lane d p lg).retraining = false) :
    (h.startRetrain d p lg true).rest = h.rest ∧
    (h.startRetrain d p lg true).lane d p lg = { h.lane d p lg with retraining := true, replays := [], times := [] } ∧
    (∀ k, k ≠ lg → (h.startRetrain d p lg true).lane d p k = h.lane d p k) ∧
    ((h.startRetrain d p lg true).mort d p).retrains = min ((h.mort d p).retrains + 1) 0xFFFF := by
  have has := Hw.lane_present on
  let m : MortPort := { h.mort d p with retrains := min ((h.mort d p).retrains + 1) 0xFFFF }
  let counted := h.setMort d p fun m => { m with retrains := min (m.retrains + 1) 0xFFFF }
  have mort : counted.mort d p = m := Hw.mort_setMort_same _ has
  let start (l : LaneGroup) : LaneGroup := { l with retraining := true, replays := [], times := [] }
  have mort' : (counted.setLane d p lg start).mort d p = { m with lanes := m.lanes.modify lg start } := by
    rw [Hw.setLane, Hw.mort_setMort_same _ (by rwa [mort]), mort]
  have started : h.startRetrain d p lg true =
      (counted.setLane d p lg start).emit (.flit d p lg (mkFlit (.raw (zeros 28)) 5 0 (((h.lane d p lg).expect + 63) % 64))) := by
    simp [Hw.startRetrain, on, up, counted, start]
  rw [started]
  refine ⟨rfl, ?_, fun k other => ?_, congrArg MortPort.retrains mort'⟩
  · exact (congrArg (·.lane lg) mort').trans (MortPort.lane_modify start has)
  · exact (congrArg (·.lane k) mort').trans (MortPort.lane_modify_other m start other)

end

theorem exec_laneRetrain (die port lg : Nat) (s : State) : exec (.laneRetrain die port lg) s = execLaneRetrain die port lg s := rfl

theorem exec_lgRetrain (die port : Nat) (s : State) : exec (.lgRetrain die port) s = execLgRetrain die port s := rfl

theorem exec_laneRetrainDone (die port lg : Nat) (w : Option Nat) (s : State) :
    exec (.laneRetrainDone die port lg w) s = execLaneRetrainDone die port lg w s := rfl

/-! ## What a disabled lane group held -/

theorem Hw.emits_dies {α : Type} (o : α → Out) (xs : List α) (h : Hw) : (xs.foldl (fun h y => h.emit (o y)) h).dies = h.dies :=
  List.foldlRecOn (motive := fun g : Hw => g.dies = h.dies) xs _ rfl fun _ same _ _ => same

theorem Hw.mort_of_dies {h h' : Hw} (same : h'.dies = h.dies) (d p : Nat) : h'.mort d p = h.mort d p := by simp only [Hw.mort, Hw.die, same]

/-- The lane group that takes a packet works. -/
theorem MortPort.freeLane_on {m : MortPort} {k : Nat} (free : m.freeLane = some k) : (m.lane k).disabled = false := by
  unfold MortPort.freeLane at free
  extract_lets ok least at free
  obtain ⟨⟨l, k'⟩, found, same⟩ := Option.map_eq_some_iff.1 free
  obtain rfl : k' = k := same
  obtain ⟨inLanes, works⟩ := List.mem_filter.1 (List.mem_of_find?_eq_some found)
  have lane : m.lane k' = l := by simp [MortPort.lane, List.getD_eq_getElem?_getD, List.mk_mem_zipIdx_iff_getElem?.1 inLanes]
  rw [lane]
  simp only [Bool.and_eq_true, Bool.not_eq_true'] at works
  exact works.1.1.1

section
variable {h : Hw} {d p lg : Nat}

theorem Hw.fillWindow_mort (has : lg < (h.mort d p).lanes.length) :
    ∃ f : LaneGroup → LaneGroup, (∀ l, (f l).packets = l.packets) ∧
      (h.fillWindow d p lg).mort d p = { h.mort d p with lanes := (h.mort d p).lanes.modify lg f } := by
  unfold Hw.fillWindow
  extract_lets l n fs h1
  split
  · exact ⟨id, fun _ => rfl, by rw [List.modify_id]⟩
  · exact ⟨fun l => { l with queue := l.queue.drop n, window := l.window ++ fs, nextSeq := (l.nextSeq + n) % 64 }, fun _ => rfl,
      (Hw.mort_of_dies (Hw.emits_dies _ _ _) d p).trans (Hw.mort_setMort_same _ has)⟩

/-- A port gives a packet that waits to a working lane group, or does nothing. -/
theorem Hw.assignPacket_mort (h : Hw) (d p : Nat) :
    (h.assignPacket d p).mort d p = h.mort d p ∨ ∃ (k : Nat) (x : Packet) (f : LaneGroup → LaneGroup),
      ((h.mort d p).lane k).disabled = false ∧
      (∀ l, (f l).packets = l.packets ++ [x]) ∧ ((h.assignPacket d p).mort d p).lanes = (h.mort d p).lanes.modify k f ∧
      ((h.assignPacket d p).mort d p).waiting = (h.mort d p).waiting.erase x := by
  unfold Hw.assignPacket
  extract_lets m
  split
  case h_1 c k _ free =>
    split
    · exact .inl rfl
    case h_2 x _ =>
      have works : ((h.mort d p).lane k).disabled = false := MortPort.freeLane_on free
      have has : k < (h.mort d p).lanes.length := Hw.lane_present works
      extract_lets h1 h2
      have mort1 : h1.mort d p = { m with waiting := m.waiting.erase x, turn := if c = 0 then m.turn else c } := Hw.mort_setMort_same _ has
      have mort2 : h2.mort d p = { h1.mort d p with lanes := (h1.mort d p).lanes.modify k fun l =>
          { l with queue := x.flits, packets := l.packets ++ [x] } } := Hw.mort_setMort_same _ (by rwa [mort1])
      obtain ⟨f, packets, mort3⟩ := Hw.fillWindow_mort (h := h2) (d := d) (p := p) (lg := k) (by rw [mort2, mort1]; simpa using has)
      refine .inr ⟨k, x, fun l => f { l with queue := x.flits, packets := l.packets ++ [x] }, works, fun l => packets _, ?_, ?_⟩
      · rw [mort3, mort2, mort1]
        exact List.modify_modify_eq _ _ _ _
      · rw [mort3, mort2, mort1]
  · exact .inl rfl

/-- What a lane group that was disabled held is on its port still: it waits, or another lane group has it. -/
structure Hw.Holds (h : Hw) (d p lg : Nat) (off : LaneGroup) (xs : List Packet) : Prop where
  lane : h.lane d p lg = off
  packets : ∀ x ∈ xs, x ∈ (h.mort d p).waiting ∨ ∃ k, k ≠ lg ∧ x ∈ (h.lane d p k).packets

theorem Hw.Holds.congr {h' : Hw} {off : LaneGroup} {xs : List Packet} (holds : h.Holds d p lg off xs)
    (same : h'.mort d p = h.mort d p) : h'.Holds d p lg off xs := by
  refine ⟨(congrArg (·.lane lg) same).trans holds.lane, fun x inXs => ?_⟩
  simpa only [Hw.lane_eq, same] using holds.packets x inXs

theorem Hw.Holds.assignPacket {off : LaneGroup} {xs : List Packet} (holds : h.Holds d p lg off xs) (disabled : off.disabled = true) :
    (h.assignPacket d p).Holds d p lg off xs := by
  obtain same | ⟨k, y, f, works, packets, lanes, waiting⟩ := h.assignPacket_mort d p
  · exact holds.congr same
  · have other : lg ≠ k := by
      rintro rfl
      rw [← Hw.lane_eq, holds.lane, disabled] at works
      cases works
    have lane (j : Nat) : (h.assignPacket d p).lane d p j = MortPort.lane { h.mort d p with lanes := (h.mort d p).lanes.modify k f } j := by
      rw [Hw.lane_eq, MortPort.lane, lanes]
      rfl
    have given : ((h.assignPacket d p).lane d p k).packets = (h.lane d p k).packets ++ [y] := by
      rw [lane, MortPort.lane_modify f (Hw.lane_present works), packets]
      rfl
    refine ⟨(lane lg).trans ((MortPort.lane_modify_other _ f other).trans holds.lane), fun x inXs => ?_⟩
    rw [waiting]
    obtain waits | ⟨j, notLg, moved⟩ := holds.packets x inXs
    · by_cases same : x = y
      · exact .inr ⟨k, other.symm, by rw [given, same]; exact List.mem_append_right _ List.mem_cons_self⟩
      · exact .inl ((List.mem_erase_of_ne same).2 waits)
    · refine .inr ⟨j, notLg, ?_⟩
      by_cases same : j = k
      · rw [same] at moved ⊢
        rw [given]
        exact List.mem_append_left _ moved
      · rw [lane, MortPort.lane_modify_other _ f same]
        exact moved

theorem Hw.Holds.pumpPort {off : LaneGroup} {xs : List Packet} (holds : h.Holds d p lg off xs) (disabled : off.disabled = true) :
    (h.pumpPort d p).Holds d p lg off xs :=
  List.foldlRecOn (motive := fun g : Hw => g.Holds d p lg off xs) _ _ holds fun _ holds _ _ => holds.assignPacket disabled

end

/-! ## A port with one lane group fewer -/

/-- Changing one entry of a list takes no more than one from those that meet a condition. -/
theorem countP_modify_le {α : Type} (q : α → Bool) (l : List α) (i : Nat) (f : α → α) : l.countP q ≤ (l.modify i f).countP q + 1 := by
  induction l generalizing i with
  | nil => simp
  | cons x xs ih =>
    cases i with
    | zero =>
      simp only [List.modify_zero_cons, List.countP_cons]
      split <;> omega
    | succ i =>
      have := ih i
      simp only [List.modify_succ_cons, List.countP_cons]
      omega

theorem MortPort.active_modify (m : MortPort) (lg : Nat) (f : LaneGroup → LaneGroup) :
    m.active ≤ MortPort.active { m with lanes := m.lanes.modify lg f } + 1 := by
  simp only [MortPort.active, ← List.countP_eq_length_filter]
  exact countP_modify_le _ _ _ _

/-- What a port sends leaves its working lane groups. -/
theorem MortPort.active_rest (m : MortPort) : m.rest.active = m.active := by
  simp only [MortPort.active, MortPort.rest, ← List.countP_eq_length_filter, List.countP_map]
  rfl

theorem Hw.startChange_dies (h : Hw) (p l : Nat) (add : Bool) (i : Nat) (cmd : Option (Nat × W32)) (lend : Option (Nat × Nat)) :
    (h.startChange p l add i cmd lend).dies = h.dies := by
  unfold Hw.startChange
  extract_lets k ls sq
  rw [(Hw.sendCtrl_only _ _ _ _ _ _ _ _).1, Hw.setLink_dies]

theorem Hw.refill_dies (h : Hw) (p l : Nat) (except : Option Nat) : (h.refill p l except).dies = h.dies := by
  unfold Hw.refill
  extract_lets k pool own spare
  split
  · rfl
  · split
    · exact h.startChange_dies _ _ _ _ _ _
    · rfl

theorem Hw.shed_dies (h : Hw) (p l : Nat) : (h.shed p l).dies = h.dies := by
  unfold Hw.shed
  extract_lets k
  split
  · rfl
  · split
    · exact h.startChange_dies _ _ _ _ _ _
    · split <;> rfl

theorem Hw.capStep_dies (h : Hw) (e : Nat) : (h.capStep e).dies = h.dies := by
  unfold Hw.capStep
  split
  · rfl
  · extract_lets ls
    split
    · rfl
    · extract_lets k low rich n
      split
      · rfl
      · split
        · exact (Hw.event_dies _ _ _ _ _ _ _ _).trans (h.shed_dies _ _)
        · exact h.shed_dies _ _

/-- The dies do not see what the optical engines make of the lane groups that work. -/
theorem Hw.capEngine_dies (h : Hw) (d p : Nat) : (h.capEngine d p).dies = h.dies := by
  unfold Hw.capEngine
  split
  · unfold Hw.setCap
    extract_lets g
    have capped : g.dies = h.dies :=
      List.foldlRecOn (motive := fun k : Hw => k.dies = h.dies) _ _ rfl fun k same _ _ => (k.capStep_dies _).trans same
    exact List.foldlRecOn (motive := fun k : Hw => k.dies = h.dies) _ _ capped fun k same _ _ => (k.refill_dies _ _ _).trans same
  · rfl

/-- A port that keeps its minimum, or has failed already, is left as it is. -/
theorem Hw.checkPort_dies {h : Hw} {d p : Nat} (kept : (h.mort d p).failed = true ∨ minLanes p ≤ (h.mort d p).active) :
    (h.checkPort d p).dies = h.dies := by
  have goes : ((h.mort d p).failed || !(h.mort d p).short p) = true := by
    obtain failed | enough := kept
    · simp [failed]
    · simp [MortPort.short, Nat.not_lt.2 enough]
  unfold Hw.checkPort
  rw [if_pos goes]
  exact h.capEngine_dies d p

/-! ## The end of a retrain -/

/-- A lane group that holds nothing. -/
def LaneGroup.cleared (l : LaneGroup) : LaneGroup := { l with window := [], queue := [], packets := [], acked := 0, times := [], rx := none }

/-- A lane group out of service. -/
def LaneGroup.off (l : LaneGroup) : LaneGroup := { l with retraining := false, disabled := true }

section
variable {h : Hw} {d p lg : Nat} (has : lg < (h.mort d p).lanes.length)
include has

/-- The port before it sends what a disabled lane group held. -/
theorem Hw.moveWindow_pumps : ∃ g : Hw, h.moveWindow d p lg = g.pumpPort d p ∧
    g.mort d p = { h.mort d p with
      lanes := (h.mort d p).lanes.modify lg LaneGroup.cleared, waiting := (h.lane d p lg).packets ++ (h.mort d p).waiting } := by
  refine ⟨_, rfl, ?_⟩
  rw [Hw.mort_setMort_same _ (Hw.setLane_present has), Hw.setLane, Hw.mort_setMort_same _ has]
  rfl

theorem Hw.moveWindow_rest : ((h.moveWindow d p lg).mort d p).rest =
    MortPort.rest { h.mort d p with lanes := (h.mort d p).lanes.modify lg LaneGroup.cleared } := by
  obtain ⟨g, pumps, mort⟩ := Hw.moveWindow_pumps has
  rw [pumps, ((g.pumpPort_sends d p).port d p).rest, mort]
  rfl

theorem Hw.moveWindow_holds (off : (h.lane d p lg).disabled = true) :
    (h.moveWindow d p lg).Holds d p lg (h.lane d p lg).cleared (h.lane d p lg).packets := by
  obtain ⟨g, pumps, mort⟩ := Hw.moveWindow_pumps has
  have holds : g.Holds d p lg (h.lane d p lg).cleared (h.lane d p lg).packets :=
    ⟨(congrArg (·.lane lg) mort).trans (MortPort.lane_modify LaneGroup.cleared has),
      fun x held => .inl (by rw [mort]; exact List.mem_append_left _ held)⟩
  rw [pumps]
  exact holds.pumpPort off

end

/-- A lane group that could not be mended, before its packets move. -/
def Hw.laneOff (h : Hw) (d p lg : Nat) : Hw :=
  (h.setLane d p lg LaneGroup.off).setMort d p fun m => { m with disabledInsvc := m.disabledInsvc + 1 }

/-- A lane group is disabled: its port keeps the packets that it held, and its minimum where it had a lane group more or has failed. -/
theorem Hw.laneOff_moves {h : Hw} {d p lg : Nat} (has : lg < (h.mort d p).lanes.length)
    (enough : (h.mort d p).failed = true ∨ minLanes p < (h.mort d p).active) :
    (((h.laneOff d p lg).moveWindow d p lg).checkPort d p).Holds d p lg (h.lane d p lg).off.cleared (h.lane d p lg).packets ∧
    ((((h.laneOff d p lg).moveWindow d p lg).checkPort d p).mort d p).disabledInsvc = (h.mort d p).disabledInsvc + 1 := by
  have mort : (h.laneOff d p lg).mort d p = { h.mort d p with
      lanes := (h.mort d p).lanes.modify lg LaneGroup.off, disabledInsvc := (h.mort d p).disabledInsvc + 1 } := by
    rw [Hw.laneOff, Hw.mort_setMort_same _ (Hw.setLane_present has), Hw.setLane, Hw.mort_setMort_same _ has]
  have hasOff : lg < ((h.laneOff d p lg).mort d p).lanes.length := by
    rw [mort]
    simpa using has
  have lane : (h.laneOff d p lg).lane d p lg = (h.lane d p lg).off :=
    (congrArg (·.lane lg) mort).trans (MortPort.lane_modify LaneGroup.off has)
  let g := (h.laneOff d p lg).moveWindow d p lg
  have holds : g.Holds d p lg (h.lane d p lg).off.cleared (h.lane d p lg).packets := by
    have := Hw.moveWindow_holds hasOff (by rw [lane]; rfl)
    rwa [lane] at this
  have rest : (g.mort d p).rest = MortPort.rest { h.mort d p with
      lanes := (h.mort d p).lanes.modify lg (LaneGroup.cleared ∘ LaneGroup.off), disabledInsvc := (h.mort d p).disabledInsvc + 1 } := by
    rw [Hw.moveWindow_rest hasOff, mort]
    simp only [List.modify_modify_eq]
  have kept : (g.mort d p).failed = true ∨ minLanes p ≤ (g.mort d p).active := by
    refine enough.imp (fun failed => ?_) fun more => ?_
    · exact (congrArg MortPort.failed rest).trans failed
    · have := (h.mort d p).active_modify lg (LaneGroup.cleared ∘ LaneGroup.off)
      have active := congrArg MortPort.active rest
      simp only [MortPort.active_rest] at active
      refine Nat.le_of_lt_succ (more.trans_le (this.trans (Nat.succ_le_succ (Nat.le_of_eq ?_))))
      exact active.symm
  have same : (g.checkPort d p).mort d p = g.mort d p := Hw.mort_of_dies (Hw.checkPort_dies kept) d p
  exact ⟨holds.congr same, (congrArg MortPort.disabledInsvc same).trans (congrArg MortPort.disabledInsvc rest)⟩

section
variable {die port lg : Nat} {s : State} (p : s.hw.ks2.powered = true) (dies : s.hw.diesOn = true)
include p

theorem execLgRetrain_starts (lit : s.hw.dark (dieOff die + 0x40 * port) = false) (named : lg = (s.hw.mort die port).lgsel) :
    exec (.lgRetrain die port) s = .next { s with hw := s.hw.startRetrain die port lg true } := by
  rw [exec_lgRetrain, execLgRetrain, actReg_on p lit, named]

include dies

theorem execLaneRetrain_starts (many : s.hw.replaysTooMany die port lg = true) :
    exec (.laneRetrain die port lg) s = .next { s with hw := s.hw.startRetrain die port lg true } := by
  rw [exec_laneRetrain, execLaneRetrain, actDie_on p dies, if_pos many]

theorem execLaneRetrainDone_whole (retrains : (s.hw.lane die port lg).retraining = true) :
    exec (.laneRetrainDone die port lg none) s =
      .next { s with hw := s.hw.resumed die port lg fun l => { l with retraining := false } } := by
  rw [exec_laneRetrainDone, execLaneRetrainDone, actDie_on p dies]
  simp [retrains, Hw.resumed]

/-- A lane group in which a spare wire is used. -/
def LaneGroup.mended (w : Nat) (l : LaneGroup) : LaneGroup :=
  { l with
    retraining := false, spares := l.spares + 1, substDone := true
    wire0 := if l.spares = 0 then w else l.wire0, wire1 := if l.spares = 0 then l.wire1 else w }

theorem execLaneRetrainDone_mended (w : Nat) (retrains : (s.hw.lane die port lg).retraining = true)
    (spare : (s.hw.lane die port lg).spares < 2) (first : (s.hw.lane die port lg).substDone = false)
    (may : (s.hw.mort die port).substEn = true) :
    exec (.laneRetrainDone die port lg (some w)) s = .next { s with hw := s.hw.resumed die port lg (LaneGroup.mended w) } := by
  rw [exec_laneRetrainDone, execLaneRetrainDone, actDie_on p dies]
  simp only [retrains, spare, first, may, Bool.not_true, Bool.false_eq_true, if_false, and_self, if_true]
  rfl

theorem execLaneRetrainDone_off (w : Nat) (retrains : (s.hw.lane die port lg).retraining = true)
    (broken : 2 ≤ (s.hw.lane die port lg).spares ∨ (s.hw.lane die port lg).substDone = true ∨ (s.hw.mort die port).substEn = false) :
    exec (.laneRetrainDone die port lg (some w)) s =
      .next { s with hw := ((s.hw.laneOff die port lg).moveWindow die port lg).checkPort die port } := by
  have none : ¬ ((s.hw.lane die port lg).spares < 2 ∧ (s.hw.lane die port lg).substDone = false ∧ (s.hw.mort die port).substEn = true) := by
    rintro ⟨spare, first, may⟩
    obtain two | again | not := broken
    · omega
    · simp [first] at again
    · simp [may] at not
  rw [exec_laneRetrainDone, execLaneRetrainDone, actDie_on p dies]
  simp only [retrains, none, Bool.not_true, Bool.false_eq_true, if_false]
  rfl

end

/-- A command after which a lane group serves has brought it back. -/
theorem Hw.Serves.comesBack {g : Hw} {die port lg : Nat} {x : LaneGroup} {row : Instr} {s : State} (serves : s.hw.Serves die port lg x g)
    (runs : exec row s = .next { s with hw := g }) :
    ∃ t, exec row s = .next t ∧ t.pending = s.pending ∧ t.hw = { s.hw with dies := t.hw.dies, out := t.hw.out } ∧
      x.window <+: (t.hw.lane die port lg).window ∧
      t.hw.lane die port lg = { x with
        window := (t.hw.lane die port lg).window, queue := (t.hw.lane die port lg).queue
        packets := (t.hw.lane die port lg).packets, nextSeq := (t.hw.lane die port lg).nextSeq } :=
  ⟨_, runs, rfl, Hw.eq_of_rest serves.rest, serves.lane.window, LaneGroup.eq_of_rest serves.lane.rest⟩

/-- Lane groups retrain, and come back or are disabled. -/
theorem laneGroupsRetrain : Claims.LaneGroupsRetrain := by
  intro die port s m starts p dies
  have started {row : Instr} {lg : Nat} (on : (s.hw.lane die port lg).disabled = false) (up : (s.hw.lane die port lg).retraining = false)
      (runs : exec row s = .next { s with hw := s.hw.startRetrain die port lg true }) : starts row lg := by
    obtain ⟨rest, started⟩ := Hw.startRetrain_starts on up
    exact ⟨_, runs, rfl, Hw.eq_of_rest rest, started⟩
  refine ⟨fun lg on up => ⟨fun many => started on up (execLaneRetrain_starts p dies many),
    fun lit named => started on up (execLgRetrain_starts p lit named)⟩, ?_⟩
  rintro lg l rfl retrains on back
  refine ⟨?_, fun w spare first may => ?_, fun w broken enough => ?_⟩
  · exact (Hw.resumed_serves (fun l => { l with retraining := false }) on).comesBack (execLaneRetrainDone_whole p dies retrains)
  · exact (Hw.resumed_serves (LaneGroup.mended w) on).comesBack (execLaneRetrainDone_mended p dies w retrains spare first may)
  · obtain ⟨holds, counted⟩ := Hw.laneOff_moves (Hw.lane_present on) enough
    have runs := execLaneRetrainDone_off p dies w retrains broken
    generalize ((s.hw.laneOff die port lg).moveWindow die port lg).checkPort die port = g at holds counted runs
    exact ⟨_, runs, rfl, congrArg LaneGroup.disabled holds.lane, congrArg LaneGroup.retraining holds.lane,
      congrArg LaneGroup.window holds.lane, holds.packets, counted⟩

end Sys2Proof.Machine

namespace Sys2Proof

/-- Settles O44, by what the ports can change when they send, and by where the packets of a disabled lane group go. -/
theorem mortarCarriesFlits : Obligations.MortarCarriesFlits := ⟨Machine.flitsArriveInOrder, Machine.laneGroupsRetrain⟩

end Sys2Proof
end

section
/-! SUPPORT. What is told leaves the machine as it is: events, interrupts, the T64's halves of doorbell records, bytes that became visible,
and what the reads of a run find. -/

namespace Sys2Proof.Machine

/-! ## A machine but for what telling changes -/

/-- The set-up of every context, and which host ports are up. -/
def Hw.seats (h : Hw) : List (Plan × CtxState × Byte × Nat) × List Bool :=
  (h.ctxs.map fun c => (c.plan, c.state, c.epoch, c.owner), h.hosts.map (·.up))

/-- `b` is `a` but for what `Hw.still` leaves out, and its contexts and host ports are set up as those of `a`. -/
structure Hw.Like (a b : Hw) : Prop where
  still : b.still = a.still
  seats : b.seats = a.seats

section
variable {a b c : Hw}

theorem Hw.Like.refl (a : Hw) : a.Like a := ⟨rfl, rfl⟩
theorem Hw.Like.trans (ab : a.Like b) (bc : b.Like c) : a.Like c := ⟨bc.still.trans ab.still, bc.seats.trans ab.seats⟩
theorem Hw.Like.ite {p : Prop} [Decidable p] (ab : a.Like b) (ac : a.Like c) : a.Like (if p then b else c) := by split <;> assumption
theorem Hw.Like.foldl {α : Type} {f : Hw → α → Hw} (l : List α) (ab : a.Like b) (k : ∀ h x, a.Like h → a.Like (f h x)) : a.Like (l.foldl f b) :=
  List.foldlRecOn l f ab fun _ ok x _ => k _ x ok

theorem Hw.Like.rings (ab : a.Like b) : b.rings = a.rings := (congrArg (fun h : Hw => h.rings) ab.still :)
theorem Hw.Like.cpls (ab : a.Like b) : b.cpls = a.cpls := (congrArg (fun h : Hw => h.cpls) ab.still :)
theorem Hw.Like.objs (ab : a.Like b) : b.objs = a.objs := (congrArg (fun h : Hw => h.objs) ab.still :)
theorem Hw.Like.mem (ab : a.Like b) : b.mem = a.mem := (congrArg (fun h : Hw => h.mem) ab.still :)
theorem Hw.Like.syncFlight (ab : a.Like b) : b.syncFlight = a.syncFlight := (congrArg (fun h : Hw => h.syncFlight) ab.still :)

theorem Hw.Like.ring (ab : a.Like b) (n : Nat) : b.ring n = a.ring n := congrArg (·.getD n {}) ab.rings
theorem Hw.Like.cpl (ab : a.Like b) (n : Nat) : b.outRing false n = a.outRing false n := congrArg (·.getD n {}) ab.cpls

/-- The plan, the state, the epoch and the owner of a context. -/
theorem Hw.Like.ctx (ab : a.Like b) (n : Nat) : (b.ctx n).plan = (a.ctx n).plan ∧ (b.ctx n).state = (a.ctx n).state ∧
    (b.ctx n).epoch = (a.ctx n).epoch ∧ (b.ctx n).owner = (a.ctx n).owner := by
  have same := congrArg (fun x => x.1.getD n (({} : Ctx).plan, .free, 0, 0)) ab.seats
  have of (h : Hw) : h.seats.1.getD n (({} : Ctx).plan, .free, 0, 0) = ((h.ctx n).plan, (h.ctx n).state, (h.ctx n).epoch, (h.ctx n).owner) :=
    List.getD_map h.ctxs {} fun c : Ctx => (c.plan, c.state, c.epoch, c.owner)
  simpa only [of, Prod.mk.injEq] using same

theorem Hw.Like.up (ab : a.Like b) (p : Nat) : (b.host p).up = (a.host p).up := by
  have same := congrArg (fun x => x.2.getD p true) ab.seats
  have of (h : Hw) : h.seats.2.getD p true = (h.host p).up := List.getD_map h.hosts {} HostPort.up
  simpa only [of] using same

theorem Hw.Like.hosts (ab : a.Like b) : b.hosts.length = a.hosts.length := by
  simpa [Hw.seats] using congrArg (fun x => x.2.length) ab.seats

theorem Hw.Like.ringPort (ab : a.Like b) (w : WorkRing) : b.ringPort w = a.ringPort w := by simp only [Hw.ringPort, ab.ctx]

theorem Hw.Like.outPort (ab : a.Like b) (n : Nat) : b.outPort false n = a.outPort false n := by simp [Hw.outPort, ab.ctx, ab.cpl]

theorem Hw.Like.canRecord (ab : a.Like b) (n : Nat) : b.canRecord false n = a.canRecord false n := by
  simp only [Hw.canRecord, ab.cpl, ab.outPort, ab.up]

/-- The same update of a ring keeps two machines alike. -/
theorem Hw.Like.setRing (ab : a.Like b) (n : Nat) (f : WorkRing → WorkRing) : (a.setRing n f).Like (b.setRing n f) :=
  ⟨(congrArg (fun h : Hw => h.setRing n f) ab.still :), ab.seats⟩

theorem Hw.Like.setCpl (ab : a.Like b) (n : Nat) (f : OutRing → OutRing) : (a.setOutRing false n f).Like (b.setOutRing false n f) :=
  ⟨(congrArg (fun h : Hw => h.setOutRing false n f) ab.still :), ab.seats⟩

end

/-! ## Updates of one part -/

section
variable {a h : Hw} {n : Nat}

/-- An update of what `Hw.still` leaves out, which keeps the contexts and the host ports. -/
theorem Hw.Like.same {b : Hw} (k : a.Like h) (still : b.still = h.still) (ctxs : b.ctxs = h.ctxs := by rfl) (hosts : b.hosts = h.hosts := by rfl) :
    a.Like b := ⟨still.trans k.still, (by rw [Hw.seats, ctxs, hosts, ← k.seats]; rfl)⟩

theorem Hw.setHost_ups {f : HostPort → HostPort} (up : ∀ q, (f q).up = q.up) : (h.setHost n f).hosts.map (·.up) = h.hosts.map (·.up) := by
  refine List.ext_getElem (by simp) fun i _ _ => ?_
  simp only [Hw.setHost, List.getElem_map, List.getElem_modify]
  split
  · exact up _
  · rfl

theorem Hw.Like.setHost {f : HostPort → HostPort} (k : a.Like h) (up : ∀ q, (f q).up = q.up := by intro; rfl) : a.Like (h.setHost n f) :=
  ⟨k.still, (congrArg (Prod.mk _) (Hw.setHost_ups up)).trans k.seats⟩

theorem Hw.Like.hostWrite {p : Nat} {bs : List Byte} (k : a.Like h) : a.Like (h.hostWrite p n bs) := k.setHost fun q => by
  split
  · rfl
  · split <;> rfl
theorem Hw.Like.emit {o : Out} (k : a.Like h) : a.Like (h.emit o) := k.same rfl
theorem Hw.Like.setEvt {f : OutRing → OutRing} (k : a.Like h) : a.Like (h.setOutRing true n f) := k.same rfl
theorem Hw.Like.setDie {f : Die → Die} (k : a.Like h) : a.Like (h.setDie n f) := k.same rfl
theorem Hw.Like.setAux {f : DieAux → DieAux} (k : a.Like h) : a.Like (h.setAux n f) := k.same rfl
theorem Hw.Like.applyEnv {e : Env} (k : a.Like h) : a.Like (h.applyEnv e) := .foldl e.host k fun _ _ k => k.setHost

end

/-! ## Events and interrupts -/

section
variable {a h : Hw} {p n : Nat}

theorem Hw.Like.msixEmit {v : Nat} (k : a.Like h) : a.Like (h.msixEmit p v) := .ite k k.emit
theorem Hw.Like.msixSend {v : Nat} (k : a.Like h) : a.Like (h.msixSend p v) := .ite k.setHost k.msixEmit
theorem Hw.Like.reportAer {bit : Nat} (k : a.Like h) : a.Like (h.reportAer p bit) := .ite k.setHost k.setHost.msixSend
theorem Hw.Like.noteEvt (k : a.Like h) : a.Like (h.noteRecord true n) := .ite k (.ite k.setEvt k.setEvt.msixSend)
theorem Hw.Like.putEvt {rb : List Byte} (k : a.Like h) : a.Like (h.putRecord true n rb) := k.hostWrite.setEvt.noteEvt
theorem Hw.Like.deliver {rb : List Byte} (k : a.Like h) : a.Like (h.deliver p rb) :=
  .ite (.ite k.setEvt k.putEvt) (.ite k (.ite k.setEvt k.setEvt))
theorem Hw.Like.event {ps : List Nat} {code src ctx d0 d1 : Nat} {epoch : Byte} (k : a.Like h) : a.Like (h.event ps code src ctx epoch d0 d1) := by
  refine .foldl ps ?_ fun _ _ k => k.deliver
  exact Hw.Like.same (h := h.keepEvent src _) (.ite k.setAux k) rfl
theorem Hw.Like.evMod {code src d0 d1 : Nat} (k : a.Like h) : a.Like (h.evMod code src d0 d1) := k.event
theorem Hw.Like.evCtx {code src d0 d1 : Nat} (k : a.Like h) : a.Like (h.evCtx n code src d0 d1) := k.event
theorem Hw.Like.evRing {code d0 d1 : Nat} (k : a.Like h) : a.Like (h.evRing n code d0 d1) := .ite k.event k.event
theorem Hw.Like.devRing (k : a.Like h) : a.Like (h.devRing n) := k.hostWrite
theorem Hw.Like.devOut {evt : Bool} (k : a.Like h) : a.Like (h.devOut evt n) := k.hostWrite
theorem Hw.Like.hostPoisonRead {b : Nat} {e : Env} (k : a.Like h) : a.Like (h.hostPoisonRead p b e) := .ite k.setHost.evMod.reportAer k

end

/-! ## What the reads of a run find -/

section
variable {a h : Hw} {die g : Nat}

theorem Hw.Like.ueFound {place tile da : Nat} (k : a.Like h) : a.Like (h.ueFound die place tile da) := .ite k.setAux.evMod k.setAux.setDie
theorem Hw.Like.recordRow {place row : Nat} (k : a.Like h) : a.Like (h.recordRow die place row) := .evMod (.ite k (k.same rfl))
theorem Hw.Like.foundUe (k : a.Like h) : a.Like (h.foundUe g) :=
  have marked : a.Like { h with poison := setIns h.poison g } := k.same rfl
  .ite marked.setDie.ueFound marked.setDie.ueFound.recordRow
theorem Hw.Like.noteCe {place n : Nat} (k : a.Like h) : a.Like (h.noteCe die place n) := .ite k (.ite k.setAux.setAux.evMod k.setAux)
theorem Hw.Like.foundCe (k : a.Like h) : a.Like (h.foundCe g) := .ite k.setDie.noteCe k.setDie.noteCe
theorem Hw.Like.readErrors {e : Env} {gs : List Nat} (k : a.Like h) : a.Like (h.readErrors e gs) :=
  .ite k (.foldl _ (.foldl _ k fun _ _ k => k.foundUe) fun _ _ k => k.foundCe)
theorem Hw.Like.lineUe {row : Nat} (k : a.Like h) : a.Like (h.lineUe die row g) := k.setDie.ueFound.recordRow
theorem Hw.Like.lineErrors {e : Env} {gs : List Nat} (k : a.Like h) : a.Like (h.lineErrors die e gs) :=
  .ite k (Hw.Like.setDie (.foldl _ k fun _ _ k => k.lineUe)).noteCe
theorem Hw.Like.writeErrors {e : Env} {w : Writes} (k : a.Like h) : a.Like (h.writeErrors e w) := .ite k k.readErrors

end

end Sys2Proof.Machine
end

section
/-! SUPPORT. The state of a work ring and its doorbell record: what its updates leave, and what a read of the record gives (02 R43-R46). -/

namespace Sys2Proof.Machine

/-! ## Updates of a work ring -/

section
variable {h : Hw} {r : Nat}

/-- Only what an update makes of the ring itself matters. -/
theorem Hw.setRing_congr {f g : WorkRing → WorkRing} (same : f (h.ring r) = g (h.ring r)) : h.setRing r f = h.setRing r g := by
  have rings : h.rings.modify r f = h.rings.modify r g := by
    refine List.ext_getElem? fun i => ?_
    simp only [List.getElem?_modify]
    by_cases here : r = i
    · subst here
      cases there : h.rings[r]? with
      | none => rfl
      | some w =>
        have ring : h.ring r = w := by simp [Hw.ring, there]
        simpa [ring] using same
    · simp [here]
  simp only [Hw.setRing, rings]

/-- A ring that differs from an absent one is there. -/
theorem Hw.ring_there (differs : h.ring r ≠ {}) : r < h.rings.length := by
  by_contra out
  exact differs (List.getD_eq_default _ _ (Nat.le_of_not_lt out))

theorem Hw.ring_there_of_state (works : (h.ring r).state ≠ .stopped) : r < h.rings.length :=
  Hw.ring_there fun absent => works (by rw [absent])

theorem Hw.setRingState_like (st : RingState) : (h.setRing r fun w => { w with state := st }).Like (h.setRingState r st) :=
  (Hw.Like.refl _).devRing

end

/-! ## A host port whose record stands -/

/-- A port of two machines is the same, and so are the bytes of its host's memory at `[k, k + n)`. -/
structure Hw.SamePort (a b : Hw) (p k n : Nat) : Prop where
  wfA : Memory.wf (a.host p).mem = true
  wfB : Memory.wf (b.host p).mem = true
  length : b.hosts.length = a.hosts.length
  bytes : ∀ j, k ≤ j → j < k + n → cellGet (b.host p).mem j = cellGet (a.host p).mem j
  up : (b.host p).up = (a.host p).up
  barred : (b.host p).barred = (a.host p).barred

section
variable {a b : Hw} {p k n : Nat}

theorem Hw.SamePort.refl (wf : Memory.wf (a.host p).mem = true) : a.SamePort a p k n := ⟨wf, wf, rfl, fun _ _ _ => rfl, rfl, rfl⟩

theorem Hw.SamePort.congr {c : Hw} (same : a.SamePort b p k n) (hosts : c.hosts = b.hosts) : a.SamePort c p k n := by
  have port : c.host p = b.host p := congrArg (·.getD p {}) hosts
  exact ⟨same.wfA, port ▸ same.wfB, hosts ▸ same.length, port ▸ same.bytes, port ▸ same.up, port ▸ same.barred⟩

/-- A write behind the bytes leaves them. -/
theorem Hw.SamePort.hostWrite {q m : Nat} {bs : List Byte} (same : a.SamePort b p k n) (behind : k + n ≤ m) :
    a.SamePort (b.hostWrite q m bs) p k n := by
  obtain ⟨wfA, wfB, length, bytes, up, barred⟩ := same
  have port : (b.hostWrite q m bs).host p = b.host p ∨
      (b.hostWrite q m bs).host p = { b.host p with mem := cellWrite (b.host p).mem m bs } ∨
      (b.hostWrite q m bs).host p = { b.host p with waiting := (b.host p).waiting ++ [(m, bs)] } := by
    unfold Hw.hostWrite
    rw [Hw.host_setHost]
    split
    · split
      · exact .inl rfl
      · split
        · exact .inr (.inl rfl)
        · exact .inr (.inr rfl)
    · exact .inl rfl
  have len : (b.hostWrite q m bs).hosts.length = a.hosts.length := (by simp [Hw.hostWrite] : _ = b.hosts.length).trans length
  obtain port | port | port := port
  · exact ⟨wfA, port ▸ wfB, len, port ▸ bytes, port ▸ up, port ▸ barred⟩
  · refine ⟨wfA, ?_, len, fun j low high => ?_, ?_, ?_⟩ <;> rw [port]
    · exact Memory.wf_write m bs wfB
    · exact (cellGet_write_other bs (by omega) _).trans (bytes j low high)
    · exact up
    · exact barred
  · refine ⟨wfA, ?_, len, fun j low high => ?_, ?_, ?_⟩ <;> rw [port]
    exacts [wfB, bytes j low high, up, barred]

/-- Bytes that become visible become so in both. -/
theorem Hw.SamePort.applyEnv (same : a.SamePort b p k n) (e : Env) : (a.applyEnv e).SamePort (b.applyEnv e) p k n := by
  unfold Hw.applyEnv
  generalize e.host = xs
  induction xs generalizing a b with
  | nil => exact same
  | cons x xs ih =>
    refine ih ?_
    obtain ⟨wfA, wfB, length, bytes, up, barred⟩ := same
    by_cases here : p = x.1 ∧ x.1 < a.hosts.length
    · have portA : (a.setHost x.1 fun q => { q with mem := cellSet q.mem x.2.1 x.2.2 }).host p =
          { a.host p with mem := cellSet (a.host p).mem x.2.1 x.2.2 } := by rw [Hw.host_setHost, if_pos here]
      have portB : (b.setHost x.1 fun q => { q with mem := cellSet q.mem x.2.1 x.2.2 }).host p =
          { b.host p with mem := cellSet (b.host p).mem x.2.1 x.2.2 } := by rw [Hw.host_setHost, if_pos ⟨here.1, length ▸ here.2⟩]
      refine ⟨?_, ?_, by simpa using length, fun j low high => ?_, ?_, ?_⟩
      · rw [portA]; exact Memory.wf_set _ _ wfA
      · rw [portB]; exact Memory.wf_set _ _ wfB
      · rw [portA, portB]
        exact (cellGet_set_wf _ _ _ wfB).trans ((congrArg _ (bytes j low high)).trans (cellGet_set_wf _ _ _ wfA).symm)
      · rw [portA, portB]; exact up
      · rw [portA, portB]; exact barred
    · have portA : (a.setHost x.1 fun q => { q with mem := cellSet q.mem x.2.1 x.2.2 }).host p = a.host p := by
        rw [Hw.host_setHost, if_neg here]
      have portB : (b.setHost x.1 fun q => { q with mem := cellSet q.mem x.2.1 x.2.2 }).host p = b.host p := by
        rw [Hw.host_setHost, if_neg fun there => here ⟨there.1, length ▸ there.2⟩]
      exact ⟨portA ▸ wfA, portB ▸ wfB, by simpa using length, by rwa [portA, portB], by rwa [portA, portB], by rwa [portA, portB]⟩

theorem Hw.SamePort.hostRead (same : a.SamePort b p k n) : b.hostRead p k n = a.hostRead p k n := cellRead_congr k n same.bytes

theorem Hw.SamePort.hostOpen (same : a.SamePort b p k n) {m l : Nat} (on : a.HostOpen p m l) : b.HostOpen p m l := by
  unfold Hw.HostOpen
  rwa [same.up, same.barred]

end

/-! ## Reads of a doorbell record (R43, R44) -/

section
variable {h : Hw} {r p k : Nat} {e : Env}

theorem Hw.readEnv_open {n : Nat} (on : h.HostOpen p k n) : h.readEnv p k n e = e := by
  unfold Hw.readEnv
  rw [on.2]
  rfl

theorem Hw.hostPoisonRead_clean (clean : e.hostPoison = false) : h.hostPoisonRead p k e = h := by
  unfold Hw.hostPoisonRead
  rw [clean]
  rfl

/-- SEQ and INDEX of a doorbell record. -/
def doorbellOf (bs : List Byte) : W32 × W32 := (BitVec.ofNat 32 (fld bs 0 4), BitVec.ofNat 32 (fld bs 4 4))

theorem Hw.readDoorbell_whole (comes : e.hostFail = false) (clean : e.hostPoison = false)
    (whole : fld (h.hostRead p k 32) 0 4 = fld (h.hostRead p k 32) 0x1C 4) :
    h.readDoorbell p k e = some (doorbellOf (h.hostRead p k 32)) := by
  unfold Hw.readDoorbell
  simp only [comes, clean, Bool.or_self, Bool.false_eq_true, if_false, if_pos whole, doorbellOf]

/-- The half that a new polling interval shows changes nothing but the ring's notes of what was shown. -/
theorem Hw.pollTells_like : (h.setRing r fun w => { w with told := w.due, due := false }).Like (h.pollTells r) := by
  have same : h.setRing r (fun w => { w with told := (h.ring r).due, due := false }) = h.setRing r fun w => { w with told := w.due, due := false } :=
    Hw.setRing_congr rfl
  unfold Hw.pollTells
  extract_lets due h1
  have like : (h.setRing r fun w => { w with told := w.due, due := false }).Like h1 := by
    rw [← same]
    exact .refl _
  exact .ite like.devRing like

/-- A half that is written stands behind the record that is read. -/
theorem Hw.SamePort.devRing {a : Hw} (same : a.SamePort h p (h.ring r).dbAddr.toNat 32) : a.SamePort (h.devRing r) p (h.ring r).dbAddr.toNat 32 :=
  same.hostWrite (Nat.le_refl _)

theorem Hw.dbAddr_setRing {f : WorkRing → WorkRing} (keeps : ∀ w, (f w).dbAddr = w.dbAddr) (n : Nat) :
    ((h.setRing n f).ring r).dbAddr = (h.ring r).dbAddr := by
  rw [Hw.ring_setRing]
  split
  · exact keeps _
  · rfl

theorem Hw.SamePort.pollTells {a : Hw} (same : a.SamePort h p (h.ring r).dbAddr.toNat 32) :
    a.SamePort (h.pollTells r) p (h.ring r).dbAddr.toNat 32 := by
  unfold Hw.pollTells
  extract_lets due h1
  have same1 : a.SamePort h1 p (h.ring r).dbAddr.toNat 32 := same.congr rfl
  have addr : (h1.ring r).dbAddr = (h.ring r).dbAddr := Hw.dbAddr_setRing (f := fun w => { w with told := due, due := false }) (fun _ => rfl) r
  split
  · rw [← addr] at same1 ⊢
    exact same1.devRing
  · exact same1

/-- A poll takes the record that the port reads, as it stands in a machine `a` that the bytes of the record were seen in. -/
theorem Hw.pollWork_takes {a : Hw} (same : a.SamePort h (h.ringPort (h.ring r)) (h.ring r).dbAddr.toNat 32)
    (on : h.HostOpen (h.ringPort (h.ring r)) (h.ring r).dbAddr.toNat 32) (comes : e.hostFail = false) (clean : e.hostPoison = false) :
    let bs := (a.applyEnv e).hostRead (h.ringPort (h.ring r)) (h.ring r).dbAddr.toNat 32
    fld bs 0 4 = fld bs 0x1C 4 → h.pollWork r e = ((h.pollTells r).applyEnv e).takeTail r (doorbellOf bs) := by
  intro bs whole
  have read : ((h.pollTells r).applyEnv e).hostRead (h.ringPort (h.ring r)) (h.ring r).dbAddr.toNat 32 = bs := (same.pollTells.applyEnv e).hostRead
  have port : ((h.pollTells r).applyEnv e).ringPort (h.ring r) = h.ringPort (h.ring r) := Hw.pollTells_like.applyEnv.ringPort _
  unfold Hw.pollWork
  simp only [Hw.readEnv_open on, Hw.hostPoisonRead_clean clean, port]
  rw [Hw.readDoorbell_whole comes clean (by rwa [read]), read]

/-- The same of the read of a DRAIN, which shows nothing first. -/
theorem Hw.drainRead_takes (on : h.HostOpen (h.ringPort (h.ring r)) (h.ring r).dbAddr.toNat 32) (comes : e.hostFail = false)
    (clean : e.hostPoison = false) :
    let bs := (h.applyEnv e).hostRead (h.ringPort (h.ring r)) (h.ring r).dbAddr.toNat 32
    fld bs 0 4 = fld bs 0x1C 4 → h.drainRead r e =
      (let g := (h.applyEnv e).takeTail r (doorbellOf bs)
       if (g.ring r).state == .running then
         ((g.setRing r fun w => { w with drainWait := false, limit := some w.tailSeen }).setRingState r .draining).stopIfDrained r
       else g) := by
  intro bs whole
  have port : (h.applyEnv e).ringPort (h.ring r) = h.ringPort (h.ring r) := (Hw.Like.refl h).applyEnv.ringPort _
  unfold Hw.drainRead
  simp only [Hw.readEnv_open on, Hw.hostPoisonRead_clean clean, port]
  rw [Hw.readDoorbell_whole comes clean whole]

/-! ## Taking a record (R44) -/

variable {db : W32 × W32}

theorem Hw.takeTail_known (known : (h.ring r).seqSeen = some db.1) : h.takeTail r db = h.setRing r fun w => { w with misses := w.misses + 1 } :=
  if_pos known

theorem Hw.takeTail_valid (fresh : (h.ring r).seqSeen ≠ some db.1) (valid : (db.2 - (h.ring r).head).toNat ≤ 2 ^ (h.ring r).log2) :
    (h.setRing r fun w => { w with seqSeen := some db.1, tailSeen := db.2, misses := 0 }).Like (h.takeTail r db) := by
  unfold Hw.takeTail
  rw [if_neg fresh, if_pos (show _ ≤ WorkRing.size _ from valid)]
  exact (Hw.Like.refl _).devRing

theorem Hw.takeTail_invalid (fresh : (h.ring r).seqSeen ≠ some db.1) (invalid : 2 ^ (h.ring r).log2 < (db.2 - (h.ring r).head).toNat) :
    (h.setRing r fun w => { w with drainWait := false, state := .halted }).Like (h.takeTail r db) := by
  unfold Hw.takeTail
  rw [if_neg fresh, if_neg (show ¬ _ ≤ WorkRing.size _ from Nat.not_le.2 invalid)]
  have halts := Hw.setRingState_like (h := h.setRing r fun w => { w with drainWait := false }) (r := r) .halted
  rw [Hw.setRing_setRing] at halts
  exact halts.evRing

/-- Whatever a record holds, taking it changes its ring alone. -/
theorem Hw.takeTail_like (h : Hw) (r : Nat) (db : W32 × W32) : ∃ f, (h.setRing r f).Like (h.takeTail r db) := by
  by_cases known : (h.ring r).seqSeen = some db.1
  · rw [Hw.takeTail_known known]; exact ⟨_, .refl _⟩
  · obtain valid | invalid := le_or_gt (db.2 - (h.ring r).head).toNat (2 ^ (h.ring r).log2)
    · exact ⟨_, Hw.takeTail_valid known valid⟩
    · exact ⟨_, Hw.takeTail_invalid known invalid⟩

theorem Hw.pollWork_like (h : Hw) (r : Nat) (e : Env) : ∃ f, (h.setRing r f).Like (h.pollWork r e) := by
  unfold Hw.pollWork
  extract_lets w e1 g
  have like : (h.setRing r fun w => { w with told := w.due, due := false }).Like g := Hw.pollTells_like.applyEnv.hostPoisonRead
  split
  · exact ⟨_, Hw.setRing_setRing h r _ _ ▸ like.setRing r _⟩
  next db _ =>
    obtain ⟨f, taken⟩ := g.takeTail_like r db
    exact ⟨_, Hw.setRing_setRing h r _ f ▸ (like.setRing r f).trans taken⟩

section
variable (takes : h.pollWork r e = ((h.pollTells r).applyEnv e).takeTail r db) (there : r < h.rings.length)
  (fresh : (h.ring r).seqSeen ≠ some db.1)
include takes there fresh

theorem Hw.pollWork_valid (valid : (db.2 - (h.ring r).head).toNat ≤ 2 ^ (h.ring r).log2) :
    (h.setRing r fun w => { w with told := w.due, due := false, seqSeen := some db.1, tailSeen := db.2, misses := 0 }).Like (h.pollWork r e) := by
  have like := (Hw.pollTells_like (h := h) (r := r)).applyEnv (e := e)
  have ring := (like.ring r).trans (Hw.ring_setRing_same _ _ _ there)
  have taken := (like.setRing r _).trans (Hw.takeTail_valid (by rwa [ring]) (by rwa [ring]))
  rw [Hw.setRing_setRing, ← takes] at taken
  exact taken

theorem Hw.pollWork_invalid (invalid : 2 ^ (h.ring r).log2 < (db.2 - (h.ring r).head).toNat) :
    (h.setRing r fun w => { w with told := w.due, due := false, drainWait := false, state := .halted }).Like (h.pollWork r e) := by
  have like := (Hw.pollTells_like (h := h) (r := r)).applyEnv (e := e)
  have ring := (like.ring r).trans (Hw.ring_setRing_same _ _ _ there)
  have taken := (like.setRing r _).trans (Hw.takeTail_invalid (db := db) (by rwa [ring]) (by rwa [ring]))
  rw [Hw.setRing_setRing, ← takes] at taken
  exact taken

end

end

end Sys2Proof.Machine
end

section
/-! PROOFS. Doorbells and the commands of CTL.CMD: polls, START, STOP, DRAIN, RESUME, and the enables of record rings (02 R43-R46, R68-R71). -/

namespace Sys2Proof.Machine

/-! ## Polls (R44, R46) -/

section
variable {h t : Hw} {r : Nat} {f : WorkRing → WorkRing}

/-- What a machine like one with a ring updated holds of that ring, of the others, of memory and of the objects. -/
theorem Hw.Like.setRing_ring (like : (h.setRing r f).Like t) (there : r < h.rings.length) : t.ring r = f (h.ring r) :=
  (like.ring r).trans (Hw.ring_setRing_same _ _ _ there)
theorem Hw.Like.setRing_other (like : (h.setRing r f).Like t) (k : Nat) (ne : k ≠ r) : t.ring k = h.ring k :=
  (like.ring k).trans (Hw.ring_setRing_other _ _ _ _ ne)

end

theorem exec_workDoorbellPoll (ring : Nat) (env : Env) (s : State) : exec (.workDoorbellPoll ring env) s = execWorkDoorbellPoll ring env s := rfl
theorem exec_cplDoorbellPoll (evt : Bool) (ring : Nat) (env : Env) (s : State) :
    exec (.cplDoorbellPoll evt ring env) s = execCplDoorbellPoll evt ring env s := rfl

theorem workDoorbellPollTakesTail : Claims.WorkDoorbellPollTakesTail := by
  intro ring env s w p rec32 tail powered runs polls on wf comes clean whole fresh
  have there : ring < s.hw.rings.length := Hw.ring_there_of_state (by simp [show (s.hw.ring ring).state = _ from runs])
  have takes := Hw.pollWork_takes (.refl wf) on comes clean whole
  have polled : exec (.workDoorbellPoll ring env) s = .next { s with hw := s.hw.pollWork ring env } := by
    have goes : ((w.state == .running && !w.drainWait) && (s.hw.host p).up) = true := by simp [runs, polls, on.1]
    rw [exec_workDoorbellPoll, execWorkDoorbellPoll, act_on powered]
    exact congrArg (fun h => Host.Outcome.next { s with hw := h }) (if_pos goes)
  obtain valid | invalid := le_or_gt (tail - w.head).toNat (2 ^ w.log2)
  · have taken := Hw.pollWork_valid takes there fresh valid
    exact ⟨_, polled, rfl, taken.mem, taken.setRing_other, fun _ => taken.setRing_ring there, fun bad => absurd bad (Nat.not_lt.2 valid)⟩
  · have taken := Hw.pollWork_invalid takes there fresh invalid
    have ring := taken.setRing_ring there
    refine ⟨_, polled, rfl, taken.mem, taken.setRing_other, fun good => absurd good (Nat.not_le.2 invalid), fun _ => ?_⟩
    exact ⟨(congrArg WorkRing.state ring :), (congrArg WorkRing.tailSeen ring :), (congrArg WorkRing.seqSeen ring :)⟩

/-! The same of a completion ring. -/

section
variable {h t : Hw} {n : Nat} {f : OutRing → OutRing} {db : W32 × W32}

theorem Hw.cpl_there (differs : h.outRing false n ≠ {}) : n < h.cpls.length := by
  by_contra out
  exact differs (List.getD_eq_default _ _ (Nat.le_of_not_lt out))

theorem Hw.cpl_there_of_en (en : (h.outRing false n).en = true) : n < h.cpls.length :=
  Hw.cpl_there fun absent => by rw [absent] at en; cases en

theorem Hw.Like.setCpl_cpl (like : (h.setOutRing false n f).Like t) (there : n < h.cpls.length) : t.outRing false n = f (h.outRing false n) := by
  rw [like.cpl, Hw.outRing_setOutRing, if_pos ⟨rfl, rfl, by simpa using there⟩]
theorem Hw.Like.setCpl_other (like : (h.setOutRing false n f).Like t) (k : Nat) (ne : k ≠ n) : t.outRing false k = h.outRing false k := by
  rw [like.cpl, Hw.outRing_setOutRing, if_neg fun at_ => ne at_.2.1]

/-- Whether a new HEAD lies between the one known and WRITE_TAIL, of a ring that holds no more than its size (R44). -/
def OutRing.ValidHead (o : OutRing) (head : W32) : Prop := (o.writeTail - head).toNat ≤ o.size ∧ (head - o.headSeen).toNat ≤ o.size

variable (fresh : (h.outRing false n).seqSeen ≠ some db.1) (other : (h.outRing false n).badSeq ≠ some db.1)
include fresh other

theorem Hw.takeHead_valid (valid : (h.outRing false n).ValidHead db.2) :
    (h.setOutRing false n fun o => { o with seqSeen := some db.1, badSeq := none, headSeen := db.2, misses := 0 }).Like (h.takeHead false n db) := by
  unfold Hw.takeHead
  rw [if_neg (not_or.2 ⟨fresh, other⟩), if_pos (show _ ∧ _ from valid)]
  exact (Hw.Like.refl _).devOut

theorem Hw.takeHead_invalid (invalid : ¬ (h.outRing false n).ValidHead db.2) :
    (h.setOutRing false n fun o => { o with headErr := true, badSeq := some db.1, misses := o.misses + 1 }).Like (h.takeHead false n db) := by
  unfold Hw.takeHead
  rw [if_neg (not_or.2 ⟨fresh, other⟩), if_neg (show ¬ (_ ∧ _) from invalid)]
  exact (Hw.Like.refl _).evCtx

end

theorem cplDoorbellPollTakesHead : Claims.CplDoorbellPollTakesHead := by
  intro n env s o p rec32 head seq valid powered en few on comes clean whole fresh other
  have there : n < s.hw.cpls.length := Hw.cpl_there_of_en en
  let db := doorbellOf rec32
  let g := s.hw.applyEnv env
  have polled : exec (.cplDoorbellPoll false n env) s = .next { s with hw := g.takeHead false n db } := by
    rw [exec_cplDoorbellPoll, execCplDoorbellPoll, act_on powered]
    have goes : ((o.en && decide (4 * (o.size - o.used) ≤ o.size)) && (s.hw.host p).up) = true := by simp [en, few, on.1]
    simp only [show s.hw.outRing false n = o from rfl, show s.hw.outPort false n = p from rfl, goes, if_true]
    rw [Hw.readEnv_open on, Hw.hostPoisonRead_clean clean, Hw.readDoorbell_whole comes clean whole]
  have like : s.hw.Like g := (Hw.Like.refl _).applyEnv
  have gRing : g.outRing false n = o := like.cpl n
  by_cases ok : valid
  · have taken := (like.setCpl n _).trans (Hw.takeHead_valid (h := g) (n := n) (db := db) (by rwa [gRing]) (by rwa [gRing]) (by rwa [gRing]))
    exact ⟨_, polled, rfl, taken.rings, taken.mem, taken.setCpl_other, fun _ => taken.setCpl_cpl there, fun bad => absurd ok bad⟩
  · have taken := (like.setCpl n _).trans (Hw.takeHead_invalid (h := g) (n := n) (db := db) (by rwa [gRing]) (by rwa [gRing]) (by rwa [gRing]))
    exact ⟨_, polled, rfl, taken.rings, taken.mem, taken.setCpl_other, fun good => absurd good ok, fun _ => taken.setCpl_cpl there⟩

end Sys2Proof.Machine

namespace Sys2Proof

/-- Settles O6, by the cases of taking a record: valid or not. -/
theorem doorbellPollsTakeIndexes : Obligations.DoorbellPollsTakeIndexes := ⟨Machine.workDoorbellPollTakesTail, Machine.cplDoorbellPollTakesHead⟩

end Sys2Proof

namespace Sys2Proof.Machine

/-! ## Draining and stopping (R69) -/

section
variable {h : Hw} {r : Nat}

/-- A ring that is not draining, or that has commands or records left, does not stop. -/
theorem Hw.stopIfDrained_stays (works : (h.ring r).state ≠ .draining ∨ (h.ring r).running ≠ [] ∨ (h.ring r).records ≠ []) :
    h.stopIfDrained r = h := by
  unfold Hw.stopIfDrained
  extract_lets w reached
  refine if_neg ?_
  obtain state | running | records := works
  · simp [show w.state ≠ .draining from state]
  · simp [show w.running ≠ [] from running]
  · simp [show w.records ≠ [] from records]

/-- A draining ring whose commands have all started stops once none is left, nor a record; its context goes on unless it closes. -/
theorem Hw.stopIfDrained_stops (drains : (h.ring r).state = .draining) (heard : (h.ring r).drainWait = false) (idle : (h.ring r).running = [])
    (told : (h.ring r).records = []) (all : (h.ring r).limit = none)
    (stays : (h.ring r).module = true ∨ (h.ctx (h.ring r).ctx).state ≠ .quiescing) :
    (h.setRing r fun w => { w with state := .stopped }).Like (h.stopIfDrained r) := by
  have like : (h.setRing r fun w => { w with state := .stopped }).Like ((h.setRingState r .stopped).evRing r 0x0002 r 0) :=
    (Hw.setRingState_like .stopped).evRing
  unfold Hw.stopIfDrained
  extract_lets w reached g
  have stops : (w.state == .draining && !w.drainWait && w.running.isEmpty && w.records.isEmpty && reached) = true := by
    simp [w, reached, drains, heard, idle, told, all]
  rw [if_pos stops]
  split
  · exact like
  next context =>
    have state : (g.ctx w.ctx).state = (h.ctx w.ctx).state := (like.ctx w.ctx).2.1
    have goes : (h.ctx w.ctx).state ≠ .quiescing := stays.resolve_left context
    unfold Hw.closeIfStopped
    rw [if_neg (by simp [state, goes])]
    exact like

end

theorem exec_ringDrain (port ring : Nat) (env : Env) (s : State) : exec (.ringDrain port ring env) s = execRingDrain port ring env s := rfl
theorem exec_drainPoll (ring : Nat) (env : Env) (s : State) : exec (.drainPoll ring env) s = execDrainPoll ring env s := rfl

section
variable {h : Hw} {r : Nat} {e : Env}

/-- The read of a DRAIN of a ring with commands in flight: the limit that it takes, or the halt. -/
theorem Hw.drainRead_drains (runs : (h.ring r).state = .running) (busy : (h.ring r).running ≠ [])
    (on : h.HostOpen (h.ringPort (h.ring r)) (h.ring r).dbAddr.toNat 32) (comes : e.hostFail = false) (clean : e.hostPoison = false) :
    let w := h.ring r
    let bs := (h.applyEnv e).hostRead (h.ringPort w) w.dbAddr.toNat 32
    let seq : W32 := BitVec.ofNat 32 (fld bs 0 4)
    let tail : W32 := BitVec.ofNat 32 (fld bs 4 4)
    fld bs 0 4 = fld bs 0x1C 4 → ∃ f, (h.setRing r f).Like (h.drainRead r e) ∧
      (w.seqSeen ≠ some seq → (tail - w.head).toNat ≤ 2 ^ w.log2 →
        f w = { w with seqSeen := some seq, tailSeen := tail, misses := 0, drainWait := false, limit := some tail, state := .draining }) ∧
      (w.seqSeen = some seq → f w = { w with misses := w.misses + 1, drainWait := false, limit := some w.tailSeen, state := .draining }) ∧
      (w.seqSeen ≠ some seq → 2 ^ w.log2 < (tail - w.head).toNat → f w = { w with drainWait := false, state := .halted }) := by
  intro w bs seq tail whole
  have there : r < h.rings.length := Hw.ring_there_of_state (by simp [runs])
  have like : h.Like (h.applyEnv e) := (Hw.Like.refl _).applyEnv
  have ring : (h.applyEnv e).ring r = w := like.ring r
  rw [Hw.drainRead_takes on comes clean whole]
  -- the ring as the record leaves it, and what becomes of a ring that goes on
  have drains {f : WorkRing → WorkRing} {g : Hw} (taken : (h.setRing r f).Like g) (state : (f w).state = .running)
      (left : (f w).running = w.running) :
      (h.setRing r fun w => { f w with drainWait := false, limit := some (f w).tailSeen, state := .draining }).Like
        (if (g.ring r).state == .running then
          ((g.setRing r fun w => { w with drainWait := false, limit := some w.tailSeen }).setRingState r .draining).stopIfDrained r
        else g) := by
    have gRing : g.ring r = f w := taken.setRing_ring there
    have set := (taken.setRing r fun w => { w with drainWait := false, limit := some w.tailSeen, state := .draining }).trans
      (Hw.setRing_setRing g r _ _ ▸ Hw.setRingState_like (h := g.setRing r fun w => { w with drainWait := false, limit := some w.tailSeen }) .draining)
    rw [Hw.setRing_setRing] at set
    rw [if_pos (by simp [gRing, state]), Hw.stopIfDrained_stays]
    · exact set
    · refine .inr (.inl ?_)
      rw [set.setRing_ring there]
      exact left ▸ busy
  by_cases fresh : w.seqSeen = some seq
  · have taken := like.setRing r fun w => { w with misses := w.misses + 1 }
    rw [← Hw.takeTail_known (h := h.applyEnv e) (db := doorbellOf bs) (by rwa [ring])] at taken
    exact ⟨_, drains taken runs rfl, fun new => absurd fresh new, fun _ => rfl, fun new => absurd fresh new⟩
  · obtain valid | invalid := le_or_gt (tail - w.head).toNat (2 ^ w.log2)
    · have taken := (like.setRing r _).trans (Hw.takeTail_valid (h := h.applyEnv e) (db := doorbellOf bs) (by rwa [ring]) (by rwa [ring]))
      exact ⟨_, drains taken runs rfl, fun _ _ => rfl, fun known => absurd known fresh, fun _ bad => absurd bad (Nat.not_lt.2 valid)⟩
    · have taken := (like.setRing r _).trans (Hw.takeTail_invalid (h := h.applyEnv e) (db := doorbellOf bs) (by rwa [ring]) (by rwa [ring]))
      refine ⟨fun w => { w with drainWait := false, state := .halted }, ?_, fun _ good => absurd good (Nat.not_le.2 invalid), fun known => absurd known fresh,
        fun _ _ => rfl⟩
      have halts : (((h.applyEnv e).takeTail r (doorbellOf bs)).ring r).state = .halted := congrArg WorkRing.state (taken.setRing_ring there)
      rw [if_neg]
      · exact taken
      · exact fun goes => nomatch (beq_iff_eq.1 goes).symm.trans halts

end

end Sys2Proof.Machine

namespace Sys2Proof
open Machine

/-- Settles O12, by what the read of a DRAIN takes. -/
theorem drainTakesItsLimit : Obligations.DrainTakesItsLimit := by
  intro port ring env s w p rec32 seq tail fresh reads drains powered lit reached
  have asked : exec (.ringDrain port ring env) s = .next { s with hw := (if w.state != .running then s.hw.ringCmdErr ring
      else if (s.hw.host p).up then s.hw.drainRead ring env else s.hw.setRing ring fun w => { w with drainWait := true }) } := by
    rw [exec_ringDrain, execRingDrain, actFrom_on powered lit reached]
  have drained (runs : w.state = .running) (busy : w.running ≠ []) (open_ : reads) : drains { s with hw := s.hw.drainRead ring env } := by
    obtain ⟨on, comes, clean, whole⟩ := open_
    have there : ring < s.hw.rings.length := Hw.ring_there_of_state (by simp [show (s.hw.ring ring).state = _ from runs])
    obtain ⟨f, like, valid, known, invalid⟩ := Hw.drainRead_drains runs busy on comes clean whole
    have ringAfter := like.setRing_ring there
    refine ⟨rfl, like.mem, like.setRing_other, fun new ok => ringAfter.trans (valid new ok), fun old => ringAfter.trans (known (not_not.1 old)), fun new bad => ?_⟩
    have halted := ringAfter.trans (invalid new bad)
    exact ⟨(congrArg WorkRing.state halted :), (congrArg WorkRing.tailSeen halted :)⟩
  refine ⟨fun idle => ?_, fun runs busy open_ => ?_, fun runs busy waits open_ => ?_, fun runs down => ?_⟩
  · rw [asked, if_pos (by simpa using idle)]
    rfl
  · rw [asked, if_neg (by simp [runs]), if_pos open_.1.1]
    exact ⟨_, rfl, drained runs busy open_⟩
  · refine ⟨_, ?_, drained runs busy open_⟩
    have goes : ((w.state == .running && w.drainWait) && (s.hw.host p).up) = true := by simp [runs, waits, open_.1.1]
    rw [exec_drainPoll, execDrainPoll, act_on powered]
    exact congrArg (fun h => Host.Outcome.next { s with hw := h }) (if_pos goes)
  · rw [asked, if_neg (by simp [runs]), if_neg (by simp [down])]

end Sys2Proof
end

section
/-! PROOFS. START, STOP and RESUME of a work ring, and the enables of record rings (02 R68-R71). -/

namespace Sys2Proof.Machine

/-! ## START (R69, R71) -/

/-- A ring that an accepted START makes RUNNING, before its doorbell record is read. -/
def WorkRing.begun (port : Nat) (w : WorkRing) : WorkRing :=
  { w with startCause := 0, tailSeen := w.head, seqSeen := none, misses := 0, port := port, limit := none, drainWait := false, fetched := []
           state := .running }

/-- The ring of an accepted START is RUNNING, and its state is shown. -/
def Hw.startRing (h : Hw) (port r : Nat) : Hw :=
  (h.setRing r fun w => { w with startCause := 0, tailSeen := w.head, seqSeen := none, misses := 0, port := port, limit := none
                                 drainWait := false, fetched := [] }).setRingState r .running

/-- A START has been accepted, and the doorbell record is still to be read. -/
def Hw.begin (h : Hw) (port r : Nat) : Hw :=
  let w := h.ring r
  let g := h.startRing port r
  if !w.module && (g.ctx w.ctx).state == .opened then g.setCtx w.ctx fun c => { c with state := .active } else g

theorem exec_ringStart (port ring : Nat) (env : Env) (s : State) : exec (.ringStart port ring env) s = actFrom port (ringOff ring) (fun h =>
    if (h.ring ring).state != .stopped then h.ringCmdErr ring
    else if h.startCause port ring ≠ 0 then h.setRing ring fun w => { w with startErr := true, startCause := h.startCause port ring }
    else
      let g := h.begin port ring
      if (g.host (g.ringPort (g.ring ring))).up then g.pollWork ring env else g.applyEnv env) s := rfl

section
variable {h : Hw} {port r : Nat} (accepted : h.startCause port r = 0)
include accepted

/-- An accepted START names a size of R71 and, of a context ring, a context that is OPEN or ACTIVE. -/
theorem Hw.startCause_accepts : 6 ≤ (h.ring r).log2 ∧
    ((h.ring r).module = false → (h.ctx (h.ring r).ctx).state = .opened ∨ (h.ctx (h.ring r).ctx).state = .active) := by
  unfold Hw.startCause at accepted
  extract_lets w c o mates at accepted
  split at accepted
  · cases accepted
  next size =>
    refine ⟨show 6 ≤ w.log2 by omega, fun context => ?_⟩
    split at accepted
    · cases accepted
    · rw [if_neg (by simpa using context)] at accepted
      split at accepted
      · cases accepted
      next works => exact (by simpa [or_iff_not_imp_left] using works : c.state = .opened ∨ c.state = .active)

theorem Hw.startCause_there : r < h.rings.length :=
  Hw.ring_there fun absent => absurd (Hw.startCause_accepts accepted).1 (by rw [absent]; decide)

end

section
variable (h : Hw) (port r : Nat)

theorem Hw.startRing_like : (h.setRing r (WorkRing.begun port)).Like (h.startRing port r) := by
  have like := Hw.setRingState_like (h := h.setRing r fun w => { w with
    startCause := 0, tailSeen := w.head, seqSeen := none, misses := 0, port := port, limit := none, drainWait := false, fetched := [] }) (r := r) .running
  rw [Hw.setRing_setRing] at like
  exact like

/-- START makes a context of the ring that is OPEN ACTIVE. -/
theorem Hw.begin_cases :
    h.begin port r = h.startRing port r ∧ ¬ ((h.ring r).module = false ∧ (h.ctx (h.ring r).ctx).state = .opened) ∨
    h.begin port r = (h.startRing port r).setCtx (h.ring r).ctx (fun c => { c with state := .active }) ∧ (h.ctx (h.ring r).ctx).state = .opened := by
  have same : ((h.startRing port r).ctx (h.ring r).ctx).state = (h.ctx (h.ring r).ctx).state := ((h.startRing_like port r).ctx _).2.1
  unfold Hw.begin
  simp only [same]
  split
  next opens => exact .inr ⟨rfl, by simpa using (Bool.and_eq_true_iff.1 opens).2⟩
  next others => exact .inl ⟨rfl, fun ⟨context, opened⟩ => others (by simp [context, opened])⟩

theorem Hw.begin_still : (h.begin port r).rings = (h.setRing r (WorkRing.begun port)).rings ∧ (h.begin port r).mem = h.mem ∧
    (h.begin port r).objs = h.objs := by
  have like := h.startRing_like port r
  obtain ⟨eq, _⟩ | ⟨eq, _⟩ := h.begin_cases port r <;> rw [eq] <;> exact ⟨like.rings, like.mem, like.objs⟩

theorem Hw.begin_owner (n : Nat) : ((h.begin port r).ctx n).owner = (h.ctx n).owner := by
  have like := h.startRing_like port r
  obtain ⟨eq, _⟩ | ⟨eq, _⟩ := h.begin_cases port r <;> rw [eq]
  · exact (like.ctx n).2.2.2
  · rw [Hw.ctx_setCtx]
    split <;> exact (like.ctx n).2.2.2

theorem Hw.begin_up (p : Nat) : ((h.begin port r).host p).up = (h.host p).up := by
  have like := h.startRing_like port r
  obtain ⟨eq, _⟩ | ⟨eq, _⟩ := h.begin_cases port r <;> rw [eq] <;> exact like.up p

/-- The doorbell record is the host's: only the T64's half behind it was written. -/
theorem Hw.begin_samePort {p : Nat} (wf : Memory.wf (h.host p).mem = true) : h.SamePort (h.begin port r) p (h.ring r).dbAddr.toNat 32 := by
  have addr {g : Hw} {f : WorkRing → WorkRing} (keeps : ∀ w, (f w).dbAddr = w.dbAddr) (eq : (g.ring r).dbAddr = (h.ring r).dbAddr) :
      ((g.setRing r f).ring r).dbAddr = (h.ring r).dbAddr := (Hw.dbAddr_setRing keeps r).trans eq
  let g := (h.setRing r fun w => { w with startCause := 0, tailSeen := w.head, seqSeen := none, misses := 0, port := port, limit := none
                                          drainWait := false, fetched := [] }).setRing r fun w => { w with state := .running }
  have here : (g.ring r).dbAddr = (h.ring r).dbAddr := by
    refine addr (f := fun w => { w with state := .running }) (fun _ => rfl) (addr ?_ rfl)
    exact fun _ => rfl
  have same : h.SamePort g p (g.ring r).dbAddr.toNat 32 := (Hw.SamePort.refl wf).congr rfl
  have started : h.SamePort (h.startRing port r) p (h.ring r).dbAddr.toNat 32 := here ▸ same.devRing
  obtain ⟨eq, _⟩ | ⟨eq, _⟩ := h.begin_cases port r
  · exact eq ▸ started
  · exact eq ▸ started.congr rfl

variable {h port r}

theorem Hw.begin_active (accepted : h.startCause port r = 0) (context : (h.ring r).module = false) :
    ((h.begin port r).ctx (h.ring r).ctx).state = .active := by
  have works := (Hw.startCause_accepts accepted).2 context
  have like := h.startRing_like port r
  obtain ⟨eq, open_⟩ | ⟨eq, opened⟩ := h.begin_cases port r <;> rw [eq]
  · exact (like.ctx _).2.1.trans (works.resolve_left fun opened => open_ ⟨context, opened⟩)
  · rw [Hw.ctx_setCtx_same]
    by_contra out
    have absent : (h.startRing port r).ctx (h.ring r).ctx = {} := List.getD_eq_default _ _ (Nat.le_of_not_lt out)
    have state : ((h.startRing port r).ctx (h.ring r).ctx).state = .opened := (like.ctx _).2.1.trans opened
    rw [absent] at state
    cases state

end

theorem exec_ringStart_accepted {port ring : Nat} {env : Env} {s : State} (powered : s.hw.ks2.powered = true)
    (lit : s.hw.dark (ringOff ring) = false) (reached : s.hw.reaches port = true) (stopped : (s.hw.ring ring).state = .stopped)
    (accepted : s.hw.startCause port ring = 0) :
    let g := s.hw.begin port ring
    exec (.ringStart port ring env) s =
      .next { s with hw := (if (g.host (g.ringPort (g.ring ring))).up then g.pollWork ring env else g.applyEnv env) } := by
  rw [exec_ringStart, actFrom_on powered lit reached]
  simp only
  rw [if_neg (show ¬ ((s.hw.ring ring).state != .stopped) = true by simpa using stopped), if_neg (not_not.2 accepted)]

end Sys2Proof.Machine

namespace Sys2Proof
open Machine

/-- Settles O11, by what an accepted START makes of the machine before it reads the doorbell record. -/
theorem ringStartRunsOrSaysWhy : Obligations.RingStartRunsOrSaysWhy := by
  intro port ring env s w p rec32 seq tail begun powered lit
  refine ⟨fun away => ?_, fun reached => ⟨fun works => ?_, fun stopped refused => ?_, fun stopped accepted => ?_⟩⟩
  · rw [exec_ringStart, actFrom_off away]
  · rw [exec_ringStart, actFrom_on powered lit reached]
    simp only
    rw [if_pos (by simpa using works)]
    rfl
  · rw [exec_ringStart, actFrom_on powered lit reached]
    simp only
    rw [if_neg (by simpa using stopped), if_pos refused]
  · let g := s.hw.begin port ring
    have there := Hw.startCause_there accepted
    obtain ⟨rings, mem, objs⟩ := s.hw.begin_still port ring
    have gThere : ring < g.rings.length := by rw [rings]; simpa using there
    have gRing : g.ring ring = begun := (congrArg (·.getD ring {}) rings).trans (Hw.ring_setRing_same _ _ _ there)
    have gOther (k : Nat) (ne : k ≠ ring) : g.ring k = s.hw.ring k := (congrArg (·.getD k {}) rings).trans (Hw.ring_setRing_other _ _ _ _ ne)
    have gPort : g.ringPort (g.ring ring) = p := by
      rw [gRing]
      exact congrArg (fun n => if w.module then port else n) (Hw.begin_owner ..)
    have gActive := Hw.begin_active (port := port) (r := ring) accepted
    have gUp : (g.host (g.ringPort (g.ring ring))).up = (s.hw.host p).up := by
      rw [gPort]
      exact Hw.begin_up ..
    have started : exec (.ringStart port ring env) s =
        .next { s with hw := (if (s.hw.host p).up then g.pollWork ring env else g.applyEnv env) } := by
      rw [exec_ringStart_accepted powered lit reached stopped accepted]
      exact congrArg (fun b => Host.Outcome.next { s with hw := (if b = true then g.pollWork ring env else g.applyEnv env) }) gUp
    refine ⟨_, started, rfl, ?_⟩
    cases up : (s.hw.host p).up with
    | false =>
      have like : g.Like (g.applyEnv env) := (Hw.Like.refl _).applyEnv
      exact ⟨like.mem.trans mem, like.objs.trans objs, fun k ne => (like.ring k).trans (gOther k ne),
        fun context => (like.ctx _).2.1.trans (gActive context), fun _ => (like.ring ring).trans gRing,
        fun _ on => nomatch up.symm.trans on.1⟩
    | true =>
      obtain ⟨f, like⟩ := g.pollWork_like ring env
      refine ⟨like.mem.trans mem, like.objs.trans objs, fun k ne => (like.setRing_other k ne).trans (gOther k ne),
        fun context => (like.ctx _).2.1.trans (gActive context), fun down => (nomatch down), fun wf on comes clean whole valid => ?_⟩
      have gAddr : (g.ring ring).dbAddr = w.dbAddr := by rw [gRing]
      have same : s.hw.SamePort g p w.dbAddr.toNat 32 := s.hw.begin_samePort port ring wf
      have takes := Hw.pollWork_takes (h := g) (r := ring) (a := s.hw) (by rwa [gPort, gAddr]) (by rw [gPort, gAddr]; exact same.hostOpen on)
        comes clean (by rwa [gPort, gAddr])
      rw [gPort, gAddr] at takes
      have taken := Hw.pollWork_valid takes gThere (by rw [gRing]; exact nofun) (by rw [gRing]; exact valid)
      exact (taken.setRing_ring gThere).trans (by rw [gRing]; rfl)

end Sys2Proof

namespace Sys2Proof.Machine

/-! ## STOP and RESUME (R69) -/

theorem exec_ringStop (port ring : Nat) (s : State) : exec (.ringStop port ring) s = actFrom port (ringOff ring) (fun h =>
    if (h.ring ring).state == .running || (h.ring ring).state == .halted then h.drainStarted ring else h.ringCmdErr ring) s := rfl
theorem exec_ringResume (port ring : Nat) (s : State) : exec (.ringResume port ring) s = actFrom port (ringOff ring) (fun h =>
    if (h.ring ring).state == .halted then (h.setRing ring fun w => { w with misses := 0 }).setRingState ring .running
    else h.ringCmdErr ring) s := rfl

/-- A ring that STOP leaves with the commands already started, and with its records. -/
def WorkRing.stopped (w : WorkRing) : WorkRing :=
  { w with fetched := [], limit := none, drainWait := false, state := if w.running = [] ∧ w.records = [] then .stopped else .draining }

theorem Hw.drainStarted_like {h : Hw} {r : Nat} (there : r < h.rings.length)
    (stays : (h.ring r).module = true ∨ (h.ctx (h.ring r).ctx).state ≠ .quiescing) : (h.setRing r WorkRing.stopped).Like (h.drainStarted r) := by
  let draining (w : WorkRing) : WorkRing := { w with fetched := [], limit := none, drainWait := false, state := .draining }
  let g := (h.setRing r fun w => { w with fetched := [], limit := none, drainWait := false }).setRingState r .draining
  have like : (h.setRing r draining).Like g := by
    have like := Hw.setRingState_like (h := h.setRing r fun w => { w with fetched := [], limit := none, drainWait := false }) (r := r) .draining
    rw [Hw.setRing_setRing] at like
    exact like
  have ring : g.ring r = draining (h.ring r) := like.setRing_ring there
  by_cases idle : (h.ring r).running = [] ∧ (h.ring r).records = []
  · have stops : (g.setRing r fun w => { w with state := .stopped }).Like (h.drainStarted r) := by
      refine Hw.stopIfDrained_stops ?_ ?_ ?_ ?_ ?_ ?_ <;> rw [ring]
      · exact idle.1
      · exact idle.2
      · exact stays.imp id fun goes => (like.ctx _).2.1.trans_ne goes
    have stopped := (like.setRing r fun w => { w with state := .stopped }).trans stops
    rw [Hw.setRing_setRing] at stopped
    rwa [Hw.setRing_congr (g := (fun w => { w with state := .stopped }) ∘ draining) (by simp [WorkRing.stopped, draining, idle])]
  · have stays : h.drainStarted r = g := Hw.stopIfDrained_stays (.inr (by
      rw [ring]
      exact not_and_or.1 idle))
    rw [stays, Hw.setRing_congr (g := draining) (by simp [WorkRing.stopped, draining, idle])]
    exact like

theorem ringStopAndResume : Claims.RingStopAndResume := by
  intro port ring s w powered lit reached
  rw [exec_ringStop, exec_ringResume, actFrom_on powered lit reached, actFrom_on powered lit reached]
  refine ⟨fun works stays => ?_, fun idle => ?_, fun halted => ?_, fun others => ?_⟩
  · have there : ring < s.hw.rings.length := Hw.ring_there_of_state (by obtain runs | halted := works <;> simp_all [w])
    have like := Hw.drainStarted_like there stays
    rw [if_pos (by simpa using works)]
    exact ⟨_, rfl, rfl, like.mem, like.objs, like.setRing_other, like.setRing_ring there⟩
  · rw [if_neg (by obtain stopped | drains := idle <;> simp_all [w])]
    rfl
  · have there : ring < s.hw.rings.length := Hw.ring_there_of_state (by simp [show (s.hw.ring ring).state = _ from halted])
    have like := Hw.setRingState_like (h := s.hw.setRing ring fun w => { w with misses := 0 }) (r := ring) .running
    rw [Hw.setRing_setRing] at like
    rw [if_pos (by simpa using halted)]
    exact ⟨_, rfl, rfl, like.mem, like.setRing_ring there, like.setRing_other⟩
  · rw [if_neg (by simpa using others)]
    rfl

/-! ## The enables of record rings (R71) -/

theorem exec_ringEnSet (evt : Bool) (n : Nat) (v : W32) (s : State) : exec (.ringEnSet evt n v) s = actReg (outOff evt n) (fun h =>
    if !v.getLsbD 0 || (h.outRing evt n).en then h else h.enableOut evt n v.toNat) s := rfl
theorem exec_ringEnClear (evt : Bool) (n : Nat) (v : W32) (s : State) : exec (.ringEnClear evt n v) s = actReg (outOff evt n) (fun h =>
    if v.getLsbD 0 then h else h.cfgNoEn evt n v.toNat) s := rfl

theorem ringEnables : Claims.RingEnables := by
  intro evt n v s o len powered lit there
  refine ⟨?_, fun sets kept => ?_, fun clears => ?_⟩
  · rintro rfl sets off legal
    rw [exec_ringEnSet, actReg_on powered lit, if_neg (by simp [sets, show (s.hw.outRing false n).en = false from off]), Hw.enableOut,
      if_neg (by simp [legal])]
    exact ⟨_, rfl, rfl, rfl, rfl, (Hw.outRing_setOutRing ..).trans (if_pos ⟨rfl, rfl, there⟩),
      fun k ne => (Hw.outRing_setOutRing ..).trans (if_neg fun same => ne same.2.1)⟩
  · rw [exec_ringEnSet, actReg_on powered lit]
    obtain on | illegal := kept
    · rw [if_pos (by simp [show (s.hw.outRing evt n).en = true from on])]
    · split
      · rfl
      · rw [Hw.enableOut, if_pos (by simp [illegal])]
  · have set (f : OutRing → OutRing) : (s.hw.setOutRing evt n f).outRing evt n = f o ∧
        ∀ k, k ≠ n → (s.hw.setOutRing evt n f).outRing evt k = s.hw.outRing evt k :=
      ⟨(Hw.outRing_setOutRing ..).trans (if_pos ⟨rfl, rfl, there⟩), fun k ne => (Hw.outRing_setOutRing ..).trans (if_neg fun same => ne same.2.1)⟩
    rw [exec_ringEnClear, actReg_on powered lit, if_neg (Bool.eq_false_iff.1 clears), Hw.cfgNoEn]
    split
    · exact ⟨_, rfl, rfl, Hw.setOutRing_rings .., Hw.setOutRing_mem .., (set _).2, (set _).1⟩
    · exact ⟨_, rfl, rfl, Hw.setOutRing_rings .., Hw.setOutRing_mem .., (set _).2, (set _).1⟩

end Sys2Proof.Machine

namespace Sys2Proof

/-- Settles O13, by the cases of the ring's state, and of EN. -/
theorem ringControlsAct : Obligations.RingControlsAct := ⟨Machine.ringStopAndResume, Machine.ringEnables⟩

end Sys2Proof
end

section
/-! PROOFS. NOP, FENCE and SIGNAL (02 R50, 03 R83-R87), and the limits of running commands (02 R69, 03 R86, 11 R296). -/

namespace Sys2Proof.Machine

/-! ## Commands that have started -/

section
variable {h : Hw} {r op : Nat} {i : W32} {c : Cmd}

theorem Hw.cmd_index (cmd : h.cmd r i = some c) : c.index = i := beq_iff_eq.1 (List.find?_some (p := fun d : Cmd => d.index == i) cmd)

theorem Hw.onCmd_ready (ready : h.Ready r i op c) (f : Cmd → Hw) : h.onCmd r i op f = f c := by
  obtain ⟨_, cmd, phase, opcode⟩ := ready
  simp [Hw.onCmd, cmd, phase, opcode]

theorem Hw.Ready.ended (ready : h.Ready r i op c) (st dt : Nat) : (h.finishCmd r i st dt).Ended r i st dt :=
  Hw.finishCmd_ended h r i st dt c ready.2.1 (by rw [ready.2.2.1]; decide)

/-- A command that is first among those that run: no earlier one of its ring is left. -/
theorem Hw.firstRunning_of_head (cmd : h.cmd r i = some c) (first : (h.ring r).running.head? = some c) : (h.ring r).firstRunning i = true := by
  unfold WorkRing.firstRunning
  split
  next d _ eq =>
    rw [eq] at first
    cases first
    exact beq_iff_eq.2 (Hw.cmd_index cmd)
  · rfl

theorem Hw.block_only (h : Hw) (r : Nat) (i : W32) : h.OnlyCmd (h.block r i) r i := Hw.setCmd_onlyCmd h r i _ fun _ => rfl

theorem Hw.block_cmd (cmd : h.cmd r i = some c) : (h.block r i).cmd r i = some { c with phase := .blocked } := by
  refine (Hw.cmd_setCmd h r r i i (fun c => { c with phase := .blocked }) fun _ => rfl).trans ?_
  rw [if_pos ⟨rfl, rfl⟩, cmd]
  rfl

/-- Of the work rings only one command differs, where nothing else of them did before it. -/
theorem Hw.OnlyCmd.of_rings {a g b : Hw} (only : g.OnlyCmd b r i) (same : g.rings = a.rings) : a.OnlyCmd b r i := by
  have ring (k : Nat) : g.ring k = a.ring k := congrArg (·.getD k {}) same
  obtain ⟨others, own, rest⟩ := only
  exact ⟨fun k ne => (others k ne).trans (ring k), ring r ▸ own, fun j ne => (rest j ne).trans (by simp only [Hw.cmd, ring])⟩

theorem Hw.SameSetup.of_still {a b : Hw} (still : b.still = a.still) : a.SameSetup b where
  now := (congrArg (fun h : Hw => h.now) still :)
  lim := (congrArg (fun h : Hw => h.lim) still :)
  ks := (congrArg (fun h : Hw => h.ks) still :)
  ks2 := (congrArg (fun h : Hw => h.ks2) still :)
  cpls := (congrArg (fun h : Hw => h.cpls) still :)
  seqs := (congrArg (fun h : Hw => h.seqs) still :)
  objs := (congrArg (fun h : Hw => h.objs) still :)
  comb := (congrArg (fun h : Hw => h.comb) still :)
  oes := (congrArg (fun h : Hw => h.oes) still :)
  fences := (congrArg (fun h : Hw => h.fences) still :)
  topo := (congrArg (fun h : Hw => h.topo) still :)
  bcast := (congrArg (fun h : Hw => h.bcast) still :)

end

/-! ## NOP and FENCE (R50) -/

theorem exec_nop (ring : Nat) (index : W32) (s : State) : exec (.nop ring index) s = execNop ring index s := rfl
theorem exec_fence (ring : Nat) (index : W32) (s : State) : exec (.fence ring index) s = execFence ring index s := rfl

theorem nopAndFenceComplete : Claims.NopAndFenceComplete := by
  intro ring index s c
  have ends {op : Nat} (ready : s.hw.Ready ring index op c) : let g := s.hw.finishCmd ring index stOk 0
      g.Ended ring index 0 0 ∧ s.hw.OnlyCmd g ring index ∧ g = { s.hw with rings := g.rings } :=
    ⟨ready.ended _ _, (Hw.finishCmd_only ..).2, (Hw.finishCmd_only ..).1⟩
  have fence (ready : s.hw.Ready ring index 0x01 c) : exec (.fence ring index) s = .next { s with hw :=
      (if (s.hw.ring ring).firstRunning index && (s.hw.ring ring).records.isEmpty then s.hw.finishCmd ring index stOk 0 else s.hw) } := by
    rw [exec_fence, execFence, act_on ready.1, Hw.onCmd_ready ready]
  refine ⟨fun ready => ?_, fun ready told first => ?_, fun ready waits => ?_⟩
  · rw [exec_nop, execNop, act_on ready.1, Hw.onCmd_ready ready]
    exact ⟨_, rfl, rfl, ends ready⟩
  · rw [fence ready, if_pos (by simp [Hw.firstRunning_of_head ready.2.1 first, told])]
    exact ⟨_, rfl, rfl, ends ready⟩
  · rw [fence ready, if_neg]
    obtain records | ⟨d, first, ne⟩ := waits
    · simp [records]
    · obtain ⟨later, running⟩ := List.head?_eq_some_iff.1 first
      simp [WorkRing.firstRunning, running, ne]

/-! ## SIGNAL (R83, R85, R87) -/

theorem exec_signal (ring : Nat) (index : W32) (s : State) : exec (.signal ring index) s = execSignal ring index s := rfl

theorem exec_signal_ready {ring : Nat} {index : W32} {s : State} {c : Cmd} (ready : s.hw.Ready ring index 0x02 c) :
    exec (.signal ring index) s = .next { s with hw := s.hw.signalBody ring index s.hw.self c.bytes } := by
  rw [exec_signal, execSignal, act_on ready.1, Hw.onCmd_ready ready, if_pos (by simp [ready.2.2.1])]

section
variable {h : Hw} {r : Nat} {i : W32} {c : Cmd} {src : Coord}

theorem Hw.released_eq (cmd : h.cmd r i = some c) : h.released r i =
    ((h.ring r).firstRunning i && !h.accesses.any fun a => a.ring == r && decide (a.order < c.order) && a.write) := by
  simp only [Hw.released, cmd]

/-- A signal of this module that goes on its way, for which the command waits. -/
def Hw.sendsSignal (h : Hw) (r : Nat) (i : W32) (c : Cmd) : Hw :=
  (h.sendSync { obj := bits (c.f 0x1A 2) 12 0, set := c.f 0x18 1 == 1, value := BitVec.ofNat 64 (c.f 0x20 8), source := r
                waiter := some (r, i) }).block r i

/-- Where a SIGNAL of this module goes, once its release is given. -/
theorem Hw.signalBody_here (here : (c.f 0x19 1).testBit 1 = false) (given : (c.f 0x19 1).testBit 0 = true → h.released r i = true) :
    h.signalBody r i src c.bytes =
      (let p := (h.ctx (h.ring r).ctx).plan
       let obj := bits (c.f 0x1A 2) 12 0
       if p.ownsObj obj then h.sendsSignal r i c
       else match p.importObj obj with
         | none => h.conflict r i 0x0102
         | some w => if w.revoked then h.finishCmd r i stContextGone (coordNat h.self)
           else if w.writable then h.sendsSignal r i c else h.conflict r i 0x0106) := by
  have goes : ((c.f 0x19 1).testBit 0 && !h.released r i) = false := by
    cases release : (c.f 0x19 1).testBit 0
    · rfl
    · simp [given release]
  unfold Cmd.f at here goes
  unfold Hw.signalBody
  simp only [here, goes, Bool.false_eq_true, if_false]
  rfl

/-- A release waits. -/
theorem Hw.signalBody_waits (here : (c.f 0x19 1).testBit 1 = false) (release : (c.f 0x19 1).testBit 0 = true) (owed : h.released r i = false)
    (owns : (h.ctx (h.ring r).ctx).plan.ownsObj (bits (c.f 0x1A 2) 12 0) = true) : h.signalBody r i src c.bytes = h := by
  unfold Cmd.f at here release owns
  simp [Hw.signalBody, here, release, owed, owns]

end

theorem signalSendsItsOperation : Claims.SignalSendsItsOperation := by
  intro ring index s c p obj release owed ready here
  obtain ⟨powered, cmd, phase, -⟩ := id ready
  rw [exec_signal_ready ready]
  refine ⟨fun rel ⟨a, there, own, earlier, write⟩ owns => ?_, fun given => ?_⟩
  · rw [Hw.signalBody_waits here rel ?_ owns]
    rw [Hw.released_eq cmd, Bool.and_eq_false_iff, Bool.not_eq_false', List.any_eq_true]
    exact .inr ⟨a, there, by simp [own, earlier, write]⟩
  · have goes (rel : (c.f 0x19 1).testBit 0 = true) : s.hw.released ring index = true := by
      obtain ⟨first, settled⟩ := given rel
      rw [Hw.released_eq cmd, Hw.firstRunning_of_head cmd first, Bool.true_and, Bool.not_eq_true', List.any_eq_false]
      exact fun a there owes => settled ⟨a, there, by simpa [and_assoc] using owes⟩
    rw [Hw.signalBody_here here goes]
    have sends : let t := s.hw.sendsSignal ring index c
        s.hw.OnlyCmd t ring index ∧ t = { s.hw with rings := t.rings, syncFlight := t.syncFlight } ∧
        t.cmd ring index = some { c with phase := .blocked } ∧ t.syncFlight = s.hw.syncFlight ++
          [{ obj := obj, set := c.f 0x18 1 == 1, value := BitVec.ofNat 64 (c.f 0x20 8), source := ring, waiter := some (ring, index) }] :=
      ⟨(Hw.block_only ..).of_rings rfl, rfl, Hw.block_cmd cmd, rfl⟩
    have ends (st dt : Nat) : let t := s.hw.finishCmd ring index st dt
        s.hw.OnlyCmd t ring index ∧ t = { s.hw with rings := t.rings, syncFlight := t.syncFlight } ∧
        t.Ended ring index st dt ∧ t.syncFlight = s.hw.syncFlight :=
      ⟨(Hw.finishCmd_only ..).2, rfl, ready.ended st dt, rfl⟩
    refine ⟨_, rfl, rfl, ?_⟩
    simp only
    by_cases owns : p.ownsObj obj = true
    · rw [if_pos owns]
      exact ⟨sends.1, sends.2.1, fun _ => sends.2.2, fun none => absurd owns (ne_true_of_eq_false none),
        fun _ none => absurd owns (ne_true_of_eq_false none), fun _ none => absurd owns (ne_true_of_eq_false none)⟩
    · rw [if_neg owns]
      cases window : p.importObj obj with
      | none =>
        obtain ⟨only, same, ended, kept⟩ := ends 0x0C 0x0102
        exact ⟨only, same, fun named => named.elim (absurd · owns) nofun, fun _ _ => ⟨ended, kept⟩, nofun, nofun⟩
      | some w =>
        cases revoked : w.revoked with
        | true =>
          obtain ⟨only, same, ended, kept⟩ := ends 0x13 (coordNat s.hw.self)
          simp only [revoked, if_true]
          refine ⟨only, same, fun named => named.elim (absurd · owns) ?_, nofun, fun _ _ _ _ => ⟨ended, kept⟩, ?_⟩
          · rintro ⟨_, ⟨⟩, live, _⟩
            cases revoked.symm.trans live
          · rintro _ _ ⟨⟩ live
            cases revoked.symm.trans live
        | false =>
          have others {P : Prop} : ∀ i, p.ownsObj obj = false → some w = some i → i.revoked = true → P := by
            rintro _ _ ⟨⟩ gone
            cases revoked.symm.trans gone
          cases writable : w.writable with
          | true =>
            obtain ⟨only, same, waits⟩ := sends
            simp only [revoked, writable, if_true, Bool.false_eq_true, if_false]
            refine ⟨only, same, fun _ => waits, nofun, others, ?_⟩
            rintro _ _ ⟨⟩ _ readOnly
            cases writable.symm.trans readOnly
          | false =>
            obtain ⟨only, same, ended, kept⟩ := ends 0x0C 0x0106
            simp only [revoked, writable, Bool.false_eq_true, if_false]
            refine ⟨only, same, fun named => named.elim (absurd · owns) ?_, nofun, others, fun _ _ _ _ _ => ⟨ended, kept⟩⟩
            rintro ⟨_, ⟨⟩, _, writes⟩
            cases writable.symm.trans writes

/-- A context message goes out behind those that wait. -/
theorem Hw.sendAs_posts (h : Hw) (src : Coord) (n : Nat) (dst : Coord) (cls : Nat) (cmd : Option (Nat × W32)) (m : Msg) :
    h.Posts (h.sendAs src n dst cls cmd m) dst m := by
  unfold Hw.sendAs
  extract_lets x g b g'
  have kept : g'.outMsgs = h.outMsgs := by unfold g'; generalize b = o; cases o <;> rfl
  exact ⟨_, congrArg (· ++ _) kept, rfl, rfl⟩

theorem remoteSignalsGo : Claims.RemoteSignalsGo := by
  intro ring index s c p idx target set v ready away free
  have body : s.hw.signalBody ring index s.hw.self c.bytes = s.hw.signalRemote ring index s.hw.self target idx set v := by
    unfold Cmd.f at away free
    simp only [Hw.signalBody, away, free, Bool.false_and, if_true, Bool.false_eq_true, if_false]
    rfl
  rw [exec_signal_ready ready, body, Hw.signalRemote]
  refine ⟨_, rfl, rfl, ?_⟩
  have ends (st dt : Nat) : let t := s.hw.finishCmd ring index st dt
      s.hw.OnlyCmd t ring index ∧ s.hw.SameSetup t ∧ t.mem = s.hw.mem ∧ t.Ended ring index st dt ∧ t.outMsgs = s.hw.outMsgs :=
    ⟨(Hw.finishCmd_only ..).2, ⟨rfl, rfl, rfl, rfl, rfl, rfl, rfl, rfl, rfl, rfl, rfl, rfl⟩, rfl, ready.ended st dt, rfl⟩
  have sends {at_ : Reach} (notSelf : at_ ≠ .self) (notGone : at_ ≠ .gone) (notFenced : at_ ≠ .fenced) :
      let t := (s.hw.sendAs s.hw.self (s.hw.ring ring).ctx target 0 (some (ring, index)) (.signal idx set v)).block ring index
      s.hw.OnlyCmd t ring index ∧ s.hw.SameSetup t ∧ t.mem = s.hw.mem ∧
      (at_ = .gone → t.Ended ring index 0x12 (coordNat target) ∧ t.outMsgs = s.hw.outMsgs) ∧
      (at_ = .fenced → t.Ended ring index 0x16 (coordNat target) ∧ t.outMsgs = s.hw.outMsgs) ∧
      (at_ = .self → p.syncCount ≤ idx → t.Ended ring index 0x0C 0x0102) ∧
      (at_ = .self → idx < p.syncCount → t.cmd ring index = some { c with phase := .blocked } ∧
        t.syncFlight = s.hw.syncFlight ++
          [{ obj := p.syncBase + idx, set := set, value := v, source := ring, waiter := some (ring, index) }]) ∧
      (at_ ≠ .self → at_ ≠ .gone → at_ ≠ .fenced → s.hw.Posts t target (.signal idx set v) ∧
        t.cmd ring index = some { c with phase := .blocked }) := by
    have still := s.hw.sendAs_still s.hw.self (s.hw.ring ring).ctx target 0 (some (ring, index)) (.signal idx set v)
    have posts := s.hw.sendAs_posts s.hw.self (s.hw.ring ring).ctx target 0 (some (ring, index)) (.signal idx set v)
    generalize s.hw.sendAs _ _ _ _ _ _ = g at still posts
    have setup := Hw.SameSetup.of_still still
    have cmd : g.cmd ring index = some c := by rw [Hw.cmd, Hw.ring, Hw.still_rings still]; exact ready.2.1
    exact ⟨(Hw.block_only ..).of_rings (Hw.still_rings still), ⟨setup.now, setup.lim, setup.ks, setup.ks2, setup.cpls, setup.seqs, setup.objs,
      setup.comb, setup.oes, setup.fences, setup.topo, setup.bcast⟩, (Hw.still_mem still :), (absurd · notGone), (absurd · notFenced),
      (absurd · notSelf), (absurd · notSelf), fun _ _ _ => ⟨posts, Hw.block_cmd cmd⟩⟩
  cases reach : s.hw.reach false target with
  | gone =>
    obtain ⟨only, setup, mem, ended, kept⟩ := ends 0x12 (coordNat target)
    exact ⟨only, setup, mem, fun _ => ⟨ended, kept⟩, nofun, nofun, nofun, fun _ ne => absurd rfl ne⟩
  | fenced =>
    obtain ⟨only, setup, mem, ended, kept⟩ := ends 0x16 (coordNat target)
    exact ⟨only, setup, mem, nofun, fun _ => ⟨ended, kept⟩, nofun, nofun, fun _ _ ne => absurd rfl ne⟩
  | self =>
    simp only [Hw.signalOwn]
    split
    next beyond =>
      obtain ⟨only, setup, mem, ended, _⟩ := ends 0x0C 0x0102
      exact ⟨only, setup, mem, nofun, nofun, fun _ _ => ended, fun _ within => absurd beyond (Nat.not_le.2 within), fun ne => absurd rfl ne⟩
    next within =>
      exact ⟨(Hw.block_only ..).of_rings rfl, ⟨rfl, rfl, rfl, rfl, rfl, rfl, rfl, rfl, rfl, rfl, rfl, rfl⟩, rfl, nofun, nofun,
        fun _ beyond => absurd beyond within, fun _ _ => ⟨Hw.block_cmd ready.2.1, rfl⟩, fun ne => absurd rfl ne⟩
  | up => exact sends nofun nofun nofun
  | waits => exact sends nofun nofun nofun

end Sys2Proof.Machine

namespace Sys2Proof

/-- Settles O16, by the cases of what a signal may name and of what leads to its module. -/
theorem markersAndSignalsEnd : Obligations.MarkersAndSignalsEnd :=
  ⟨Machine.nopAndFenceComplete, Machine.signalSendsItsOperation, Machine.remoteSignalsGo⟩

end Sys2Proof
end

section
/-! PROOFS. Starts of commands at their turn (02 R50, R51, R54). -/

namespace Sys2Proof.Machine

section
variable {h : Hw} {r : Nat} {c : Cmd} {e : Env} {rest : List Cmd}

/-- A sequence command changes sequence slots alone. -/
theorem Hw.changeSlots_only (h : Hw) (c : Cmd) : h.changeSlots c = { h with seqs := (h.changeSlots c).seqs } := by
  unfold Hw.changeSlots
  split
  next ks _ =>
    exact List.foldlRecOn (motive := fun g : Hw => g = { h with seqs := g.seqs }) ks _ rfl fun g eq k _ => by
      rw [eq]
      rfl
  · rfl

/-- A command as it starts: with the next number of the order of starts. -/
def Cmd.starts (c : Cmd) (order : Nat) : Cmd := { c with order := order, phase := .started, satisfied := false }

/-- The opcodes 0x00 to 0x04 of a context ring have no start checks of their own. -/
theorem Hw.startOf_plain (plain : c.opcode ≤ 4) (context : (h.ring r).module = false) : h.startOf r c e = .ok { cmd := c } := by
  have other {n : Nat} (high : 4 < n) : ¬ c.opcode = n := by omega
  unfold Hw.startOf
  simp [context, other]

theorem Hw.startCmd_plain (plain : c.opcode ≤ 4) (context : (h.ring r).module = false) : ∃ hosts seqs,
    h.startCmd r c e = { h with hosts := hosts, startSeq := h.startSeq + 1, seqs := seqs }.launch r (c.starts h.startSeq) := by
  refine ⟨(h.applyEnv e).hosts, (Hw.changeSlots { h.applyEnv e with startSeq := h.startSeq + 1 } (c.starts h.startSeq)).seqs, ?_⟩
  unfold Hw.startCmd
  extract_lets c' _ _ g
  have only : g = { h with hosts := (h.applyEnv e).hosts, startSeq := h.startSeq + 1 } :=
    congrArg (fun a : Hw => { a with startSeq := h.startSeq + 1 }) (h.applyEnv_only e)
  have starts : g.startOf r c' e = .ok { cmd := c' } := Hw.startOf_plain plain (by rw [only]; exact context)
  have slots : g.changeSlots c' = { g with seqs := (g.changeSlots c').seqs } := Hw.changeSlots_only g c'
  rw [starts]
  exact congrArg (fun a : Hw => a.launch r c') (slots.trans (congrArg (fun a : Hw => { a with seqs := (g.changeSlots c').seqs }) only))

theorem Hw.acquire_empties (h : Hw) (d : Nat) : (h.acquire.die d).rcLines = [] := by
  simp only [Hw.die, Hw.acquire, List.getD_eq_getElem?_getD, List.getElem?_map]
  cases h.dies[d]? <;> rfl

/-- What a start of these opcodes leaves: only its ring, the order of starts, host memory and sequence slots differ. -/
theorem Hw.startCmd_leaves (plain : c.opcode ≤ 4) (context : (h.ring r).module = false) (there : r < h.rings.length)
    (drops : (h.ring r).fetched.drop 1 = rest) :
    let t := h.startCmd r c e
    t.ring r = { h.ring r with fetched := rest, running := (h.ring r).running ++ [c.starts h.startSeq] } ∧
    t.startSeq = h.startSeq + 1 ∧ t.mem = h.mem ∧ t.objs = h.objs ∧ (∀ k, k ≠ r → t.ring k = h.ring k) ∧ t.dies = h.dies := by
  obtain ⟨hosts, seqs, eq⟩ := Hw.startCmd_plain (e := e) plain context
  subst drops
  rw [eq]
  exact ⟨Hw.ring_setRing_same _ _ _ there, rfl, rfl, rfl, fun k ne => Hw.ring_setRing_other _ _ _ _ ne, rfl⟩

end

/-- The meaning of COMMAND_START for a fetched command at its turn. -/
def Hw.takesTurn (h : Hw) (r : Nat) (c : Cmd) (e : Env) : Hw :=
  match c.fail with
  | some f => h.launch r (c.finish f.1 f.2)
  | none =>
    if c.phase == .turn then (if c.satisfied then h.startCmd r c e else h)
    else match h.headerCheck r c with
    | some f => h.launch r (c.finish f.1 f.2)
    | none =>
      if !c.waitEn then h.startCmd r c e
      else if decide (c.threshold ≤ (h.obj c.waitObj).toNat) then
        ((if c.waitAcq then h.acquire else h).atTurn r c true).startCmd r c e
      else h.atTurn r c false

section
variable {h : Hw} {r : Nat} {c : Cmd} {e : Env}

theorem Hw.takesTurn_refused {st dt : Nat} (failed : c.fail = some (st, dt)) : h.takesTurn r c e = h.launch r (c.finish st dt) := by
  rw [Hw.takesTurn, failed]

theorem Hw.takesTurn_again (sound : c.fail = none) (again : c.phase = .turn) :
    h.takesTurn r c e = if c.satisfied then h.startCmd r c e else h := by
  simp [Hw.takesTurn, sound, again]

theorem Hw.takesTurn_first (sound : c.fail = none) (first : c.phase = .fetched) (legal : h.headerCheck r c = none) :
    h.takesTurn r c e =
      if !c.waitEn then h.startCmd r c e
      else if c.threshold ≤ (h.obj c.waitObj).toNat then ((if c.waitAcq then h.acquire else h).atTurn r c true).startCmd r c e
      else h.atTurn r c false := by
  simp [Hw.takesTurn, sound, first, legal]

end

theorem exec_commandStart {ring : Nat} {env : Env} {s : State} {c : Cmd} {rest : List Cmd} (powered : s.hw.ks2.powered = true)
    (next : (s.hw.ring ring).fetched = c :: rest) (turn : s.hw.turnOk ring c = true) :
    exec (.commandStart ring env) s = .next { s with hw := s.hw.takesTurn ring c env } := by
  show execCommandStart ring env s = _
  rw [execCommandStart, act_on powered]
  simp only [next, turn, Bool.not_true, Bool.false_eq_true, if_false]
  rfl

end Sys2Proof.Machine

namespace Sys2Proof
open Machine

/-- Settles O8, by the cases of a command at its turn: refused, waiting on its object, or starting. -/
theorem commandStartTakesTurn : Obligations.CommandStartTakesTurn := by
  intro ring env s c rest w started powered next turn live
  have there : ring < s.hw.rings.length := Hw.ring_there fun absent => by
    rw [show s.hw.ring ring = w from rfl] at absent
    simp [absent] at next
  rw [exec_commandStart powered next turn]
  have drops : w.fetched.drop 1 = rest := by rw [next]; rfl
  have launches (d : Cmd) : s.hw.launch ring d = s.hw.setRing ring fun w => { w with fetched := rest, running := w.running ++ [d] } :=
    Hw.setRing_congr (congrArg (fun l => { w with fetched := l, running := w.running ++ [d] }) drops)
  have waits (g : Hw) (same : g.ring ring = w) (b : Bool) :
      g.atTurn ring c b = g.setRing ring fun w => { w with fetched := { c with phase := .turn, satisfied := b } :: rest } :=
    Hw.setRing_congr (by rw [same, drops])
  refine ⟨fun st dt failed => ?_, fun first sound legal waitEn below => ?_, fun first sound legal waited plain context => ?_,
    fun again satisfied sound plain context => ?_, fun again below sound => ?_⟩
  · rw [Hw.takesTurn_refused failed, Cmd.finish_started c st dt live, launches]
  · rw [Hw.takesTurn_first sound first legal, if_neg (by simp [waitEn]), if_neg (Nat.not_le.2 below), waits s.hw rfl]
  · rw [Hw.takesTurn_first sound first legal]
    cases waitEn : c.waitEn with
    | false =>
      obtain ⟨ring', order, mem, objs, others, _⟩ := Hw.startCmd_leaves (e := env) plain context there drops
      exact ⟨_, rfl, rfl, ring', order, mem, objs, others, nofun⟩
    | true =>
      rw [if_neg (by decide), if_pos (waited waitEn)]
      let a := if c.waitAcq then s.hw.acquire else s.hw
      have same : a.rings = s.hw.rings ∧ a.startSeq = s.hw.startSeq ∧ a.mem = s.hw.mem ∧ a.objs = s.hw.objs := by
        unfold a
        split <;> exact ⟨rfl, rfl, rfl, rfl⟩
      obtain ⟨rings, seq, aMem, aObjs⟩ := same
      have aThere : ring < a.rings.length := rings ▸ there
      have aRing (k : Nat) : a.ring k = s.hw.ring k := congrArg (·.getD k {}) rings
      have atTurn : a.atTurn ring c true = a.setRing ring fun w => { w with fetched := { c with phase := .turn, satisfied := true } :: rest } :=
        waits a (aRing ring) true
      have turnRing : (a.atTurn ring c true).ring ring = { w with fetched := { c with phase := .turn, satisfied := true } :: rest } := by
        rw [atTurn, Hw.ring_setRing_same _ _ _ aThere, aRing]
      obtain ⟨ring', order, mem, objs, others, dies⟩ := Hw.startCmd_leaves (h := a.atTurn ring c true) (r := ring) (e := env) plain
        (by rw [turnRing]; exact context) (by rw [atTurn]; simpa using aThere) (rest := rest) (by rw [turnRing]; rfl)
      refine ⟨_, rfl, rfl, ?_, order.trans (congrArg (· + 1) seq), mem.trans aMem, objs.trans aObjs, fun k ne => ?_, fun _ acquires d => ?_⟩
      · rw [turnRing, show (a.atTurn ring c true).startSeq = s.hw.startSeq from seq] at ring'
        exact ring'
      · rw [others k ne, atTurn, Hw.ring_setRing_other _ _ _ _ ne, aRing]
      · have emptied : (a.die d).rcLines = [] := by
          rw [show a = s.hw.acquire from if_pos acquires]
          exact Hw.acquire_empties ..
        exact (congrArg (fun l : List Die => (l.getD d {}).rcLines) dies).trans emptied
  · rw [Hw.takesTurn_again sound again, if_pos satisfied]
    obtain ⟨ring', order, _, _, _, dies⟩ := Hw.startCmd_leaves (e := env) plain context there drops
    exact ⟨_, rfl, ring', order, fun d => congrArg (fun l : List Die => (l.getD d {}).rcLines) dies⟩
  · rw [Hw.takesTurn_again sound again, if_neg (by simp [below])]

end Sys2Proof
end

section
/-! SUPPORT. Runs leave the contexts and the host ports as they are set up, in what they read and in what carrying them out sends. -/

namespace Sys2Proof.Machine

/-! ## What carrying out a run sends -/

section
variable {a h : Hw} {n : Nat}

theorem Hw.setCtx_seats {f : Ctx → Ctx} (keeps : ∀ c, ((f c).plan, (f c).state, (f c).epoch, (f c).owner) = (c.plan, c.state, c.epoch, c.owner)) :
    (h.setCtx n f).seats = h.seats := by
  refine congrArg (·, _) (List.ext_getElem (by simp) fun i _ _ => ?_)
  simp only [Hw.setCtx, List.getElem_map, List.getElem_modify]
  split
  · exact keeps _
  · rfl

theorem Hw.Like.sendAs {src dst : Coord} {cls : Nat} {cmd : Option (Nat × W32)} {m : Msg} (k : a.Like h) : a.Like (h.sendAs src n dst cls cmd m) := by
  refine ⟨(Hw.sendAs_still ..).trans k.still, Eq.trans ?_ k.seats⟩
  have same : (h.sendAs src n dst cls cmd m).seats = (h.setCtx n fun c => { c with nextMsg := c.nextMsg + 1 }).seats := by
    unfold Hw.sendAs Hw.msgId
    dsimp only
    generalize Hw.binding _ n dst = b
    cases b <;> rfl
  rw [same]
  exact Hw.setCtx_seats fun _ => rfl

variable {r : Run}

theorem Hw.Like.note {home : Home} {addr : Nat} {write : Bool} (k : a.Like h) : a.Like (r.note h home addr write) := k.same rfl
theorem Hw.Like.toHost {x : Nat × Nat × List Byte × Bool} (k : a.Like h) : a.Like (r.toHost h x) := by
  have written : a.Like (if ((h.hostWrite x.1 x.2.1 x.2.2.1).host x.1).up then h.hostWrite x.1 x.2.1 x.2.2.1
      else r.note (h.hostWrite x.1 x.2.1 x.2.2.1) (.host x.1) x.2.1 true) := .ite k.hostWrite k.hostWrite.note
  exact .ite (.foldl _ written fun _ _ k => k.setHost.evMod.emit) written
theorem Hw.Like.toModule {slot da : Nat} {write : Bool} {m : MemAccess} (k : a.Like h) : a.Like (r.toModule h slot da write m) := by
  unfold Run.toModule
  split
  · exact k
  · exact k.same rfl
theorem Hw.Like.writeModule {x : Nat × Nat × List Byte × Bool} (k : a.Like h) : a.Like (r.writeModule h x) := .foldl _ k fun _ _ k => k.toModule
theorem Hw.Like.readModule {x : Nat × Nat × Nat} (k : a.Like h) : a.Like (r.readModule h x) := .foldl _ k fun _ _ k => k.toModule
theorem Hw.Like.toContext {c : Coord} {die ad : Nat} {write po : Bool} {bs : List Byte} (k : a.Like h) :
    a.Like (r.toContext h c die ad write po bs n) := k.note.sendAs

/-- Carrying out a run changes module memory, and of the contexts and the host ports nothing that `Hw.seats` names. -/
theorem Run.finish_like (r : Run) : (r.h.applyWrites r.w).Like r.finish := by
  have errors : (r.h.applyWrites r.w).Like ((r.h.writeErrors r.env r.w).applyWrites r.w) :=
    ⟨Hw.applyWrites_still r.w (Hw.writeErrors_still ..), (Hw.Like.refl r.h).writeErrors.seats⟩
  refine Hw.Like.setDie (.setDie (.foldl _ (.foldl _ (.foldl _ (.foldl _ (.foldl _ (.foldl _ (.foldl _ ?_ ?_) ?_) ?_) ?_) ?_) ?_) ?_))
  · exact errors.same rfl
  all_goals intro h x k
  · exact k.setDie
  · exact k.toHost
  · exact k.writeModule
  · exact k.readModule
  · exact k.toContext
  · exact k.toContext
  · exact k.setDie

end

/-! ## What a run reads -/

/-- A run whose machine is like one. -/
def Run.Like (a : Hw) (r : Run) : Prop := a.Like r.h

section
variable {a : Hw} {r q : Run} {c : Prop} [Decidable c] {cva n : Nat}

theorem Run.Like.ite (k : r.Like a) (l : q.Like a) : (if c then r else q).Like a := by split <;> assumption
theorem Run.Like.ite_2 {α : Type} {x y : α × Run} (k : x.2.Like a) (l : y.2.Like a) : (if c then x else y).2.Like a := by
  split <;> assumption

theorem Run.Like.start {die ctx : Nat} {look alloc : Bool} {e : Env} : (Run.start a die ctx look alloc e).Like a := (Hw.Like.refl a).applyEnv

theorem Run.Like.meets {gs : List Nat} (k : r.Like a) : (r.meets gs).Like a := .ite k (Hw.Like.readErrors k)
theorem Run.Like.meetsWalk (k : r.Like a) : (r.meetsWalk cva).Like a := .ite k k.meets
theorem Run.Like.meetsLines {gs : List Nat} (k : r.Like a) : (r.meetsLines gs).Like a := .ite k (Hw.Like.lineErrors k)
theorem Run.Like.readPoison {place : Nat} {gs : List Nat} (k : r.Like a) : (r.readPoison place gs).Like a := .ite k k

theorem Run.Like.toSlot {slot : Nat} (k : r.Like a) : (r.toSlot slot).Like a := by
  unfold Run.toSlot
  split
  · exact k
  · split
    exacts [k, k, .ite k k, k]

theorem Run.Like.locate {wr : Bool} (k : r.Like a) : (r.locate cva wr).2.Like a := by
  unfold Run.locate
  split
  · exact k
  · dsimp only
    split
    exacts [k.meetsWalk, .ite_2 k.meetsWalk k.meetsWalk]

theorem Run.Like.of_locate {wr : Bool} {p : Option Place} (k : r.Like a) (e : r.locate cva wr = (p, q)) : q.Like a := by
  have l := k.locate (cva := cva) (wr := wr)
  rwa [e] at l

/-- A read from a host whose answer is poisoned is counted and reported. -/
theorem Hw.Like.hostPoisoned {h : Hw} {port ad : Nat} (k : a.Like h) :
    a.Like (((h.setHost port fun q => { q with poisonRx := satAdd q.poisonRx 1 }).evMod 0x0504 (srcBridge port) 0 ad).reportAer port aerPoison) :=
  k.setHost.evMod.reportAer

theorem Run.Like.readIn (k : r.Like a) : (r.readIn cva n).2.Like a := by
  unfold Run.readIn
  split
  · exact k
  split
  next e => exact k.of_locate e
  next e =>
    have k := k.of_locate e
    refine .ite_2 k ?_
    split
    · exact .ite_2 (.readPoison k.meets.meetsLines) k.meets.readPoison
    · exact .ite_2 k (.ite_2 k (.ite_2 (.readPoison (Hw.Like.hostPoisoned k)) k))
    · extract_lets d look all gone tag r1 r2
      have k1 : r1.Like a := .ite k (.ite k.toSlot k.toSlot)
      have k2 : r2.Like a := .ite k1.meetsLines k1
      exact .ite_2 k1 (.readPoison k2)

theorem Run.Like.readN {f : Nat} (k : r.Like a) : (Run.readN f r cva n).2.Like a := by
  induction f generalizing r cva n with
  | zero => exact k
  | succ f ih => exact .ite_2 k.readIn (ih k.readIn)

theorem Run.Like.read (k : r.Like a) : (r.read cva n).2.Like a := k.readN

theorem Run.Like.write {bs : List Byte} {po : Bool} (k : r.Like a) : (r.write cva bs po).Like a := by
  unfold Run.write
  split
  · exact k
  split
  next e => exact k.of_locate e
  next e =>
    have k := k.of_locate e
    split
    exacts [k, k, .ite k.toSlot k.toSlot]

end

end Sys2Proof.Machine
end

section
/-! SUPPORT. Completions and records: what leaves with a command, where its signal goes, where its record goes, and when its ring halts
(02 R51, R57-R64, R69, R70). -/

namespace Sys2Proof.Machine

/-! ## Records (R57, R58, R62, R71) -/

section
variable {a b h : Hw} {evt : Bool} {n : Nat} {rb : List Byte}

theorem Hw.setOutRing_setOutRing (f g : OutRing → OutRing) : (h.setOutRing evt n f).setOutRing evt n g = h.setOutRing evt n (g ∘ f) := by
  cases evt <;> simp [Hw.setOutRing, List.modify_modify_eq]

theorem Hw.setOutRing_id : h.setOutRing evt n id = h := by cases evt <;> simp [Hw.setOutRing]

theorem Hw.Like.setOutRing (k : a.Like b) (f : OutRing → OutRing) : (a.setOutRing evt n f).Like (b.setOutRing evt n f) := by
  cases evt
  · exact k.setCpl n f
  · exact ⟨k.still, k.seats⟩

theorem Hw.msixSend_mem (p v q : Nat) : ((h.msixSend p v).host q).mem = (h.host q).mem := by
  unfold Hw.msixSend Hw.msixEmit
  split
  · rw [Hw.host_setHost]
    split <;> rfl
  · split <;> rfl

/-- A record is announced by its ring's counters and interrupts, which leave the ring's slots and the bytes of host memory. -/
theorem Hw.noteRecord_leaves (h : Hw) (evt : Bool) (n : Nat) : ∃ f : OutRing → OutRing, (∀ o, (f o).writeTail = o.writeTail) ∧
    (h.setOutRing evt n f).Like (h.noteRecord evt n) ∧ (∀ e k, (h.noteRecord evt n).outRing e k = (h.setOutRing evt n f).outRing e k) ∧
    ∀ p, ((h.noteRecord evt n).host p).mem = (h.host p).mem := by
  unfold Hw.noteRecord
  dsimp only
  split
  · exact ⟨id, fun _ => rfl, by rw [Hw.setOutRing_id]; exact .refl _, fun _ _ => by rw [Hw.setOutRing_id], fun _ => rfl⟩
  split
  · exact ⟨fun o => { o with unIrq := o.unIrq + 1, irqTimer := true }, fun _ => rfl, .refl _, fun _ _ => rfl, fun p => by simp⟩
  · refine ⟨fun o => { o with unIrq := 0, irqTimer := false }, fun _ => rfl, (Hw.Like.refl _).msixSend, fun e k => ?_, fun p => ?_⟩
    · rw [(Hw.msixSend_only _ _ _).1]
      rfl
    · rw [Hw.msixSend_mem, Hw.setOutRing_host]

/-- The slot of a ring that takes its next record. -/
def OutRing.slot (o : OutRing) : Nat := o.base.toNat + 32 * (o.writeTail.toNat % o.size)

/-- A record with the PHASE of its ring's pass. -/
def OutRing.phased (o : OutRing) (rb : List Byte) : List Byte := rb.set 7 (rb.getD 7 0 ||| BitVec.ofNat 8 o.phase)

/-- A record that is written advances its ring and stands in host memory; nothing else changes but what telling changes. -/
theorem Hw.putRecord_leaves (h : Hw) (evt : Bool) (n : Nat) (rb : List Byte) : ∃ f : OutRing → OutRing,
    (∀ o, (f o).writeTail = o.writeTail + 1) ∧ (h.setOutRing evt n f).Like (h.putRecord evt n rb) ∧
    (∀ e k, (h.putRecord evt n rb).outRing e k = (h.setOutRing evt n f).outRing e k) ∧
    ∀ p, ((h.putRecord evt n rb).host p).mem =
      ((h.hostWrite (h.outPort evt n) (h.outRing evt n).slot ((h.outRing evt n).phased rb)).host p).mem := by
  let g := h.hostWrite (h.outPort evt n) (h.outRing evt n).slot ((h.outRing evt n).phased rb)
  obtain ⟨f, tail, like, rings, mem⟩ := (g.setOutRing evt n fun o => { o with writeTail := o.writeTail + 1 }).noteRecord_leaves evt n
  have put : h.putRecord evt n rb = (g.setOutRing evt n fun o => { o with writeTail := o.writeTail + 1 }).noteRecord evt n := rfl
  rw [Hw.setOutRing_setOutRing] at like rings
  have written : h.Like g := (Hw.Like.refl h).hostWrite
  refine ⟨f ∘ fun o => { o with writeTail := o.writeTail + 1 }, fun o => tail _, (written.setOutRing _).trans like, fun e k => ?_, fun p => ?_⟩
  · rw [put, rings]
    cases evt <;> rfl
  · rw [put, mem, Hw.setOutRing_host]

/-- The machine with other completion rings. -/
def Hw.withCpls (h : Hw) (l : List OutRing) : Hw := { h with cpls := l }

theorem Hw.setRing_withCpls (h : Hw) (r : Nat) (f : WorkRing → WorkRing) (l : List OutRing) :
    (h.setRing r f).withCpls l = (h.withCpls l).setRing r f := rfl

theorem Hw.putRecord_cpls (h : Hw) (evt : Bool) (n : Nat) (rb : List Byte) :
    (h.withCpls (h.putRecord evt n rb).cpls).Like (h.putRecord evt n rb) := by
  obtain ⟨f, _, like, _⟩ := h.putRecord_leaves evt n rb
  rw [like.cpls]
  cases evt
  · exact like
  · exact ⟨like.still, like.seats⟩

/-- The record is read where it was written. -/
theorem Hw.hostRead_putRecord (there : h.outPort evt n < h.hosts.length) (up : (h.host (h.outPort evt n)).up = true)
    (wf : Memory.wf (h.host (h.outPort evt n)).mem = true)
    (open_ : (h.host (h.outPort evt n)).barred (h.outRing evt n).slot rb.length = false) :
    (h.putRecord evt n rb).hostRead (h.outPort evt n) (h.outRing evt n).slot rb.length = (h.outRing evt n).phased rb := by
  obtain ⟨_, _, _, _, mem⟩ := h.putRecord_leaves evt n rb
  have length : ((h.outRing evt n).phased rb).length = rb.length := by simp [OutRing.phased]
  unfold Hw.hostRead
  rw [mem, Hw.hostWrite, Hw.host_setHost, if_pos ⟨rfl, there⟩, length, if_neg (by simp [open_]), if_pos up]
  have read := cellRead_write (h.outRing evt n).slot ((h.outRing evt n).phased rb) wf
  rwa [length] at read

end

/-! ## The record of a completing command (R57, R59, R62, R63) -/

section
variable {h : Hw} {r : Nat} {c : Cmd}

/-- A waiting record of a command. -/
def Hw.waitingRecord (h : Hw) (r : Nat) (c : Cmd) : Rec := { bytes := h.recordOf r c, order := c.order }

theorem Hw.giveRecord_none (mode : c.cplMode = 1) (ok : c.status = stOk) : h.giveRecord r c = h := if_pos ⟨mode, ok⟩

section
variable (writes : ¬ (c.cplMode = 1 ∧ c.status = stOk))
include writes

theorem Hw.giveRecord_put (first : (h.ring r).records = []) (room : h.canRecord (h.ring r).recordRing.1 (h.ring r).recordRing.2 = true)
    (acked : h.awaits c.order = false) :
    h.giveRecord r c = h.putRecord (h.ring r).recordRing.1 (h.ring r).recordRing.2 (h.recordOf r c) := by
  unfold Hw.giveRecord
  simp [writes, first, room, acked]

theorem Hw.giveRecord_waits (waits : (h.ring r).records ≠ [] ∨ h.canRecord (h.ring r).recordRing.1 (h.ring r).recordRing.2 = false ∨
    h.awaits c.order = true) : h.giveRecord r c = h.setRing r fun w => { w with records := w.records ++ [h.waitingRecord r c] } := by
  unfold Hw.giveRecord
  simp only [if_neg writes]
  refine if_neg ?_
  obtain records | full | owed := waits
  · simp [records]
  · simp [full]
  · simp [owed]

end

/-- A record waits, is written, or is not made; of the work rings only the records that wait change. -/
theorem Hw.giveRecord_like (h : Hw) (r : Nat) (c : Cmd) : ∃ l : List Rec,
    ((h.withCpls (h.giveRecord r c).cpls).setRing r fun w => { w with records := w.records ++ l }).Like (h.giveRecord r c) := by
  have keeps (g : Hw) : (g.setRing r fun w => { w with records := w.records ++ [] }) = g := by
    rw [Hw.setRing_congr (g := id) (by simp)]
    simp [Hw.setRing]
  by_cases writes : c.cplMode = 1 ∧ c.status = stOk
  · rw [Hw.giveRecord_none writes.1 writes.2]
    exact ⟨[], by rw [keeps]; exact .refl _⟩
  · by_cases goes : (h.ring r).records = [] ∧ h.canRecord (h.ring r).recordRing.1 (h.ring r).recordRing.2 = true ∧ h.awaits c.order = false
    · obtain ⟨first, room, acked⟩ := goes
      rw [Hw.giveRecord_put writes first room acked]
      exact ⟨[], by rw [keeps]; exact h.putRecord_cpls _ _ _⟩
    · rw [Hw.giveRecord_waits writes (by simpa only [not_and_or, Bool.not_eq_true, Bool.not_eq_false] using goes)]
      exact ⟨_, .refl _⟩

end

/-! ## Halts (R64, R69, R70) -/

section
variable {h : Hw} {r : Nat} {c : Cmd}

/-- A ring halts on a command. -/
def WorkRing.halt (c : Cmd) (w : WorkRing) : WorkRing :=
  { w with head := c.index + 1, fetched := [], limit := none, drainWait := false, state := .halted }

theorem Hw.haltRing_like : (h.setRing r (WorkRing.halt c)).Like
    ((h.setRing r fun w => { w with head := c.index + 1, fetched := [], limit := none, drainWait := false }).setRingState r .halted) := by
  have halts := Hw.setRingState_like (r := r) (h := h.setRing r fun w => { w with head := c.index + 1, fetched := [], limit := none, drainWait := false })
    .halted
  rw [Hw.setRing_setRing] at halts
  exact halts

theorem Hw.haltOn_like (works : (h.ring r).state = .running ∨ (h.ring r).state = .draining) : (h.setRing r (WorkRing.halt c)).Like (h.haltOn r c) := by
  unfold Hw.haltOn
  simp only
  rw [if_pos (by simpa using works)]
  exact Hw.haltRing_like.evRing

/-- Whether a command's status halts its ring. -/
def Hw.haltsWith (h : Hw) (r : Nat) (st : Nat) : Bool := haltsOn st && !h.skips r st

/-- What follows from the final status of a command that has left its ring. -/
def Hw.concluded (h : Hw) (r : Nat) (c : Cmd) : Hw :=
  let h := h.setRing r fun w => { w with lastStatus := c.status }
  let h := h.giveRecord r c
  let h := if haltsOn c.status && !h.skips r c.status then h.haltOn r c else h
  h.stopIfDrained r

/-- A ring behind a command that has left it: its records, its LAST_STATUS, and whether it halts. -/
def WorkRing.behind (c : Cmd) (l : List Rec) (halts : Bool) (w : WorkRing) : WorkRing :=
  let w := { w with lastStatus := c.status, records := w.records ++ l }
  if halts then w.halt c else w

/-- The ring's settings and its context's plan say whether policy SKIP holds. -/
theorem Hw.haltsWith_congr {a b : Hw} (skip : (b.ring r).skip = (a.ring r).skip) (module : (b.ring r).module = (a.ring r).module)
    (ctx : (b.ring r).ctx = (a.ring r).ctx) (plan : (b.ctx (a.ring r).ctx).plan = (a.ctx (a.ring r).ctx).plan) (st : Nat) :
    b.haltsWith r st = a.haltsWith r st := by simp only [Hw.haltsWith, Hw.skips, skip, module, ctx, plan]

/-- The conclusion before the ring may stop: the record is given, and the ring halts or goes on. -/
theorem Hw.concluded_halts (there : r < h.rings.length) (works : (h.ring r).state = .running ∨ (h.ring r).state = .draining) :
    ∃ (l : List Rec) (g : Hw), h.concluded r c = g.stopIfDrained r ∧
      ((h.withCpls g.cpls).setRing r (WorkRing.behind c l (h.haltsWith r c.status))).Like g := by
  obtain ⟨l, given⟩ := (h.setRing r fun w => { w with lastStatus := c.status }).giveRecord_like r c
  have concluded : h.concluded r c = (
      let g := (h.setRing r fun w => { w with lastStatus := c.status }).giveRecord r c
      if g.haltsWith r c.status then g.haltOn r c else g).stopIfDrained r := rfl
  generalize (h.setRing r fun w => { w with lastStatus := c.status }).giveRecord r c = g at given concluded
  have like : ((h.withCpls g.cpls).setRing r (WorkRing.behind c l false)).Like g := by
    rw [Hw.setRing_withCpls, Hw.setRing_setRing] at given
    exact given
  have ring : g.ring r = (h.ring r).behind c l false := like.setRing_ring there
  have halts : g.haltsWith r c.status = h.haltsWith r c.status :=
    Hw.haltsWith_congr (a := h) (by rw [ring]; rfl) (by rw [ring]; rfl) (by rw [ring]; rfl) (like.ctx _).1 _
  simp only [halts] at concluded
  refine ⟨l, _, concluded, ?_⟩
  cases halts : h.haltsWith r c.status with
  | false => exact like
  | true =>
    have halted := (like.setRing r _).trans (Hw.haltOn_like (h := g) (r := r) (c := c) (by rw [ring]; exact works))
    rw [Hw.setRing_setRing] at halted
    exact halted.cpls ▸ halted

/-- A ring that does not go on draining: what follows from a command's final status. -/
theorem Hw.concluded_like (there : r < h.rings.length)
    (works : (h.ring r).state = .running ∨ (h.ring r).state = .draining ∧ h.haltsWith r c.status = true) : ∃ l : List Rec,
    ((h.withCpls (h.concluded r c).cpls).setRing r (WorkRing.behind c l (h.haltsWith r c.status))).Like (h.concluded r c) := by
  obtain ⟨l, g, concluded, like⟩ := Hw.concluded_halts (c := c) there (works.imp id And.left)
  have stays : g.stopIfDrained r = g := by
    refine Hw.stopIfDrained_stays (.inl ?_)
    rw [like.setRing_ring there]
    cases halts : h.haltsWith r c.status with
    | true => exact nofun
    | false => exact (works.resolve_right (by simp [halts])).trans_ne nofun
  rw [stays] at concluded
  exact ⟨l, concluded ▸ like⟩

/-- An OK without a record leaves all but LAST_STATUS. -/
theorem Hw.concluded_quiet (mode : c.cplMode = 1) (ok : c.status = stOk) (works : (h.ring r).state ≠ .draining) :
    h.concluded r c = h.setRing r fun w => { w with lastStatus := c.status } := by
  have concluded : h.concluded r c = (
      let g := (h.setRing r fun w => { w with lastStatus := c.status }).giveRecord r c
      if haltsOn c.status && !g.skips r c.status then g.haltOn r c else g).stopIfDrained r := rfl
  rw [Hw.giveRecord_none mode ok] at concluded
  simp only [ok, show haltsOn stOk = false from rfl, Bool.false_and, Bool.false_eq_true, if_false] at concluded
  rw [concluded, ok]
  refine Hw.stopIfDrained_stays (.inl ?_)
  rw [Hw.ring_setRing]
  split <;> exact works

end

/-! ## Header signals (R51, R80, R83, R84) -/

section
variable {h : Hw} {r : Nat} {c : Cmd}

/-- Whether a command makes its header signal when it completes, in a ring and under a plan. -/
def Cmd.Signals (c : Cmd) (module : Bool) : Prop :=
  module = false ∧ c.sigEn = true ∧ c.fail = none ∧ c.signalled = false ∧ (signalsOn c.status = true ∨ c.sigAlways = true)

/-- Its signal goes to an object that the context may signal. -/
def Cmd.SignalGoes (c : Cmd) (module : Bool) (plan : Plan) : Prop :=
  c.Signals module ∧ (plan.ownsObj c.sigObj = true ∨ ∃ i, plan.importObj c.sigObj = some i ∧ i.revoked = false ∧ i.writable = true)

/-- Its signal finds the window revoked, and its status becomes CONTEXT_GONE. -/
def Cmd.SignalGone (c : Cmd) (module : Bool) (plan : Plan) : Prop :=
  c.Signals module ∧ ¬ plan.ownsObj c.sigObj = true ∧ signalsOn c.status = true ∧ ∃ i, plan.importObj c.sigObj = some i ∧ i.revoked = true

/-- The operation of a header signal. -/
def Cmd.headerOp (c : Cmd) (r : Nat) : SyncOp :=
  { obj := c.sigObj, set := c.sigSet, value := BitVec.ofNat 64 c.sigValue, source := r, after := if c.sigRel then c.order else 0 }

theorem Cmd.signals_iff (module : Bool) : c.Signals module ↔
    ¬ (module || !c.sigEn || c.refused || c.signalled || !(signalsOn c.status || c.sigAlways)) = true := by
  simp [Cmd.Signals, Cmd.refused, or_iff_not_imp_left]

theorem Hw.headerSignal_goes (goes : c.SignalGoes (h.ring r).module (h.ctx (h.ring r).ctx).plan) : h.headerSignal r c = (c, h.sendSync (c.headerOp r)) := by
  obtain ⟨signals, own | ⟨i, window, live, writable⟩⟩ := goes
  · unfold Hw.headerSignal
    dsimp only
    rw [if_neg ((Cmd.signals_iff _).1 signals), if_pos own]
    rfl
  · unfold Hw.headerSignal
    dsimp only
    rw [if_neg ((Cmd.signals_iff _).1 signals)]
    split
    · rfl
    · simp only [window, live, writable, Bool.false_eq_true, if_false, if_true]
      rfl

theorem Hw.headerSignal_gone (gone : c.SignalGone (h.ring r).module (h.ctx (h.ring r).ctx).plan) :
    h.headerSignal r c = ({ c with status := stContextGone, detail := coordNat h.self }, h) := by
  obtain ⟨signals, foreign, on, i, window, revoked⟩ := gone
  unfold Hw.headerSignal
  dsimp only
  rw [if_neg ((Cmd.signals_iff _).1 signals), if_neg foreign]
  simp only [window, revoked, on, if_true]

theorem Hw.headerSignal_quiet (stays : ¬ c.SignalGoes (h.ring r).module (h.ctx (h.ring r).ctx).plan)
    (live : ¬ c.SignalGone (h.ring r).module (h.ctx (h.ring r).ctx).plan) : h.headerSignal r c = (c, h) := by
  unfold Hw.headerSignal
  dsimp only
  split
  · rfl
  next signals =>
    have signals := (Cmd.signals_iff _).2 signals
    split
    next own => exact absurd ⟨signals, .inl own⟩ stays
    next foreign =>
      split
      next i window =>
        split
        next revoked =>
          rw [if_neg fun on => live ⟨signals, foreign, on, i, window, revoked⟩]
        next present =>
          rw [if_neg fun writable => stays ⟨signals, .inr ⟨i, window, by simpa using present, writable⟩⟩]
      · rfl

end

end Sys2Proof.Machine
end

section
/-! PROOFS. Completions of commands: signals, records, policies and limits (02 R51, R57-R64, R69-R71; 03 R86; 11 R296; 12 R305). -/

namespace Sys2Proof.Machine

/-! ## A command leaves its ring (R51, R305) -/

section
variable {a b h : Hw} {r : Nat} {c : Cmd}

theorem Hw.Like.release {i : W32} (k : a.Like b) : (a.release r i).Like (b.release r i) :=
  ⟨(congrArg (fun h : Hw => (h.release r i).still) k.still :), k.seats⟩

/-- Carrying out a run changes module memory, and no set-up. -/
theorem Run.Like.finish {r : Run} (k : r.Like a) : ({ a with mem := r.finish.mem } : Hw).Like r.finish := by
  have written : ({ a with mem := (r.h.applyWrites r.w).mem } : Hw).Like (r.h.applyWrites r.w) :=
    ⟨(congrArg (fun g : Hw => { g with mem := (r.h.applyWrites r.w).mem }) k.still :), k.seats⟩
  rw [r.finish_mem]
  exact written.trans r.finish_like

/-- So does writing back the entries of a WAIT_PREFETCH. -/
theorem Hw.writeBack_like (h : Hw) (r : Nat) (c : Cmd) : ({ h with mem := (h.writeBack r c).mem } : Hw).Like (h.writeBack r c) := by
  unfold Hw.writeBack
  split
  next l _ =>
    have reads : Run.Like h { Run.start h 16 (h.ring r).ctx true false {} with forced := true, ring := r, order := c.order } :=
      (Hw.Like.refl h).applyEnv (e := {})
    exact Run.Like.finish (List.foldlRecOn (motive := Run.Like h) _ _ reads fun _ k _ _ => k.write.write)
  · exact .refl _

theorem Hw.writeBack_plain (plain : ∀ l, c.work ≠ .prefetch l) : h.writeBack r c = h := by
  unfold Hw.writeBack
  split
  next l prefetch => exact absurd prefetch (plain l)
  · rfl

/-- A command that has left its ring, with the entries of a WAIT_PREFETCH written and what it held freed. -/
def Hw.retired (h : Hw) (r : Nat) (c : Cmd) : Hw :=
  ((h.writeBack r c).setRing r fun w => { w with running := w.running.filter (·.index != c.index) }).release r c.index

theorem Hw.complete_eq (h : Hw) (r : Nat) (c : Cmd) : h.complete r c =
    ((h.retired r c).headerSignal r c).2.concluded r ((h.retired r c).headerSignal r c).1 := rfl

/-- A ring without a command. -/
def WorkRing.without (i : W32) (w : WorkRing) : WorkRing := { w with running := w.running.filter (·.index != i) }

theorem Hw.retired_like (h : Hw) (r : Nat) (c : Cmd) :
    ((({ h with mem := (h.writeBack r c).mem } : Hw).setRing r (WorkRing.without c.index)).release r c.index).Like (h.retired r c) :=
  ((h.writeBack_like r c).setRing r _).release

theorem Hw.retired_ring (there : r < h.rings.length) : (h.retired r c).ring r = (h.ring r).without c.index :=
  ((h.retired_like r c).ring r).trans (Hw.ring_setRing_same _ _ _ there)

theorem Hw.retired_other (k : Nat) (ne : k ≠ r) : (h.retired r c).ring k = h.ring k :=
  ((h.retired_like r c).ring k).trans (Hw.ring_setRing_other _ _ _ _ ne)

/-- What else stands: the number of rings, completion rings, objects, operations on their way, and the contexts' plans. -/
theorem Hw.retired_keeps (h : Hw) (r : Nat) (c : Cmd) :
    (h.retired r c).rings.length = h.rings.length ∧ (h.retired r c).cpls = h.cpls ∧ (h.retired r c).objs = h.objs ∧
    (h.retired r c).syncFlight = h.syncFlight ∧ (h.retired r c).mem = (h.writeBack r c).mem := by
  have like := h.retired_like r c
  exact ⟨(congrArg List.length like.rings).trans (List.length_modify ..), like.cpls, like.objs, like.syncFlight, like.mem⟩

theorem Hw.retired_evts (plain : ∀ l, c.work ≠ .prefetch l) : (h.retired r c).evts = h.evts := by
  rw [Hw.retired, Hw.writeBack_plain plain]
  rfl

/-- A command that leaves its ring with LAST_STATUS alone leaves the records that wait. -/
theorem Hw.quiet_records {l : List SyncOp} {st : Nat} (there : r < h.rings.length) :
    ((({ h.retired r c with syncFlight := l } : Hw).setRing r fun w => { w with lastStatus := st }).ring r).records = (h.ring r).records := by
  rw [Hw.ring_setRing_same _ _ _ ((h.retired_keeps r c).1 ▸ there)]
  exact (congrArg WorkRing.records (Hw.retired_ring there) :)

theorem Hw.retired_plan (n : Nat) : ((h.retired r c).ctx n).plan = (h.ctx n).plan := ((h.retired_like r c).ctx n).1

end

/-! ## A ring behind a command -/

section
variable {c : Cmd} {l : List Rec} {halts : Bool} {w : WorkRing}

theorem WorkRing.behind_running : (w.behind c l halts).running = w.running := by cases halts <;> rfl
theorem WorkRing.behind_lastStatus : (w.behind c l halts).lastStatus = c.status := by cases halts <;> rfl

end

/-! ## The end of a completion -/

/-- A command with the status and the DETAIL that its header signal leaves it. -/
def Cmd.ends (c : Cmd) (st dt : Nat) : Cmd := { c with status := st, detail := dt }

/-- The header signal of a command that has left its ring sends `l`, and leaves it a status and a DETAIL. -/
def Hw.SignalLeaves (h : Hw) (r : Nat) (c : Cmd) (st dt : Nat) (l : List SyncOp) : Prop :=
  (h.retired r c).headerSignal r c = (c.ends st dt, { h.retired r c with syncFlight := h.syncFlight ++ l })

section
variable {h : Hw} {r st dt : Nat} {c : Cmd} {l : List SyncOp}

theorem Cmd.ends_status : (c.ends st dt).status = st := rfl

theorem Hw.SignalLeaves.eq (signal : h.SignalLeaves r c st dt l) :
    (h.retired r c).headerSignal r c = (c.ends st dt, { h.retired r c with syncFlight := h.syncFlight ++ l }) := signal

/-- The conclusion of a completion whose signal sent `l` and left the status `st`, in a ring that does not go on draining. -/
theorem Hw.complete_leaves (there : r < h.rings.length)
    (signal : h.SignalLeaves r c st dt l)
    (works : (h.ring r).state = .running ∨ (h.ring r).state = .draining ∧ h.haltsWith r st = true) : ∃ records : List Rec,
    let t := h.complete r c
    t.ring r = ((h.ring r).without c.index).behind (c.ends st dt) records (h.haltsWith r st) ∧
    (∀ k, k ≠ r → t.ring k = h.ring k) ∧ t.syncFlight = h.syncFlight ++ l ∧ t.objs = h.objs ∧ t.mem = (h.writeBack r c).mem := by
  obtain ⟨length, -, objs, -, mem⟩ := h.retired_keeps r c
  have ring : (h.retired r c).ring r = (h.ring r).without c.index := Hw.retired_ring there
  have complete : h.complete r c =
      ({ h.retired r c with syncFlight := h.syncFlight ++ l } : Hw).concluded r (c.ends st dt) := by
    rw [Hw.complete_eq, Hw.SignalLeaves.eq signal]
  have halts : ({ h.retired r c with syncFlight := h.syncFlight ++ l } : Hw).haltsWith r st = h.haltsWith r st :=
    Hw.haltsWith_congr (a := h) (congrArg WorkRing.skip ring :) (congrArg WorkRing.module ring :) (congrArg WorkRing.ctx ring :) (Hw.retired_plan _) st
  obtain ⟨records, like⟩ := Hw.concluded_like (h := { h.retired r c with syncFlight := h.syncFlight ++ l }) (r := r)
    (c := c.ends st dt) (length ▸ there) (by
      rw [Cmd.ends_status, halts]
      exact works.imp (congrArg WorkRing.state ring).trans (And.imp_left (congrArg WorkRing.state ring).trans))
  rw [← complete, Cmd.ends_status, halts] at like
  refine ⟨records, (like.setRing_ring (length ▸ there)).trans (congrArg _ ring), fun k ne => (like.setRing_other k ne).trans (Hw.retired_other k ne),
    like.syncFlight, like.objs.trans objs, like.mem.trans mem⟩

/-- A conclusion without a record leaves all but LAST_STATUS. -/
theorem Hw.complete_quiet (there : r < h.rings.length)
    (signal : h.SignalLeaves r c st dt l)
    (mode : c.cplMode = 1) (ok : st = stOk) (works : (h.ring r).state ≠ .draining) :
    h.complete r c = ({ h.retired r c with syncFlight := h.syncFlight ++ l } : Hw).setRing r fun w => { w with lastStatus := st } := by
  rw [Hw.complete_eq, Hw.SignalLeaves.eq signal]
  exact Hw.concluded_quiet (c := c.ends st dt) mode ok ((congrArg WorkRing.state (Hw.retired_ring there)).trans_ne works)

theorem Cmd.SignalGoes.not_gone {module : Bool} {plan : Plan} (goes : c.SignalGoes module plan) : ¬ c.SignalGone module plan := by
  rintro ⟨_, foreign, _, i, window, revoked⟩
  obtain ⟨_, own | ⟨j, same, live, _⟩⟩ := goes
  · exact foreign own
  · cases window.symm.trans same
    cases revoked.symm.trans live

/-- The header signal, and the status that it leaves. -/
theorem Hw.headerSignal_leaves (h : Hw) (r : Nat) (c : Cmd) : let module := (h.ring r).module
    let plan := (h.ctx (h.ring r).ctx).plan
    ∃ st dt l, h.headerSignal r c = (c.ends st dt, { h with syncFlight := h.syncFlight ++ l }) ∧
    (c.SignalGoes module plan → l = [c.headerOp r]) ∧ (¬ c.SignalGoes module plan → l = []) ∧
    (c.SignalGone module plan → st = stContextGone) ∧ (¬ c.SignalGone module plan → st = c.status ∧ dt = c.detail) := by
  intro module plan
  by_cases goes : c.SignalGoes module plan
  · exact ⟨c.status, c.detail, [c.headerOp r], Hw.headerSignal_goes goes, fun _ => rfl, (absurd goes ·), (absurd · goes.not_gone), fun _ => ⟨rfl, rfl⟩⟩
  · by_cases gone : c.SignalGone module plan
    · exact ⟨stContextGone, coordNat h.self, [], by rw [Hw.headerSignal_gone gone, List.append_nil]; rfl, (absurd · goes), fun _ => rfl, fun _ => rfl, (absurd gone ·)⟩
    · exact ⟨c.status, c.detail, [], by rw [Hw.headerSignal_quiet goes gone, List.append_nil]; rfl, (absurd · goes), fun _ => rfl, (absurd · gone),
        fun _ => ⟨rfl, rfl⟩⟩

/-- The same of a command that has left its ring. -/
theorem Hw.retired_signals (there : r < h.rings.length) : let module := (h.ring r).module
    let plan := (h.ctx (h.ring r).ctx).plan
    ∃ st dt l, h.SignalLeaves r c st dt l ∧
    (c.SignalGoes module plan → l = [c.headerOp r]) ∧ (¬ c.SignalGoes module plan → l = []) ∧
    (c.SignalGone module plan → st = stContextGone) ∧ (¬ c.SignalGone module plan → st = c.status ∧ dt = c.detail) := by
  have ring : (h.retired r c).ring r = (h.ring r).without c.index := Hw.retired_ring there
  have signals := (h.retired r c).headerSignal_leaves r c
  rw [ring, Hw.retired_plan, (h.retired_keeps r c).2.2.2.1] at signals
  exact signals

end

/-! ## COMMAND_COMPLETE -/

section
variable {h : Hw} {r : Nat} {i : W32} {c : Cmd}

theorem Hw.collOf_own {k : Coll} (of : h.collOf r c = some k) : k.ring = r ∧ k.index = c.index := by
  unfold Hw.collOf at of
  split at of
  · split at of <;> cases of
    exact ⟨rfl, rfl⟩
  · cases of

/-- The slices of a collective end while it runs. -/
theorem Hw.collSettle_done (cmd : h.cmd r i = some c) (done : c.phase = .done) : h.collSettle r i = h := by
  unfold Hw.collSettle
  split
  next k of =>
    have own : k.ring = r ∧ k.index = i := Hw.cmd_index cmd ▸ Hw.collOf_own (by rwa [cmd] at of)
    have dead : h.collLive k = false := by
      rw [Hw.collLive, own.1, own.2, cmd]
      simp [done]
    refine List.foldlRecOn (motive := (· = h)) _ _ rfl fun g eq d _ => ?_
    rw [eq, Hw.sliceEnd]
    simp [dead]
  · rfl

theorem exec_commandComplete {s : State} {ring : Nat} {index : W32} (powered : s.hw.ks2.powered = true) (cmd : s.hw.cmd ring index = some c)
    (done : c.phase = .done) : exec (.commandComplete ring index) s =
      .next { s with hw := (if s.hw.awaits c.order then s.hw.signalEarly ring c else s.hw.complete ring c) } := by
  show execCommandComplete ring index s = _
  rw [execCommandComplete, act_on powered]
  simp only [Hw.collSettle_done cmd done, cmd]
  rw [if_neg (by simp [done])]

/-- Only what an update makes of commands of that index matters. -/
theorem Hw.setCmd_congr {f g : Cmd → Cmd} (same : ∀ d : Cmd, d.index = i → f d = g d) : h.setCmd r i f = h.setCmd r i g := by
  refine Hw.setRing_congr (congrArg (fun l => { h.ring r with running := l }) (List.map_congr_left fun d _ => ?_))
  split
  next here => exact same d (beq_iff_eq.1 here)
  · rfl

/-- A command is replaced by one of its index. -/
theorem Hw.cmd_replace (cmd : h.cmd r i = some c) {d : Cmd} (index : d.index = i) :
    (h.setCmd r i fun _ => d).cmd r i = some d ∧ h.OnlyCmd (h.setCmd r i fun _ => d) r i := by
  rw [Hw.setCmd_congr (g := fun x => { d with index := x.index }) fun x here => by rw [here, ← index]]
  refine ⟨?_, Hw.setCmd_onlyCmd h r i _ fun _ => rfl⟩
  refine (Hw.cmd_setCmd h r r i i (fun x => { d with index := x.index }) fun _ => rfl).trans ?_
  rw [if_pos ⟨rfl, rfl⟩, cmd, Option.map_some, Hw.cmd_index cmd, ← index]

/-- Before its accesses are acknowledged a command makes its signal, once, unless SIG_REL or its accesses hold it back. -/
theorem Hw.signalEarly_held (held : c.sigRel = true ∨ c.signalled = true ∨ h.mayLose c.order = true) : h.signalEarly r c = h := by
  unfold Hw.signalEarly
  refine if_pos ?_
  obtain rel | signalled | owed := held
  · simp [rel]
  · simp [signalled]
  · simp [owed]

theorem Hw.signalEarly_goes (free : c.sigRel = false) (silent : c.signalled = false) (safe : h.mayLose c.order = false) :
    h.signalEarly r c = (h.headerSignal r c).2.setCmd r c.index fun _ => { (h.headerSignal r c).1 with signalled := true } := by
  unfold Hw.signalEarly
  simp [free, silent, safe]

end

end Sys2Proof.Machine

namespace Sys2Proof
open Machine

/-- Settles O9, by what the header signal leaves and by what follows from the status that it leaves. -/
theorem commandCompleteAppliesPolicy : Obligations.CommandCompleteAppliesPolicy := by
  intro ring index s c w plan own signals goes gone sent powered cmd done works
  have there : ring < s.hw.rings.length := Hw.ring_there_of_state (by simp [show (s.hw.ring ring).state = _ from works])
  have isIndex : c.index = index := Hw.cmd_index cmd
  obtain ⟨st', dt, l, signal, toGoes, toStays, toGone, toLive⟩ := Hw.retired_signals (c := c) there
  obtain ⟨records, ring', others, flight, objs, mem⟩ := Hw.complete_leaves there signal (.inl works)
  have completes (acked : s.hw.awaits c.order = false) : exec (.commandComplete ring index) s = .next { s with hw := s.hw.complete ring c } := by
    rw [exec_commandComplete powered cmd done, if_neg (by simp [acked])]
  refine ⟨fun _ _ acked => ?_, fun owed => ⟨fun held => ?_, fun free silent safe => ?_⟩, fun st lost kept acked plain => ?_⟩
  · refine ⟨_, completes acked, rfl, ?_, mem⟩
    rw [ring', WorkRing.behind_running, isIndex]
    rfl
  · rw [exec_commandComplete powered cmd done, if_pos owed, Hw.signalEarly_held held]
  · rw [exec_commandComplete powered cmd done, if_pos owed, Hw.signalEarly_goes free silent safe]
    obtain ⟨st, dt, l, early, toGoes, toStays, toGone, toLive⟩ := s.hw.headerSignal_leaves ring c
    rw [early]
    obtain ⟨now, only⟩ := Hw.cmd_replace (h := { s.hw with syncFlight := s.hw.syncFlight ++ l }) cmd
      (d := { c with status := st, detail := dt, signalled := true }) isIndex
    rw [← isIndex] at now only ⊢
    refine ⟨_, rfl, rfl, ⟨_, now, done, rfl, fun live => ?_, toGone⟩, only.of_rings rfl, fun sends => ?_, fun keeps => ?_, rfl, rfl⟩
    · obtain ⟨rfl, rfl⟩ := toLive live
      rfl
    · exact congrArg (s.hw.syncFlight ++ ·) (toGoes sends)
    · exact (congrArg (s.hw.syncFlight ++ ·) (toStays keeps)).trans (List.append_nil _)
  · have same : st' = st := by
      by_cases isGone : gone
      · exact (toGone isGone).trans (lost isGone).symm
      · exact (toLive isGone).1.trans (kept isGone).symm
    subst same
    have halt : s.hw.haltsWith ring st' = true ↔ haltsOn st' = true ∧ s.hw.skips ring st' = false := by simp [Hw.haltsWith]
    refine ⟨_, completes acked, rfl, ?_, ?_, fun halts => ?_, fun goesOn => ?_, fun sends => ?_, fun keeps => ?_, fun mode ok => ?_, objs,
      mem.trans (congrArg Hw.mem (Hw.writeBack_plain plain)), others⟩
    · rw [ring', WorkRing.behind_running, isIndex]
      rfl
    · rw [ring', WorkRing.behind_lastStatus, Cmd.ends_status]
    · rw [ring', halt.2 halts, ← isIndex]
      exact ⟨rfl, rfl, rfl⟩
    · rw [ring', Bool.eq_false_iff.2 fun halts => goesOn (halt.1 halts)]
      exact ⟨works, rfl, rfl⟩
    · exact flight.trans (congrArg (s.hw.syncFlight ++ ·) (toGoes sends))
    · exact flight.trans ((congrArg (s.hw.syncFlight ++ ·) (toStays keeps)).trans (List.append_nil _))
    · rw [Hw.complete_quiet there signal mode ok (works.trans_ne nofun)]
      exact ⟨Hw.quiet_records there, (s.hw.retired_keeps ring c).2.1, Hw.retired_evts plain⟩

end Sys2Proof
end

section
/-! PROOFS. The limits of commands (02 R51, R69; 03 R86; 11 R296), and the records that completions write (02 R57-R63). -/

namespace Sys2Proof.Machine

/-! ## Limits -/

/-- A command whose header wait has expired. -/
def Cmd.timedOut (c : Cmd) : Cmd := { c with phase := .done, status := stTimeout, detail := 0 }

theorem exec_headerWaitTimeout {s : State} {ring : Nat} {c : Cmd} {rest : List Cmd} (powered : s.hw.ks2.powered = true)
    (next : (s.hw.ring ring).fetched = c :: rest) (turn : c.phase = .turn) (waits : c.waitEn = true) (below : c.satisfied = false) :
    exec (.headerWaitTimeout ring) s =
      .next { s with hw := (s.hw.setRing ring fun w => { w with fetched := rest }).complete ring c.timedOut } := by
  show execHeaderWaitTimeout ring s = _
  rw [execHeaderWaitTimeout, act_on powered, Cmd.timedOut, ← Cmd.finish_started c stTimeout 0 (by simp [turn])]
  simp [next, turn, waits, below]

/-- TIMEOUT halts a ring whatever its policy. -/
theorem Hw.haltsWith_timeout (h : Hw) (r : Nat) : h.haltsWith r stTimeout = true := by
  simp [Hw.haltsWith, Hw.skips, haltsOn, stTimeout]

theorem exec_commandTimeout {s : State} {ring : Nat} {index : W32} {c : Cmd} (powered : s.hw.ks2.powered = true) (cmd : s.hw.cmd ring index = some c)
    (wait : c.opcode = 0x03) : exec (.commandTimeout ring index) s = .next { s with hw := (
      if s.hw.awaits c.order && !c.noLimit then s.hw.accessTimeout c
      else if c.phase == .done || c.noLimit then s.hw
      else if c.phase == .blocked then s.hw.finishCmd ring index stTimeout 0 else s.hw) } := by
  show execCommandTimeout ring index s = _
  rw [execCommandTimeout, act_on powered]
  simp only [cmd, wait]
  rfl

theorem exec_collectiveTimeout {s : State} {ring : Nat} {index : W32} {c : Cmd} (powered : s.hw.ks2.powered = true) (cmd : s.hw.cmd ring index = some c)
    (collective : c.collBytes.isSome = true) (live : c.phase ≠ .done) :
    exec (.collectiveTimeout ring index) s = .next { s with hw := s.hw.finishCmd ring index stTimeout 0 } := by
  show execCollectiveTimeout ring index s = _
  rw [execCollectiveTimeout, act_on powered]
  simp [cmd, collective, live]

end Sys2Proof.Machine

namespace Sys2Proof
open Machine

/-- Settles O19: a header wait that expires completes its command as any other end does, and the other limits fix a status. -/
theorem limitsEndCommands : Obligations.LimitsEndCommands := by
  refine ⟨?_, fun ring index s c powered cmd => ⟨fun wait blocked limit safe => ?_, fun wait unlimited => ?_, fun collective live => ?_⟩⟩
  · intro ring s c rest w powered next turn waits below works
    let g := s.hw.setRing ring fun w => { w with fetched := rest }
    have there : ring < s.hw.rings.length := Hw.ring_there_of_state (by obtain runs | drains := works <;> simp_all [w])
    have gThere : ring < g.rings.length := by simpa [g] using there
    have gRing : g.ring ring = { w with fetched := rest } := Hw.ring_setRing_same _ _ _ there
    obtain ⟨st, dt, l, signal, toGoes, toStays, -, toLive⟩ := Hw.retired_signals (c := c.timedOut) gThere
    have status : st = stTimeout := (toLive fun gone => nomatch gone.2.2.1).1
    subst status
    obtain ⟨records, ring', others, flight, objs, mem⟩ := Hw.complete_leaves gThere signal (by
      rw [gRing, Hw.haltsWith_timeout]
      exact works.imp id fun drains => ⟨drains, rfl⟩)
    rw [Hw.haltsWith_timeout] at ring'
    have module : (g.ring ring).module = w.module := (congrArg WorkRing.module gRing :)
    have plan : (g.ctx (g.ring ring).ctx).plan = (s.hw.ctx w.ctx).plan := by rw [gRing]; rfl
    rw [module, plan] at toGoes toStays
    refine ⟨_, exec_headerWaitTimeout powered next turn waits below, rfl, ?_, ?_, ?_, ?_, fun quiet => ?_, fun context sigEn always sound silent own => ?_,
      objs, fun plain => mem.trans (congrArg Hw.mem (Hw.writeBack_plain (h := g) (c := c.timedOut) plain) :), fun k ne => (others k ne).trans (Hw.ring_setRing_other _ _ _ _ ne)⟩
    iterate 4 rw [ring']; rfl
    · refine flight.trans ((congrArg (s.hw.syncFlight ++ ·) (toStays ?_)).trans (List.append_nil _))
      rintro ⟨⟨_, sigEn, _, _, on | always⟩, _⟩
      · cases on
      · obtain off | off := quiet
        · cases off.symm.trans sigEn
        · cases off.symm.trans always
    · exact flight.trans (congrArg (s.hw.syncFlight ++ ·) (toGoes ⟨⟨context, sigEn, sound, silent, .inr always⟩, .inl own⟩))
  · have limited : c.noLimit = false := by simp [Cmd.noLimit, wait, limit]
    rw [exec_commandTimeout powered cmd wait, if_neg (by simp [safe]), if_neg (by simp [blocked, limited]), if_pos (by simp [blocked])]
    exact ⟨_, rfl, rfl, Hw.finishCmd_ended _ _ _ _ _ c cmd (by simp [blocked]), (Hw.finishCmd_only ..).2, rfl⟩
  · have unlimited : c.noLimit = true := by simp [Cmd.noLimit, wait, unlimited]
    rw [exec_commandTimeout powered cmd wait, if_neg (by simp [unlimited]), if_pos (by simp [unlimited])]
  · rw [exec_collectiveTimeout powered cmd collective live]
    exact ⟨_, rfl, rfl, Hw.finishCmd_ended _ _ _ _ _ c cmd live, (Hw.finishCmd_only ..).2, rfl⟩

end Sys2Proof
end

section
/-! PROOFS. The records that completions write, where they go and when, and the interrupts that announce them (02 R57-R63, R71; R429, R431). -/

namespace Sys2Proof.Machine

/-! ## A command that is to be recorded -/

section
variable {h : Hw} {r st dt : Nat} {c : Cmd} {l : List SyncOp}

/-- The machine in which a command's record is given: the command has left, its signal is on its way, and LAST_STATUS is set. -/
def Hw.ending (h : Hw) (r : Nat) (c : Cmd) (l : List SyncOp) (st : Nat) : Hw :=
  ({ h.retired r c with syncFlight := h.syncFlight ++ l } : Hw).setRing r fun w => { w with lastStatus := st }

theorem Hw.ending_ring (there : r < h.rings.length) : (h.ending r c l st).ring r = { (h.ring r).without c.index with lastStatus := st } := by
  rw [Hw.ending, Hw.ring_setRing_same _ _ _ ((h.retired_keeps r c).1 ▸ there)]
  exact congrArg (fun w : WorkRing => { w with lastStatus := st }) (Hw.retired_ring there)

theorem Hw.ending_cpls (h : Hw) (r : Nat) (c : Cmd) (l : List SyncOp) (st : Nat) : (h.ending r c l st).cpls = h.cpls := (h.retired_keeps r c).2.1

theorem Hw.ending_recordRing (there : r < h.rings.length) : ((h.ending r c l st).ring r).recordRing = (h.ring r).recordRing := by
  rw [Hw.ending_ring there]
  rfl

theorem Hw.ending_canRecord (n : Nat) : (h.ending r c l st).canRecord false n = h.canRecord false n := (h.retired_like r c).canRecord n

theorem Hw.ending_outPort (n : Nat) : (h.ending r c l st).outPort false n = h.outPort false n := (h.retired_like r c).outPort n

section
variable (plain : ∀ l, c.work ≠ .prefetch l)
include plain

/-- Where no entries are written back, event rings, hosts and accesses are as they were. -/
theorem Hw.ending_plain : (h.ending r c l st).evts = h.evts ∧ (h.ending r c l st).hosts = h.hosts ∧ (h.ending r c l st).accesses = h.accesses := by
  rw [Hw.ending, Hw.retired, Hw.writeBack_plain plain]
  exact ⟨rfl, rfl, rfl⟩

theorem Hw.ending_awaits (order : Nat) : (h.ending r c l st).awaits order = h.awaits order :=
  congrArg (fun l : List Access => l.any fun a => a.order == order && order != 0) (Hw.ending_plain plain).2.2

theorem Hw.ending_canRecord_evt (n : Nat) : (h.ending r c l st).canRecord true n = h.canRecord true n := by
  obtain ⟨evts, hosts, -⟩ := Hw.ending_plain (h := h) (r := r) (l := l) (st := st) plain
  simp only [Hw.canRecord, Hw.outPort, Hw.outRing, Hw.host, if_true, evts, hosts]

end

variable (signal : h.SignalLeaves r c st dt l)
include signal

theorem Hw.complete_ending : h.complete r c =
    (let c' : Cmd := c.ends st dt
     let g := (h.ending r c l st).giveRecord r c'
     if g.haltsWith r st then g.haltOn r c' else g).stopIfDrained r := by
  rw [Hw.complete_eq, Hw.SignalLeaves.eq signal]
  rfl

/-- A status that does not halt, in a ring that is RUNNING: the record is given, and nothing follows. -/
theorem Hw.complete_goesOn (there : r < h.rings.length) (works : (h.ring r).state = .running) (goesOn : haltsOn st = false) :
    h.complete r c = (h.ending r c l st).giveRecord r (c.ends st dt) := by
  have complete := Hw.complete_ending signal
  have ring := Hw.ending_ring (c := c) (l := l) (st := st) there
  obtain ⟨records, like⟩ := (h.ending r c l st).giveRecord_like r (c.ends st dt)
  simp only [Hw.haltsWith, goesOn, Bool.false_and, Bool.false_eq_true, if_false] at complete
  generalize (h.ending r c l st).giveRecord r (c.ends st dt) = g at like complete ⊢
  have length : r < ((h.ending r c l st).withCpls g.cpls).rings.length := Hw.ring_there_of_state (h := h.ending r c l st) (by
    rw [ring]
    exact works.trans_ne nofun)
  have state : (g.ring r).state = .running := by
    rw [like.setRing_ring length]
    exact (congrArg WorkRing.state ring).trans works
  exact complete.trans (Hw.stopIfDrained_stays (.inl (state.trans_ne nofun)))

end

/-! ## What follows leaves the records -/

/-- The records of every work ring, its LAST_STATUS, and the completion rings are the same. -/
structure Hw.SameRecords (a b : Hw) : Prop where
  cpls : b.cpls = a.cpls
  ring : ∀ k, (b.ring k).records = (a.ring k).records ∧ (b.ring k).lastStatus = (a.ring k).lastStatus

section
variable {a b h : Hw} {r n : Nat} {c : Cmd}

theorem Hw.SameRecords.refl (a : Hw) : a.SameRecords a := ⟨rfl, fun _ => ⟨rfl, rfl⟩⟩
theorem Hw.SameRecords.like (k : a.SameRecords h) (l : h.Like b) : a.SameRecords b := ⟨l.cpls.trans k.cpls, fun n => by rw [l.ring]; exact k.ring n⟩
theorem Hw.SameRecords.ite {p : Prop} [Decidable p] (k : a.SameRecords h) (l : a.SameRecords b) : a.SameRecords (if p then h else b) := by
  split <;> assumption
theorem Hw.SameRecords.foldl {α : Type} {f : Hw → α → Hw} (l : List α) (k : a.SameRecords h) (step : ∀ h x, a.SameRecords h → a.SameRecords (f h x)) :
    a.SameRecords (l.foldl f h) := List.foldlRecOn l f k fun _ ok x _ => step _ x ok
theorem Hw.SameRecords.setCtx {f : Ctx → Ctx} (k : a.SameRecords h) : a.SameRecords (h.setCtx n f) := ⟨k.cpls, k.ring⟩

theorem Hw.SameRecords.setRing {f : WorkRing → WorkRing} (k : a.SameRecords h)
    (keeps : ∀ w, (f w).records = w.records ∧ (f w).lastStatus = w.lastStatus) : a.SameRecords (h.setRing r f) := by
  refine ⟨k.cpls, fun n => ?_⟩
  rw [Hw.ring_setRing]
  split
  · exact ⟨(keeps _).1.trans (k.ring n).1, (keeps _).2.trans (k.ring n).2⟩
  · exact k.ring n

theorem Hw.SameRecords.endRevokedWaits {i : Import} (k : a.SameRecords h) : a.SameRecords (h.endRevokedWaits n i) := by
  refine ⟨k.cpls, fun m => ?_⟩
  have keeps : ((h.endRevokedWaits n i).ring m).records = (h.ring m).records ∧ ((h.endRevokedWaits n i).ring m).lastStatus = (h.ring m).lastStatus := by
    simp only [Hw.endRevokedWaits, Hw.ring, List.getD_eq_getElem?_getD, List.getElem?_map]
    cases h.rings[m]? with
    | none => exact ⟨rfl, rfl⟩
    | some w =>
      simp only [Option.map_some, Option.getD_some]
      split
      · exact ⟨rfl, rfl⟩
      split
      · split <;> exact ⟨rfl, rfl⟩
      · exact ⟨rfl, rfl⟩
  exact ⟨keeps.1.trans (k.ring m).1, keeps.2.trans (k.ring m).2⟩

theorem Hw.SameRecords.revoke (k : a.SameRecords h) : a.SameRecords (h.revoke n) :=
  .foldl _ k fun _ _ k => .ite k (.foldl _ k fun _ _ k => .ite (.endRevokedWaits (k.setCtx.like (Hw.Like.refl _).evCtx)) k)

theorem Hw.SameRecords.closeIfStopped (k : a.SameRecords h) : a.SameRecords (h.closeIfStopped n) :=
  .ite (.revoke (.ite (k.setCtx.like (Hw.Like.refl _).evCtx) k.setCtx)) k

theorem Hw.SameRecords.setRingState {st : RingState} (k : a.SameRecords h) : a.SameRecords (h.setRingState r st) :=
  (k.setRing (f := fun w => { w with state := st }) fun _ => ⟨rfl, rfl⟩).like (Hw.setRingState_like st)

theorem Hw.SameRecords.stopIfDrained (k : a.SameRecords h) : a.SameRecords (h.stopIfDrained r) := by
  have stopped : a.SameRecords ((h.setRingState r .stopped).evRing r 0x0002 r 0) := k.setRingState.like (Hw.Like.refl _).evRing
  exact .ite (.ite stopped stopped.closeIfStopped) k

theorem Hw.SameRecords.haltOn (k : a.SameRecords h) : a.SameRecords (h.haltOn r c) := by
  have halted := (k.setRing (r := r) (f := fun w => { w with head := c.index + 1, fetched := [], limit := none, drainWait := false }) fun _ => ⟨rfl, rfl⟩).setRingState
    (r := r) (st := .halted)
  exact .ite (halted.like (Hw.Like.refl _).evRing) k

end

section
variable {h : Hw} {r st dt : Nat} {c : Cmd} {l : List SyncOp}

/-- The record of a completion is the one given; LAST_STATUS is the status that the signal left. -/
theorem Hw.complete_sameRecords
    (signal : h.SignalLeaves r c st dt l) :
    ((h.ending r c l st).giveRecord r (c.ends st dt)).SameRecords (h.complete r c) := by
  rw [Hw.complete_ending signal]
  exact .stopIfDrained (.ite (.haltOn (.refl _)) (.refl _))

theorem Hw.ending_there (there : r < h.rings.length) : r < (h.ending r c l st).rings.length := by
  rw [show (h.ending r c l st).rings.length = (h.retired r c).rings.length from List.length_modify .., (h.retired_keeps r c).1]
  exact there

section
variable (there : r < h.rings.length)
  (signal : h.SignalLeaves r c st dt l)
include there signal

theorem Hw.complete_lastStatus : ((h.complete r c).ring r).lastStatus = st := by
  obtain ⟨records, like⟩ := (h.ending r c l st).giveRecord_like r (c.ends st dt)
  refine ((Hw.complete_sameRecords signal).ring r).2.trans ?_
  rw [like.setRing_ring (h := (h.ending r c l st).withCpls _) (Hw.ending_there there)]
  exact (congrArg WorkRing.lastStatus (Hw.ending_ring there) :)

variable (writes : ¬ (c.cplMode = 1 ∧ st = stOk))

theorem Hw.complete_records_none (mode : c.cplMode = 1) (ok : st = stOk) :
    ((h.complete r c).ring r).records = (h.ring r).records ∧ (h.complete r c).cpls = h.cpls := by
  have same := Hw.complete_sameRecords signal
  rw [Hw.giveRecord_none (c := c.ends st dt) mode ok] at same
  exact ⟨(same.ring r).1.trans (congrArg WorkRing.records (Hw.ending_ring there) :), same.cpls.trans (Hw.ending_cpls h r c l st)⟩

include writes

/-- A record that waits. -/
theorem Hw.complete_records_waits (waits : (h.ring r).records ≠ [] ∨
      (h.ending r c l st).canRecord (h.ring r).recordRing.1 (h.ring r).recordRing.2 = false ∨ (h.ending r c l st).awaits c.order = true) :
    (h.complete r c).cpls = h.cpls ∧ ∃ rb, ((h.complete r c).ring r).records = (h.ring r).records ++ [rb] := by
  have same := Hw.complete_sameRecords signal
  have ring := Hw.ending_ring (c := c) (l := l) (st := st) there
  rw [Hw.giveRecord_waits (c := c.ends st dt) writes (by rw [ring]; exact waits)] at same
  refine ⟨same.cpls.trans (Hw.ending_cpls h r c l st), (h.ending r c l st).waitingRecord r (c.ends st dt), (same.ring r).1.trans ?_⟩
  rw [Hw.ring_setRing_same _ _ _ (Hw.ending_there there), ring]
  rfl

/-- A record that is written. -/
theorem Hw.complete_records_put (first : (h.ring r).records = [])
    (room : (h.ending r c l st).canRecord (h.ring r).recordRing.1 (h.ring r).recordRing.2 = true) (acked : (h.ending r c l st).awaits c.order = false) :
    ((h.complete r c).ring r).records = [] ∧ ∃ f : OutRing → OutRing, (∀ o, (f o).writeTail = o.writeTail + 1) ∧
      (h.complete r c).cpls = (h.setOutRing (h.ring r).recordRing.1 (h.ring r).recordRing.2 f).cpls := by
  have same := Hw.complete_sameRecords signal
  have ring := Hw.ending_ring (c := c) (l := l) (st := st) there
  rw [Hw.giveRecord_put (c := c.ends st dt) writes (by rw [ring]; exact first) (by rw [ring]; exact room) acked, Hw.ending_recordRing there] at same
  obtain ⟨f, tail, like, -⟩ := (h.ending r c l st).putRecord_leaves (h.ring r).recordRing.1 (h.ring r).recordRing.2
    ((h.ending r c l st).recordOf r (c.ends st dt))
  refine ⟨(same.ring r).1.trans ?_, f, tail, same.cpls.trans (like.cpls.trans ?_)⟩
  · rw [like.ring, Hw.setOutRing_ring, ring]
    exact first
  · generalize (h.ring r).recordRing.1 = evt
    cases evt
    · exact congrArg (fun cpls : List OutRing => cpls.modify _ f) (Hw.ending_cpls h r c l st)
    · exact Hw.ending_cpls h r c l st

end

end

/-! ## Event rings behind a halt -/

section
variable {h : Hw} {r : Nat} {c : Cmd}

theorem Hw.outRing_setEvt (p : Nat) (f : OutRing → OutRing) :
    (h.setOutRing true p f).outRing true p = if p < h.evts.length then f (h.outRing true p) else h.outRing true p := by
  rw [Hw.outRing_setOutRing]
  simp only [true_and, if_true]

/-- An event takes at most one slot of its ring. -/
theorem Hw.deliver_tail (h : Hw) (p : Nat) (rb : List Byte) : ((h.deliver p rb).outRing true p).writeTail = (h.outRing true p).writeTail ∨
    ((h.deliver p rb).outRing true p).writeTail = (h.outRing true p).writeTail + 1 := by
  have keeps {f : OutRing → OutRing} (tail : ∀ o, (f o).writeTail = o.writeTail) :
      ((h.setOutRing true p f).outRing true p).writeTail = (h.outRing true p).writeTail := by
    rw [Hw.outRing_setEvt]
    split
    · exact tail _
    · rfl
  unfold Hw.deliver
  dsimp only
  split
  · split
    · exact .inl (keeps fun _ => rfl)
    · obtain ⟨f, tail, -, rings, -⟩ := h.putRecord_leaves true p rb
      rw [rings, Hw.outRing_setEvt]
      split
      · exact .inr (tail _)
      · exact .inl rfl
  · split
    · exact .inl rfl
    · split <;> exact .inl (keeps fun _ => rfl)

theorem Hw.evPort_tail (h : Hw) (p code src d0 d1 : Nat) : ((h.evPort p code src d0 d1).outRing true p).writeTail = (h.outRing true p).writeTail ∨
    ((h.evPort p code src d0 d1).outRing true p).writeTail = (h.outRing true p).writeTail + 1 := by
  let rb := eventBytes code src 0 0 h.logSeq (h.localNs src) d0 d1
  let g : Hw := { h.keepEvent src rb with logSeq := (h.keepEvent src rb).logSeq + 1 }
  have same : g.outRing true p = h.outRing true p := by
    unfold g Hw.keepEvent
    split <;> rfl
  exact same ▸ g.deliver_tail p rb

/-- A module ring that halts tells its port's event ring alone. -/
theorem Hw.haltOn_tail (there : r < h.rings.length) (module : (h.ring r).module = true) : let p := (h.ring r).port
    ((h.haltOn r c).outRing true p).writeTail = (h.outRing true p).writeTail ∨
    ((h.haltOn r c).outRing true p).writeTail = (h.outRing true p).writeTail + 1 := by
  intro p
  unfold Hw.haltOn
  dsimp only
  split
  · have ring := (Hw.haltRing_like (h := h) (r := r) (c := c)).setRing_ring there
    unfold Hw.evRing
    simp only [ring, WorkRing.halt, module, if_true]
    exact Hw.evPort_tail ..
  · exact .inl rfl

end

end Sys2Proof.Machine
end

section
/-! PROOFS. Records in their slots, and interrupts (02 R57-R63, R71; R429, R431). -/

namespace Sys2Proof.Machine

section
variable {h : Hw} {evt : Bool} {r n : Nat} {c : Cmd}

theorem Hw.ring_there_of_cmd {i : W32} (cmd : h.cmd r i = some c) : r < h.rings.length :=
  Hw.ring_there fun absent => by
    rw [Hw.cmd, absent] at cmd
    cases cmd

theorem Hw.outRing_there (differs : h.outRing evt n ≠ {}) : n < if evt then h.evts.length else h.cpls.length := by
  by_contra out
  cases evt <;> exact differs (List.getD_eq_default _ _ (Nat.le_of_not_lt out))

theorem Hw.outRing_setOutRing_same (differs : h.outRing evt n ≠ {}) (f : OutRing → OutRing) :
    (h.setOutRing evt n f).outRing evt n = f (h.outRing evt n) :=
  (Hw.outRing_setOutRing ..).trans (if_pos ⟨rfl, rfl, Hw.outRing_there differs⟩)

/-- A ring that takes a record is there, and its port is up. -/
theorem Hw.canRecord_there (room : h.canRecord evt n = true) : h.outRing evt n ≠ {} ∧ (h.host (h.outPort evt n)).up = true := by
  obtain ⟨⟨en, -⟩, up⟩ : (_ ∧ _) ∧ _ := by simpa only [Hw.canRecord, Bool.and_eq_true] using room
  exact ⟨fun absent => (by rw [absent] at en; cases en), up⟩

/-- The 32 bytes of a record; PHASE is still to come. -/
theorem Hw.recordOf_phase (h : Hw) (r : Nat) (c : Cmd) : (h.recordOf r c).length = 32 ∧ (h.recordOf r c).getD 7 0 = 0#8 := by
  unfold Hw.recordOf
  dsimp only
  split <;> exact ⟨rfl, rfl⟩

end

/-! ## Records go to their slot -/

/-- A command of a context's ring that leaves it OK writes its record where there is room, and nothing follows. -/
theorem Hw.complete_puts {h : Hw} {r : Nat} {c : Cmd} (there : r < h.rings.length) (ok : c.status = stOk) (mode : c.cplMode ≠ 1) (mute : c.sigEn = false)
    (acked : h.awaits c.order = false) (plain : ∀ l, c.work ≠ .prefetch l) (works : (h.ring r).state = .running) (context : (h.ring r).module = false)
    (first : (h.ring r).records = []) (room : h.canRecord false (h.ring r).cpl = true) :
    h.complete r c = (h.ending r c [] c.status).putRecord false (h.ring r).cpl (h.recordOf r c) := by
  obtain ⟨st, dt, l, signal, -, toStays, -, toLive⟩ := Hw.retired_signals (c := c) there
  obtain rfl := toStays fun goes => nomatch mute.symm.trans goes.1.2.1
  obtain ⟨rfl, rfl⟩ := toLive fun gone => nomatch mute.symm.trans gone.1.2.1
  have ring := Hw.ending_ring (c := c) (l := []) (st := c.status) there
  have recordRing : (h.ring r).recordRing = (false, (h.ring r).cpl) := by simp [WorkRing.recordRing, context]
  have record : (h.ending r c [] c.status).recordOf r c = h.recordOf r c := by
    have epoch (n : Nat) : ((h.ending r c [] c.status).ctx n).epoch = (h.ctx n).epoch := ((h.retired_like r c).ctx n).2.2.1
    simp only [Hw.recordOf, ring, WorkRing.without, epoch]
  rw [Hw.complete_goesOn signal there works (by rw [ok]; rfl)]
  exact (Hw.giveRecord_put (fun no => mode no.1) (by rw [ring]; exact first)
    (by rw [Hw.ending_recordRing there, recordRing, Hw.ending_canRecord]; exact room) (by rw [Hw.ending_awaits plain]; exact acked)).trans
    (by rw [Hw.ending_recordRing there, recordRing]; exact congrArg _ record)

theorem exec_cplRecordWrite {s : State} {ring : Nat} {rb : Rec} {rest : List Rec} (powered : s.hw.ks2.powered = true)
    (next : (s.hw.ring ring).records = rb :: rest) : let x := (s.hw.ring ring).recordRing
    exec (.cplRecordWrite ring) s = .next { s with hw := (
      if s.hw.canRecord x.1 x.2 && !s.hw.awaits rb.order then
        ((s.hw.setRing ring fun w => { w with records := rest }).putRecord x.1 x.2 rb.bytes).stopIfDrained ring
      else s.hw) } := by
  show execCplRecordWrite ring s = _
  rw [execCplRecordWrite, act_on powered]
  simp only [next]

theorem recordsGoToTheirSlot : Claims.RecordsGoToTheirSlot := by
  constructor
  · intro ring index s c w o p powered cmd done ok mode mute acked plain works context first room seat wf open_
    have there := Hw.ring_there_of_cmd cmd
    obtain ⟨present, up⟩ := Hw.canRecord_there room
    obtain ⟨length, phase⟩ := s.hw.recordOf_phase ring c
    let g := s.hw.ending ring c [] c.status
    have gHosts : g.hosts = s.hw.hosts := (Hw.ending_plain plain).2.1
    have gHost : g.host p = s.hw.host p := congrArg (·.getD p {}) gHosts
    have gRing : g.outRing false w.cpl = o := congrArg (·.getD w.cpl {}) (Hw.ending_cpls ..)
    have gPort : g.outPort false w.cpl = p := Hw.ending_outPort _
    obtain ⟨f, tail, like, rings, -⟩ := g.putRecord_leaves false w.cpl (s.hw.recordOf ring c)
    refine ⟨_, by rw [exec_commandComplete powered cmd done, if_neg (by simp [acked]),
      Hw.complete_puts there ok mode mute acked plain works context first room], ?_, ?_, ?_⟩
    · refine (congrArg WorkRing.records (like.ring ring)).trans ?_
      rw [Hw.setOutRing_ring, Hw.ending_ring there]
      exact first
    · refine (congrArg OutRing.writeTail (rings false w.cpl)).trans ?_
      rw [Hw.outRing_setOutRing_same (by rw [gRing]; exact present), tail, gRing]
    · have read := Hw.hostRead_putRecord (h := g) (evt := false) (n := w.cpl) (rb := s.hw.recordOf ring c) (by rw [gPort, gHosts]; exact seat)
        (by rw [gPort, gHost]; exact up) (by rw [gPort, gHost]; exact wf) (by rw [gPort, gHost, gRing, length]; exact open_)
      rw [gPort, gRing, length, OutRing.phased, phase, BitVec.zero_or] at read
      exact read
  · intro ring s rb rest w x o p powered next
    refine ⟨fun owed => ?_, fun acked stays room seat wf open_ => ?_⟩
    · rw [exec_cplRecordWrite powered next, if_neg (by simp [owed])]
    · let g := s.hw.setRing ring fun w => { w with records := rest }
      have there : ring < s.hw.rings.length := Hw.ring_there fun absent => by
        rw [show w = _ from absent] at next
        cases next
      obtain ⟨present, up⟩ := Hw.canRecord_there room
      obtain ⟨f, tail, like, rings, -⟩ := g.putRecord_leaves x.1 x.2 rb.bytes
      have ring' : (g.putRecord x.1 x.2 rb.bytes).ring ring = { w with records := rest } := by
        rw [like.ring, Hw.setOutRing_ring, Hw.ring_setRing_same _ _ _ there]
      rw [exec_cplRecordWrite powered next, if_pos (Bool.and_eq_true_iff.2 ⟨room, by simp [acked]⟩),
        Hw.stopIfDrained_stays (.inl (by rw [ring']; exact stays))]
      refine ⟨_, rfl, rfl, ring', fun k ne => ?_, ?_, ?_, ?_, ?_⟩
      · exact (like.ring k).trans ((Hw.setOutRing_ring ..).trans (Hw.ring_setRing_other _ _ _ _ ne))
      · refine (congrArg OutRing.writeTail (rings x.1 x.2)).trans ?_
        rw [Hw.outRing_setOutRing_same (h := g) present, tail]
        rfl
      · exact Hw.hostRead_putRecord (h := g) seat up wf open_
      · exact like.mem.trans (Hw.setOutRing_mem ..)
      · exact like.objs.trans (Hw.setOutRing_objs ..)

/-! ## Interrupts (R71, R429, R431) -/

theorem exec_irqDelayExpiry {s : State} {evt : Bool} {n : Nat} (powered : s.hw.ks2.powered = true) (runs : (s.hw.outRing evt n).irqTimer = true) :
    exec (.irqDelayExpiry evt n) s = .next { s with hw :=
      (s.hw.setOutRing evt n fun o => { o with unIrq := 0, irqTimer := false }).msixSend (s.hw.outPort evt n) (s.hw.outRing evt n).vector } := by
  show execIrqDelayExpiry evt n s = _
  rw [execIrqDelayExpiry, act_on powered]
  simp only [runs, if_true]

theorem HostPort.msixHeld_iff (q : HostPort) (v : Nat) : q.msixHeld v = false ↔
    q.up = true ∧ q.msixOn = true ∧ q.msixMask = false ∧ (q.msixDword (4 * v + 3)).getLsbD 0 = false := by
  simp only [HostPort.msixHeld, Bool.or_eq_false_iff, Bool.not_eq_false', and_assoc]

theorem Hw.msixSend_held {h : Hw} {p v : Nat} (held : (h.host p).msixHeld v = true) :
    h.msixSend p v = h.setHost p fun q => { q with pba := setIns q.pba v } := if_pos held

theorem Hw.msixSend_free {h : Hw} {p v : Nat} (free : (h.host p).msixHeld v = false) : h.msixSend p v = h.msixEmit p v :=
  if_neg (Bool.eq_false_iff.1 free)

/-- A message changes only what went out. -/
theorem Hw.msixEmit_only (h : Hw) (p v : Nat) : h.msixEmit p v =
    { h with out := if (h.host p).barred ((h.host p).msixAddr v) 4 then h.out else .msix p v :: h.out } := by
  unfold Hw.msixEmit
  split <;> rfl

theorem Hw.foldl_msixEmit (h : Hw) (p : Nat) (l : List Nat) : l.foldl (fun h v => h.msixEmit p v) h =
    { h with out := ((l.filter fun v => !(h.host p).barred ((h.host p).msixAddr v) 4).map (Out.msix p)).reverse ++ h.out } := by
  induction l generalizing h with
  | nil => rfl
  | cons v l ih =>
    rw [List.foldl_cons, ih, Hw.msixEmit_only]
    have same (out : List Out) : ({ h with out := out } : Hw).host p = h.host p := rfl
    simp only [same, List.filter_cons]
    cases (h.host p).barred ((h.host p).msixAddr v) 4 <;> simp

/-- A port whose entry is no longer masked. -/
def HostPort.unmask (e : Nat) (q : HostPort) : HostPort :=
  { q with msix := (q.msix.filter fun x => x.1 != 4 * e + 3) ++ [(4 * e + 3, 0)] }

theorem HostPort.unmask_dword (q : HostPort) (e : Nat) : (q.unmask e).msixDword (4 * e + 3) = 0 := by
  have none : (q.msix.filter fun x => x.1 != 4 * e + 3).find? (·.1 == 4 * e + 3) = none := by simp
  simp [HostPort.unmask, HostPort.msixDword, List.find?_append, none]

theorem HostPort.unmask_addr (q : HostPort) (e v : Nat) : (q.unmask e).msixAddr v = q.msixAddr v := by
  have other (i : Nat) (ne : i ≠ 4 * e + 3) : (q.unmask e).msixDword i = q.msixDword i := by
    have kept : (q.msix.filter fun x => x.1 != 4 * e + 3).find? (·.1 == i) = q.msix.find? (·.1 == i) := by
      rw [List.find?_filter]
      refine congrArg (q.msix.find? ·) (funext fun x => ?_)
      by_cases here : x.1 = i <;> simp [here, ne]
    simp only [HostPort.unmask, HostPort.msixDword, List.find?_append, kept, List.find?_cons, List.find?_nil,
      show (4 * e + 3 == i) = false by simpa using ne.symm]
    cases q.msix.find? (·.1 == i) <;> rfl
  simp only [HostPort.msixAddr, other (4 * v) (by omega), other (4 * v + 1) (by omega)]

theorem Hw.msixWrite_unmask (h : Hw) (p e : Nat) : h.msixWrite p (4 * e + 3) 0 = (h.setHost p (HostPort.unmask e)).msixFlush p := by
  have last : (4 * e + 3) % 4 = 3 := by omega
  simp only [Hw.msixWrite, last, if_true, if_neg (by decide : ¬ (0 &&& 1 : W32) = 1)]
  rfl

/-- A port whose held messages alone are pending. -/
def HostPort.keepHeld (q : HostPort) : HostPort := { q with pba := q.pba.filter fun v => q.msixHeld v }

theorem Hw.msixFlush_eq (h : Hw) (p : Nat) : h.msixFlush p = { h.setHost p HostPort.keepHeld with
    out := ((((h.host p).pba.filter fun v => !(h.host p).msixHeld v).filter fun v =>
      !((h.setHost p HostPort.keepHeld).host p).barred (((h.setHost p HostPort.keepHeld).host p).msixAddr v) 4).map (Out.msix p)).reverse ++ h.out } :=
  Hw.foldl_msixEmit ..

theorem interruptsGoOut : Claims.InterruptsGoOut := by
  constructor
  · intro evt n s o p q powered runs seat
    have present : s.hw.outRing evt n ≠ {} := fun absent => by
      rw [show o = {} from absent] at runs
      cases runs
    let g := s.hw.setOutRing evt n fun o => { o with unIrq := 0, irqTimer := false }
    have gHosts : g.hosts = s.hw.hosts := Hw.setOutRing_hosts ..
    have gHost : g.host p = q := congrArg (·.getD p {}) gHosts
    obtain ⟨only, -⟩ := g.msixSend_only p o.vector
    refine ⟨_, exec_irqDelayExpiry powered runs, rfl, ?_, ?_, ?_, ?_⟩
    · exact (congrArg Hw.rings only).trans (Hw.setOutRing_rings ..)
    · exact (congrArg Hw.mem only).trans (Hw.setOutRing_mem ..)
    · exact (congrArg (·.outRing evt n) only).trans (Hw.outRing_setOutRing_same present _)
    · cases held : q.msixHeld o.vector with
      | false =>
        rw [if_pos ((q.msixHeld_iff _).1 held)]
        have sent : g.msixSend p o.vector = { g with out := if q.barred (q.msixAddr o.vector) 4 then g.out else .msix p o.vector :: g.out } := by
          rw [Hw.msixSend_free (by rw [gHost]; exact held), Hw.msixEmit_only, gHost]
        exact ⟨(congrArg Hw.hosts sent).trans gHosts, (congrArg Hw.out sent).trans (by rw [show g.out = s.hw.out from Hw.setOutRing_out ..])⟩
      | true =>
        rw [if_neg fun free => nomatch held.symm.trans ((q.msixHeld_iff _).2 free)]
        have kept : g.msixSend p o.vector = g.setHost p fun q => { q with pba := setIns q.pba o.vector } := Hw.msixSend_held (by rw [gHost]; exact held)
        refine ⟨(congrArg (fun h : Hw => (h.host p).pba) kept).trans ?_, (congrArg Hw.out kept).trans (Hw.setOutRing_out ..)⟩
        simp only [Hw.host_setHost_same _ _ _ (gHosts ▸ seat : p < g.hosts.length), gHost]
  · intro port entry s q powered reached lit known seat
    have up : q.up = true := (Bool.and_eq_true_iff.1 reached).1
    let g := s.hw.setHost port (HostPort.unmask entry)
    have gHost : g.host port = q.unmask entry := Hw.host_setHost_same _ _ _ seat
    have unmasked : exec (.msixUnmask port entry) s = .next { s with hw := g.msixFlush port } := by
      show execMsixUnmask port entry s = _
      rw [execMsixUnmask, actFrom_on powered lit reached, if_pos known, Hw.msixWrite_unmask]
    have kHost : (g.setHost port HostPort.keepHeld).host port = (q.unmask entry).keepHeld :=
      (Hw.host_setHost_same _ _ _ (by simpa [g] using seat)).trans (congrArg _ gHost)
    have tHost : (g.msixFlush port).host port = (q.unmask entry).keepHeld := by
      rw [Hw.msixFlush_eq]
      exact kHost
    have tOut : (g.msixFlush port).out = (((q.pba.filter fun v => !(q.unmask entry).msixHeld v).filter fun v =>
        !q.barred (q.msixAddr v) 4).map (Out.msix port)).reverse ++ s.hw.out := by
      rw [Hw.msixFlush_eq]
      have addr (v : Nat) : (q.unmask entry).keepHeld.msixAddr v = q.msixAddr v := q.unmask_addr entry v
      simp only [gHost, kHost, addr]
      rfl
    refine ⟨_, unmasked, rfl, ?_, ?_, fun on open_ => ?_, fun held => ?_⟩
    · rw [Hw.msixFlush_eq]
      rfl
    · exact (congrArg (fun q : HostPort => (q.msixDword (4 * entry + 3)).getLsbD 0) tHost).trans (by
        rw [show (q.unmask entry).keepHeld.msixDword _ = 0 from q.unmask_dword entry]
        rfl)
    · have free : (q.unmask entry).msixHeld entry = false :=
        (HostPort.msixHeld_iff _ _).2 ⟨up, on, open_, by rw [HostPort.unmask_dword]; rfl⟩
      refine ⟨?_, fun pending sends => ?_⟩
      · rw [tHost]
        simp [HostPort.keepHeld, free]
      · rw [tOut]
        simp [pending, free, sends]
    · have all (v : Nat) : (q.unmask entry).msixHeld v = true := by
        refine Bool.eq_true_of_not_eq_false fun free => ?_
        obtain ⟨_, on, open_, _⟩ := (HostPort.msixHeld_iff _ _).1 free
        obtain off | masked := held
        · cases off.symm.trans on
        · cases masked.symm.trans open_
      refine ⟨?_, ?_⟩
      · rw [tHost]
        simp [HostPort.keepHeld, all]
        rfl
      · rw [tOut]
        simp [all]

end Sys2Proof.Machine

namespace Sys2Proof

/-- Settles O10, by what writing a record leaves, and by whether a vector is held. -/
theorem recordsAndInterruptsGoOut : Obligations.RecordsAndInterruptsGoOut := ⟨Machine.recordsGoToTheirSlot, Machine.interruptsGoOut⟩

end Sys2Proof
end

section
/-! PROOFS. With CPL_MODE 01 every status but OK writes a record (02 R63). -/

namespace Sys2Proof.Machine

theorem slots_advance (tail : W32) : tail + 1 ≠ tail ∧ tail + 1 + 1 ≠ tail := ⟨by bv_omega, by bv_omega⟩

section
variable {h : Hw} {r st dt : Nat} {c : Cmd} {l : List SyncOp} (there : r < h.rings.length) (signal : h.SignalLeaves r c st dt l)
  (writes : ¬ (c.cplMode = 1 ∧ st = stOk))
include there signal writes

/-- A record of a context's ring takes the next slot of its completion ring, or waits behind the others. -/
theorem Hw.complete_context (context : (h.ring r).module = false) : ∃ rb : List Rec, rb.length ≤ 1 ∧
    ((h.complete r c).ring r).records = (h.ring r).records ++ rb ∧
    ((h.complete r c).outRing false (h.ring r).cpl).writeTail = (h.outRing false (h.ring r).cpl).writeTail + BitVec.ofNat 32 (1 - rb.length) := by
  have recordRing : (h.ring r).recordRing = (false, (h.ring r).cpl) := by simp [WorkRing.recordRing, context]
  have cpl {g : Hw} (same : g.cpls = h.cpls) (n : Nat) : g.outRing false n = h.outRing false n := congrArg (·.getD n {}) same
  by_cases goes : (h.ring r).records = [] ∧ (h.ending r c l st).canRecord false (h.ring r).cpl = true ∧ (h.ending r c l st).awaits c.order = false
  · obtain ⟨first, room, acked⟩ := goes
    obtain ⟨records, f, tail, cpls⟩ := Hw.complete_records_put there signal writes first (by rw [recordRing]; exact room) acked
    refine ⟨[], Nat.zero_le _, by rw [records, first]; rfl, ?_⟩
    rw [Hw.ending_canRecord] at room
    rw [recordRing] at cpls
    have ring : (h.complete r c).outRing false (h.ring r).cpl = (h.setOutRing false (h.ring r).cpl f).outRing false (h.ring r).cpl :=
      congrArg (·.getD (h.ring r).cpl {}) cpls
    rw [ring, Hw.outRing_setOutRing_same (Hw.canRecord_there room).1, tail]
    rfl
  · obtain ⟨cpls, rb, records⟩ := Hw.complete_records_waits there signal writes
      (by rw [recordRing]; simpa only [not_and_or, Bool.not_eq_true, Bool.not_eq_false] using goes)
    refine ⟨[rb], le_refl _, records, ?_⟩
    rw [cpl cpls]
    exact (BitVec.add_zero _).symm

/-- A record of a RUNNING module ring takes a slot of its port's event ring, and the halt that may follow at most one more. -/
theorem Hw.complete_module (module : (h.ring r).module = true) (works : (h.ring r).state = .running) (plain : ∀ l, c.work ≠ .prefetch l)
    (first : (h.ring r).records = []) (room : h.canRecord true (h.ring r).port = true) (acked : h.awaits c.order = false) :
    let p := (h.ring r).port
    ((h.complete r c).outRing true p).writeTail = (h.outRing true p).writeTail + 1 ∨
    ((h.complete r c).outRing true p).writeTail = (h.outRing true p).writeTail + 1 + 1 := by
  intro p
  have recordRing : (h.ring r).recordRing = (true, p) := by simp [WorkRing.recordRing, module, p]
  have ring := Hw.ending_ring (c := c) (l := l) (st := st) there
  have evts : (h.ending r c l st).outRing true p = h.outRing true p := congrArg (·.getD p {}) (Hw.ending_plain plain).1
  have put := Hw.giveRecord_put (h := h.ending r c l st) (r := r) (c := c.ends st dt) writes (by rw [ring]; exact first)
    (by rw [Hw.ending_recordRing there, recordRing, Hw.ending_canRecord_evt plain]; exact room) (by rw [Hw.ending_awaits plain]; exact acked)
  rw [Hw.ending_recordRing there, recordRing] at put
  obtain ⟨f, tail, like, rings, -⟩ := (h.ending r c l st).putRecord_leaves true p ((h.ending r c l st).recordOf r (c.ends st dt))
  have complete := Hw.complete_ending signal
  simp only [put] at complete
  generalize (h.ending r c l st).putRecord true p ((h.ending r c l st).recordOf r (c.ends st dt)) = g at complete like rings
  have gTail : (g.outRing true p).writeTail = (h.outRing true p).writeTail + 1 := by
    rw [rings, Hw.outRing_setOutRing_same (by rw [evts]; exact (Hw.canRecord_there room).1), tail, evts]
  have gRing : g.ring r = { (h.ring r).without c.index with lastStatus := st } := (like.ring r).trans ring
  have gWorks : (g.ring r).state = .running := (congrArg WorkRing.state gRing).trans works
  have gThere : r < g.rings.length := Hw.ring_there_of_state (gWorks.trans_ne nofun)
  have gPort : (g.ring r).port = p := (congrArg WorkRing.port gRing :)
  split at complete
  · have halted : ((g.haltOn r (c.ends st dt)).ring r).state = .halted :=
      (congrArg WorkRing.state ((Hw.haltOn_like (.inl gWorks)).setRing_ring gThere) :)
    rw [Hw.stopIfDrained_stays (.inl (halted.trans_ne nofun))] at complete
    have once := Hw.haltOn_tail (c := c.ends st dt) gThere ((congrArg WorkRing.module gRing).trans module)
    simp only [gPort, gTail, ← complete] at once
    exact once
  · rw [Hw.stopIfDrained_stays (.inl (gWorks.trans_ne nofun))] at complete
    rw [complete]
    exact .inl gTail

end

end Sys2Proof.Machine

namespace Sys2Proof
open Machine

/-- Settles O57, by the status that the header signal leaves: OK makes no record, and any other is written or waits. -/
theorem okAloneWritesNoRecord : Obligations.OkAloneWritesNoRecord := by
  intro ring index s c w powered cmd done mode acked ofModule
  have there := Hw.ring_there_of_cmd cmd
  obtain ⟨st, dt, l, signal, -⟩ := Hw.retired_signals (c := c) there
  have last : ((s.hw.complete ring c).ring ring).lastStatus = st := Hw.complete_lastStatus there signal
  have completes : exec (.commandComplete ring index) s = .next { s with hw := s.hw.complete ring c } := by
    rw [exec_commandComplete powered cmd done, if_neg (by simp [acked])]
  refine ⟨_, completes, fun ok => ?_, fun other =>
    ⟨fun prefetch works => ?_, fun first context plain room => ?_, fun first module room => ?_, fun waits => ?_⟩⟩
  · have ok : st = stOk := last.symm.trans ok
    obtain ⟨records, cpls⟩ := Hw.complete_records_none there signal mode ok
    refine ⟨records, cpls, fun module => ?_⟩
    obtain ⟨works, plain⟩ := ofModule module
    rw [Hw.complete_quiet there signal mode ok (works.trans_ne nofun)]
    exact Hw.retired_evts plain
  all_goals have writes : ¬ (c.cplMode = 1 ∧ st = stOk) := fun ok => other (last.trans ok.2)
  · cases module : w.module with
    | true => exact absurd works ((ofModule module).2 prefetch)
    | false => exact Hw.complete_context there signal writes module
  · have recordRing : w.recordRing = (false, w.cpl) := by simp [WorkRing.recordRing, context]
    obtain ⟨records, f, tail, cpls⟩ := Hw.complete_records_put there signal writes first
      (by rw [show (s.hw.ring ring).recordRing = _ from recordRing, Hw.ending_canRecord]; exact room) (by rw [Hw.ending_awaits plain]; exact acked)
    rw [show (s.hw.ring ring).recordRing = _ from recordRing] at cpls
    have cpl (k : Nat) : (s.hw.complete ring c).outRing false k = (s.hw.setOutRing false w.cpl f).outRing false k := congrArg (·.getD k {}) cpls
    refine ⟨records, ?_, fun k ne => (cpl k).trans ((Hw.outRing_setOutRing ..).trans (if_neg fun same => ne same.2.1))⟩
    rw [cpl, Hw.outRing_setOutRing_same (Hw.canRecord_there room).1, tail]
  · obtain ⟨works, plain⟩ := ofModule module
    have recordRing : (s.hw.ring ring).recordRing = (true, w.port) := if_pos module
    obtain ⟨records, -⟩ := Hw.complete_records_put there signal writes first (by rw [recordRing, Hw.ending_canRecord_evt plain]; exact room)
      (by rw [Hw.ending_awaits plain]; exact acked)
    obtain tail | tail := Hw.complete_module there signal writes module works plain first room acked
    · exact ⟨records, fun same => (slots_advance _).1 (tail.symm.trans same)⟩
    · exact ⟨records, fun same => (slots_advance _).2 (tail.symm.trans same)⟩
  · refine Hw.complete_records_waits there signal writes (waits.imp id fun full => .inl ?_)
    obtain ⟨context, full⟩ | ⟨module, full⟩ := full
    · rw [show (s.hw.ring ring).recordRing = (false, w.cpl) from if_neg (ne_true_of_eq_false context), Hw.ending_canRecord]
      exact full
    · rw [show (s.hw.ring ring).recordRing = (true, w.port) from if_pos module, Hw.ending_canRecord_evt (ofModule module).2]
      exact full

end Sys2Proof
end

section
/-! PROOFS. DESCRIPTOR_FETCH (02 R45, R54). -/

namespace Sys2Proof.Machine

/-! ## The checks of a descriptor read what it names and set nothing up -/

section
variable {a h h' : Hw} {k : Chk}

theorem Run.Like.foldl_Chk {α : Type} {f : Chk → α → Chk} {l : List α} (like : k.r.Like a)
    (step : ∀ (k : Chk) x, k.r.Like a → (f k x).r.Like a) :
    (l.foldl f k).r.Like a :=
  List.foldlRecOn (motive := fun k => k.r.Like a) l f like fun _ like x _ => step _ x like

theorem Run.Like.get {cva n : Nat} (like : k.r.Like a) : (k.get cva n).2.r.Like a := by
  unfold Chk.get
  split
  · exact like
  · dsimp only
    split
    · exact like.read
    · split
      · exact like.read
      · split <;> exact like.read

theorem Run.Like.version {bs : List Byte} (like : k.r.Like a) : (k.version bs).r.Like a := by
  unfold Chk.version
  split <;> exact like

theorem Run.Like.td {slot cva detail : Nat} (like : k.r.Like a) : (k.td slot cva detail).r.Like a := by
  unfold Chk.td
  split
  · exact like
  · dsimp only
    split <;> exact like.get.version

theorem Run.Like.ownerHdrs (like : k.r.Like a) : k.ownerHdrs.r.Like a :=
  like.foldl_Chk fun _ _ like => by
    split
    · dsimp only
      split <;> exact like.get.version
    · exact like

/-- The TDs of a list of fields, and the owner-table headers that they name. -/
theorem Run.Like.tds {fields : List (Nat × Nat)} {cva detail : Nat × Nat → Nat} (like : k.r.Like a) :
    (fields.foldl (fun k f => k.td f.1 (cva f) (detail f)) k).ownerHdrs.r.Like a :=
  .ownerHdrs (like.foldl_Chk fun _ _ like => like.td)

theorem Run.Like.structures {jf1 : Bool} {bs : List Byte} (like : k.r.Like a) : (k.structures jf1 bs).r.Like a := by
  unfold Chk.structures
  extract_lets op imageAt image image1 words rest _ update _ update1 count listAt list _ list1 nested _ nested1 nested2 nop
  split
  · split
    · exact like
    · split
      · exact like.get.version
      · exact like.get.version.get
  split
  · have block : update1.r.Like a := like.get
    split
    · exact block
    · exact block.tds
  split
  · have block : list1.r.Like a := like.get
    split
    · exact like
    · split
      · exact block
      · refine .ownerHdrs (block.foldl_Chk fun _ _ like => ?_)
        dsimp only
        split
        · exact like.td
        · exact like.td.td
  split
  · have block : nested2.r.Like a := by
      dsimp only [nested2, nested1]
      split <;> exact like.get
    split
    · exact block
    · split
      · exact block
      · split
        · exact block.tds
        · exact block
  · exact like.tds

/-- Checking a descriptor may change module memory, where a read finds what it must write, and sets up nothing else anew. -/
theorem Hw.checkDescriptor_like {ring : Nat} {index : W32} {raw : List Byte} {poisoned : Bool} {e : Env} {c : Cmd}
    (checked : h.checkDescriptor ring index raw poisoned e = some (c, h')) : ({ h with mem := h'.mem } : Hw).Like h' := by
  have all : Gives (fun x : Cmd × Hw => ({ h with mem := x.2.mem } : Hw).Like x.2) (h.checkDescriptor ring index raw poisoned e) := by
    unfold Hw.checkDescriptor
    extract_lets w p op bs0 cmd want k ext a y bs k2 cmd2 r0 h1 l
    have start : k.r.Like h := .refl h
    have first : y.2.r.Like h := by
      dsimp only [y]
      split
      · exact start.get
      · exact start
    have named : k2.r.Like h := by
      dsimp only [k2]
      split
      · exact first
      · exact first.structures
    have done : ({ h with mem := h1.mem } : Hw).Like h1 := Run.Like.finish (r := r0) named
    refine .ite (.some (.refl h)) (.ite (.some (.refl h)) (.ite (.some (.refl h)) (.ite .none ?_)))
    split
    · exact .some done
    split
    · exact .some done
    split
    · exact .some done
    · exact .some done
  exact all checked

end

/-! ## A fetched command goes behind the others, and the doorbell record shows it (R43, R45) -/

section
variable {h g : Hw} {r : Nat} {c : Cmd}

/-- A ring with one more fetched command. -/
def WorkRing.took (c : Cmd) (w : WorkRing) : WorkRing := { w with fetched := w.fetched ++ [c], head := w.head + 1, told := true, due := w.told }

theorem Hw.putFetched_eq : h.putFetched r c =
    if (h.ring r).told = true then h.setRing r (WorkRing.took c) else (h.setRing r (WorkRing.took c)).devRing r := by
  have same : h.setRing r (WorkRing.took c) =
      h.setRing r fun w => { w with fetched := w.fetched ++ [c], head := w.head + 1, told := true, due := (h.ring r).told } := Hw.setRing_congr rfl
  rw [same]
  rfl

theorem Hw.putFetched_like : (h.setRing r (WorkRing.took c)).Like (h.putFetched r c) := by
  rw [Hw.putFetched_eq]
  exact .ite (.refl _) (Hw.Like.refl _).devRing

/-- Bytes written to host memory are read where they were written. -/
theorem Hw.hostRead_hostWrite {p k n : Nat} {bs : List Byte} (length : bs.length = n) (there : p < h.hosts.length) (on : h.HostOpen p k n)
    (wf : Memory.wf (h.host p).mem = true) : (h.hostWrite p k bs).hostRead p k n = bs := by
  subst length
  rw [Hw.hostRead, Hw.hostWrite, Hw.host_setHost, if_pos ⟨rfl, there⟩, if_neg (by simp [on.2]), if_pos on.1]
  exact cellRead_write k bs wf

/-- The T64's half of a doorbell record, read where it was written. -/
theorem Hw.hostRead_devRing {w : WorkRing} {p : Nat} (ring : h.ring r = w) (port : h.ringPort w = p) (there : p < h.hosts.length)
    (on : h.HostOpen p (w.dbAddr.toNat + 0x20) 32) (wf : Memory.wf (h.host p).mem = true) :
    (h.devRing r).hostRead p (w.dbAddr.toNat + 0x20) 32 = devHalf w.seqSeen w.head w.state.code := by
  subst ring port
  have length : (devHalf (h.ring r).seqSeen (h.ring r).head (h.ring r).state.code).length = 32 := by
    simp only [devHalf, List.length_append, toLe_length, zeros, List.length_replicate]
  exact Hw.hostRead_hostWrite length there on wf

/-- What host memory shows after a fetch. -/
theorem Hw.putFetched_tells {w : WorkRing} {p : Nat} (ring : h.ring r = w) (port : h.ringPort w = p) (here : r < h.rings.length) :
    (w.told = true → (h.putFetched r c).hosts = h.hosts) ∧
    (w.told = false → p < h.hosts.length → h.HostOpen p (w.dbAddr.toNat + 0x20) 32 → Memory.wf (h.host p).mem = true →
      (h.putFetched r c).hostRead p (w.dbAddr.toNat + 0x20) 32 = devHalf w.seqSeen (w.head + 1) w.state.code) := by
  subst ring port
  rw [Hw.putFetched_eq]
  refine ⟨fun told => by rw [if_pos told]; rfl, fun untold there on wf => ?_⟩
  rw [if_neg (ne_true_of_eq_false untold)]
  have took : (h.setRing r (WorkRing.took c)).ring r = (h.ring r).took c := Hw.ring_setRing_same _ _ _ here
  have port : (h.setRing r (WorkRing.took c)).ringPort ((h.ring r).took c) = h.ringPort (h.ring r) := rfl
  exact Hw.hostRead_devRing took port there on wf

end

/-! ## The fetch -/

theorem exec_descriptorFetch {ring : Nat} {env : Env} {s : State} (powered : s.hw.ks2.powered = true) (left : (s.hw.ring ring).canFetch = true)
    (up : (s.hw.host (s.hw.ringPort (s.hw.ring ring))).up = true) :
    exec (.descriptorFetch ring env) s = .next { s with hw := (s.hw.fetchOne ring env).getD s.hw } := by
  have fetch : exec (.descriptorFetch ring env) s = execDescriptorFetch ring env s := rfl
  rw [fetch, execDescriptorFetch, act_on powered]
  have goes : ((s.hw.ring ring).canFetch && (s.hw.host (s.hw.ringPort (s.hw.ring ring))).up) = true := by rw [left, up]; rfl
  exact congrArg (fun h => Host.Outcome.next { s with hw := h }) (if_pos goes)

/-- Where a ring's descriptor at HEAD lies, and its length. -/
def WorkRing.descriptorLen (w : WorkRing) : Nat := if w.jf1 then 32 else 64
def WorkRing.descriptorAt (w : WorkRing) : Nat := w.base.toNat + w.descriptorLen * (w.head.toNat % w.size)

section
variable {h : Hw} {r : Nat} {e : Env}

/-- The command that stands for a descriptor that could not be read. -/
def WorkRing.unread (w : WorkRing) : Cmd := { index := w.head, jf1 := w.jf1, bytes := zeros 64, fail := some (badXlat w.descriptorAt) }

theorem Hw.fetchOne_eq (h : Hw) (r : Nat) (e : Env) : h.fetchOne r e =
    (let w := h.ring r
     let p := h.ringPort w
     let f := h.readEnv p w.descriptorAt w.descriptorLen e
     let g := (h.applyEnv f).hostPoisonRead p w.descriptorAt f
     if f.hostFail && !f.hostPoison then some (g.putFetched r w.unread)
     else (g.checkDescriptor r w.head (g.hostRead p w.descriptorAt w.descriptorLen) f.hostPoison f).map fun x => x.2.putFetched r x.1) := by
  have checked (o : Option (Cmd × Hw)) : (match o with | some (c, h) => some (h.putFetched r c) | none => none) =
      o.map fun x => x.2.putFetched r x.1 := by cases o <;> rfl
  dsimp only
  rw [← checked]
  rfl

theorem Hw.fetchOne_fails : let w := h.ring r
    (h.host (h.ringPort w)).barred w.descriptorAt w.descriptorLen = true ∨ e.hostFail = true ∧ e.hostPoison = false →
    h.fetchOne r e = some ((h.applyEnv e).putFetched r w.unread) := by
  intro w fails
  have seen : let f := h.readEnv (h.ringPort w) w.descriptorAt w.descriptorLen e
      f.hostFail = true ∧ f.hostPoison = false ∧ f.host = e.host := by
    unfold Hw.readEnv
    split
    · exact ⟨rfl, rfl, rfl⟩
    next open_ =>
      obtain ⟨fail, clean⟩ := fails.resolve_left open_
      exact ⟨fail, clean, rfl⟩
  obtain ⟨fail, clean, host⟩ := seen
  rw [Hw.fetchOne_eq]
  dsimp only
  rw [if_pos (by rw [fail, clean]; rfl), Hw.hostPoisonRead_clean clean, Hw.applyEnv, host]
  rfl

theorem Hw.fetchOne_reads {c : Cmd} {h' : Hw} : let w := h.ring r
    let g := (h.applyEnv e).hostPoisonRead (h.ringPort w) w.descriptorAt e
    (h.host (h.ringPort w)).up = true →
    ¬ ((h.host (h.ringPort w)).barred w.descriptorAt w.descriptorLen = true ∨ e.hostFail = true ∧ e.hostPoison = false) →
    g.checkDescriptor r w.head (g.hostRead (h.ringPort w) w.descriptorAt w.descriptorLen) e.hostPoison e = some (c, h') →
    h.fetchOne r e = some (h'.putFetched r c) := by
  intro w g up reads checked
  obtain ⟨open_, comes⟩ := not_or.1 reads
  rw [Hw.fetchOne_eq]
  dsimp only
  rw [Hw.readEnv_open ⟨up, eq_false_of_ne_true open_⟩, if_neg fun no => comes (by simpa using no), checked]
  rfl

end

end Sys2Proof.Machine

namespace Sys2Proof
open Machine

/-- Settles O7, by the two ends of a fetch: the command that stands for a failed read, and the checked one. Either is put on a machine whose
rings, contexts and host ports are set up as before, since checking a descriptor reads what it names. -/
theorem descriptorFetchAdvancesHead : Obligations.DescriptorFetchAdvancesHead := by
  intro ring env s w p n a h fails tells powered there left up
  have fetched := exec_descriptorFetch (env := env) powered left up
  refine ⟨fun bad => ?_, fun good c h' checked => ?_⟩
  · have like : s.hw.Like (s.hw.applyEnv env) := (Hw.Like.refl s.hw).applyEnv
    refine ⟨_, fetched.trans (congrArg (fun o : Option Hw => Host.Outcome.next { s with hw := o.getD s.hw }) (Hw.fetchOne_fails bad)), ?_, ?_⟩
    · exact Hw.putFetched_tells (like.ring ring) (like.ringPort _) (by rwa [like.rings])
    · exact ((like.setRing ring _).trans Hw.putFetched_like).setRing_ring there
  · have like : s.hw.Like h := (Hw.Like.refl s.hw).applyEnv.hostPoisonRead
    have checks := Hw.checkDescriptor_like checked
    have rings : h'.rings = s.hw.rings := checks.rings.trans like.rings
    have ringOf (k : Nat) : h'.ring k = s.hw.ring k := congrArg (·.getD k {}) rings
    have there' : ring < h'.rings.length := by rwa [rings]
    have put := Hw.putFetched_like (h := h') (r := ring) (c := c)
    refine ⟨{ s with hw := h'.putFetched ring c },
      fetched.trans (congrArg (fun o : Option Hw => Host.Outcome.next { s with hw := o.getD s.hw }) (Hw.fetchOne_reads up good checked)),
      rfl, ?_, ?_, fun k ne => ?_⟩
    · exact Hw.putFetched_tells (ringOf ring) ((checks.ringPort _).trans (like.ringPort _)) there'
    · rw [put.setRing_ring there', ringOf]
      rfl
    · rw [put.setRing_other k ne, ringOf]

end Sys2Proof
end

section
/-! PROOFS. WAIT and the operations on synchronisation objects (03 R83-R87). -/

namespace Sys2Proof.Machine

/-! ## WAIT (R86, R87) -/

/-- A WAIT on an object that it may name, with a limit or at EXPERT: it ends with its acquire, or blocks. -/
def Hw.waitOn (h : Hw) (r : Nat) (i : W32) (c : Cmd) : Hw :=
  if c.f 0x20 8 ≤ (h.obj (bits (c.f 0x1A 2) 12 0)).toNat then
    (if (c.f 0x18 1).testBit 0 then h.acquire else h).finishCmd r i stOk 0
  else h.block r i

/-- The meaning of a started WAIT. -/
def Hw.waitBody (h : Hw) (r : Nat) (i : W32) (c : Cmd) : Hw :=
  let p := (h.ctx (h.ring r).ctx).plan
  let obj := bits (c.f 0x1A 2) 12 0
  if !p.ownsObj obj && (p.importObj obj).isNone then h.conflict r i 0x0102
  else if c.f 0x1C 4 = 0xFFFFFFFF ∧ p.expert = false then h.conflict r i 0x0103
  else if p.ownsObj obj then h.waitOn r i c
  else match p.importObj obj with
    | some w => if w.revoked then h.finishCmd r i stContextGone (coordNat h.self) else h.waitOn r i c
    | none => h

theorem exec_wait_ready {ring : Nat} {index : W32} {s : State} {c : Cmd} (ready : s.hw.Ready ring index 0x03 c) :
    exec (.wait ring index) s = .next { s with hw := s.hw.waitBody ring index c } := by
  show execWait ring index s = _
  rw [execWait, act_on ready.1, Hw.onCmd_ready ready, if_neg (by simp [ready.2.2.1])]
  rfl

/-- An end of a WAIT, or its block, changes its command and, with an acquire, the dies. -/
structure Hw.OnlyWaits (a b : Hw) (r : Nat) (i : W32) : Prop where
  cmd : a.OnlyCmd b r i
  rest : b = { a with rings := b.rings, dies := b.dies }

section
variable {h : Hw} {r : Nat} {i : W32} {c : Cmd}

theorem Hw.finishCmd_onlyWaits (st dt : Nat) : h.OnlyWaits (h.finishCmd r i st dt) r i := ⟨(Hw.finishCmd_only ..).2, rfl⟩

section
variable (ready : h.Ready r i 0x03 c)
include ready

theorem Hw.waitOn_above (above : c.f 0x20 8 ≤ (h.obj (bits (c.f 0x1A 2) 12 0)).toNat) :
    h.OnlyWaits (h.waitOn r i c) r i ∧ (h.waitOn r i c).Ended r i 0 0 ∧
    ((c.f 0x18 1).testBit 0 = true → ∀ d, ((h.waitOn r i c).die d).rcLines = []) := by
  have cmd := ready.2.1
  have live : c.phase ≠ .done := by simp [ready.2.2.1]
  rw [Hw.waitOn, if_pos above]
  cases (c.f 0x18 1).testBit 0 with
  | false => exact ⟨Hw.finishCmd_onlyWaits _ _, ready.ended _ _, nofun⟩
  | true => exact ⟨⟨(Hw.finishCmd_only h.acquire ..).2.of_rings rfl, rfl⟩, Hw.finishCmd_ended _ _ _ _ _ c cmd live, fun _ d => h.acquire_empties d⟩

theorem Hw.waitOn_below (below : (h.obj (bits (c.f 0x1A 2) 12 0)).toNat < c.f 0x20 8) :
    h.OnlyWaits (h.waitOn r i c) r i ∧ (h.waitOn r i c).cmd r i = some { c with phase := .blocked } ∧ (h.waitOn r i c).dies = h.dies := by
  rw [Hw.waitOn, if_neg (Nat.not_le.2 below)]
  exact ⟨⟨Hw.block_only .., rfl⟩, Hw.block_cmd ready.2.1, rfl⟩

end

section
variable {p : Plan} {obj : Nat} (plan : (h.ctx (h.ring r).ctx).plan = p) (names : bits (c.f 0x1A 2) 12 0 = obj)
include plan names

theorem Hw.waitBody_unnamed (foreign : p.ownsObj obj = false) (unknown : p.importObj obj = none) : h.waitBody r i c = h.conflict r i 0x0102 := by
  simp [Hw.waitBody, plan, names, foreign, unknown]

theorem Hw.waitBody_unlimited (known : ¬ (p.ownsObj obj = false ∧ p.importObj obj = none)) (unlimited : c.f 0x1C 4 = 0xFFFFFFFF ∧ p.expert = false) :
    h.waitBody r i c = h.conflict r i 0x0103 := by
  simp only [Hw.waitBody, plan, names]
  rw [if_neg (by simpa using known), if_pos unlimited]

theorem Hw.waitBody_gone {w : Import} (foreign : p.ownsObj obj = false) (window : p.importObj obj = some w) (revoked : w.revoked = true)
    (limited : ¬ (c.f 0x1C 4 = 0xFFFFFFFF ∧ p.expert = false)) : h.waitBody r i c = h.finishCmd r i stContextGone (coordNat h.self) := by
  simp [Hw.waitBody, plan, names, foreign, window, revoked, limited]

theorem Hw.waitBody_named (named : p.ownsObj obj = true ∨ ∃ w, p.importObj obj = some w ∧ w.revoked = false)
    (limited : ¬ (c.f 0x1C 4 = 0xFFFFFFFF ∧ p.expert = false)) : h.waitBody r i c = h.waitOn r i c := by
  by_cases own : p.ownsObj obj = true
  · simp [Hw.waitBody, plan, names, own, limited]
  · obtain ⟨w, window, live⟩ := named.resolve_left own
    simp [Hw.waitBody, plan, names, own, window, live, limited]

end
end

end Sys2Proof.Machine

namespace Sys2Proof
open Machine

/-- Settles O17, by the cases of the object that a WAIT names: one that its context may not name, one of a revoked window, or one that it
may, with a limit or without. -/
theorem waitEndsOrBlocks : Obligations.WaitEndsOrBlocks := by
  intro ring index s c p obj unlimited named ready
  rw [exec_wait_ready ready]
  refine ⟨_, rfl, rfl, ?_⟩
  have ends (st dt : Nat) : s.hw.OnlyWaits (s.hw.finishCmd ring index st dt) ring index ∧ (s.hw.finishCmd ring index st dt).Ended ring index st dt :=
    ⟨Hw.finishCmd_onlyWaits st dt, ready.ended st dt⟩
  by_cases known : p.ownsObj obj = false ∧ p.importObj obj = none
  · obtain ⟨foreign, unknown⟩ := known
    have noWindow {P : Prop} {i : Import} (window : p.importObj obj = some i) : P := nomatch unknown.symm.trans window
    have unnamed : ¬ named := by simp [named, foreign, unknown]
    obtain ⟨⟨only, rest⟩, ended⟩ := ends 0x0C 0x0102
    rw [Hw.waitBody_unnamed rfl rfl foreign unknown]
    exact ⟨only, rest, (absurd · unnamed), (absurd · unnamed), (absurd · unnamed), fun _ _ window _ _ => noWindow window,
      fun _ _ => ended⟩
  have notUnknown {P : Prop} (foreign : p.ownsObj obj = false) (unknown : p.importObj obj = none) : P := absurd ⟨foreign, unknown⟩ known
  by_cases limit : unlimited
  · obtain ⟨⟨only, rest⟩, ended⟩ := ends 0x0C 0x0103
    rw [Hw.waitBody_unlimited rfl rfl known limit]
    exact ⟨only, rest, fun _ limited => absurd limit limited, fun _ limited => absurd limit limited, fun _ _ => ended,
      fun _ _ _ _ limited => absurd limit limited, notUnknown⟩
  by_cases may : named
  · have notGone {P : Prop} (i : Import) (foreign : p.ownsObj obj = false) (window : p.importObj obj = some i) (revoked : i.revoked = true) : P := by
      obtain own | ⟨j, same, live⟩ := may
      · exact nomatch foreign.symm.trans own
      · cases window.symm.trans same
        exact nomatch revoked.symm.trans live
    rw [Hw.waitBody_named rfl rfl may limit]
    by_cases above : c.f 0x20 8 ≤ (s.hw.obj obj).toNat
    · obtain ⟨⟨only, rest⟩, ended, emptied⟩ := Hw.waitOn_above ready above
      exact ⟨only, rest, fun _ _ _ => ⟨ended, emptied⟩, fun _ _ below => absurd above (Nat.not_le.2 below), fun _ l => absurd l limit,
        fun i foreign window revoked _ => notGone i foreign window revoked, notUnknown⟩
    · obtain ⟨⟨only, rest⟩, blocked, dies⟩ := Hw.waitOn_below ready (Nat.lt_of_not_le above)
      exact ⟨only, rest, fun _ _ l => absurd l above, fun _ _ _ => ⟨blocked, dies⟩, fun _ l => absurd l limit,
        fun i foreign window revoked _ => notGone i foreign window revoked, notUnknown⟩
  · have foreign : p.ownsObj obj = false := Bool.eq_false_iff.2 fun own => may (.inl own)
    cases window : p.importObj obj with
    | none => exact notUnknown foreign window
    | some w =>
      have revoked : w.revoked = true := by
        by_contra live
        exact may (.inr ⟨w, window, Bool.eq_false_iff.2 live⟩)
      obtain ⟨⟨only, rest⟩, ended⟩ := ends 0x13 (coordNat s.hw.self)
      rw [Hw.waitBody_gone rfl rfl foreign window revoked limit]
      exact ⟨only, rest, (absurd · may), (absurd · may), (absurd · may), fun _ _ _ _ _ => ended, nofun⟩

end Sys2Proof
end

section
/-! PROOFS. The operations on synchronisation objects at their homes (03 R84-R87). -/

namespace Sys2Proof.Machine

/-! ## What a new value does to waits (R84, R86) -/

/-- A running command of a ring after an object has taken a value. -/
def Cmd.meet (o v : Nat) (c : Cmd) : Cmd :=
  if (c.opcode == 0x03 || c.opcode == 0x04) && c.phase == .blocked && !c.satisfied && bits (c.f 0x1A 2) 12 0 == o && decide (c.f 0x20 8 ≤ v) then
    (let c : Cmd := { c with satisfied := true }; if c.opcode = 0x03 then c.finish stOk 0 else c)
  else c

theorem WorkRing.satisfy_running (w : WorkRing) (o v : Nat) : (w.satisfy o v).1.running = w.running.map (Cmd.meet o v) := rfl

theorem Cmd.meet_index (o v : Nat) (c : Cmd) : (c.meet o v).index = c.index := by
  unfold Cmd.meet
  split
  · dsimp only
    split
    · exact Cmd.finish_index _ _ _
    · rfl
  · rfl

section
variable {o v : Nat} {c : Cmd}

/-- A WAIT whose object has reached its threshold ends OK. -/
theorem Cmd.meet_wait (wait : c.opcode = 0x03) (blocked : c.phase = .blocked) (waits : c.satisfied = false) (on : bits (c.f 0x1A 2) 12 0 = o)
    (reached : c.f 0x20 8 ≤ v) : c.meet o v = { c with satisfied := true, phase := .done, status := 0, detail := 0 } := by
  unfold Cmd.meet
  rw [if_pos (by simp [wait, blocked, waits, on, reached])]
  have wait' : Cmd.opcode { c with satisfied := true } = 0x03 := wait
  simp only [wait', if_true]
  exact Cmd.finish_started _ _ _ (by simp [blocked])

end

/-- Commands of a ring after a change that keeps their indexes. -/
theorem find_map_keep (l : List Cmd) (i : W32) (f : Cmd → Cmd) (keep : ∀ c, (f c).index = c.index) :
    (l.map f).find? (·.index == i) = (l.find? (·.index == i)).map f := by
  rw [List.find?_map]
  exact congrArg (Option.map f) (congrArg (fun p => l.find? p) (funext fun c => congrArg (· == i) (keep c)))

section
variable {h : Hw} {o n r : Nat} {v : W64} {i : W32} {c : Cmd}

/-- Any number of acquires changes the dies alone. -/
theorem Hw.acquires_only (k : Nat) (h : Hw) : forN k h (fun h _ => h.acquire) = { h with dies := (forN k h fun h _ => h.acquire).dies } :=
  List.foldlRecOn (motive := fun g : Hw => g = { h with dies := g.dies }) (List.range k) (fun h _ => h.acquire) rfl fun g eq _ _ => by rw [eq]; rfl

/-- An object takes a value: beside it only the waits on it, and the caches that their acquires empty, change. -/
theorem Hw.setAndSatisfy_only (h : Hw) (o : Nat) (v : W64) : h.setAndSatisfy o v =
    { h.setObj o v with rings := h.rings.map fun w => (w.satisfy o v.toNat).1, dies := (h.setAndSatisfy o v).dies } := by
  have rings : ((h.setObj o v).rings.map fun w => w.satisfy o v.toNat).map (·.1) = h.rings.map fun w => (w.satisfy o v.toNat).1 := by
    rw [List.map_map]; rfl
  unfold Hw.setAndSatisfy
  dsimp only
  rw [rings]
  exact Hw.acquires_only _ _

theorem Hw.setAndSatisfy_cmd (h : Hw) (o : Nat) (v : W64) (r : Nat) (i : W32) : (h.setAndSatisfy o v).cmd r i = (h.cmd r i).map (Cmd.meet o v.toNat) := by
  have ring : (h.setAndSatisfy o v).ring r = ((h.ring r).satisfy o v.toNat).1 := by
    rw [Hw.setAndSatisfy_only]
    exact List.getD_map h.rings {} fun w : WorkRing => (w.satisfy o v.toNat).1
  rw [Hw.cmd, ring, WorkRing.satisfy_running, find_map_keep _ _ _ (Cmd.meet_index o v.toNat)]
  rfl

/-- Ending a command does not undo the end of one. -/
theorem Hw.Ended.finishCmd {st dt st' dt' : Nat} {k : Nat} {j : W32} (ended : h.Ended r i st dt) : (h.finishCmd k j st' dt').Ended r i st dt := by
  obtain ⟨c, cmd, done, status, detail⟩ := ended
  refine ⟨c, ?_, done, status, detail⟩
  unfold Hw.finishCmd
  rw [Hw.cmd_setCmd _ _ _ _ _ _ fun c => Cmd.finish_index c _ _, cmd]
  have : c.finish st' dt' = c := by simp [Cmd.finish, done]
  split <;> simp [this]

theorem Hw.Ended.of_rings {a b : Hw} {st dt : Nat} (ended : a.Ended r i st dt) (same : b.rings = a.rings) : b.Ended r i st dt := by
  unfold Hw.Ended Hw.cmd Hw.ring at *
  rwa [same]

end

/-! ## SYNC_OPERATION (R84) -/

/-- The value that an operation gives its object (R84). -/
def Hw.newValue (h : Hw) (o : SyncOp) : W64 :=
  if o.set then o.value else BitVec.ofNat 64 (min ((h.obj o.obj).toNat + o.value.toNat) (2 ^ 64 - 1))

theorem Hw.newValue_toNat (h : Hw) (o : SyncOp) : (h.newValue o).toNat =
    if o.set then o.value.toNat else min ((h.obj o.obj).toNat + o.value.toNat) (2 ^ 64 - 1) := by
  unfold Hw.newValue
  split
  · rfl
  · rw [BitVec.toNat_ofNat]
    exact Nat.mod_eq_of_lt (by omega)

/-- A saturating ADD is told where the object has an owner. -/
def Hw.tellsSat (h : Hw) (o : SyncOp) : Hw :=
  if !o.set && decide (2 ^ 64 ≤ (h.obj o.obj).toNat + o.value.toNat) then
    (match h.objOwner o.obj with | some n => h.evCtx n 0x0108 (srcDie (o.obj / 512)) o.obj 0 | none => h)
  else h

/-- What follows once an operation has been applied: its SIGNAL ends, or its answer goes. -/
def Hw.answersSync (h : Hw) (o : SyncOp) (owner : Option Nat) : Hw :=
  let h := match o.waiter with | some x => h.finishCmd x.1 x.2 stOk 0 | none => h
  match o.reply, owner with
  | some (c, _, id), some n => h.sendCtx n c 2 none (.applied id true)
  | _, _ => h

theorem Hw.applySync_eq (h : Hw) (o : SyncOp) :
    h.applySync o = ((h.tellsSat o).setAndSatisfy o.obj (h.newValue o)).answersSync o (h.objOwner o.obj) := rfl

theorem Hw.tellsSat_like (h : Hw) (o : SyncOp) : h.Like (h.tellsSat o) := by
  refine .ite ?_ (.refl h)
  split
  · exact (Hw.Like.refl h).evCtx
  · exact .refl h

theorem Hw.answersSync_leaves (h : Hw) (o : SyncOp) (owner : Option Nat) : let t := h.answersSync o owner
    t.mem = h.mem ∧ t.syncFlight = h.syncFlight ∧ t.objs = h.objs ∧ ∀ r i st dt, h.Ended r i st dt → t.Ended r i st dt := by
  let g := match o.waiter with | some x => h.finishCmd x.1 x.2 stOk 0 | none => h
  have ends : g.mem = h.mem ∧ g.syncFlight = h.syncFlight ∧ g.objs = h.objs ∧ ∀ r i st dt, h.Ended r i st dt → g.Ended r i st dt := by
    unfold g
    split
    · exact ⟨rfl, rfl, rfl, fun _ _ _ _ ended => ended.finishCmd⟩
    · exact ⟨rfl, rfl, rfl, fun _ _ _ _ => id⟩
  have answers : g.Like (h.answersSync o owner) := by
    show g.Like (match o.reply, owner with | some (c, _, id), some n => g.sendCtx n c 2 none (.applied id true) | _, _ => g)
    split
    · exact (Hw.Like.refl g).sendAs
    · exact .refl g
  obtain ⟨mem, flight, objs, ended⟩ := ends
  exact ⟨answers.mem.trans mem, answers.syncFlight.trans flight, answers.objs.trans objs,
    fun r i st dt e => (ended r i st dt e).of_rings answers.rings⟩

/-- An operation that is applied gives its object its value and ends the waits that it meets; memory, the other objects and the operations
on their way stand. -/
theorem Hw.applySync_leaves (h : Hw) (o : SyncOp) : let t := h.applySync o
    t.mem = h.mem ∧ t.syncFlight = h.syncFlight ∧ (∀ k, t.obj k = if k = o.obj then h.newValue o else h.obj k) ∧
    ∀ r i c d, h.cmd r i = some c → c.meet o.obj (h.newValue o).toNat = d → d.phase = .done → t.Ended r i d.status d.detail := by
  have told := h.tellsSat_like o
  rw [Hw.applySync_eq]
  generalize h.tellsSat o = g at told
  obtain ⟨mem, flight, objs, ends⟩ := (g.setAndSatisfy o.obj (h.newValue o)).answersSync_leaves o (h.objOwner o.obj)
  have only := g.setAndSatisfy_only o.obj (h.newValue o)
  have gObj (k : Nat) : g.obj k = h.obj k := congrArg (fun l : List (Nat × W64) => match l.find? (·.1 == k) with | some x => x.2 | none => 0) told.objs
  refine ⟨mem.trans ?_, flight.trans ?_, fun k => ?_, fun r i c d cmd met done => ends r i _ _ ⟨d, ?_, done, rfl, rfl⟩⟩
  · rw [only]; exact told.mem
  · rw [only]; exact told.syncFlight
  · rw [← gObj, ← Hw.obj_setObj, Hw.obj, objs, only]
    rfl
  · rw [Hw.setAndSatisfy_cmd, Hw.cmd, told.ring, show (h.ring r).running.find? (·.index == i) = some c from cmd, Option.map_some, met]

end Sys2Proof.Machine

namespace Sys2Proof
open Machine

/-- Settles O18, by what the new value of the object does to the waits on it. -/
theorem syncOperationApplies : Obligations.SyncOperationApplies := by
  intro n s o new powered there ready
  let h : Hw := { s.hw with syncFlight := s.hw.syncFlight.eraseIdx n }
  have value : (h.newValue o).toNat = new := h.newValue_toNat o
  have applies : exec (.syncOperation n false) s = .next { s with hw := h.applySync o } := by
    show execSyncOperation n false s = _
    rw [execSyncOperation, act_on powered]
    simp only [there, ready]
    rfl
  obtain ⟨mem, flight, obj, ends⟩ := h.applySync_leaves o
  refine ⟨_, applies, rfl, mem, flight, ?_, fun k other => ?_, fun r i c cmd wait blocked waits on reached => ?_⟩
  · rw [obj, if_pos rfl, value]
  · rw [obj, if_neg other]
    rfl
  · exact ends r i c _ cmd (Cmd.meet_wait wait blocked waits on (value ▸ reached)) rfl

end Sys2Proof
end

section
/-! SUPPORT. Runs that read and write channel groups, and those that advance a WAIT_PREFETCH, leave the set-up of the machine (04 R96-R121;
12 R302-R309). -/

namespace Sys2Proof.Machine

/-! ## Channel groups (R97, R110, R121) -/

section
variable {a : Hw} {r : Run} {v : View} {idx : List Nat} {k n cva die : Nat} {c : Coord} {bs : List Byte} {po : List Nat}

theorem Run.Like.foldl {α : Type} {f : Run → α → Run} (l : List α) (like : r.Like a) (step : ∀ r x, r.Like a → (f r x).Like a) : (l.foldl f r).Like a :=
  List.foldlRecOn (motive := Run.Like a) l f like fun _ like x _ => step _ x like

theorem Run.Like.view {t : TD} {o : Option OwnerHdr} (like : r.Like a) : (r.view t o).2.Like a := by
  unfold Run.view
  split
  exacts [like, like.read]

theorem Run.Like.toPeer (like : r.Like a) : (r.toPeer c cva n).Like a :=
  .ite like (by
    split
    · exact like
    · exact like
    · exact like
    · split <;> exact like)

theorem Run.Like.readPeer (like : r.Like a) : (r.readPeer c die cva n).2.Like a := .ite_2 like.toPeer (.readPoison like.toPeer)

theorem Run.Like.rawGrp (like : r.Like a) : (r.rawGrp v idx k).2.Like a := by
  unfold Run.rawGrp
  dsimp only
  split
  · exact .ite_2 (.read like.readN) like.readN
  · exact .ite_2 like.readPeer.readPeer like.readPeer
  · exact like

theorem Run.Like.grp (like : r.Like a) : (r.grp v idx k).2.Like a := like.rawGrp

theorem Run.Like.writeGroups (like : r.Like a) : (r.writeGroups cva bs po).Like a := .ite like.write (.foldl _ like fun _ _ like => like.write)

theorem Run.Like.writePeer {p : Bool} (like : r.Like a) : (r.writePeer c die cva bs p).Like a := .ite like.toPeer like.toPeer

theorem Run.Like.writePeerGroups (like : r.Like a) : (r.writePeerGroups c die cva bs po).Like a :=
  .ite like.writePeer (.foldl _ like fun _ _ like => like.writePeer)

theorem Run.Like.put {cells : List (Option Nat)} {scale : Option Nat} {marks : List Bool} (like : r.Like a) :
    (r.put v idx k cells scale marks).Like a := by
  unfold Run.put
  dsimp only
  split
  · exact .write (.foldl _ like fun _ _ like => like.writeGroups)
  · exact .ite (.foldl _ like fun _ _ like => like.writePeerGroups) (.writePeer (.foldl _ like fun _ _ like => like.writePeerGroups))
  · exact like

end

/-! ## Entries of a WAIT_PREFETCH (R305, R308, R309) -/

section
variable {a h : Hw} {n : Nat} {p : PrefEntry} {v : View} {hit : Option Retained}

theorem Delivery.group_like {x : Delivery} (like : x.run.Like a) : (x.group n p v hit).run.Like a := by
  unfold Delivery.group
  extract_lets t q r0 y r1 r
  have read : y.2.Like a := by
    unfold y
    split
    exacts [.ite_2 like like, like.grp]
  have written : r.Like a := by
    unfold r
    split
    exacts [read, read.put]
  split
  · exact like
  split
  · exact read
  split
  · exact read
  · exact written

theorem Delivery.groups_like {k : Nat} {x : Delivery} (like : x.run.Like a) : (Delivery.groups n p v hit k x).run.Like a := by
  induction k generalizing x with
  | zero => exact like
  | succ k ih =>
    unfold Delivery.groups
    dsimp only
    split
    exacts [Delivery.group_like like, ih (Delivery.group_like like)]

/-- A run whose machine is like one but for module memory. -/
def Run.Near (a : Hw) (r : Run) : Prop := ({ a with mem := r.h.mem } : Hw).Like r.h

theorem Run.Like.near {r : Run} (like : r.Like a) : r.Near a := by
  unfold Run.Near
  rw [Hw.Like.mem like]
  exact like

/-- The retention table is no set-up of a context. -/
theorem Run.Near.setCtx {r : Run} (near : r.Near a) {f : Ctx → Ctx}
    (keeps : ∀ c, ((f c).plan, (f c).state, (f c).epoch, (f c).owner) = (c.plan, c.state, c.epoch, c.owner)) :
    ({ r with h := r.h.setCtx n f } : Run).Near a := ⟨near.still, (Hw.setCtx_seats keeps).trans near.seats⟩

theorem Run.Near.applyWrites {r : Run} (near : r.Near a) (w : Writes) : ({ r with h := r.h.applyWrites w } : Run).Near a :=
  ⟨congrArg (fun g : Hw => { g with mem := (r.h.applyWrites w).mem }) near.still, near.seats⟩

theorem Run.Near.retain {r : Run} {d : TD} {got : List (Nat × List Byte × Nat)} (near : r.Near a) :
    Gives (fun x : Run × Bool => x.1.Near a) (r.retain n p d got) := by
  unfold Run.retain
  dsimp only
  refine .ite .none ?_
  split
  · exact .none
  · refine .ite (.some (near.setCtx fun _ => rfl)) (.ite .none (.some ?_))
    exact (near.applyWrites _).setCtx fun _ => rfl

theorem Hw.prefAdvance_near {ring : Nat} {c : Cmd} {e groups : Nat} {env : Env} :
    Gives (fun x : Advance => x.run.Near h) (h.prefAdvance ring c e groups env) := by
  unfold Hw.prefAdvance
  extract_lets n p s r0 r first hit r1 st v r2 v1 total r3 x got r4 h1 all
  have started : r0.Like h := (Hw.Like.refl h).applyEnv (e := env)
  have counted : r1.Like h := by
    unfold r1
    split
    · exact ⟨started.still, (Hw.setCtx_seats fun c => by split <;> rfl).trans started.seats⟩
    · exact started
  have viewed : v.2.Like h := .ite_2 counted counted.view
  have viewed1 : v1.2.Like h := .ite_2 viewed viewed
  have delivered : x.run.Near h := (Delivery.groups_like viewed1).near
  refine .ite .none (.ite (.some viewed1.near) (.ite .none (.ite (.some delivered) (.ite (.some delivered) (.ite (.some delivered) ?_)))))
  split
  · exact .ite (.ite (.some delivered) (.some (delivered.setCtx fun _ => rfl))) (.some delivered)
  · refine .ite ?_ (.some delivered)
    split
    · exact .none
    next e => exact .some (delivered.retain e)
  · exact .some delivered

end

end Sys2Proof.Machine
end

section
/-! PROOFS. WAIT_PREFETCH (12 R302-R305; 03 R86). -/

namespace Sys2Proof.Machine

/-! ## What a command's run leaves -/

theorem Hw.SameSetup.trans {a b d : Hw} (ab : a.SameSetup b) (bd : b.SameSetup d) : a.SameSetup d where
  now := bd.now.trans ab.now
  lim := bd.lim.trans ab.lim
  ks := bd.ks.trans ab.ks
  ks2 := bd.ks2.trans ab.ks2
  cpls := bd.cpls.trans ab.cpls
  seqs := bd.seqs.trans ab.seqs
  objs := bd.objs.trans ab.objs
  comb := bd.comb.trans ab.comb
  oes := bd.oes.trans ab.oes
  fences := bd.fences.trans ab.fences
  topo := bd.topo.trans ab.topo
  bcast := bd.bcast.trans ab.bcast

theorem Hw.Like.sameSetup {a b : Hw} (like : a.Like b) : a.SameSetup b := .of_still like.still

section
variable {h a : Hw} {ring : Nat} {index : W32} {c : Cmd} {r : Run} {f : Cmd → Cmd}

theorem Hw.setCmd_sameSetup : h.SameSetup (h.setCmd ring index f) := ⟨rfl, rfl, rfl, rfl, rfl, rfl, rfl, rfl, rfl, rfl, rfl, rfl⟩

theorem Run.Near.sameSetup (near : r.Near a) : a.SameSetup r.h :=
  have like : ({ a with mem := r.h.mem } : Hw).SameSetup r.h := Hw.Like.sameSetup near
  ⟨like.now, like.lim, like.ks, like.ks2, like.cpls, like.seqs, like.objs, like.comb, like.oes, like.fences, like.topo, like.bcast⟩

theorem Run.Near.rings (near : r.Near a) : r.h.rings = a.rings := Hw.Like.rings (a := { a with mem := r.h.mem }) near

theorem Run.finish_sameSetup : r.h.SameSetup r.finish :=
  have written : r.h.SameSetup (r.h.applyWrites r.w) := ⟨rfl, rfl, rfl, rfl, rfl, rfl, rfl, rfl, rfl, rfl, rfl, rfl⟩
  written.trans r.finish_like.sameSetup

theorem Hw.OnlyCmd.trans {b d : Hw} (ab : a.OnlyCmd b ring index) (bd : b.OnlyCmd d ring index) : a.OnlyCmd d ring index :=
  ⟨fun k ne => (bd.1 k ne).trans (ab.1 k ne), bd.2.1.trans (by rw [ab.2.1]), fun j ne => (bd.2.2 j ne).trans (ab.2.2 j ne)⟩

theorem Hw.cmd_of_rings {b : Hw} (same : b.rings = a.rings) (k : Nat) (j : W32) : b.cmd k j = a.cmd k j := by
  unfold Hw.cmd Hw.ring
  rw [same]

/-- A command that is updated: nothing else of the work rings changes. -/
theorem Hw.setCmd_updates {b : Hw} (cmd : a.cmd ring index = some c) (same : b.rings = a.rings) (keep : ∀ c, (f c).index = c.index) :
    (b.setCmd ring index f).cmd ring index = some (f c) ∧ a.OnlyCmd (b.setCmd ring index f) ring index := by
  refine ⟨?_, (Hw.setCmd_onlyCmd b ring index f keep).of_rings same⟩
  rw [Hw.cmd_setCmd b ring ring index index f keep, if_pos ⟨rfl, rfl⟩, Hw.cmd_of_rings same, cmd]
  rfl

theorem Hw.endRun_sameSetup (go : r.Goes) (setup : a.SameSetup r.h) (poison : Bool) : a.SameSetup (h.endRun ring index r poison) := by
  unfold Hw.endRun
  rw [if_neg (by rw [show (r.waits && r.fail.isNone) = false from go]; decide)]
  exact (setup.trans (Run.finish_sameSetup (r := { r with ring := ring }))).trans Hw.setCmd_sameSetup

/-- A run that goes on keeps its counts in its command. -/
theorem Hw.keepRun_goes (go : (r.waits && r.fail.isNone) = false) : h.keepRun ring index r f =
    ({ r with ring := ring } : Run).finish.setCmd ring index fun c =>
      f { c with held := false, stalled := false, sat := r.sat, range := r.range, nan := r.nan, poison := r.poisonOut } := by
  unfold Hw.keepRun
  rw [if_neg (by rw [go]; decide)]

/-- A run that is kept, or held back, leaves the other commands, and its own goes on in its phase. -/
theorem Hw.keepRun_only (cmd : h.cmd ring index = some c) (rings : r.h.rings = h.rings)
    (keep : ∀ c, (f c).index = c.index ∧ (f c).phase = c.phase) :
    ∃ d, (h.keepRun ring index r f).cmd ring index = some d ∧ d.phase = c.phase ∧ h.OnlyCmd (h.keepRun ring index r f) ring index := by
  cases goes : r.waits && r.fail.isNone with
  | true =>
    have held : h.keepRun ring index r f = h.holdCmd ring index r := if_pos goes
    rw [held]
    obtain ⟨at_, only⟩ := Hw.setCmd_updates (f := fun c => { c with stalled := true, held := c.held || r.far }) cmd (rfl : h.rings = h.rings) fun _ => rfl
    exact ⟨_, at_, rfl, only⟩
  | false =>
    rw [Hw.keepRun_goes goes]
    obtain ⟨at_, only⟩ := Hw.setCmd_updates (b := ({ r with ring := ring } : Run).finish)
      (f := fun c => f { c with held := false, stalled := false, sat := r.sat, range := r.range, nan := r.nan, poison := r.poisonOut })
      cmd ((Run.finish_rings _).trans rings) fun _ => (keep _).1
    exact ⟨_, at_, (keep _).2, only⟩

end

/-! ## The end of a WAIT_PREFETCH (R305) -/

section
variable {h : Hw} {ring : Nat} {index : W32} {c : Cmd} {env : Env} {fail : Option (Nat × Nat)}

theorem Run.Like.writeEntries {a : Hw} {r : Run} {l : List (Nat × Nat)} (like : r.Like a) : (r.writeEntries c l).Like a :=
  .foldl _ like fun _ _ like => like.write.write

/-- The run that writes the entries of a WAIT_PREFETCH back. -/
def Hw.backRun (h : Hw) (ring : Nat) (c : Cmd) (fail : Option (Nat × Nat)) (env : Env) : Run :=
  let r := ((Run.start h 16 (h.ring ring).ctx true false env).resume c).writeEntries c c.prog
  { r with fail := fail.or r.fail }

theorem Hw.backRun_like : (h.backRun ring c fail env).Like h :=
  Run.Like.writeEntries (r := (Run.start h 16 (h.ring ring).ctx true false env).resume c) ((Hw.Like.refl h).applyEnv (e := env))

theorem Hw.prefetchEnd_ends (cmd : h.cmd ring index = some c) (live : c.phase ≠ .done) (go : (h.backRun ring c fail env).Goes) :
    h.EndsWith (h.prefetchEnd ring c fail env) ring index (h.backRun ring c fail env) ((h.backRun ring c fail env).ends false) := by
  have same : c.index = index := Hw.cmd_index cmd
  have eq : h.prefetchEnd ring c fail env = (h.endRun ring index (h.backRun ring c fail env) false).setCmd ring index
      fun c => if c.phase == .done then { c with work := .idle } else c := by rw [← same]; rfl
  have like := h.backRun_like (ring := ring) (c := c) (fail := fail) (env := env)
  obtain ⟨⟨d, at_, done, counts⟩, wrote, only⟩ := Hw.endRun_ends h h ring index _ false c go cmd live like.mem like.rings
  obtain ⟨at', only'⟩ := Hw.setCmd_updates (f := fun c => if c.phase == .done then { c with work := .idle } else c) at_ rfl fun c => by
    split <;> rfl
  have idle : (if d.phase == .done then { d with work := .idle } else d) = { d with work := .idle } := if_pos (by simp [done])
  rw [eq]
  exact ⟨⟨⟨_, at'.trans (congrArg some idle), done, counts⟩, wrote, only.trans only'⟩,
    (Hw.endRun_sameSetup go like.sameSetup false).trans Hw.setCmd_sameSetup⟩

end

/-! ## WAIT_PREFETCH by the state of its command -/

section
variable {h : Hw} {ring : Nat} {index : W32} {entry groups : Nat} {env : Env} {c : Cmd}

/-- The meaning of a WAIT_PREFETCH whose entries are still to end. -/
def Hw.prefetchStep (h : Hw) (ring : Nat) (index : W32) (c : Cmd) (entry groups : Nat) (env : Env) : Hw :=
  match c.prog[entry]? with
  | none => h
  | some (_, st) =>
    if entryEnded st || groups == 0 || !h.prefTurn ring c entry env then h
    else match h.prefAdvance ring c entry groups env with
    | none => h.stallCmd ring index
    | some a =>
      let h := h.keepRun ring index { a.run with fail := none } fun c => c.advanced entry a
      match a.run.fail, h.cmd ring index with
      | some f, some c => h.prefetchEnd ring c (some f) {}
      | _, _ => h

/-- The meaning of a WAIT_PREFETCH. -/
def Hw.prefetchBody (h : Hw) (ring : Nat) (index : W32) (c : Cmd) (entry groups : Nat) (env : Env) : Hw :=
  if c.phase == .started then h.prefetchBegin ring c
  else if c.prefetchReady then (if h.readsOut c.order then h else h.prefetchEnd ring c none env)
  else h.prefetchStep ring index c entry groups env

theorem exec_waitPrefetch {s : State} (powered : s.hw.ks2.powered = true) (cmd : s.hw.cmd ring index = some c) (opcode : c.opcode = 0x04)
    (live : c.phase = .started ∨ c.phase = .blocked) :
    exec (.waitPrefetch ring index entry groups env) s = .next { s with hw := s.hw.prefetchBody ring index c entry groups env } := by
  show execWaitPrefetch ring index entry groups env s = _
  rw [execWaitPrefetch, act_on powered, Hw.onCmd, cmd]
  have live : (c.phase == .started || c.phase == .blocked) = true := by simpa using live
  simp only [live, opcode, beq_self_eq_true, Bool.and_self, if_true]
  rfl

section
variable (blocked : c.phase = .blocked)
include blocked

theorem Hw.prefetchBody_ready (ready : c.prefetchReady = true) : h.prefetchBody ring index c entry groups env =
    if h.readsOut c.order then h else h.prefetchEnd ring c none env := by
  simp [Hw.prefetchBody, blocked, ready]

theorem Hw.prefetchBody_streams (ready : c.prefetchReady = false) :
    h.prefetchBody ring index c entry groups env = h.prefetchStep ring index c entry groups env := by
  simp [Hw.prefetchBody, blocked, ready]

end

theorem Hw.prefetchStep_waits (turn : h.prefTurn ring c entry env = false) : h.prefetchStep ring index c entry groups env = h := by
  unfold Hw.prefetchStep
  split
  · rfl
  · simp [turn]

section
variable {prog : Nat × Nat} (at_ : c.prog[entry]? = some prog) (live : entryEnded prog.2 = false) (some_ : groups ≠ 0)
  (turn : h.prefTurn ring c entry env = true)
include at_ live some_ turn

theorem Hw.prefetchStep_stalls (stalls : h.prefAdvance ring c entry groups env = none) :
    h.prefetchStep ring index c entry groups env = h.stallCmd ring index := by
  simp [Hw.prefetchStep, at_, live, some_, turn, stalls]

theorem Hw.prefetchStep_advances {a : Advance} (goes : h.prefAdvance ring c entry groups env = some a) :
    h.prefetchStep ring index c entry groups env =
      let h := h.keepRun ring index { a.run with fail := none } fun c => c.advanced entry a
      match a.run.fail, h.cmd ring index with
      | some f, some c => h.prefetchEnd ring c (some f) {}
      | _, _ => h := by
  simp [Hw.prefetchStep, at_, live, some_, turn, goes]

end

/-- The wait of a WAIT_PREFETCH on an object of its context begins. -/
theorem Hw.prefetchBegin_begins {p : Plan} {obj : Nat} (plan : (h.ctx (h.ring ring).ctx).plan = p) (on : bits (c.f 0x1A 2) 12 0 = obj)
    (own : p.ownsObj obj = true) (limited : ¬ (c.f 0x1C 4 = 0xFFFFFFFF ∧ p.expert = false)) (cmd : h.cmd ring index = some c) :
    let met := decide (c.f 0x20 8 ≤ (h.obj obj).toNat)
    let t := h.prefetchBegin ring c
    h.OnlyCmd t ring index ∧ t = { h with rings := t.rings, dies := t.dies } ∧
      t.cmd ring index = some { c with phase := .blocked, satisfied := met, work := .prefetch c.prog } := by
  intro met t
  obtain rfl : c.index = index := Hw.cmd_index cmd
  let begun (c : Cmd) : Cmd := { c with phase := .blocked, satisfied := met, work := .prefetch c.prog }
  have eq : t = (if met && (c.f 0x18 1).testBit 0 then h.acquire else h).setCmd ring c.index begun := by
    simp [t, met, begun, Hw.prefetchBegin, plan, on, own, limited]
  have rings : (if met && (c.f 0x18 1).testBit 0 then h.acquire else h).rings = h.rings := by split <;> rfl
  obtain ⟨at_, only⟩ := Hw.setCmd_updates (f := begun) cmd rings fun _ => rfl
  refine eq ▸ ⟨only, ?_, at_⟩
  split <;> rfl

end

end Sys2Proof.Machine

namespace Sys2Proof
open Machine

/-- Settles O32, by the state of the command: one that begins, one that may end, and one whose entry waits, or advances. -/
theorem waitPrefetchStreams : Obligations.WaitPrefetchStreams := by
  intro ring index entry groups env s c p obj met back powered cmd opcode
  have steps (live : c.phase = .started ∨ c.phase = .blocked) := exec_waitPrefetch (entry := entry) (groups := groups) (env := env) powered cmd opcode live
  refine ⟨fun started own limited => ?_, fun blocked ready answered go => ?_, fun blocked ready out => ?_, fun blocked ready turn => ?_,
    fun prog blocked ready at_ live some_ turn => ⟨fun stalls => ?_, fun a f goes fails => ?_, fun a goes fine go => ?_⟩⟩
  · have body : s.hw.prefetchBody ring index c entry groups env = s.hw.prefetchBegin ring c := by simp [Hw.prefetchBody, started]
    rw [steps (.inl started), body]
    exact ⟨_, rfl, rfl, Hw.prefetchBegin_begins rfl rfl own limited cmd⟩
  · rw [steps (.inr blocked), Hw.prefetchBody_ready blocked ready, if_neg (by simp [answered])]
    exact ⟨_, rfl, rfl, Hw.prefetchEnd_ends (fail := none) cmd (by simp [blocked]) go⟩
  · rw [steps (.inr blocked), Hw.prefetchBody_ready blocked ready, if_pos out]
  · rw [steps (.inr blocked), Hw.prefetchBody_streams blocked ready, Hw.prefetchStep_waits turn]
  · obtain ⟨after, only⟩ := Hw.setCmd_updates (f := fun c => { c with stalled := true }) cmd (rfl : s.hw.rings = s.hw.rings) fun _ => rfl
    rw [steps (.inr blocked), Hw.prefetchBody_streams blocked ready, Hw.prefetchStep_stalls at_ live some_ turn stalls]
    exact ⟨_, rfl, rfl, only, rfl, after⟩
  · have near : a.run.Near s.hw := Hw.prefAdvance_near goes
    obtain ⟨d, after, phase, only⟩ := Hw.keepRun_only (r := { a.run with fail := none }) (f := fun c => c.advanced entry a) cmd near.rings
      fun _ => ⟨rfl, rfl⟩
    rw [steps (.inr blocked), Hw.prefetchBody_streams blocked ready, Hw.prefetchStep_advances at_ live some_ turn goes]
    simp only [fails, after]
    obtain ⟨⟨⟨e, last, done, status, detail, _⟩, _, only'⟩, _⟩ := Hw.prefetchEnd_ends (fail := some f) (env := {}) after
      (by simp [phase, blocked]) (by simp [Run.Goes, Hw.backRun])
    exact ⟨_, rfl, ⟨e, last, done, status, detail⟩, only.trans only'⟩
  · have near : a.run.Near s.hw := Hw.prefAdvance_near goes
    have keeps : (({ a.run with fail := none } : Run).waits && (({ a.run with fail := none } : Run).fail).isNone) = false := by
      simpa [Run.Goes, fine] using go
    obtain ⟨after, only⟩ := Hw.setCmd_updates (b := ({ a.run with fail := none, ring := ring } : Run).finish)
      (f := fun c => Cmd.advanced { c with
        held := false, stalled := false, sat := a.run.sat, range := a.run.range, nan := a.run.nan, poison := a.run.poisonOut } entry a)
      cmd ((Run.finish_rings _).trans near.rings) fun _ => rfl
    rw [steps (.inr blocked), Hw.prefetchBody_streams blocked ready, Hw.prefetchStep_advances at_ live some_ turn goes]
    simp only [fine, Hw.keepRun_goes keeps]
    have finished := Run.finish_sameSetup (r := { a.run with fail := none, ring := ring })
    exact ⟨_, _, rfl, rfl, only, (near.sameSetup.trans finished).trans Hw.setCmd_sameSetup, after, blocked, rfl⟩

end Sys2Proof
end

section
/-! SUPPORT. What putting the λ plan in force leaves: of the work rings all but the commands themselves, and everything but links, frames,
messages, accesses and what telling changes (03 R90, R92; 09 R251-R256). -/

namespace Sys2Proof.Machine

/-! ## A machine but for its links -/

/-- A ring with the indexes of its running commands alone. -/
def WorkRing.slots (w : WorkRing) : WorkRing := { w with running := w.running.map fun c => { index := c.index } }

/-- A machine but for its links and what their loss ends. -/
def Hw.unlinked (h : Hw) : Hw :=
  { h with
    rings := h.rings.map WorkRing.slots, ports := [], out := [], freeCtr := 0, outMsgs := [], accesses := [], binds := [], hosts := [], evts := [],
    aux := [], logSeq := 0 }

/-- `b` is `a` but for its links and what their loss ends. -/
def Hw.Relinks (a b : Hw) : Prop := b.unlinked = a.unlinked

section
variable {a h b : Hw} {p l : Nat}

theorem Hw.Relinks.refl (a : Hw) : a.Relinks a := rfl
theorem Hw.Relinks.trans (ah : a.Relinks h) (hb : h.Relinks b) : a.Relinks b := Eq.trans hb ah
theorem Hw.Relinks.ite {c : Prop} [Decidable c] (ah : a.Relinks h) (ab : a.Relinks b) : a.Relinks (if c then h else b) := by split <;> assumption
theorem Hw.Relinks.foldl {α : Type} {f : Hw → α → Hw} (l : List α) (ah : a.Relinks h) (step : ∀ h x, a.Relinks h → a.Relinks (f h x)) :
    a.Relinks (l.foldl f h) := List.foldlRecOn l f ah fun _ k x _ => step _ x k

theorem Hw.Relinks.setLink {f : Link → Link} (k : a.Relinks h) : a.Relinks (h.setLink p l f) := k
theorem Hw.Relinks.emit {o : Out} (k : a.Relinks h) : a.Relinks (h.emit o) := k
theorem Hw.Relinks.drawIncarnation (k : a.Relinks h) : a.Relinks h.drawIncarnation.2 := k
theorem Hw.Relinks.event {ps : List Nat} {code src ctx d0 d1 : Nat} {epoch : Byte} (k : a.Relinks h) : a.Relinks (h.event ps code src ctx epoch d0 d1) := by
  refine Eq.trans ?_ k
  rw [(h.event_tells ps code src ctx epoch d0 d1).1]
  rfl
theorem Hw.Relinks.evMod {code src d0 d1 : Nat} (k : a.Relinks h) : a.Relinks (h.evMod code src d0 d1) := k.event

theorem Hw.Relinks.sendCtrlTo {dst : W32} {op a0 a1 a2 a3 : Nat} (k : a.Relinks h) : a.Relinks (h.sendCtrlTo p l dst op a0 a1 a2 a3) :=
  have queued : a.Relinks (if ctrlQueued op then _ else h) := .ite k.setLink k
  .ite queued.emit queued
theorem Hw.Relinks.sendCtrl {op a0 a1 a2 a3 : Nat} (k : a.Relinks h) : a.Relinks (h.sendCtrl p l op a0 a1 a2 a3) := k.sendCtrlTo

/-- An update of running commands that keeps their indexes. -/
theorem WorkRing.slots_map (w : WorkRing) (f : Cmd → Cmd) (keep : ∀ c, (f c).index = c.index) :
    ({ w with running := w.running.map f } : WorkRing).slots = w.slots := by
  simp only [WorkRing.slots, List.map_map]
  exact congrArg (fun l => { w with running := l }) (List.map_congr_left fun c _ => congrArg (fun i => ({ index := i } : Cmd)) (keep c))

theorem Hw.Relinks.running {r : Nat} {f : Cmd → Cmd} (k : a.Relinks h) (keep : ∀ c, (f c).index = c.index) :
    a.Relinks (h.setRing r fun w => { w with running := w.running.map f }) := by
  refine Eq.trans ?_ k
  have same : (h.setRing r fun w => { w with running := w.running.map f }).rings.map WorkRing.slots = h.rings.map WorkRing.slots := by
    refine List.ext_getElem (by simp [Hw.setRing]) fun i _ _ => ?_
    simp only [Hw.setRing, List.getElem_map, List.getElem_modify]
    split
    · exact WorkRing.slots_map _ f keep
    · rfl
  simp only [Hw.unlinked, same]
  rfl

theorem Hw.Relinks.setCmd {r : Nat} {i : W32} {f : Cmd → Cmd} (k : a.Relinks h) (keep : ∀ c, (f c).index = c.index) : a.Relinks (h.setCmd r i f) :=
  k.running fun c => by
    split
    exacts [keep c, rfl]
theorem Hw.Relinks.finishCmd {r : Nat} {i : W32} {st dt : Nat} (k : a.Relinks h) : a.Relinks (h.finishCmd r i st dt) :=
  k.setCmd fun _ => Cmd.finish_index _ _ _

/-! ## Links that end (R247, R256, R283) -/

theorem Cmd.lose_index (c : Cmd) (status detail : Nat) : (c.lose status detail).index = c.index := by unfold Cmd.lose; split <;> rfl
theorem Cmd.loseEntry_index (c : Cmd) (e : Nat) : (c.loseEntry e).index = c.index := by
  unfold Cmd.loseEntry
  split
  · dsimp only
    split <;> rfl
  · rfl

theorem Hw.Relinks.loseAccess {x : Access} {status detail : Nat} (k : a.Relinks h) : a.Relinks (h.loseAccess x status detail) :=
  Hw.Relinks.running (a := a) (h := { h with accesses := h.accesses.erase x }) k fun c => by
    split
    · rfl
    · split
      exacts [Cmd.lose_index .., Cmd.loseEntry_index ..]

theorem Hw.Relinks.endSender {o : OutMsg} {status : Nat} {c : Coord} (k : a.Relinks h) : a.Relinks (h.endSender o status c) := by
  have lost : a.Relinks (match ({ h with outMsgs := h.outMsgs.filter (· != o) } : Hw).accesses.find? o.carries with
      | some x => ({ h with outMsgs := h.outMsgs.filter (· != o) } : Hw).loseAccess x status (coordNat c)
      | none => { h with outMsgs := h.outMsgs.filter (· != o) }) := by
    split
    · exact Hw.Relinks.loseAccess (h := { h with outMsgs := h.outMsgs.filter (· != o) }) k
    · exact k
  unfold Hw.endSender
  dsimp only at lost ⊢
  split
  exacts [lost.finishCmd, lost]

theorem Hw.Relinks.endUnreachable {lost : List Frame} (k : a.Relinks h) : a.Relinks (h.endUnreachable p l lost) :=
  .foldl _ (.foldl _ k fun _ _ k => .ite k.loseAccess k) fun _ _ k => .ite k.endSender k

theorem Hw.Relinks.deadEffects (k : a.Relinks h) : a.Relinks (h.deadEffects p l) := by
  have ended : a.Relinks ((h.lambdaCmds p l).foldl (fun g x => g.finishCmd x.1 x.2 stPeerGone (coordNat ((h.link p l).toward.getD 0))) h) :=
    .foldl _ k fun _ _ k => k.finishCmd
  unfold Hw.deadEffects
  refine Hw.Relinks.endUnreachable ?_
  split
  · exact ended
  · exact ended

theorem Hw.Relinks.light (k : a.Relinks h) : a.Relinks (h.light p l) := k.setLink

theorem Hw.Relinks.relinkPort (k : a.Relinks h) : a.Relinks (h.relinkPort p) := by
  have ends : a.Relinks (forN 4 h fun g l => if (g.link p l).valid && !((h.pairLinks p).filterMap (·.2)).contains l then
      ((g.setLink p l fun k => { k with state := .off }).deadEffects p l).setLink p l Link.fresh else g) :=
    .foldl _ k fun _ _ k => .ite k.setLink.deadEffects.setLink k
  unfold Hw.relinkPort
  refine .foldl _ (.foldl _ ends fun g x k => ?_) fun g x k => ?_
  · split
    exacts [k.setLink, k]
  · dsimp only
    split
    · exact .ite k.drawIncarnation.setLink.light k.drawIncarnation.setLink
    · exact k

/-! ## Links that take and give λ (R253-R256, R265, R266) -/

theorem Hw.Relinks.startChange {add : Bool} {i : Nat} {cmd : Option (Nat × W32)} {lend : Option (Nat × Nat)} (k : a.Relinks h) :
    a.Relinks (h.startChange p l add i cmd lend) := k.setLink.sendCtrl

theorem Hw.Relinks.shed (k : a.Relinks h) : a.Relinks (h.shed p l) := by
  unfold Hw.shed
  dsimp only
  split
  · exact k
  · exact .ite k.startChange (.ite k k.setLink)

theorem Hw.Relinks.capStep {e : Nat} (k : a.Relinks h) : a.Relinks (h.capStep e) := by
  refine .ite k ?_
  dsimp only
  split
  · exact k
  · exact .ite k (.ite k.shed.evMod k.shed)

theorem Hw.Relinks.boundStep (k : a.Relinks h) : a.Relinks (h.boundStep p l) := .ite k.shed k

theorem Hw.Relinks.refill {except : Option Nat} (k : a.Relinks h) : a.Relinks (h.refill p l except) := by
  refine .ite k ?_
  split
  exacts [k.startChange, k]

theorem Hw.Relinks.lossStep (k : a.Relinks h) : a.Relinks (h.lossStep p l) := by
  unfold Hw.lossStep
  dsimp only
  split
  · exact k
  · exact .ite k (.ite k.setLink.setLink.sendCtrl (.ite k.startChange k))

theorem Hw.Relinks.settle (k : a.Relinks h) : a.Relinks (h.settle p l) := k.lossStep.boundStep.capStep.refill

theorem Hw.Relinks.relink (k : a.Relinks h) : a.Relinks h.relink :=
  .foldl _ (.foldl _ k fun _ _ k => k.relinkPort) fun _ _ k => .ite k.settle k

theorem Hw.Relinks.miswired (k : a.Relinks h) : a.Relinks (h.miswired p l) := by
  unfold Hw.miswired
  split
  · exact k
  · exact .ite k k.setLink.evMod

/-! ## What stays -/

theorem Hw.Relinks.mem (k : a.Relinks h) : h.mem = a.mem := (congrArg (fun h : Hw => h.mem) k :)
theorem Hw.Relinks.ctxs (k : a.Relinks h) : h.ctxs = a.ctxs := (congrArg (fun h : Hw => h.ctxs) k :)
theorem Hw.Relinks.objs (k : a.Relinks h) : h.objs = a.objs := (congrArg (fun h : Hw => h.objs) k :)
theorem Hw.Relinks.topo (k : a.Relinks h) : h.topo = a.topo := (congrArg (fun h : Hw => h.topo) k :)

theorem Hw.Relinks.slots (k : a.Relinks h) (r : Nat) : (h.ring r).slots = (a.ring r).slots := by
  have same : h.rings.map WorkRing.slots = a.rings.map WorkRing.slots := (congrArg (fun h : Hw => h.rings) k :)
  have of (g : Hw) : (g.rings.map WorkRing.slots).getD r (WorkRing.slots {}) = (g.ring r).slots := List.getD_map g.rings {} WorkRing.slots
  rw [← of, same, of]

/-- Of a ring nothing but its running commands differs. -/
theorem Hw.Relinks.ring (k : a.Relinks h) (r : Nat) : h.ring r = { a.ring r with running := (h.ring r).running } := by
  have same := congrArg (fun w : WorkRing => { w with running := (h.ring r).running }) (k.slots r)
  exact same

/-- No command begins or leaves. -/
theorem Hw.Relinks.cmd (k : a.Relinks h) (r : Nat) (i : W32) : (h.cmd r i).isSome = (a.cmd r i).isSome := by
  have of (g : Hw) : (g.cmd r i).isSome = (g.ring r).slots.running.any (·.index == i) := by
    rw [Bool.eq_iff_iff, Hw.cmd, List.find?_isSome]
    simp [WorkRing.slots]
  rw [of, of, k.slots]

end

end Sys2Proof.Machine
end

section
/-! PROOFS. CONTEXT_OPEN and PLAN_READ_DONE (03 R74, R75, R90). -/

namespace Sys2Proof.Machine

/-! ## What tells, and nothing else (R66, R424, R428) -/

section
variable {a b c : Hw} {p n m : Nat}

theorem Hw.Tells.refl (a : Hw) : a.Tells a 0 := ⟨by simp, fun _ => rfl⟩

theorem Hw.Tells.trans (ab : a.Tells b n) (bc : b.Tells c m) : a.Tells c (n + m) := by
  obtain ⟨first, logs⟩ := ab
  obtain ⟨second, logs'⟩ := bc
  have seq : b.logSeq = a.logSeq + BitVec.ofNat 32 n := (congrArg (fun h : Hw => h.logSeq) first :)
  have seq' : b.logSeq + BitVec.ofNat 32 m = a.logSeq + BitVec.ofNat 32 (n + m) := by rw [seq, BitVec.ofNat_add, BitVec.add_assoc]
  refine ⟨second.trans ?_, fun d => (logs' d).trans (by rw [logs d])⟩
  rw [seq']
  exact congrArg (fun h : Hw => { h with evts := c.evts, hosts := c.hosts, out := c.out, logSeq := a.logSeq + BitVec.ofNat 32 (n + m), aux := c.aux }) first

theorem Hw.Tells.setHost {f : HostPort → HostPort} (k : a.Tells b n) : a.Tells (b.setHost p f) n :=
  ⟨congrArg (fun h : Hw => { h with hosts := (b.setHost p f).hosts }) k.1, k.2⟩
theorem Hw.Tells.emit {o : Out} (k : a.Tells b n) : a.Tells (b.emit o) n := ⟨congrArg (fun h : Hw => { h with out := (b.emit o).out }) k.1, k.2⟩
theorem Hw.Tells.ite {d : Prop} [Decidable d] (k : a.Tells b n) (l : a.Tells c n) : a.Tells (if d then b else c) n := by split <;> assumption
theorem Hw.Tells.msixSend {v : Nat} (k : a.Tells b n) : a.Tells (b.msixSend p v) n := .ite k.setHost (.ite k k.emit)
theorem Hw.Tells.reportAer {bit : Nat} (k : a.Tells b n) : a.Tells (b.reportAer p bit) n := .ite k.setHost k.setHost.msixSend
theorem Hw.Tells.applyEnv {e : Env} (k : a.Tells b n) : a.Tells (b.applyEnv e) n :=
  List.foldlRecOn (motive := (a.Tells · n)) e.host _ k fun _ k _ _ => k.setHost
theorem Hw.Tells.event {ps : List Nat} {code src ctx d0 d1 : Nat} {epoch : Byte} (k : a.Tells b n) :
    a.Tells (b.event ps code src ctx epoch d0 d1) (n + 1) := k.trans (b.event_tells ..)

/-- A poisoned read of host memory is one event. -/
theorem Hw.Tells.hostPoisonRead {x : Nat} {e : Env} (k : a.Tells b n) : a.Tells (b.hostPoisonRead p x e) (n + b2n e.hostPoison) := by
  unfold Hw.hostPoisonRead
  cases e.hostPoison with
  | false => exact k
  | true => exact k.setHost.event.reportAer

/-- The same after the same change to the contexts. -/
theorem Hw.Tells.withCtxs (k : a.Tells b n) (l : List Ctx) : ({ a with ctxs := l } : Hw).Tells { b with ctxs := l } n :=
  ⟨congrArg (fun h : Hw => { h with ctxs := l }) k.1, k.2⟩

theorem Hw.Tells.ctxs (k : a.Tells b n) : b.ctxs = a.ctxs := (congrArg (fun h : Hw => h.ctxs) k.1 :)

theorem Hw.setCtx_onlyCtx (h : Hw) (n : Nat) (f : Ctx → Ctx) : h.OnlyCtx (h.setCtx n f) n := ⟨rfl, fun k ne => Hw.ctx_setCtx_other h n k f ne⟩

end

/-! ## OPEN (R74, R90) -/

section
variable {h a b g : Hw} {n port : Nat} {env : Env} {o : Opened}

/-- An OPEN that fails leaves its status, and tells once. -/
theorem Hw.openFails_leaves (there : n < a.ctxs.length) {k : Nat} (told : a.Tells h k) (st : Nat × Nat) : let t := h.openFails n port st
    t.ctx n = { a.ctx n with busy := none, openStatus := st.1, openDetail := st.2 } ∧ (∀ k, k ≠ n → t.ctx k = a.ctx k) ∧
    ({ a with ctxs := t.ctxs } : Hw).Tells t (k + 1) := by
  intro t
  let g := h.setCtx n fun c => { c with busy := none, openStatus := st.1, openDetail := st.2 }
  have same (j : Nat) : h.ctx j = a.ctx j := congrArg (·.getD j {}) told.ctxs
  have ctxs : t.ctxs = g.ctxs := Hw.event_ctxs ..
  have ctx (j : Nat) : t.ctx j = g.ctx j := congrArg (·.getD j {}) ctxs
  refine ⟨?_, fun j ne => ?_, ?_⟩
  · rw [ctx, Hw.ctx_setCtx_same _ _ _ (told.ctxs ▸ there), same]
  · rw [ctx, Hw.ctx_setCtx_other _ _ _ _ ne, same]
  · rw [ctxs]
    exact (told.withCtxs g.ctxs).event

/-- The context of an OPEN that passes. -/
def Hw.openedCtx (h : Hw) (port : Nat) (o : Opened) (c : Ctx) : Ctx :=
  { c with
    state := .opened, busy := none, owner := port, openStatus := stOk, openDetail := 0, plan := o.plan
    spBase := (h.spPlace o.plan.spReserve).getD 0
    poolBase := (h.poolPlace (poolBytesOf o.plan.retainMib)).getD 0, poolBytes := poolBytesOf o.plan.retainMib
    flush := false, expired := false, cause := 0, orphan := false, closers := []
    loss := { exp := o.plan.lsInit }
    chans := (List.range 8).map fun k => match o.plan.channels.find? fun (e : ChanEntry) => e.chan == k with | some e => e.fresh | none => {}
    banks := List.replicate 64 ({}, {}), carries := [], collCredits := [], agrees := [], retained := [] }

/-- The machine when an OPEN has made its context, before its event and the λ plan. -/
def Hw.opened (h : Hw) (n port : Nat) (o : Opened) : Hw :=
  { h.setCtx n (h.openedCtx port o) with
    objs := h.objs.filter fun (x : Nat × W64) => !o.plan.ownsObj x.1
    seqs := h.seqs.zipIdx.map fun (x : SeqSlot × Nat) =>
      if o.plan.seqBase ≤ x.2 ∧ x.2 < o.plan.seqBase + o.plan.seqCount then ({} : SeqSlot) else x.1
    topo := h.topo.or (some o.topo) }

/-- `b` is `a` but for messages of context `n`. -/
def Hw.SendsFrom (a b : Hw) (n : Nat) : Prop :=
  b.still = a.still ∧ (∀ k, k ≠ n → b.ctx k = a.ctx k) ∧ b.ctx n = { a.ctx n with nextMsg := (b.ctx n).nextMsg }

theorem Hw.SendsFrom.refl (a : Hw) (n : Nat) : a.SendsFrom a n := ⟨rfl, fun _ _ => rfl, rfl⟩
theorem Hw.SendsFrom.trans (ab : a.SendsFrom b n) (bg : b.SendsFrom g n) : a.SendsFrom g n :=
  ⟨bg.1.trans ab.1, fun k ne => (bg.2.1 k ne).trans (ab.2.1 k ne), bg.2.2.trans (by rw [ab.2.2])⟩

theorem Hw.sendCtx_sends {dst : Coord} {cls : Nat} {cmd : Option (Nat × W32)} {m : Msg} : h.SendsFrom (h.sendCtx n dst cls cmd m) n := by
  have ctxs : (h.sendCtx n dst cls cmd m).ctxs = (h.setCtx n fun c => { c with nextMsg := c.nextMsg + 1 }).ctxs := by
    unfold Hw.sendCtx Hw.sendAs Hw.msgId
    dsimp only
    generalize Hw.binding _ n dst = b
    cases b <;> rfl
  have ctx (k : Nat) : (h.sendCtx n dst cls cmd m).ctx k = (h.setCtx n fun c => { c with nextMsg := c.nextMsg + 1 }).ctx k :=
    congrArg (·.getD k {}) ctxs
  refine ⟨Hw.sendAs_still .., fun k ne => by rw [ctx, Hw.ctx_setCtx_other _ _ _ _ ne], ?_⟩
  rw [ctx, Hw.ctx_setCtx]
  split <;> rfl

theorem Hw.grant_sends {k : Nat} : h.SendsFrom (h.grant n k) n := by
  unfold Hw.grant
  split
  · split
    exacts [Hw.sendCtx_sends, .refl h n]
  · exact .refl h n

/-- An OPEN that passes makes its context; beside that, links, frames and messages alone change. -/
theorem Hw.openAs_leaves (h : Hw) (n port : Nat) (o : Opened) : ∃ g, (h.opened n port o).Relinks g ∧ g.SendsFrom (h.openAs n port o) n := by
  let linked := ((h.opened n port o).evCtx n 0x0101 srcModule o.plan.jobId.toNat 0).relink
  let wired := if h.topo.isNone then allLinks.foldl (fun h x => if (h.link x.1 x.2).state == .up then h.miswired x.1 x.2 else h) linked else linked
  have relinked : (h.opened n port o).Relinks linked := (Hw.Relinks.refl _).event.relink
  refine ⟨wired, .ite (.foldl _ relinked fun _ _ k => .ite k.miswired k) relinked, ?_⟩
  have eq : h.openAs n port o = o.plan.channels.foldl (fun h e => if e.recv then h.grant n e.chan else h) wired := rfl
  rw [eq]
  refine List.foldlRecOn (motive := (wired.SendsFrom · n)) _ _ (.refl wired n) fun g k e _ => ?_
  split
  exacts [k.trans Hw.grant_sends, k]

/-! ## The read of a plan (R75, R428, R431) -/

/-- A plan that has been read is judged. -/
def Hw.judgePlan (h : Hw) (n port a : Nat) (e : Env) : Hw :=
  if e.hostFail || e.hostPoison || decide (2 ^ 57 ≤ a) then h.openFails n port (stStateConflict, 0x0117)
  else match h.openChecks n (fun o k => h.hostRead port (a + o) k) with
    | .error st => h.openFails n port st
    | .ok o => h.openAs n port o

/-- What a read of a plan meets. -/
def Hw.planRead (h : Hw) (port a : Nat) (e : Env) : Hw := (h.applyEnv e).hostPoisonRead port a e

/-- PLAN_READ_DONE with its port up. -/
theorem exec_planReadDone {a : Nat} {s : State} (powered : s.hw.ks2.powered = true) (busy : (s.hw.ctx n).busy = some (port, a))
    (up : (s.hw.host port).up = true) :
    let e := s.hw.readEnv port a 65536 env
    exec (.planReadDone n env) s = .next { s with hw := (s.hw.planRead port a e).judgePlan n port a e } := by
  show execPlanReadDone n env s = _
  rw [execPlanReadDone, act_on powered]
  simp only [busy, up, Bool.not_true, Bool.false_eq_true, if_false]
  rfl

section
variable {x : Nat}

theorem Hw.planRead_tells (h : Hw) (port x : Nat) (e : Env) : h.Tells (h.planRead port x e) (b2n e.hostPoison) := by
  have told := ((Hw.Tells.refl h).applyEnv (e := e)).hostPoisonRead (p := port) (x := x) (e := e)
  rwa [Nat.zero_add] at told

theorem Hw.judgePlan_unread (unread : env.hostFail = true ∨ env.hostPoison = true ∨ 2 ^ 57 ≤ x) :
    h.judgePlan n port x env = h.openFails n port (0x0C, 0x0117) := if_pos (by simpa [or_assoc] using unread)

section
variable (whole : env.hostFail = false) (clean : env.hostPoison = false) (low : x < 2 ^ 57)
include whole clean low

theorem Hw.judgePlan_read : h.judgePlan n port x env = match h.openChecks n (fun o k => h.hostRead port (x + o) k) with
    | .error st => h.openFails n port st
    | .ok o => h.openAs n port o := if_neg (by simp [whole, clean]; exact low)

theorem Hw.judgePlan_bad {st : Nat × Nat} (bad : h.openChecks n (fun o k => h.hostRead port (x + o) k) = .error st) :
    h.judgePlan n port x env = h.openFails n port st := by rw [Hw.judgePlan_read whole clean low, bad]

theorem Hw.judgePlan_good (good : h.openChecks n (fun o k => h.hostRead port (x + o) k) = .ok o) :
    h.judgePlan n port x env = h.openAs n port o := by rw [Hw.judgePlan_read whole clean low, good]

end

theorem Hw.readEnv_barred (barred : (h.host port).barred x 65536 = true) :
    h.readEnv port x 65536 env = { env with hostFail := true, hostPoison := false } := if_pos barred
theorem Hw.readEnv_clear (clear : (h.host port).barred x 65536 = false) : h.readEnv port x 65536 env = env := if_neg (by simp [clear])

/-- An entry of a key in a list without some keys. -/
theorem find?_filter_key {α : Type} (l : List (Nat × α)) (p : Nat → Bool) (k : Nat) :
    (l.filter fun x => !p x.1).find? (·.1 == k) = if p k then none else l.find? (·.1 == k) := by
  rw [List.find?_filter]
  cases drops : p k with
  | true =>
    refine List.find?_eq_none.2 fun x _ => ?_
    by_cases key : x.1 = k <;> simp [key, drops]
  | false =>
    refine congrArg (l.find? ·) (funext fun x => ?_)
    by_cases key : x.1 = k <;> simp [key, drops]

/-- An OPEN whose plan passes: the context is made, and its objects are 0. -/
theorem Hw.openAs_opens (there : n < h.ctxs.length) : let t := h.openAs n port o
    t.mem = h.mem ∧ (∀ k, k ≠ n → t.ctx k = h.ctx k) ∧ t.topo = h.topo.or (some o.topo) ∧
    (∀ k, t.obj k = if o.plan.ownsObj k then 0 else h.obj k) ∧
    t.ctx n = { h.openedCtx port o (h.ctx n) with nextMsg := (t.ctx n).nextMsg } := by
  intro t
  obtain ⟨g, relinked, still, others, own⟩ := h.openAs_leaves n port o
  have ctx (k : Nat) : g.ctx k = (h.setCtx n (h.openedCtx port o)).ctx k := congrArg (·.getD k {}) relinked.ctxs
  have objs : t.objs = h.objs.filter fun (x : Nat × W64) => !o.plan.ownsObj x.1 := (congrArg (fun h : Hw => h.objs) still :).trans relinked.objs
  refine ⟨(congrArg (fun h : Hw => h.mem) still :).trans relinked.mem, fun k ne => ?_,
    (congrArg (fun h : Hw => h.topo) still :).trans relinked.topo, fun k => ?_, ?_⟩
  · rw [others k ne, ctx, Hw.ctx_setCtx_other _ _ _ _ ne]
  · rw [Hw.obj, objs, find?_filter_key]
    cases owns : o.plan.ownsObj k <;> rfl
  · rw [own, ctx, Hw.ctx_setCtx_same _ _ _ there]

end

end

end Sys2Proof.Machine

namespace Sys2Proof
open Machine

/-- Settles O37, by what the read of the plan meets and what its checks say. -/
theorem contextsOpen : Obligations.ContextsOpen := by
  refine ⟨?_, ?_⟩
  · intro port n s x powered lit reaches there
    have opens : execContextOpen port n s = .next { s with hw :=
        (if x.state == .free && x.busy.isNone && !s.hw.flash.oos then s.hw.setCtx n fun c => { c with busy := some (port, c.planAddr.toNat) }
        else s.hw.ctxCmdErr n) } := actFrom_on powered lit reaches
    refine ⟨_, opens, rfl, ?_⟩
    by_cases may : x.state = .free ∧ x.busy = none ∧ s.hw.flash.oos = false
    · rw [if_pos may, if_pos (by simpa [and_assoc] using may)]
      exact ⟨Hw.setCtx_onlyCtx .., Hw.ctx_setCtx_same _ _ _ there⟩
    · rw [if_neg may, if_neg (by simpa [and_assoc] using may)]
      exact ⟨Hw.setCtx_onlyCtx .., Hw.ctx_setCtx_same _ _ _ there⟩
  intro n port a env s b x bytes barred fails powered there busy up
  have steps := exec_planReadDone (env := env) powered busy up
  have failed {e : Env} {st dt : Nat} (read : s.hw.readEnv port a 65536 env = e)
      (judged : (s.hw.planRead port a e).judgePlan n port a e = (s.hw.planRead port a e).openFails n port (st, dt))
      (count : b2n e.hostPoison + 1 = if barred then 1 else 1 + b2n env.hostPoison) : fails st dt := by
    dsimp only at steps
    rw [read, judged] at steps
    exact ⟨_, steps, rfl, count ▸ Hw.openFails_leaves there (s.hw.planRead_tells port a e) (st, dt)⟩
  refine ⟨fun unread => ?_, fun open_ whole clean low => ⟨fun st dt bad => ?_, fun o good => ?_⟩⟩
  · cases bars : barred with
    | true => exact failed (Hw.readEnv_barred bars) (Hw.judgePlan_unread (.inl rfl)) (by rw [bars]; rfl)
    | false =>
      exact failed (Hw.readEnv_clear bars) (Hw.judgePlan_unread (unread.resolve_left (by simp [bars])))
        (by rw [bars]; exact Nat.add_comm ..)
  · have clear : s.hw.planRead port a env = b := Hw.hostPoisonRead_clean clean
    exact failed (Hw.readEnv_clear open_) (by rw [clear]; exact Hw.judgePlan_bad whole clean low bad) (by rw [open_]; exact Nat.add_comm ..)
  · have clear : s.hw.planRead port a env = b := Hw.hostPoisonRead_clean clean
    have told : s.hw.Tells b 0 := (Hw.Tells.refl s.hw).applyEnv
    have same (k : Nat) : b.ctx k = s.hw.ctx k := congrArg (·.getD k {}) told.ctxs
    dsimp only at steps
    rw [Hw.readEnv_clear open_, clear, Hw.judgePlan_good whole clean low good] at steps
    obtain ⟨mem, others, topo, objs, own⟩ := b.openAs_opens (n := n) (port := port) (o := o) (told.ctxs ▸ there)
    refine ⟨_, steps, rfl, mem.trans (congrArg (fun h : Hw => h.mem) told.1 :), fun k ne => (others k ne).trans (same k),
      topo.trans (congrArg (fun h : Hw => h.topo.or (some o.topo)) told.1 :), fun k => ?_, ?_⟩
    · rw [objs]
      exact (congrArg (fun h : Hw => if o.plan.ownsObj k then 0 else h.obj k) told.1 :)
    · dsimp only
      rw [own, same]
      exact ⟨rfl, rfl, rfl, rfl, rfl, rfl, rfl, rfl, rfl, rfl⟩

end Sys2Proof
end

section
/-! SUPPORT. How a context winds down: the completions, aborts and stops of its rings, and what they leave of its rings, its commands and its own
state (02 R51, R69; 03 R74, R80, R92). -/

namespace Sys2Proof.Machine

/-! ## A ring that winds down -/

/-- A ring goes on without starting anything: it stays STOPPED where it was, does not run where it did not, fetches nothing where nothing was
fetched, and every CONTEXT_CLOSE among the commands to keep stays. -/
structure WorkRing.Winds (keep : W32 → Prop) (v w : WorkRing) : Prop where
  module : w.module = v.module
  ctx : w.ctx = v.ctx
  stopped : v.state = .stopped → w.state = .stopped
  idle : v.state ≠ .running → w.state ≠ .running
  fetched : v.fetched = [] → w.fetched = []
  kept : ∀ i c, keep i → c.opcode = 0x35 → v.running.find? (·.index == i) = some c → w.running.find? (·.index == i) = some c

section
variable {keep : W32 → Prop} {u v w : WorkRing} {st : RingState}

theorem WorkRing.Winds.refl (w : WorkRing) : w.Winds keep w := ⟨rfl, rfl, id, id, id, fun _ _ _ _ => id⟩
theorem WorkRing.Winds.trans (uv : u.Winds keep v) (vw : v.Winds keep w) : u.Winds keep w where
  module := vw.module.trans uv.module
  ctx := vw.ctx.trans uv.ctx
  stopped := vw.stopped ∘ uv.stopped
  idle := vw.idle ∘ uv.idle
  fetched := vw.fetched ∘ uv.fetched
  kept := fun i c may close at_ => vw.kept i c may close (uv.kept i c may close at_)

/-- A ring that had not stopped halts or stops. -/
theorem WorkRing.Winds.enters (works : w.state ≠ .stopped) (ends : st ≠ .running) : w.Winds keep { w with state := st } where
  module := rfl
  ctx := rfl
  stopped := (absurd · works)
  idle := fun _ => ends
  fetched := id
  kept := fun _ _ _ _ => id

/-- A command that is not to be kept leaves. -/
theorem WorkRing.Winds.without {i : W32} (goes : ¬ keep i) : w.Winds keep { w with running := w.running.filter (·.index != i) } where
  module := rfl
  ctx := rfl
  stopped := id
  idle := id
  fetched := id
  kept := fun j c may _ at_ => by
    have ne : j ≠ i := fun same => goes (same ▸ may)
    rw [List.find?_filter, ← at_]
    refine congrArg (w.running.find? ·) (funext fun c => ?_)
    by_cases here : c.index = j <;> simp [here, ne]

end

/-! ## What changes one ring -/

/-- Of the work rings only `r` changes, and it winds down; the contexts and module memory stand. -/
structure Hw.Works (r : Nat) (keep : W32 → Prop) (a b : Hw) : Prop where
  ctxs : b.ctxs = a.ctxs
  mem : b.mem = a.mem
  others : ∀ k, k ≠ r → b.ring k = a.ring k
  own : (a.ring r).Winds keep (b.ring r)

section
variable {r : Nat} {keep : W32 → Prop} {a b h : Hw} {c : Cmd}

theorem Hw.Works.refl (a : Hw) : Hw.Works r keep a a := ⟨rfl, rfl, fun _ _ => rfl, .refl _⟩
theorem Hw.Works.ite {p : Prop} [Decidable p] (k : Hw.Works r keep a h) (l : Hw.Works r keep a b) : Hw.Works r keep a (if p then h else b) := by
  split <;> assumption

/-- An update that leaves the rings, the contexts and memory. -/
theorem Hw.Works.same (k : Hw.Works r keep a h) (rings : b.rings = h.rings := by rfl) (ctxs : b.ctxs = h.ctxs := by rfl) (mem : b.mem = h.mem := by rfl) :
    Hw.Works r keep a b :=
  have ring (k : Nat) : b.ring k = h.ring k := congrArg (·.getD k {}) rings
  ⟨ctxs.trans k.ctxs, mem.trans k.mem, fun j ne => (ring j).trans (k.others j ne), ring r ▸ k.own⟩

theorem Hw.Works.setRing {f : WorkRing → WorkRing} (k : Hw.Works r keep a h) (step : (h.ring r).Winds keep (f (h.ring r))) :
    Hw.Works r keep a (h.setRing r f) := by
  refine ⟨k.ctxs, k.mem, fun j ne => (Hw.ring_setRing_other _ _ _ _ ne).trans (k.others j ne), ?_⟩
  rw [Hw.ring_setRing]
  split
  exacts [k.own.trans step, k.own]

theorem Hw.Works.event {ps : List Nat} {code src ctx d0 d1 : Nat} {epoch : Byte} (k : Hw.Works r keep a h) :
    Hw.Works r keep a (h.event ps code src ctx epoch d0 d1) := k.same (Hw.event_rings ..) (Hw.event_ctxs ..) (Hw.event_mem ..)
theorem Hw.Works.evRing {n code d0 d1 : Nat} (k : Hw.Works r keep a h) : Hw.Works r keep a (h.evRing n code d0 d1) := .ite k.event k.event

theorem Hw.Works.setRingState {st : RingState} (k : Hw.Works r keep a h) (works : (h.ring r).state ≠ .stopped) (ends : st ≠ .running) :
    Hw.Works r keep a (h.setRingState r st) := (k.setRing (f := fun w => { w with state := st }) (.enters works ends)).same

theorem Hw.noteRecord_ctxs {evt : Bool} {n : Nat} : (h.noteRecord evt n).ctxs = h.ctxs := by
  unfold Hw.noteRecord
  dsimp only
  split
  · rfl
  split
  · exact Hw.setOutRing_ctxs ..
  · rw [(Hw.msixSend_only ..).1]
    exact Hw.setOutRing_ctxs ..

theorem Hw.putRecord_ctxs {evt : Bool} {n : Nat} {rb : List Byte} : (h.putRecord evt n rb).ctxs = h.ctxs :=
  Hw.noteRecord_ctxs.trans (Hw.setOutRing_ctxs ..)

theorem Hw.Works.putRecord {evt : Bool} {n : Nat} {rb : List Byte} (k : Hw.Works r keep a h) : Hw.Works r keep a (h.putRecord evt n rb) :=
  have like := h.putRecord_cpls evt n rb
  k.same like.rings Hw.putRecord_ctxs like.mem

theorem Hw.Works.giveRecord (k : Hw.Works r keep a h) : Hw.Works r keep a (h.giveRecord r c) :=
  .ite k (.ite k.putRecord (k.setRing ⟨rfl, rfl, id, id, id, fun _ _ _ _ => id⟩))

theorem Hw.Works.haltOn (k : Hw.Works r keep a h) : Hw.Works r keep a (h.haltOn r c) := by
  unfold Hw.haltOn
  dsimp only
  split
  next works =>
    have works : (h.ring r).state ≠ .stopped := by
      intro stopped
      simp [stopped] at works
    refine .evRing (.setRingState (k.setRing ⟨rfl, rfl, id, id, fun _ => rfl, fun _ _ _ _ => id⟩) ?_ nofun)
    rw [Hw.ring_setRing]
    split <;> exact works
  · exact k

theorem Hw.Works.headerSignal (k : Hw.Works r keep a h) : Hw.Works r keep a (h.headerSignal r c).2 := by
  obtain ⟨st, dt, l, eq, _⟩ := h.headerSignal_leaves r c
  rw [eq]
  exact k.same

/-- What a completion does before its ring may stop. -/
theorem Hw.complete_works (h : Hw) (goes : ¬ keep c.index) : ∃ g, h.complete r c = g.stopIfDrained r ∧ Hw.Works r keep (h.writeBack r c) g := by
  have retired : Hw.Works r keep (h.writeBack r c) (h.retired r c) :=
    ((Hw.Works.refl (h.writeBack r c)).setRing (f := fun w => { w with running := w.running.filter (·.index != c.index) }) (.without goes)).same
  have signalled := retired.headerSignal (c := c)
  have given := (signalled.setRing (f := fun w => { w with lastStatus := ((h.retired r c).headerSignal r c).1.status })
    ⟨rfl, rfl, id, id, id, fun _ _ _ _ => id⟩).giveRecord (c := ((h.retired r c).headerSignal r c).1)
  exact ⟨_, rfl, .ite given.haltOn given⟩

/-- A ring that stops does so before its context may close. -/
theorem Hw.stopIfDrained_works (h : Hw) (r : Nat) (keep : W32 → Prop) : h.stopIfDrained r = h ∨ ∃ g, Hw.Works r keep h g ∧
    h.stopIfDrained r = if (h.ring r).module then g else g.closeIfStopped (h.ring r).ctx := by
  unfold Hw.stopIfDrained
  extract_lets w reached g
  split
  next stops =>
    have works : (h.ring r).state ≠ .stopped := by
      intro stopped
      simp [w, stopped] at stops
    exact .inr ⟨g, ((Hw.Works.refl h).setRingState (st := .stopped) works nofun).evRing, rfl⟩
  · exact .inl rfl

end

/-! ## What writing back leaves (R305) -/

section
variable {h : Hw} {r : Nat} {c : Cmd}

/-- A run that reads nothing and moves nothing from or to a peer has the machine that it began with. -/
def Run.Quiet (h : Hw) (r : Run) : Prop := r.h = h ∧ r.env = {} ∧ r.peerR = [] ∧ r.peerW = []

theorem Run.Quiet.ite_2 {α : Type} {p : Prop} [Decidable p] {x y : α × Run} (k : x.2.Quiet h) (l : y.2.Quiet h) : (if p then x else y).2.Quiet h := by
  split <;> assumption

theorem Run.Quiet.locate {x : Run} {cva : Nat} {wr : Bool} (k : x.Quiet h) : (x.locate cva wr).2.Quiet h := by
  have walks : x.meetsWalk cva = x := by
    unfold Run.meetsWalk
    rw [k.2.1]
    rfl
  unfold Run.locate
  rw [walks]
  split
  · exact k
  dsimp only
  split
  · exact k
  · exact Run.Quiet.ite_2 k k

theorem Run.Quiet.toSlot {x : Run} {slot : Nat} (k : x.Quiet h) : (x.toSlot slot).Quiet h := by
  unfold Run.toSlot
  split
  · exact k
  split
  · exact k
  · exact k
  · split <;> exact k
  · exact k

theorem Run.Quiet.write {x : Run} {cva : Nat} {bs : List Byte} {po : Bool} (k : x.Quiet h) : (x.write cva bs po).Quiet h := by
  unfold Run.write
  split
  · exact k
  have located := k.locate (cva := cva) (wr := true)
  split
  next eq => rwa [eq] at located
  next eq =>
    rw [eq] at located
    split
    · exact located
    · exact located
    · dsimp only
      split
      exacts [located.toSlot, located.toSlot]

theorem Hw.foldl_ctxs {α : Type} {f : Hw → α → Hw} (step : ∀ g x, (f g x).ctxs = g.ctxs) (l : List α) (h : Hw) : (l.foldl f h).ctxs = h.ctxs :=
  List.foldlRecOn (motive := fun g : Hw => g.ctxs = h.ctxs) l f rfl fun g eq x _ => (step g x).trans eq

theorem Run.toHost_ctxs (x : Run) (g : Hw) (y : Nat × Nat × List Byte × Bool) : (x.toHost g y).ctxs = g.ctxs := by
  unfold Run.toHost
  dsimp only
  have written : (if ((g.hostWrite y.1 y.2.1 y.2.2.1).host y.1).up then g.hostWrite y.1 y.2.1 y.2.2.1
      else x.note (g.hostWrite y.1 y.2.1 y.2.2.1) (.host y.1) y.2.1 true).ctxs = g.ctxs := by split <;> rfl
  split
  · refine (Hw.foldl_ctxs (fun h g => ?_) _ _).trans written
    exact Hw.event_ctxs ..
  · exact written

theorem Run.toModule_ctxs (x : Run) (g : Hw) (slot da : Nat) (write : Bool) (m : MemAccess) : (x.toModule g slot da write m).ctxs = g.ctxs := by
  unfold Run.toModule
  split <;> rfl

/-- Carrying out such a run leaves the contexts. -/
theorem Run.Quiet.finish_ctxs {x : Run} (k : x.Quiet h) : x.finish.ctxs = h.ctxs := by
  obtain ⟨same, env, reads, writes⟩ := k
  have begun : (((x.h.writeErrors x.env x.w).applyWrites x.w).touchLines x.die x.w).ctxs = h.ctxs := by rw [env, same]; rfl
  have touched := (Hw.foldl_ctxs (f := fun h y => h.touchRemote x.die y) (fun _ _ => rfl) x.remoteW _).trans begun
  have hosts := (Hw.foldl_ctxs x.toHost_ctxs x.hostW _).trans touched
  have wrote := (Hw.foldl_ctxs (f := x.writeModule) (fun _ _ => Hw.foldl_ctxs (fun _ _ => x.toModule_ctxs ..) _ _) x.remoteW _).trans hosts
  have read := (Hw.foldl_ctxs (f := x.readModule) (fun _ _ => Hw.foldl_ctxs (fun _ _ => x.toModule_ctxs ..) _ _) x.remoteR.reverse _).trans wrote
  unfold Run.finish
  rw [reads, writes]
  exact (Hw.foldl_ctxs (f := fun h l => h.fillLine x.die x.tag x.alloc x.env l) (fun _ _ => rfl) x.lines _).trans read

theorem Hw.writeBack_ctxs : (h.writeBack r c).ctxs = h.ctxs := by
  unfold Hw.writeBack
  split
  · have starts : Run.Quiet h { Run.start h 16 (h.ring r).ctx true false {} with forced := true, ring := r, order := c.order } := ⟨rfl, rfl, rfl, rfl⟩
    exact Run.Quiet.finish_ctxs (List.foldlRecOn (motive := Run.Quiet h) _ _ starts fun _ k _ _ => k.write.write)
  · rfl

end

/-! ## A context that winds down (R74, R92) -/

/-- What a context keeps while it winds down: the mode of its teardown, its epoch, and the commands that wait for its end. -/
def Ctx.tenure (c : Ctx) : Bool × Bool × Byte × List (Nat × W32) := (c.flush, c.expired, c.epoch, c.closers)

/-- Every ring winds down. Context `n` keeps its tenure, and its state but for the step from QUIESCING to CLOSING when its rings have stopped. -/
structure Hw.Winds (n : Nat) (keep : Nat → W32 → Prop) (a b : Hw) : Prop where
  ring : ∀ r, (a.ring r).Winds (keep r) (b.ring r)
  tenure : (b.ctx n).tenure = (a.ctx n).tenure
  state : (b.ctx n).state = (a.ctx n).state ∨ (a.ctx n).state = .quiescing ∧ (b.ctx n).state = .closing ∧ b.ctxRings n = []

section
variable {n m r : Nat} {keep : Nat → W32 → Prop} {a b g h : Hw} {c : Cmd} {i : Import}

theorem Hw.mem_ctxRings : r ∈ h.ctxRings n ↔ r < 128 ∧ (h.ring r).module = false ∧ (h.ring r).ctx = n ∧ (h.ring r).state ≠ .stopped := by
  simp [Hw.ctxRings, and_assoc]

theorem Hw.ctxRings_nil : h.ctxRings n = [] ↔ ∀ r, r < 128 → (h.ring r).module = false → (h.ring r).ctx = n → (h.ring r).state = .stopped := by
  simp only [List.eq_nil_iff_forall_not_mem, Hw.mem_ctxRings, not_and, not_not]

/-- The rings of a context that have all stopped stay so. -/
theorem Hw.ctxRings_nil_of (winds : ∀ r, (a.ring r).Winds (keep r) (b.ring r)) (stopped : a.ctxRings n = []) : b.ctxRings n = [] := by
  rw [Hw.ctxRings_nil] at stopped ⊢
  exact fun r small context of => (winds r).stopped (stopped r small ((winds r).module ▸ context) ((winds r).ctx ▸ of))

theorem Hw.Winds.refl (a : Hw) : Hw.Winds n keep a a := ⟨fun _ => .refl _, rfl, .inl rfl⟩
theorem Hw.Winds.trans (ag : Hw.Winds n keep a g) (gb : Hw.Winds n keep g b) : Hw.Winds n keep a b := by
  refine ⟨fun r => (ag.ring r).trans (gb.ring r), gb.tenure.trans ag.tenure, ?_⟩
  obtain same | ⟨quiescing, closing, stopped⟩ := ag.state
  · exact gb.state.imp (·.trans same) fun ⟨quiescing, closing, stopped⟩ => ⟨same ▸ quiescing, closing, stopped⟩
  · refine .inr ⟨quiescing, (gb.state.resolve_right fun again => ?_).trans closing, Hw.ctxRings_nil_of gb.ring stopped⟩
    exact nomatch closing.symm.trans again.1

theorem Hw.Winds.ite {p : Prop} [Decidable p] (k : Hw.Winds n keep a g) (l : Hw.Winds n keep a b) : Hw.Winds n keep a (if p then g else b) := by
  split <;> assumption
theorem Hw.Winds.foldl {α : Type} {f : Hw → α → Hw} (l : List α) (k : Hw.Winds n keep a h)
    (step : ∀ h, ∀ x ∈ l, Hw.Winds n keep a h → Hw.Winds n keep a (f h x)) : Hw.Winds n keep a (l.foldl f h) :=
  List.foldlRecOn l f k fun _ k x mem => step _ x mem k

/-- An update that leaves the rings and the contexts. -/
theorem Hw.Winds.same (k : Hw.Winds n keep a h) (rings : b.rings = h.rings := by rfl) (ctxs : b.ctxs = h.ctxs := by rfl) : Hw.Winds n keep a b := by
  have ring (r : Nat) : b.ring r = h.ring r := congrArg (·.getD r {}) rings
  have ctx : b.ctx n = h.ctx n := congrArg (·.getD n {}) ctxs
  have rest : b.ctxRings n = h.ctxRings n := by simp only [Hw.ctxRings, ring]
  exact ⟨fun r => ring r ▸ k.ring r, ctx ▸ k.tenure, ctx ▸ rest ▸ k.state⟩

theorem Hw.Winds.event {ps : List Nat} {code src ctx d0 d1 : Nat} {epoch : Byte} (k : Hw.Winds n keep a h) :
    Hw.Winds n keep a (h.event ps code src ctx epoch d0 d1) := k.same (Hw.event_rings ..) (Hw.event_ctxs ..)
theorem Hw.Winds.evCtx {code src d0 d1 : Nat} (k : Hw.Winds n keep a h) : Hw.Winds n keep a (h.evCtx m code src d0 d1) := k.event

/-- An update of a context that keeps its tenure and its state. -/
theorem Hw.Winds.setCtx {f : Ctx → Ctx} (k : Hw.Winds n keep a h) (keeps : ∀ c, (f c).tenure = c.tenure ∧ (f c).state = c.state) :
    Hw.Winds n keep a (h.setCtx m f) := by
  refine k.trans ⟨fun _ => .refl _, ?_, .inl ?_⟩
  all_goals
    rw [Hw.ctx_setCtx]
    split
  exacts [(keeps _).1, rfl, (keeps _).2, rfl]

theorem Hw.Works.winds (works : Hw.Works r (keep r) a b) : Hw.Winds n keep a b := by
  refine ⟨fun k => ?_, ?_, .inl ?_⟩
  · by_cases same : k = r
    · exact same ▸ works.own
    · rw [works.others k same]
      exact .refl _
  all_goals rw [Hw.ctx, works.ctxs]; rfl

/-! ## Revocation (R80) -/

/-- A ring after the waits on a revoked object have ended. -/
theorem WorkRing.Winds.ends {keep : W32 → Prop} {w : WorkRing} {f : Cmd → Cmd} {l : List Cmd} {fetched : List Cmd} (index : ∀ c, (f c).index = c.index)
    (closes : ∀ c, c.opcode = 0x35 → f c = c) (rest : w.fetched = [] → fetched = []) :
    w.Winds keep { w with running := w.running.map f ++ l, fetched := fetched } where
  module := rfl
  ctx := rfl
  stopped := id
  idle := id
  fetched := rest
  kept := fun i c _ close at_ => by
    rw [List.find?_append, find_map_keep _ _ _ index, at_, Option.map_some, closes c close]
    rfl

theorem Hw.Winds.endRevokedWaits (k : Hw.Winds n keep a h) : Hw.Winds n keep a (h.endRevokedWaits m i) := by
  refine k.trans ⟨fun r => ?_, rfl, .inl rfl⟩
  simp only [Hw.endRevokedWaits, Hw.ring, List.getD_eq_getElem?_getD, List.getElem?_map]
  cases h.rings[r]? with
  | none => exact .refl _
  | some w =>
    simp only [Option.map_some, Option.getD_some]
    split
    · exact .refl _
    have ends {l fetched : List Cmd} := WorkRing.Winds.ends (keep := keep r) (w := w) (l := l) (fetched := fetched)
      (f := fun d => if (d.opcode == 0x03 || d.opcode == 0x04) && d.phase == .blocked && !d.satisfied &&
        (i.sync && decide (i.base ≤ bits (d.f 0x1A 2) 12 0) && decide (bits (d.f 0x1A 2) 12 0 < i.base + i.length))
        then d.finish stContextGone (coordNat h.self) else d) (fun d => by split; exacts [Cmd.finish_index .., rfl]) (fun d close => by simp [close])
    split
    next d rest eq =>
      split
      · exact ends (by simp [eq])
      · simpa using ends (l := []) (fetched := w.fetched) id
    · simpa using ends (l := []) (fetched := w.fetched) id

theorem Hw.Winds.revoke (k : Hw.Winds n keep a h) : Hw.Winds n keep a (h.revoke m) :=
  .foldl _ k fun _ _ _ k => .ite k (.foldl _ k fun _ _ _ k => .ite (.endRevokedWaits (.evCtx (k.setCtx fun _ => ⟨rfl, rfl⟩))) k)

/-! ## CLOSING (R74, R92) -/

theorem Hw.Winds.closeIfStopped (k : Hw.Winds n keep a h) : Hw.Winds n keep a (h.closeIfStopped m) := by
  unfold Hw.closeIfStopped
  split
  next closes =>
    obtain ⟨quiescing, stopped⟩ : (h.ctx m).state = .quiescing ∧ h.ctxRings m = [] := by simpa using closes
    have enters : Hw.Winds n keep h (h.setCtx m fun c => { c with state := .closing }) := by
      refine ⟨fun _ => .refl _, ?_, ?_⟩
      · rw [Hw.ctx_setCtx]
        split <;> rfl
      · rw [Hw.ctx_setCtx]
        split
        next here => exact .inr ⟨here.1 ▸ quiescing, rfl, here.1 ▸ stopped⟩
        · exact .inl rfl
    exact .revoke (.ite (k.trans enters).evCtx (k.trans enters))
  · exact k

theorem Hw.Winds.stopIfDrained (k : Hw.Winds n keep a h) : Hw.Winds n keep a (h.stopIfDrained r) := by
  obtain same | ⟨g, works, eq⟩ := h.stopIfDrained_works r (keep r)
  · rw [same]
    exact k
  · have worked := k.trans works.winds
    exact eq ▸ .ite worked worked.closeIfStopped

theorem Hw.Winds.complete (k : Hw.Winds n keep a h) (goes : ¬ keep r c.index) : Hw.Winds n keep a (h.complete r c) := by
  obtain ⟨g, eq, works⟩ := h.complete_works (r := r) goes
  exact eq ▸ ((k.same (h.writeBack_like r c).rings Hw.writeBack_ctxs).trans works.winds).stopIfDrained

theorem Hw.Winds.abortRunning {spare : W32 → Bool} (k : Hw.Winds n keep a h) (goes : ∀ i, spare i = false → ¬ keep r i) :
    Hw.Winds n keep a (h.abortRunning r spare) := .foldl _ k fun _ c _ k => by
  split
  · exact k
  next free => exact k.complete (by rw [Cmd.finish_index]; exact goes _ (by simpa using free))

/-- An abort keeps the command that closes the context, and that one alone is to be kept in its ring. -/
theorem Hw.Winds.flushRunning {self : Option (Nat × W32)} (k : Hw.Winds n keep a h) (goes : ∀ i, keep r i → self = some (r, i)) :
    Hw.Winds n keep a (h.flushRunning r self) :=
  Hw.Winds.same (h := h.abortRunning r fun i => self == some (r, i) || h.drains r i) (k.abortRunning fun i free may => by simp [goes i may] at free)

/-! ## What stands beside it -/

theorem Hw.foldl_mem {α : Type} {f : Hw → α → Hw} (step : ∀ g x, (f g x).mem = g.mem) (l : List α) (h : Hw) : (l.foldl f h).mem = h.mem :=
  List.foldlRecOn (motive := fun g : Hw => g.mem = h.mem) l f rfl fun g eq x _ => (step g x).trans eq

theorem Hw.evCtx_mem (h : Hw) (m code src d0 d1 : Nat) : (h.evCtx m code src d0 d1).mem = h.mem := Hw.event_mem ..

theorem Hw.revoke_mem (h : Hw) (m : Nat) : (h.revoke m).mem = h.mem := by
  refine Hw.foldl_mem (fun g k => ?_) _ h
  split
  · rfl
  · refine Hw.foldl_mem (fun g i => ?_) _ g
    split
    · exact Hw.evCtx_mem ..
    · rfl

theorem Hw.enterClosing_mem (h : Hw) (m : Nat) : (h.enterClosing m).mem = h.mem := by
  refine (Hw.revoke_mem ..).trans ?_
  split
  exacts [Hw.evCtx_mem .., rfl]

theorem Hw.closeIfStopped_mem (h : Hw) (m : Nat) : (h.closeIfStopped m).mem = h.mem := by
  unfold Hw.closeIfStopped
  split
  exacts [h.enterClosing_mem m, rfl]

theorem Hw.stopIfDrained_mem (h : Hw) (r : Nat) : (h.stopIfDrained r).mem = h.mem := by
  obtain same | ⟨g, works, eq⟩ := h.stopIfDrained_works r fun _ => False
  · rw [same]
  · rw [eq]
    split
    exacts [works.mem, (g.closeIfStopped_mem _).trans works.mem]

/-- A completion leaves memory, but for the entries of a WAIT_PREFETCH. -/
theorem Hw.complete_mem (plain : ∀ l, c.work ≠ .prefetch l) : (h.complete r c).mem = h.mem := by
  obtain ⟨g, eq, works⟩ := h.complete_works (r := r) (c := c) (keep := fun _ => False) id
  rw [eq, Hw.stopIfDrained_mem, works.mem, Hw.writeBack_plain plain]

/-- While another ring of its context has not stopped, a completion leaves that ring as it is. -/
theorem Hw.complete_spares {k : Nat} (open_ : k ∈ h.ctxRings n) (ne : k ≠ r) (of : (h.ring r).ctx = n) : (h.complete r c).ring k = h.ring k := by
  obtain ⟨g, eq, works⟩ := h.complete_works (r := r) (c := c) (keep := fun _ => False) id
  have back (j : Nat) : (h.writeBack r c).ring j = h.ring j := (h.writeBack_like r c).ring j
  have gSame : g.ring k = h.ring k := (works.others k ne).trans (back k)
  have gCtx : (g.ring r).ctx = n := (works.own.ctx.trans (congrArg WorkRing.ctx (back r))).trans of
  rw [eq, ← gSame]
  obtain same | ⟨b, works', eq'⟩ := g.stopIfDrained_works r fun _ => False
  · rw [same]
  · have bSame : b.ring k = g.ring k := works'.others k ne
    have goes : b.ctxRings n ≠ [] := List.ne_nil_of_mem (a := k) (by
      rw [Hw.mem_ctxRings, bSame, gSame]
      exact Hw.mem_ctxRings.1 open_)
    rw [eq']
    split
    · exact bSame
    · rw [gCtx, Hw.closeIfStopped, if_neg (by simp [goes])]
      exact bSame

/-- So does an abort of all that runs in the first. -/
theorem Hw.flushRunning_spares {k : Nat} {self : Option (Nat × W32)} (open_ : k ∈ h.ctxRings n) (ne : k ≠ r) (of : (h.ring r).ctx = n) :
    (h.flushRunning r self).ring k = h.ring k := by
  suffices same : ∀ spare, (h.abortRunning r spare).ring k = h.ring k ∧ ((h.abortRunning r spare).ring r).ctx = n from (same _).1
  intro spare
  refine List.foldlRecOn (motive := fun g : Hw => g.ring k = h.ring k ∧ (g.ring r).ctx = n) _ _ ⟨rfl, of⟩ fun g ⟨same, of⟩ d _ => ?_
  split
  · exact ⟨same, of⟩
  · have open_ : k ∈ g.ctxRings n := by
      rw [Hw.mem_ctxRings, same]
      exact Hw.mem_ctxRings.1 open_
    exact ⟨(Hw.complete_spares open_ ne of).trans same, (((Hw.Winds.refl (n := n) (keep := fun _ _ => False) g).complete id).ring r).ctx.trans of⟩

theorem Hw.flushRunning_mem {self : Option (Nat × W32)} (plain : ∀ d ∈ (h.ring r).running, ∀ l, d.work ≠ .prefetch l) :
    (h.flushRunning r self).mem = h.mem := by
  refine List.foldlRecOn (motive := fun g : Hw => g.mem = h.mem) _ _ rfl fun g eq d running => ?_
  split
  · exact eq
  · refine (Hw.complete_mem ?_).trans eq
    intro l
    unfold Cmd.finish
    split <;> exact plain d running l

/-- Aborting what runs in the rings of a context leaves memory, where none of it is a WAIT_PREFETCH. -/
theorem Hw.flushRings_mem {self : Option (Nat × W32)} {l : List Nat} (distinct : l.Nodup)
    (rings : ∀ r ∈ l, r ∈ h.ctxRings n ∧ ∀ d ∈ (h.ring r).running, ∀ l, d.work ≠ .prefetch l) :
    (l.foldl (fun h r => h.flushRunning r self) h).mem = h.mem := by
  induction l generalizing h with
  | nil => rfl
  | cons r l ih =>
    obtain ⟨fresh, distinct⟩ := List.nodup_cons.1 distinct
    obtain ⟨open_, plain⟩ := rings r List.mem_cons_self
    refine (ih distinct fun k later => ?_).trans (Hw.flushRunning_mem plain)
    obtain ⟨kOpen, kPlain⟩ := rings k (List.mem_cons_of_mem r later)
    have same : (h.flushRunning r self).ring k = h.ring k :=
      Hw.flushRunning_spares kOpen (fun eq => fresh (eq ▸ later)) (Hw.mem_ctxRings.1 open_).2.2.1
    rw [Hw.mem_ctxRings, same]
    exact ⟨Hw.mem_ctxRings.1 kOpen, kPlain⟩

theorem Hw.ctxRings_nodup : (h.ctxRings n).Nodup := List.nodup_range.filter _

end

end Sys2Proof.Machine
end

section
/-! PROOFS. The ways a context closes (03 R74, R91, R92). -/

namespace Sys2Proof.Machine

/-! ## Rings that drain (R69, R91) -/

/-- A ring told to drain what it has started. -/
def WorkRing.drain (w : WorkRing) : WorkRing := { w with fetched := [], limit := none, drainWait := false, state := .draining }

/-- What an update of some rings, one after the other, makes of each. -/
theorem Hw.foldl_setRing {st : Hw → Nat → Hw} {f : WorkRing → WorkRing} (step : ∀ g r, (st g r).rings = (g.setRing r f).rings) (idem : ∀ w, f (f w) = f w)
    (l : List Nat) (h : Hw) (k : Nat) : (l.foldl st h).rings.length = h.rings.length ∧
      (l.foldl st h).ring k = if k ∈ l ∧ k < h.rings.length then f (h.ring k) else h.ring k := by
  induction l generalizing h with
  | nil => simp
  | cons r l ih =>
    have length : (st h r).rings.length = h.rings.length := by rw [step]; exact List.length_modify ..
    have ring : (st h r).ring k = if k = r ∧ r < h.rings.length then f (h.ring k) else h.ring k := by
      rw [← Hw.ring_setRing]
      exact congrArg (·.getD k {}) (step h r)
    obtain ⟨length', ring'⟩ := ih (st h r)
    refine ⟨length'.trans length, ring'.trans ?_⟩
    rw [length, ring]
    by_cases there : k < h.rings.length
    · by_cases here : k = r
      · subst here
        by_cases later : k ∈ l <;> simp [there, later, idem]
      · simp [there, here]
    · have out : ¬ (k = r ∧ r < h.rings.length) := fun here => there (here.1 ▸ here.2)
      simp [there, out]

/-- A context that is QUIESCING, with its rings told to drain. -/
def Hw.startClose (h : Hw) (n : Nat) (flush : Bool) : Hw :=
  let h := h.setCtx n fun c => { c with state := .quiescing, flush := flush, expired := false }
  let h := h.evCtx n 0x0103 srcModule (b2n flush) 0
  let rs := h.ctxRings n
  let h := rs.foldl (fun h r => h.setRing r fun w => { w with fetched := [], limit := none, drainWait := false }) h
  rs.foldl (fun h r => h.setRingState r .draining) h

section
variable {a h t : Hw} {n r : Nat} {flush : Bool} {self : Option (Nat × W32)} {keep : Nat → W32 → Prop} {index : W32} {c : Cmd}

theorem Hw.ctx_there (used : (h.ctx n).state ≠ .free) : n < h.ctxs.length := by
  by_contra out
  exact used (congrArg Ctx.state (List.getD_eq_default _ _ (Nat.le_of_not_lt out)))

theorem Hw.ctxRings_congr (same : a.rings = h.rings) : a.ctxRings n = h.ctxRings n := by simp only [Hw.ctxRings, Hw.ring, same]

/-- The rings that drain; the context, QUIESCING; and what stands. -/
theorem Hw.startClose_leaves (there : n < h.ctxs.length) : let g := h.startClose n flush
    (∀ r ∈ h.ctxRings n, g.ring r = (h.ring r).drain) ∧ (∀ r, r ∉ h.ctxRings n → g.ring r = h.ring r) ∧ g.mem = h.mem ∧
    g.ctx n = { h.ctx n with state := .quiescing, flush := flush, expired := false } := by
  intro g
  let told := (h.setCtx n fun c => { c with state := .quiescing, flush := flush, expired := false }).evCtx n 0x0103 srcModule (b2n flush) 0
  have toldRings : told.rings = h.rings := Hw.event_rings ..
  let cleared := (h.ctxRings n).foldl (fun h r => h.setRing r fun w => { w with fetched := [], limit := none, drainWait := false }) told
  have eq : g = (h.ctxRings n).foldl (fun h r => h.setRingState r .draining) cleared := by
    show (told.ctxRings n).foldl _ ((told.ctxRings n).foldl _ told) = _
    rw [Hw.ctxRings_congr toldRings]
  have clears := Hw.foldl_setRing (st := fun h r => h.setRing r fun w => { w with fetched := [], limit := none, drainWait := false })
    (fun _ _ => rfl) (fun _ => rfl) (h.ctxRings n) told
  have drains := Hw.foldl_setRing (st := fun h r => h.setRingState r .draining) (f := fun w => { w with state := .draining })
    (fun _ _ => rfl) (fun _ => rfl) (h.ctxRings n) cleared
  have toldRing (k : Nat) : told.ring k = h.ring k := congrArg (·.getD k {}) toldRings
  have ring (k : Nat) : g.ring k = if k ∈ h.ctxRings n ∧ k < h.rings.length then (h.ring k).drain else h.ring k := by
    rw [eq, (drains k).2, (clears k).1, (clears k).2, toldRings, toldRing]
    split <;> rfl
  have ctxs : g.ctxs = told.ctxs := by
    rw [eq]
    exact (Hw.foldl_ctxs (by intros; rfl) _ cleared).trans (Hw.foldl_ctxs (by intros; rfl) _ told)
  refine ⟨fun k mem => ?_, fun k out => ?_, ?_, ?_⟩
  · rw [ring, if_pos ⟨mem, Hw.ring_there_of_state (Hw.mem_ctxRings.1 mem).2.2.2⟩]
  · rw [ring, if_neg fun here => out here.1]
  · rw [eq]
    exact ((Hw.foldl_mem (by intros; rfl) _ cleared).trans (Hw.foldl_mem (by intros; rfl) _ told)).trans (Hw.evCtx_mem ..)
  · rw [Hw.ctx, ctxs]
    exact (congrArg (·.getD n {}) (Hw.event_ctxs ..)).trans (Hw.ctx_setCtx_same _ _ _ there)

/-! ## CLOSING (R92) -/

theorem Hw.enterClosing_winds {m : Nat} : Hw.Winds n keep (h.setCtx m fun c => { c with state := .closing }) (h.enterClosing m) :=
  .revoke (.ite (.evCtx (.refl _)) (.refl _))

/-- A context in CLOSING keeps its tenure. -/
theorem Hw.enterClosing_ctx (there : n < h.ctxs.length) :
    ((h.enterClosing n).ctx n).state = .closing ∧ ((h.enterClosing n).ctx n).tenure = (h.ctx n).tenure := by
  have winds : Hw.Winds n (fun _ _ => False) _ (h.enterClosing n) := Hw.enterClosing_winds
  have before : (h.setCtx n fun c => { c with state := .closing }).ctx n = { h.ctx n with state := .closing } := Hw.ctx_setCtx_same _ _ _ there
  have tenure := winds.tenure
  have state := winds.state
  rw [before] at tenure state
  exact ⟨state.resolve_right fun again => (nomatch again.1), tenure⟩

/-- A QUIESCING context is CLOSING once all its rings have stopped. -/
theorem Hw.closeIfStopped_state (state : (h.ctx n).state = .quiescing ∨ (h.ctx n).state = .closing ∧ h.ctxRings n = []) :
    ((h.closeIfStopped n).ctx n).state = if (h.closeIfStopped n).ctxRings n = [] then .closing else .quiescing := by
  obtain quiescing | ⟨closing, stopped⟩ := state
  · by_cases stopped : h.ctxRings n = []
    · have closes : h.closeIfStopped n = h.enterClosing n := if_pos (by simp [quiescing, stopped])
      have winds : Hw.Winds n (fun _ _ => False) h (h.closeIfStopped n) := (Hw.Winds.refl h).closeIfStopped
      rw [if_pos (Hw.ctxRings_nil_of winds.ring stopped), closes]
      exact (Hw.enterClosing_ctx (Hw.ctx_there (by simp [quiescing]))).1
    · have stays : h.closeIfStopped n = h := if_neg (by simp [stopped])
      rw [stays, if_neg stopped, quiescing]
  · have stays : h.closeIfStopped n = h := if_neg (by simp [closing])
    rw [stays, if_pos stopped, closing]

/-! ## Closing a context (R91) -/

/-- A context that was OPEN or ACTIVE closes: QUIESCING or CLOSING by its rings, in its mode, with memory as it was but for a WAIT_PREFETCH that FLUSH
mode ends; none of its rings has a command that was only fetched, and none runs. -/
def Hw.Closes (a t : Hw) (n : Nat) (flush : Bool) : Prop :=
  (t.ctx n).state = (if t.ctxRings n = [] then .closing else .quiescing) ∧ (t.ctx n).flush = flush ∧
  (flush = false ∨ (∀ r ∈ a.ctxRings n, ∀ d ∈ (a.ring r).running, ∀ l, d.work ≠ .prefetch l) → t.mem = a.mem) ∧
  ∀ r ∈ a.ctxRings n, (t.ring r).fetched = [] ∧ (t.ring r).state ≠ .running

/-- The rings of a context that drain are aborted in FLUSH mode, and stop where nothing of them is left. -/
def Hw.windDown (h : Hw) (rs : List Nat) (flush : Bool) (self : Option (Nat × W32)) : Hw :=
  rs.foldl Hw.stopIfDrained (if flush then rs.foldl (fun h r => h.flushRunning r self) h else h)

theorem Hw.closeCtx_live (live : (h.ctx n).state = .opened ∨ (h.ctx n).state = .active) :
    h.closeCtx n flush self = ((h.startClose n flush).windDown (h.ctxRings n) flush self).closeIfStopped n := by
  have same : ((h.setCtx n fun c => { c with state := .quiescing, flush := flush, expired := false }).evCtx n 0x0103 srcModule (b2n flush) 0).ctxRings n
      = h.ctxRings n := Hw.ctxRings_congr (Hw.event_rings ..)
  unfold Hw.closeCtx
  dsimp only
  rw [if_pos (by simpa using live), same]
  unfold Hw.startClose Hw.windDown
  dsimp only
  rw [same]

theorem Hw.windDown_winds {rs : List Nat} (goes : ∀ r ∈ rs, ∀ i, keep r i → self = some (r, i)) : Hw.Winds n keep h (h.windDown rs flush self) :=
  .foldl _ (.ite (.foldl _ (.refl h) fun _ r mem k => k.flushRunning (goes r mem)) (.refl h)) fun _ _ _ k => k.stopIfDrained

theorem Hw.windDown_mem {rs : List Nat} (distinct : rs.Nodup)
    (plain : flush = false ∨ ∀ r ∈ rs, r ∈ h.ctxRings n ∧ ∀ d ∈ (h.ring r).running, ∀ l, d.work ≠ .prefetch l) :
    (h.windDown rs flush self).mem = h.mem := by
  refine (Hw.foldl_mem Hw.stopIfDrained_mem _ _).trans ?_
  cases flush with
  | false => rfl
  | true => exact Hw.flushRings_mem distinct (plain.resolve_left nofun)

/-- Closing a context. A CONTEXT_CLOSE that is not aborted stays as it is. -/
theorem Hw.closeCtx_closes (live : (h.ctx n).state = .opened ∨ (h.ctx n).state = .active)
    (goes : ∀ r ∈ h.ctxRings n, ∀ i, keep r i → self = some (r, i)) : let t := h.closeCtx n flush self
    h.Closes t n flush ∧ (t.ctx n).closers = (h.ctx n).closers ∧
      ∀ r i c, keep r i → c.opcode = 0x35 → h.cmd r i = some c → t.cmd r i = some c := by
  intro t
  have there : n < h.ctxs.length := Hw.ctx_there (by obtain live | live := live <;> simp [live])
  obtain ⟨drained, others, mem, ctx⟩ := Hw.startClose_leaves (flush := flush) there
  have eq : t = ((h.startClose n flush).windDown (h.ctxRings n) flush self).closeIfStopped n := Hw.closeCtx_live live
  have winds : Hw.Winds n keep (h.startClose n flush) ((h.startClose n flush).windDown (h.ctxRings n) flush self) := Hw.windDown_winds goes
  have all : Hw.Winds n keep (h.startClose n flush) t := eq ▸ winds.closeIfStopped
  have tenure := all.tenure
  have state := winds.state
  rw [ctx] at tenure state
  simp only [Ctx.tenure, Prod.mk.injEq] at tenure
  obtain ⟨mode, -, -, closers⟩ := tenure
  refine ⟨⟨?_, mode, fun plain => ?_, fun r mem => ?_⟩, closers, fun r i c may close cmd => (all.ring r).kept i c may close ?_⟩
  · rw [eq]
    exact Hw.closeIfStopped_state (state.imp_right fun ⟨_, closing, stopped⟩ => ⟨closing, stopped⟩)
  · rw [eq, Hw.closeIfStopped_mem, Hw.windDown_mem (n := n) Hw.ctxRings_nodup (plain.imp_right fun plain r mem => ?_), mem]
    rw [Hw.mem_ctxRings, drained r mem]
    obtain ⟨small, context, of, _⟩ := Hw.mem_ctxRings.1 mem
    exact ⟨⟨small, context, of, nofun⟩, plain r mem⟩
  · have ring := all.ring r
    rw [drained r mem] at ring
    exact ⟨ring.fetched rfl, ring.idle nofun⟩
  · by_cases mem : r ∈ h.ctxRings n
    · rw [drained r mem]
      exact cmd
    · rw [others r mem]
      exact cmd

/-- From FAULTED teardown begins at once, in FLUSH mode. -/
theorem Hw.closeCtx_faulted (faulted : (h.ctx n).state = .faulted) : let t := h.closeCtx n flush self
    t.mem = h.mem ∧ (t.ctx n).state = .closing ∧ (t.ctx n).flush = true := by
  intro t
  have there : n < h.ctxs.length := Hw.ctx_there (by simp [faulted])
  have eq : t = (h.setCtx n fun c => { c with flush := true }).enterClosing n := by simp [t, Hw.closeCtx, faulted]
  obtain ⟨closing, tenure⟩ := Hw.enterClosing_ctx (h := h.setCtx n fun c => { c with flush := true }) (n := n) (by simpa using there)
  rw [Hw.ctx_setCtx_same _ _ _ there] at tenure
  simp only [Ctx.tenure, Prod.mk.injEq] at tenure
  rw [eq]
  exact ⟨Hw.enterClosing_mem .., closing, tenure.1⟩

/-! ## Commands beside a close -/

/-- An update of a command leaves all else of its ring. -/
theorem Hw.setCmd_ring (h : Hw) (r k : Nat) (f : Cmd → Cmd) : let w := (h.setCmd r index f).ring k
    w.module = (h.ring k).module ∧ w.ctx = (h.ring k).ctx ∧ w.state = (h.ring k).state ∧ w.fetched = (h.ring k).fetched := by
  intro w
  have eq : w = { h.ring k with running := w.running } := Hw.ring_setCmd h r k index f
  rw [eq]
  exact ⟨rfl, rfl, rfl, rfl⟩

theorem Hw.ctxRings_setCmd {f : Cmd → Cmd} : (h.setCmd r index f).ctxRings n = h.ctxRings n := by
  refine List.filter_congr fun k _ => ?_
  obtain ⟨module, ctx, state, -⟩ := Hw.setCmd_ring (index := index) h r k f
  simp only [module, ctx, state]

theorem Hw.Closes.finishCmd {st dt : Nat} (closes : a.Closes t n flush) : a.Closes (t.finishCmd r index st dt) n flush := by
  obtain ⟨state, mode, mem, rings⟩ := closes
  refine ⟨?_, mode, mem, fun k in_ => ?_⟩
  · rw [Hw.finishCmd, Hw.ctxRings_setCmd]
    exact state
  · obtain ⟨-, -, state, fetched⟩ := Hw.setCmd_ring (index := index) t r k fun c => c.finish st dt
    exact ⟨fetched.trans (rings k in_).1, state.trans_ne (rings k in_).2⟩

/-! ## The ways to close (R90, R91) -/

theorem Hw.cmdClose_closes {port : Nat} (owner : (h.ctx n).owner = port)
    (used : (h.ctx n).state = .opened ∨ (h.ctx n).state = .active ∨ (h.ctx n).state = .faulted) : h.cmdClose port n flush = h.closeCtx n flush none :=
  if_pos (by simpa [owner, or_assoc] using used)

theorem Hw.cmdClose_refused {port : Nat}
    (other : (h.ctx n).owner ≠ port ∨ (h.ctx n).state = .free ∨ (h.ctx n).state = .quiescing ∨ (h.ctx n).state = .closing) :
    h.cmdClose port n flush = h.ctxCmdErr n := if_neg (by
  obtain owner | state | state | state := other
  · simp [owner]
  all_goals simp [state])

/-- The meaning of a started CONTEXT_CLOSE. -/
def Hw.closeBody (h : Hw) (r : Nat) (i : W32) (c : Cmd) : Hw :=
  let w := h.ring r
  let flush := (c.f 0x19 1).testBit 0
  if w.module then
    let n := c.f 0x18 1 % 16
    let st := (h.ctx n).state
    if st == .free || st == .closing || (h.ctx n).epoch.toNat != c.f 0x1A 1 then h.conflict r i 0x0107
    else
      let h := h.setCmd r i fun c => { c with phase := .blocked }
      (h.setCtx n fun c => { c with closers := c.closers ++ [(r, i)] }).closeCtx n flush none
  else if (h.ctx w.ctx).live then (h.closeCtx w.ctx flush (some (r, i))).finishCmd r i stOk 0
  else h.conflict r i 0x0101

theorem exec_contextClose {s : State} (ready : s.hw.Ready r index 0x35 c) :
    exec (.contextClose r index) s = .next { s with hw := s.hw.closeBody r index c } := by
  show execContextClose r index s = _
  rw [execContextClose, act_on ready.1, Hw.onCmd_ready ready, if_neg (by simp [ready.2.2.1])]
  rfl

/-- CONTEXT_CLOSE on a ring of its context. -/
theorem Hw.closeBody_own (ready : h.Ready r index 0x35 c) (context : (h.ring r).module = false)
    (live : (h.ctx (h.ring r).ctx).state = .opened ∨ (h.ctx (h.ring r).ctx).state = .active) :
    (h.closeBody r index c).Ended r index 0 0 ∧ h.Closes (h.closeBody r index c) (h.ring r).ctx ((c.f 0x19 1).testBit 0) := by
  obtain ⟨-, cmd, started, opcode⟩ := ready
  have eq : h.closeBody r index c = (h.closeCtx (h.ring r).ctx ((c.f 0x19 1).testBit 0) (some (r, index))).finishCmd r index stOk 0 := by
    have lives : (h.ctx (h.ring r).ctx).live = true := by obtain live | live := live <;> simp [Ctx.live, live]
    simp [Hw.closeBody, context, lives]
  obtain ⟨closes, -, kept⟩ := Hw.closeCtx_closes (flush := (c.f 0x19 1).testBit 0) (self := some (r, index))
    (keep := fun k i => (r, index) = (k, i)) live fun k _ i same => congrArg some same
  rw [eq]
  exact ⟨Hw.finishCmd_ended _ _ _ _ _ c (kept r index c rfl opcode cmd) (by simp [started]), closes.finishCmd⟩

/-- CONTEXT_CLOSE on a module ring. -/
theorem Hw.closeBody_module (ready : h.Ready r index 0x35 c) (module : (h.ring r).module = true) (names : c.f 0x18 1 % 16 = n)
    (live : (h.ctx n).state = .opened ∨ (h.ctx n).state = .active) (epoch : (h.ctx n).epoch.toNat = c.f 0x1A 1) :
    let t := h.closeBody r index c
    t.cmd r index = some { c with phase := .blocked } ∧ (t.ctx n).closers = (h.ctx n).closers ++ [(r, index)] ∧
    h.Closes t n ((c.f 0x19 1).testBit 0) := by
  obtain ⟨-, cmd, started, opcode⟩ := ready
  let b := h.setCmd r index fun c => { c with phase := .blocked }
  let g := b.setCtx n fun c => { c with closers := c.closers ++ [(r, index)] }
  have there : n < h.ctxs.length := Hw.ctx_there (by obtain live | live := live <;> simp [live])
  have ctx : g.ctx n = { h.ctx n with closers := (h.ctx n).closers ++ [(r, index)] } := Hw.ctx_setCtx_same b _ _ there
  have eq : h.closeBody r index c = g.closeCtx n ((c.f 0x19 1).testBit 0) none := by
    have used : ((h.ctx n).state == .free || (h.ctx n).state == .closing || (h.ctx n).epoch.toNat != c.f 0x1A 1) = false := by
      obtain live | live := live <;> simp [live, epoch]
    simp only [Hw.closeBody, module, if_true, names, used, Bool.false_eq_true, if_false]
    rfl
  have rings : g.ctxRings n = h.ctxRings n := Hw.ctxRings_setCmd
  have foreign : r ∉ h.ctxRings n := fun mem => by simpa [module] using (Hw.mem_ctxRings.1 mem).2.1
  have others (k : Nat) (mem : k ∈ h.ctxRings n) : g.ring k = h.ring k := Hw.ring_setCmd_other h r k index _ fun same => foreign (same ▸ mem)
  obtain ⟨⟨state, mode, mem, idle⟩, closers, kept⟩ := Hw.closeCtx_closes (h := g) (n := n) (flush := (c.f 0x19 1).testBit 0) (self := none)
    (keep := fun k _ => k = r) (by rw [ctx]; exact live) fun k mem _ same => absurd (same ▸ rings ▸ mem) foreign
  rw [eq]
  refine ⟨kept r index _ rfl ?_ (Hw.block_cmd cmd), closers.trans (congrArg Ctx.closers ctx), state, mode, fun plain => mem ?_, rings ▸ idle⟩
  · exact opcode
  · exact plain.imp_right fun plain k in_ => by
      rw [others k (rings ▸ in_)]
      exact plain k (rings ▸ in_)

theorem Hw.closeBody_refused (module : (h.ring r).module = true) (names : c.f 0x18 1 % 16 = n)
    (gone : (h.ctx n).state = .free ∨ (h.ctx n).state = .closing ∨ (h.ctx n).epoch.toNat ≠ c.f 0x1A 1) :
    h.closeBody r index c = h.conflict r index 0x0107 := by
  have refused : ((h.ctx n).state == .free || (h.ctx n).state == .closing || (h.ctx n).epoch.toNat != c.f 0x1A 1) = true := by
    obtain state | state | epoch := gone
    · simp [state]
    · simp [state]
    · simp [epoch]
  simp only [Hw.closeBody, module, if_true, names, refused]

end

end Sys2Proof.Machine

namespace Sys2Proof
open Machine

/-- Settles O38, by the state of the context: OPEN or ACTIVE, FAULTED, or one that does not close; and by the ring of a CONTEXT_CLOSE. -/
theorem contextsClose : Obligations.ContextsClose := by
  intro n s x closes powered there
  refine ⟨fun port flush => ?_, fun ring index c => ?_⟩
  · intro row lit reaches
    have steps : exec row s = .next { s with hw := s.hw.cmdClose port n flush } := by
      cases flush
      · exact actFrom_on (f := fun h => h.cmdClose port n false) powered lit reaches
      · exact actFrom_on (f := fun h => h.cmdClose port n true) powered lit reaches
    refine ⟨fun owner live => ⟨_, steps, rfl, ?_⟩, fun owner faulted => ⟨_, steps, rfl, ?_⟩, fun other => ⟨_, steps, rfl, ?_⟩⟩
    · rw [Hw.cmdClose_closes owner (live.imp_right .inl)]
      exact (Hw.closeCtx_closes (keep := fun _ _ => False) live fun _ _ _ => False.elim).1
    · rw [Hw.cmdClose_closes owner (.inr (.inr faulted))]
      exact Hw.closeCtx_faulted faulted
    · rw [Hw.cmdClose_refused other]
      exact ⟨Hw.setCtx_onlyCtx .., Hw.ctx_setCtx_same _ _ _ there⟩
  · intro w flush ready
    have steps := exec_contextClose ready
    refine ⟨fun context of live => ?_, fun module names live epoch => ?_, fun module names gone => ?_⟩
    · subst of
      obtain ⟨ended, closed⟩ := Hw.closeBody_own ready context live
      exact ⟨_, steps, rfl, ended, closed⟩
    · obtain ⟨blocked, closers, closed⟩ := Hw.closeBody_module ready module names live epoch
      exact ⟨_, steps, rfl, blocked, closers, closed⟩
    · rw [Hw.closeBody_refused module names gone] at steps
      obtain ⟨rest, only⟩ := s.hw.finishCmd_only ring index stStateConflict 0x0107
      exact ⟨_, steps, rfl, ready.ended _ _, only, rest⟩

end Sys2Proof
end

section
/-! PROOFS. QUIESCE_EXPIRY, TEARDOWN_COMPLETE and NUMBER_HOLD_EXPIRY (03 R73, R74, R92; 05 R146). -/

namespace Sys2Proof.Machine

section
variable {a h t : Hw} {n r : Nat} {s : State} {i : W32}

/-! ## The end of QUIESCING (R74) -/

/-- The meaning of QUIESCE_EXPIRY for a QUIESCING context. -/
def Hw.expire (h : Hw) (n : Nat) : Hw :=
  let g := (h.setCtx n fun c => { c with flush := true, expired := true }).windDown (h.ctxRings n) true none
  if (g.ctx n).state == .quiescing then g.enterClosing n else g

theorem exec_quiesceExpiry (powered : s.hw.ks2.powered = true) (quiescing : (s.hw.ctx n).state = .quiescing) :
    exec (.quiesceExpiry n) s = .next { s with hw := s.hw.expire n } := by
  show execQuiesceExpiry n s = _
  rw [execQuiesceExpiry, act_on powered, if_neg (by simp [quiescing])]
  rfl

theorem Hw.expire_closes (quiescing : (h.ctx n).state = .quiescing) : let t := h.expire n
    ((∀ r ∈ h.ctxRings n, ∀ d ∈ (h.ring r).running, ∀ l, d.work ≠ .prefetch l) → t.mem = h.mem) ∧
    (t.ctx n).state = .closing ∧ (t.ctx n).flush = true ∧ (t.ctx n).expired = true ∧ (t.ctx n).epoch = (h.ctx n).epoch := by
  let b := h.setCtx n fun c => { c with flush := true, expired := true }
  let g := b.windDown (h.ctxRings n) true none
  have there : n < h.ctxs.length := Hw.ctx_there (by simp [quiescing])
  have ctx : b.ctx n = { h.ctx n with flush := true, expired := true } := Hw.ctx_setCtx_same _ _ _ there
  have winds : Hw.Winds n (fun _ _ => False) b g := Hw.windDown_winds fun _ _ _ => False.elim
  have mem (plain : ∀ r ∈ h.ctxRings n, ∀ d ∈ (h.ring r).running, ∀ l, d.work ≠ .prefetch l) : g.mem = h.mem :=
    Hw.windDown_mem (h := b) (n := n) Hw.ctxRings_nodup (.inr fun r in_ => ⟨in_, plain r in_⟩)
  obtain ⟨-, tenure, state⟩ := winds
  rw [ctx] at tenure state
  have closed : ((h.expire n).ctx n).state = .closing ∧ ((h.expire n).ctx n).tenure = (g.ctx n).tenure ∧ (h.expire n).mem = g.mem := by
    unfold Hw.expire
    dsimp only
    obtain same | ⟨-, closing, -⟩ := state
    · have still : (g.ctx n).state = .quiescing := same.trans quiescing
      rw [if_pos (beq_iff_eq.2 still)]
      obtain ⟨closing, kept⟩ := Hw.enterClosing_ctx (h := g) (n := n) (Hw.ctx_there (by simp [still]))
      exact ⟨closing, kept, Hw.enterClosing_mem ..⟩
    · have ne : (g.ctx n).state ≠ .quiescing := closing.trans_ne (by decide)
      rw [if_neg fun still => ne (beq_iff_eq.1 still)]
      exact ⟨closing, rfl, rfl⟩
  obtain ⟨closing, kept, same⟩ := closed
  have all := kept.trans tenure
  simp only [Ctx.tenure, Prod.mk.injEq] at all
  obtain ⟨mode, expired, epoch, -⟩ := all
  exact ⟨fun plain => same.trans (mem plain), closing, mode, expired, epoch⟩

/-! ## The release of a context (R72-R74, R92) -/

/-- The machine when a context's resources are released, and it is FREE, before its event and the λ plan. -/
def Hw.vacated (h : Hw) (n : Nat) : Hw :=
  let p := (h.ctx n).plan
  let h := { h with
    seqs := h.seqs.zipIdx.map fun (x : SeqSlot × Nat) =>
      if p.seqBase ≤ x.2 ∧ x.2 < p.seqBase + p.seqCount then ({} : SeqSlot) else x.1
    tiles := h.tiles.map fun (t : Tile) => { t with slots := t.slots.filter fun (x : Nat × Slot) => x.2.ctx != n }
    dies := h.dies.map fun (d : Die) => { d with xlat := d.xlat.filter fun (x : XEntry) => x.ctx != n }
    outMsgs := h.outMsgs.filter fun (o : OutMsg) => !o.ofCtx n
    heldAccesses := h.heldAccesses.filter fun (x : HeldAccess) => !x.what.ofCtx n
    loose := h.loose.filter fun (o : OutMsg) => !o.ofCtx n
    binds := h.binds.filter fun (b : Binding) => b.ctx != n }
  let h := h.setCtx n fun c =>
    { planAddr := c.planAddr, cmdErr := c.cmdErr, owner := c.owner, epoch := c.epoch + 1, openStatus := c.openStatus
      openDetail := c.openDetail, discarded := c.discarded, flushed := c.flushed, hold := true, nextMsg := c.nextMsg }
  if h.busyCtxs.isEmpty then { h with topo := none } else h

theorem Hw.vacated_leaves (there : n < h.ctxs.length) : let t := h.vacated n
    t.rings = h.rings ∧ t.mem = h.mem ∧ (∀ k, k ≠ n → t.ctx k = h.ctx k) ∧
    (t.ctx n).state = .free ∧ (t.ctx n).epoch = (h.ctx n).epoch + 1 ∧ (t.ctx n).hold = true ∧ (t.ctx n).owner = (h.ctx n).owner := by
  let f (c : Ctx) : Ctx :=
    { planAddr := c.planAddr, cmdErr := c.cmdErr, owner := c.owner, epoch := c.epoch + 1, openStatus := c.openStatus
      openDetail := c.openDetail, discarded := c.discarded, flushed := c.flushed, hold := true, nextMsg := c.nextMsg }
  have parts : (h.vacated n).rings = h.rings ∧ (h.vacated n).mem = h.mem ∧ (h.vacated n).ctxs = (h.setCtx n f).ctxs := by
    unfold Hw.vacated
    dsimp only
    split <;> exact ⟨rfl, rfl, rfl⟩
  obtain ⟨rings, mem, ctxs⟩ := parts
  have ctx (k : Nat) : (h.vacated n).ctx k = (h.setCtx n f).ctx k := congrArg (·.getD k {}) ctxs
  refine ⟨rings, mem, fun k ne => (ctx k).trans (Hw.ctx_setCtx_other _ _ _ _ ne), ?_⟩
  rw [ctx, Hw.ctx_setCtx_same _ _ _ there]
  exact ⟨rfl, rfl, rfl, rfl⟩

/-- Every command that waits for the end of a context ends. -/
theorem Hw.finishCmds_done (l : List (Nat × W32)) (h : Hw) (y : Nat × W32) (waits : y ∈ l) (there : (h.cmd y.1 y.2).isSome = true) :
    ∃ st dt, (l.foldl (fun h x => h.finishCmd x.1 x.2 stOk 0) h).Ended y.1 y.2 st dt := by
  induction l generalizing h with
  | nil => cases waits
  | cons x l ih =>
    by_cases first : y = x
    · subst first
      obtain ⟨c, cmd⟩ := Option.isSome_iff_exists.1 there
      have ended : (h.finishCmd y.1 y.2 stOk 0).Ended y.1 y.2 (c.finish stOk 0).status (c.finish stOk 0).detail := by
        refine ⟨c.finish stOk 0, ?_, ?_, rfl, rfl⟩
        · rw [Hw.finishCmd, Hw.cmd_setCmd _ _ _ _ _ _ fun c => Cmd.finish_index c _ _, if_pos ⟨rfl, rfl⟩, cmd]
          rfl
        · unfold Cmd.finish
          split
          next done => exact beq_iff_eq.1 done
          · rfl
      exact ⟨_, _, List.foldlRecOn (motive := fun g : Hw => g.Ended y.1 y.2 _ _) l _ ended fun g ended _ _ => ended.finishCmd⟩
    · refine ih _ ((List.mem_cons.1 waits).resolve_left first) ?_
      rw [(Hw.Relinks.refl h).finishCmd.cmd, there]

/-- The release of a context. -/
theorem Hw.freeCtx_frees (there : n < h.ctxs.length) : let t := h.freeCtx n
    t.mem = h.mem ∧ (t.ctx n).state = .free ∧ (t.ctx n).epoch = (h.ctx n).epoch + 1 ∧ (t.ctx n).hold = true ∧ (t.ctx n).owner = (h.ctx n).owner ∧
    (∀ k, k ≠ n → t.ctx k = h.ctx k) ∧ (∀ r, t.ring r = { h.ring r with running := (t.ring r).running }) ∧
    ∀ y ∈ (h.ctx n).closers, ∀ c, h.cmd y.1 y.2 = some c → ∃ c', t.cmd y.1 y.2 = some c' ∧ c'.phase = .done := by
  let v := h.vacated n
  let g := (v.evCtx n 0x0105 srcModule (v.ctx n).discarded.toNat (v.ctx n).flushed.toNat).relink
  have eq : h.freeCtx n = (h.ctx n).closers.foldl (fun h x => h.finishCmd x.1 x.2 stOk 0) g := rfl
  have relinked : v.Relinks g := (Hw.Relinks.refl v).event.relink
  have all : v.Relinks (h.freeCtx n) := eq ▸ .foldl _ relinked fun _ _ k => k.finishCmd
  obtain ⟨rings, mem, others, own⟩ := Hw.vacated_leaves there
  have ctx (k : Nat) : (h.freeCtx n).ctx k = v.ctx k := congrArg (·.getD k {}) all.ctxs
  have ring (k : Nat) : v.ring k = h.ring k := congrArg (·.getD k {}) rings
  obtain ⟨free, epoch, hold, owner⟩ := own
  refine ⟨all.mem.trans mem, ctx n ▸ free, ctx n ▸ epoch, ctx n ▸ hold, ctx n ▸ owner, fun k ne => (ctx k).trans (others k ne), fun r => ?_,
    fun y waits c cmd => ?_⟩
  · rw [← ring]
    exact all.ring r
  · have there : (g.cmd y.1 y.2).isSome = true := by
      rw [relinked.cmd, Hw.cmd_of_rings rings, cmd]
      rfl
    obtain ⟨_, _, c', at_, done, _⟩ := Hw.finishCmds_done _ g y waits there
    exact ⟨c', eq ▸ at_, done⟩

/-! ## Teardown (R92) -/

/-- Updates of links leave the rings, memory and the contexts. -/
theorem Hw.foldl_setLink (l : List (Nat × Nat)) (f : Hw → Link → Link) (h : Hw) : let t := l.foldl (fun h x => h.setLink x.1 x.2 (f h)) h
    t.rings = h.rings ∧ t.mem = h.mem ∧ t.ctxs = h.ctxs :=
  List.foldlRecOn (motive := fun g : Hw => g.rings = h.rings ∧ g.mem = h.mem ∧ g.ctxs = h.ctxs) l _ ⟨rfl, rfl, rfl⟩ fun _ k _ _ => k

/-- The machine without a context's frames in the links' queues. -/
def Hw.dequeued (h : Hw) (n : Nat) : Hw :=
  allLinks.foldl (fun h x => h.setLink x.1 x.2 fun k => { k with queue := k.queue.filter fun f => !h.frameOfCtx n f }) h

theorem Hw.dequeued_leaves (h : Hw) (n : Nat) : (h.dequeued n).rings = h.rings ∧ (h.dequeued n).mem = h.mem ∧ (h.dequeued n).ctxs = h.ctxs := by
  unfold Hw.dequeued
  exact Hw.foldl_setLink allLinks (fun h k => { k with queue := k.queue.filter fun f => !h.frameOfCtx n f }) h

theorem Hw.flushFrames_eq (h : Hw) (n : Nat) : ∃ count, h.flushFrames n =
    { h.dequeued n with outMsgs := (h.dequeued n).outMsgs.filter fun (o : OutMsg) => !(o.ofCtx n && !o.sent) }.setCtx n fun c =>
      { c with flushed := satAdd c.flushed count } := ⟨_, rfl⟩

/-- A context that counts what it has discarded. -/
theorem Hw.setCtx_flushed {f : Ctx → Ctx} (counts : ∀ c, ∃ x, f c = { c with flushed := x }) (rings : a.rings = h.rings) (mem : a.mem = h.mem)
    (ctxs : a.ctxs = h.ctxs) : let t := a.setCtx n f
    t.rings = h.rings ∧ t.mem = h.mem ∧ t.ctxs.length = h.ctxs.length ∧ (∀ k, k ≠ n → t.ctx k = h.ctx k) ∧
    ∃ x, t.ctx n = { h.ctx n with flushed := x } := by
  have ctx (k : Nat) : a.ctx k = h.ctx k := congrArg (·.getD k {}) ctxs
  refine ⟨rings, mem, (List.length_modify ..).trans (congrArg List.length ctxs), fun k ne => (Hw.ctx_setCtx_other _ _ _ _ ne).trans (ctx k), ?_⟩
  rw [Hw.ctx_setCtx, ← ctx n]
  split
  exacts [counts _, ⟨_, rfl⟩]

/-- Discarding a context's frames leaves the rings, memory and the other contexts; of its own it is counted. -/
theorem Hw.flushFrames_leaves (h : Hw) (n : Nat) : let t := h.flushFrames n
    t.rings = h.rings ∧ t.mem = h.mem ∧ t.ctxs.length = h.ctxs.length ∧ (∀ k, k ≠ n → t.ctx k = h.ctx k) ∧
    ∃ x, t.ctx n = { h.ctx n with flushed := x } := by
  obtain ⟨count, eq⟩ := h.flushFrames_eq n
  obtain ⟨rings, mem, ctxs⟩ := h.dequeued_leaves n
  generalize h.dequeued n = g at eq rings mem ctxs
  rw [eq]
  exact Hw.setCtx_flushed (fun _ => ⟨_, rfl⟩) rings mem ctxs

/-- A machine whose context has its frames discarded in FLUSH mode. -/
def Hw.flushed (h : Hw) (n : Nat) : Hw := if (h.ctx n).flush then h.flushFrames n else h

theorem Hw.flushed_leaves (h : Hw) (n : Nat) : let t := h.flushed n
    t.rings = h.rings ∧ t.mem = h.mem ∧ t.ctxs.length = h.ctxs.length ∧ (∀ k, k ≠ n → t.ctx k = h.ctx k) ∧
    ∃ x, t.ctx n = { h.ctx n with flushed := x } := by
  intro t
  unfold t Hw.flushed
  split
  · exact h.flushFrames_leaves n
  · exact ⟨rfl, rfl, rfl, fun _ _ => rfl, _, rfl⟩

theorem exec_teardownComplete (powered : s.hw.ks2.powered = true) : exec (.teardownComplete n) s = .next { s with hw :=
    (if (s.hw.ctx n).state != .closing || !s.hw.accessesDone n then s.hw
    else if (s.hw.flushed n).tornDown n then (s.hw.flushed n).freeCtx n else s.hw.flushed n) } := by
  show execTeardownComplete n s = _
  rw [execTeardownComplete, act_on powered]
  rfl

theorem exec_teardownComplete_goes (powered : s.hw.ks2.powered = true) (closing : (s.hw.ctx n).state = .closing) (done : s.hw.accessesDone n = true) :
    exec (.teardownComplete n) s = .next { s with hw :=
      (if (s.hw.flushed n).tornDown n then (s.hw.flushed n).freeCtx n else s.hw.flushed n) } := by
  rw [exec_teardownComplete powered, if_neg (by simp [closing, done])]

end

end Sys2Proof.Machine

namespace Sys2Proof
open Machine

/-- Settles O39, by the instruction, and TEARDOWN_COMPLETE by what of the teardown is done. -/
theorem contextsEnd : Obligations.ContextsEnd := by
  intro n s x h powered there
  refine ⟨fun quiescing => ?_, fun _ owed => ?_, fun closing done torn => ?_, fun closing done left => ?_, fun free => ?_⟩
  · exact ⟨_, exec_quiesceExpiry powered quiescing, rfl, Hw.expire_closes quiescing⟩
  · rw [exec_teardownComplete powered, if_pos (by simp [owed])]
  · have steps := exec_teardownComplete_goes powered closing done
    rw [if_pos (show (s.hw.flushed n).tornDown n = true from torn)] at steps
    obtain ⟨rings, mem, length, others, count, own⟩ := s.hw.flushed_leaves n
    obtain ⟨fMem, free, epoch, hold, owner, fOthers, ring, waits⟩ := Hw.freeCtx_frees (h := s.hw.flushed n) (n := n) (length ▸ there)
    have same (r : Nat) : (s.hw.flushed n).ring r = s.hw.ring r := congrArg (·.getD r {}) rings
    rw [own] at epoch owner waits
    refine ⟨_, steps, rfl, fMem.trans mem, free, epoch, hold, owner, fun k ne => (fOthers k ne).trans (others k ne), fun r => same r ▸ ring r,
      fun y mem _ c cmd => waits y mem c ((Hw.cmd_of_rings rings _ _).trans cmd)⟩
  · have steps := exec_teardownComplete_goes powered closing done
    rw [if_neg (by simpa [h, Hw.flushed] using left)] at steps
    exact ⟨_, steps, rfl, rfl⟩
  · have steps : exec (.numberHoldExpiry n) s = .next { s with hw :=
        (if (s.hw.ctx n).state == .free then s.hw.setCtx n fun c => { c with hold := false } else s.hw) } := act_on powered
    rw [if_pos (beq_iff_eq.2 free)] at steps
    exact ⟨_, steps, rfl, Hw.setCtx_onlyCtx .., Hw.ctx_setCtx_same _ _ _ there⟩

end Sys2Proof
end

section
/-! PROOFS. Messages and contexts: what is bound, refused, and taken (03 R81, R82, R85, R93; 09 R241, R242). -/

namespace Sys2Proof.Machine

/-! ## Answers (R242, R281) -/

section
variable {a b h : Hw} {p l : Nat} {dst : Coord}

theorem Hw.link_there (used : (h.link p l).state ≠ .off) : p < h.ports.length ∧ l < (h.port p).links.length := by
  have there : l < (h.port p).links.length := by
    by_contra out
    exact used (congrArg Link.state (List.getD_eq_default _ _ (Nat.le_of_not_lt out)))
  refine ⟨?_, there⟩
  by_contra out
  have absent : h.port p = {} := List.getD_eq_default _ _ (Nat.le_of_not_lt out)
  rw [absent] at there
  exact absurd there (Nat.not_lt_zero l)

/-- The link that is chosen is UP. -/
theorem Hw.chooseLink_up {die cls m : Nat} {x : Nat × Nat} (chosen : h.chooseLink die cls dst m = some x) : (h.link x.1 x.2).state = .up := by
  have mem := List.mem_of_getElem? chosen
  have ups := (List.mem_filter.1 mem).2
  rw [Bool.and_eq_true] at ups
  exact beq_iff_eq.1 ups.1

theorem Hw.answer_answers {op a0 a1 a2 : Nat} (queued : ctrlQueued op = true) : h.Answers (h.answer dst op a0 a1 a2) dst op a0 a1 a2 := by
  unfold Hw.Answers Hw.answer
  cases chosen : h.chooseLink 0 4 dst 0 with
  | none => rfl
  | some x =>
    obtain ⟨port, link⟩ := Hw.link_there (h := h) (p := x.1) (l := x.2) (by simp [Hw.chooseLink_up chosen])
    obtain ⟨c, opEq, dstEq, arg0, arg1, arg2, after⟩ := Hw.sendCtrlTo_link h x.1 x.2 (dst.setWidth 32) op a0 a1 a2 0 queued port link
    exact ⟨Hw.sendCtrlTo_only .., c, by rw [after], opEq, dstEq, arg0, arg1, arg2⟩

theorem Hw.answer_ctxs {op a0 a1 a2 : Nat} : (h.answer dst op a0 a1 a2).ctxs = h.ctxs := by
  unfold Hw.answer
  split
  · exact (congrArg (fun g : Hw => g.ctxs) (Hw.sendCtrlTo_only ..).1 :)
  · rfl

/-! ## Control frames (R241) -/

theorem Hw.ackCtrl_only {s : W16} : h.OnlyLink (h.ackCtrl p l s) p l := by
  unfold Hw.ackCtrl
  dsimp only
  split
  · have rest := Hw.setLink_only h p l fun k => { k with ctrlOut := ((h.link p l).ctrlOut.dropWhile (·.seq != s)).drop 1 }
    split
    · exact rest
    · exact List.foldlRecOn (motive := (h.OnlyLink · p l)) _ _ rest fun _ k _ _ => k.trans (Hw.emit_onlyLink ..)
  · exact .refl h p l

theorem Hw.hear_only {c : Ctrl} : h.OnlyLink (h.hear p l c) p l := Hw.ackCtrl_only.trans (Hw.setLink_only ..)
theorem Hw.hearNew_only {c : Ctrl} : h.OnlyLink (h.hearNew p l c) p l := Hw.hear_only.trans (Hw.setLink_only ..)
theorem Hw.sendAck_only : h.OnlyLink (h.sendAck p l) p l := Hw.sendCtrl_only ..

section
variable {op : Nat} {c : Ctrl} {f : Hw → Hw} (is : c.op = op) (carries : (h.link p l).carries = true) (whole : ctrlCrc c = c.crc)
  (speaks : (h.link p l).speaks c = true) (queued : ctrlQueued op = true)
include is carries whole speaks queued

theorem Hw.ctrlIn_new (new : ctrlNew (h.link p l).ctrlSeen c.seq = true) : h.ctrlIn p l op c f = (f (h.hearNew p l c)).sendAck p l := by
  simp [Hw.ctrlIn, is, carries, whole, speaks, queued, new]

theorem Hw.ctrlIn_seen (seen : ctrlNew (h.link p l).ctrlSeen c.seq = false) : h.ctrlIn p l op c f = (h.hear p l c).sendAck p l := by
  simp [Hw.ctrlIn, is, carries, whole, speaks, queued, seen]

end

/-- What a machine but for its rings, its messages and its bindings is. -/
def Hw.withTraffic (h : Hw) (rings : List WorkRing) (outMsgs loose : List OutMsg) (binds : List Binding) : Hw :=
  { h with rings := rings, outMsgs := outMsgs, loose := loose, binds := binds }

/-- Only a link differs, with any rings, messages and bindings. -/
theorem Hw.OnlyLink.withTraffic (only : a.OnlyLink b p l) (rings : List WorkRing) (outMsgs loose : List OutMsg) (binds : List Binding) :
    (a.withTraffic rings outMsgs loose binds).OnlyLink (b.withTraffic rings outMsgs loose binds) p l :=
  ⟨congrArg (fun h : Hw => h.withTraffic rings outMsgs loose binds) only.1, only.2⟩

/-- What is heard on a link, a change of the traffic, and what is sent on the link: beside the traffic only the link differs. -/
theorem Hw.OnlyLink.around {g u t : Hw} {rings : List WorkRing} {outMsgs loose : List OutMsg} {binds : List Binding} (heard : h.OnlyLink g p l)
    (changed : u = g.withTraffic rings outMsgs loose binds) (sent : u.OnlyLink t p l) :
    h.OnlyLink (t.withTraffic h.rings h.outMsgs h.loose h.binds) p l := by
  subst changed
  exact (heard.withTraffic h.rings h.outMsgs h.loose h.binds).trans (sent.withTraffic h.rings h.outMsgs h.loose h.binds)

end

/-! ## Bindings (R81) -/

section
variable {h : Hw} {n : Nat}

theorem Hw.bindRequest_answers (h : Hw) (src : Coord) (job : W32) (id : W16) :
    match h.jobContext job with
    | some n => h.Answers (h.bindRequest src job id) src 0x11 (n + 256 * (h.ctx n).epoch.toNat) job.toNat 0
    | none => h.Answers (h.bindRequest src job id) src 0x10 (1 + 65536 * id.toNat) 0 (coordNat h.self) := by
  unfold Hw.bindRequest
  cases h.jobContext job with
  | some n => exact Hw.answer_answers rfl
  | none => exact Hw.answer_answers rfl

/-- Whether a BIND_ANSWER of a peer binds a message of a context. -/
def Hw.unbound (h : Hw) (peer : Coord) (n : Nat) (o : OutMsg) : Bool := o.srcCtx == n && h.answers peer o.dst && o.bound.isNone

/-- Whether it is done with a message that it binds. -/
def Hw.loosens (h : Hw) (peer : Coord) (n : Nat) (o : OutMsg) : Bool := h.unbound peer n o && o.sent && o.cmd.isNone

/-- The messages after a BIND_ANSWER: those that go on, bound where they were not. -/
def Hw.boundMsgs (h : Hw) (peer : Coord) (n : Nat) (b : Nat × Byte) : List OutMsg :=
  (h.outMsgs.filter fun o => !h.loosens peer n o).map fun o => if h.unbound peer n o then { o with bound := some b } else o

theorem Hw.bind_only (h : Hw) (b : Binding) : h.bind b = { h with binds := (h.bind b).binds } ∧ (h.bind b).binds.getLast? = some b :=
  ⟨rfl, List.getLast?_concat⟩

theorem Hw.foldl_bind {α : Type} (f : α → Binding) (l : List α) (h : Hw) :
    l.foldl (fun h x => h.bind (f x)) h = { h with binds := (l.foldl (fun h x => h.bind (f x)) h).binds } :=
  List.foldlRecOn (motive := fun g : Hw => g = { h with binds := g.binds }) l _ rfl fun g eq x _ => by
    rw [(g.bind_only (f x)).1]
    exact congrArg (fun k : Hw => { k with binds := (g.bind (f x)).binds }) eq

section
variable {peer : Coord} {b : Nat × Byte} {job : W32}
  (holds : (List.range 16).find? (fun n => (h.ctx n).state != .free && (h.ctx n).plan.jobId == job) = some n)
include holds

/-- A BIND_ANSWER binds, and changes nothing but messages. -/
theorem Hw.takeBindAnswer_binds : let t := h.takeBindAnswer peer b.1 b.2 job
    t = h.withTraffic h.rings (h.boundMsgs peer n b) t.loose t.binds ∧
    ((∀ o ∈ h.outMsgs, h.unbound peer n o = true → o.dst = peer) →
      t.binds.getLast? = some { ctx := n, peer := peer, peerCtx := b.1, epoch := b.2 }) := by
  let dsts := (peer :: (h.outMsgs.filter (h.unbound peer n)).map (·.dst)).eraseDups
  let g := dsts.foldl (fun h c => h.bind { ctx := n, peer := c, peerCtx := b.1, epoch := b.2 }) h
  have only : g = { h with binds := g.binds } := Hw.foldl_bind (fun c => { ctx := n, peer := c, peerCtx := b.1, epoch := b.2 }) dsts h
  have msgs : g.outMsgs = h.outMsgs := (congrArg (fun h : Hw => h.outMsgs) only :)
  have eq : h.takeBindAnswer peer b.1 b.2 job =
      { g.keepLoose (g.outMsgs.filter (h.loosens peer n)) with
        outMsgs := (g.outMsgs.filter fun o => !h.loosens peer n o).map fun o => if h.unbound peer n o then { o with bound := some b } else o } := by
    unfold Hw.takeBindAnswer
    rw [holds]
    rfl
  rw [eq]
  refine ⟨?_, fun alone => ?_⟩
  · rw [msgs]
    exact (congrArg (fun k : Hw => { k with
      outMsgs := h.boundMsgs peer n b, loose := (g.keepLoose (h.outMsgs.filter (h.loosens peer n))).loose, binds := g.binds }) only :)
  · have one : dsts = [peer] := by
      have same : ((h.outMsgs.filter (h.unbound peer n)).map (·.dst)).filter (fun c => !c == peer) = [] := by
        refine List.filter_eq_nil_iff.2 fun c mem => ?_
        obtain ⟨o, mine, rfl⟩ := List.mem_map.1 mem
        obtain ⟨mem, unbound⟩ := List.mem_filter.1 mine
        simp [alone o mem unbound]
      unfold dsts
      rw [List.eraseDups_cons, same, List.eraseDups_nil]
    show g.binds.getLast? = _
    unfold g
    rw [one]
    exact (Hw.bind_only h _).2

end

/-- What the messages of a BIND_ANSWER become. -/
theorem Hw.boundMsgs_bound {peer : Coord} {b : Nat × Byte} :
    (∀ o ∈ h.boundMsgs peer n b, o.srcCtx = n → h.answers peer o.dst = true → o.bound ≠ none) ∧
    (∀ o ∈ h.outMsgs, h.unbound peer n o = true → (o.sent = false ∨ o.cmd ≠ none) → { o with bound := some b } ∈ h.boundMsgs peer n b) ∧
    ∀ o ∈ h.outMsgs, h.unbound peer n o = false → o ∈ h.boundMsgs peer n b := by
  refine ⟨fun o mem src answers => ?_, fun o mem unbound awaited => ?_, fun o mem bound => ?_⟩
  · obtain ⟨x, -, rfl⟩ := List.mem_map.1 mem
    cases unbound : h.unbound peer n x with
    | true => simp
    | false =>
      simp only [unbound, Bool.false_eq_true, if_false] at src answers ⊢
      exact Option.isSome_iff_ne_none.1 (by simpa [Hw.unbound, src, answers] using unbound)
  · refine List.mem_map.2 ⟨o, List.mem_filter.2 ⟨mem, ?_⟩, if_pos unbound⟩
    obtain sent | cmd := awaited
    · simp [Hw.loosens, sent]
    · cases cmd' : o.cmd with
      | none => exact absurd cmd' cmd
      | some x => simp [Hw.loosens, cmd']
  · exact List.mem_map.2 ⟨o, List.mem_filter.2 ⟨mem, by simp [Hw.loosens, bound]⟩, if_neg (by simp [bound])⟩

/-! ## Refusals (R93, R242) -/

/-- The loss of a read of a WAIT_PREFETCH leaves its phase. -/
theorem Cmd.loseEntry_phase (c : Cmd) (e : Nat) : (c.loseEntry e).phase = c.phase := by
  unfold Cmd.loseEntry
  split
  · dsimp only
    split <;> rfl
  · rfl

/-- Every command stays, or ends with this status and DETAIL. -/
def Hw.EndsOnly (st dt : Nat) (a b : Hw) : Prop := ∀ r i d, a.cmd r i = some d → b.cmd r i = some d ∨ b.Ended r i st dt

section
variable {a b h : Hw} {r st dt : Nat} {i : W32} {d : Cmd} {o : OutMsg} {peer : Coord}

theorem Hw.EndsOnly.refl (a : Hw) : Hw.EndsOnly st dt a a := fun _ _ _ => .inl

/-- A command that has ended stays so where every command stays or ends. -/
theorem Hw.EndsOnly.ended (only : Hw.EndsOnly st dt a b) (ended : a.Ended r i st dt) : b.Ended r i st dt := by
  obtain ⟨c, cmd, rest⟩ := ended
  exact (only r i c cmd).elim (fun same => ⟨c, same, rest⟩) id

theorem Hw.EndsOnly.trans (ah : Hw.EndsOnly st dt a h) (hb : Hw.EndsOnly st dt h b) : Hw.EndsOnly st dt a b := fun r i d cmd =>
  (ah r i d cmd).elim (hb r i d) fun ended => .inr (hb.ended ended)

theorem Hw.EndsOnly.ite {p : Prop} [Decidable p] (k : Hw.EndsOnly st dt a h) (l : Hw.EndsOnly st dt a b) : Hw.EndsOnly st dt a (if p then h else b) := by
  split <;> assumption

theorem Hw.EndsOnly.of_rings (k : Hw.EndsOnly st dt a h) (same : b.rings = h.rings) : Hw.EndsOnly st dt a b := fun r i d cmd =>
  (k r i d cmd).imp ((Hw.cmd_of_rings same r i).trans ·) (·.of_rings same)

/-- Each command of a ring stays, or ends so. -/
theorem Hw.EndsOnly.setRing {f : Cmd → Cmd} (k : Hw.EndsOnly st dt a h) (index : ∀ c, (f c).index = c.index)
    (ends : ∀ c, f c = c ∨ (f c).phase = .done ∧ (f c).status = st ∧ (f c).detail = dt) :
    Hw.EndsOnly st dt a (h.setRing r fun w => { w with running := w.running.map f }) := k.trans fun j i d cmd => by
  have ring : (h.setRing r fun w => { w with running := w.running.map f }).cmd j i = if j = r ∧ r < h.rings.length then some (f d) else some d := by
    unfold Hw.cmd
    rw [Hw.ring_setRing]
    split
    · exact (find_map_keep _ i f index).trans (congrArg (Option.map f) cmd)
    · exact cmd
  split at ring
  · exact (ends d).imp (fun same => ring.trans (congrArg some same)) fun rest => ⟨f d, ring, rest⟩
  · exact .inl ring

theorem Cmd.finish_ends (c : Cmd) (st dt : Nat) : let e := c.finish st dt
    e = c ∨ e.phase = .done ∧ e.status = st ∧ e.detail = dt := by
  unfold Cmd.finish
  split
  exacts [.inl rfl, .inr ⟨rfl, rfl, rfl⟩]

theorem Cmd.lose_ends (c : Cmd) (st dt : Nat) : let e := c.lose st dt
    e = c ∨ e.phase = .done ∧ e.status = st ∧ e.detail = dt := by
  unfold Cmd.lose
  split
  exacts [.inl rfl, .inr ⟨rfl, rfl, rfl⟩]

theorem Hw.EndsOnly.finishCmd (k : Hw.EndsOnly st dt a h) : Hw.EndsOnly st dt a (h.finishCmd r i st dt) :=
  k.setRing (fun c => by split; exacts [Cmd.finish_index .., rfl]) fun c => by
    split
    exacts [Cmd.finish_ends .., .inl rfl]

theorem Hw.EndsOnly.loseAccess {x : Access} (k : Hw.EndsOnly st dt a h) (whole : x.entry = 0) : Hw.EndsOnly st dt a (h.loseAccess x st dt) :=
  Hw.EndsOnly.setRing (h := { h with accesses := h.accesses.erase x }) (k.of_rings rfl)
    (f := fun c => if c.order != x.order then c else if x.entry = 0 then c.lose st dt else c.loseEntry (x.entry - 1))
    (fun c => by
      rw [if_pos whole]
      split
      exacts [rfl, Cmd.lose_index ..])
    fun c => by
      rw [if_pos whole]
      split
      exacts [.inl rfl, Cmd.lose_ends ..]

/-! ## The end of a sender (R93) -/

/-- The command that awaits a lost access, before the sender ends. -/
def Hw.loseRequest (h : Hw) (o : OutMsg) (st : Nat) (peer : Coord) : Hw :=
  let g := { h with outMsgs := h.outMsgs.filter (· != o) }
  match g.accesses.find? o.carries with
  | some a => g.loseAccess a st (coordNat peer)
  | none => g

theorem Hw.endSender_eq (sender : o.cmd = some (r, i)) : h.endSender o st peer = (h.loseRequest o st peer).finishCmd r i st (coordNat peer) := by
  unfold Hw.endSender
  rw [sender]
  rfl

/-- What ending a sender leaves: all but rings, accesses, and the message. -/
theorem Hw.loseRequest_only : h.loseRequest o st peer =
    { h with rings := (h.loseRequest o st peer).rings, accesses := (h.loseRequest o st peer).accesses, outMsgs := h.outMsgs.filter (· != o) } := by
  unfold Hw.loseRequest
  dsimp only
  split <;> rfl

theorem Hw.loseRequest_lone (free : ∀ a ∈ h.accesses, a.ctx ≠ o.srcCtx) :
    h.loseRequest o st peer = { h with outMsgs := h.outMsgs.filter (· != o) } := by
  have none : h.accesses.find? o.carries = none := List.find?_eq_none.2 fun a mem => by simp [OutMsg.carries, free a mem]
  unfold Hw.loseRequest
  dsimp only
  rw [none]

theorem Hw.loseRequest_ends (whole : ∀ a ∈ h.accesses, a.entry = 0) : Hw.EndsOnly st (coordNat peer) h (h.loseRequest o st peer) := by
  have kept : Hw.EndsOnly st (coordNat peer) h { h with outMsgs := h.outMsgs.filter (· != o) } := (Hw.EndsOnly.refl h).of_rings rfl
  unfold Hw.loseRequest
  dsimp only
  split
  next a found => exact kept.loseAccess (whole a (List.mem_of_find?_eq_some found))
  · exact kept

/-- A command that has not ended: its loss ends it, or it goes on. -/
theorem Hw.loseRequest_live (cmd : h.cmd r i = some d) (live : d.phase ≠ .done) :
    (h.loseRequest o st peer).Ended r i st (coordNat peer) ∨ ∃ c, (h.loseRequest o st peer).cmd r i = some c ∧ c.phase ≠ .done := by
  unfold Hw.loseRequest
  dsimp only
  split
  next a _ =>
    let f (c : Cmd) : Cmd := if c.order != a.order then c else if a.entry = 0 then c.lose st (coordNat peer) else c.loseEntry (a.entry - 1)
    have index (c : Cmd) : (f c).index = c.index := by
      unfold f
      split
      · rfl
      · split
        exacts [Cmd.lose_index .., Cmd.loseEntry_index ..]
    have at_ : (({ h with outMsgs := h.outMsgs.filter (· != o) } : Hw).loseAccess a st (coordNat peer)).cmd r i =
        if r = a.ring ∧ a.ring < h.rings.length then some (f d) else some d := by
      have ring := h.ring_setRing a.ring r fun w => { w with running := w.running.map f }
      show ((h.setRing a.ring fun w => { w with running := w.running.map f }).ring r).running.find? (·.index == i) = _
      rw [ring]
      split
      · exact (find_map_keep _ i f index).trans (congrArg (Option.map f) cmd)
      · exact cmd
    have lost : (f d).phase ≠ .done ∨ (f d).phase = .done ∧ (f d).status = st ∧ (f d).detail = coordNat peer := by
      unfold f
      split
      · exact .inl live
      split
      · obtain same | ended := Cmd.lose_ends d st (coordNat peer)
        exacts [.inl (by rw [same]; exact live), .inr ended]
      · exact .inl (by rw [Cmd.loseEntry_phase]; exact live)
    split at at_
    · exact lost.symm.imp (fun rest => ⟨_, at_, rest⟩) fun live => ⟨_, at_, live⟩
    · exact .inr ⟨d, at_, live⟩
  · exact .inr ⟨d, cmd, live⟩

theorem Hw.endSender_ended (sender : o.cmd = some (r, i)) (cmd : h.cmd r i = some d) (live : d.phase ≠ .done) :
    (h.endSender o st peer).Ended r i st (coordNat peer) := by
  rw [Hw.endSender_eq sender]
  obtain ended | ⟨c, cmd, live⟩ := Hw.loseRequest_live (o := o) (st := st) (peer := peer) cmd live
  · exact ended.finishCmd
  · exact Hw.finishCmd_ended _ _ _ _ _ c cmd live

/-- Memory stands, and of the messages the one refused alone is gone. -/
structure Hw.Refuses (a b : Hw) (o : OutMsg) : Prop where
  mem : b.mem = a.mem
  outMsgs : b.outMsgs = a.outMsgs.filter (· != o)

theorem Hw.endSender_refuses (sender : o.cmd = some (r, i)) : h.Refuses (h.endSender o st peer) o := by
  rw [Hw.endSender_eq sender]
  exact ⟨(congrArg (fun g : Hw => g.mem) Hw.loseRequest_only :), (congrArg (fun g : Hw => g.outMsgs) Hw.loseRequest_only :)⟩

theorem Hw.endSender_ends (sender : o.cmd = some (r, i)) (whole : ∀ a ∈ h.accesses, a.entry = 0) :
    Hw.EndsOnly st (coordNat peer) h (h.endSender o st peer) := by
  rw [Hw.endSender_eq sender]
  exact (Hw.loseRequest_ends whole).finishCmd

/-! ## What follows a context's end at a peer (R93, R296, R313) -/

theorem Hw.chanGone_ends {n : Nat} : Hw.EndsOnly stContextGone (coordNat peer) h (h.chanGone n peer) ∧ (h.chanGone n peer).mem = h.mem ∧
    (h.chanGone n peer).outMsgs = h.outMsgs := by
  refine List.foldlRecOn (motive := fun g : Hw => Hw.EndsOnly stContextGone (coordNat peer) h g ∧ g.mem = h.mem ∧ g.outMsgs = h.outMsgs) _ _
    ⟨.refl h, rfl, rfl⟩ fun g k w _ => ?_
  split
  · exact k
  refine List.foldlRecOn (motive := fun g : Hw => Hw.EndsOnly stContextGone (coordNat peer) h g ∧ g.mem = h.mem ∧ g.outMsgs = h.outMsgs) _ _
    k fun g k c _ => ?_
  have ends : Hw.EndsOnly stContextGone (coordNat peer) h ((g.stall n (c.f 0x20 1)).finishCmd w.2 c.index stContextGone (coordNat peer)) :=
    .finishCmd (k.1.of_rings rfl)
  dsimp only
  split
  all_goals
    split
    exacts [⟨ends, k.2⟩, k]

theorem Hw.looseGone_ends : Hw.EndsOnly stContextGone (coordNat peer) h (h.looseGone o peer) ∧ (h.looseGone o peer).mem = h.mem ∧
    (h.looseGone o peer).outMsgs = h.outMsgs := by
  unfold Hw.looseGone
  split
  · split
    · split
      exacts [⟨(Hw.EndsOnly.refl h).finishCmd, rfl, rfl⟩, ⟨.refl h, rfl, rfl⟩]
    · exact ⟨.refl h, rfl, rfl⟩
  iterate 5 · exact Hw.chanGone_ends
  · exact ⟨.refl h, rfl, rfl⟩

theorem Hw.looseGone_lone (lone : msgLone o.msg = true) : h.looseGone o peer = h := by
  unfold Hw.looseGone
  split <;> simp_all [msgLone]

/-! ## MSG_NACK (R242) -/

section
variable {id : W16} {reason : Nat}
  (found : h.outMsgs.find? (fun o => o.msgId == id && h.answers peer o.dst && !msgIsReply o.msg && (o.sent || o.queued != 0)) = some o)
include found

theorem Hw.takeNack_missing : h.takeNack 1 id peer = { h with outMsgs := h.outMsgs.map fun x => if x == o then { x with notFound := true } else x } := by
  unfold Hw.takeNack
  simp only [found, Option.some_or]
  rfl

theorem Hw.takeNack_gone : ∃ binds, h.takeNack 2 id peer = (({ h with binds := binds } : Hw).endSender o stContextGone peer).looseGone o peer := by
  unfold Hw.takeNack
  simp only [found, Option.some_or]
  exact ⟨_, rfl⟩

theorem Hw.takeNack_fenced : h.takeNack 4 id peer = h.endSender o stFenced peer := by
  unfold Hw.takeNack
  simp only [found, Option.some_or]
  rfl

/-- A message refused with CONTEXT_GONE or FENCED: its command ends so, and no other otherwise. -/
theorem Hw.takeNack_refuses (refused : reason = 2 ∨ reason = 4) (sender : o.cmd = some (r, i)) (cmd : h.cmd r i = some d) (live : d.phase ≠ .done) :
    let st := if reason = 2 then 0x13 else 0x16
    let t := h.takeNack reason id peer
    h.Refuses t o ∧ t.Ended r i st (coordNat peer) ∧ ((∀ a ∈ h.accesses, a.entry = 0) → Hw.EndsOnly st (coordNat peer) h t) ∧
    ((∀ a ∈ h.accesses, a.ctx ≠ o.srcCtx) → (reason = 4 ∨ msgLone o.msg = true) →
      h.OnlyCmd t r i ∧ t = h.withTraffic t.rings t.outMsgs h.loose t.binds) := by
  have alone {st : Nat} (binds : List Binding) (free : ∀ a ∈ h.accesses, a.ctx ≠ o.srcCtx) :
      let u := ({ h with binds := binds } : Hw).endSender o st peer
      h.OnlyCmd u r i ∧ u = h.withTraffic u.rings u.outMsgs h.loose u.binds := by
    dsimp only
    rw [Hw.endSender_eq sender, Hw.loseRequest_lone (h := { h with binds := binds }) free]
    exact ⟨(Hw.finishCmd_only ..).2.of_rings rfl, rfl⟩
  obtain rfl | rfl := refused
  · obtain ⟨binds, eq⟩ := Hw.takeNack_gone found
    have sent : Hw.Refuses h (({ h with binds := binds } : Hw).endSender o stContextGone peer) o :=
      have refuses := Hw.endSender_refuses (h := { h with binds := binds }) (st := stContextGone) (peer := peer) sender
      ⟨refuses.mem, refuses.outMsgs⟩
    obtain ⟨ends, mem, outMsgs⟩ := Hw.looseGone_ends (h := ({ h with binds := binds } : Hw).endSender o stContextGone peer) (o := o) (peer := peer)
    simp only [eq, if_true]
    refine ⟨⟨mem.trans sent.mem, outMsgs.trans sent.outMsgs⟩, ends.ended (Hw.endSender_ended (h := { h with binds := binds }) sender cmd live),
      fun whole => (Hw.EndsOnly.trans ((Hw.EndsOnly.refl h).of_rings rfl) (Hw.endSender_ends (h := { h with binds := binds }) sender whole)).trans ends,
      fun free lone => ?_⟩
    rw [Hw.looseGone_lone (lone.resolve_left (by decide))]
    exact alone binds free
  · simp only [Hw.takeNack_fenced found]
    exact ⟨Hw.endSender_refuses sender, Hw.endSender_ended sender cmd live, Hw.endSender_ends sender, fun free _ => alone h.binds free⟩

end

end
end

/-! ## Control frames that name this module (R241) -/

/-- What hears a frame leaves all but its link. -/
theorem Hw.OnlyLink.same {a b : Hw} {p l : Nat} (only : a.OnlyLink b p l) : b.rings = a.rings ∧ b.outMsgs = a.outMsgs ∧ b.loose = a.loose ∧
    b.binds = a.binds ∧ b.mem = a.mem ∧ b.ctxs = a.ctxs ∧ b.accesses = a.accesses ∧ b.answers = a.answers ∧ b.ctrlForMe = a.ctrlForMe :=
  ⟨(congrArg (fun h : Hw => h.rings) only.1 :), (congrArg (fun h : Hw => h.outMsgs) only.1 :), (congrArg (fun h : Hw => h.loose) only.1 :),
    (congrArg (fun h : Hw => h.binds) only.1 :), (congrArg (fun h : Hw => h.mem) only.1 :), (congrArg (fun h : Hw => h.ctxs) only.1 :),
    (congrArg (fun h : Hw => h.accesses) only.1 :), (congrArg (fun h : Hw => h.answers) only.1 :), (congrArg (fun h : Hw => h.ctrlForMe) only.1 :)⟩

section
variable {p l : Nat} {c : Ctrl} {s : State} (powered : s.hw.ks2.powered = true) (carries : (s.hw.link p l).carries = true) (whole : ctrlCrc c = c.crc)
  (speaks : (s.hw.link p l).speaks c = true)
include powered carries whole speaks

section
variable (mine : s.hw.ctrlForMe c = true) (new : ctrlNew (s.hw.link p l).ctrlSeen c.seq = true)
include mine new

/-- A new BIND_ANSWER is heard, taken and acknowledged. -/
theorem exec_bindAnswer_new (is : c.op = 0x11) : ∃ g, s.hw.OnlyLink g p l ∧ exec (.bindAnswer p l c) s = .next { s with hw :=
    ((g.takeBindAnswer (c.src.setWidth 18) (bits c.arg0.toNat 3 0) (BitVec.ofNat 8 (bits c.arg0.toNat 15 8)) (c.arg1.setWidth 32)).sendAck p l) } := by
  have heard : s.hw.OnlyLink (s.hw.hearNew p l c) p l := Hw.hearNew_only
  refine ⟨_, heard, ?_⟩
  show execBindAnswer p l c s = _
  rw [execBindAnswer, act_on powered, Hw.ctrlIn_new is carries whole speaks rfl new, if_pos (by rw [heard.same.2.2.2.2.2.2.2.2]; exact mine)]

/-- So is a new MSG_NACK. -/
theorem exec_msgNack_new (is : c.op = 0x10) : ∃ g, s.hw.OnlyLink g p l ∧ exec (.msgNack p l c) s = .next { s with hw :=
    ((g.takeNack (bits c.arg0.toNat 7 0) (BitVec.ofNat 16 (bits c.arg0.toNat 31 16)) (c.arg2.setWidth 18)).sendAck p l) } := by
  have heard : s.hw.OnlyLink (s.hw.hearNew p l c) p l := Hw.hearNew_only
  refine ⟨_, heard, ?_⟩
  show execMsgNack p l c s = _
  rw [execMsgNack, act_on powered, Hw.ctrlIn_new is carries whole speaks rfl new, if_pos (by rw [heard.same.2.2.2.2.2.2.2.2]; exact mine)]

end

/-- A BIND_ANSWER seen before is acknowledged, and not taken again. -/
theorem exec_bindAnswer_seen (is : c.op = 0x11) (seen : ctrlNew (s.hw.link p l).ctrlSeen c.seq = false) :
    exec (.bindAnswer p l c) s = .next { s with hw := (s.hw.hear p l c).sendAck p l } := by
  show execBindAnswer p l c s = _
  rw [execBindAnswer, act_on powered, Hw.ctrlIn_seen is carries whole speaks rfl seen]

end

/-! ## The claims about messages (R81, R82, R242) -/

/-- What a BIND_ANSWER does to a machine that heard it. -/
theorem Hw.takeBindAnswer_leaves {a g : Hw} {p l n : Nat} {peer : Coord} {b : Nat × Byte} {job : W32} (heard : a.OnlyLink g p l)
    (holds : (List.range 16).find? (fun n => (a.ctx n).state != .free && (a.ctx n).plan.jobId == job) = some n) :
    let t := (g.takeBindAnswer peer b.1 b.2 job).sendAck p l
    a.OnlyLink (t.withTraffic a.rings a.outMsgs a.loose a.binds) p l ∧ t.rings = a.rings ∧ t.outMsgs = a.boundMsgs peer n b ∧
    ((∀ o ∈ a.outMsgs, a.unbound peer n o = true → o.dst = peer) →
      t.binds.getLast? = some { ctx := n, peer := peer, peerCtx := b.1, epoch := b.2 }) := by
  obtain ⟨rings, outMsgs, -, -, -, ctxs, -, answers, -⟩ := heard.same
  have holds : (List.range 16).find? (fun n => (g.ctx n).state != .free && (g.ctx n).plan.jobId == job) = some n := by
    unfold Hw.ctx
    rw [ctxs]
    exact holds
  have unbound : g.unbound peer n = a.unbound peer n := by
    unfold Hw.unbound
    rw [answers]
  have msgs : g.boundMsgs peer n b = a.boundMsgs peer n b := by
    unfold Hw.boundMsgs Hw.loosens
    rw [unbound, outMsgs]
  obtain ⟨eq, alone⟩ := Hw.takeBindAnswer_binds (peer := peer) (b := b) holds
  have sent : (g.takeBindAnswer peer b.1 b.2 job).OnlyLink ((g.takeBindAnswer peer b.1 b.2 job).sendAck p l) p l := Hw.sendAck_only
  obtain ⟨tRings, tMsgs, -, tBinds, -⟩ := sent.same
  rw [unbound, outMsgs] at alone
  exact ⟨heard.around eq sent, tRings.trans ((congrArg (fun h : Hw => h.rings) eq :).trans rings),
    tMsgs.trans ((congrArg (fun h : Hw => h.outMsgs) eq :).trans msgs), fun only => tBinds ▸ alone only⟩

theorem Hw.OnlyCmd.to_rings {a g b : Hw} {r : Nat} {i : W32} (only : a.OnlyCmd g r i) (same : b.rings = g.rings) : a.OnlyCmd b r i := by
  have ring (k : Nat) : b.ring k = g.ring k := congrArg (·.getD k {}) same
  obtain ⟨others, own, rest⟩ := only
  exact ⟨fun k ne => (ring k).trans (others k ne), ring r ▸ own, fun j ne => (Hw.cmd_of_rings same r j).trans (rest j ne)⟩

section
variable {a g : Hw} {p l : Nat} {id : W16} {peer : Coord} {o : OutMsg} (heard : a.OnlyLink g p l)
  (found : a.outMsgs.find? (fun o => o.msgId == id && a.answers peer o.dst && !msgIsReply o.msg && (o.sent || o.queued != 0)) = some o)
include heard found

/-- What NOT_FOUND does to a machine that heard it. -/
theorem Hw.takeNack_marks : let t := (g.takeNack 1 id peer).sendAck p l
    a.OnlyLink { t with outMsgs := a.outMsgs } p l ∧ t.outMsgs = a.outMsgs.map fun x => if x = o then { o with notFound := true } else x := by
  intro t
  obtain ⟨rings, outMsgs, loose, binds, -, -, -, answers, -⟩ := heard.same
  rw [← outMsgs, ← answers] at found
  have eq := Hw.takeNack_missing found
  have sent : (g.takeNack 1 id peer).OnlyLink t p l := Hw.sendAck_only
  have around := heard.around (rings := g.rings) (loose := g.loose) (binds := g.binds) eq sent
  obtain ⟨tRings, tMsgs, tLoose, tBinds, -⟩ := sent.same
  rw [eq] at tRings tMsgs tLoose tBinds
  have same : t.withTraffic a.rings a.outMsgs a.loose a.binds = { t with outMsgs := a.outMsgs } := by
    rw [← rings, ← loose, ← binds, ← tRings, ← tLoose, ← tBinds]
    rfl
  refine ⟨same ▸ around, tMsgs.trans ?_⟩
  rw [← outMsgs]
  refine List.map_congr_left fun x _ => ?_
  by_cases here : x = o <;> simp [here]

/-- What CONTEXT_GONE and FENCED do to a machine that heard them. -/
theorem Hw.takeNack_leaves {reason r : Nat} {i : W32} {d : Cmd} (refused : reason = 2 ∨ reason = 4) (sender : o.cmd = some (r, i))
    (cmd : a.cmd r i = some d) (live : d.phase ≠ .done) :
    let st := if reason = 2 then 0x13 else 0x16
    let t := (g.takeNack reason id peer).sendAck p l
    t.mem = a.mem ∧ t.Ended r i st (coordNat peer) ∧ o ∉ t.outMsgs ∧
    ((∀ x ∈ a.accesses, x.entry = 0) → Hw.EndsOnly st (coordNat peer) a t) ∧
    ((∀ x ∈ a.accesses, x.ctx ≠ o.srcCtx) → (reason = 4 ∨ msgLone o.msg = true) → a.OnlyCmd t r i ∧
      a.OnlyLink { t with rings := a.rings, outMsgs := a.outMsgs, binds := a.binds } p l) := by
  intro st t
  obtain ⟨rings, outMsgs, loose, -, mem, -, accesses, answers, -⟩ := heard.same
  rw [← outMsgs, ← answers] at found
  have sent : (g.takeNack reason id peer).OnlyLink t p l := Hw.sendAck_only
  obtain ⟨tRings, tMsgs, tLoose, -, tMem, -⟩ := sent.same
  obtain ⟨⟨rMem, rMsgs⟩, ended, ends, alone⟩ := Hw.takeNack_refuses found refused sender ((Hw.cmd_of_rings rings r i).trans cmd) live
  refine ⟨tMem.trans (rMem.trans mem), ended.of_rings tRings, ?_, fun whole => ?_, fun free lone => ?_⟩
  · rw [tMsgs, rMsgs]
    simp
  · exact Hw.EndsOnly.trans ((Hw.EndsOnly.refl a).of_rings rings) ((ends (accesses ▸ whole)).of_rings tRings)
  · obtain ⟨only, eq⟩ := alone (accesses ▸ free) lone
    have around := heard.around eq sent
    have kept : t.loose = a.loose := tLoose.trans ((congrArg (fun h : Hw => h.loose) eq :).trans loose)
    exact ⟨(only.of_rings rings).to_rings tRings, (kept ▸ around : a.OnlyLink (t.withTraffic a.rings a.outMsgs t.loose a.binds) p l)⟩

end

end Sys2Proof.Machine

namespace Sys2Proof
open Machine

/-- What control frames bind and refuse. -/
theorem messagesAreBound : Claims.MessagesAreBound := by
  refine ⟨?_, ?_, ?_, ?_⟩
  · intro fport link src job id s powered
    exact ⟨_, act_on (f := fun h => h.bindRequest src job id) powered, rfl, s.hw.bindRequest_answers src job id⟩
  · intro n s o powered at_ lost
    refine ⟨_, act_on (f := fun h => { h with
      outMsgs := h.outMsgs.modify n fun o => if o.notFound then { o with notFound := false, sent := false, queued := 0 } else o }) powered, rfl, rfl, ?_⟩
    dsimp only
    rw [List.modify_eq_set_getElem?, at_]
    exact congrArg (s.hw.outMsgs.set n) (if_pos lost)
  · intro p l c s k peer job b powered is carries whole speaks mine
    refine ⟨fun seen => ⟨_, exec_bindAnswer_seen powered carries whole speaks is seen, rfl, Hw.hear_only.trans Hw.sendAck_only⟩, fun n new holds => ?_⟩
    obtain ⟨g, heard, steps⟩ := exec_bindAnswer_new powered carries whole speaks mine new is
    obtain ⟨around, rings, msgs, alone⟩ := Hw.takeBindAnswer_leaves (peer := peer) (b := b) heard holds
    obtain ⟨bound, goes, stays⟩ := s.hw.boundMsgs_bound (n := n) (peer := peer) (b := b)
    refine ⟨_, steps, rfl, ?_, fun only => alone fun o mem open_ => ?_, msgs ▸ bound, fun o mem src answers open_ awaited => msgs ▸ goes o mem ?_ awaited,
      fun o mem other => msgs ▸ stays o mem ?_⟩
    · rw [← rings] at around
      exact around
    · simp only [Hw.unbound, Bool.and_eq_true, beq_iff_eq, Option.isNone_iff_eq_none] at open_
      exact only o mem open_.1.1 open_.1.2 open_.2
    · simp [Hw.unbound, src, answers, open_]
    · obtain src | answers | bound := other
      · simp [Hw.unbound, src]
      · simp [Hw.unbound, answers]
      · simp [Hw.unbound, Option.isNone_eq_false_iff, Option.isSome_iff_ne_none, bound]
  · intro p l c s o k id peer reason powered is carries whole speaks mine new found
    obtain ⟨g, heard, steps⟩ := exec_msgNack_new powered carries whole speaks mine new is
    refine ⟨fun missing => ?_, fun r i d refused sender cmd live => ?_⟩
    · have missing : bits c.arg0.toNat 7 0 = 1 := missing
      rw [missing] at steps
      exact ⟨_, steps, rfl, Hw.takeNack_marks heard found⟩
    · obtain ⟨mem, ended, gone, ends, alone⟩ := Hw.takeNack_leaves heard found refused sender cmd live
      exact ⟨_, steps, rfl, mem, ended, gone, ends, alone⟩

/-- A message of a context: discarded, or taken. -/
theorem contextsTakeMessages : Claims.ContextsTakeMessages := by
  intro fport link src id n epoch step m s x row powered there
  have steps : exec row s = .next { s with hw :=
      (if x.live && x.epoch == epoch then s.hw.takeMessage n src 0 id m {}
      else (s.hw.setCtx n fun c => { c with discarded := satAdd c.discarded 1 }).nack src 2 id ((step.getD 0).toNat)) } := by
    show execContextMessageReceive fport link src id n epoch step m s = _
    rw [execContextMessageReceive, act_on powered]
  refine ⟨fun gone => ?_, fun live same => ?_⟩
  · have ctxs : ((s.hw.setCtx n fun c => { c with discarded := satAdd c.discarded 1 }).nack src 2 id ((step.getD 0).toNat)).ctxs =
        (s.hw.setCtx n fun c => { c with discarded := satAdd c.discarded 1 }).ctxs := Hw.answer_ctxs
    rw [if_neg (by obtain gone | other := gone <;> simp_all)] at steps
    refine ⟨_, steps, rfl, ?_, fun k ne => ?_, ?_⟩
    · exact (congrArg (·.getD n {}) ctxs).trans (Hw.ctx_setCtx_same _ _ _ there)
    · exact (congrArg (·.getD k {}) ctxs).trans (Hw.ctx_setCtx_other _ _ _ _ ne)
    · dsimp only
      rw [ctxs]
      exact Hw.answer_answers rfl
  · rw [if_pos (by simp [live, same])] at steps
    refine ⟨fun idx set v signal => ⟨fun inside => ?_, fun beyond => ?_⟩, fun k accepted known => ?_⟩
    · subst signal
      refine ⟨_, steps, rfl, ?_⟩
      exact if_neg (Nat.not_le.2 inside)
    · subst signal
      have refused : s.hw.takeMessage n src 0 id (.signal idx set v) {} = s.hw.sendCtx n src 2 none (.applied id false) := if_pos beyond
      rw [refused] at steps
      have still := Hw.sendAs_still s.hw s.hw.self n src 2 none (.applied id false)
      exact ⟨_, steps, rfl, (congrArg (fun h : Hw => h.syncFlight) still :), (congrArg (fun h : Hw => h.rings) still :), .of_still still,
        Hw.sendAs_posts ..⟩
    · subst accepted
      have own : (s.hw.setChan n k fun c => { c with accepted := true }).ctx n = { x with chans := x.chans.modify k fun c => { c with accepted := true } } :=
        Hw.ctx_setCtx_same _ _ _ there
      refine ⟨_, steps, rfl, Hw.setCtx_onlyCtx .., ?_⟩
      exact (congrArg (·.chan k) own).trans ((getD_modify ..).trans (if_pos ⟨rfl, known⟩))

/-- Settles O40, by what a control frame or a message of a context does to the machine that takes it. -/
theorem messagesReachContexts : Obligations.MessagesReachContexts := ⟨messagesAreBound, contextsTakeMessages⟩

end Sys2Proof
end

section
/-! PROOFS. ENGINE_ACQUIRE: the engines of the data movement commands go to them in their start order (04 R111). -/

namespace Sys2Proof.Machine

section
variable {h : Hw} {r : Nat} {i : W32} {c : Cmd} {copy : Bool} {die : Nat}

/-- The first engine asked for is taken when no command that started earlier waits for one of its kind. -/
theorem Hw.takeEngine_free {g : EngineId} (index : c.index = i) (free : h.freeEngine copy die = some g)
    (first : ∀ x ∈ h.engineWaiters copy die, c.order ≤ x) :
    h.takeEngine r c copy die = ({ c with engine := some g, wantsEngine := false },
      h.setAux die fun a => { a with holders := a.holders ++ [(engineNumber g, (r, i))] }) := by
  have none : ¬ (h.engineWaiters copy die).any (· < c.order) = true := by simpa using first
  simp [Hw.takeEngine, free, none, index]

/-- A command waits for any engine of its kind while none is free or an earlier command waits. -/
theorem Hw.takeEngine_waits (waits : h.freeEngine copy die = none ∨ ¬ ∀ x ∈ h.engineWaiters copy die, c.order ≤ x) :
    h.takeEngine r c copy die =
      ({ c with engine := some (if copy then .copy die 0 else .gather die 0), wantsEngine := true }, h) := by
  cases free : h.freeEngine copy die with
  | none => simp [Hw.takeEngine, free]
  | some g =>
    have earlier : (h.engineWaiters copy die).any (· < c.order) = true := by simpa [free] using waits
    simp [Hw.takeEngine, free, earlier]

end

theorem execEngineAcquire_waiting {ring : Nat} {index : W32} {s : State} {c : Cmd} {e : EngineId} (powered : s.hw.ks2.powered = true)
    (cmd : s.hw.cmd ring index = some c) (engine : c.engine = some e) (wants : c.wantsEngine = true) :
    let x := s.hw.takeEngine ring c (isCopy e) (engineDie e)
    exec (.engineAcquire ring index) s = .next { s with hw := x.2.setCmd ring index fun _ => x.1 } := by
  intro x
  show execEngineAcquire ring index s = _
  rw [execEngineAcquire, act_on powered]
  simp only [cmd, engine, wants, if_true]
  rfl

end Sys2Proof.Machine

namespace Sys2Proof
open Machine

/-- Settles O21, by whether the command's turn for an engine has come. -/
theorem engineGoesInStartOrder : Obligations.EngineGoesInStartOrder := by
  intro ring index s c e d first powered cmd engine wants there
  have steps := execEngineAcquire_waiting powered cmd engine wants
  refine ⟨fun g free turn => ?_, fun waits => ?_⟩
  · rw [Hw.takeEngine_free (Hw.cmd_index cmd) free turn] at steps
    let b := s.hw.setAux d fun a => { a with holders := a.holders ++ [(engineNumber g, (ring, index))] }
    have kept : b.cmd ring index = some c := cmd
    obtain ⟨new, only⟩ := Hw.cmd_replace kept (d := { c with engine := some g, wantsEngine := false }) (Hw.cmd_index kept :)
    exact ⟨_, steps, rfl, only.of_rings rfl, rfl, new, congrArg DieAux.holders (Hw.dieAux_setAux_same s.hw d _ there)⟩
  · rw [Hw.takeEngine_waits waits] at steps
    obtain ⟨new, only⟩ := Hw.cmd_replace cmd
      (d := { c with engine := some (if isCopy e then .copy d 0 else .gather d 0), wantsEngine := true }) (Hw.cmd_index cmd :)
    exact ⟨_, steps, rfl, rfl, only, new⟩

end Sys2Proof
end

section
/-! SUPPORT. What translation sees of a machine: the errors that reads find, and what is told of them, change no translation that succeeds
(08 R224, R225). -/

namespace Sys2Proof.Machine

/-! ## What translation sees -/

/-- The machine without what the reads of a run can change beside the poisoned groups that they find: what is left translates alike, and
holds the same lines of the remote caches. -/
def Hw.bare (h : Hw) : Hw :=
  { h.still with ctxs := h.ctxs, dies := h.dies.map fun d => { xlat := d.xlat, rcLines := d.rcLines } }

theorem Hw.bare_mem {a b : Hw} (k : a.bare = b.bare) : a.mem = b.mem := (congrArg (fun h : Hw => h.mem) k :)

theorem Hw.bare_die (h : Hw) (n : Nat) : h.bare.die n = { xlat := (h.die n).xlat, rcLines := (h.die n).rcLines } :=
  List.getD_map h.dies ({} : Die) fun d => ({ xlat := d.xlat, rcLines := d.rcLines } : Die)

theorem Hw.bare_rcLines {a b : Hw} (k : a.bare = b.bare) (n : Nat) : (a.die n).rcLines = (b.die n).rcLines := by
  have same := congrArg (fun h : Hw => (h.die n).rcLines) k
  simpa only [Hw.bare_die] using same

section
variable (h : Hw)

theorem Hw.bare_setDie_at (n : Nat) (f : Die → Die) (keeps : (f (h.die n)).xlat = (h.die n).xlat ∧ (f (h.die n)).rcLines = (h.die n).rcLines) :
    (h.setDie n f).bare = h.bare := by
  refine congrArg (fun l => { h.still with ctxs := h.ctxs, dies := l }) (List.ext_getElem ?_ fun i _ low => ?_)
  · simp only [Hw.setDie, List.length_map, List.length_modify]
  · have here (same : n = i) : h.die n = h.dies[i]'(by simpa using low) := by
      subst same
      simp only [Hw.die, List.getD_eq_getElem?_getD, List.getElem?_eq_getElem (show n < h.dies.length by simpa using low), Option.getD_some]
    simp only [Hw.setDie, List.getElem_map, List.getElem_modify]
    split
    next same => rw [← here same, keeps.1, keeps.2]
    next => rfl

theorem Hw.bare_setDie (n : Nat) (f : Die → Die) (keeps : ∀ d, (f d).xlat = d.xlat ∧ (f d).rcLines = d.rcLines) :
    (h.setDie n f).bare = h.bare := h.bare_setDie_at n f (keeps _)

theorem Hw.bare_evMod (code src d0 d1 : Nat) : (h.evMod code src d0 d1).bare = h.bare := by
  unfold Hw.evMod
  rw [(h.event_tells [0, 1] code src 0 0 d0 d1).1]
  rfl

theorem Hw.bare_ueFound (die place tile da : Nat) : (h.ueFound die place tile da).bare = h.bare := by
  unfold Hw.ueFound
  dsimp only
  split
  · exact Hw.bare_evMod _ _ _ _ _
  · exact Hw.bare_setDie _ _ _ fun _ => ⟨rfl, rfl⟩

theorem Hw.bare_recordRow (die place row : Nat) : (h.recordRow die place row).bare = h.bare := by
  unfold Hw.recordRow
  dsimp only
  rw [Hw.bare_evMod]
  split <;> rfl

theorem Hw.bare_foundUe (g : Nat) : (h.foundUe g).bare = h.bare := by
  have marked (n : Nat) (f : Die → Die) (keeps : ∀ d, (f d).xlat = d.xlat ∧ (f d).rcLines = d.rcLines) :
      (({ h with poison := setIns h.poison g } : Hw).setDie n f).bare = h.bare := Hw.bare_setDie _ n f keeps
  unfold Hw.foundUe
  dsimp only
  split
  · exact (Hw.bare_ueFound _ _ _ _ _).trans (marked _ _ fun _ => ⟨rfl, rfl⟩)
  · exact (Hw.bare_recordRow _ _ _ _).trans ((Hw.bare_ueFound _ _ _ _ _).trans (marked _ _ fun _ => ⟨rfl, rfl⟩))

theorem Hw.bare_noteCe (die place n : Nat) : (h.noteCe die place n).bare = h.bare := by
  unfold Hw.noteCe
  dsimp only
  split
  · rfl
  · split
    · exact Hw.bare_evMod _ _ _ _ _
    · rfl

theorem Hw.bare_foundCe (g : Nat) : (h.foundCe g).bare = h.bare := by
  unfold Hw.foundCe
  dsimp only
  split <;> exact (Hw.bare_noteCe _ _ _ _).trans (Hw.bare_setDie _ _ _ fun _ => ⟨rfl, rfl⟩)

theorem foldl_bare {α : Type} (f : Hw → α → Hw) (k : ∀ h x, (f h x).bare = h.bare) (l : List α) : (l.foldl f h).bare = h.bare :=
  List.foldlRecOn (motive := fun g : Hw => g.bare = h.bare) l f rfl fun g ok x _ => (k g x).trans ok

theorem Hw.bare_readErrors (e : Env) (gs : List Nat) : (h.readErrors e gs).bare = h.bare := by
  unfold Hw.readErrors
  split
  · rfl
  · exact (foldl_bare _ _ Hw.bare_foundCe _).trans (foldl_bare _ _ Hw.bare_foundUe _)

/-- Where the die's remote cache is empty, its lines hold no errors. -/
theorem Hw.bare_lineErrors {die : Nat} (e : Env) (gs : List Nat) (empty : (h.die die).rcLines = []) :
    (h.lineErrors die e gs).bare = h.bare := by
  unfold Hw.lineErrors
  simp only [empty, List.any_nil, Bool.and_false, List.filter_false, List.foldl_nil]
  split
  · rfl
  · exact (Hw.bare_noteCe _ _ _ _).trans (Hw.bare_setDie _ _ _ fun _ => ⟨rfl, rfl⟩)

theorem Hw.bare_applyEnv (e : Env) : (h.applyEnv e).bare = h.bare := by
  rw [h.applyEnv_only e]
  rfl

end

/-! ## Translation -/

section
variable {h : Hw} {die n cva : Nat} {wr : Bool}

/-- An entry of a table, without its poison. -/
theorem Hw.entry_bare {t i : Nat} {e : Nat × Bool} (found : h.entry t i = some e) : h.bare.entry t i = some (e.1, false) := by
  have clean (g : Nat) : h.bare.poisonedGroup g = false := by simp [Hw.bare, Hw.still, Hw.poisonedGroup, Hw.weakGroup]
  have unmarked (k m : Nat) : h.bare.poisonedAt k m = false := by simp [Hw.poisonedAt, clean]
  unfold Hw.entry at found ⊢
  have ok : h.bare.tableOk t = h.tableOk t := rfl
  dsimp only at found ⊢
  rw [ok, unmarked]
  split at found
  next k => rw [if_pos k]; cases found; rfl
  next => cases found

/-- A walk that succeeds meets no poison, and succeeds without it. -/
theorem Hw.walk_bare {root bad : Nat} {y : Nat × Bool} (ok : h.walk root cva bad = .ok y) : h.bare.walk root cva bad = .ok y := by
  unfold Hw.walk at ok ⊢
  split at ok
  · cases ok
  next e2 p2 f2 =>
    rw [Hw.entry_bare f2]
    split at ok
    · cases ok
    split at ok
    · cases ok
    next c2 =>
      simp only [Bool.false_eq_true, if_false, if_neg c2]
      split at ok
      · cases ok
      next e1 p1 f1 =>
        rw [Hw.entry_bare f1]
        split at ok
        · cases ok
        split at ok
        · cases ok
        next c1 =>
          simp only [Bool.false_eq_true, if_false, if_neg c1]
          split at ok
          next giant => rw [if_pos giant]; exact ok
          next small =>
            rw [if_neg small]
            split at ok
            · cases ok
            next t1 =>
              rw [if_neg t1]
              split at ok
              · cases ok
              next e0 p0 f0 =>
                rw [Hw.entry_bare f0]
                split at ok
                · cases ok
                simpa using ok

theorem Hw.xlatOf_bare (m : Nat) (ep : Byte) (a : Nat) : (h.bare.die die).xlatOf m ep a = (h.die die).xlatOf m ep a := by
  rw [Hw.bare_die]
  rfl

/-- A translation that succeeds does so whatever groups are poisoned. -/
theorem Hw.translate_bare {y : Place × Option XEntry} (ok : h.translate die n cva wr = .ok y) : h.bare.translate die n cva wr = .ok y := by
  have go {m a bad : Nat} (ok : Hw.translate.go h die wr m a bad = .ok y) : Hw.translate.go h.bare die wr m a bad = .ok y := by
    unfold Hw.translate.go at ok ⊢
    split at ok
    · cases ok
    next c =>
      rw [if_neg c]
      have same : (h.bare.die die).xlatOf m (h.bare.ctx m).epoch a = (h.die die).xlatOf m (h.ctx m).epoch a := Hw.xlatOf_bare _ _ _
      dsimp only at ok ⊢
      rw [same]
      split at ok
      · exact ok
      · split at ok
        · cases ok
        next w =>
          have walks : h.bare.walk (h.bare.ctx m).plan.ptRoot.toNat a bad = _ := Hw.walk_bare w
          rw [walks]
          exact ok
  unfold Hw.translate at ok ⊢
  have imports : (h.bare.ctx n).plan.importAt cva = (h.ctx n).plan.importAt cva := rfl
  dsimp only at ok ⊢
  rw [imports]
  split at ok
  · cases ok
  next c =>
    rw [if_neg c]
    split at ok
    · split at ok
      · cases ok
      next r =>
        rw [if_neg r]
        split at ok
        · cases ok
        next w =>
          rw [if_neg w]
          exact go ok
    · exact go ok

end

end Sys2Proof.Machine
end

section
/-! SUPPORT. Reads and writes of a run at addresses that lead to this module's memory: what is read is what memory holds, and what is written
is what the run's writes list (08 R209, R225). -/

namespace Sys2Proof.Machine

/-! ## Bytes laid into memory -/

/-- Bytes at rising addresses; none where nothing is written. -/
def laid : Nat → List (Option Byte) → List (Nat × Byte)
  | _, [] => []
  | k, none :: l => laid (k + 1) l
  | k, some b :: l => (k, b) :: laid (k + 1) l

theorem laid_append (k : Nat) (l m : List (Option Byte)) : laid k (l ++ m) = laid k l ++ laid (k + l.length) m := by
  induction l generalizing k with
  | nil => simp [laid]
  | cons x l ih => cases x <;> simp [laid, ih, Nat.add_assoc, Nat.add_comm 1]

/-- What `Writes.add` lists. -/
theorem laid_some (k i : Nat) (bs : List Byte) : (bs.zipIdx i).map (fun x => (k + x.2, x.1)) = laid (k + i) (bs.map some) := by
  induction bs generalizing i with
  | nil => rfl
  | cons b bs ih => simp [laid, ih, Nat.add_assoc]

/-- The last byte laid at an address. -/
theorem laid_last (k x : Nat) (l : List (Option Byte)) :
    ((laid k l).filter (·.1 == x)).getLast? = if k ≤ x then (l.getD (x - k) none).map (x, ·) else none := by
  induction l generalizing k with
  | nil => simp [laid]
  | cons o l ih =>
    rcases Nat.lt_trichotomy k x with less | rfl | more
    · obtain ⟨d, rfl⟩ : ∃ d, x = k + 1 + d := ⟨x - (k + 1), by omega⟩
      have next : k + 1 + d - k = d + 1 := by omega
      have ne : k ≠ k + 1 + d := by omega
      cases o <;> simp [laid, ih, next, ne, show k ≤ k + 1 + d by omega]
    · have later : (laid (k + 1) l).filter (·.1 == k) = [] := by
        rw [← List.getLast?_eq_none_iff, ih, if_neg (by omega)]
      cases o <;> simp [laid, later]
    · have ne : k ≠ x := by omega
      cases o <;> simp [laid, ih, ne, show ¬ k ≤ x by omega, show ¬ k + 1 ≤ x by omega]

/-- The runs of written bytes, one after the other, lay what the group's bytes do. -/
theorem laid_segments (k o : Nat) (l : List (Option Byte)) :
    (segments o l).flatMap (fun s => laid (k + s.1) (s.2.map some)) = laid (k + o) l := by
  induction l generalizing o with
  | nil => rfl
  | cons x l ih =>
    cases x with
    | none => exact ih (o + 1)
    | some b =>
      have rest := ih (o + 1)
      simp only [segments, laid]
      rw [Nat.add_assoc, ← rest]
      split
      next p bs t eq =>
        split
        next adj => simp [eq, adj, laid, Nat.add_assoc]
        next => simp [eq, laid]
      next eq => simp [eq, laid]

/-- A run of written bytes lies among them. -/
theorem segments_within {o : Nat} {l : List (Option Byte)} {s : Nat × List Byte} (mem : s ∈ segments o l) :
    o ≤ s.1 ∧ s.1 + s.2.length ≤ o + l.length ∧ s.2 ≠ [] := by
  induction l generalizing o s with
  | nil => simp [segments] at mem
  | cons x l ih =>
    have later {s : Nat × List Byte} (mem : s ∈ segments (o + 1) l) : o ≤ s.1 ∧ s.1 + s.2.length ≤ o + (l.length + 1) ∧ s.2 ≠ [] := by
      obtain ⟨low, high, some⟩ := ih mem
      exact ⟨by omega, by omega, some⟩
    cases x with
    | none => exact later mem
    | some b =>
      simp only [segments] at mem
      split at mem
      next p bs t eq =>
        have first := later (s := (p, bs)) (by simp [eq])
        split at mem
        next adj =>
          rcases List.mem_cons.1 mem with rfl | mem
          · obtain ⟨low, high, -⟩ := first
            simp only [List.length_cons] at high ⊢
            exact ⟨by omega, by omega, List.cons_ne_nil _ _⟩
          · exact later (by simp [eq, mem])
        next =>
          rcases List.mem_cons.1 mem with rfl | mem
          · simp
          · exact later (by rw [eq]; exact mem)
      next =>
        obtain rfl := List.mem_singleton.1 mem
        simp

/-! ## Runs that lead on -/

/-- What a byte of module memory holds when a run is carried out. -/
def Run.byte (r : Run) (k : Nat) : Byte := r.byteAfter r.h.mem k

/-- An address of a run leads to a key of this module's memory. -/
def Run.Owns (r : Run) (cva : Nat) (wr : Bool) (k : Nat) : Prop :=
  ∃ nc x, r.h.bare.translate r.die r.ctx cva wr = .ok (.own k nc, x)

/-- The die of a run keeps no lines of the remote cache. -/
def Run.Uncached (r : Run) : Prop := (r.h.die r.die).rcLines = []

/-- A run that nothing has stopped goes on as `q`, with more bytes to write; translation sees no difference. -/
structure Run.Then (r : Run) (l : List (Nat × Byte)) (q : Run) : Prop where
  ok : r.ok = true
  bare : q.h.bare = r.h.bare
  die : q.die = r.die
  ctx : q.ctx = r.ctx
  bytes : q.w.bytes = r.w.bytes ++ l

section
variable {r q p : Run} {l m : List (Nat × Byte)} {cva k n : Nat} {wr : Bool}

theorem Run.Then.refl (ok : r.ok = true) : r.Then [] r := ⟨ok, rfl, rfl, rfl, (List.append_nil _).symm⟩

theorem Run.Then.trans (a : r.Then l q) (b : q.Then m p) : r.Then (l ++ m) p :=
  ⟨a.ok, b.bare.trans a.bare, b.die.trans a.die, b.ctx.trans a.ctx, by rw [b.bytes, a.bytes, List.append_assoc]⟩

/-- Reads between writes add nothing to what is written. -/
theorem Run.Then.after_read (a : r.Then [] q) (b : q.Then m p) : r.Then m p := a.trans b

theorem Run.Then.mem (a : r.Then l q) : q.h.mem = r.h.mem := Hw.bare_mem a.bare

theorem Run.Then.owns (a : r.Then l q) (owns : r.Owns cva wr k) : q.Owns cva wr k := by
  unfold Run.Owns
  rw [a.bare, a.die, a.ctx]
  exact owns

theorem Run.Then.uncached (a : r.Then l q) (empty : r.Uncached) : q.Uncached := by
  unfold Run.Uncached
  rw [Hw.bare_rcLines a.bare, a.die]
  exact empty

theorem Run.byteAfter_append (mem : List Host.Cell) (a : r.Then l q) :
    q.byteAfter mem k = match (l.filter (·.1 == k)).getLast? with | some x => x.2 | none => r.byteAfter mem k := by
  unfold Run.byteAfter
  rw [a.bytes, List.filter_append, List.getLast?_append]
  cases (l.filter (·.1 == k)).getLast? <;> rfl

/-- Bytes that a run lays at a key. -/
theorem Run.Then.byte_laid {bs : List (Option Byte)} (a : r.Then (laid k bs) q) (x : Nat) :
    q.byte x = if k ≤ x then (bs.getD (x - k) none).getD (r.byte x) else r.byte x := by
  unfold Run.byte
  rw [a.mem, Run.byteAfter_append _ a, laid_last]
  by_cases reached : k ≤ x
  · simp only [if_pos reached]
    cases bs.getD (x - k) none <;> rfl
  · simp only [if_neg reached]

/-! ## Finding a place -/

theorem Run.meets_same (r : Run) (gs : List Nat) :
    (r.meets gs).h.bare = r.h.bare ∧ (r.meets gs).w = r.w ∧ (r.meets gs).die = r.die ∧ (r.meets gs).ctx = r.ctx ∧ (r.meets gs).ok = r.ok := by
  unfold Run.meets
  split
  · exact ⟨rfl, rfl, rfl, rfl, rfl⟩
  · exact ⟨Hw.bare_readErrors _ _ _, rfl, rfl, rfl, rfl⟩

theorem Run.Then.meets (gs : List Nat) (a : r.Then l q) : r.Then l (q.meets gs) := by
  obtain ⟨bare, w, die, ctx, -⟩ := q.meets_same gs
  exact ⟨a.ok, bare.trans a.bare, die.trans a.die, ctx.trans a.ctx, (congrArg Writes.bytes w).trans a.bytes⟩

theorem Run.Then.meetsWalk (cva : Nat) (a : r.Then l q) : r.Then l (q.meetsWalk cva) := by
  unfold Run.meetsWalk
  split
  · exact a
  · exact a.meets _

theorem Run.Then.meetsLines (gs : List Nat) (empty : r.Uncached) (a : r.Then l q) : r.Then l (q.meetsLines gs) := by
  unfold Run.meetsLines
  split
  · exact a
  · exact ⟨a.ok, (Hw.bare_lineErrors _ _ _ (a.uncached empty)).trans a.bare, a.die, a.ctx, a.bytes⟩

theorem Run.Then.readPoison (place : Nat) (gs : List Nat) (a : r.Then l q) : r.Then l (q.readPoison place gs) := by
  unfold Run.readPoison
  split
  · exact a
  · exact ⟨a.ok, a.bare, a.die, a.ctx, a.bytes⟩

/-- A run that finds no place has stopped. -/
theorem Run.locate_none (found : r.locate cva wr = (none, q)) : q.ok = false := by
  unfold Run.locate at found
  split at found
  · cases found
    simp [Run.ok]
  · dsimp only at found
    split at found
    · cases found
      rfl
    · split_ifs at found
      all_goals cases found
      all_goals simp [Run.ok]

/-- An address that leads to a key is found there. -/
theorem Run.locate_some {place : Place} (found : r.locate cva wr = (some place, q)) (owns : r.Owns cva wr k) (ok : r.ok = true) :
    (∃ nc, place = .own k nc) ∧ r.Then [] q := by
  have walked : r.Then [] (r.meetsWalk cva) := (Run.Then.refl ok).meetsWalk cva
  obtain ⟨nc, x, leads⟩ := walked.owns owns
  unfold Run.locate at found
  split at found
  · cases found
  · dsimp only at found
    split at found
    · cases found
    next p y translated =>
      have same := (Hw.translate_bare translated).symm.trans leads
      split_ifs at found
      all_goals cases found
      all_goals
        cases same
        exact ⟨⟨nc, rfl⟩, walked.ok, walked.bare, walked.die, walked.ctx, walked.bytes⟩

/-! ## Reading -/

/-- A byte through an empty cache is that of its home. -/
theorem lineByte_empty {d : Die} (empty : d.rcLines = []) (tag : Nat × Byte) (da : Nat) (home : Byte) : lineByte d tag da home = home := by
  simp [lineByte, Die.line, empty]

/-- A read within a page gives what memory holds. -/
theorem Run.readIn_owns (owns : r.Owns cva false k) (empty : r.Uncached) (goes : (r.readIn cva n).2.ok = true) :
    r.Then [] (r.readIn cva n).2 ∧ (r.readIn cva n).1.1 = cellRead r.h.mem k n := by
  unfold Run.readIn at goes ⊢
  split at goes
  next stopped => simp [goes] at stopped
  next going =>
    have ok : r.ok = true := by simpa using going
    rw [if_neg going]
    split at goes
    next q found =>
      rw [Run.locate_none found] at goes
      cases goes
    next place q found =>
      obtain ⟨⟨nc, rfl⟩, leads⟩ := Run.locate_some found owns ok
      have mem : q.h.mem = r.h.mem := leads.mem
      split
      next starved => simp [starved, Run.ok] at goes
      · dsimp -zeta only
        split
        · extract_lets tag d da all miss q1 q2 d2 bs po
          have leads2 : r.Then [] q2 := (leads.meets _).meetsLines _ empty
          have mem2 : q2.h.mem = r.h.mem := leads2.mem
          have home : bs = q2.h.memRead k n := by
            have none (x : Byte × Nat) : lineByte d2 tag (da + x.2) x.1 = x.1 := lineByte_empty (leads2.uncached empty) _ _ _
            simp only [bs, none, List.zipIdx_map_fst]
          refine ⟨.readPoison 0 _ ⟨leads2.ok, leads2.bare, leads2.die, leads2.ctx, leads2.bytes⟩, ?_⟩
          rw [← mem2]
          exact home
        · refine ⟨(leads.meets _).readPoison 0 _, ?_⟩
          rw [← (leads.meets _).mem]
          rfl

theorem cellRead_append (m : List Host.Cell) (a i j : Nat) : cellRead m a i ++ cellRead m (a + i) j = cellRead m a (i + j) := by
  induction i generalizing a with
  | zero => simp [cellRead]
  | succ i ih => simpa [cellRead, Nat.succ_add, Nat.add_assoc, Nat.add_comm 1 i] using ih (a + 1)

theorem Run.readIn_ok (goes : (r.readIn cva n).2.ok = true) : r.ok = true := by
  unfold Run.readIn at goes
  split at goes
  · exact goes
  next going => simpa using going

/-- A read goes on with a run that goes on. -/
theorem Run.readN_ok {f : Nat} (goes : (Run.readN f r cva n).2.ok = true) : r.ok = true := by
  induction f generalizing r cva n with
  | zero => exact goes
  | succ f ih =>
    rw [Run.readN] at goes
    dsimp only at goes
    split at goes
    · exact Run.readIn_ok goes
    · exact Run.readIn_ok (ih goes)

/-- A read across pages, each leading to its part of a range of keys, gives what memory holds. -/
theorem Run.readN_owns {f : Nat} (owns : ∀ i, i < n → r.Owns (cva + i) false (k + i)) (empty : r.Uncached) (pos : 0 < n)
    (fuel : n ≤ 2 ^ 21 - cva % 2 ^ 21 + f * 2 ^ 21) (goes : (Run.readN (f + 1) r cva n).2.ok = true) :
    r.Then [] (Run.readN (f + 1) r cva n).2 ∧ (Run.readN (f + 1) r cva n).1.1 = cellRead r.h.mem k n := by
  induction f generalizing r cva k n with
  | zero =>
    have inside : n ≤ 2 ^ 21 - cva % 2 ^ 21 := by omega
    have here : Run.readN 1 r cva n = r.readIn cva n := if_pos inside
    rw [here] at goes ⊢
    exact Run.readIn_owns (owns 0 pos) empty goes
  | succ f ih =>
    rw [Run.readN] at goes ⊢
    generalize ends : 2 ^ 21 - cva % 2 ^ 21 = m at goes fuel ⊢
    by_cases inside : n ≤ m
    · simp only [if_pos inside] at goes ⊢
      exact Run.readIn_owns (owns 0 pos) empty goes
    · simp only [if_neg inside] at goes ⊢
      have page : (cva + m) % 2 ^ 21 = 0 := by omega
      have start : r.Owns cva false k := owns 0 pos
      obtain ⟨first, bytes⟩ := Run.readIn_owns start empty (Run.readN_ok goes)
      obtain ⟨rest, more⟩ := ih (r := (r.readIn cva m).2) (cva := cva + m) (k := k + m) (n := n - m)
        (fun i less => by simpa only [Nat.add_assoc] using first.owns (owns (m + i) (by omega))) (first.uncached empty) (by omega) (by omega) goes
      refine ⟨first.trans rest, ?_⟩
      rw [bytes, more, first.mem]
      exact (cellRead_append _ _ _ _).trans (by rw [Nat.add_sub_cancel' (by omega)])

/-- A read whose addresses lead to a range of keys gives what memory holds. -/
theorem Run.readGroups_owns (owns : ∀ i, i < n → r.Owns (cva + i) false (k + i)) (empty : r.Uncached) (pos : 0 < n)
    (goes : (r.readGroups cva n).2.ok = true) : r.Then [] (r.readGroups cva n).2 ∧ (r.readGroups cva n).1.1 = cellRead r.h.mem k n :=
  Run.readN_owns owns empty pos (by omega) goes

/-! ## Writing -/

/-- A write within a page lists its bytes. -/
theorem Run.write_owns {bs : List Byte} {po : Bool} (owns : r.Owns cva true k) (goes : (r.write cva bs po).ok = true) :
    r.Then (laid k (bs.map some)) (r.write cva bs po) := by
  unfold Run.write at goes ⊢
  split at goes
  next still =>
    have none : bs = [] := by simpa [goes] using still
    rw [if_pos still, none]
    exact .refl goes
  next going =>
    rw [if_neg going]
    have ok : r.ok = true := by
      simp only [Bool.or_eq_true, not_or, Bool.not_eq_true'] at going
      simpa using going.1
    split at goes
    next q found =>
      rw [Run.locate_none found] at goes
      cases goes
    next place q found =>
      obtain ⟨⟨nc, rfl⟩, leads⟩ := Run.locate_some found owns ok
      refine ⟨ok, leads.bare, leads.die, leads.ctx, ?_⟩
      have added : (q.w.add k bs).bytes = r.w.bytes ++ laid k (bs.map some) := by
        rw [← Nat.add_zero k, ← laid_some, ← List.append_nil r.w.bytes, ← leads.bytes]
        rfl
      dsimp only
      split
      all_goals exact added

theorem Run.write_ok {bs : List Byte} {po : Bool} (goes : (r.write cva bs po).ok = true) : r.ok = true := by
  by_cases ok : r.ok = true
  · exact ok
  · unfold Run.write at goes
    rwa [if_pos (by simp [ok])] at goes

/-- A run that goes on after steps went on before them, where it does so for each step. -/
theorem Run.foldl_ok {α : Type} {f : Run → α → Run} {l : List α} (goes : (l.foldl f r).ok = true)
    (step : ∀ r x, (f r x).ok = true → r.ok = true) : r.ok = true := by
  induction l generalizing r with
  | nil => exact goes
  | cons x l ih => exact step r x (ih goes)

/-- The piece of a write that lies in a 32-byte group. -/
def Run.writePiece (a : Nat) (bs : List Byte) (po : List Nat) (r : Run) (x : Nat × Nat) : Run :=
  let lo := max a (32 * x.1)
  r.write lo ((bs.drop (lo - a)).take (min (a + bs.length) (32 * x.1 + 32) - lo)) (po.contains x.2)

theorem Run.writePiece_owns {bs : List Byte} {po : List Nat} {a g j d : Nat} (owns : ∀ i, i < bs.length → r.Owns (a + i) true (k + i))
    (here : a + d = max a (32 * g)) (goes : (r.writePiece a bs po (g, j)).ok = true) :
    r.Then (laid (k + d) (((bs.drop d).take (32 * g + 32 - (a + d))).map some)) (r.writePiece a bs po (g, j)) := by
  have piece : (bs.drop d).take (min (a + bs.length) (32 * g + 32) - (a + d)) = (bs.drop d).take (32 * g + 32 - (a + d)) := by
    rw [List.take_eq_take_iff, List.length_drop]
    omega
  have same : r.writePiece a bs po (g, j) = r.write (a + d) ((bs.drop d).take (32 * g + 32 - (a + d))) (po.contains j) := by
    rw [← piece]
    simp only [Run.writePiece, ← here, Nat.add_sub_cancel_left]
  rw [same] at goes ⊢
  by_cases more : d < bs.length
  · exact Run.write_owns (owns d more) goes
  · have none : bs.drop d = [] := List.drop_eq_nil_of_le (by omega)
    rw [none] at goes ⊢
    have still (b : Bool) : r.write (a + d) [] b = r := if_pos (by simp)
    rw [List.take_nil, still] at goes ⊢
    exact .refl goes

/-- Pieces of a write, one for each 32-byte group from `g` on, where `d` bytes are written already. -/
theorem Run.writePieces_owns {bs : List Byte} {po : List Nat} {a m g j d : Nat} (owns : ∀ i, i < bs.length → r.Owns (a + i) true (k + i))
    (near : a < 32 * g + 32) (here : a + d = max a (32 * g)) (whole : a + bs.length ≤ 32 * (g + m))
    (goes : (((List.range' g m).zipIdx j).foldl (Run.writePiece a bs po) r).ok = true) :
    r.Then (laid (k + d) ((bs.drop d).map some)) (((List.range' g m).zipIdx j).foldl (Run.writePiece a bs po) r) := by
  induction m generalizing r g j d with
  | zero =>
    rw [List.drop_eq_nil_of_le (by omega)]
    exact .refl goes
  | succ m ih =>
    simp only [List.range'_succ, List.zipIdx_cons, List.foldl_cons] at goes ⊢
    have first := Run.writePiece_owns (po := po) (j := j) owns here (Run.foldl_ok goes fun r x => Run.write_ok)
    have rest := ih (r := r.writePiece a bs po (g, j)) (g := g + 1) (j := j + 1) (d := d + (32 * g + 32 - (a + d)))
      (fun i less => first.owns (owns i less)) (by omega) (by omega) (by omega) goes
    generalize 32 * g + 32 - (a + d) = u at first rest
    have parts : laid (k + d) ((bs.drop d).map some) =
        laid (k + d) (((bs.drop d).take u).map some) ++ laid (k + (d + u)) ((bs.drop (d + u)).map some) := by
      rw [← List.drop_drop]
      conv_lhs => rw [← List.take_append_drop u (bs.drop d), List.map_append, laid_append]
      by_cases full : u ≤ (bs.drop d).length
      · rw [List.length_map, List.length_take, Nat.min_eq_left full, Nat.add_assoc]
      · rw [List.drop_eq_nil_of_le (i := u) (by omega)]
        rfl
    rw [parts]
    exact first.trans rest

/-- A write whose addresses lead to a range of keys lists its bytes there. -/
theorem Run.writeGroups_owns {bs : List Byte} {po : List Nat} {a : Nat} (owns : ∀ i, i < bs.length → r.Owns (a + i) true (k + i))
    (some : bs ≠ []) (goes : (r.writeGroups a bs po).ok = true) :
    r.Then (laid k (bs.map Option.some)) (r.writeGroups a bs po) := by
  have pos : 0 < bs.length := List.length_pos_iff.2 some
  unfold Run.writeGroups at goes ⊢
  split at goes
  next within =>
    rw [if_pos within]
    exact Run.write_owns (owns 0 pos : r.Owns a true k) goes
  next pieces =>
    rw [if_neg pieces]
    have groups : groupsOf a bs.length = List.range' (a / 32) ((a + bs.length - 1) / 32 - a / 32 + 1) := by
      rw [groupsOf, if_neg (by omega), List.range'_eq_map_range]
    rw [groups] at goes ⊢
    exact Run.writePieces_owns (d := 0) owns (by omega) (by omega) (by omega) goes

theorem Run.writeGroups_ok {bs : List Byte} {po : List Nat} (goes : (r.writeGroups cva bs po).ok = true) : r.ok = true := by
  unfold Run.writeGroups at goes
  split at goes
  · exact Run.write_ok goes
  · exact Run.foldl_ok goes fun _ _ => Run.write_ok

/-- Runs of bytes, one after the other, list what lies in them. -/
theorem Run.writeSegments_owns {segs : List (Nat × List Byte)} {po : Nat × List Byte → List Nat} {a b : Nat}
    (owns : ∀ i, i < b → r.Owns (a + i) true (k + i)) (within : ∀ s ∈ segs, s.1 + s.2.length ≤ b ∧ s.2 ≠ []) :
    let q := segs.foldl (fun r s => r.writeGroups (a + s.1) s.2 (po s)) r
    q.ok = true → r.Then (segs.flatMap fun s => laid (k + s.1) (s.2.map some)) q := by
  intro q goes
  induction segs generalizing r with
  | nil => exact .refl goes
  | cons s segs ih =>
    obtain ⟨fits, some⟩ := within s (List.mem_cons_self ..)
    have first := Run.writeGroups_owns (r := r) (k := k + s.1) (a := a + s.1) (bs := s.2) (po := po s)
      (fun i less => by simpa only [Nat.add_assoc] using owns (s.1 + i) (by omega)) some (Run.foldl_ok goes fun _ _ => Run.writeGroups_ok)
    exact first.trans (ih (fun i less => first.owns (owns i less)) (fun s mem => within s (List.mem_cons_of_mem _ mem)) goes)

end

end Sys2Proof.Machine
end

section
/-! SUPPORT. The codes of a channel group: what a group's bytes hold after some of its elements are written (04 R97, R103). -/

namespace Sys2Proof.Machine

/-! ## Bytes of a code -/

theorem leNat_toLe (n x : Nat) : leNat (toLe n x) = x % 256 ^ n := by
  induction n generalizing x with
  | zero => simp [toLe, leNat, Nat.mod_one]
  | succ n ih =>
    have low : (BitVec.ofNat 8 x).toNat = x % 256 := rfl
    rw [toLe, leNat, ih, low, Nat.pow_succ', Nat.mod_mul]

/-- The widths of the element formats. -/
theorem elemBits_cases (e : Nat) :
    elemBits e = 2 ∨ elemBits e = 4 ∨ ∃ u, elemBits e = 8 * u ∧ 1 ≤ u ∧ u ≤ 8 ∧ (256 : Nat) ^ u = 2 ^ elemBits e := by
  unfold elemBits
  repeat' split
  · exact .inr (.inr ⟨4, rfl, by decide, by decide, by decide⟩)
  · exact .inr (.inr ⟨2, rfl, by decide, by decide, by decide⟩)
  · exact .inr (.inr ⟨1, rfl, by decide, by decide, by decide⟩)
  · exact .inr (.inl rfl)
  · exact .inl rfl
  · exact .inr (.inr ⟨8, rfl, by decide, by decide, by decide⟩)

/-- The block that one element of a list makes of as many blocks of one length. -/
theorem flatMap_block {α β : Type} {f : α → List β} {u : Nat} {l : List α} (len : ∀ x, (f x).length = u) {j : Nat} {x : α} (at_ : l[j]? = some x) :
    ((l.flatMap f).drop (j * u)).take u = f x := by
  induction l generalizing j with
  | nil => cases at_
  | cons y l ih =>
    cases j with
    | zero =>
      obtain rfl : y = x := by simpa using at_
      simp [len]
    | succ j =>
      rw [List.flatMap_cons, Nat.succ_mul, Nat.add_comm, ← List.drop_drop, ← len y, List.drop_left, len y]
      exact ih (by simpa using at_)

/-! ## Elements narrower than a byte -/

/-- A digit of a number given by its digits. -/
theorem ofDigits_digit {b : Nat} (pos : 0 < b) {ds : List Nat} (small : ∀ d ∈ ds, d < b) (i : Nat) :
    Nat.ofDigits b ds / b ^ i % b = ds.getD i 0 := by
  rw [Nat.ofDigits_div_pow_eq_ofDigits_drop i pos ds small]
  cases tail : ds.drop i with
  | nil => simp [List.getD_eq_getElem?_getD, List.getElem?_eq_none (List.drop_eq_nil_iff.1 tail)]
  | cons d r =>
    have at_ : ds[i]? = some d := by simpa [tail] using (List.getElem?_drop (xs := ds) (i := i) (j := 0)).symm
    rw [Nat.ofDigits_cons, Nat.add_mul_mod_self_left, List.getD_eq_getElem?_getD, at_]
    exact Nat.mod_eq_of_lt (small d (List.mem_of_getElem? at_))

/-- What an element of a byte becomes. -/
def packDigit (w : Nat) (old : Byte) (x : Option Nat × Nat) : Nat :=
  match x.1 with
  | some c => c % 2 ^ w
  | none => bits old.toNat (x.2 * w + w - 1) (x.2 * w)

theorem packDigit_small {w : Nat} (pos : 0 < w) (old : Byte) (x : Option Nat × Nat) : packDigit w old x < 2 ^ w := by
  unfold packDigit
  split
  · exact Nat.mod_lt _ (Nat.two_pow_pos w)
  · unfold bits
    rw [show x.2 * w + w - 1 + 1 - x.2 * w = w by omega]
    exact Nat.mod_lt _ (Nat.two_pow_pos w)

theorem sum_packDigit (w k : Nat) (old : Byte) (cs : List (Option Nat)) :
    ((cs.zipIdx k).map fun x => packDigit w old x * 2 ^ (x.2 * w)).sum = 2 ^ (k * w) * Nat.ofDigits (2 ^ w) ((cs.zipIdx k).map (packDigit w old)) := by
  induction cs generalizing k with
  | nil => simp
  | cons c cs ih =>
    simp only [List.zipIdx_cons, List.map_cons, List.sum_cons, ih, Nat.ofDigits_cons, Nat.succ_mul, pow_add]
    ring

theorem packByte_digits (w : Nat) (old : Byte) (cs : List (Option Nat)) :
    packByte w old cs =
      if cs.all (·.isNone) then none else some (BitVec.ofNat 8 (Nat.ofDigits (2 ^ w) (cs.zipIdx.map (packDigit w old)))) := by
  have sum := sum_packDigit w 0 old cs
  rw [Nat.zero_mul, pow_zero, Nat.one_mul] at sum
  rw [← sum]
  unfold packByte
  split
  · rfl
  · refine congrArg (fun n => some (BitVec.ofNat 8 n)) (congrArg List.sum (List.map_congr_left fun x _ => ?_))
    obtain ⟨c | c, i⟩ := x <;> rfl

/-- The elements of a byte after some are written. -/
theorem packByte_digit {w i : Nat} {old y : Byte} {cs : List (Option Nat)} {o : Option Nat} (pos : 0 < w) (fits : w * cs.length ≤ 8)
    (at_ : cs[i]? = some o) (packed : packByte w old cs = some y) : bits y.toNat (i * w + w - 1) (i * w) = packDigit w old (o, i) := by
  rw [packByte_digits] at packed
  split at packed
  · cases packed
  · cases packed
    have small : ∀ d ∈ cs.zipIdx.map (packDigit w old), d < 2 ^ w := by
      intro d mem
      obtain ⟨x, -, rfl⟩ := List.mem_map.1 mem
      exact packDigit_small pos old x
    have whole : Nat.ofDigits (2 ^ w) (cs.zipIdx.map (packDigit w old)) < 2 ^ 8 := by
      refine lt_of_lt_of_le (Nat.ofDigits_lt_base_pow_length (Nat.one_lt_two_pow (by omega)) small) ?_
      rw [List.length_map, List.length_zipIdx, ← pow_mul]
      exact Nat.pow_le_pow_right (by decide) fits
    rw [BitVec.toNat_ofNat, Nat.mod_eq_of_lt whole]
    unfold bits
    rw [show i * w + w - 1 + 1 - i * w = w by omega, Nat.shiftRight_eq_div_pow, Nat.mul_comm i w, pow_mul, ofDigits_digit (Nat.two_pow_pos w) small]
    simp [List.getD_eq_getElem?_getD, at_]

/-! ## Codes of a group -/

section
variable {e w per j : Nat} {old bs : List Byte} {cells : List (Option Nat)}

/-- The byte of a narrow element, and its place there. -/
theorem codeAt_narrow (width : elemBits e = w) (pos : 0 < w) (parts : w * per = 8) (small : w < 8) (bs : List Byte) (j : Nat) :
    codeAt e bs j = bits (bs.getD (j / per) 0).toNat (j % per * w + w - 1) (j % per * w) := by
  have count : 8 / w = per := by rw [← parts, Nat.mul_div_cancel_left _ pos]
  have place : j * w / 8 = j / per := by rw [← parts, Nat.mul_comm w per, Nat.mul_div_mul_right _ _ pos]
  simp only [codeAt, width, if_neg (Nat.not_le.2 small), count, place, fld]
  refine congrArg (bits · _ _) ?_
  cases tail : bs.drop (j / per) with
  | nil => simp [List.getD_eq_getElem?_getD, List.getElem?_eq_none (List.drop_eq_nil_iff.1 tail), leNat]
  | cons b r =>
    have at_ : bs[j / per]? = some b := by simpa [tail] using (List.getElem?_drop (xs := bs) (i := j / per) (j := 0)).symm
    simp [List.getD_eq_getElem?_getD, at_, leNat]

theorem packGroup_narrow (width : elemBits e = w) (pos : 0 < w) (parts : w * per = 8) (small : w < 8) {i : Nat} (inside : i < 4 * w) :
    (packGroup e old cells)[i]? = some (packByte w (old.getD i 0) ((cells.drop (i * per)).take per)) := by
  have count : 8 / w = per := by rw [← parts, Nat.mul_div_cancel_left _ pos]
  simp [packGroup, width, Nat.not_le.2 small, count, inside]

/-- A narrow element is among those of its byte. -/
theorem cells_ofByte (pos : 0 < per) {o : Option Nat} (at_ : cells[j]? = some o) : ((cells.drop (j / per * per)).take per)[j % per]? = some o := by
  rw [List.getElem?_take_of_lt (Nat.mod_lt j pos), List.getElem?_drop, Nat.div_add_mod']
  exact at_

theorem packGroup_wide {u x : Nat} (width : elemBits e = 8 * u) (one : 1 ≤ u) (at_ : cells[j]? = some (some x)) :
    ((packGroup e old cells).drop (j * u)).take u = (toLe u x).map some := by
  have per : elemBits e / 8 = u := by omega
  unfold packGroup
  simp only [per, if_pos (show 8 ≤ elemBits e by omega)]
  exact flatMap_block (fun c => by cases c <;> simp [toLe_length]) at_

theorem packGroup_wide_none {u : Nat} (width : elemBits e = 8 * u) (one : 1 ≤ u) (at_ : cells[j]? = some none) :
    ((packGroup e old cells).drop (j * u)).take u = List.replicate u none := by
  have per : elemBits e / 8 = u := by omega
  unfold packGroup
  simp only [per, if_pos (show 8 ≤ elemBits e by omega)]
  exact flatMap_block (fun c => by cases c <;> simp [toLe_length]) at_

theorem codeAt_wide {u : Nat} (width : elemBits e = 8 * u) (one : 1 ≤ u) (bs : List Byte) (j : Nat) :
    codeAt e bs j = leNat ((bs.drop (j * u)).take u) := by
  have per : elemBits e / 8 = u := by omega
  simp only [codeAt, if_pos (show 8 ≤ elemBits e by omega), per, fld]

theorem leNat_lt (bs : List Byte) : leNat bs < 256 ^ bs.length := by
  induction bs with
  | nil => simp [leNat]
  | cons b bs ih =>
    have := b.isLt
    rw [leNat, List.length_cons, Nat.pow_succ']
    omega

/-- A code has no more bits than its format. -/
theorem codeAt_lt (e : Nat) (bs : List Byte) (j : Nat) : codeAt e bs j < 2 ^ elemBits e := by
  have narrow (w per : Nat) (width : elemBits e = w) (pos : 0 < w) (parts : w * per = 8) (small : w < 8) : codeAt e bs j < 2 ^ w := by
    rw [codeAt_narrow width pos parts small, bits, show j % per * w + w - 1 + 1 - j % per * w = w by omega]
    exact Nat.mod_lt _ (Nat.two_pow_pos w)
  obtain two | four | ⟨u, wide, one, eight, width⟩ := elemBits_cases e
  · rw [two]
    exact narrow 2 4 two (by decide) rfl (by decide)
  · rw [four]
    exact narrow 4 2 four (by decide) rfl (by decide)
  · rw [codeAt_wide wide one, ← width]
    exact lt_of_lt_of_le (leNat_lt _) (Nat.pow_le_pow_right (by decide) (List.length_take_le _ _))

/-- Bytes that agree with what is written to a group hold the codes written. -/
theorem codeAt_written {x : Nat} (few : cells.length ≤ 32)
    (agree : ∀ (i : Nat) (y : Byte), (packGroup e old cells)[i]? = some (some y) → bs[i]? = some y) (at_ : cells[j]? = some (some x)) :
    codeAt e bs j = x % 2 ^ elemBits e := by
  have inside : j < cells.length := (List.getElem?_eq_some_iff.1 at_).1
  have narrow (w per : Nat) (width : elemBits e = w) (pos : 0 < w) (parts : w * per = 8) (small : w < 8) : codeAt e bs j = x % 2 ^ w := by
    have many : 0 < per := Nat.pos_of_ne_zero fun none => by simp [none] at parts
    have byte : j / per < 4 * w := by
      rw [Nat.div_lt_iff_lt_mul many, Nat.mul_assoc, parts]
      omega
    have whole := packGroup_narrow (old := old) (cells := cells) width pos parts small byte
    have mine := cells_ofByte many at_
    cases packed : packByte w (old.getD (j / per) 0) ((cells.drop (j / per * per)).take per) with
    | none =>
      rw [packByte_digits] at packed
      have all : ((cells.drop (j / per * per)).take per).all (·.isNone) = true := by
        by_contra some
        simp [some] at packed
      have := List.all_eq_true.1 all _ (List.mem_of_getElem? mine)
      cases this
    | some y =>
      rw [codeAt_narrow width pos parts small, List.getD_eq_getElem?_getD, agree _ y (whole.trans (congrArg some packed)), Option.getD_some]
      refine (packByte_digit pos ?_ mine packed).trans rfl
      rw [← parts]
      exact Nat.mul_le_mul_left w (List.length_take_le _ _)
  obtain two | four | ⟨u, wide, one, eight, width⟩ := elemBits_cases e
  · rw [two]
    exact narrow 2 4 two (by decide) rfl (by decide)
  · rw [four]
    exact narrow 4 2 four (by decide) rfl (by decide)
  · have here : (bs.drop (j * u)).take u = toLe u x := by
      refine List.ext_getElem? fun i => ?_
      by_cases low : i < u
      · have packed := congrArg (·[i]?) (packGroup_wide (old := old) wide one at_)
        have len : i < (toLe u x).length := by rwa [toLe_length]
        simp only [List.getElem?_take_of_lt low, List.getElem?_drop, List.getElem?_map, List.getElem?_eq_getElem len, Option.map_some] at packed ⊢
        exact agree _ _ packed
      · rw [List.getElem?_take_eq_none (by omega), List.getElem?_eq_none (by rw [toLe_length]; omega)]
    rw [codeAt_wide wide one, here, leNat_toLe, width]

theorem packGroup_length : (packGroup e old cells).length = if 8 ≤ elemBits e then cells.length * (elemBits e / 8) else 4 * elemBits e := by
  unfold packGroup
  dsimp only
  split
  · rw [List.length_flatMap, List.map_congr_left (g := fun _ => elemBits e / 8) fun c _ => by cases c <;> simp [toLe_length]]
    simp
  · simp

/-- A group has no more bytes than its format says. -/
theorem packGroup_within (few : cells.length ≤ 32) : (packGroup e old cells).length ≤ groupBytes e := by
  rw [packGroup_length, groupBytes]
  split
  · have := Nat.mul_le_mul_right (elemBits e / 8) few
    omega
  · exact Nat.le_refl _

theorem packGroup_full (all : cells.length = 32) : (packGroup e old cells).length = groupBytes e := by
  rw [packGroup_length, groupBytes, all]
  obtain two | four | ⟨u, wide, one, eight, width⟩ := elemBits_cases e
  · simp [two]
  · simp [four]
  · rw [if_pos (by omega)]
    omega

/-- A group as it reads: an element whose cell is not written keeps its code. -/
theorem codeAt_kept (len : bs.length = groupBytes e) (all : cells.length = 32) (at_ : cells[j]? = some none) :
    codeAt e ((packGroup e bs cells).zipIdx.map fun x => x.1.getD (bs.getD x.2 0)) j = codeAt e bs j := by
  have inside : j < cells.length := (List.getElem?_eq_some_iff.1 at_).1
  have lies (i : Nat) : ((packGroup e bs cells).zipIdx.map fun x => x.1.getD (bs.getD x.2 0))[i]? =
      (packGroup e bs cells)[i]?.map fun o => o.getD (bs.getD i 0) := by
    simp [List.getElem?_zipIdx, Function.comp_def]
  have narrow (w per : Nat) (width : elemBits e = w) (pos : 0 < w) (parts : w * per = 8) (small : w < 8) :
      codeAt e ((packGroup e bs cells).zipIdx.map fun x => x.1.getD (bs.getD x.2 0)) j = codeAt e bs j := by
    have many : 0 < per := Nat.pos_of_ne_zero fun none => by simp [none] at parts
    have byte : j / per < 4 * w := by
      rw [Nat.div_lt_iff_lt_mul many, Nat.mul_assoc, parts]
      omega
    have whole := packGroup_narrow (old := bs) (cells := cells) width pos parts small byte
    have mine := cells_ofByte many at_
    rw [codeAt_narrow width pos parts small, codeAt_narrow width pos parts small, List.getD_eq_getElem?_getD (l := List.map _ _), lies, whole]
    cases packed : packByte w (bs.getD (j / per) 0) ((cells.drop (j / per * per)).take per) with
    | none => rfl
    | some y =>
      refine (packByte_digit pos ?_ mine packed).trans rfl
      rw [← parts]
      exact Nat.mul_le_mul_left w (List.length_take_le _ _)
  obtain two | four | ⟨u, wide, one, eight, width⟩ := elemBits_cases e
  · exact narrow 2 4 two (by decide) rfl (by decide)
  · exact narrow 4 2 four (by decide) rfl (by decide)
  · rw [codeAt_wide wide one, codeAt_wide wide one]
    refine congrArg leNat (List.ext_getElem? fun i => ?_)
    by_cases low : i < u
    · have packed := congrArg (·[i]?) (packGroup_wide_none (old := bs) wide one at_)
      have room : j * u + i < bs.length := by
        have : (j + 1) * u ≤ 32 * u := Nat.mul_le_mul_right u (by omega)
        rw [len, groupBytes, wide]
        rw [Nat.succ_mul] at this
        omega
      simp only [List.getElem?_take_of_lt low, List.getElem?_drop, lies, List.getElem?_replicate, if_pos low] at packed ⊢
      rw [packed, List.getElem?_eq_getElem room]
      simp [List.getD_eq_getElem?_getD, room]
    · rw [List.getElem?_take_eq_none (by omega), List.getElem?_take_eq_none (by omega)]

/-- The padding of a group changes none of its valid elements. -/
theorem TD.codeAt_padded (t : TD) {k : Nat} (len : bs.length = t.b) (valid : j < t.validIn k) :
    codeAt t.elem (t.padded k bs) j = codeAt t.elem bs j := by
  have most : t.validIn k ≤ 32 := Nat.min_le_left _ _
  unfold TD.padded
  dsimp only
  split
  · rfl
  · exact codeAt_kept len (by simp) (by simp [show j < 32 by omega, valid])

end

end Sys2Proof.Machine
end

section
/-! SUPPORT. Channel groups of tensors that lie in this module's memory: what a run reads there, and what it writes (04 R96, R97, R103). -/

namespace Sys2Proof.Machine

/-! ## Where a tensor lies for a run -/

/-- A linear, unscaled tensor of a run lies in this module's memory. -/
structure Run.Lies (r : Run) (write : Bool) (t : TD) (key : List Nat → Nat → Nat) : Prop where
  plain : t.owned = false ∧ t.scaleFmt = 0
  place : ∀ q k i, q < t.rows → k < t.cg → i < t.b →
    r.Owns (t.base.toNat + (t.rowGroup (t.row q) + k) * t.b + i) write (key (t.row q) k + i)

/-- The machine of a run on a die for a context translates as `a` does, with the memory that it now has, and keeps no lines of its remote
cache. -/
structure Run.On (a : Hw) (die ctx : Nat) (r : Run) : Prop where
  bare : r.h.bare = { a.bare with mem := r.h.mem }
  die : r.die = die
  ctx : r.ctx = ctx
  uncached : r.Uncached

section
variable {a : Hw} {die ctx : Nat} {r q : Run} {write : Bool} {t : TD} {key : List Nat → Nat → Nat} {open_ : Nat → Prop} {l : List (Nat × Byte)}

theorem Run.On.then (on : r.On a die ctx) (leads : r.Then l q) : q.On a die ctx :=
  ⟨by rw [leads.bare, on.bare, leads.mem], leads.die.trans on.die, leads.ctx.trans on.ctx, leads.uncached on.uncached⟩

/-- A tensor that lies in memory lies there for a run whose memory differs at most where the tensor's place does not depend on it. -/
theorem Hw.Lies.run (lies : a.Lies die ctx write t open_ key) (on : r.On a die ctx) (same : ∀ x, ¬ open_ x → cellGet r.h.mem x = cellGet a.mem x) :
    r.Lies write t key := by
  refine ⟨lies.plain, fun q k i hq hk hi => ?_⟩
  obtain ⟨nc, x, leads⟩ := lies.place q k i hq hk hi r.h.mem same
  refine ⟨nc, x, ?_⟩
  rw [on.bare, on.die, on.ctx]
  exact Hw.translate_bare leads

theorem Run.Lies.then (lies : r.Lies write t key) (leads : r.Then l q) : q.Lies write t key :=
  ⟨lies.plain, fun p k i hp hk hi => leads.owns (lies.place p k i hp hk hi)⟩

theorem TD.b_pos (t : TD) : 0 < t.b := by
  have := elemBits_cases t.elem
  unfold TD.b groupBytes
  omega

/-! ## Reading a group -/

/-- A tensor that is not owned has no header and no peer. -/
def linear (t : TD) : View := { td := t }

theorem Run.slotView_linear {c : Cmd} {k : Nat} (slot : slotTd c.tds k = some t) (plain : t.owned = false) : r.slotView c k = (linear t, r) := by
  simp [Run.slotView, slot, plain, Run.view, linear]

variable {p k : Nat}

theorem Run.grp_linear (plain : t.scaleFmt = 0) (row : List Nat) (k : Nat) :
    let x := r.readGroups (t.base.toNat + (t.rowGroup row + k) * t.b) t.b
    (r.grp (linear t) row k).2 = x.2 ∧ (r.grp (linear t) row k).1.bytes = t.padded k x.1.1 := by
  have unscaled : (t.scaleFmt != 0) = false := by simp [plain]
  simp [Run.grp, Run.rawGrp, View.locate, linear, unscaled]

/-- A group reads as memory holds it, but for its padding. -/
theorem Run.Lies.grp (lies : r.Lies false t key) (empty : r.Uncached) (hp : p < t.rows) (hk : k < t.cg)
    (goes : (r.grp (linear t) (t.row p) k).2.ok = true) :
    r.Then [] (r.grp (linear t) (t.row p) k).2 ∧
    (r.grp (linear t) (t.row p) k).1.bytes = t.padded k (r.h.memRead (key (t.row p) k) t.b) := by
  obtain ⟨run, bytes⟩ := Run.grp_linear (r := r) lies.plain.2 (t.row p) k
  rw [run] at goes ⊢
  obtain ⟨leads, read⟩ := Run.readGroups_owns (fun i hi => lies.place p k i hp hk hi) empty t.b_pos goes
  exact ⟨leads, by rw [bytes, read]; rfl⟩

/-- The code of a valid element of a group that a run reads. -/
theorem Run.Lies.grp_code {j : Nat} (lies : r.Lies false t key) (empty : r.Uncached) (hp : p < t.rows) (hk : k < t.cg)
    (goes : (r.grp (linear t) (t.row p) k).2.ok = true) (valid : j < t.validIn k) :
    codeAt t.elem (r.grp (linear t) (t.row p) k).1.bytes j = codeAt t.elem (r.h.memRead (key (t.row p) k) t.b) j := by
  rw [(lies.grp empty hp hk goes).2, t.codeAt_padded (by simp [Hw.memRead]) valid]

/-! ## Writing a group -/

variable {cells : List (Option Nat)} {scale : Option Nat} {po : List Bool}

theorem Run.put_linear (plain : t.scaleFmt = 0) (row : List Nat) (k : Nat) (cells : List (Option Nat)) (scale : Option Nat) (po : List Bool) :
    let a := t.base.toNat + (t.rowGroup row + k) * t.b
    ∃ old, r.put (linear t) row k cells scale po = (segments 0 (packGroup t.elem old cells)).foldl
      (fun r s => r.writeGroups (a + s.1) s.2 (pieceMarks (a + s.1) (markedGroups t.elem a cells po))) r := by
  intro a
  refine ⟨if decide (elemBits t.elem < 8) && cells.any (·.isNone) then (List.range t.b).map fun i => r.peek (a + i) else [], ?_⟩
  have still (q : Run) (x : Nat) : q.write x [] false = q := if_pos (by simp)
  unfold Run.put
  cases scale with
  | none => exact still _ _
  | some s =>
    simp only [linear, plain, ne_eq, not_true, if_false]
    exact still _ _

theorem Run.put_ok {v : View} {row : List Nat} (own : v.hdr = none ∧ v.peer = none) (goes : (r.put v row k cells scale po).ok = true) : r.ok = true := by
  unfold Run.put View.locate at goes
  rw [own.1, own.2] at goes
  exact Run.foldl_ok (Run.write_ok goes) fun _ _ => Run.writeGroups_ok

/-- A group is written where it lies: its packed cells. -/
theorem Run.Lies.put (lies : r.Lies true t key) (hp : p < t.rows) (hk : k < t.cg) (few : cells.length ≤ 32)
    (goes : (r.put (linear t) (t.row p) k cells scale po).ok = true) :
    ∃ old, r.Then (laid (key (t.row p) k) (packGroup t.elem old cells)) (r.put (linear t) (t.row p) k cells scale po) := by
  obtain ⟨old, run⟩ := Run.put_linear (r := r) lies.plain.2 (t.row p) k cells scale po
  refine ⟨old, ?_⟩
  rw [run] at goes ⊢
  have within (s : Nat × List Byte) (mem : s ∈ segments 0 (packGroup t.elem old cells)) : s.1 + s.2.length ≤ t.b ∧ s.2 ≠ [] := by
    obtain ⟨-, high, some⟩ := segments_within mem
    have := packGroup_within (e := t.elem) (old := old) few
    exact ⟨by unfold TD.b; omega, some⟩
  have wrote := Run.writeSegments_owns (fun i hi => lies.place p k i hp hk hi) within goes
  rwa [laid_segments] at wrote

/-! ## What a tensor's bytes come to -/

/-- The code of an element when a run is carried out. -/
def Run.codeOf (r : Run) (t : TD) (key : List Nat → Nat → Nat) (row : List Nat) (ch : Nat) : Nat :=
  codeAt t.elem ((List.range t.b).map fun i => r.byte (key row (ch / 32) + i)) (ch % 32)

theorem Run.codeOf_congr {row : List Nat} {ch : Nat} (same : ∀ i, i < t.b → q.byte (key row (ch / 32) + i) = r.byte (key row (ch / 32) + i)) :
    q.codeOf t key row ch = r.codeOf t key row ch :=
  congrArg (codeAt t.elem · _) (List.map_congr_left fun i mem => same i (List.mem_range.1 mem))

theorem TD.cg_lt {ch : Nat} (inside : ch < t.size 0) : ch / 32 < t.cg := by
  unfold TD.cg
  omega

theorem TD.valid_lt {ch : Nat} (inside : ch < t.size 0) : ch % 32 < t.validIn (ch / 32) := by
  unfold TD.validIn
  omega

/-- A write of a group changes no byte beside it. -/
theorem Run.Lies.put_beside {x : Nat} (lies : r.Lies true t key) (hp : p < t.rows) (hk : k < t.cg) (few : cells.length ≤ 32)
    (goes : (r.put (linear t) (t.row p) k cells scale po).ok = true) (beside : x < key (t.row p) k ∨ key (t.row p) k + t.b ≤ x) :
    (r.put (linear t) (t.row p) k cells scale po).byte x = r.byte x := by
  obtain ⟨old, leads⟩ := lies.put hp hk few goes
  rw [leads.byte_laid x]
  split
  · have := packGroup_within (e := t.elem) (old := old) few
    rw [List.getD_eq_getElem?_getD, List.getElem?_eq_none (by unfold TD.b at beside; omega)]
    rfl
  · rfl

/-- The elements of a group that is written hold the codes written. -/
theorem Run.Lies.put_here {code ch : Nat} (lies : r.Lies true t key) (hp : p < t.rows) (inside : ch < t.size 0) (few : cells.length ≤ 32)
    (at_ : cells[ch % 32]? = some (some code)) (goes : (r.put (linear t) (t.row p) (ch / 32) cells scale po).ok = true) :
    (r.put (linear t) (t.row p) (ch / 32) cells scale po).codeOf t key (t.row p) ch = code % 2 ^ elemBits t.elem := by
  obtain ⟨old, leads⟩ := lies.put hp (TD.cg_lt inside) few goes
  refine codeAt_written (old := old) few (fun i y packed => ?_) at_
  have within : i < t.b := lt_of_lt_of_le (List.getElem?_eq_some_iff.1 packed).1 (packGroup_within few)
  rw [List.getElem?_map, List.getElem?_range within, Option.map_some, leads.byte_laid, if_pos (Nat.le_add_right _ _), Nat.add_sub_cancel_left,
    List.getD_eq_getElem?_getD, packed]
  rfl

/-- The elements of every other group keep their codes. -/
theorem Run.Lies.put_elsewhere {m ch : Nat} (lies : r.Lies true t key) (apart : t.apart key) (hp : p < t.rows) (hk : k < t.cg)
    (few : cells.length ≤ 32) (hm : m < t.rows) (inside : ch < t.size 0) (other : ¬ (m = p ∧ ch / 32 = k))
    (goes : (r.put (linear t) (t.row p) k cells scale po).ok = true) :
    (r.put (linear t) (t.row p) k cells scale po).codeOf t key (t.row m) ch = r.codeOf t key (t.row m) ch := by
  refine Run.codeOf_congr fun i hi => lies.put_beside hp hk few goes ?_
  have := apart m (ch / 32) p k hm (TD.cg_lt inside) hp hk (by simpa using other)
  omega

end

end Sys2Proof.Machine
end

section
/-! SUPPORT. Rows of tensors by their outer indices, and loops over rows and channel groups (04 R96, R121). -/

namespace Sys2Proof.Machine

/-! ## Outer indices and row numbers -/

theorem digits_forall {l : List Nat} (pos : ∀ s ∈ l, 0 < s) (q : Nat) : List.Forall₂ (· < ·) (digits l q) l := by
  induction l generalizing q with
  | nil => exact .nil
  | cons s l ih => exact .cons (Nat.mod_lt q (pos s (List.mem_cons_self ..))) (ih (fun x mem => pos x (List.mem_cons_of_mem _ mem)) _)

theorem digits_undigits {l is : List Nat} (small : List.Forall₂ (· < ·) is l) : digits l (undigits l is) = is ∧ undigits l is < l.prod := by
  induction small with
  | nil => simp [digits, undigits]
  | @cons i s is l less small ih =>
    obtain ⟨same, within⟩ := ih
    have pos : 0 < s := by omega
    refine ⟨?_, ?_⟩
    · simp only [digits, undigits]
      rw [Nat.add_mul_mod_self_left, Nat.mod_eq_of_lt less, Nat.add_mul_div_left _ _ pos, Nat.div_eq_of_lt less, Nat.zero_add, same]
    · simp only [undigits, List.prod_cons]
      calc i + s * undigits l is < s * (undigits l is + 1) := by rw [Nat.mul_succ]; omega
        _ ≤ s * l.prod := Nat.mul_le_mul_left s within

theorem undigits_digits {l : List Nat} {q : Nat} (within : q < l.prod) : undigits l (digits l q) = q := by
  induction l generalizing q with
  | nil => exact (Nat.lt_one_iff.1 within).symm
  | cons s l ih =>
    rw [List.prod_cons] at within
    simp only [digits, undigits]
    rw [ih (Nat.div_lt_of_lt_mul within), Nat.mod_add_div]

/-- A later index of one dimension is a later row. -/
theorem undigits_set_lt {l is : List Nat} {d i j : Nat} (pos : ∀ s ∈ l, 0 < s) (len : is.length = l.length) (inside : d < l.length) (less : i < j) :
    undigits l (is.set d i) < undigits l (is.set d j) := by
  induction l generalizing is d with
  | nil => cases inside
  | cons s l ih =>
    cases is with
    | nil => cases len
    | cons x is =>
      cases d with
      | zero => simpa [undigits] using less
      | succ d =>
        have := ih (is := is) (d := d) (fun x mem => pos x (List.mem_cons_of_mem _ mem)) (by simpa using len) (by simpa using inside)
        simpa [undigits] using Nat.mul_lt_mul_of_pos_left this (pos s (List.mem_cons_self ..))

section
variable {t : TD}

/-- A tensor with at least one dimension, none of them empty. -/
def TD.Sized (t : TD) : Prop := 1 ≤ t.rank ∧ t.rank ≤ t.sizes.length ∧ ∀ d, d < t.rank → 1 ≤ t.size d

/-- Outer indices of a tensor, each within its dimension. -/
def TD.IsRow (t : TD) (idx : List Nat) : Prop := idx.length + 1 = t.rank ∧ ∀ d, d + 1 < t.rank → idx.getD d 0 < t.size (d + 1)

theorem TD.Sized.outer (sized : t.Sized) : (t.dims.drop 1).length + 1 = t.rank ∧ ∀ d, d + 1 < t.rank → (t.dims.drop 1)[d]? = some (t.size (d + 1)) := by
  obtain ⟨one, within, -⟩ := sized
  refine ⟨by simp [TD.dims]; omega, fun d less => ?_⟩
  have inside : d + 1 < t.sizes.length := by omega
  simp [TD.dims, TD.size, less, inside]

theorem TD.Sized.outer_pos (sized : t.Sized) : ∀ s ∈ t.dims.drop 1, 0 < s := by
  intro s mem
  obtain ⟨d, at_⟩ := List.mem_iff_getElem?.1 mem
  have inside : d + 1 < t.rank := by
    have := (List.getElem?_eq_some_iff.1 at_).1
    have := sized.outer.1
    omega
  have := sized.2.2 (d + 1) inside
  rw [sized.outer.2 d inside] at at_
  cases at_
  omega

theorem TD.Sized.isRow_iff (sized : t.Sized) (idx : List Nat) : t.IsRow idx ↔ List.Forall₂ (· < ·) idx (t.dims.drop 1) := by
  obtain ⟨len, at_⟩ := sized.outer
  rw [List.forall₂_iff_get]
  constructor
  · rintro ⟨count, less⟩
    refine ⟨by omega, fun d h1 h2 => ?_⟩
    have inside : d + 1 < t.rank := by omega
    have := less d inside
    have dim := at_ d inside
    rw [List.getElem?_eq_getElem h2] at dim
    simp only [List.getD_eq_getElem?_getD, List.getElem?_eq_getElem h1, Option.getD_some] at this
    rw [List.get_eq_getElem, List.get_eq_getElem, Option.some.inj dim]
    exact this
  · rintro ⟨count, less⟩
    refine ⟨by omega, fun d inside => ?_⟩
    have h1 : d < idx.length := by omega
    have h2 : d < (t.dims.drop 1).length := by omega
    have := less d h1 h2
    have dim := at_ d inside
    rw [List.getElem?_eq_getElem h2] at dim
    simp only [List.get_eq_getElem, Option.some.inj dim] at this
    simpa [List.getD_eq_getElem?_getD, List.getElem?_eq_getElem h1] using this

theorem TD.rows_prod (t : TD) : t.rows = (t.dims.drop 1).prod := by
  rw [TD.rows, List.prod_eq_foldl]

theorem TD.Sized.rows_pos (sized : t.Sized) : 0 < t.rows := by
  rw [t.rows_prod]
  exact List.prod_pos sized.outer_pos

theorem TD.Sized.row_isRow (sized : t.Sized) (q : Nat) : t.IsRow (t.row q) := (sized.isRow_iff _).2 (digits_forall sized.outer_pos q)

/-- Every choice of outer indices names a row. -/
theorem TD.Sized.row_of (sized : t.Sized) {idx : List Nat} (row : t.IsRow idx) : t.row (t.rowNumber idx) = idx ∧ t.rowNumber idx < t.rows := by
  rw [t.rows_prod]
  exact digits_undigits ((sized.isRow_iff idx).1 row)

theorem TD.rowNumber_row {q : Nat} (within : q < t.rows) : t.rowNumber (t.row q) = q := undigits_digits (t.rows_prod ▸ within)

theorem TD.Sized.rowNumber_set_lt (sized : t.Sized) {idx : List Nat} {d i j : Nat} (len : idx.length + 1 = t.rank) (inside : d + 1 < t.rank) (less : i < j) :
    t.rowNumber (idx.set d i) < t.rowNumber (idx.set d j) := by
  have := sized.outer.1
  exact undigits_set_lt sized.outer_pos (by omega) (by omega) less

theorem TD.Sized.cg_pos (sized : t.Sized) : 0 < t.cg := by
  have := sized.2.2 0 sized.1
  unfold TD.cg
  omega

/-- One index of a row is replaced by another of its dimension. -/
theorem TD.IsRow.set {t u : TD} {idx : List Nat} {dim i : Nat} (row : t.IsRow idx) (rank : u.rank = t.rank) (pos : 1 ≤ dim)
    (alike : ∀ m, m < u.rank → m ≠ dim → u.size m = t.size m) (within : i < u.size dim) : u.IsRow (idx.set (dim - 1) i) := by
  obtain ⟨len, less⟩ := row
  refine ⟨by rw [List.length_set]; omega, fun d inside => ?_⟩
  rw [List.getD_eq_getElem?_getD, List.getElem?_set]
  split
  next here =>
    have : d + 1 = dim := by omega
    have dlt : d < idx.length := by omega
    rw [if_pos (by omega), this]
    exact within
  next other =>
    rw [alike (d + 1) inside (by omega), ← List.getD_eq_getElem?_getD]
    exact less d (by omega)

end

/-! ## Loops over rows and channel groups -/

/-- The channel groups of a tensor, by row and number. -/
def TD.groupList (t : TD) : List (Nat × Nat) := (List.range t.rows).flatMap fun q => (List.range t.cg).map fun k => (q, k)

theorem TD.mem_groupList {t : TD} {x : Nat × Nat} : x ∈ t.groupList ↔ x.1 < t.rows ∧ x.2 < t.cg := by
  obtain ⟨q, k⟩ := x
  simp [TD.groupList]

theorem TD.groupList_nodup (t : TD) : t.groupList.Nodup := by
  have : t.groupList = (List.range t.rows).product (List.range t.cg) := rfl
  rw [this]
  exact List.nodup_range.product List.nodup_range

/-- A loop over rows, and over channel groups within each, is one over the groups. -/
theorem forN_groups {α : Type} (t : TD) (r : α) (f : α → Nat → Nat → α) :
    forN t.rows r (fun r q => forN t.cg r fun r k => f r q k) = t.groupList.foldl (fun r x => f r x.1 x.2) r := by
  simp only [forN, TD.groupList, List.foldl_flatMap, List.foldl_map]

/-- What steps leave of the codes that a run comes to, where each changes those that it hits: those of the steps that hit it, in turn. -/
theorem Run.foldl_codes {α σ : Type} {f : Run → α → Run} {good : Run → Prop} {slot : σ → Prop} {code : Run → σ → Nat} {hit : α → σ → Bool}
    {change : α → σ → Nat → Nat} {l : List α} {r : Run}
    (step : ∀ r x, x ∈ l → good r → (f r x).ok = true →
      good (f r x) ∧ ∀ s, slot s → code (f r x) s = if hit x s then change x s (code r s) else code r s)
    (before : ∀ r x, (f r x).ok = true → r.ok = true) (start : good r) (goes : (l.foldl f r).ok = true) :
    good (l.foldl f r) ∧ ∀ s, slot s → code (l.foldl f r) s = (l.filter (hit · s)).foldl (fun o x => change x s o) (code r s) := by
  induction l generalizing r with
  | nil => exact ⟨start, fun _ _ => rfl⟩
  | cons x l ih =>
    obtain ⟨first, mine⟩ := step r x (List.mem_cons_self ..) start (Run.foldl_ok goes before)
    obtain ⟨last, rest⟩ := ih (fun r y mem => step r y (List.mem_cons_of_mem _ mem)) first goes
    refine ⟨last, fun s here => ?_⟩
    rw [List.foldl_cons, rest s here, mine s here, List.filter_cons]
    split <;> rfl

/-- Of steps that each put a code in place of the old, the last one's stays. -/
theorem foldl_last {α : Type} (c : α → Nat) (l : List α) (o : Nat) :
    l.foldl (fun _ x => c x) o = match l.getLast? with | some x => c x | none => o := by
  rcases List.eq_nil_or_concat l with rfl | ⟨l, x, rfl⟩
  · rfl
  · simp

theorem filter_beq_of_mem {α : Type} [BEq α] [LawfulBEq α] {l : List α} {y : α} (nodup : l.Nodup) (mem : y ∈ l) : l.filter (· == y) = [y] := by
  rw [List.filter_beq, List.count_eq_one_of_mem nodup mem]
  rfl

end Sys2Proof.Machine
end

section
/-! PROOFS. COPY, FILL, GATHER and SCATTER end with their runs (04 R112-R121, 14 R349). -/

namespace Sys2Proof.Machine

/-! ## What a run leaves of the machine -/

/-- The machine without what a run can change: what `Hw.still` leaves out, and module memory. -/
def Hw.frame (h : Hw) : Hw := { h.still with mem := [] }

theorem Hw.frame_of_still {a b : Hw} (k : a.still = b.still) : a.frame = b.frame := congrArg (fun h : Hw => { h with mem := [] }) k

section
variable (r : Run)

theorem Run.readGroups_still (a n : Nat) : (r.readGroups a n).2.h.still = r.h.still := (Run.From.readGroups (w := r.w) ⟨rfl, rfl⟩).1
theorem Run.read_still (a n : Nat) : (r.read a n).2.h.still = r.h.still := r.readGroups_still a n

theorem Run.toPeer_still (c : Coord) (a n : Nat) : (r.toPeer c a n).h.still = r.h.still := by
  unfold Run.toPeer
  split
  · rfl
  · split
    · rfl
    · rfl
    · rfl
    · split <;> rfl

theorem Run.readPeer_still (c : Coord) (die a n : Nat) : (r.readPeer c die a n).2.h.still = r.h.still := by
  unfold Run.readPeer
  dsimp only
  split
  · exact r.toPeer_still c a n
  · unfold Run.readPoison
    split <;> exact r.toPeer_still c a n

theorem Run.rawGrp_still (v : View) (idx : List Nat) (k : Nat) : (r.rawGrp v idx k).2.h.still = r.h.still := by
  unfold Run.rawGrp
  dsimp only
  split
  · split
    · exact (Run.read_still _ _ _).trans (r.readGroups_still _ _)
    · exact r.readGroups_still _ _
  · split
    · exact (Run.readPeer_still _ _ _ _ _).trans (r.readPeer_still _ _ _ _)
    · exact r.readPeer_still _ _ _ _
  · rfl

theorem Run.grp_still (v : View) (idx : List Nat) (k : Nat) : (r.grp v idx k).2.h.still = r.h.still := r.rawGrp_still v idx k

theorem Run.writePeer_still (c : Coord) (die a : Nat) (bs : List Byte) (po : Bool) : (r.writePeer c die a bs po).h.still = r.h.still := by
  unfold Run.writePeer
  dsimp only
  split <;> exact r.toPeer_still c a bs.length

theorem Run.foldl_still {α : Type} {f : Run → α → Run} (k : ∀ r x, (f r x).h.still = r.h.still) (l : List α) :
    (l.foldl f r).h.still = r.h.still :=
  List.foldlRecOn (motive := fun q : Run => q.h.still = r.h.still) l f rfl fun q same x _ => (k q x).trans same

theorem Run.writePeerGroups_still (c : Coord) (die a : Nat) (bs : List Byte) (po : List Nat) :
    (r.writePeerGroups c die a bs po).h.still = r.h.still := by
  unfold Run.writePeerGroups
  split
  · exact r.writePeer_still _ _ _ _ _
  · exact r.foldl_still (fun _ _ => Run.writePeer_still _ _ _ _ _ _) _

theorem Run.put_still (v : View) (idx : List Nat) (k : Nat) (cells : List (Option Nat)) (scale : Option Nat) (po : List Bool) :
    (r.put v idx k cells scale po).h.still = r.h.still := by
  unfold Run.put
  extract_lets x b e narrow scb
  split
  · exact (Run.write_still _ _ _ _).trans (r.foldl_still (fun _ _ => Run.writeGroups_still _ _ _ _) _)
  · extract_lets ad old gs q
    have pieces : q.h.still = r.h.still := r.foldl_still (fun _ _ => Run.writePeerGroups_still _ _ _ _ _ _) _
    split
    · exact pieces
    · exact (q.writePeer_still _ _ _ _ _).trans pieces
  · rfl

theorem Run.padRow_still (v : View) (padw : Bool) (q : Nat) : (r.padRow v padw q).h.still = r.h.still := by
  unfold Run.padRow
  dsimp only
  split
  · rfl
  · exact r.put_still _ _ _ _ _ _

theorem Run.padRows_still (v : View) (padw : Bool) : (r.padRows v padw).h.still = r.h.still :=
  r.foldl_still (fun _ _ => Run.padRow_still _ _ _ _) _

theorem Run.byBlocks_still (v : View) (padw : Bool) (key : Nat → Nat → Nat) (put : Run → Nat → Nat → Run)
    (k : ∀ r p g, (put r p g).h.still = r.h.still) : (r.byBlocks v padw key put).h.still = r.h.still := by
  have padIf (r : Run) (x : Nat × Nat) : (if x.2 + 1 = v.td.cg then r.padRow v padw x.1 else r).h.still = r.h.still := by
    split
    · exact r.padRow_still _ _ _
    · rfl
  unfold Run.byBlocks
  dsimp only
  split
  · exact (Run.foldl_still _ (fun r _ => r.foldl_still (fun _ _ => k _ _ _) _) _).trans (r.padRows_still v padw)
  · exact r.foldl_still (fun r _ => (Run.foldl_still _ (fun _ _ => k _ _ _) _).trans (r.foldl_still padIf _)) _

theorem Run.slotView_still (c : Cmd) (k : Nat) : (r.slotView c k).2.h.still = r.h.still := by
  unfold Run.slotView Run.view
  dsimp only
  split
  · rfl
  · exact r.read_still _ _

theorem Run.copyGroup_still (s d : View) (perm : List Nat) (q k : Nat) : (Run.copyGroup s d perm r q k).h.still = r.h.still := by
  unfold Run.copyGroup
  dsimp only
  split
  · rfl
  · split
    · exact r.grp_still _ _ _
    · exact (Run.put_still _ _ _ _ _ _ _).trans (r.grp_still _ _ _)

theorem Run.foldl_still_2 {α β : Type} {x : β × Run} {f : β × Run → α → β × Run} (k : ∀ x a, (f x a).2.h.still = x.2.h.still) (l : List α) :
    (l.foldl f x).2.h.still = x.2.h.still :=
  List.foldlRecOn (motive := fun y : β × Run => y.2.h.still = x.2.h.still) l f rfl fun y same a _ => (k y a).trans same

theorem Run.copyElems_still (s d : View) (perm : List Nat) (q k : Nat) : (Run.copyElems s d perm r q k).h.still = r.h.still := by
  unfold Run.copyElems
  extract_lets di x
  have read : x.2.2.h.still = r.h.still :=
    List.foldlRecOn (motive := fun y : List (Option Nat) × List Bool × Run => y.2.2.h.still = r.h.still) _ _ rfl
      fun y same j _ => (y.2.2.grp_still _ _ _).trans same
  split
  · exact (Run.put_still _ _ _ _ _ _ _).trans read
  · exact read

theorem Run.copyTensor_still (s d : View) (perm : List Nat) (padw : Bool) : (r.copyTensor s d perm padw).h.still = r.h.still := by
  refine r.byBlocks_still d padw _ _ fun r p g => ?_
  split
  · exact r.copyGroup_still _ _ _ _ _
  · exact r.copyElems_still _ _ _ _ _

theorem Run.indices_still (t : TD) : (r.indices t).2.h.still = r.h.still :=
  Run.foldl_still_2 (x := ([], r)) (f := fun x i =>
    let y := x.2.read (t.base.toNat + 4 * i) 4
    (x.1 ++ [(signed 32 (leNat y.1.1), y.1.2)], y.2)) (fun x _ => x.2.read_still _ _) _

theorem Run.scatterStore_still (s d : View) (dim : Nat) (ks : List (Option Nat)) (padw : Bool) :
    (r.scatterStore s d dim ks padw).h.still = r.h.still := by
  unfold Run.scatterStore
  extract_lets target n pc q
  have padded : q.h.still = r.h.still := by
    simp only [q]
    split
    · rfl
    · refine r.foldl_still (fun r p => ?_) _
      split
      · exact r.put_still _ _ _ _ _ _
      · rfl
  refine (q.foldl_still (fun r p => ?_) _).trans padded
  split
  · rfl
  · refine r.foldl_still (fun r g => ?_) _
    dsimp only
    split
    · exact r.grp_still _ _ _
    · exact (Run.put_still _ _ _ _ _ _ _).trans (r.grp_still _ _ _)

theorem Run.meets_still (gs : List Nat) : (r.meets gs).h.still = r.h.still := (Run.From.meets (w := r.w) ⟨rfl, rfl⟩).1

theorem Hw.dropLine_frame (h : Hw) (die k n : Nat) : (h.dropLine die k n).frame = h.frame := rfl

theorem Hw.addAt_frame (h : Hw) (k op e : Nat) (grad : Bool) (cells : List (Option Nat)) (po : List Nat) :
    (h.addAt k op e grad cells po).h.frame = h.frame := by
  unfold Hw.addAt
  rfl

/-- An add changes module memory, and beside it what `Hw.still` leaves out. -/
theorem Run.addGroup_frame (k op e : Nat) (grad : Bool) (cells : List (Option Nat)) (po : List Bool) :
    (r.addGroup k op e grad cells po).h.frame = r.h.frame := by
  unfold Run.addGroup
  dsimp only
  rw [Hw.dropLine_frame, Hw.addAt_frame]
  exact Hw.frame_of_still (r.meets_still _)

theorem Run.foldl_frame {α : Type} {f : Run → α → Run} (k : ∀ r x, (f r x).h.frame = r.h.frame) (l : List α) :
    (l.foldl f r).h.frame = r.h.frame :=
  List.foldlRecOn (motive := fun q : Run => q.h.frame = r.h.frame) l f rfl fun q same x _ => (k q x).trans same

theorem Run.scatterAdd_frame (s d : View) (dim op : Nat) (grad : Bool) (ks : List (Option Nat)) :
    (r.scatterAdd s d dim op grad ks).h.frame = r.h.frame := by
  refine r.foldl_frame (fun r i => ?_) _
  dsimp only
  split
  · rfl
  split
  · rfl
  split
  · rfl
  split
  · rfl
  split
  · rfl
  refine r.foldl_frame (fun r x => ?_) _
  split
  · have read := Hw.frame_of_still (r.grp_still s (s.td.row x.1) x.2.1)
    split
    · exact read
    · exact (Run.addGroup_frame _ _ _ _ _ _ _).trans read
  · rfl

end

/-! ## The runs of the movers -/

section
variable {h : Hw} {ring : Nat} {c : Cmd} {env : Env}

theorem Hw.moveRun_still (h : Hw) (ring : Nat) (c : Cmd) (alloc : Bool) (env : Env) : (h.moveRun ring c alloc env).h.still = h.still :=
  h.applyEnv_still env

theorem Hw.copyRun_still : (h.copyRun ring c env).h.still = h.still :=
  (Run.copyTensor_still _ _ _ _ _).trans ((Run.slotView_still _ _ _).trans ((Run.slotView_still _ _ _).trans (h.moveRun_still ring c false env)))

theorem Hw.fillRun_still : (h.fillRun ring c env).h.still = h.still :=
  (Run.byBlocks_still _ _ _ _ _ fun _ _ _ => Run.put_still _ _ _ _ _ _ _).trans
    ((Run.slotView_still _ _ _).trans (h.moveRun_still ring c false env))

theorem Hw.gatherRun_still : (h.gatherRun ring c env).1.h.still = h.still := by
  unfold Hw.gatherRun
  extract_lets x y z sv dv dim n out fill z2 r0 r1 r2
  have began : r0.h.still = h.still := (Run.indices_still _ _).trans
    ((Run.slotView_still _ _ _).trans ((Run.slotView_still _ _ _).trans (h.moveRun_still ring c true env)))
  refine (r1.foldl_still (fun r q => r.foldl_still (fun r g => ?_) _) _).trans ((r0.padRows_still _ _).trans began)
  split
  · exact r.put_still _ _ _ _ _ _
  · dsimp only
    split
    · exact r.grp_still _ _ _
    · exact (Run.put_still _ _ _ _ _ _ _).trans (r.grp_still _ _ _)

theorem Hw.scatterRun_frame : (h.scatterRun ring c env).1.h.frame = h.frame ∧ (c.f 0x32 1 = 0 → (h.scatterRun ring c env).1.h.still = h.still) := by
  unfold Hw.scatterRun
  extract_lets x y z dim n ks bad z2 r0 op r1
  have began : r0.h.still = h.still := (Run.indices_still _ _).trans
    ((Run.slotView_still _ _ _).trans ((Run.slotView_still _ _ _).trans (h.moveRun_still ring c true env)))
  have store (zero : op = 0) : r1.h.still = h.still := by
    simp only [r1, if_pos zero]
    exact (Run.scatterStore_still _ _ _ _ _ _).trans began
  refine ⟨?_, store⟩
  by_cases zero : op = 0
  · exact Hw.frame_of_still (store zero)
  · simp only [r1, if_neg zero]
    exact (Run.scatterAdd_frame _ _ _ _ _ _ _).trans (Hw.frame_of_still began)

end

/-! ## Ends -/

section
variable {a h : Hw} {ring op : Nat} {i : W32} {c : Cmd} {r : Run} {po : Bool}

theorem Hw.onMover_engaged (engaged : h.Engaged ring i op c) (f : Cmd → Hw) : h.onMover ring i op f = f c := by
  obtain ⟨ready, free⟩ := engaged
  unfold Hw.onMover
  rw [Hw.onCmd_ready ready, free]
  rfl

theorem Hw.endRun_goes (goes : r.Goes) (h : Hw) (ring : Nat) (i : W32) (po : Bool) :
    ∃ f, h.endRun ring i r po = ({ r with ring := ring } : Run).finish.setCmd ring i f := by
  unfold Hw.endRun
  rw [if_neg (by rw [show (r.waits && r.fail.isNone) = false from goes]; exact Bool.false_ne_true)]
  exact ⟨_, rfl⟩

/-- The end of a run leaves the set-up as the run found it. -/
theorem Hw.endRun_setup (goes : r.Goes) (same : r.h.frame = a.frame) : a.SameSetup (h.endRun ring i r po) := by
  obtain ⟨f, ends⟩ := Hw.endRun_goes goes h ring i po
  rw [ends]
  exact {
    now := (Run.finish_now _).trans (congrArg (fun h : Hw => h.now) same :)
    lim := (Run.finish_lim _).trans (congrArg (fun h : Hw => h.lim) same :)
    ks := (Run.finish_ks _).trans (congrArg (fun h : Hw => h.ks) same :)
    ks2 := (Run.finish_ks2 _).trans (congrArg (fun h : Hw => h.ks2) same :)
    cpls := (Run.finish_cpls _).trans (congrArg (fun h : Hw => h.cpls) same :)
    seqs := (Run.finish_seqs _).trans (congrArg (fun h : Hw => h.seqs) same :)
    objs := (Run.finish_objs _).trans (congrArg (fun h : Hw => h.objs) same :)
    comb := (Run.finish_comb _).trans (congrArg (fun h : Hw => h.comb) same :)
    oes := (Run.finish_oes _).trans (congrArg (fun h : Hw => h.oes) same :)
    fences := (Run.finish_fences _).trans (congrArg (fun h : Hw => h.fences) same :)
    topo := (Run.finish_topo _).trans (congrArg (fun h : Hw => h.topo) same :)
    bcast := (Run.finish_bcast _).trans (congrArg (fun h : Hw => h.bcast) same :) }

/-- A mover whose run leaves the machine but for its writes ends with that run. -/
theorem Hw.Engaged.ends (engaged : h.Engaged ring i op c) (goes : r.Goes) (same : r.h.still = h.still) (po : Bool) :
    h.EndsWith (h.endRun ring i r po) ring i r (r.ends po) :=
  ⟨Hw.endRun_ends h h ring i r po c goes engaged.1.2.1 (by rw [engaged.1.2.2.1]; decide) (Hw.still_mem same) (Hw.still_rings same),
    Hw.endRun_setup goes (Hw.frame_of_still same)⟩

/-- The command of a mover that changes memory in place ends with its run. -/
theorem Hw.Engaged.ended (engaged : h.Engaged ring i op c) (goes : r.Goes) (same : r.h.frame = h.frame) (po : Bool) :
    (h.endRun ring i r po).Ended ring i (r.ends po).1 (r.ends po).2 ∧ h.OnlyCmd (h.endRun ring i r po) ring i ∧
    h.SameSetup (h.endRun ring i r po) := by
  obtain ⟨⟨d, cmd, phase, status, detail, -⟩, -, only⟩ := Hw.endRun_ends h { h with mem := r.h.mem } ring i r po c goes engaged.1.2.1
    (by rw [engaged.1.2.2.1]; decide) rfl (congrArg (fun h : Hw => h.rings) same :)
  exact ⟨⟨d, cmd, phase, status, detail⟩, only.of_rings (g := { h with mem := r.h.mem }) rfl, Hw.endRun_setup goes same⟩

end

section
variable {s : State} {ring : Nat} {index : W32} {c : Cmd} (env : Env)

theorem exec_copy (engaged : s.hw.Engaged ring index 0x08 c) :
    exec (.copy ring index env) s = .next { s with hw := s.hw.endRun ring index (s.hw.copyRun ring c env) false } := by
  show execCopy ring index env s = _
  rw [execCopy, act_on engaged.1.1, Hw.onMover_engaged engaged]

theorem exec_fill (engaged : s.hw.Engaged ring index 0x0B c) :
    exec (.fill ring index env) s = .next { s with hw := s.hw.endRun ring index (s.hw.fillRun ring c env) false } := by
  show execFill ring index env s = _
  rw [execFill, act_on engaged.1.1, Hw.onMover_engaged engaged]

theorem exec_gather (engaged : s.hw.Engaged ring index 0x09 c) :
    exec (.gather ring index env) s =
      .next { s with hw := s.hw.endRun ring index (s.hw.gatherRun ring c env).1 (s.hw.gatherRun ring c env).2 } := by
  show execGather ring index env s = _
  rw [execGather, act_on engaged.1.1, Hw.onMover_engaged engaged]

theorem exec_scatter (engaged : s.hw.Engaged ring index 0x0A c) :
    exec (.scatter ring index env) s =
      .next { s with hw := s.hw.endRun ring index (s.hw.scatterRun ring c env).1 (s.hw.scatterRun ring c env).2 } := by
  show execScatter ring index env s = _
  rw [execScatter, act_on engaged.1.1, Hw.onMover_engaged engaged]

end

theorem moversEnd : Claims.MoversEnd := by
  intro ring index env s c f g k x
  refine ⟨fun engaged goes => ?_, fun engaged goes => ?_, fun engaged goes => ?_, fun engaged goes => ?_⟩
  · exact ⟨_, exec_copy env engaged, rfl, engaged.ends goes Hw.copyRun_still false⟩
  · exact ⟨_, exec_fill env engaged, rfl, engaged.ends goes Hw.fillRun_still false⟩
  · exact ⟨_, exec_gather env engaged, rfl, engaged.ends goes Hw.gatherRun_still k.2⟩
  · obtain ⟨frame, store⟩ := Hw.scatterRun_frame (h := s.hw) (ring := ring) (c := c) (env := env)
    obtain ⟨ended, only, setup⟩ := engaged.ended goes frame x.2
    exact ⟨_, exec_scatter env engaged, rfl, ended, only, setup, fun zero => engaged.ends goes (store zero) x.2⟩

end Sys2Proof.Machine
end

section
/-! PROOFS. What COPY and FILL write (04 R112-R115, R120, R121). -/

namespace Sys2Proof.Machine

/-! ## Runs that write a tensor -/

/-- A run on the machine `a` whose writes lie in a tensor, to be carried out at its end. -/
structure Run.Moves (a : Hw) (die ctx : Nat) (t : TD) (key : List Nat → Nat → Nat) (r : Run) : Prop where
  on : r.On a die ctx
  mem : r.h.mem = a.mem
  beside : ∀ x, ¬ t.covers key x → r.byte x = cellGet a.mem x

/-- No address. -/
def fixed (_ : Nat) : Prop := False

section
variable {a : Hw} {die ctx p k : Nat} {src dst : TD} {ks kd : List Nat → Nat → Nat} {r q : Run} {write : Bool} {cells : List (Option Nat)}
  {scale : Option Nat} {po : List Bool}

theorem Run.Moves.lies {t : TD} {key : List Nat → Nat → Nat} (moves : r.Moves a die ctx dst kd) (lies : a.Lies die ctx write t fixed key) :
    r.Lies write t key := lies.run moves.on fun x _ => by rw [moves.mem]

theorem Run.Then.byte_same (leads : r.Then [] q) (x : Nat) : q.byte x = r.byte x := by
  rw [Run.Then.byte_laid (k := 0) (bs := []) leads x]
  simp

theorem Run.Then.codeOf_same {t : TD} {key : List Nat → Nat → Nat} {row : List Nat} {ch : Nat} (leads : r.Then [] q) :
    q.codeOf t key row ch = r.codeOf t key row ch := Run.codeOf_congr fun _ _ => leads.byte_same _

theorem Run.Moves.read (moves : r.Moves a die ctx dst kd) (leads : r.Then [] q) : q.Moves a die ctx dst kd :=
  ⟨moves.on.then leads, leads.mem.trans moves.mem, fun x none => (leads.byte_same x).trans (moves.beside x none)⟩

/-- A write of a group leaves a run one that writes the tensor. -/
theorem Run.Moves.put (moves : r.Moves a die ctx dst kd) (writes : a.Lies die ctx true dst fixed kd) (hp : p < dst.rows) (hk : k < dst.cg)
    (few : cells.length ≤ 32) (goes : (r.put (linear dst) (dst.row p) k cells scale po).ok = true) :
    (r.put (linear dst) (dst.row p) k cells scale po).Moves a die ctx dst kd := by
  have lies := moves.lies writes
  obtain ⟨old, leads⟩ := lies.put hp hk few goes
  refine ⟨moves.on.then leads, leads.mem.trans moves.mem, fun x none => (lies.put_beside hp hk few goes ?_).trans (moves.beside x none)⟩
  by_contra inside
  exact none ⟨p, k, hp, hk, by omega, by omega⟩

theorem Run.put_linear_ok {t : TD} {row : List Nat} (goes : (r.put (linear t) row k cells scale po).ok = true) : r.ok = true :=
  Run.put_ok ⟨rfl, rfl⟩ goes

theorem Run.grp_ok {t : TD} {row : List Nat} (plain : t.scaleFmt = 0) (goes : (r.grp (linear t) row k).2.ok = true) : r.ok = true := by
  rw [(Run.grp_linear plain row k).1] at goes
  exact Run.readN_ok goes

/-- A write of a group gives its elements the codes written, and leaves every other its own. -/
theorem Run.Moves.put_codes {code : Nat → Nat} (moves : r.Moves a die ctx dst kd) (writes : a.Lies die ctx true dst fixed kd) (apart : dst.apart kd)
    (hp : p < dst.rows) (hk : k < dst.cg) (few : cells.length ≤ 32)
    (each : ∀ ch, ch < dst.size 0 → ch / 32 = k → cells[ch % 32]? = some (some (code ch)))
    (goes : (r.put (linear dst) (dst.row p) k cells scale po).ok = true) {m ch : Nat} (hm : m < dst.rows) (inside : ch < dst.size 0) :
    (r.put (linear dst) (dst.row p) k cells scale po).codeOf dst kd (dst.row m) ch =
      if m = p ∧ ch / 32 = k then code ch % 2 ^ elemBits dst.elem else r.codeOf dst kd (dst.row m) ch := by
  have lies := moves.lies writes
  split
  next here =>
    obtain ⟨rfl, rfl⟩ := here
    exact lies.put_here hp inside few (each ch inside rfl) goes
  next other => exact lies.put_elsewhere apart hp hk few hm inside other goes

/-! ## Padding -/

theorem Run.padRow_ok {padw : Bool} (goes : (r.padRow (linear dst) padw p).ok = true) : r.ok = true := by
  unfold Run.padRow at goes
  dsimp only at goes
  split at goes
  · exact goes
  · exact Run.put_linear_ok goes

theorem Run.Moves.padRow {padw : Bool} (moves : r.Moves a die ctx dst kd) (writes : a.Lies die ctx true dst fixed kd) (hp : p < dst.rows)
    (goes : (r.padRow (linear dst) padw p).ok = true) : (r.padRow (linear dst) padw p).Moves a die ctx dst kd := by
  have last : dst.cg - 1 < dst.cg := by
    have := TD.Sized.cg_pos writes.sizes
    omega
  unfold Run.padRow at goes ⊢
  dsimp only at goes ⊢
  split at goes
  next unpadded => rwa [if_pos unpadded]
  next padded =>
    rw [if_neg padded]
    exact moves.put writes hp last (by simp) goes

/-- What each step keeps a loop keeps. -/
theorem Run.foldl_keeps {α : Type} {f : Run → α → Run} {good : Run → Prop} {l : List α}
    (step : ∀ r x, x ∈ l → good r → (f r x).ok = true → good (f r x)) (before : ∀ r x, (f r x).ok = true → r.ok = true) (start : good r)
    (goes : (l.foldl f r).ok = true) : good (l.foldl f r) :=
  (Run.foldl_codes (slot := fun _ : Unit => True) (code := fun _ _ => 0) (hit := fun _ _ => false) (change := fun _ _ o => o)
    (fun r x mem ok goes => ⟨step r x mem ok goes, fun _ _ => rfl⟩) before start goes).1

theorem Run.padRows_ok {padw : Bool} (goes : (r.padRows (linear dst) padw).ok = true) : r.ok = true :=
  Run.foldl_ok goes fun _ _ => Run.padRow_ok

theorem Run.Moves.padRows {padw : Bool} (moves : r.Moves a die ctx dst kd) (writes : a.Lies die ctx true dst fixed kd)
    (goes : (r.padRows (linear dst) padw).ok = true) : (r.padRows (linear dst) padw).Moves a die ctx dst kd :=
  Run.foldl_keeps (fun _ _ mem moves goes => moves.padRow writes (List.mem_range.1 mem) goes) (fun _ _ => Run.padRow_ok) moves goes

/-! ## Writing every group of a tensor -/

/-- A loop over the groups of a tensor that gives each valid element of a group its code leaves every element with the code that its group's
step gives it. -/
theorem Run.Moves.groups {f : Run → Nat → Nat → Run} {code : List Nat → Nat → Nat}
    (step : ∀ r p k, p < dst.rows → k < dst.cg → r.Moves a die ctx dst kd → (f r p k).ok = true →
      (f r p k).Moves a die ctx dst kd ∧ ∀ m ch, m < dst.rows → ch < dst.size 0 → (f r p k).codeOf dst kd (dst.row m) ch =
        if m = p ∧ ch / 32 = k then code (dst.row m) ch else r.codeOf dst kd (dst.row m) ch)
    (before : ∀ r p k, (f r p k).ok = true → r.ok = true) (moves : r.Moves a die ctx dst kd)
    (goes : (dst.groupList.foldl (fun r x => f r x.1 x.2) r).ok = true) :
    (dst.groupList.foldl (fun r x => f r x.1 x.2) r).Moves a die ctx dst kd ∧
    ∀ m ch, m < dst.rows → ch < dst.size 0 →
      (dst.groupList.foldl (fun r x => f r x.1 x.2) r).codeOf dst kd (dst.row m) ch = code (dst.row m) ch := by
  obtain ⟨done, codes⟩ := Run.foldl_codes (f := fun r x => f r x.1 x.2) (good := Run.Moves a die ctx dst kd) (l := dst.groupList)
    (slot := fun s : Nat × Nat => s.1 < dst.rows ∧ s.2 < dst.size 0) (code := fun r s => r.codeOf dst kd (dst.row s.1) s.2)
    (hit := fun x s => x == (s.1, s.2 / 32)) (change := fun _ s _ => code (dst.row s.1) s.2)
    (fun r x mem moves goes => by
      obtain ⟨hp, hk⟩ := TD.mem_groupList.1 mem
      obtain ⟨after, each⟩ := step r x.1 x.2 hp hk moves goes
      refine ⟨after, fun s here => (each s.1 s.2 here.1 here.2).trans ?_⟩
      have same : (x == (s.1, s.2 / 32)) = true ↔ s.1 = x.1 ∧ s.2 / 32 = x.2 := by
        rw [beq_iff_eq, Prod.ext_iff]
        exact and_congr eq_comm eq_comm
      simp only [same])
    (fun r x => before r x.1 x.2) moves goes
  refine ⟨done, fun m ch hm hch => (codes (m, ch) ⟨hm, hch⟩).trans ?_⟩
  rw [filter_beq_of_mem dst.groupList_nodup (TD.mem_groupList.2 ⟨hm, TD.cg_lt hch⟩)]
  rfl

/-- One block alone: the padding of every row, and then every group. -/
theorem Run.byBlocks_one {padw : Bool} {key : Nat → Nat → Nat} {put : Run → Nat → Nat → Run} (one : ∀ p k, key p k = 0) (sized : dst.Sized)
    (rows : 0 < dst.rows) (r : Run) :
    r.byBlocks (linear dst) padw key put = dst.groupList.foldl (fun r x => put r x.1 x.2) (r.padRows (linear dst) padw) := by
  have cg := sized.cg_pos
  have row (r : Run) (p : Nat) : (List.range dst.cg).foldl (fun r k => if k + 1 = dst.cg then r.padRow (linear dst) padw p else r) r =
      r.padRow (linear dst) padw p := by
    obtain ⟨n, count⟩ : ∃ n, dst.cg = n + 1 := ⟨dst.cg - 1, by omega⟩
    have none : (List.range n).foldl (fun r k => if k + 1 = n + 1 then r.padRow (linear dst) padw p else r) r = r :=
      List.foldlRecOn (motive := (· = r)) _ _ rfl fun q same k mem => by
        rw [if_neg (by have := List.mem_range.1 mem; omega), same]
    rw [count, List.range_succ, List.foldl_append, none]
    simp
  have pads : dst.groupList.foldl (fun r x => if x.2 + 1 = dst.cg then r.padRow (linear dst) padw x.1 else r) r = r.padRows (linear dst) padw := by
    simp only [TD.groupList, List.foldl_flatMap, List.foldl_map, row]
    rfl
  have keys : dst.groupList.foldl (fun (l : List Nat) x => setIns l (key x.1 x.2)) [] = [0] := by
    have again (l : List (Nat × Nat)) : l.foldl (fun (l : List Nat) x => setIns l (key x.1 x.2)) [0] = [0] :=
      List.foldlRecOn (motive := (· = [0])) _ _ rfl fun q same x _ => by rw [same, one]; rfl
    cases groups : dst.groupList with
    | nil =>
      have : (0, 0) ∈ dst.groupList := TD.mem_groupList.2 ⟨rows, cg⟩
      rw [groups] at this
      cases this
    | cons x l =>
      rw [List.foldl_cons, one]
      exact again l
  have whole := forN_groups dst (r.padRows (linear dst) padw) put
  unfold Run.byBlocks
  dsimp only
  split
  · exact whole
  · show List.foldl _ r (dst.groupList.foldl (fun (l : List Nat) x => setIns l (key x.1 x.2)) []) = _
    have mine : dst.groupList.filter (fun x => key x.1 x.2 == 0) = dst.groupList := by simp [one]
    rw [keys, List.foldl_cons, List.foldl_nil]
    show ((dst.groupList.filter fun x => key x.1 x.2 == 0).foldl (fun r x => put r x.1 x.2)
      ((dst.groupList.filter fun x => key x.1 x.2 == 0).foldl (fun r x => if x.2 + 1 = dst.cg then r.padRow (linear dst) padw x.1 else r) r)) = _
    rw [mine, pads]

/-! ## Moving a group -/

theorem validCells_length (t : TD) (k : Nat) (codes : List Nat) : (validCells t k codes).length = 32 := by simp [validCells]

theorem validCells_at {t : TD} {codes : List Nat} {ch : Nat} (inside : ch < t.size 0) :
    (validCells t (ch / 32) codes)[ch % 32]? = some (some (codes.getD (ch % 32) 0)) := by
  have := TD.valid_lt inside
  simp [validCells, Nat.mod_lt, this]

theorem validCells_fill {v ch : Nat} (inside : ch < dst.size 0) (here : ch / 32 = k) :
    (validCells dst k (List.replicate 32 v))[ch % 32]? = some (some v) := by
  subst here
  have low : ch % 32 < 32 := Nat.mod_lt _ (by decide)
  rw [validCells_at inside, List.getD_eq_getElem?_getD, List.getElem?_replicate, if_pos low]
  rfl

/-- A group of a source goes to a group of a destination, whole. -/
def Run.moveGroup (r : Run) (src dst : TD) (si di : List Nat) (k : Nat) (marks : Grp → List Bool) : Run :=
  let x := r.grp (linear src) si k
  if !x.2.ok then x.2
  else x.2.put (linear dst) di k (validCells dst k ((List.range 32).map (codeAt src.elem x.1.bytes))) (some x.1.scale) (marks x.1)

variable {si di : List Nat} {marks : Grp → List Bool}

theorem Run.moveGroup_ok (plain : src.scaleFmt = 0) (goes : (r.moveGroup src dst si di k marks).ok = true) :
    (r.grp (linear src) si k).2.ok = true ∧ r.ok = true := by
  have read : (r.grp (linear src) si k).2.ok = true := by
    unfold Run.moveGroup at goes
    dsimp only at goes
    split at goes
    · exact goes
    · exact Run.put_linear_ok goes
  exact ⟨read, Run.grp_ok plain read⟩

/-- The codes of a group that is moved are those of the source's group. -/
theorem Run.Moves.moveGroup {n : Nat} (moves : r.Moves a die ctx dst kd) (reads : a.Lies die ctx false src fixed ks)
    (writes : a.Lies die ctx true dst fixed kd) (apart : dst.apart kd) (elem : dst.elem = src.elem) (width : src.size 0 = dst.size 0)
    (hn : n < src.rows) (hp : p < dst.rows) (hk : k < dst.cg) (goes : (r.moveGroup src dst (src.row n) (dst.row p) k marks).ok = true) :
    (r.moveGroup src dst (src.row n) (dst.row p) k marks).Moves a die ctx dst kd ∧
    ∀ m ch, m < dst.rows → ch < dst.size 0 → (r.moveGroup src dst (src.row n) (dst.row p) k marks).codeOf dst kd (dst.row m) ch =
      if m = p ∧ ch / 32 = k then a.elemAt src ks (src.row n) ch else r.codeOf dst kd (dst.row m) ch := by
  obtain ⟨readOk, ok⟩ := Run.moveGroup_ok reads.plain.2 goes
  have lies := moves.lies reads
  have hk' : k < src.cg := by
    unfold TD.cg at hk ⊢
    omega
  have leads := (lies.grp moves.on.uncached hn hk' readOk).1
  have codes (j : Nat) (valid : j < src.validIn k) := lies.grp_code moves.on.uncached hn hk' readOk valid
  have mem : r.h.memRead = a.memRead := by
    funext x y
    unfold Hw.memRead
    rw [moves.mem]
  unfold Run.moveGroup at goes ⊢
  simp only [readOk, Bool.not_true, Bool.false_eq_true, if_false] at goes ⊢
  refine ⟨(moves.read leads).put writes hp hk (validCells_length ..).le goes, fun m ch hm inside => ?_⟩
  refine ((moves.read leads).put_codes (code := fun ch => a.elemAt src ks (src.row n) ch) writes apart hp hk (validCells_length ..).le
    (fun ch inside here => ?_) goes hm inside).trans ?_
  · subst here
    rw [validCells_at inside]
    have low : ch % 32 < 32 := Nat.mod_lt _ (by decide)
    have valid : ch % 32 < src.validIn (ch / 32) := TD.valid_lt (by omega)
    simp [List.getD_eq_getElem?_getD, low, codes _ valid, mem, Hw.elemAt]
  · have small : a.elemAt src ks (src.row n) ch < 2 ^ elemBits src.elem := codeAt_lt ..
    rw [leads.codeOf_same, elem, Nat.mod_eq_of_lt small]

/-! ## When a run is carried out -/

/-- `b` holds codes in a tensor, and beside the tensor it holds what `a` holds. -/
def Hw.HoldsCodes (a b : Hw) (t : TD) (key : List Nat → Nat → Nat) (code : List Nat → Nat → Nat) : Prop :=
  (∀ q ch, q < t.rows → ch < t.size 0 → b.elemAt t key (t.row q) ch = code (t.row q) ch) ∧
  ∀ x, ¬ t.covers key x → cellGet b.mem x = cellGet a.mem x

theorem cellRead_eq_map (m : List Host.Cell) (k n : Nat) : cellRead m k n = (List.range n).map fun i => cellGet m (k + i) := by
  refine List.ext_getElem (by simp) fun i h1 h2 => ?_
  have inside : i < n := by simpa using h1
  have := cellRead_getD m k n i inside
  rw [List.getD_eq_getElem?_getD, List.getElem?_eq_getElem h1, Option.getD_some] at this
  simp [this]

/-- The end of a run leaves the codes and the bytes that the run came to. -/
theorem Hw.endRun_holds {h : Hw} {ring : Nat} {i : W32} {indexPoison : Bool} {code : List Nat → Nat → Nat} (wf : Memory.wf r.h.mem = true)
    (goes : r.Goes) (beside : ∀ x, ¬ dst.covers kd x → r.byte x = cellGet a.mem x)
    (codes : ∀ m ch, m < dst.rows → ch < dst.size 0 → r.codeOf dst kd (dst.row m) ch = code (dst.row m) ch) :
    a.HoldsCodes (h.endRun ring i r indexPoison) dst kd code := by
  obtain ⟨f, ends⟩ := Hw.endRun_goes goes h ring i indexPoison
  have byte (x : Nat) : cellGet (h.endRun ring i r indexPoison).mem x = r.byte x := by
    rw [ends, Hw.setCmd_mem, Run.finish_mem]
    exact cellGet_foldl_set r.w.bytes x wf
  refine ⟨fun m ch hm inside => ?_, fun x none => (byte x).trans (beside x none)⟩
  rw [← codes m ch hm inside]
  simp only [Hw.elemAt, Run.codeOf, Hw.memRead, cellRead_eq_map, byte]

end

/-! ## The runs of the movers begin -/

section
variable {h : Hw} {ring : Nat} {c : Cmd} {alloc : Bool} {env : Env} {die ctx : Nat} {dst : TD} {kd : List Nat → Nat → Nat}

/-- The die of the engine that a command holds. -/
def Cmd.onDie (c : Cmd) : Nat := match c.engine with | some e => engineDie e | none => 0

theorem Hw.moveRun_moves (empty : (h.die c.onDie).rcLines = []) : (h.moveRun ring c alloc env).Moves h c.onDie (h.ring ring).ctx dst kd := by
  have bare : (h.moveRun ring c alloc env).h.bare = h.bare := h.bare_applyEnv env
  have mem := Hw.bare_mem bare
  refine ⟨⟨by rw [bare, mem]; rfl, rfl, rfl, ?_⟩, mem, fun x _ => ?_⟩
  · exact (Hw.bare_rcLines bare _).trans empty
  · show cellGet (h.moveRun ring c alloc env).h.mem x = _
    rw [mem]

/-- A run that goes on without a failure. -/
theorem Run.ok_of_goes {r : Run} (goes : r.Goes) (none : r.fail = none) : r.ok = true := by
  have goes : (r.waits && r.fail.isNone) = false := goes
  rw [none] at goes
  simp [Run.ok, none, show r.waits = false by simpa using goes]

end

/-! ## FILL (R120) -/

section
variable {h : Hw} {ring : Nat} {c : Cmd} {env : Env} {dst : TD} {kd : List Nat → Nat → Nat}

theorem Hw.fillRun_linear (slot : slotTd c.tds 1 = some dst) (plain : dst.owned = false) (sized : dst.Sized) :
    h.fillRun ring c env = dst.groupList.foldl (fun r x => r.put (linear dst) (dst.row x.1) x.2
        (validCells dst x.2 (List.replicate 32 ((fillCode dst.elem dst.scaleFmt (c.f 0x20 2)).getD 0))) (some (scaleOne dst.scaleFmt)) [])
      ((h.moveRun ring c false env).padRows (linear dst) ((c.f 0x28 1).testBit 0)) := by
  unfold Hw.fillRun
  rw [Run.slotView_linear slot plain]
  exact Run.byBlocks_one (fun _ _ => rfl) sized sized.rows_pos _

/-- Every valid element of a FILL's destination holds the fill code. -/
theorem Hw.fillRun_codes (slot : slotTd c.tds 1 = some dst) (writes : h.Lies c.onDie (h.ring ring).ctx true dst fixed kd) (apart : dst.apart kd)
    (empty : (h.die c.onDie).rcLines = []) (goes : (h.fillRun ring c env).ok = true) :
    (h.fillRun ring c env).Moves h c.onDie (h.ring ring).ctx dst kd ∧ ∀ m ch, m < dst.rows → ch < dst.size 0 →
      (h.fillRun ring c env).codeOf dst kd (dst.row m) ch = (fillCode dst.elem 0 (c.f 0x20 2)).getD 0 % 2 ^ elemBits dst.elem := by
  have sized : dst.Sized := writes.sizes
  rw [Hw.fillRun_linear slot writes.plain.1 sized, writes.plain.2] at goes ⊢
  generalize (fillCode dst.elem 0 (c.f 0x20 2)).getD 0 = v at goes ⊢
  have padded := (Hw.moveRun_moves empty).padRows writes (Run.foldl_ok goes fun _ _ => Run.put_linear_ok)
  refine Run.Moves.groups (f := fun r p k => r.put (linear dst) (dst.row p) k (validCells dst k (List.replicate 32 v)) (some (scaleOne 0)) [])
    (code := fun _ _ => v % 2 ^ elemBits dst.elem) (fun r p k hp hk moves goes => ⟨?_, fun m ch hm inside => ?_⟩)
    (fun _ _ _ => Run.put_linear_ok) padded goes
  · exact moves.put writes hp hk (validCells_length ..).le goes
  · exact moves.put_codes (code := fun _ => v) writes apart hp hk (validCells_length ..).le (fun _ => validCells_fill) goes hm inside

end

/-! ## COPY (R113-R115) -/

/-- The source's indices of an element of a COPY's destination. -/
def copyIndices (perm : List Nat) (rank : Nat) (full : List Nat) : List Nat := (List.range rank).map fun m => full.getD (perm.idxOf m) 0

theorem copyPerm_ne_nil (bs : List Byte) {rank : Nat} (one : 1 ≤ rank) : copyPerm bs rank ≠ [] := by
  unfold copyPerm
  split
  · simp [permOf]
    omega
  · simp
    omega

section
variable {a : Hw} {die ctx p k : Nat} {src dst : TD} {ks kd : List Nat → Nat → Nat} {r q : Run} {perm : List Nat}

/-- The permutation of a COPY gives each source dimension a destination dimension of its size. -/
def CopyFits (perm : List Nat) (src dst : TD) : Prop := ∀ m, m < src.rank → perm.idxOf m < dst.rank ∧ src.size m = dst.size (perm.idxOf m)

/-- The source's indices of a destination element name a source element. -/
theorem CopyFits.indices (fits : CopyFits perm src dst) (sized : src.Sized) (dstSized : dst.Sized) {p ch : Nat} (inside : ch < dst.size 0) :
    src.IsRow ((copyIndices perm src.rank (ch :: dst.row p)).drop 1) ∧ (copyIndices perm src.rank (ch :: dst.row p)).headD 0 < src.size 0 := by
  have each (i : Nat) (low : i < dst.rank) : (ch :: dst.row p).getD i 0 < dst.size i := by
    cases i with
    | zero => exact inside
    | succ i => exact (dstSized.row_isRow p).2 i low
  have one : 0 < src.rank := sized.1
  refine ⟨⟨by simp [copyIndices]; omega, fun d low => ?_⟩, ?_⟩
  · have at_ : ((copyIndices perm src.rank (ch :: dst.row p)).drop 1).getD d 0 = (ch :: dst.row p).getD (perm.idxOf (d + 1)) 0 := by
      simp [copyIndices, List.getD_eq_getElem?_getD, low]
    obtain ⟨within, size⟩ := fits (d + 1) low
    rw [at_, size]
    exact each _ within
  · have at_ : (copyIndices perm src.rank (ch :: dst.row p)).headD 0 = (ch :: dst.row p).getD (perm.idxOf 0) 0 := by
      obtain ⟨n, count⟩ : ∃ n, src.rank = n + 1 := ⟨src.rank - 1, by omega⟩
      simp [copyIndices, count, List.range_succ_eq_map]
    obtain ⟨within, size⟩ := fits 0 one
    rw [at_, size]
    exact each _ within

/-- Where a COPY keeps dimension 0, a source row goes to a destination row, group by group. -/
theorem copyIndices_rows {ch : Nat} {row : List Nat} (some : perm ≠ []) (kept : perm.headD 0 = 0) :
    (copyIndices perm src.rank (ch :: row)).drop 1 = (List.range (src.rank - 1)).map (fun k => row.getD (perm.idxOf (k + 1) - 1) 0) ∧
    (0 < src.rank → (copyIndices perm src.rank (ch :: row)).headD 0 = ch) ∧ perm.idxOf 0 = 0 := by
  obtain ⟨x, l, rfl⟩ := List.exists_cons_of_ne_nil some
  obtain rfl : x = 0 := kept
  refine ⟨?_, fun one => ?_, by simp⟩
  · refine List.ext_getElem (by simp [copyIndices]) fun d h1 h2 => ?_
    have other : (0 == d + 1) = false := by simp
    simp [copyIndices, List.idxOf_cons, other]
  · obtain ⟨n, count⟩ : ∃ n, src.rank = n + 1 := ⟨src.rank - 1, by omega⟩
    simp [copyIndices, count, List.range_succ_eq_map]

theorem Run.copyGroup_linear : Run.copyGroup (linear src) (linear dst) perm r p k =
    r.moveGroup src dst (copySource (linear dst) perm p) (dst.row p) k (·.marks) := by
  have valid (t : TD) (row : List Nat) : (linear t).invalidAt row k = false := rfl
  unfold Run.copyGroup
  simp only [valid, Bool.or_self, Bool.false_eq_true, if_false]
  rfl

/-- One element of the transposing class is read. -/
def Run.copyElem (src dst : TD) (perm : List Nat) (p k : Nat) (x : List (Option Nat) × List Bool × Run) (j : Nat) :
    List (Option Nat) × List Bool × Run :=
  let si := copyIndices perm src.rank ((32 * k + j) :: dst.row p)
  let c := si.headD 0
  let g := x.2.2.grp (linear src) (si.drop 1) (c / 32)
  (x.1 ++ [some (codeAt src.elem g.1.bytes (c % 32))], x.2.1 ++ [g.1.bad (c % 32)], g.2)

theorem Run.copyElems_linear : Run.copyElems (linear src) (linear dst) perm r p k =
    let x := (List.range (dst.validIn k)).foldl (Run.copyElem src dst perm p k) ([], [], r)
    if x.2.2.ok then x.2.2.put (linear dst) (dst.row p) k x.1 none x.2.1 else x.2.2 := rfl

/-- What a COPY's destination element holds. -/
def Hw.copied (a : Hw) (src : TD) (ks : List Nat → Nat → Nat) (perm : List Nat) (row : List Nat) (ch : Nat) : Nat :=
  a.elemAt src ks ((copyIndices perm src.rank (ch :: row)).drop 1) ((copyIndices perm src.rank (ch :: row)).headD 0)

/-- The elements of a group of the transposing class are read one after the other. -/
theorem Run.Moves.copyElems_read (moves : r.Moves a die ctx dst kd) (reads : a.Lies die ctx false src fixed ks) (fits : CopyFits perm src dst)
    (dstSized : dst.Sized) (n : Nat) (few : n ≤ dst.validIn k)
    (goes : ((List.range n).foldl (Run.copyElem src dst perm p k) ([], [], r)).2.2.ok = true) :
    r.Then [] ((List.range n).foldl (Run.copyElem src dst perm p k) ([], [], r)).2.2 ∧
    ((List.range n).foldl (Run.copyElem src dst perm p k) ([], [], r)).1 =
      (List.range n).map fun j => some (a.copied src ks perm (dst.row p) (32 * k + j)) := by
  have sized : src.Sized := reads.sizes
  induction n with
  | zero => exact ⟨.refl goes, rfl⟩
  | succ n ih =>
    rw [List.range_succ, List.foldl_append, List.foldl_cons, List.foldl_nil] at goes ⊢
    generalize (List.range n).foldl (Run.copyElem src dst perm p k) ([], [], r) = y at goes ih ⊢
    have inside : 32 * k + n < dst.size 0 := by
      unfold TD.validIn at few
      omega
    obtain ⟨row, low⟩ := fits.indices (p := p) sized dstSized inside
    obtain ⟨names, within⟩ := sized.row_of row
    unfold Run.copyElem at goes ⊢
    dsimp only at goes ⊢
    have before : y.2.2.ok = true := Run.grp_ok reads.plain.2 goes
    obtain ⟨leads, codes⟩ := ih (by omega) before
    have lies := (moves.read leads).lies reads
    have empty := (moves.read leads).on.uncached
    have mem := (moves.read leads).mem
    rw [← names] at goes ⊢
    refine ⟨leads.trans (lies.grp empty within (TD.cg_lt low) goes).1, ?_⟩
    rw [codes, List.map_append, lies.grp_code empty within (TD.cg_lt low) goes (TD.valid_lt low)]
    simp only [List.map_cons, List.map_nil, Hw.copied, Hw.elemAt, Hw.memRead, mem, names]

end

end Sys2Proof.Machine
end

section
/-! PROOFS. What COPY writes (04 R113-R115). -/

namespace Sys2Proof.Machine

section
variable {h a : Hw} {ring die ctx p k : Nat} {c : Cmd} {env : Env} {src dst : TD} {ks kd : List Nat → Nat → Nat} {r : Run} {perm : List Nat}

/-- The source row of a destination row, where a COPY keeps dimension 0. -/
theorem CopyFits.copySource_isRow (fits : CopyFits perm src dst) (sized : src.Sized) (dstSized : dst.Sized) (rank : dst.rank = src.rank)
    (some : perm ≠ []) (kept : perm.headD 0 = 0) (p : Nat) : src.IsRow (copySource (linear dst) perm p) := by
  have row := (fits.indices (p := p) sized dstSized (dstSized.2.2 0 dstSized.1)).1
  rw [(copyIndices_rows some kept).1, ← rank] at row
  exact row

theorem Hw.copied_row (rank : dst.rank = src.rank) (one : 0 < src.rank) (some : perm ≠ []) (kept : perm.headD 0 = 0) (p ch : Nat) :
    a.copied src ks perm (dst.row p) ch = a.elemAt src ks (copySource (linear dst) perm p) ch := by
  obtain ⟨rows, channel, -⟩ := copyIndices_rows (src := src) (row := dst.row p) (ch := ch) some kept
  rw [Hw.copied, rows, channel one, ← rank]
  rfl

/-- A group of the linear and permuting classes. -/
theorem Run.Moves.copyGroup (moves : r.Moves a die ctx dst kd) (reads : a.Lies die ctx false src fixed ks)
    (writes : a.Lies die ctx true dst fixed kd) (apart : dst.apart kd) (elem : dst.elem = src.elem) (rank : dst.rank = src.rank)
    (fits : CopyFits perm src dst) (some : perm ≠ []) (kept : perm.headD 0 = 0) (hp : p < dst.rows) (hk : k < dst.cg)
    (goes : (Run.copyGroup (linear src) (linear dst) perm r p k).ok = true) :
    (Run.copyGroup (linear src) (linear dst) perm r p k).Moves a die ctx dst kd ∧
    ∀ m ch, m < dst.rows → ch < dst.size 0 → (Run.copyGroup (linear src) (linear dst) perm r p k).codeOf dst kd (dst.row m) ch =
      if m = p ∧ ch / 32 = k then a.copied src ks perm (dst.row m) ch else r.codeOf dst kd (dst.row m) ch := by
  have sized : src.Sized := reads.sizes
  obtain ⟨names, within⟩ := sized.row_of (fits.copySource_isRow sized writes.sizes rank some kept p)
  have width : src.size 0 = dst.size 0 := by
    have := (fits 0 sized.1).2
    rwa [(copyIndices_rows (src := src) (row := []) (ch := 0) some kept).2.2] at this
  rw [Run.copyGroup_linear, ← names] at goes ⊢
  obtain ⟨after, codes⟩ := moves.moveGroup reads writes apart elem width within hp hk goes
  refine ⟨after, fun m ch hm inside => (codes m ch hm inside).trans ?_⟩
  split
  next here => rw [here.1, Hw.copied_row rank sized.1 some kept, names]
  next => rfl

/-- A group of the transposing class. -/
theorem Run.Moves.copyElems (moves : r.Moves a die ctx dst kd) (reads : a.Lies die ctx false src fixed ks)
    (writes : a.Lies die ctx true dst fixed kd) (apart : dst.apart kd) (elem : dst.elem = src.elem)
    (fits : CopyFits perm src dst) (hp : p < dst.rows) (hk : k < dst.cg) (goes : (Run.copyElems (linear src) (linear dst) perm r p k).ok = true) :
    (Run.copyElems (linear src) (linear dst) perm r p k).Moves a die ctx dst kd ∧
    ∀ m ch, m < dst.rows → ch < dst.size 0 → (Run.copyElems (linear src) (linear dst) perm r p k).codeOf dst kd (dst.row m) ch =
      if m = p ∧ ch / 32 = k then a.copied src ks perm (dst.row m) ch else r.codeOf dst kd (dst.row m) ch := by
  rw [Run.copyElems_linear] at goes ⊢
  dsimp only at goes ⊢
  have read : ((List.range (dst.validIn k)).foldl (Run.copyElem src dst perm p k) ([], [], r)).2.2.ok = true := by
    by_contra stops
    rw [if_neg stops] at goes
    exact stops goes
  obtain ⟨leads, codes⟩ := moves.copyElems_read reads fits writes.sizes (dst.validIn k) le_rfl read
  rw [if_pos read, codes] at goes ⊢
  have few : ((List.range (dst.validIn k)).map fun j => some (a.copied src ks perm (dst.row p) (32 * k + j))).length ≤ 32 := by
    simp [TD.validIn]
  refine ⟨(moves.read leads).put writes hp hk few goes, fun m ch hm inside => ?_⟩
  refine ((moves.read leads).put_codes (code := a.copied src ks perm (dst.row p)) writes apart hp hk few
    (fun ch inside here => ?_) goes hm inside).trans ?_
  · subst here
    simp [TD.valid_lt inside, Nat.div_add_mod]
  · have small : a.copied src ks perm (dst.row p) ch < 2 ^ elemBits src.elem := codeAt_lt ..
    rw [leads.codeOf_same, elem, Nat.mod_eq_of_lt small]
    split
    next here => rw [here.1]
    next => rfl

/-- What a COPY does to a group of its destination. -/
def Run.copyPut (src dst : TD) (perm : List Nat) : Run → Nat → Nat → Run :=
  if perm.headD 0 = 0 then Run.copyGroup (linear src) (linear dst) perm else Run.copyElems (linear src) (linear dst) perm

theorem linear_block (t : TD) (row : List Nat) (k : Nat) : (linear t).block row k = 0 := rfl

theorem Hw.copyRun_linear (source : slotTd c.tds 0 = some src) (target : slotTd c.tds 1 = some dst) (plain : src.owned = false ∧ dst.owned = false)
    (sized : dst.Sized) :
    h.copyRun ring c env = dst.groupList.foldl (fun r x => Run.copyPut src dst (copyPerm c.bytes src.rank) r x.1 x.2)
      ((h.moveRun ring c false env).padRows (linear dst) ((c.f 0x2C 1).testBit 0)) := by
  unfold Hw.copyRun
  rw [Run.slotView_linear source plain.1]
  dsimp only
  rw [Run.slotView_linear target plain.2]
  unfold Run.copyTensor
  rw [Run.byBlocks_one (fun q k => by rw [linear_block, linear_block, Nat.zero_mul]) sized sized.rows_pos]
  rfl

theorem Run.copyElems_ok {n : Nat} (plain : src.scaleFmt = 0)
    (goes : ((List.range n).foldl (Run.copyElem src dst perm p k) ([], [], r)).2.2.ok = true) : r.ok = true := by
  induction n with
  | zero => exact goes
  | succ n ih =>
    rw [List.range_succ, List.foldl_append, List.foldl_cons, List.foldl_nil] at goes
    exact ih (Run.grp_ok plain goes)

theorem Run.copyPut_ok (plain : src.scaleFmt = 0) (goes : (Run.copyPut src dst perm r p k).ok = true) : r.ok = true := by
  unfold Run.copyPut at goes
  split at goes
  · rw [Run.copyGroup_linear] at goes
    exact (Run.moveGroup_ok plain goes).2
  · rw [Run.copyElems_linear] at goes
    dsimp only at goes
    have read : ((List.range (dst.validIn k)).foldl (Run.copyElem src dst perm p k) ([], [], r)).2.2.ok = true := by
      by_contra stops
      rw [if_neg stops] at goes
      exact stops goes
    exact Run.copyElems_ok plain read

/-- Every valid element of a COPY's destination holds the source element whose indices PERM gives. -/
theorem Hw.copyRun_codes (source : slotTd c.tds 0 = some src) (target : slotTd c.tds 1 = some dst) (reads : h.Lies c.onDie (h.ring ring).ctx false src fixed ks)
    (writes : h.Lies c.onDie (h.ring ring).ctx true dst fixed kd) (apart : dst.apart kd) (elem : dst.elem = src.elem) (rank : dst.rank = src.rank)
    (fits : CopyFits (copyPerm c.bytes src.rank) src dst) (empty : (h.die c.onDie).rcLines = []) (goes : (h.copyRun ring c env).ok = true) :
    (h.copyRun ring c env).Moves h c.onDie (h.ring ring).ctx dst kd ∧ ∀ m ch, m < dst.rows → ch < dst.size 0 →
      (h.copyRun ring c env).codeOf dst kd (dst.row m) ch = h.copied src ks (copyPerm c.bytes src.rank) (dst.row m) ch := by
  have some := copyPerm_ne_nil c.bytes reads.sizes.1
  rw [Hw.copyRun_linear source target ⟨reads.plain.1, writes.plain.1⟩ writes.sizes] at goes ⊢
  have before (r : Run) (p k : Nat) := Run.copyPut_ok (r := r) (p := p) (k := k) (dst := dst) (perm := copyPerm c.bytes src.rank) reads.plain.2
  have padded := (Hw.moveRun_moves empty).padRows writes (Run.foldl_ok goes fun r x => before r x.1 x.2)
  refine Run.Moves.groups (fun r p k hp hk moves goes => ?_) before padded goes
  unfold Run.copyPut at goes ⊢
  split at goes
  next kept =>
    simp only [kept, if_true]
    exact moves.copyGroup reads writes apart elem rank fits some kept hp hk goes
  next other =>
    simp only [other, if_false]
    exact moves.copyElems reads writes apart elem fits hp hk goes

end

end Sys2Proof.Machine
end

section
/-! PROOFS. The indices of GATHER and SCATTER, and what GATHER writes (04 R117, R118). -/

namespace Sys2Proof.Machine

/-! ## Codes of whole bytes in memory -/

theorem cellRead_slice (m : List Host.Cell) (k : Nat) {x n len : Nat} (within : x + n ≤ len) :
    ((cellRead m k len).drop x).take n = cellRead m (k + x) n := by
  have cut : cellRead m k len = cellRead m k x ++ (cellRead m (k + x) n ++ cellRead m (k + x + n) (len - (x + n))) := by
    rw [cellRead_append, cellRead_append, ← Nat.add_assoc, Nat.add_sub_cancel' within]
  rw [cut, List.drop_left' (by simp), List.take_left' (by simp)]

theorem codeAt_cellRead {e u : Nat} (width : elemBits e = 8 * u) (one : 1 ≤ u) (m : List Host.Cell) (k : Nat) {j len : Nat}
    (within : j * u + u ≤ len) : codeAt e (cellRead m k len) j = leNat (cellRead m (k + j * u) u) := by
  rw [codeAt_wide width one, cellRead_slice m k within]

section
variable {h a : Hw} {ring die ctx i p k : Nat} {c : Cmd} {env : Env} {src dst idx : TD} {ks kd ki : List Nat → Nat → Nat} {r q : Run}

/-! ## Indices -/

/-- An index value lies in its channel group, four bytes by its number there. -/
theorem Run.Lies.index (lies : r.Lies false idx ki) (sized : idx.Sized) (elem : idx.elem = 6) (rank : idx.rank = 1) (empty : r.Uncached)
    (inside : i < idx.size 0) (goes : (r.read (idx.base.toNat + 4 * i) 4).2.ok = true) :
    r.Then [] (r.read (idx.base.toNat + 4 * i) 4).2 ∧ leNat (r.read (idx.base.toNat + 4 * i) 4).1.1 = r.h.elemAt idx ki [] i := by
  have row : idx.row 0 = [] := List.eq_nil_of_length_eq_zero (by have := (sized.row_isRow 0).1; omega)
  have group : idx.b = 128 := by rw [TD.b, elem]; rfl
  have owns (j : Nat) (hj : j < 4) : r.Owns (idx.base.toNat + 4 * i + j) false (ki [] (i / 32) + i % 32 * 4 + j) := by
    have at_ := lies.place 0 (i / 32) (i % 32 * 4 + j) sized.rows_pos (TD.cg_lt inside) (by omega)
    rw [row, group] at at_
    have none : idx.rowGroup [] = 0 := rfl
    rw [none] at at_
    convert at_ using 1 <;> omega
  obtain ⟨leads, bytes⟩ := Run.readGroups_owns owns empty (by decide) goes
  refine ⟨leads, ?_⟩
  show leNat (r.readGroups (idx.base.toNat + 4 * i) 4).1.1 = _
  rw [bytes, Hw.elemAt, Hw.memRead, elem, codeAt_cellRead (u := 4) rfl (by decide) _ _ (by omega)]

/-- One index value is read. -/
def Run.indexStep (t : TD) (x : List (Int × Bool) × Run) (i : Nat) : List (Int × Bool) × Run :=
  let y := x.2.read (t.base.toNat + 4 * i) 4
  (x.1 ++ [(signed 32 (leNat y.1.1), y.1.2)], y.2)

theorem Run.indices_foldl (r : Run) (t : TD) : r.indices t = (List.range (t.size 0)).foldl (Run.indexStep t) ([], r) := rfl

/-- The index that an index tensor holds at a number. -/
def Hw.namedAt (a : Hw) (idx : TD) (ki : List Nat → Nat → Nat) (i : Nat) : Int := Machine.signed 32 (a.elemAt idx ki [] i)

theorem Run.Moves.indices (moves : r.Moves a die ctx dst kd) (reads : a.Lies die ctx false idx fixed ki) (elem : idx.elem = 6) (rank : idx.rank = 1)
    (goes : (r.indices idx).2.ok = true) :
    r.Then [] (r.indices idx).2 ∧ (r.indices idx).1.map (·.1) = (List.range (idx.size 0)).map (a.namedAt idx ki) := by
  rw [Run.indices_foldl] at goes ⊢
  have all (n : Nat) (few : n ≤ idx.size 0) (goes : ((List.range n).foldl (Run.indexStep idx) ([], r)).2.ok = true) :
      r.Then [] ((List.range n).foldl (Run.indexStep idx) ([], r)).2 ∧
      ((List.range n).foldl (Run.indexStep idx) ([], r)).1.map (·.1) = (List.range n).map (a.namedAt idx ki) := by
    induction n with
    | zero => exact ⟨.refl goes, rfl⟩
    | succ n ih =>
      rw [List.range_succ, List.foldl_append, List.foldl_cons, List.foldl_nil] at goes ⊢
      generalize (List.range n).foldl (Run.indexStep idx) ([], r) = y at goes ih ⊢
      obtain ⟨before, values⟩ := ih (by omega) (Run.readN_ok goes)
      have here := moves.read before
      obtain ⟨leads, value⟩ := (here.lies reads).index reads.sizes elem rank here.on.uncached (i := n) (by omega) goes
      refine ⟨before.trans leads, ?_⟩
      have same : y.2.h.elemAt idx ki [] n = a.elemAt idx ki [] n := by
        simp only [Hw.elemAt, Hw.memRead, here.mem]
      simp [Run.indexStep, values, value, same, Hw.namedAt]
  exact all _ le_rfl goes

/-- An index of a run of GATHER or SCATTER, by its number. -/
theorem named_getD {l : List (Int × Bool)} {n : Nat} {f : Nat → Int} (values : l.map (·.1) = (List.range n).map f) (inside : i < n) :
    (l.getD i (0, false)).1 = f i := by
  have len : l.length = n := by simpa using congrArg List.length values
  have at_ := congrArg (·[i]?) values
  simpa [List.getD_eq_getElem?_getD, len, inside] using at_

/-! ## GATHER -/

/-- What a GATHER does to a group of its destination: fill codes where the index is out of range, or the group of the source row that it
names. -/
def Run.gatherPut (src dst : TD) (dim v : Nat) (named : List (Int × Bool)) (r : Run) (p k : Nat) : Run :=
  let x := named.getD ((dst.row p).getD (dim - 1) 0) (0, false)
  if decide (x.1 < 0) || decide ((src.size dim : Int) ≤ x.1) then
    r.put (linear dst) (dst.row p) k (validCells dst k (List.replicate 32 v)) (some (scaleOne dst.scaleFmt)) (List.replicate 32 x.2)
  else r.moveGroup src dst ((dst.row p).set (dim - 1) x.1.toNat) (dst.row p) k fun g => if x.2 then List.replicate 32 true else g.marks

/-- A run whose range count is `n`. -/
def Run.ranged (r : Run) (n : Nat) : Run := { r with range := n }

/-- The range count of a run is apart from what it moves. -/
theorem Run.Moves.ranged (moves : r.Moves a die ctx dst kd) (n : Nat) : (r.ranged n).Moves a die ctx dst kd :=
  ⟨⟨moves.on.bare, moves.on.die, moves.on.ctx, moves.on.uncached⟩, moves.mem, moves.beside⟩

theorem Hw.gatherRun_linear (source : slotTd c.tds 0 = some src) (target : slotTd c.tds 1 = some dst) (index : slotTd c.tds 2 = some idx)
    (plain : src.owned = false ∧ dst.owned = false) (unscaled : src.scaleFmt = 0) :
    ∃ n, (h.gatherRun ring c env).1 =
      dst.groupList.foldl (fun r x => r.gatherPut src dst (c.f 0x30 1) ((fillCode src.elem 0 (c.f 0x32 2)).getD 0)
        ((h.moveRun ring c true env).indices idx).1 x.1 x.2)
      ((((h.moveRun ring c true env).indices idx).2.ranged n).padRows (linear dst) ((c.f 0x31 1).testBit 0)) := by
  let z := (h.moveRun ring c true env).indices idx
  refine ⟨z.2.range + (z.1.filter fun k => decide (k.1 < 0) || decide ((src.size (c.f 0x30 1) : Int) ≤ k.1)).length,
    Eq.trans ?_ (forN_groups dst _ fun (r : Run) p k => r.gatherPut src dst (c.f 0x30 1) ((fillCode src.elem 0 (c.f 0x32 2)).getD 0) z.1 p k)⟩
  unfold Hw.gatherRun
  rw [Run.slotView_linear source plain.1]
  dsimp only
  rw [Run.slotView_linear target plain.2, index, if_neg (show ¬ (linear src).td.scaleFmt ≠ 0 from not_not.2 unscaled)]
  rfl

theorem Run.gatherPut_ok {dim v : Nat} {named : List (Int × Bool)} (plain : src.scaleFmt = 0) (goes : (r.gatherPut src dst dim v named p k).ok = true) :
    r.ok = true := by
  unfold Run.gatherPut at goes
  dsimp only at goes
  split at goes
  · exact Run.put_linear_ok goes
  · exact (Run.moveGroup_ok plain goes).2

/-- What a GATHER's destination element holds. -/
def Hw.gathered (a : Hw) (src idx : TD) (ks ki : List Nat → Nat → Nat) (dim v : Nat) (row : List Nat) (ch : Nat) : Nat :=
  let n := a.namedAt idx ki (row.getD (dim - 1) 0)
  if 0 ≤ n ∧ n < src.size dim then a.elemAt src ks (row.set (dim - 1) n.toNat) ch else v

/-- Two tensors of the same format and sizes, but for one of their outer dimensions. -/
structure Alike (src dst : TD) (dim : Nat) : Prop where
  outer : 1 ≤ dim ∧ dim < src.rank
  elem : dst.elem = src.elem
  rank : dst.rank = src.rank
  sizes : ∀ m, m < src.rank → m ≠ dim → src.size m = dst.size m

theorem Run.Moves.gatherPut {dim v : Nat} {named : List (Int × Bool)} (moves : r.Moves a die ctx dst kd) (reads : a.Lies die ctx false src fixed ks)
    (writes : a.Lies die ctx true dst fixed kd) (apart : dst.apart kd) (alike : Alike src dst dim)
    (values : named.map (·.1) = (List.range (dst.size dim)).map (a.namedAt idx ki)) (hp : p < dst.rows) (hk : k < dst.cg)
    (goes : (r.gatherPut src dst dim v named p k).ok = true) :
    (r.gatherPut src dst dim v named p k).Moves a die ctx dst kd ∧
    ∀ m ch, m < dst.rows → ch < dst.size 0 → (r.gatherPut src dst dim v named p k).codeOf dst kd (dst.row m) ch =
      if m = p ∧ ch / 32 = k then a.gathered src idx ks ki dim (v % 2 ^ elemBits dst.elem) (dst.row m) ch else r.codeOf dst kd (dst.row m) ch := by
  obtain ⟨⟨one, outer⟩, elem, rank, sizes⟩ := alike
  have sized : dst.Sized := writes.sizes
  have row := sized.row_isRow p
  have index : (dst.row p).getD (dim - 1) 0 < dst.size dim := by
    have := row.2 (dim - 1) (by omega)
    rwa [Nat.sub_add_cancel one] at this
  have value := named_getD values index
  unfold Run.gatherPut at goes ⊢
  dsimp only at goes ⊢
  generalize named.getD ((dst.row p).getD (dim - 1) 0) (0, false) = x at goes value ⊢
  split at goes
  next out =>
    rw [if_pos out]
    have beyond : ¬ (0 ≤ x.1 ∧ x.1 < src.size dim) := by
      rw [Bool.or_eq_true, decide_eq_true_eq, decide_eq_true_eq] at out
      omega
    have few := (validCells_length dst k (List.replicate 32 v)).le
    refine ⟨moves.put writes hp hk few goes, fun m ch hm inside => ?_⟩
    refine (moves.put_codes (code := fun _ => v) writes apart hp hk few (fun ch inside here => validCells_fill inside here) goes hm inside).trans ?_
    split
    next here =>
      rw [here.1, Hw.gathered, ← value, if_neg beyond]
    next => rfl
  next within =>
    rw [if_neg within]
    have inRange : 0 ≤ x.1 ∧ x.1 < src.size dim := by
      rw [Bool.or_eq_true, decide_eq_true_eq, decide_eq_true_eq] at within
      omega
    obtain ⟨names, low⟩ := (TD.Sized.row_of (t := src) reads.sizes) (row.set rank.symm one sizes (i := x.1.toNat) (by omega))
    rw [← names] at goes ⊢
    obtain ⟨after, codes⟩ := moves.moveGroup reads writes apart elem (sizes 0 (by omega) (by omega)) low hp hk goes
    refine ⟨after, fun m ch hm inside => (codes m ch hm inside).trans ?_⟩
    split
    next here =>
      rw [here.1, Hw.gathered, ← value, if_pos inRange, names]
    next => rfl

/-- Every valid element of a GATHER's destination holds the source element of its row's index, or the fill code. -/
theorem Hw.gatherRun_codes (source : slotTd c.tds 0 = some src) (target : slotTd c.tds 1 = some dst) (index : slotTd c.tds 2 = some idx)
    (ints : idx.elem = 6) (line : idx.rank = 1) (alike : Alike src dst (c.f 0x30 1)) (count : dst.size (c.f 0x30 1) = idx.size 0)
    (lists : h.Lies c.onDie (h.ring ring).ctx false idx fixed ki) (reads : h.Lies c.onDie (h.ring ring).ctx false src fixed ks)
    (writes : h.Lies c.onDie (h.ring ring).ctx true dst fixed kd) (apart : dst.apart kd) (empty : (h.die c.onDie).rcLines = [])
    (goes : (h.gatherRun ring c env).1.ok = true) :
    (h.gatherRun ring c env).1.Moves h c.onDie (h.ring ring).ctx dst kd ∧ ∀ m ch, m < dst.rows → ch < dst.size 0 →
      (h.gatherRun ring c env).1.codeOf dst kd (dst.row m) ch = h.gathered src idx ks ki (c.f 0x30 1)
        ((fillCode dst.elem 0 (c.f 0x32 2)).getD 0 % 2 ^ elemBits dst.elem) (dst.row m) ch := by
  obtain ⟨n, run⟩ := Hw.gatherRun_linear (h := h) (ring := ring) (env := env) source target index ⟨reads.plain.1, writes.plain.1⟩ reads.plain.2
  rw [run, ← alike.elem] at goes ⊢
  generalize (fillCode dst.elem 0 (c.f 0x32 2)).getD 0 = v at goes ⊢
  have before (named : List (Int × Bool)) (r : Run) (p k : Nat) :=
    Run.gatherPut_ok (r := r) (p := p) (k := k) (dst := dst) (dim := c.f 0x30 1) (v := v) (named := named) reads.plain.2
  have padOk := Run.foldl_ok goes fun r x => before _ r x.1 x.2
  have listed : (((h.moveRun ring c true env).indices idx).2.ranged n).ok = true := Run.padRows_ok padOk
  obtain ⟨leads, values⟩ := (Hw.moveRun_moves (dst := dst) (kd := kd) empty).indices lists ints line listed
  rw [← count] at values
  have padded := (((Hw.moveRun_moves empty).read leads).ranged n).padRows writes padOk
  exact Run.Moves.groups (fun r p k hp hk moves goes => moves.gatherPut reads writes apart alike values hp hk goes) (before _) padded goes

end

end Sys2Proof.Machine
end

section
/-! PROOFS. What SCATTER's STORE writes (04 R117-R119). -/

namespace Sys2Proof.Machine

/-- The destination slice that source slice `i` goes to, of `n` slices: the one that its index names, if there is one. -/
def Hw.sliceOf (a : Hw) (idx : TD) (ki : List Nat → Nat → Nat) (n i : Nat) : Option Nat :=
  if 0 ≤ a.namedAt idx ki i ∧ a.namedAt idx ki i < n then some (a.namedAt idx ki i).toNat else none

/-- The source slices whose index names the slice of a destination row. -/
def Hw.hits (a : Hw) (src idx : TD) (ki : List Nat → Nat → Nat) (dim : Nat) (row : List Nat) : List Nat :=
  (List.range (src.size dim)).filter fun i => a.namedAt idx ki i = row.getD (dim - 1) 0

/-- The outer indices that a source row goes to. -/
def scatterTarget (src : TD) (dim : Nat) (targets : List (Option Nat)) (q : Nat) : Option (List Nat) :=
  (targets.getD ((src.row q).getD (dim - 1) 0) none).map fun k => (src.row q).set (dim - 1) k

/-- The padding of a row that a SCATTER writes. -/
def Run.scatterPad (src dst : TD) (dim : Nat) (targets : List (Option Nat)) (r : Run) (q : Nat) : Run :=
  match scatterTarget src dim targets q with
  | some row => r.put (linear dst) row (dst.cg - 1) ((List.range 32).map fun j =>
      if j < dst.validIn (dst.cg - 1) then none else some ((fillCode dst.elem dst.scaleFmt dst.pad.toNat).getD 0)) none []
  | none => r

/-- A source row goes to the destination row that its index names. -/
def Run.scatterPut (src dst : TD) (dim : Nat) (targets : List (Option Nat)) (r : Run) (q : Nat) : Run :=
  match scatterTarget src dim targets q with
  | some row => (List.range src.cg).foldl (fun r k => r.moveGroup src dst (src.row q) row k (·.marks)) r
  | none => r

section
variable {h a : Hw} {ring die ctx i dim q p k n : Nat} {c : Cmd} {env : Env} {src dst idx : TD} {ks kd ki : List Nat → Nat → Nat} {r : Run}
  {targets : List (Option Nat)} {row : List Nat}

theorem set_getD_self (l : List Nat) (d : Nat) : l.set d (l.getD d 0) = l := by
  by_cases long : d < l.length
  · rw [List.getD_eq_getElem?_getD, List.getElem?_eq_getElem long, Option.getD_some, List.set_getElem_self]
  · exact List.set_eq_of_length_le (Nat.not_lt.1 long)

theorem getD_set_self {l : List Nat} {d : Nat} (long : d < l.length) (x : Nat) : (l.set d x).getD d 0 = x := by
  rw [List.getD_eq_getElem?_getD, List.getElem?_set_self long, Option.getD_some]

theorem Hw.sliceOf_eq_some : a.sliceOf idx ki n i = some k ↔ a.namedAt idx ki i = k ∧ k < n := by
  unfold Hw.sliceOf
  split
  · rw [Option.some.injEq]
    omega
  · simp only [reduceCtorEq, false_iff]
    omega

/-- The indices of a SCATTER without poison give each source slice the slice that it goes to. -/
theorem slices_getD {l : List (Int × Bool)} {count n : Nat} (values : l.map (·.1) = (List.range count).map (a.namedAt idx ki))
    (clean : l.any (·.2) = false) (inside : i < count) :
    (l.map fun k => if k.2 || decide (k.1 < 0) || decide ((n : Int) ≤ k.1) then none else some k.1.toNat).getD i none = a.sliceOf idx ki n i := by
  have len : l.length = count := by simpa using congrArg List.length values
  have at_ : l[i]? = some (l[i]'(by omega)) := List.getElem?_eq_getElem (by omega)
  have value := named_getD values inside
  rw [List.getD_eq_getElem?_getD, at_, Option.getD_some] at value
  have unspoilt : (l[i]'(by omega)).2 = false := by
    rw [List.any_eq_false] at clean
    exact Bool.eq_false_iff.2 (clean _ (List.getElem_mem ..))
  rw [List.getD_eq_getElem?_getD, List.getElem?_map, at_, Option.map_some, Option.getD_some, value, unspoilt, Hw.sliceOf]
  have out : (decide (a.namedAt idx ki i < 0) || decide ((n : Int) ≤ a.namedAt idx ki i)) =
      !decide (0 ≤ a.namedAt idx ki i ∧ a.namedAt idx ki i < n) := by
    rw [Bool.eq_iff_iff]
    simp only [Bool.or_eq_true, decide_eq_true_eq, Bool.not_eq_true', decide_eq_false_iff_not]
    omega
  rw [Bool.false_or, out]
  by_cases within : 0 ≤ a.namedAt idx ki i ∧ a.namedAt idx ki i < n <;> simp [within]

theorem linear_td (t : TD) : (linear t).td = t := rfl

theorem Run.scatterStore_linear {padw : Bool} : r.scatterStore (linear src) (linear dst) dim targets padw =
    (List.range src.rows).foldl (Run.scatterPut src dst dim targets) (if padw || dst.validIn (dst.cg - 1) == 32 then r
      else (List.range src.rows).foldl (Run.scatterPad src dst dim targets) r) := by
  unfold Run.scatterStore
  simp only [linear_td]
  congr 1
  · congr 1
    show List.foldl _ r _ = _
    congr 1
    funext r q
    unfold Run.scatterPad scatterTarget
    cases targets.getD ((src.row q).getD (dim - 1) 0) none <;> rfl
  · funext r q
    unfold Run.scatterPut scatterTarget
    cases targets.getD ((src.row q).getD (dim - 1) 0) none <;> rfl

/-! ## Where the source rows go -/

theorem TD.IsRow.index {t : TD} (isRow : t.IsRow row) (outer : 1 ≤ dim ∧ dim < t.rank) : row.getD (dim - 1) 0 < t.size dim := by
  have := isRow.2 (dim - 1) (by omega)
  rwa [Nat.sub_add_cancel outer.1] at this

section
variable (slices : ∀ i, i < src.size dim → targets.getD i none = a.sliceOf idx ki (dst.size dim) i) (alike : Alike src dst dim) (sized : src.Sized)
include slices alike sized

theorem scatterTarget_eq_some : scatterTarget src dim targets q = some row ↔
    ∃ k : Nat, (a.namedAt idx ki ((src.row q).getD (dim - 1) 0) = k ∧ k < dst.size dim) ∧ (src.row q).set (dim - 1) k = row := by
  rw [scatterTarget, slices _ ((sized.row_isRow q).index alike.outer), Option.map_eq_some_iff]
  simp only [Hw.sliceOf_eq_some]

/-- A source row goes to a row of the destination. -/
theorem scatterTarget_isRow (goes : scatterTarget src dim targets q = some row) : dst.IsRow row := by
  obtain ⟨k, ⟨-, within⟩, rfl⟩ := (scatterTarget_eq_some slices alike sized).1 goes
  exact (sized.row_isRow q).set alike.rank alike.outer.1 (fun m low other => (alike.sizes m (alike.rank ▸ low) other).symm) within

/-- The source rows that go to a destination row are its own in the slices whose index names its slice. -/
theorem filter_scatterTarget (isRow : dst.IsRow row) : (List.range src.rows).filter (fun q => scatterTarget src dim targets q == some row) =
    (a.hits src idx ki dim row).map fun i => src.rowNumber (row.set (dim - 1) i) := by
  obtain ⟨one, outer⟩ := alike.outer
  have len : row.length + 1 = src.rank := isRow.1.trans alike.rank
  have own (i : Nat) (within : i < src.size dim) := sized.row_of (isRow.set alike.rank.symm one alike.sizes within)
  refine List.Pairwise.eq_of_mem_iff (r := (· < ·)) (List.pairwise_lt_range.filter _) ?_ fun q => ?_
  · refine List.Pairwise.map _ (fun i j less => ?_) (List.pairwise_lt_range.filter _)
    exact sized.rowNumber_set_lt len (by omega) less
  · simp only [List.mem_filter, List.mem_range, beq_iff_eq, List.mem_map, Hw.hits, decide_eq_true_eq, scatterTarget_eq_some slices alike sized]
    constructor
    · rintro ⟨low, k, ⟨named, within⟩, rfl⟩
      have index := (sized.row_isRow q).index alike.outer
      have long : dim - 1 < (src.row q).length := by
        have := (sized.row_isRow q).1
        omega
      refine ⟨(src.row q).getD (dim - 1) 0, ⟨index, ?_⟩, ?_⟩
      · rw [named, getD_set_self long]
      · rw [List.set_set, set_getD_self, TD.rowNumber_row low]
    · rintro ⟨i, ⟨within, named⟩, rfl⟩
      obtain ⟨names, low⟩ := own i within
      have long : dim - 1 < row.length := by omega
      refine ⟨low, row.getD (dim - 1) 0, ⟨?_, isRow.index ⟨one, alike.rank ▸ outer⟩⟩, ?_⟩
      · rw [names, getD_set_self long]
        exact named
      · rw [names, List.set_set, set_getD_self]

end

end

end Sys2Proof.Machine
end

section
/-! PROOFS. What SCATTER's STORE writes (04 R117-R119), continued: the runs. -/

namespace Sys2Proof.Machine

section
variable {h a : Hw} {ring die ctx dim q : Nat} {c : Cmd} {env : Env} {src dst idx : TD} {ks kd ki : List Nat → Nat → Nat} {r : Run}
  {targets : List (Option Nat)}

theorem TD.row_inj {t : TD} {p m : Nat} (hp : p < t.rows) (hm : m < t.rows) : t.row p = t.row m ↔ m = p :=
  ⟨fun same => by rw [← TD.rowNumber_row hm, ← same, TD.rowNumber_row hp], fun same => by rw [same]⟩

theorem Run.scatterPad_ok (goes : (r.scatterPad src dst dim targets q).ok = true) : r.ok = true := by
  unfold Run.scatterPad at goes
  split at goes
  · exact Run.put_linear_ok goes
  · exact goes

theorem Run.scatterPut_ok (plain : src.scaleFmt = 0) (goes : (r.scatterPut src dst dim targets q).ok = true) : r.ok = true := by
  unfold Run.scatterPut at goes
  split at goes
  · exact Run.foldl_ok goes fun _ _ goes => (Run.moveGroup_ok plain goes).2
  · exact goes

/-- The groups of a source row go to a destination row. -/
theorem Run.Moves.moveRow {p : Nat} (moves : r.Moves a die ctx dst kd) (reads : a.Lies die ctx false src fixed ks)
    (writes : a.Lies die ctx true dst fixed kd) (apart : dst.apart kd) (elem : dst.elem = src.elem) (width : src.size 0 = dst.size 0)
    (hq : q < src.rows) (hp : p < dst.rows)
    (goes : ((List.range src.cg).foldl (fun r k => r.moveGroup src dst (src.row q) (dst.row p) k (·.marks)) r).ok = true) :
    ((List.range src.cg).foldl (fun r k => r.moveGroup src dst (src.row q) (dst.row p) k (·.marks)) r).Moves a die ctx dst kd ∧
    ∀ m ch, m < dst.rows → ch < dst.size 0 →
      ((List.range src.cg).foldl (fun r k => r.moveGroup src dst (src.row q) (dst.row p) k (·.marks)) r).codeOf dst kd (dst.row m) ch =
        if m = p then a.elemAt src ks (src.row q) ch else r.codeOf dst kd (dst.row m) ch := by
  have groups : src.cg = dst.cg := by rw [TD.cg, TD.cg, width]
  obtain ⟨after, codes⟩ := Run.foldl_codes (good := Run.Moves a die ctx dst kd) (slot := fun s : Nat × Nat => s.1 < dst.rows ∧ s.2 < dst.size 0)
    (code := fun r s => r.codeOf dst kd (dst.row s.1) s.2) (hit := fun k s => decide (s.1 = p) && k == s.2 / 32)
    (change := fun _ s _ => a.elemAt src ks (src.row q) s.2)
    (fun r k mem moves goes => by
      obtain ⟨after, each⟩ := moves.moveGroup reads writes apart elem width hq hp (groups ▸ List.mem_range.1 mem) goes
      refine ⟨after, fun s here => (each s.1 s.2 here.1 here.2).trans ?_⟩
      simp only [Bool.and_eq_true, decide_eq_true_eq, beq_iff_eq, eq_comm (a := s.2 / 32)])
    (fun _ _ goes => (Run.moveGroup_ok reads.plain.2 goes).2) moves goes
  refine ⟨after, fun m ch hm inside => (codes (m, ch) ⟨hm, inside⟩).trans ?_⟩
  split
  next here =>
    simp only [here, decide_true, Bool.true_and]
    rw [filter_beq_of_mem List.nodup_range (List.mem_range.2 (groups ▸ TD.cg_lt inside))]
    rfl
  next other => simp [other]

section
variable (slices : ∀ i, i < src.size dim → targets.getD i none = a.sliceOf idx ki (dst.size dim) i) (alike : Alike src dst dim)
  (moves : r.Moves a die ctx dst kd) (writes : a.Lies die ctx true dst fixed kd) (apart : dst.apart kd)
include slices alike moves writes apart

theorem Run.Moves.scatterPut (reads : a.Lies die ctx false src fixed ks) (hq : q < src.rows)
    (goes : (r.scatterPut src dst dim targets q).ok = true) :
    (r.scatterPut src dst dim targets q).Moves a die ctx dst kd ∧ ∀ m ch, m < dst.rows → ch < dst.size 0 →
      (r.scatterPut src dst dim targets q).codeOf dst kd (dst.row m) ch =
        if scatterTarget src dim targets q == some (dst.row m) then a.elemAt src ks (src.row q) ch else r.codeOf dst kd (dst.row m) ch := by
  unfold Run.scatterPut at goes ⊢
  cases target : scatterTarget src dim targets q with
  | none => exact ⟨moves, fun _ _ _ _ => rfl⟩
  | some row =>
    rw [target] at goes
    dsimp only at goes ⊢
    obtain ⟨names, within⟩ := TD.Sized.row_of (t := dst) writes.sizes (scatterTarget_isRow slices alike reads.sizes target)
    rw [← names] at goes ⊢
    obtain ⟨after, codes⟩ := moves.moveRow reads writes apart alike.elem (alike.sizes 0 reads.sizes.1 (by have := alike.outer.1; omega)) hq within goes
    refine ⟨after, fun m ch hm inside => (codes m ch hm inside).trans ?_⟩
    simp only [beq_iff_eq, Option.some.injEq, TD.row_inj within hm]

theorem Run.Moves.scatterPad (sized : src.Sized) (goes : (r.scatterPad src dst dim targets q).ok = true) :
    (r.scatterPad src dst dim targets q).Moves a die ctx dst kd ∧ ∀ m ch, m < dst.rows → ch < dst.size 0 →
      scatterTarget src dim targets q ≠ some (dst.row m) →
      (r.scatterPad src dst dim targets q).codeOf dst kd (dst.row m) ch = r.codeOf dst kd (dst.row m) ch := by
  unfold Run.scatterPad at goes ⊢
  cases target : scatterTarget src dim targets q with
  | none => exact ⟨moves, fun _ _ _ _ _ => rfl⟩
  | some row =>
    rw [target] at goes
    dsimp only at goes ⊢
    obtain ⟨names, within⟩ := TD.Sized.row_of (t := dst) writes.sizes (scatterTarget_isRow slices alike sized target)
    rw [← names] at goes ⊢
    have last : dst.cg - 1 < dst.cg := by
      have := TD.Sized.cg_pos writes.sizes
      omega
    refine ⟨moves.put writes within last (by simp) goes, fun m ch hm inside other => ?_⟩
    exact (moves.lies writes).put_elsewhere apart within last (by simp) hm inside (fun here => other (by rw [here.1])) goes

/-- The padding of a STORE leaves the elements of a row that no source row goes to. -/
theorem Run.Moves.scatterPads {padw : Bool} (sized : src.Sized) (goes : (if padw || dst.validIn (dst.cg - 1) == 32 then r
      else (List.range src.rows).foldl (Run.scatterPad src dst dim targets) r).ok = true) :
    (if padw || dst.validIn (dst.cg - 1) == 32 then r else (List.range src.rows).foldl (Run.scatterPad src dst dim targets) r).Moves a die ctx dst kd ∧
    ∀ m ch, m < dst.rows → ch < dst.size 0 → (∀ q, q < src.rows → scatterTarget src dim targets q ≠ some (dst.row m)) →
      (if padw || dst.validIn (dst.cg - 1) == 32 then r else (List.range src.rows).foldl (Run.scatterPad src dst dim targets) r).codeOf
        dst kd (dst.row m) ch = r.codeOf dst kd (dst.row m) ch := by
  split at goes
  next unpadded =>
    rw [if_pos unpadded]
    exact ⟨moves, fun _ _ _ _ _ => rfl⟩
  next padded =>
    rw [if_neg padded]
    refine Run.foldl_keeps (good := fun q => q.Moves a die ctx dst kd ∧ ∀ m ch, m < dst.rows → ch < dst.size 0 →
      (∀ q, q < src.rows → scatterTarget src dim targets q ≠ some (dst.row m)) → q.codeOf dst kd (dst.row m) ch = r.codeOf dst kd (dst.row m) ch)
      (fun p q mem good goes => ?_) (fun _ _ => Run.scatterPad_ok) ⟨moves, fun _ _ _ _ _ => rfl⟩ goes
    obtain ⟨after, same⟩ := good.1.scatterPad slices alike writes apart sized goes
    exact ⟨after, fun m ch hm inside none => (same m ch hm inside (none q (List.mem_range.1 mem))).trans (good.2 m ch hm inside none)⟩

/-- Every element of a STORE's destination comes to the last source element whose index names its slice, or stays. -/
theorem Run.Moves.scatterStore {padw : Bool} (reads : a.Lies die ctx false src fixed ks)
    (goes : (r.scatterStore (linear src) (linear dst) dim targets padw).ok = true) :
    (r.scatterStore (linear src) (linear dst) dim targets padw).Moves a die ctx dst kd ∧ ∀ m ch, m < dst.rows → ch < dst.size 0 →
      (r.scatterStore (linear src) (linear dst) dim targets padw).codeOf dst kd (dst.row m) ch =
        match (a.hits src idx ki dim (dst.row m)).getLast? with
        | some i => a.elemAt src ks ((dst.row m).set (dim - 1) i) ch
        | none => r.codeOf dst kd (dst.row m) ch := by
  have sized : src.Sized := reads.sizes
  have dstSized : dst.Sized := writes.sizes
  rw [Run.scatterStore_linear] at goes ⊢
  obtain ⟨padded, kept⟩ := moves.scatterPads slices alike writes apart sized (Run.foldl_ok goes fun _ _ => Run.scatterPut_ok reads.plain.2)
  obtain ⟨after, codes⟩ := Run.foldl_codes (good := Run.Moves a die ctx dst kd) (slot := fun s : Nat × Nat => s.1 < dst.rows ∧ s.2 < dst.size 0)
    (code := fun r s => r.codeOf dst kd (dst.row s.1) s.2) (hit := fun q s => scatterTarget src dim targets q == some (dst.row s.1))
    (change := fun q s _ => a.elemAt src ks (src.row q) s.2)
    (fun r q mem moves goes => by
      obtain ⟨after, each⟩ := moves.scatterPut slices alike writes apart reads (List.mem_range.1 mem) goes
      exact ⟨after, fun s here => each s.1 s.2 here.1 here.2⟩)
    (fun _ _ => Run.scatterPut_ok reads.plain.2) padded goes
  refine ⟨after, fun m ch hm inside => (codes (m, ch) ⟨hm, inside⟩).trans ?_⟩
  have rows := filter_scatterTarget slices alike sized (dstSized.row_isRow m)
  rw [foldl_last, rows, List.getLast?_map]
  cases last : (a.hits src idx ki dim (dst.row m)).getLast? with
  | none =>
    rw [List.getLast?_eq_none_iff] at last
    rw [last, List.map_nil, List.filter_eq_nil_iff] at rows
    exact kept m ch hm inside fun q low here => rows q (List.mem_range.2 low) (beq_iff_eq.2 here)
  | some i =>
    have within : i < src.size dim := List.mem_range.1 (List.mem_filter.1 (List.mem_of_getLast? last)).1
    have isRow := (dstSized.row_isRow m).set alike.rank.symm alike.outer.1 alike.sizes within
    show a.elemAt src ks (src.row (src.rowNumber _)) ch = _
    rw [(sized.row_of isRow).1]

end

theorem Hw.scatterRun_linear (source : slotTd c.tds 0 = some src) (target : slotTd c.tds 1 = some dst) (index : slotTd c.tds 2 = some idx)
    (plain : src.owned = false ∧ dst.owned = false) :
    let z := (h.moveRun ring c true env).indices idx
    let targets := z.1.map fun k => if k.2 || decide (k.1 < 0) || decide ((dst.size (c.f 0x30 1) : Int) ≤ k.1) then none else some k.1.toNat
    (h.scatterRun ring c env).2 = z.1.any (·.2) ∧ ∃ n, (h.scatterRun ring c env).1 =
      if c.f 0x32 1 = 0 then (z.2.ranged n).scatterStore (linear src) (linear dst) (c.f 0x30 1) targets ((c.f 0x31 1).testBit 0)
      else (z.2.ranged n).scatterAdd (linear src) (linear dst) (c.f 0x30 1) (c.f 0x32 1) ((c.f 0x31 1).testBit 1) targets := by
  intro z targets
  let r := z.2.ranged (z.2.range + (targets.filter fun (x : Option Nat) => x.isNone).length)
  have run : h.scatterRun ring c env = (if c.f 0x32 1 = 0
      then r.scatterStore (linear src) (linear dst) (c.f 0x30 1) targets ((c.f 0x31 1).testBit 0)
      else r.scatterAdd (linear src) (linear dst) (c.f 0x30 1) (c.f 0x32 1) ((c.f 0x31 1).testBit 1) targets, z.1.any (·.2)) := by
    unfold Hw.scatterRun
    rw [Run.slotView_linear source plain.1]
    dsimp only
    rw [Run.slotView_linear target plain.2, index]
    rfl
  rw [run]
  exact ⟨rfl, _, rfl⟩

end

end Sys2Proof.Machine
end

section
/-! SUPPORT. What a memory-side adder leaves (04 R119; 08 R210, R219). -/

namespace Sys2Proof.Machine

/-! ## The elements that are added to -/

/-- Memory after elements from number `i` on are combined with operand elements. -/
def addCells (k op e : Nat) (grad : Bool) : List Host.Cell → Nat → List (Option Nat) → List Host.Cell
  | m, _, [] => m
  | m, i, none :: l => addCells k op e grad m (i + 1) l
  | m, i, some v :: l =>
    let w := elemBits e / 8
    addCells k op e grad (cellWrite m (k + w * i) (toLe w (addElem op e grad (leNat (cellRead m (k + w * i) w)) v).code)) (i + 1) l

section
variable {m : List Host.Cell} {h : Hw} {k op e i j x u v : Nat} {grad : Bool} {cells : List (Option Nat)}

theorem addCells_wf (wf : Memory.wf m = true) : Memory.wf (addCells k op e grad m i cells) = true := by
  induction cells generalizing m i with
  | nil => exact wf
  | cons c l ih =>
    cases c with
    | none => exact ih wf
    | some v => exact ih (Memory.wf_write _ _ wf)

/-- The elements from a number on are added to, and no byte before them. -/
theorem addCells_before (before : x < k + elemBits e / 8 * i) : cellGet (addCells k op e grad m i cells) x = cellGet m x := by
  have more : elemBits e / 8 * (i + 1) = elemBits e / 8 * i + elemBits e / 8 := Nat.mul_succ _ _
  induction cells generalizing m i with
  | nil => rfl
  | cons c l ih =>
    have rest (m : List Host.Cell) := ih (m := m) (i := i + 1) (by omega) (Nat.mul_succ _ _)
    cases c with
    | none => exact rest m
    | some v => exact (rest _).trans (cellGet_write_other _ (.inl before) m)

/-- An element that is added to, as it reads. -/
theorem addCells_code (wf : Memory.wf m = true) (at_ : cells[j]? = some (some v)) :
    let w := elemBits e / 8
    leNat (cellRead (addCells k op e grad m i cells) (k + w * (i + j)) w) =
      (addElem op e grad (leNat (cellRead m (k + w * (i + j)) w)) v).code % 256 ^ w := by
  intro w
  have more : w * (i + 1) = w * i + w := Nat.mul_succ _ _
  induction cells generalizing m i j with
  | nil => cases at_
  | cons c l ih =>
    cases j with
    | zero =>
      obtain rfl : c = some v := Option.some.inj at_
      have kept := cellRead_congr (m := cellWrite m (k + w * i) (toLe w (addElem op e grad (leNat (cellRead m (k + w * i) w)) v).code))
        (m' := addCells k op e grad m i (some v :: l)) (k + w * i) w fun x _ high => addCells_before (show x < k + w * (i + 1) by omega)
      have wrote := cellRead_write (k + w * i) (toLe w (addElem op e grad (leNat (cellRead m (k + w * i) w)) v).code) wf
      rw [toLe_length] at wrote
      rw [Nat.add_zero, kept, wrote, leNat_toLe]
    | succ j =>
      have place : i + (j + 1) = i + 1 + j := by omega
      have apart : w * i + w ≤ w * (i + 1 + j) := by
        rw [← more]
        exact Nat.mul_le_mul_left w (by omega)
      rw [place]
      cases c with
      | none => exact ih wf at_ (Nat.mul_succ _ _)
      | some y =>
        refine (ih (Memory.wf_write _ _ wf) at_ (Nat.mul_succ _ _)).trans ?_
        rw [cellRead_congr (m := m) _ _ fun x (low : k + w * (i + 1 + j) ≤ x) _ => cellGet_write_other _ (.inr (by
          rw [toLe_length]
          show k + w * i + w ≤ x
          omega)) m]

theorem Hw.addAt_mem (po : List Nat) : (h.addAt k op e grad cells po).h.mem = addCells k op e grad h.mem 0 cells := by
  unfold Hw.addAt
  extract_lets w step y gs gs2
  have all (x : List Host.Cell × Nat × Nat) (i : Nat) : ((cells.zipIdx i).foldl step x).1 = addCells k op e grad x.1 i cells := by
    induction cells generalizing x i with
    | nil => rfl
    | cons c l ih => cases c <;> exact ih _ _
  exact all _ 0

/-- The formats that an adder takes have whole bytes. -/
theorem adderTakes_width (takes : adderTakes op e = true) : ∃ u, elemBits e = 8 * u ∧ 1 ≤ u ∧ 256 ^ u = 2 ^ elemBits e := by
  have one : e = 0 ∨ e = 1 ∨ e = 6 ∨ e = 11 := by
    simp [adderTakes] at takes
    omega
  obtain rfl | rfl | rfl | rfl := one
  · exact ⟨4, rfl, by decide, by decide⟩
  · exact ⟨2, rfl, by decide, by decide⟩
  · exact ⟨4, rfl, by decide, by decide⟩
  · exact ⟨8, rfl, by decide, by decide⟩

end

/-! ## A run that adds -/

theorem Hw.bare_dropLine {h : Hw} {die : Nat} (empty : (h.die die).rcLines = []) (k n : Nat) : (h.dropLine die k n).bare = h.bare :=
  h.bare_setDie_at die _ ⟨rfl, by simp [empty]⟩

section
variable {a : Hw} {die ctx k op e : Nat} {grad : Bool} {cells : List (Option Nat)} {po : List Bool} {r : Run}

theorem Run.addGroup_same (on : r.On a die ctx) :
    (r.addGroup k op e grad cells po).On a die ctx ∧ (r.addGroup k op e grad cells po).w = r.w ∧
    (r.addGroup k op e grad cells po).h.mem = addCells k op e grad r.h.mem 0 cells := by
  unfold Run.addGroup
  extract_lets q o
  obtain ⟨bare, w, die_, ctx_, -⟩ := r.meets_same (groupsOf k (groupBytes e))
  have mem : q.h.mem = r.h.mem := Hw.bare_mem bare
  have added : o.h.mem = addCells k op e grad r.h.mem 0 cells := by rw [← mem]; exact Hw.addAt_mem _
  have uncached : (o.h.die q.die).rcLines = [] := by
    show (q.h.die q.die).rcLines = []
    rw [Hw.bare_rcLines bare, die_]
    exact on.uncached
  have dropped := Hw.bare_dropLine uncached k (groupBytes e)
  refine ⟨⟨?_, die_.trans on.die, ctx_.trans on.ctx, ?_⟩, w, added⟩
  · have own : o.h.bare = { q.h.bare with mem := o.h.mem } := rfl
    show (o.h.dropLine q.die k (groupBytes e)).bare = { a.bare with mem := o.h.mem }
    rw [dropped, own, bare, on.bare]
  · exact (Hw.bare_rcLines dropped q.die).trans uncached

theorem Run.addGroup_ok : (r.addGroup k op e grad cells po).ok = r.ok := (r.meets_same (groupsOf k (groupBytes e))).2.2.2.2

end

end Sys2Proof.Machine
end

section
/-! PROOFS. What SCATTER's ADD, MAX and MIN leave (04 R119; 08 R219). -/

namespace Sys2Proof.Machine

/-- A run on the machine `a` that has changed a tensor in memory, and has nothing to write at its end. -/
structure Run.Adds (a : Hw) (die ctx : Nat) (t : TD) (key : List Nat → Nat → Nat) (r : Run) : Prop where
  on : r.On a die ctx
  bytes : r.w.bytes = []
  wf : Memory.wf r.h.mem = true
  beside : ∀ x, ¬ t.covers key x → cellGet r.h.mem x = cellGet a.mem x

/-- The channel groups of the source rows of a slice. -/
def slicePairs (src : TD) (dim i : Nat) : List (Nat × Nat) := (sliceRows src dim i).flatMap fun q => (List.range src.cg).map fun g => (q, g)

/-- A group of a source row is added where slice `k` of the destination holds the same group. -/
def Run.addPut (src : TD) (kd : List Nat → Nat → Nat) (dim op : Nat) (grad : Bool) (k : Nat) (r : Run) (x : Nat × Nat) : Run :=
  let y := r.grp (linear src) (src.row x.1) x.2
  if !y.2.ok then y.2
  else y.2.addGroup (kd ((src.row x.1).set (dim - 1) k) x.2) op src.elem grad
    (validCells src x.2 ((List.range 32).map (codeAt src.elem y.1.bytes))) y.1.marks

/-- What a SCATTER's adders do with a source slice. -/
def Run.addSlice (src dst : TD) (dim op : Nat) (grad : Bool) (targets : List (Option Nat)) (r : Run) (i : Nat) : Run :=
  match targets.getD i none with
  | none => r
  | some k =>
    if !r.ok then r
    else if r.addsWait (linear src) (linear dst) dim i k then { r with waits := true }
    else
      let keys := (sliceRows src dim i).flatMap fun q =>
        (List.range src.cg).map fun g => (q, g, r.hbmKey (dst.base.toNat + (dst.rowGroup ((src.row q).set (dim - 1) k) + g) * dst.b))
      match keys.findSome? fun x => match x.2.2 with | .error f => some f | .ok _ => none with
      | some f => { r with fail := some f }
      | none =>
        if keys.any fun x => match x.2.2 with | .ok (some _) => false | _ => true then { r with range := r.range + 1 }
        else keys.foldl (fun r x =>
          match x.2.2 with
          | .ok (some key) =>
            let y := r.grp (linear src) (src.row x.1) x.2.1
            if !y.2.ok then y.2
            else y.2.addGroup key op src.elem grad (validCells src x.2.1 ((List.range 32).map (codeAt src.elem y.1.bytes))) y.1.marks
          | _ => r) r

section
variable {h a : Hw} {ring die ctx dim op q g i k : Nat} {grad : Bool} {c : Cmd} {env : Env} {src dst idx : TD}
  {ks kd ki : List Nat → Nat → Nat} {r s : Run} {targets : List (Option Nat)}

theorem Run.scatterAdd_linear : r.scatterAdd (linear src) (linear dst) dim op grad targets =
    (List.range (src.size dim)).foldl (Run.addSlice src dst dim op grad targets) r := rfl

theorem Run.Adds.byte (adds : r.Adds a die ctx dst kd) (x : Nat) : r.byte x = cellGet r.h.mem x := by
  simp [Run.byte, Run.byteAfter, adds.bytes]

theorem Run.Adds.codeOf (adds : r.Adds a die ctx dst kd) (row : List Nat) (ch : Nat) : r.codeOf dst kd row ch = r.h.elemAt dst kd row ch := by
  simp only [Run.codeOf, Hw.elemAt, Hw.memRead, cellRead_eq_map, adds.byte]

theorem Run.Adds.read (adds : r.Adds a die ctx dst kd) (leads : r.Then [] s) : s.Adds a die ctx dst kd := by
  refine ⟨adds.on.then leads, ?_, ?_, ?_⟩
  · rw [leads.bytes, adds.bytes]
    rfl
  · rw [leads.mem]
    exact adds.wf
  · rw [leads.mem]
    exact adds.beside

/-! ## A group -/

theorem Run.addPut_ok (plain : src.scaleFmt = 0) {x : Nat × Nat} (goes : (r.addPut src kd dim op grad k x).ok = true) :
    (r.grp (linear src) (src.row x.1) x.2).2.ok = true ∧ r.ok = true := by
  have read : (r.grp (linear src) (src.row x.1) x.2).2.ok = true := by
    unfold Run.addPut at goes
    dsimp only at goes
    split at goes
    · exact goes
    · rwa [Run.addGroup_ok] at goes
  exact ⟨read, Run.grp_ok plain read⟩

/-- An operand element is combined with the old one and goes back in its format. -/
def combine (op e : Nat) (grad : Bool) (old new : Nat) : Nat := (addElem op e grad old new).code % 2 ^ elemBits e

section
variable {p : Nat} {cells : List (Option Nat)} {po : List Bool}

/-- An add to a group changes no byte beside it. -/
theorem Run.Adds.addGroup_beside {x : Nat} (adds : r.Adds a die ctx dst kd) (takes : adderTakes op dst.elem = true) (count : cells.length = 32)
    (out : x < k ∨ k + dst.b ≤ x) : cellGet (r.addGroup k op dst.elem grad cells po).h.mem x = cellGet r.h.mem x := by
  obtain ⟨u, wide, -⟩ := adderTakes_width takes
  have size : elemBits dst.elem / 8 * cells.length = dst.b := by
    rw [count, TD.b, groupBytes]
    omega
  rw [(Run.addGroup_same adds.on).2.2, ← Hw.addAt_mem []]
  exact r.h.addAt_other (by rwa [size])

theorem Run.Adds.addGroup (adds : r.Adds a die ctx dst kd) (takes : adderTakes op dst.elem = true) (count : cells.length = 32) (hp : p < dst.rows)
    (hg : g < dst.cg) : (r.addGroup (kd (dst.row p) g) op dst.elem grad cells po).Adds a die ctx dst kd := by
  obtain ⟨on, w, mem⟩ := Run.addGroup_same (k := kd (dst.row p) g) (op := op) (e := dst.elem) (grad := grad) (cells := cells) (po := po) adds.on
  refine ⟨on, w ▸ adds.bytes, ?_, fun x none => ?_⟩
  · rw [mem]
    exact addCells_wf adds.wf
  · refine (adds.addGroup_beside takes count ?_).trans (adds.beside x none)
    by_contra inside
    exact none ⟨p, g, hp, hg, by omega, by omega⟩

/-- An add to a group combines its elements with their operands, and leaves every other its code. -/
theorem Run.Adds.addGroup_codes {code : Nat → Nat} (adds : r.Adds a die ctx dst kd) (apart : dst.apart kd) (takes : adderTakes op dst.elem = true)
    (count : cells.length = 32) (each : ∀ ch, ch < dst.size 0 → ch / 32 = g → cells[ch % 32]? = some (some (code ch))) (hp : p < dst.rows)
    (hg : g < dst.cg) {m ch : Nat} (hm : m < dst.rows) (inside : ch < dst.size 0) :
    (r.addGroup (kd (dst.row p) g) op dst.elem grad cells po).codeOf dst kd (dst.row m) ch =
      if m = p ∧ ch / 32 = g then combine op dst.elem grad (r.codeOf dst kd (dst.row m) ch) (code ch) else r.codeOf dst kd (dst.row m) ch := by
  have after := adds.addGroup (op := op) (grad := grad) (po := po) takes count hp hg
  rw [after.codeOf, adds.codeOf]
  split
  next here =>
    obtain ⟨rfl, rfl⟩ := here
    obtain ⟨u, wide, one, bytes⟩ := adderTakes_width takes
    have per : elemBits dst.elem / 8 = u := by omega
    have fits : ch % 32 * u + u ≤ dst.b := by
      have := Nat.mul_le_mul_right u (show ch % 32 + 1 ≤ 32 by omega)
      rw [Nat.succ_mul] at this
      unfold TD.b groupBytes
      omega
    have sum := addCells_code (k := kd (dst.row m) (ch / 32)) (op := op) (e := dst.elem) (grad := grad) (i := 0) adds.wf (each ch inside rfl)
    rw [per, ← (Run.addGroup_same (po := po) adds.on).2.2] at sum
    dsimp only at sum
    rw [Nat.zero_add, Nat.mul_comm u, bytes] at sum
    simp only [Hw.elemAt, Hw.memRead, codeAt_cellRead wide one _ _ fits]
    exact sum
  next other =>
    have := apart m (ch / 32) p g hm (TD.cg_lt inside) hp hg (by simpa using other)
    exact congrArg (codeAt dst.elem · _) (cellRead_congr _ _ fun x low high => adds.addGroup_beside takes count (by omega))

/-- A group of the source is added to a row of the destination. -/
theorem Run.Adds.addPut (adds : r.Adds a die ctx dst kd) (reads : a.Lies die ctx false src (dst.covers kd) ks) (apart : dst.apart kd)
    (clear : ∀ x, src.covers ks x → ¬ dst.covers kd x) (takes : adderTakes op dst.elem = true) (elem : dst.elem = src.elem)
    (width : src.size 0 = dst.size 0) (hq : q < src.rows) (hp : p < dst.rows) (hg : g < src.cg) (names : dst.row p = (src.row q).set (dim - 1) k)
    (goes : (r.addPut src kd dim op grad k (q, g)).ok = true) :
    (r.addPut src kd dim op grad k (q, g)).Adds a die ctx dst kd ∧ ∀ m ch, m < dst.rows → ch < dst.size 0 →
      (r.addPut src kd dim op grad k (q, g)).codeOf dst kd (dst.row m) ch =
        if m = p ∧ ch / 32 = g then combine op dst.elem grad (r.codeOf dst kd (dst.row m) ch) (a.elemAt src ks (src.row q) ch)
        else r.codeOf dst kd (dst.row m) ch := by
  have readOk := (Run.addPut_ok reads.plain.2 goes).1
  have hg' : g < dst.cg := by
    unfold TD.cg at hg ⊢
    omega
  have lies := reads.run adds.on adds.beside
  have leads := (lies.grp adds.on.uncached hq hg readOk).1
  have codes (j : Nat) (valid : j < src.validIn g) := lies.grp_code adds.on.uncached hq hg readOk valid
  have kept : r.h.memRead (ks (src.row q) g) src.b = a.memRead (ks (src.row q) g) src.b :=
    cellRead_congr _ _ fun x low high => adds.beside x (clear x ⟨q, g, hq, hg, low, high⟩)
  unfold Run.addPut
  simp only [readOk, Bool.not_true, Bool.false_eq_true, if_false, ← names, ← elem]
  refine ⟨(adds.read leads).addGroup takes (validCells_length ..) hp hg', fun m ch hm inside => ?_⟩
  rw [(adds.read leads).addGroup_codes (code := fun ch => a.elemAt src ks (src.row q) ch) apart takes (validCells_length ..)
    (fun ch inside here => ?_) hp hg' hm inside, leads.codeOf_same]
  subst here
  rw [validCells_at (by omega)]
  have low : ch % 32 < 32 := Nat.mod_lt _ (by decide)
  have valid : ch % 32 < src.validIn (ch / 32) := TD.valid_lt (by omega)
  simp [List.getD_eq_getElem?_getD, elem, low, codes _ valid, kept, Hw.elemAt]

end

end

end Sys2Proof.Machine
end

section
/-! PROOFS. What SCATTER's ADD, MAX and MIN leave (04 R119; 08 R219), continued: the slices. -/

namespace Sys2Proof.Machine

section
variable {h a : Hw} {ring die ctx dim op i k : Nat} {grad : Bool} {c : Cmd} {env : Env} {src dst idx : TD}
  {ks kd ki : List Nat → Nat → Nat} {r : Run} {targets : List (Option Nat)}

/-- The key of an address of this module's HBM, where its translation does not fail. -/
theorem Run.hbmKey_owns {cva key : Nat} (owns : r.Owns cva true key) (hbm : keySpace key = 0) (sound : ∀ f, r.hbmKey cva ≠ .error f) :
    r.hbmKey cva = .ok (some key) := by
  obtain ⟨nc, x, leads⟩ := owns
  unfold Run.hbmKey at sound ⊢
  cases translated : r.h.translate r.die r.ctx cva true with
  | error f =>
    rw [translated] at sound
    exact absurd rfl (sound f)
  | ok y =>
    obtain rfl : y = (.own key nc, x) := Except.ok.inj ((Hw.translate_bare translated).symm.trans leads)
    simp [hbm]

/-- A slice that goes nowhere changes nothing. -/
theorem Run.addSlice_none (target : targets.getD i none = none) : r.addSlice src dst dim op grad targets i = r := by
  unfold Run.addSlice
  rw [target]

theorem Run.addSlice_ok (goes : (r.addSlice src dst dim op grad targets i).ok = true) : r.ok = true := by
  by_contra stopped
  rw [Bool.not_eq_true] at stopped
  have still : r.addSlice src dst dim op grad targets i = r := by
    cases target : targets.getD i none with
    | none => exact Run.addSlice_none target
    | some k =>
      unfold Run.addSlice
      rw [target]
      exact if_pos (by rw [stopped]; rfl)
  rw [still, stopped] at goes
  cases goes

/-- The keys of a slice's groups, as a step of a SCATTER finds them. -/
theorem sliceKeys (f : Nat → Nat → Except (Nat × Nat) (Option Nat)) :
    ((sliceRows src dim i).flatMap fun q => (List.range src.cg).map fun g => (q, g, f q g)) =
      (slicePairs src dim i).map fun x => (x.1, x.2, f x.1 x.2) := by
  simp [slicePairs, List.map_flatMap, Function.comp_def]

theorem mem_slicePairs {x : Nat × Nat} :
    x ∈ slicePairs src dim i ↔ (x.1 < src.rows ∧ (src.row x.1).getD (dim - 1) 0 = i) ∧ x.2 < src.cg := by
  obtain ⟨q, g⟩ := x
  simp [slicePairs, sliceRows]

/-- A slice that goes to slice `k` is added group by group. -/
theorem Run.addSlice_eq (target : targets.getD i none = some k) (lies : r.Lies true dst kd) (hbm : ∀ x, dst.covers kd x → keySpace x = 0)
    (rows : ∀ x ∈ slicePairs src dim i, x.2 < dst.cg ∧ ∃ p, p < dst.rows ∧ dst.row p = (src.row x.1).set (dim - 1) k)
    (goes : (r.addSlice src dst dim op grad targets i).ok = true) :
    r.addSlice src dst dim op grad targets i = (slicePairs src dim i).foldl (Run.addPut src kd dim op grad k) r := by
  have ok := Run.addSlice_ok goes
  unfold Run.addSlice at goes ⊢
  rw [target] at goes ⊢
  simp only [ok, Bool.not_true, Bool.false_eq_true, if_false, sliceKeys] at goes ⊢
  split at goes
  next => simp [Run.ok] at goes
  next going =>
    rw [if_neg going]
    split at goes
    next => simp [Run.ok] at goes
    next sound =>
      have keys : ((slicePairs src dim i).map fun x =>
          (x.1, x.2, r.hbmKey (dst.base.toNat + (dst.rowGroup ((src.row x.1).set (dim - 1) k) + x.2) * dst.b))) =
          (slicePairs src dim i).map fun x => (x.1, x.2, .ok (some (kd ((src.row x.1).set (dim - 1) k) x.2))) := by
        refine List.map_congr_left fun x mem => ?_
        obtain ⟨hg, p, hp, names⟩ := rows x mem
        have owns := lies.place p x.2 0 hp hg dst.b_pos
        rw [names] at owns
        have covered : dst.covers kd (kd ((src.row x.1).set (dim - 1) k) x.2) :=
          ⟨p, x.2, hp, hg, by rw [names], by rw [names]; exact Nat.lt_add_of_pos_right dst.b_pos⟩
        have key := Run.hbmKey_owns owns (hbm _ covered)
          fun f fails => by
            have := List.findSome?_eq_none_iff.1 sound _ (List.mem_map_of_mem mem)
            rw [← Nat.add_zero (dst.base.toNat + _), fails] at this
            cases this
        rw [← Nat.add_zero (dst.base.toNat + _), key]
        rfl
      rw [keys, if_neg (by simp), List.foldl_map]
      rfl

/-! ## A slice -/

theorem slicePairs_nodup (src : TD) (dim i : Nat) : (slicePairs src dim i).Nodup :=
  (List.nodup_range.filter _).product List.nodup_range

/-- The one group of a slice that goes to a group of a destination row, if the slice goes to the row's. -/
theorem filter_slicePairs {row : List Nat} {g : Nat} (alike : Alike src dst dim) (sized : src.Sized) (isRow : dst.IsRow row) (hi : i < src.size dim)
    (hg : g < src.cg) : (slicePairs src dim i).filter (fun x => decide (row = (src.row x.1).set (dim - 1) k) && x.2 == g) =
      if k = row.getD (dim - 1) 0 then [(src.rowNumber (row.set (dim - 1) i), g)] else [] := by
  obtain ⟨one, outer⟩ := alike.outer
  have long : dim - 1 < row.length := by
    have := isRow.1
    have := alike.rank
    omega
  have sliced (x : Nat × Nat) (mem : x ∈ slicePairs src dim i) : (src.row x.1).set (dim - 1) i = src.row x.1 := by
    rw [← (mem_slicePairs.1 mem).1.2, set_getD_self]
  split
  next here =>
    obtain ⟨names, low⟩ := sized.row_of (isRow.set alike.rank.symm one alike.sizes hi)
    have mem : (src.rowNumber (row.set (dim - 1) i), g) ∈ slicePairs src dim i := by
      refine mem_slicePairs.2 ⟨⟨low, ?_⟩, hg⟩
      rw [names, getD_set_self long]
    rw [← filter_beq_of_mem (slicePairs_nodup src dim i) mem]
    refine List.filter_congr fun x inside => ?_
    rw [Bool.eq_iff_iff, Bool.and_eq_true, decide_eq_true_eq, beq_iff_eq, beq_iff_eq, Prod.ext_iff]
    refine and_congr_left fun _ => ⟨fun same => ?_, fun same => ?_⟩
    · rw [same, List.set_set, sliced x inside, TD.rowNumber_row (mem_slicePairs.1 inside).1.1]
    · rw [same, names, List.set_set, here, set_getD_self]
  next other =>
    refine List.filter_eq_nil_iff.2 fun x inside hit => other ?_
    rw [Bool.and_eq_true, decide_eq_true_eq] at hit
    have : dim - 1 < (src.row x.1).length := by
      have := (sized.row_isRow x.1).1
      omega
    rw [hit.1, getD_set_self this]

section
variable (slices : ∀ i, i < src.size dim → targets.getD i none = a.sliceOf idx ki (dst.size dim) i) (alike : Alike src dst dim)
  (adds : r.Adds a die ctx dst kd) (reads : a.Lies die ctx false src (dst.covers kd) ks) (writes : a.Lies die ctx true dst (dst.covers kd) kd)
  (apart : dst.apart kd) (clear : ∀ x, src.covers ks x → ¬ dst.covers kd x) (hbm : ∀ x, dst.covers kd x → keySpace x = 0)
  (takes : adderTakes op dst.elem = true)
include slices alike adds reads writes apart clear hbm takes

/-- A slice is added to the slice that its index names. -/
theorem Run.Adds.addSlice (hi : i < src.size dim) (goes : (r.addSlice src dst dim op grad targets i).ok = true) :
    (r.addSlice src dst dim op grad targets i).Adds a die ctx dst kd ∧ ∀ m ch, m < dst.rows → ch < dst.size 0 →
      (r.addSlice src dst dim op grad targets i).codeOf dst kd (dst.row m) ch =
        if a.namedAt idx ki i = (dst.row m).getD (dim - 1) 0
        then combine op dst.elem grad (r.codeOf dst kd (dst.row m) ch) (a.elemAt src ks ((dst.row m).set (dim - 1) i) ch)
        else r.codeOf dst kd (dst.row m) ch := by
  have sized : src.Sized := reads.sizes
  have dstSized : dst.Sized := writes.sizes
  obtain ⟨one, outer⟩ := alike.outer
  have width : src.size 0 = dst.size 0 := alike.sizes 0 (by omega) (by omega)
  have groups : src.cg = dst.cg := by rw [TD.cg, TD.cg, width]
  have slice := slices i hi
  cases target : targets.getD i none with
  | none =>
    rw [Run.addSlice_none target]
    refine ⟨adds, fun m ch hm inside => (if_neg fun named => ?_).symm⟩
    have index := (dstSized.row_isRow m).index ⟨one, alike.rank ▸ outer⟩
    rw [target, Hw.sliceOf_eq_some.2 ⟨named, index⟩] at slice
    cases slice
  | some k =>
    obtain ⟨named, within⟩ := Hw.sliceOf_eq_some.1 (slice.symm.trans target)
    have row (q : Nat) : ∃ p, p < dst.rows ∧ dst.row p = (src.row q).set (dim - 1) k := by
      obtain ⟨names, low⟩ := dstSized.row_of
        ((sized.row_isRow q).set alike.rank one (fun m low other => (alike.sizes m (alike.rank ▸ low) other).symm) within)
      exact ⟨_, low, names⟩
    have place (x : Nat × Nat) (mem : x ∈ slicePairs src dim i) := (groups ▸ (mem_slicePairs.1 mem).2 : x.2 < dst.cg)
    have whole := Run.addSlice_eq target (writes.run adds.on adds.beside) hbm
      (fun x mem => ⟨place x mem, row x.1⟩) goes
    rw [whole] at goes ⊢
    obtain ⟨after, codes⟩ := Run.foldl_codes (good := Run.Adds a die ctx dst kd) (slot := fun s : Nat × Nat => s.1 < dst.rows ∧ s.2 < dst.size 0)
      (code := fun r s => r.codeOf dst kd (dst.row s.1) s.2)
      (hit := fun x s => decide (dst.row s.1 = (src.row x.1).set (dim - 1) k) && x.2 == s.2 / 32)
      (change := fun x s old => combine op dst.elem grad old (a.elemAt src ks (src.row x.1) s.2))
      (fun r x mem adds goes => by
        obtain ⟨p, low, names⟩ := row x.1
        obtain ⟨⟨hq, -⟩, hg⟩ := mem_slicePairs.1 mem
        obtain ⟨after, each⟩ := adds.addPut reads apart clear takes alike.elem width hq low hg names goes
        refine ⟨after, fun s here => (each s.1 s.2 here.1 here.2).trans ?_⟩
        have same : (decide (dst.row s.1 = (src.row x.1).set (dim - 1) k) && x.2 == s.2 / 32) = true ↔ s.1 = p ∧ s.2 / 32 = x.2 := by
          rw [Bool.and_eq_true, decide_eq_true_eq, beq_iff_eq, ← names, eq_comm, TD.row_inj low here.1, eq_comm (a := x.2)]
        simp only [same])
      (fun _ _ goes => (Run.addPut_ok reads.plain.2 goes).2) adds goes
    refine ⟨after, fun m ch hm inside => (codes (m, ch) ⟨hm, inside⟩).trans ?_⟩
    have isRow := dstSized.row_isRow m
    rw [filter_slicePairs alike sized isRow hi (groups ▸ TD.cg_lt inside), named]
    simp only [Nat.cast_inj]
    split
    next => simp [(sized.row_of (isRow.set alike.rank.symm one alike.sizes hi)).1]
    next => rfl

/-- Every element of the destination comes to what it held, combined with each source element whose index names its slice in turn. -/
theorem Run.Adds.scatterAdd (goes : (r.scatterAdd (linear src) (linear dst) dim op grad targets).ok = true) :
    (r.scatterAdd (linear src) (linear dst) dim op grad targets).Adds a die ctx dst kd ∧ ∀ m ch, m < dst.rows → ch < dst.size 0 →
      (r.scatterAdd (linear src) (linear dst) dim op grad targets).codeOf dst kd (dst.row m) ch =
        (a.hits src idx ki dim (dst.row m)).foldl (fun old i => combine op dst.elem grad old (a.elemAt src ks ((dst.row m).set (dim - 1) i) ch))
          (r.codeOf dst kd (dst.row m) ch) := by
  rw [Run.scatterAdd_linear] at goes ⊢
  obtain ⟨after, codes⟩ := Run.foldl_codes (good := Run.Adds a die ctx dst kd) (slot := fun s : Nat × Nat => s.1 < dst.rows ∧ s.2 < dst.size 0)
    (code := fun r s => r.codeOf dst kd (dst.row s.1) s.2) (hit := fun i s => decide (a.namedAt idx ki i = (dst.row s.1).getD (dim - 1) 0))
    (change := fun i s old => combine op dst.elem grad old (a.elemAt src ks ((dst.row s.1).set (dim - 1) i) s.2))
    (fun r i mem adds goes => by
      obtain ⟨after, each⟩ := adds.addSlice slices alike reads writes apart clear hbm takes (List.mem_range.1 mem) goes
      refine ⟨after, fun s here => (each s.1 s.2 here.1 here.2).trans ?_⟩
      simp only [decide_eq_true_eq])
    (fun _ _ => Run.addSlice_ok) adds goes
  exact ⟨after, fun m ch hm inside => codes (m, ch) ⟨hm, inside⟩⟩

end

end

end Sys2Proof.Machine
end

section
/-! PROOFS. What the movers leave in memory (04 R112-R121; 08 R219). -/

namespace Sys2Proof.Machine

section
variable {h a b : Hw} {ring die ctx : Nat} {i : W32} {c : Cmd} {env : Env} {po : Bool} {src dst idx : TD} {ks kd ki : List Nat → Nat → Nat} {r : Run}
  {code : List Nat → Nat → Nat}

/-! ## The runs of SCATTER -/

/-- What a STORE's destination element holds. -/
def Hw.stored (a : Hw) (src dst idx : TD) (ks kd ki : List Nat → Nat → Nat) (dim : Nat) (row : List Nat) (ch : Nat) : Nat :=
  match (a.hits src idx ki dim row).getLast? with
  | some i => a.elemAt src ks (row.set (dim - 1) i) ch
  | none => a.elemAt dst kd row ch

/-- What the destination element of an ADD, MAX or MIN holds. -/
def Hw.combined (a : Hw) (src dst idx : TD) (ks kd ki : List Nat → Nat → Nat) (dim op : Nat) (grad : Bool) (row : List Nat) (ch : Nat) : Nat :=
  (a.hits src idx ki dim row).foldl (fun old i => combine op dst.elem grad old (a.elemAt src ks (row.set (dim - 1) i) ch)) (a.elemAt dst kd row ch)

theorem Run.scatterStore_ok {dim : Nat} {targets : List (Option Nat)} {padw : Bool} (plain : src.scaleFmt = 0)
    (goes : (r.scatterStore (linear src) (linear dst) dim targets padw).ok = true) : r.ok = true := by
  rw [Run.scatterStore_linear] at goes
  have padded := Run.foldl_ok goes fun _ _ => Run.scatterPut_ok plain
  split at padded
  · exact padded
  · exact Run.foldl_ok padded fun _ _ => Run.scatterPad_ok

/-- A SCATTER stores or adds after it has read where its slices go. -/
theorem Hw.scatterRun_begins (source : slotTd c.tds 0 = some src) (target : slotTd c.tds 1 = some dst) (index : slotTd c.tds 2 = some idx)
    (plain : src.owned = false ∧ dst.owned = false) (ints : idx.elem = 6) (line : idx.rank = 1) (count : src.size (c.f 0x30 1) = idx.size 0)
    (lists : h.Lies c.onDie (h.ring ring).ctx false idx fixed ki) (wf : Memory.wf h.mem = true) (empty : (h.die c.onDie).rcLines = [])
    (clean : (h.scatterRun ring c env).2 = false) :
    ∃ (r : Run) (targets : List (Option Nat)),
      (r.ok = true → r.Moves h c.onDie (h.ring ring).ctx dst kd ∧ r.Adds h c.onDie (h.ring ring).ctx dst kd ∧
        ∀ i, i < src.size (c.f 0x30 1) → targets.getD i none = h.sliceOf idx ki (dst.size (c.f 0x30 1)) i) ∧
      (h.scatterRun ring c env).1 = if c.f 0x32 1 = 0 then r.scatterStore (linear src) (linear dst) (c.f 0x30 1) targets ((c.f 0x31 1).testBit 0)
        else r.scatterAdd (linear src) (linear dst) (c.f 0x30 1) (c.f 0x32 1) ((c.f 0x31 1).testBit 1) targets := by
  obtain ⟨poison, n, run⟩ := Hw.scatterRun_linear (h := h) (ring := ring) (env := env) source target index plain
  refine ⟨_, _, fun ok => ?_, run⟩
  obtain ⟨leads, values⟩ := (Hw.moveRun_moves (dst := dst) (kd := kd) empty).indices lists ints line ok
  have moves := ((Hw.moveRun_moves (dst := dst) (kd := kd) empty).read leads).ranged n
  refine ⟨moves, ⟨moves.on, leads.bytes, ?_, fun x _ => ?_⟩, fun i inside => slices_getD values (poison ▸ clean) (count ▸ inside)⟩
  · rw [moves.mem]
    exact wf
  · rw [moves.mem]

section
variable (source : slotTd c.tds 0 = some src) (target : slotTd c.tds 1 = some dst) (index : slotTd c.tds 2 = some idx)
  (ints : idx.elem = 6) (line : idx.rank = 1) (alike : Alike src dst (c.f 0x30 1)) (count : src.size (c.f 0x30 1) = idx.size 0)
  (lists : h.Lies c.onDie (h.ring ring).ctx false idx fixed ki) (apart : dst.apart kd) (wf : Memory.wf h.mem = true)
  (empty : (h.die c.onDie).rcLines = []) (clean : (h.scatterRun ring c env).2 = false) (goes : (h.scatterRun ring c env).1.ok = true)
include source target index ints line alike count lists apart wf empty clean goes

theorem Hw.scatterRun_stores (zero : c.f 0x32 1 = 0) (reads : h.Lies c.onDie (h.ring ring).ctx false src fixed ks)
    (writes : h.Lies c.onDie (h.ring ring).ctx true dst fixed kd) :
    (h.scatterRun ring c env).1.Moves h c.onDie (h.ring ring).ctx dst kd ∧ ∀ m ch, m < dst.rows → ch < dst.size 0 →
      (h.scatterRun ring c env).1.codeOf dst kd (dst.row m) ch = h.stored src dst idx ks kd ki (c.f 0x30 1) (dst.row m) ch := by
  obtain ⟨r, targets, begins, run⟩ := Hw.scatterRun_begins (kd := kd) source target index ⟨reads.plain.1, writes.plain.1⟩ ints line count lists wf
    empty clean
  rw [run, if_pos zero] at goes ⊢
  obtain ⟨moves, adds, slices⟩ := begins (Run.scatterStore_ok reads.plain.2 goes)
  obtain ⟨after, codes⟩ := moves.scatterStore slices alike writes apart reads goes
  refine ⟨after, fun m ch hm inside => (codes m ch hm inside).trans ?_⟩
  have held : r.codeOf dst kd (dst.row m) ch = h.elemAt dst kd (dst.row m) ch := by
    rw [adds.codeOf, Hw.elemAt, Hw.memRead, moves.mem]
    rfl
  rw [held]
  rfl

theorem Hw.scatterRun_adds (takes : adderTakes (c.f 0x32 1) dst.elem = true)
    (reads : h.Lies c.onDie (h.ring ring).ctx false src (dst.covers kd) ks) (writes : h.Lies c.onDie (h.ring ring).ctx true dst (dst.covers kd) kd)
    (clear : ∀ x, src.covers ks x → ¬ dst.covers kd x) (hbm : ∀ x, dst.covers kd x → keySpace x = 0) :
    (h.scatterRun ring c env).1.Adds h c.onDie (h.ring ring).ctx dst kd ∧ ∀ m ch, m < dst.rows → ch < dst.size 0 →
      (h.scatterRun ring c env).1.codeOf dst kd (dst.row m) ch =
        h.combined src dst idx ks kd ki (c.f 0x30 1) (c.f 0x32 1) ((c.f 0x31 1).testBit 1) (dst.row m) ch := by
  have adds : c.f 0x32 1 ≠ 0 := fun store => by simp [adderTakes, store] at takes
  obtain ⟨r, targets, begins, run⟩ := Hw.scatterRun_begins (kd := kd) source target index ⟨reads.plain.1, writes.plain.1⟩ ints line count lists wf
    empty clean
  rw [run, if_neg adds] at goes ⊢
  have started : r.ok = true := by
    rw [Run.scatterAdd_linear] at goes
    exact Run.foldl_ok goes fun _ _ => Run.addSlice_ok
  obtain ⟨moves, adds, slices⟩ := begins started
  obtain ⟨after, codes⟩ := adds.scatterAdd slices alike reads writes apart clear hbm takes goes
  refine ⟨after, fun m ch hm inside => (codes m ch hm inside).trans ?_⟩
  rw [adds.codeOf, Hw.elemAt, Hw.memRead, moves.mem]
  rfl

end

/-! ## The ends -/

theorem Run.Moves.holds (moves : r.Moves a die ctx dst kd) (wf : Memory.wf a.mem = true) (goes : r.Goes)
    (codes : ∀ m ch, m < dst.rows → ch < dst.size 0 → r.codeOf dst kd (dst.row m) ch = code (dst.row m) ch) :
    a.HoldsCodes (h.endRun ring i r po) dst kd code :=
  Hw.endRun_holds (moves.mem ▸ wf) goes moves.beside codes

theorem Run.Adds.holds (adds : r.Adds a die ctx dst kd) (goes : r.Goes)
    (codes : ∀ m ch, m < dst.rows → ch < dst.size 0 → r.codeOf dst kd (dst.row m) ch = code (dst.row m) ch) :
    a.HoldsCodes (h.endRun ring i r po) dst kd code :=
  Hw.endRun_holds adds.wf goes (fun x none => (adds.byte x).trans (adds.beside x none)) codes

end

theorem moversWriteElements : Claims.MoversWriteElements := by
  intro ring index env s c src dst idx ks kd ki die lies fixed inDst dim op fill named alike holds goes wf empty apart
  refine ⟨fun perm permutes source target reads writes elem rank fits engaged going => ?_, fun target writes engaged going => ?_,
    fun source target indices ints line one outer like lists => ⟨fun engaged count reads writes going => ?_, fun engaged count going clean =>
      ⟨fun zero reads writes => ?_, fun takes reads writes clear hbm => ?_⟩⟩⟩
  · subst permutes
    obtain ⟨moves, codes⟩ := Hw.copyRun_codes source target reads writes apart elem rank fits empty (Run.ok_of_goes going.1 going.2)
    exact ⟨_, exec_copy env engaged, moves.holds wf going.1 codes⟩
  · obtain ⟨moves, codes⟩ := Hw.fillRun_codes target writes apart empty (Run.ok_of_goes going.1 going.2)
    exact ⟨_, exec_fill env engaged, moves.holds (code := fun _ _ => fill (c.f 0x20 2)) wf going.1 codes⟩
  · obtain ⟨moves, codes⟩ := Hw.gatherRun_codes source target indices ints line ⟨⟨one, outer⟩, like.1, like.2.1, like.2.2⟩ count lists reads writes
      apart empty (Run.ok_of_goes going.1 going.2)
    exact ⟨_, exec_gather env engaged, moves.holds wf going.1 codes⟩
  · obtain ⟨moves, codes⟩ := Hw.scatterRun_stores source target indices ints line ⟨⟨one, outer⟩, like.1, like.2.1, like.2.2⟩ count lists apart wf
      empty clean (Run.ok_of_goes going.1 going.2) zero reads writes
    exact ⟨_, exec_scatter env engaged, moves.holds wf going.1 codes⟩
  · obtain ⟨adds, codes⟩ := Hw.scatterRun_adds source target indices ints line ⟨⟨one, outer⟩, like.1, like.2.1, like.2.2⟩ count lists apart wf
      empty clean (Run.ok_of_goes going.1 going.2) takes reads writes clear hbm
    exact ⟨_, exec_scatter env engaged, adds.holds going.1 codes⟩

end Sys2Proof.Machine

namespace Sys2Proof
open Machine

/-- Settles O20: each mover ends with its run, and the run's loop over rows and channel groups is followed element by element: what one step
writes, that it leaves every other element, and which steps reach an element. -/
theorem moversEndWithTheirRun : Obligations.MoversEndWithTheirRun := ⟨moversEnd, moversWriteElements⟩

end Sys2Proof
end
